-- ==== Sys2Proof/Word.lean ====
section
/-! DEFINITION. The word types of the model, and the type of sparse tables.

Register contents, addresses and bitmaps are bit vectors; counts, indices and times are natural numbers.
A `Tab α` holds what a numbered set of things (registers, slots, lines) holds: a list of index and value,
indices strictly rising, an index that is absent standing for the reset value its reader names. -/

namespace Sys2Proof

/-- 32-bit register word. -/
abbrev Word := BitVec 32
/-- 64-bit register word. -/
abbrev DWord := BitVec 64
/-- A byte. -/
abbrev Byte := BitVec 8
/-- A sparse table: indices strictly rising. -/
abbrev Tab (α : Type) := List (Nat × α)

end Sys2Proof
end

