-- ==== Sys2Proof/Syntax.lean ====
section
/-! DEFINITION. The commands of the block and their operand types.

A command is what the outside brings: a register write, a host access, a pin, a message, or an event of one of the
device's own engines whose moment the spec leaves to time. Operands carry what the event says and the state cannot
know: pin levels, conversion codes, message fields, bytes that lie in host memory. Packet commands name the queue; the
packet's bytes are in the queue's fetch buffer. Gangs are named `core × 64 + quarter × 16 + slot`. -/

namespace Sys2Proof

/-- A command queue: an admin queue, a queue of a partition, or a worker's forward queue (R132, R388). -/
inductive QueueId where
  | admin (a : Nat)
  | part (p k : Nat)
  | fwd (k : Nat)
  deriving DecidableEq, Repr

/-- What the ROM reads of a pilot image (Table 2-3), with the outcome of the digests and the signature. -/
structure ImageInfo where
  /-- The source answered and was read without error (R34 reason 6, R36). -/
  readable : Bool
  magic : Word
  hdrVer : Word
  bodyLen : Nat
  svn : Word
  version : Word
  /-- The reserved bytes are zero. -/
  reservedZero : Bool
  /-- SHA-384 of the public key equals the fuse block's key hash. -/
  keyOk : Bool
  sigOk : Bool
  digestOk : Bool
  /-- SHA-384 of the body. -/
  digest : BitVec 384
  deriving DecidableEq, Repr

/-- What a GET_MEASUREMENTS asks for: how many there are, one index, or all the transport may see (R433). -/
inductive MeasReq where
  | count
  | index (n : Nat)
  | all
  deriving DecidableEq, Repr

/-- An IDE_KM message (R430, R487). Stream 0 is the link stream, 1 + f the selective stream of function f (Table 3-1). -/
inductive IdeKm where
  | query
  | keyProg (stream : Nat)
  | setGo (stream : Nat)
  | setStop (stream : Nat)
  deriving DecidableEq, Repr

/-- An MCTP packet as it arrives (R481, R492): binding 0 SMBus, 1 PCIe VDM. -/
structure MctpPacket where
  binding : Nat
  source : Nat
  som : Bool
  eom : Bool
  seq : Nat
  payload : List Byte
  /-- The PEC of the SMBus transaction matches (R479). -/
  pecOk : Bool
  deriving DecidableEq, Repr

/-- Errors that a memory's code shows as the command reads it: the 64 B unit (DPA ÷ 64), and whether the error is
uncorrectable (R284, R315, R316, R439). A unit that the command does not read shows none. -/
abbrev EccErrs := List (Nat × Bool)

/-- A BAR2 access; a read meets the errors of what it reads. -/
inductive Bar2Acc where
  | read (len : Nat) (ecc : EccErrs)
  | write (bytes : List Byte)
  deriving DecidableEq, Repr

/-- What `st` stores of each lane: the bytes of an access, and the errors of the units it stores to (R439). -/
structure StoreAcc where
  len : Nat
  ecc : EccErrs
  deriving DecidableEq, Repr

/-- What an access to memory brings back: the host refused the translation (R292), or the bytes of a read of host memory, a
byte of a poisoned response being absent; and the errors that device memory shows. -/
structure HostMem where
  refused : Bool
  bytes : List (Option Byte)
  ecc : EccErrs := []
  deriving DecidableEq, Repr

/-- An error that a home or an L2 finds at a request (R319, R439, R442): none; in the line's directory entry; in the L2 copy of
the requesting die; in memory. -/
inductive HomeErr where
  | ok
  | dir
  | l2 (uncorrectable : Bool)
  | mem (ecc : EccErrs)
  deriving DecidableEq, Repr

/-- What comes with a request to a home: the L2 way that a fill takes (R299), the data of a host's writeback, and an error that
is found. -/
structure HomeBody where
  way : Nat
  data : List Byte
  err : HomeErr
  deriving DecidableEq, Repr

/-- The combining buffer that drains: its core, and which 64 B units of its oldest entry show an uncorrectable error (R311,
R439). -/
structure DrainUnit where
  core : Nat
  bad : Byte
  deriving DecidableEq, Repr

/-- A fleet message (Table 16-1): its header fields and its body. -/
structure FleetMsg where
  cls : Nat
  sub : Nat
  src : Nat
  dst : Nat
  hops : Nat
  epoch : Nat
  msgId : DWord
  body : List Byte
  /-- R66: of a STATUS or read data, the partition of the request that it answers, where one is concerned. -/
  forPart : Option Nat := none
  deriving DecidableEq, Repr

/-- What one sequenced flit carries: piece `idx` of `cnt` of a fleet message, in a credit pool (R57, Table 3-6). -/
structure HwsPayload where
  pool : Nat
  idx : Nat
  cnt : Nat
  msg : FleetMsg
  deriving DecidableEq, Repr

/-- A flit as it is received: what its FEC codewords and CRC showed, its header (Table 3-4), and its payload; an idle flit
has none. -/
structure HwsFlit where
  fecCorrected : Bool
  fecBad : Bool
  crcOk : Bool
  seq : BitVec 12
  ack : BitVec 12
  nak : Bool
  crPool : Nat
  crCount : Nat
  body : Option HwsPayload
  deriving DecidableEq, Repr

/-- The classes of a Hawser credit grant (Table 3-7a, magic 0x4D). -/
structure CreditGrant where
  strict : Word
  ctrl : Nat
  sync : Nat
  req : Nat
  rsp : Nat
  deriving DecidableEq, Repr

/-- A HAIL record (Table 3-7): its fields, and whether the reserved bytes are zero. -/
structure HailRec where
  magic : Byte
  version : Byte
  role : Byte
  port : Byte
  serial : DWord
  fleetId : Word
  session : BitVec 16
  caps : BitVec 16
  proto : BitVec 16
  reservedZero : Bool
  deriving DecidableEq, Repr

/-- A coefficient request record (Table 3-7a, magic 0x45). -/
structure CoeffReq where
  lane : Nat
  req : Nat
  tap : Nat
  preset : Nat
  resp : Nat
  status : Nat
  ber : BitVec 16
  deriving DecidableEq, Repr

/-- A lane mask record (Table 3-7a, magic 0x44). -/
structure LaneMask where
  rxMask : BitVec 8
  groups : BitVec 2
  cwLock : BitVec 2
  deriving DecidableEq, Repr

/-- What the own receiver found of its lanes in DESKEW (R60): codeword lock by group, and the skew between lanes in ns. -/
structure DeskewState where
  lock : BitVec 2
  skew : Nat
  deriving DecidableEq, Repr

/-- Where a register access goes: PF BAR0, the BAR0 of VF n, or the MSI-X message control in the configuration space of a
function, 0 the PF and n + 1 VF n (R468, R471, R475). -/
inductive RegSpace where
  | pf
  | vf (n : Nat)
  | msixCtl (fn : Nat)
  deriving DecidableEq, Repr

/-- What a PMBus transaction with a core regulator brings (R108, R129): whether VOUT_MODE reports ULINEAR16; READ_VOUT in mV,
within the 1 ms in which the supply must settle. -/
inductive PmbAnswer where
  | mode (ulinear16 : Bool)
  | vout (mv : Nat)
  deriving DecidableEq, Repr

/-- The outcomes of stages 10 and 11 that a wake from DEEP repeats in full (R131): dies whose PLL did not lock, cores and
dies that fail BIST, stacks that fail training. -/
structure Retrain where
  pllFail : BitVec 8
  badCores : List Nat
  badUncore : BitVec 8
  hbmFail : BitVec 8
  deriving DecidableEq, Repr

/-- Kinds of coherence request (Table 12-7). -/
inductive ReqKind where
  | readShared | readOwn | upgrade | writeBack | evict
  deriving DecidableEq, Repr

/-- Vector arithmetic (R257; Table 9-3 names `add` and `fma` as examples, log 50). -/
inductive VecOp where
  | add | sub | mul | fma
  deriving DecidableEq, Repr

/-- Special functions (Table 10-5). -/
inductive SfuFn where
  | rcp | rsqrt | sqrt | exp2 | log2 | sin | cos
  deriving DecidableEq, Repr

/-- Rounding modes of an instruction (R247). -/
inductive RMode where
  | even | zero | stoch
  deriving DecidableEq, Repr

/-- Atomic operations on a cluster word (R223; log 50). -/
inductive AtomOp where
  | add | min | max | and | or | xor | exch | cas
  deriving DecidableEq, Repr

/-- Types of `mem.add` and `dfr.add` (R356). -/
inductive AddTy where
  | u32 | s32 | u64 | s64 | f32
  deriving DecidableEq, Repr

/-- Where `ld.tile` puts what it loads: a `v` register, or local memory at the offsets that a `v` register holds (R295). -/
inductive TileDst where
  | reg (r : Nat)
  | loc (r : Nat)
  deriving DecidableEq, Repr

/-- The commands: one constructor for each row of the spec's table of operations and events, its operands what the
outside brings with the event. -/
inductive Instr where
  /-- VDD_AO_POR_RELEASE (R24). VDD_AO has been at or above 0.68 V for 200 µs, so the always-on domain leaves reset, loads its oscillator trim and starts harbour time at zero. -/
  | vddAoPorRelease
  /-- VDD_AO_DROP (R24). VDD_AO stays below 0.65 V for 1 µs or longer, which asserts the always-on power-on reset. -/
  | vddAoDrop
  /-- TW_ROM_CHECK_DONE (R25). The Tidewatch ROM CRC check completes; it is retried once on failure and halts the boot with 0x0301 on a second failure. -/
  | twRomCheckDone (pass : Bool)
  /-- ROLE_SEL_SAMPLE (R26). A ROLE_SEL[1:0] sample is taken; samples are taken 1 ms apart in triples, with a 10 ms gap before a repeated triple. -/
  | roleSelSample (v : BitVec 2)
  /-- STAGE5_RAIL_PASS (R32). A direct stage-5 pass over the 15 main-rail positions ends; stage 5 completes if every position is in its window, and otherwise a new pass starts 100 µs after this one began. -/
  | stage5RailPass (means : List (BitVec 16))
  /-- BOOT_STAGE_TIMEOUT (R31). A boot stage exceeds its time limit and fails with that stage's failure code. -/
  | bootStageTimeout (mask : Word)
  /-- PERST_N_ASSERT (R28). A PERST_N assertion of 10 µs or longer is accepted as a warm reset that restarts the boot at stage 5. -/
  | perstNAssert (ns : Nat) (accept : Bool)
  /-- PERST_N_RELEASE (R29). PERST_N is released: the hub leaves reset, host link training starts, and the stage-5 rail check begins. -/
  | perstNRelease (sel : BitVec 2)
  /-- HOST_LINK_RESET (R41). A PCIe hot reset or a link-down reset causes a warm reset. -/
  | hostLinkReset
  /-- PF_FLR (R41). An FLR on the physical function restarts the boot at stage 7 and keeps the host link trained. -/
  | pfFlr
  /-- VF_FLR (R41). An FLR on a virtual function ends the partition's contexts and abandons its OWNED semaphores, leaving everything outside the partition intact. -/
  | vfFlr (n : Nat) (rng : Bool)
  /-- PILOT_WATCHDOG_EXPIRY (R43). The pilot has not serviced the hub watchdog for 100 ms, so the hub performs a PF FLR and logs the expiry. -/
  | pilotWatchdogExpiry
  /-- HUB_PLL_LOCK (R38). The hub PLL locks to SYS_REFCLK, and the hub ROM starts stage 7. -/
  | hubPllLock
  /-- HUB_PLL_LOCK_TIMEOUT (R38). The hub PLL has not locked within 1 ms, so hub hardware halts the boot with 0x0703 HUB_CLOCK. -/
  | hubPllLockTimeout
  /-- IMAGE_VERIFY_DONE (R34). The hub ROM finishes verifying a pilot image source and either starts the pilot or moves to the next source. -/
  | imageVerifyDone (img : ImageInfo)
  /-- PILOT_CHECK_IN (R31). The started pilot checks in with the ROM, which completes stage 8. -/
  | pilotCheckIn
  /-- PILOT_START_TIMEOUT (R40). The pilot does not check in within 20 ms, so 0x0801 is recorded and the next image source is tried. -/
  | pilotStartTimeout
  /-- FENCE_MAP_LOAD (R31). Stage 9 loads the fence map and applies the recorded lay-ups. -/
  | fenceMapLoad
  /-- BIST_COMPLETE (R40). Stage 10 completes PLL lock and BIST, laying up failing cores or marking failing dies' slices unavailable. -/
  | bistComplete (pllFail : BitVec 8) (badCores : List Nat) (badUncore : BitVec 8)
  /-- HBM_TRAIN_COMPLETE (R40). Stage 11 completes HBM initialisation and training; a stack that fails makes its die's slices unavailable. -/
  | hbmTrainComplete (failed : BitVec 8)
  /-- HOST_LINK_TRAINED (R29). Hub hardware completes host link training, and configuration space answers. -/
  | hostLinkTrained (width : Nat) (rate : Nat) (flit256 : Bool)
  /-- HOST_LINK_STAGE_DONE (R51). The pilot completes stage 12: it programs the HDM decoders, sets Memory_Active, enables CXL if the link qualifies and readies the VFs. -/
  | hostLinkStageDone
  /-- FLEET_HAIL_QUIET (R31). A manager whose expected worker count is zero has heard no new hail for 100 ms, which completes stage 14. -/
  | fleetHailQuiet
  /-- MBOX_NOP (R50). The mailbox NOP command completes OK. -/
  | mboxNop (compl : Byte)
  /-- MBOX_LOAD_IMAGE (R37). In a 0x0702 halt, the image is copied from host memory, verified and run from stage 8 with SOURCE 0b11. -/
  | mboxLoadImage (compl : Byte) (img : ImageInfo)
  /-- MBOX_REBOOT (R41). The mailbox REBOOT command performs a PF FLR that restarts the boot at stage 7. -/
  | mboxReboot (compl : Byte)
  /-- MBOX_CONFIRM (R35). CONFIRM makes the trial slot active, sets the trial state to NONE and raises the fuse minimum SVN if needed. -/
  | mboxConfirm (compl : Byte)
  /-- VF_ENABLE (R56). A VF Enable write takes effect, deferred to READY if it arrives earlier. -/
  | vfEnable (on : Bool)
  /-- HOST_BAR2_ACCESS (R287). A host read or write through BAR2 reaches device memory, subject to the breakwater. -/
  | hostBar2Access (off : Nat) (acc : Bar2Acc)
  /-- HOST_CXL_MEM_REQUEST (R305). A host CXL.mem read, or read for ownership, is handled at the home node. -/
  | hostCxlMemRequest (dpa : Nat) (own : Bool)
  /-- HOST_L12_EXIT (R14). A host-initiated exit from L1.2 causes a PCIe wake. -/
  | hostL12Exit
  /-- D3HOT_REQUEST (R52). D3hot set by the driver is treated as a request for device SLEEP. -/
  | d3hotRequest
  /-- BAR2_RESIZE (R472). A Resizable BAR write changes BAR2's size, taking effect only while memory decoding is disabled. -/
  | bar2Resize (log : Nat) (decoding : Bool)
  /-- ATS_INVALIDATE (R292). A host ATS invalidation request is answered after the translation caches and near caches have dropped the translation. -/
  | atsInvalidate (bus : Nat) (len : Nat) (pasid : Option Nat)
  /-- HOST_SNOOP (R306). A host CXL.cache snoop is answered once every affected device copy has been dropped or downgraded after its tenure. -/
  | hostSnoop (line : Nat) (inval : Bool)
  /-- PTM_DIALOGUE (R103). At a PCIe PTM dialogue, the host master time and the device harbour time are recorded. -/
  | ptmDialogue (master : DWord)
  /-- HWS_FLIT_RECEIVE (R58). A Hawser flit is received: it is checked, delivered or discarded, and its ACK_SEQ, NAK and credit return are applied. -/
  | hwsFlitReceive (p : Nat) (f : HwsFlit)
  /-- HWS_REPLAY_TIMEOUT (R58). No ACK_SEQ advance for 4 µs while flits are held makes the sender resend them. -/
  | hwsReplayTimeout (p : Nat)
  /-- HWS_REPLAY_LIMIT (R59). The same oldest flit has been resent 4 times without an ACK_SEQ advance, so the port enters recovery retraining. -/
  | hwsReplayLimit (p : Nat)
  /-- HWS_SIGNAL_LOSS (R67). Loss of signal or lock on an active lane starts recovery retraining. -/
  | hwsSignalLoss (p : Nat)
  /-- HWS_FEC_ERROR_BURST (R67). More than 10 uncorrectable codewords in 1 ms start recovery retraining. -/
  | hwsFecErrorBurst (p : Nat)
  /-- HWS_DETECT_ENERGY (R60). Signal energy is found on all four lanes of at least one group in DETECT, and the port moves to LOCK. -/
  | hwsDetectEnergy (p : Nat) (lanes : BitVec 8)
  /-- HWS_SYMBOL_LOCK (R60). Clock and symbol lock are reached on every unfailed lane of a whole group in LOCK, and the port moves to EQUALIZE. -/
  | hwsSymbolLock (p : Nat) (lanes : BitVec 8)
  /-- HWS_COEFF_REQUEST_RECEIVE (R65). An EQUALIZE coefficient request record is received and applied to the transmitter's FFE. -/
  | hwsCoeffRequestReceive (p : Nat) (r : CoeffReq) (ber : List Word) (failed : BitVec 8)
  /-- HWS_LANE_MASK_RECEIVE (R65). A DESKEW lane mask record is received, which settles the port's groups and its codeword lock. -/
  | hwsLaneMaskReceive (p : Nat) (r : LaneMask) (own : DeskewState)
  /-- HWS_HAIL_RECEIVE (R64). A peer HAIL record is received and checked for version, loopback, role clash and fleet mismatch. -/
  | hwsHailReceive (p : Nat) (r : HailRec)
  /-- HWS_CREDIT_GRANT_RECEIVE (R66). A MOOR credit grant record is received and checked against the ranges of Table 3-6. -/
  | hwsCreditGrantReceive (p : Nat) (c : CreditGrant)
  /-- HWS_GRANT_ACK_RECEIVE (R65). A grant acknowledgement is received; when it matches the end's own grant, MOOR succeeds and the port is ACTIVE. -/
  | hwsGrantAckReceive (p : Nat) (c : CreditGrant)
  /-- HWS_REJECTION_RECEIVE (R65). A rejection record is received, and the port enters DOWN with the named reason. -/
  | hwsRejectionReceive (p : Nat) (reason : Nat)
  /-- HWS_RECORD_REPEAT (R65). The 2 µs repeat interval expires, and the end sends its current training record again. -/
  | hwsRecordRepeat (p : Nat)
  /-- HWS_STATE_TIMEOUT (R60). A training or recovery state reaches its timeout without its success exit, which fails the attempt. -/
  | hwsStateTimeout (p : Nat)
  /-- HWS_ATTEMPT_GAP_EXPIRY (R62). The 1 ms gap after a failed attempt ends, and a new attempt starts in DETECT. -/
  | hwsAttemptGapExpiry (p : Nat)
  /-- HWS_SERIES_TIMEOUT (R62). A series reaches 560 ms without ACTIVE, so the attempt in progress is abandoned and the port enters DOWN with ATTEMPTS. -/
  | hwsSeriesTimeout (p : Nat)
  /-- HWS_PEER_DETECT_PATTERN (R70). The peer's detect pattern is seen in a state from LOCK to MOOR, so the end abandons its attempt and re-enters DETECT at once. -/
  | hwsPeerDetectPattern (p : Nat)
  /-- HWS_DOWN_SIGNAL_SENSE (R63). A DOWN port senses energy on one group for 1 ms and starts a fresh series of attempts. -/
  | hwsDownSignalSense (p : Nat)
  /-- HWS_RETRAIN (R63). A write of RETRAIN abandons the current attempt or link state and starts a fresh series in DETECT. -/
  | hwsRetrain (p : Nat) (v : Word)
  /-- HWS_LPI_ENTRY (R67). Both ends have sent only idle flits for 100 µs, so the port enters low-power idle. -/
  | hwsLpiEntry (p : Nat)
  /-- HWS_LPI_EXIT (R14). A flit to send, or the peer's exit, brings the port out of low-power idle within 20 µs, which is a Hawser hail. -/
  | hwsLpiExit (p : Nat)
  /-- ADC_CONVERSION_DONE (R72). A Tidewatch conversion completes and is discarded as settling, fed to the step's filter, or delivered as clipped. -/
  | adcConversionDone (code : Nat)
  /-- SAFETY_SCAN (R75). The 1 ms safety scan converts the die sensors, the bandgap and ground, and feeds the thermal ladder and self-checks. -/
  | safetyScan (temps : List (Option (BitVec 16))) (vref : Nat) (gnd : Nat)
  /-- SEQUENCE_RUN_START (R77). A triggered scan sequence begins its run once no other sequence is running. -/
  | sequenceRunStart
  /-- SEQ_START_WRITE (R76). A START write triggers a scan sequence. -/
  | seqStartWrite (n : Nat) (v : Word)
  /-- TW_TIMER_EXPIRY (R85). A Tidewatch timer expires and delivers a trigger to its consumers. -/
  | twTimerExpiry (t : Nat)
  /-- DIGITAL_INPUT_ACCEPT (R84). A digital input level has been stable for its deglitch time and is accepted; the edge is timestamped. -/
  | digitalInputAccept (inp : Nat) (level : Bool) (ns : Nat)
  /-- PPS_LOST (R102). No PPS edge has arrived for 1.5 s, so the discipline enters HOLDOVER and PPS_LOST is set. -/
  | ppsLost
  /-- CHANNEL_STALE (R82). A channel has had no valid output for STALE_MS, becomes stale and pushes one stale record. -/
  | channelStale (ch : Nat)
  /-- WATCH_BOUNDARY (R88). At a watch-period boundary, Tidewatch evaluates its 64 rules in ascending order. -/
  | watchBoundary
  /-- TIME_OUT_SECOND (R103). Each whole second of harbour time raises TIME_OUT for TIME_OUT_W ms. -/
  | timeOutSecond
  /-- TIME_SET (R101). A TIME_CTRL.SET write loads TIME_SET at the next AO tick, or at the next accepted PPS edge. -/
  | timeSet (v : Word)
  /-- TW_SAMPLE_POP (R83). A read of TW_SAMPLE_POP pops one sample record, or returns all ones when the FIFO is empty. -/
  | twSamplePop
  /-- TW_TRIG_POP (R87). A read of TW_TRIG_POP pops one trigger entry and latches its time in TW_TRIG_TIME. -/
  | twTrigPop
  /-- TW_RULE_WRITE (R91). A rule register write is checked for a legal source and condition, is refused otherwise, and re-arms the rule. -/
  | twRuleWrite (n : Nat) (reg : Nat) (v : Word)
  /-- TW_THERM_LIM_WRITE (R96). A thermal limit write is refused if it exceeds the reset values, goes below 50 °C or breaks the order. -/
  | twThermLimWrite (v : Word)
  /-- TW_STEP_WRITE (R80). A scan step write clears the step's filter state from the next run. -/
  | twStepWrite (n : Nat) (k : Nat) (v : Word)
  /-- TW_WATCH_WRITE (R88). A write of TW_WATCH sets the watch period and restarts the boundary count. -/
  | twWatchWrite (v : Word)
  /-- TRIP_CLEAR (R95). A write of 1 to TRIPPED clears it when every die is below THROTTLE, and the pilot restarts the compute dies within 1 ms. -/
  | tripClear
  /-- HARD_CUT (R511). The analog comparator sees 118 °C and asserts PWR_CUT_N with the trip effects. -/
  | hardCut (die : Nat)
  /-- IDLE_DWELL_EXPIRY (R11). The idle conditions have held for the whole idle dwell, so the pilot hands the device to Tidewatch. -/
  | idleDwellExpiry
  /-- SLEEP_PENDING_ENTRY (R123). A pending device SLEEP order enters SLEEP as soon as the idle conditions hold. -/
  | sleepPendingEntry
  /-- DEVICE_AWAKE (R14). A device wake from SLEEP completes, and the device is AWAKE. -/
  | deviceAwake (us : Nat) (failed : BitVec 8)
  /-- DEEP_WAKE_DONE (R122). A wake from DEEP completes by restoring the saved training and retraining the host link. -/
  | deepWakeDone (full : Option Retrain)
  /-- HBM_SR_EXIT_RETRY (R447). A failed HBM self-refresh exit is retried after 1 ms, up to twice. -/
  | hbmSrExitRetry (failed : BitVec 8)
  /-- SLICE_DOZE_DWELL_EXPIRY (R114). All enabled cores of a slice have dozed for PWR_DOZE_DWELL fast cycles, so the slice enters DOZE. -/
  | sliceDozeDwellExpiry (n : Nat)
  /-- SLICE_NAP_DWELL_EXPIRY (R114). A slice in DOZE with no work for PWR_NAP_DWELL enters NAP when FLOOR permits. -/
  | sliceNapDwellExpiry (n : Nat)
  /-- SLICE_OFF_DWELL_EXPIRY (R114). A slice in NAP for PWR_OFF_DWELL writes back its L2 and enters OFF when FLOOR permits. -/
  | sliceOffDwellExpiry (n : Nat)
  /-- SLICE_WAKE_DONE (R114). A slice completes its move from DOZE, NAP or OFF to RUN. -/
  | sliceWakeDone (n : Nat)
  /-- PREWAKE_LAPSE (R17). A pre-woken slice receives no work within 200 µs, returns to its former state and increments PWR_PREWAKE_CNT. -/
  | prewakeLapse (n : Nat)
  /-- PLL_RELOCK_DONE (R106). A core PLL relock completes, and the die's cores resume issuing. -/
  | pllRelockDone (d : Nat) (ok : Bool)
  /-- PMBUS_TRANSACTION_DONE (R108). A PMBus transaction with a core regulator completes, or fails and is retried. -/
  | pmbusTransactionDone (d : Nat) (ok : Bool) (a : PmbAnswer)
  /-- PMB_ALERT (R129). A PMB_ALERT_N assertion makes the pilot read STATUS_WORD; any fault bit holds the die at throttle level 4. -/
  | pmbAlert (mask : BitVec 8)
  /-- BUDGET_STEP (R112). Every 1 ms, the averaged power is compared with PWR_LIMIT, and one die clock step is lowered or restored. -/
  | budgetStep (power : Nat)
  /-- POWER_HOLD_EXPIRY (R172). A POWER_HOLD's duration ends, and the hold stops keeping its target awake. -/
  | powerHoldExpiry (pid : Nat)
  /-- DOORBELL_SQ_PUT (R133). A write of QDB_SQ_PUT is checked and makes new packets visible, or is discarded with DB_BAD set. -/
  | doorbellSqPut (q : QueueId) (put : Word)
  /-- CQ_GET_WRITE (R138). A write of QDB_CQ_GET reports consumed replies, or is discarded with CQ_BAD set. -/
  | cqGetWrite (q : QueueId) (get : Word)
  /-- PACKET_FETCH (R134). The pilot fetches a packet whose slots lie below PUT and advances the submission GET. -/
  | packetFetch (q : QueueId) (slots : List Byte)
  /-- FETCH_ERROR (R155). A ring access fails twice, so the queue is stopped with FETCH_ERR set and the admin interrupt raised. -/
  | fetchError (q : QueueId)
  /-- ARBITRATION_WINDOW_END (R152). A 1 µs arbitration window ends, and its conflicting orders are resolved by rank. -/
  | arbitrationWindowEnd
  /-- ADMQ_ENABLE (R156). Writing ENABLE = 1 resets an admin queue's indices and expected SEQ and enables it. -/
  | admqEnable (a : Nat) (cfg : Word)
  /-- ADMQ_DISABLE (R156). Writing ENABLE = 0 cancels an admin queue. -/
  | admqDisable (a : Nat) (cfg : Word)
  /-- NOP (R168). The NOP packet completes when it is dispatched. -/
  | nop (q : QueueId)
  /-- LAUNCH (R165). A LAUNCH is dispatched: its descriptor is read and its grid starts placing on the named slices. -/
  | launch (q : QueueId) (host : HostMem)
  /-- LEDGER_ALLOCATE (R366). A REPLAYABLE launch waiting at dispatch obtains its ledger area, which is cleared. -/
  | ledgerAllocate (n : Nat)
  /-- CLUSTER_PLACE (R219). The pilot places the next cluster of a launch on the cores with the most free block places, once room exists. -/
  | clusterPlace (n : Nat)
  /-- LAUNCH_COMPLETE (R370). Every commit of a launch has been applied or discarded, so the launch completes with RESULT and flags. -/
  | launchComplete (n : Nat)
  /-- COPY (R166). COPY is split into mover pieces that copy bytes, re-encoding or expanding lighter sides. -/
  | copy (q : QueueId)
  /-- FILL (R166). FILL writes a repeated pattern through the movers. -/
  | fill (q : QueueId)
  /-- CONVERT (R166). CONVERT converts elements between formats, opening an AMAX register as a stream. -/
  | convert (q : QueueId)
  /-- PACK (R332). PACK encodes D16 values into lighter blocks as plain bytes and counts the flushed elements. -/
  | pack (q : QueueId)
  /-- UNPACK (R332). UNPACK decodes lighter blocks and drops malformed ones as poisoned. -/
  | unpack (q : QueueId)
  /-- MOVER_PIECE_COMPLETE (R228). A mover finishes one piece of a packet's work, and the packet completes with its last piece. -/
  | moverPieceComplete (core : Nat) (host : HostMem)
  /-- CIM_LOAD (R265). CIM_LOAD writes 64 KiB of weights into each named tier-3 macro. -/
  | cimLoad (q : QueueId)
  /-- CIM_EXEC (R274). CIM_EXEC queues one CIM operation per vector on the slice's sequencer. -/
  | cimExec (q : QueueId)
  /-- CIM_CALIBRATE (R276). CIM_CALIBRATE runs time-mode calibration of a die, or of every die of the partition. -/
  | cimCalibrate (q : QueueId)
  /-- TALLY_ADD (R168). The TALLY_ADD packet adds N to a local counter, or sends TALLY_ADD_REMOTE. -/
  | tallyAdd (q : QueueId)
  /-- TALLY_WAIT (R168). The TALLY_WAIT packet blocks its queue until a counter reaches EXPECTED. -/
  | tallyWait (q : QueueId)
  /-- SEM_POST (R168). The SEM_POST packet adds N units to a semaphore, locally or remotely. -/
  | semPost (q : QueueId)
  /-- SEM_WAIT (R168). The SEM_WAIT packet blocks its queue until the count covers N, then subtracts N. -/
  | semWait (q : QueueId)
  /-- FENCE (R168). The FENCE packet blocks its queue until earlier packets in its scope have completed and are visible. -/
  | fence (q : QueueId)
  /-- EVENT_EXPORT (R198). EVENT_EXPORT writes the 128-bit export token of an event. -/
  | eventExport (q : QueueId)
  /-- EVENT_IMPORT (R199). EVENT_IMPORT sends a token to its exporter and, on acceptance, opens a mirror counter. -/
  | eventImport (q : QueueId)
  /-- SIGNAL_HOST_ONCE (R203). SIGNAL_HOST in once mode writes the event value to a host word. -/
  | signalHostOnce (q : QueueId)
  /-- SIGNAL_HOST_BIND (R203). SIGNAL_HOST in bind mode binds a host word to an event and writes its present value. -/
  | signalHostBind (q : QueueId)
  /-- SIGNAL_HOST_UNBIND (R204). SIGNAL_HOST in unbind mode ends a binding with a final write. -/
  | signalHostUnbind (q : QueueId)
  /-- MEM_ALLOC (R169). MEM_ALLOC takes memory from the partition's static carve-out as a MEMORY object. -/
  | memAlloc (q : QueueId)
  /-- MEM_FREE (R169). MEM_FREE releases the creation reference of a memory object. -/
  | memFree (q : QueueId)
  /-- MEM_MAP (R170). MEM_MAP maps a memory object or host memory into a context with the given attributes. -/
  | memMap (q : QueueId)
  /-- MEM_UNMAP (R182). MEM_UNMAP removes mappings, invalidates translations and writes back dirty lines after earlier packets complete. -/
  | memUnmap (q : QueueId)
  /-- OBJ_RETAIN (R187). OBJ_RETAIN adds one reference to an object. -/
  | objRetain (q : QueueId)
  /-- OBJ_RELEASE (R187). OBJ_RELEASE removes one reference from an object. -/
  | objRelease (q : QueueId)
  /-- POOL_SET (R169). POOL_SET sets a slice's chandler pool and maps it into every context's window. -/
  | poolSet (q : QueueId)
  /-- QUEUE_CREATE (R171). QUEUE_CREATE creates and enables a partition queue. -/
  | queueCreate (q : QueueId)
  /-- QUEUE_DESTROY (R171). QUEUE_DESTROY cancels a queue and clears its FETCH_ERR. -/
  | queueDestroy (q : QueueId)
  /-- CONTEXT_CREATE (R171). CONTEXT_CREATE creates a context of the partition. -/
  | contextCreate (q : QueueId)
  /-- CONTEXT_DESTROY (R205). CONTEXT_DESTROY ends a context: it cancels and stops packets, abandons OWNED semaphores, closes runs and releases references. -/
  | contextDestroy (q : QueueId)
  /-- RUN_BEGIN (R196). RUN_BEGIN zeroes a range of counters and opens a run on them. -/
  | runBegin (q : QueueId)
  /-- RUN_END (R196). RUN_END closes a run and records its counter values. -/
  | runEnd (q : QueueId)
  /-- POWER_SET_DEVICE (R172). A device-scope POWER_SET orders AWAKE, SLEEP or DEEP. -/
  | powerSetDevice (q : QueueId)
  /-- POWER_SET_SLICE (R128). A slice-scope POWER_SET sets the FLOOR and clock request of owned slices. -/
  | powerSetSlice (q : QueueId)
  /-- POWER_HOLD (R172). POWER_HOLD keeps the device or named slices awake for a duration. -/
  | powerHold (q : QueueId)
  /-- TW_CONFIG (R174). TW_CONFIG writes up to 61 Tidewatch register values after checking them all. -/
  | twConfig (q : QueueId)
  /-- TW_READ (R175). TW_READ copies TW or TIME block words, or pops FIFO entries, to host memory. -/
  | twRead (q : QueueId)
  /-- PART_CREATE (R176). PART_CREATE creates a partition on its slices and takes its object table, page-table pool and ledger. -/
  | partCreate (q : QueueId) (rng : Bool)
  /-- PART_DESTROY (R409). PART_DESTROY ends a partition, invalidates its L2 ways and starts zero-filling its shares. -/
  | partDestroy (q : QueueId)
  /-- PART_SCRUB_COMPLETE (R409). The zero fill of a destroyed partition's slices finishes, and PART_DESTROY completes. -/
  | partScrubComplete (p : Nat)
  /-- PART_QUERY (R176). PART_QUERY returns a partition's slices, mode, controller and counts. -/
  | partQuery (q : QueueId)
  /-- CORE_LAYUP (R176). CORE_LAYUP lays up a core, optionally recording it in the fence map. -/
  | coreLayup (q : QueueId)
  /-- CORE_RETURN (R176). CORE_RETURN runs BIST on a field-laid-up core and, if it passes, enables the core again. -/
  | coreReturn (q : QueueId) (bistPass : Bool)
  /-- CORE_ARRAY_ERROR (R236). An uncorrectable error in a core's register file, local memory, accumulator store or deferral buffer lays up the core. -/
  | coreArrayError (c : Nat) (unc : Bool)
  /-- FLEET_FORWARD (R177). FLEET_FORWARD sends an inner packet to a worker as a FORWARD message. -/
  | fleetForward (q : QueueId)
  /-- FLEET_BARRIER (R178). FLEET_BARRIER runs one slack-water barrier and then sets its period. -/
  | fleetBarrier (q : QueueId)
  /-- FLEET_QUERY (R178). FLEET_QUERY returns the device number, membership counts and fleet ID. -/
  | fleetQuery (q : QueueId)
  /-- NVM_READ (R179). NVM_READ copies the newest committed slot of a record to host memory. -/
  | nvmRead (q : QueueId)
  /-- NVM_WRITE (R179). NVM_WRITE queues a journalled write of a record from host memory. -/
  | nvmWrite (q : QueueId) (data : List (Option Byte))
  /-- QUERY_SERIAL (R180). QUERY item 0 returns the device serial number. -/
  | querySerial (q : QueueId)
  /-- QUERY_CORES (R180). QUERY item 1 returns the number of enabled cores. -/
  | queryCores (q : QueueId)
  /-- QUERY_SLICE_CORES (R180). QUERY item 2 returns a slice's enabled-core mask. -/
  | querySliceCores (q : QueueId)
  /-- QUERY_TIME (R180). QUERY item 3 returns harbour time. -/
  | queryTime (q : QueueId)
  /-- QUERY_FW_VER (R180). QUERY item 4 returns PILOT_FW_VER. -/
  | queryFwVer (q : QueueId)
  /-- QUERY_HBM_FREE (R180). QUERY item 5 returns the partition's free HBM outside the chandler pools. -/
  | queryHbmFree (q : QueueId)
  /-- QUERY_DECK_FREE (R180). QUERY item 6 returns the partition's free bytes of one deck tier. -/
  | queryDeckFree (q : QueueId)
  /-- QUERY_SYNC_FREE (R180). QUERY item 7 returns the partition's free tally counters and semaphores. -/
  | querySyncFree (q : QueueId)
  /-- LOG_READ (R181). LOG_READ copies event log or status history entries to host memory. -/
  | logRead (q : QueueId)
  /-- PACKET_TIMEOUT (R160). A packet's TIMEOUT expires, and it completes TIMEOUT with no other effect. -/
  | packetTimeout (pid : Nat)
  /-- MMA (R237). An mma instruction issues C ← C + A × B on its quarter datapath. -/
  | mma (g : Nat) (fa : Nat) (fb : Nat) (t : Nat) (va : Nat) (ub : Nat) (us : Nat)
  /-- MMA_COMPLETE (R255). An mma finishes, checks its residue code and writes the tile rounded once. -/
  | mmaComplete (g : Nat) (ok : Bool)
  /-- ACC_ZERO (R243). acc.zero sets an accumulator tile to +0.0. -/
  | accZero (g : Nat) (t : Nat)
  /-- ACC_RD (R243). acc.rd copies a tile into registers. -/
  | accRd (g : Nat) (vd : Nat) (t : Nat)
  /-- ACC_WR (R243). acc.wr copies registers into a tile. -/
  | accWr (g : Nat) (t : Nat) (vs : Nat)
  /-- ACC_ST (R243). acc.st stores a tile row-major as binary32 to local memory. -/
  | accSt (g : Nat) (us : Nat) (t : Nat)
  /-- CVT (R247). cvt converts values under a rounding mode and raises the named AMAX register. -/
  | cvt (g : Nat) (fs : Nat) (fd : Nat) (r : RMode) (vd : Nat) (vs : Nat) (a : Nat)
  /-- CVT_MX (R254). cvt.mx converts the gang's lanes into one MX block with a shared scale. -/
  | cvtMx (g : Nat) (fs : Nat) (fd : Nat) (r : RMode) (vd : Nat) (vs : Nat) (ud : Nat) (a : Nat) (us : Option Nat)
  /-- AMAX_RD (R254). amax.rd reads an AMAX register. -/
  | amaxRd (g : Nat) (ud : Nat) (a : Nat)
  /-- AMAX_SCL (R254). amax.scl reads the scale byte in use for the present stream. -/
  | amaxScl (g : Nat) (ud : Nat) (a : Nat) (fd : Nat)
  /-- FLG_RD (R259). flg.rd reads the gang's sticky flags. -/
  | flgRd (g : Nat) (ud : Nat)
  /-- FLG_CLR (R259). flg.clr clears the gang's sticky flags. -/
  | flgClr (g : Nat)
  /-- VECTOR_OP (R257). A vector arithmetic instruction computes per lane and rounds once. -/
  | vectorOp (g : Nat) (op : VecOp) (f : Nat) (r : RMode) (vd : Nat) (va : Nat) (vb : Nat) (vc : Nat)
  /-- SFU_OP (R258). A special-function instruction computes rcp, rsqrt, sqrt, exp2, log2, sin or cos. -/
  | sfuOp (g : Nat) (fn : SfuFn) (vd : Nat) (vs : Nat)
  /-- LD (R295). ld loads through the near cache and L2 as the GANG_LOAD class. -/
  | ld (g : Nat) (vd : Nat) (va : Nat) (len : Nat) (signed : Bool) (host : HostMem)
  /-- ST (R294). st writes through matching near-cache entries to L2 or to the combining buffer. -/
  | st (g : Nat) (va : Nat) (vs : Nat) (acc : StoreAcc)
  /-- LD_C (R222). ld.c loads from a cluster address. -/
  | ldC (g : Nat) (vd : Nat) (va : Nat) (len : Nat) (signed : Bool)
  /-- ST_C (R222). st.c stores to a cluster address. -/
  | stC (g : Nat) (va : Nat) (vs : Nat) (len : Nat)
  /-- ATOM_C (R223). atom.c applies an atomic operation at the core that owns the cluster word. -/
  | atomC (g : Nat) (op : AtomOp) (vd : Nat) (va : Nat) (vs : Nat) (vt : Nat)
  /-- LD_TILE (R295). ld.tile loads mma operands as the MATRIX class. -/
  | ldTile (g : Nat) (dst : TileDst) (va : Nat) (len : Nat) (host : HostMem)
  /-- LD_CONST (R295). ld.const loads as the CONST class. -/
  | ldConst (g : Nat) (vd : Nat) (va : Nat) (len : Nat) (signed : Bool) (host : HostMem)
  /-- LD_LT (R333). ld.lt reads and decodes one lighter block into the gang's lanes. -/
  | ldLt (g : Nat) (vd : Nat) (ua : Nat) (host : HostMem)
  /-- ST_LT (R333). st.lt encodes the gang's lanes into one lighter block and stores it. -/
  | stLt (g : Nat) (ua : Nat) (vs : Nat)
  /-- FENCE_BLK (R308). fence.blk drains the combining buffer and orders accesses for the block. -/
  | fenceBlk (g : Nat)
  /-- FENCE_CLU (R308). fence.clu orders accesses for the cluster, including cluster addresses. -/
  | fenceClu (g : Nat)
  /-- FENCE_DEV (R308). fence.dev orders accesses device-wide and drops the context's near-cache entries. -/
  | fenceDev (g : Nat)
  /-- FENCE_SYS (R308). fence.sys orders accesses device-wide and toward the host, completing host and DEVICE writes. -/
  | fenceSys (g : Nat)
  /-- BAR_BLK (R225). bar.blk waits until every live gang of the block arrives. -/
  | barBlk (g : Nat) (p : Nat) (ut : Nat)
  /-- BAR_CLU (R225). bar.clu waits until every live gang of the cluster arrives. -/
  | barClu (g : Nat) (p : Nat) (ut : Nat)
  /-- BARRIER_TIMEOUT (R225). A barrier or mov.wait timeout expires, and the gang continues with its predicate false. -/
  | barrierTimeout (g : Nat)
  /-- BRA (R212). bra branches and pushes a reconvergence entry when lanes diverge. -/
  | bra (g : Nat) (p : Nat) (label : Nat)
  /-- JOIN (R212). join reconverges the lanes of a divergent branch. -/
  | join (g : Nat) (label : Nat)
  /-- EXIT (R212). exit removes lanes for good; the gang and then the block end when all have exited. -/
  | exitLanes (g : Nat)
  /-- FLAG_COMBINE (R260). A block's sticky flags are ORed into its launch at exit or at an accepted commit. -/
  | flagCombine (b : Nat)
  /-- TRAP (R230). trap kills the context with fault TRAP. -/
  | trap (g : Nat)
  /-- MOV_START (R226). mov.start queues a mover descriptor and returns a ticket. -/
  | movStart (g : Nat) (ud : Nat) (us : Nat)
  /-- MOV_WAIT (R226). mov.wait waits until the named ticket is complete. -/
  | movWait (g : Nat) (p : Nat) (us : Nat) (ut : Nat)
  /-- CHD_ALLOC (R193). chd.alloc takes memory from the slice's chandler pool or returns null. -/
  | chdAlloc (g : Nat) (ud : Nat) (us : Nat)
  /-- CHD_FREE (R194). chd.free releases a chandler allocation's reference. -/
  | chdFree (g : Nat) (us : Nat)
  /-- CHD_HDL (R194). chd.hdl returns the MEMORY handle of the allocation containing an address. -/
  | chdHdl (g : Nat) (ud : Nat) (us : Nat)
  /-- CIM_MVM (R275). cim.mvm queues one CIM operation from a descriptor in local memory and parks the gang. -/
  | cimMvm (g : Nat) (ud : Nat) (us : Nat)
  /-- TALLY_ADD_INSTR (R340). tally.add adds to a counter as a release, locally or by TALLY_ADD_REMOTE. -/
  | tallyAddInstr (g : Nat) (p : Nat) (ud : Nat) (uo : Nat) (un : Nat)
  /-- TALLY_RD (R339). tally.rd reads a counter. -/
  | tallyRd (g : Nat) (ud : Nat) (uo : Nat)
  /-- TALLY_WAIT_INSTR (R339). tally.wait waits until a counter reaches the expected value. -/
  | tallyWaitInstr (g : Nat) (p : Nat) (ud : Nat) (uo : Nat) (ue : Nat) (ut : Nat)
  /-- SEM_WAIT_INSTR (R342). sem.wait, plain or OWNED, waits for units and subtracts them. -/
  | semWaitInstr (g : Nat) (own : Bool) (p : Nat) (ud : Nat) (uo : Nat) (un : Nat) (ut : Nat)
  /-- SEM_TRY (R343). sem.try subtracts units at once if the queue is empty and the count suffices, and otherwise fails. -/
  | semTry (g : Nat) (own : Bool) (p : Nat) (ud : Nat) (uo : Nat) (un : Nat)
  /-- SEM_POST_INSTR (R342). sem.post adds units to a semaphore as a release. -/
  | semPostInstr (g : Nat) (p : Nat) (ud : Nat) (uo : Nat) (un : Nat)
  /-- SEM_POST_OWN (R345). sem.post.own returns every unit the gang holds in OWNED mode and deletes its record. -/
  | semPostOwn (g : Nat) (p : Nat) (ud : Nat) (uo : Nat)
  /-- SEM_RD (R344). sem.rd reads a semaphore's count and ABANDONED flag. -/
  | semRd (g : Nat) (ud : Nat) (uo : Nat)
  /-- SYNC_OP_APPLY (R336). The sync store applies one arriving operation and satisfies or serves waiters. -/
  | syncOpApply (d : Nat)
  /-- GANG_WAIT_TIMEOUT (R352). A waiter's deadline passes, and it completes with its TIMEOUT result. -/
  | gangWaitTimeout (g : Nat)
  /-- SYNC_RECHECK (R351). The 1 ms recheck serves any met but unserved waiter record and logs the lost pulse. -/
  | syncRecheck
  /-- SYNC_DBG_REPAIR (R355). A repair write applies a value to a BAD object and clears BAD. -/
  | syncDbgRepair (v : DWord)
  /-- MEM_ADD (R356). mem.add sends per-lane adds to the reduction units. -/
  | memAdd (g : Nat) (ty : AddTy) (va : Nat) (vs : Nat)
  /-- REDUCTION_APPLY (R356). A reduction unit applies an arriving memory-side add in arrival order. -/
  | reductionApply (slotBad : Bool)
  /-- XS_ADD (R360). xs.add adds binary32 values exactly to exact slots. -/
  | xsAdd (g : Nat) (vi : Nat) (vx : Nat)
  /-- XS_CLR (R361). xs.clr zeroes a slot and sets its window exponent. -/
  | xsClr (g : Nat) (us : Nat) (uw : Nat)
  /-- XS_RD (R361). xs.rd reads a slot's sum rounded once, or its special result. -/
  | xsRd (g : Nat) (r : RMode) (ud : Nat) (us : Nat) (slotBad : Bool)
  /-- XS_RAW (R361). xs.raw reads a slot's raw fields. -/
  | xsRaw (g : Nat) (ud : Nat) (us : Nat) (slotBad : Bool)
  /-- DFR_ADD (R363). dfr.add combines an add into the core's deferral buffer. -/
  | dfrAdd (g : Nat) (ty : AddTy) (va : Nat) (vs : Nat)
  /-- DFR_XS (R363). dfr.xs combines an exact-slot add into the deferral buffer. -/
  | dfrXs (g : Nat) (vi : Nat) (vx : Nat)
  /-- BLOCK_COMMIT (R367). A finished block whose stores are acknowledged sends its commit to the ledger home. -/
  | blockCommit (b : Nat)
  /-- COMMIT_ARRIVE (R368). The ledger home accepts a commit and applies its entries, or discards a duplicate. -/
  | commitArrive (w : Nat) (ledgerBad : Bool)
  /-- CONTEXT_STOP (R231). Within 10 µs of the first fault, the context's blocks stop and its buffers are discarded. -/
  | contextStop (c : Nat)
  /-- MISS_RETURN (R297). Data for a miss register returns and fills the near line, serving merged misses. -/
  | missReturn (core : Nat) (r : Nat) (host : HostMem)
  /-- HOME_REQUEST (R301). A home node handles an arriving coherence request and updates its directory. -/
  | homeRequest (line : Nat) (agent : Nat) (kind : ReqKind) (body : HomeBody)
  /-- HOME_NACK_RETRY (R302). A NACKed requester's backoff expires, and it retries its request. -/
  | homeNackRetry (line : Nat) (agent : Nat)
  /-- TENURE_END (R303). An agent's tenure ends, and a waiting forwarded request is served. -/
  | tenureEnd (line : Nat) (agent : Nat)
  /-- FORWARDED_REQUEST (R317). An agent receives a forwarded request for a line and supplies or downgrades it. -/
  | forwardedRequest (line : Nat)
  /-- BISNP_RESPONSE (R305). The host answers a back-invalidate snoop, and the home completes the waiting request. -/
  | bisnpResponse (line : Nat) (data : List Byte)
  /-- COMBINING_DRAIN (R311). A combining-buffer entry reaches 2,048 fast cycles of age and drains to its homes. -/
  | combiningDrain (unit : DrainUnit)
  /-- LIGHTER_RMW (R328). A store to a lighter block is applied at the home L2 by decode, merge and re-encode. -/
  | lighterRmw
  /-- HBM_PATROL_SCRUB (R315). The HBM patrol scrub reads a line and corrects or poisons it. -/
  | hbmPatrolScrub (d : Nat) (errs : List Nat)
  /-- DECK_PATROL_SCRUB (R284). The deck patrol scrub reads a macro or line and corrects or poisons it. -/
  | deckPatrolScrub (d : Nat) (tier3 : Bool) (err : Nat)
  /-- CIM_OP_START (R273). The die grants a sequencer its active places, and the CIM operation starts. -/
  | cimOpStart (d : Nat)
  /-- CIM_OP_COMPLETE (R268). A CIM operation finishes, writes its output blocks and frees its places. -/
  | cimOpComplete (slice : Nat) (host : HostMem)
  /-- CIM_CALIBRATION_START (R277). With AUTO_RECAL set and the device AWAKE, the pilot runs a pending calibration. -/
  | cimCalibrationStart (d : Nat)
  /-- CIM_CALIBRATION_DONE (R276). A calibration completes: the temperature is recorded, CAL_STALE is cleared and the request is cleared. -/
  | cimCalibrationDone (d : Nat) (pass : Bool) (trim : Word)
  /-- MIRROR_UPDATE_SEND (R200). The exporter sends the event's merged value to its importers within 2 µs of a change. -/
  | mirrorUpdateSend
  /-- MIRROR_UPDATE_RECEIVE (R200). An importer raises its mirror counter to the received value, or marks it ORPHANED on a final update. -/
  | mirrorUpdateReceive
  /-- SIGNAL_WORD_UPDATE (R203). A bound host signal word receives the event's latest value. -/
  | signalWordUpdate (fails : List Nat)
  /-- ANNOUNCE_SEND (R378). An unnumbered worker sends ANNOUNCE on each ACTIVE port every 10 ms. -/
  | announceSend
  /-- ANNOUNCE_RECEIVE (R378). A received ANNOUNCE is relayed toward the manager, or recorded by the manager in its round. -/
  | announceReceive
  /-- NUMBERING_ROUND_END (R379). A 20 ms numbering round ends, and the manager numbers the workers heard and sends ASSIGN. -/
  | numberingRoundEnd
  /-- ASSIGN_RECEIVE (R380). A worker accepts an ASSIGN with its device number, fleet ID and routes, or discards it. -/
  | assignReceive (rng : Bool)
  /-- ROUTES_RECEIVE (R383). A device installs a new route table. -/
  | routesReceive
  /-- BEAT_SEND (R395). Every 1 ms, heartbeats are sent between the manager and each awake worker. -/
  | beatSend
  /-- BEAT_RECEIVE (R395). A heartbeat is received; a returning worker's first BEAT marks it JOINED. -/
  | beatReceive
  /-- WORKER_LOST (R395). A worker has sent no BEAT for 8 ms and becomes LOST at the manager, which sends LOSS. -/
  | workerLost (d : Nat)
  /-- WORKER_ADRIFT (R399). A worker has received no BEAT for 8 ms and becomes ADRIFT. -/
  | workerAdrift
  /-- LOSS_RECEIVE (R398). A device completes operations toward the LOST worker PEER_LOST and discards its messages. -/
  | lossReceive
  /-- POWER_MESSAGE_RECEIVE (R396). A POWER message marks a peer as AWAKE, ASLEEP or DORMANT. -/
  | powerMessageReceive
  /-- FORWARD_RECEIVE (R388). A worker receives a FORWARD and queues its inner packet on a forward queue. -/
  | forwardReceive
  /-- STATUS_REPLY_RECEIVE (R389). The manager receives a worker's reply and completes the FLEET_FORWARD. -/
  | statusReplyReceive
  /-- STATUS_ACK_RECEIVE (R386). A STATUS acknowledgement lets the sender release a held message and complete its operation. -/
  | statusAckReceive
  /-- READ_DATA_RECEIVE (R391). Read data for a READ is received and written to its destination. -/
  | readDataReceive
  /-- REFUSAL_RECEIVE (R391). A refusal is received, and the originating operation stops with its status. -/
  | refusalReceive
  /-- REMOTE_WRITE_RECEIVE (R391). A worker receives a WRITE, checks it and writes device memory or its FLEET block. -/
  | remoteWriteReceive
  /-- REMOTE_READ_RECEIVE (R391). A worker receives a READ, checks it and answers with read data. -/
  | remoteReadReceive
  /-- EVENT_IMPORT_READ_RECEIVE (R199). The exporter verifies an import token and answers with the event value or a refusal. -/
  | eventImportReadReceive
  /-- TALLY_ADD_REMOTE_RECEIVE (R393). A remote add is checked and applied exactly once at the destination. -/
  | tallyAddRemoteReceive
  /-- SEM_REMOTE_RECEIVE (R393). A remote post is checked and applied exactly once at the destination. -/
  | semRemoteReceive
  /-- PAIR_OPEN_RECEIVE (R394). The consumer takes a consumer entry for a fleet counter pair, or refuses it. -/
  | pairOpenReceive
  /-- FLEET_PAIR_CFG_WRITE (R394). Software registers a producer pair, which sends a pair-open message. -/
  | fleetPairCfgWrite (v : Word)
  /-- BARRIER_START (R401). The manager starts barrier k on its period or on a FLEET_BARRIER and sends OPEN. -/
  | barrierStart
  /-- OPEN_RECEIVE (R401). A device receives OPEN(k) and stamps later messages with epoch k + 1. -/
  | openReceive
  /-- BARRIER_DRAINED (R401). A device whose epoch-k messages are all acknowledged replies DRAINED with its sent totals. -/
  | barrierDrained
  /-- DRAINED_RECEIVE (R401). The manager receives a DRAINED reply and sends CLOSE once all have arrived. -/
  | drainedReceive
  /-- DRAIN_TIMEOUT (R401). FLEET_DRAIN passes since OPEN, and the manager sends CLOSE anyway. -/
  | drainTimeout
  /-- CLOSE_RECEIVE (R401). A consumer closes the epoch and replies APPLIED with its resolved totals. -/
  | closeReceive
  /-- APPLIED_RECEIVE (R401). The manager computes each pair's Δ and sends ADVANCE for positive ones. -/
  | appliedReceive
  /-- ADVANCE_RECEIVE (R402). A consumer adds each Δ to its counter and acknowledges the ADVANCE. -/
  | advanceReceive
  /-- DONE_RECEIVE (R401). DONE(k) marks the barrier complete. -/
  | doneReceive
  /-- FLEET_SAVE (R377). FLEET_CTRL.SAVE writes the fleet ID, expected count and membership to the fleet table. -/
  | fleetSave (v : Word)
  /-- FLEET_FORGET (R381). FLEET_CTRL.FORGET frees a LOST worker's reserved number. -/
  | fleetForget (v : Word)
  /-- FLEET_CLEAR_ID (R380). FLEET_CTRL.CLEAR_ID sets an unnumbered worker's fleet ID back to 0. -/
  | fleetClearId (v : Word)
  /-- RW_START (R391). A START write begins a remote window channel transfer on the manager, and is refused on a worker. -/
  | rwStart (c : Nat) (v : Word) (data : List Byte)
  /-- PILOT_STRICT_SLOT (R422). A STRICT partition's harbour-time microsecond arrives, and the pilot checks, dispatches and replies for it. -/
  | pilotStrictSlot (p : Nat)
  /-- GET_VERSION (R430). The SPDM GET_VERSION request is answered. -/
  | getVersion (tp : Nat) (src : Nat)
  /-- GET_CAPABILITIES (R430). The SPDM GET_CAPABILITIES request is answered. -/
  | getCapabilities (tp : Nat) (src : Nat)
  /-- NEGOTIATE_ALGORITHMS (R430). The SPDM NEGOTIATE_ALGORITHMS request is answered. -/
  | negotiateAlgorithms (tp : Nat) (src : Nat) (common : Bool)
  /-- GET_DIGESTS (R430). The SPDM GET_DIGESTS request is answered. -/
  | getDigests (tp : Nat) (src : Nat) (sess : Option Nat)
  /-- GET_CERTIFICATE (R431). The SPDM GET_CERTIFICATE request returns the slot 0 chain. -/
  | getCertificate (tp : Nat) (src : Nat) (sess : Option Nat) (slot : Nat) (off : Nat) (len : Nat)
  /-- CHALLENGE (R431). The SPDM CHALLENGE is answered with a signature by the alias key. -/
  | challenge (tp : Nat) (src : Nat) (slot : Nat) (nonce : List Nat)
  /-- GET_MEASUREMENTS (R433). The SPDM GET_MEASUREMENTS request returns the signed measurements that the transport may see. -/
  | getMeasurements (tp : Nat) (src : Nat) (sess : Option Nat) (what : MeasReq) (nonce : List Nat)
  /-- KEY_EXCHANGE (R487). The SPDM KEY_EXCHANGE request opens a secure session within the session limits. -/
  | keyExchange (tp : Nat) (src : Nat) (exchange : List Nat)
  /-- FINISH (R430). The SPDM FINISH request completes session establishment. -/
  | finish (tp : Nat) (src : Nat) (sess : Nat) (macOk : Bool)
  /-- END_SESSION (R430). The SPDM END_SESSION request ends a secure session. -/
  | endSession (tp : Nat) (src : Nat) (sess : Nat)
  /-- DOE_DISCOVERY (R487). A DOE Discovery object is answered with the supported object types. -/
  | doeDiscovery (tp : Nat) (idx : Nat)
  /-- NVM_ERASE_DONE (R455). The erase of a journal slot's block completes, and page programming begins. -/
  | nvmEraseDone
  /-- NVM_PAGE_DONE (R455). A page program completes, and the next page, the header, the commit marker or the read-back follows. -/
  | nvmPageDone (readback : Bool)
  /-- LOG_RELEASE (R462). A write of LOG_RELEASE pops every log entry that precedes the value. -/
  | logRelease (v : Word)
  /-- INT_MASK_WRITE (R475). An INT_MASK write that unmasks a set cause sends its MSI-X message. -/
  | intMaskWrite (v : Word)
  /-- VFS_MASK_WRITE (R477). A VFS_MASK write that unmasks a set VF cause sends its message. -/
  | vfsMaskWrite (n : Nat) (v : BitVec 3)
  /-- REGISTER_WRITE (R469). A write to a register without a row of its own updates the register under the access rules. -/
  | registerWrite (sp : RegSpace) (off : Nat) (bytes : List Byte)
  /-- LOW_HALF_READ_LATCH (R470). A 32-bit read of the low half of a 64-bit RO register latches its high half. -/
  | lowHalfReadLatch (sp : RegSpace) (off : Nat) (n : Nat)
  /-- MCTP_PACKET_RECEIVE (R492). An MCTP packet is received and joins the reassembly of its message. -/
  | mctpPacketReceive (p : MctpPacket)
  /-- MCTP_REASSEMBLY_TIMEOUT (R492). More than 100 ms pass between packets, and the partial message is discarded. -/
  | mctpReassemblyTimeout (b : Nat) (src : Nat)
  /-- SMBUS_CLOCK_LOW_TIMEOUT (R479). SMB_CLK has been held low for 35 ms, and the interface releases the bus. -/
  | smbusClockLowTimeout
  /-- SMBUS_ALERT_RESPONSE (R480). A read of the SMBus Alert Response Address is answered with the device's address. -/
  | smbusAlertResponse
  /-- SET_ENDPOINT_ID (R481). The MCTP Set Endpoint ID command assigns the binding's endpoint ID. -/
  | setEndpointId (b : Nat) (src : Nat) (eid : Nat)
  /-- GET_ENDPOINT_ID (R481). The MCTP Get Endpoint ID command is answered. -/
  | getEndpointId (b : Nat) (src : Nat)
  /-- GET_ENDPOINT_UUID (R481). The MCTP Get Endpoint UUID command is answered. -/
  | getEndpointUuid (b : Nat) (src : Nat)
  /-- GET_MCTP_VERSION_SUPPORT (R481). The MCTP Get MCTP Version Support command is answered. -/
  | getMctpVersionSupport (b : Nat) (src : Nat) (ty : Nat)
  /-- GET_MESSAGE_TYPE_SUPPORT (R481). The MCTP Get Message Type Support command is answered. -/
  | getMessageTypeSupport (b : Nat) (src : Nat)
  /-- GET_TID (R481). The PLDM GetTID command is answered. -/
  | getTid (b : Nat) (src : Nat)
  /-- SET_TID (R481). The PLDM SetTID command sets the terminus ID. -/
  | setTid (b : Nat) (src : Nat) (t : BitVec 8)
  /-- GET_PLDM_VERSION (R481). The PLDM GetPLDMVersion command is answered. -/
  | getPldmVersion (b : Nat) (src : Nat) (ty : Nat)
  /-- GET_PLDM_TYPES (R481). The PLDM GetPLDMTypes command is answered. -/
  | getPldmTypes (b : Nat) (src : Nat)
  /-- GET_PLDM_COMMANDS (R481). The PLDM GetPLDMCommands command is answered. -/
  | getPldmCommands (b : Nat) (src : Nat) (ty : Nat)
  /-- GET_PDR_REPOSITORY_INFO (R482). The PLDM GetPDRRepositoryInfo command is answered. -/
  | getPdrRepositoryInfo (b : Nat) (src : Nat)
  /-- GET_PDR (R482). The PLDM GetPDR command returns a PDR. -/
  | getPdr (b : Nat) (src : Nat) (handle : Nat)
  /-- GET_SENSOR_READING (R482). The PLDM GetSensorReading command returns a numeric sensor read at request time. -/
  | getSensorReading (b : Nat) (src : Nat) (id : Nat)
  /-- GET_STATE_SENSOR_READINGS (R482). The PLDM GetStateSensorReadings command returns the device or thermal state. -/
  | getStateSensorReadings (b : Nat) (src : Nat) (id : Nat)
  /-- SET_EVENT_RECEIVER (R482). The PLDM SetEventReceiver command sets the receiver of platform events. -/
  | setEventReceiver (b : Nat) (src : Nat) (receiver : Option Nat)
  /-- GET_EVENT_RECEIVER (R482). The PLDM GetEventReceiver command is answered. -/
  | getEventReceiver (b : Nat) (src : Nat)
  /-- PLDM_EVENT_RETRY (R483). An undelivered platform event is retried after 100 ms, and is discarded after 3 retries. -/
  | pldmEventRetry
  /-- REQUEST_UPDATE (R485). The PLDM RequestUpdate command starts an update session and rewrites record 0 if needed. -/
  | requestUpdate (b : Nat) (src : Nat) (maxTransfer : Nat)
  /-- GET_FIRMWARE_PARAMETERS (R484). The PLDM GetFirmwareParameters command returns the active and pending versions. -/
  | getFirmwareParameters (b : Nat) (src : Nat)
  /-- PASS_COMPONENT_TABLE (R484). The PLDM PassComponentTable command is answered. -/
  | passComponentTable (b : Nat) (src : Nat)
  /-- UPDATE_COMPONENT (R485). The PLDM UpdateComponent command accepts the image size and erases the target slot. -/
  | updateComponent (b : Nat) (src : Nat) (component : Nat) (size : Nat)
  /-- FIRMWARE_DATA_RESPONSE (R485). A chunk of image data arrives and is programmed; after the last one the device sends TransferComplete. -/
  | firmwareDataResponse (b : Nat) (src : Nat) (bytes : List Byte)
  /-- VERIFY_COMPLETE (R485). Verification of the written image completes and is reported, followed by ApplyComplete on success. -/
  | verifyComplete (img : ImageInfo)
  /-- ACTIVATE_FIRMWARE (R485). The PLDM ActivateFirmware command writes record 0 with trial state PENDING. -/
  | activateFirmware (b : Nat) (src : Nat) (selfContained : Bool)
  /-- GET_STATUS (R484). The PLDM GetStatus command reports the update agent's state. -/
  | getStatus (b : Nat) (src : Nat)
  /-- CANCEL_UPDATE_COMPONENT (R490). The PLDM CancelUpdateComponent command stops the component transfer. -/
  | cancelUpdateComponent (b : Nat) (src : Nat)
  /-- CANCEL_UPDATE (R490). The PLDM CancelUpdate command ends the update session at once. -/
  | cancelUpdate (b : Nat) (src : Nat)
  /-- UPDATE_IDLE_TIMEOUT (R486). 60 s without a Type 5 message end the update session. -/
  | updateIdleTimeout
  /-- BYPASS (R488). The JTAG BYPASS instruction acts as in IEEE 1149.1. -/
  | bypass (tdi : List Bool)
  /-- IDCODE (R488). The JTAG IDCODE instruction selects the IDCODE register. -/
  | idcode (tdi : List Bool)
  /-- SAMPLE_PRELOAD (R488). The JTAG SAMPLE/PRELOAD instruction samples or preloads the boundary register. -/
  | samplePreload (pins : List Bool) (tdi : List Bool)
  /-- EXTEST (R489). The JTAG EXTEST instruction drives the pins, only while PERST_N is asserted. -/
  | extest (pins : List Bool) (tdi : List Bool)
  /-- CLAMP (R489). The JTAG CLAMP instruction holds the pins, only while PERST_N is asserted. -/
  | clamp (pins : List Bool) (tdi : List Bool)
  /-- HIGHZ (R489). The JTAG HIGHZ instruction floats the pins, only while PERST_N is asserted. -/
  | highz (pins : List Bool) (tdi : List Bool)
  /-- EXTEST_PULSE (R489). The IEEE 1149.6 EXTEST_PULSE instruction tests AC-coupled lanes, only while PERST_N is asserted. -/
  | extestPulse (pins : List Bool) (tdi : List Bool)
  /-- EXTEST_TRAIN (R489). The IEEE 1149.6 EXTEST_TRAIN instruction tests AC-coupled lanes, only while PERST_N is asserted. -/
  | extestTrain (pins : List Bool) (tdi : List Bool)
  /-- MOVER_DESCRIPTOR_COMPLETE (R226). A core's mover finishes the transfer of a kernel's mover descriptor, completing its ticket and readying any gang waiting in mov.wait. -/
  | moverDescriptorComplete (core : Nat) (host : HostMem)
  /-- CIM_LOAD_COMPLETE (R265). The tier-3 write path finishes writing every weight of a CIM_LOAD, which completes the packet and releases CIM operations waiting on those macros. -/
  | cimLoadComplete (pid : Nat) (host : HostMem)
  /-- SYS_REFCLK_STOP (R501). SYS_REFCLK stops outside DEEP: the core, fabric and hub PLLs lose lock and the pilot stops running. -/
  | sysRefclkStop
  /-- IDE_KM_REQUEST (R487). An IDE_KM message arrives over DOE and is accepted only within a secure session on the PF DOE. -/
  | ideKmRequest (tp : Nat) (src : Nat) (sess : Option Nat) (km : IdeKm)
  deriving DecidableEq, Repr

end Sys2Proof
end

