-- ==== Sys2Proof/Decode.lean ====
section
/-! DEFINITION. The table gives no command any bits, so no word spells a command. -/

namespace Sys2Proof

/-- The command a word spells by the table's bits: the table gives no row bits, so none. -/
def decodeTableWord (_nbits _w : Nat) : Option Instr := none

end Sys2Proof
end

