-- ==== Sys2Proof/Config.lean ====
section
/-! DEFINITION. What one implementation fixes and what the spec leaves open: constants without a body, of which no
proof can know a value. -/

namespace Sys2Proof

/-- A mover descriptor's content (R226); its byte layout is not given (`Config.moverDesc`). -/
structure MoverDesc where
  ok : Bool
  srcLocal : Bool
  dstLocal : Bool
  src : Nat
  dst : Nat
  /-- Elements and strides of up to three dimensions: (count, source stride, destination stride). -/
  dims : List (Nat × Nat × Nat)
  /-- Bytes of the innermost element. -/
  elem : Nat
  deriving DecidableEq, Repr, Inhabited

/-- The PCIe 6.0 options of Table 3-1 (R52). -/
inductive PcieOption where
  | linkRates | flitMode | nonFlitMode | widths | l0p | aspmL0s | aspmL1 | pciPm | laneMargining | maxPayload | maxRead
  | extendedTags | msix | msiIntx | aer | ari | sriov | flr | ats | pri | pasid | resizableBar | ptm | doe | ideLink
  | ideSelective | tdisp
  deriving DecidableEq, Repr

/-- The CXL 3.1 options of Table 3-2 (R53). -/
inductive CxlOption where
  | io | cache | memHdmDb | memHdmH | memHdmD | flit256 | flit68 | multiLogical | dynamicCapacity | hierarchyRouting
  | portRouting | persistentFlush | ide
  deriving DecidableEq, Repr

namespace Config

open Sys2Proof

/-- R1, R34: the serial number in the fuse block. -/
opaque serial : DWord
/-- R109: fused voltage offset of each die in mV, −40 to 0, as the two's-complement byte of PWR_PMB_CFG. -/
opaque fuseOfs : Nat → Byte
/-- A value the spec calls undefined or does not state, one for each use (log 7). -/
opaque free : Nat → DWord
/-- R224: a byte of local memory that nothing has written since the block started: serial number of the block, offset. -/
opaque localByte : Nat → Nat → Byte

/-- R73: the scaled value of a channel where the spec gives no formula (a sensor's fused trim) or the value leaves the 16-bit
format: channel, filter output in eighths of a count at ×1 (so that no gain enters), configuration register. -/
opaque scaled : Nat → Int → DWord → BitVec 16
/-- R73: whether an inexact scaled value is rounded up: numerator and denominator. -/
opaque roundUp : Int → Nat → Bool
/-- Table 4-2: the output of MED5 while fewer than five codes have been fed. -/
opaque medFew : List Nat → Nat

/-- Table 8-3: the check code of an export token: the truncated HMAC-SHA-384 of its bits [127:32] under the export key of a
generation. -/
opaque exportCode : Nat → Nat → Word

/-- R226: what the 32 bytes of a mover descriptor ask for; the spec gives no layout. -/
opaque moverDesc : List Byte → MoverDesc
/-- R290: which table of its pool a context's table of a level and VA prefix is (log 42). -/
opaque tablePlace : Nat → Nat → Nat → Nat

/-- R258: the result of a special function that the spec bounds and does not state: function, operand. -/
opaque sfu : Nat → Word → Word

/-- Table 3-7a: whether an FFE tap stands at its limit in the direction asked: lane, tap, value, increment. -/
opaque ffeLimit : Nat → Nat → Int → Bool → Bool
/-- Table 3-7a: the value of an FFE tap in a preset: preset, tap. -/
opaque ffePreset : Nat → Nat → Int

/-- Table 17-6: a measurement, the SHA-384 digest of the item of an index: index, the item's values. -/
opaque digest : Nat → List Nat → BitVec 384
/-- GET_DIGESTS: SHA-384 of a certificate chain. -/
opaque chainDigest : List Byte → BitVec 384
/-- R431: the certificate of the alias key derived for a pilot image digest, signed by the identity key. -/
opaque aliasCert : BitVec 384 → List Byte
/-- R431: a signature by the alias key derived for a pilot image digest: over what was signed. -/
opaque aliasSign : BitVec 384 → List Nat → BitVec 768
/-- R481: the endpoint UUID. -/
opaque uuid : BitVec 128
/-- R481: versions the spec does not state: of an MCTP message type, of a PLDM type. -/
opaque typeVersion : Nat → Word
opaque pldmVersion : Nat → Word
/-- R488: Ifengo's JEDEC manufacturer identity (log 5). -/
opaque jedec : BitVec 11

end Config

end Sys2Proof
end

