-- ==== Sys2Proof/Machine/State.lean ====
section
/-! DEFINITION. The device's state: plain data, one structure for each unit of the spec.

A field's default value IS its reset value: what `State.reset` holds is `{}` for every unit, so the value beside a
field is the one the spec gives, or, where the spec gives none, the one log entry 2 names (0, false or empty; marked
`log 2`). `State.reset` is the device with its cold reset asserted (stage 2, R24, R41). Indexed registers are sparse
tables whose absent entries stand for the reset value of that register, given by the structure's own defaults.
`State` ends with three fields that are the model's own: `out`, `free` and `pending` (log 6, 7, 1). -/

namespace Sys2Proof.Machine

open Sys2Proof

/-- What makes the machine stop. -/
inductive Fault where
  /-- R488: with TEST_MODE high the device's behaviour is not described; raised by the JTAG commands when the TEST_MODE
  pin is high. Safe: the model stops where the spec gives no effect. -/
  | testModeHigh
  deriving DecidableEq, Repr

/-- What has no meaning in the model. -/
inductive Refusal where
  /-- The dispatch names the command. Raised by no meaning. Safe. -/
  | notModelled (mnemonic : String)
  deriving DecidableEq, Repr

/-- A training record that a port sends (R65, Tables 3-7 and 3-7a). -/
inductive HwsRecord where
  | coeff (r : CoeffReq)
  | masks (r : LaneMask)
  | hail (r : HailRec)
  | grant (g : CreditGrant)
  | grantAck (g : CreditGrant)
  /-- The reason, and the sender's serial number. -/
  | reject (reason : Nat) (serial : DWord)
  deriving DecidableEq, Repr

/-- What an operation asks of a sync store (R336 to R346). -/
inductive SyncKind where
  | add | read | waitGe
  | post | take | tryTake | postOwn | semRead
  deriving DecidableEq, Repr

/-- Where a sync operation comes from. -/
inductive SyncSrc where
  | gang (g : Nat)
  | core (c : Nat)
  | packet (pid : Nat)
  | remote (dev : Nat) (msgId : DWord)
  | tidewatch
  | pilot
  deriving DecidableEq, Repr

/-- Element format of a memory-side add (R356); `xs` is an add to an exact slot. -/
inductive RedFmt where
  | i32 | i64 | f32 | xs
  deriving DecidableEq, Repr

/-- Kinds of deferral entries (R363, R364). -/
inductive DfrKind where
  | memAdd (ty : AddTy)
  | xs
  | tally
  | sem
  deriving DecidableEq, Repr

/-- Where a load's bytes go: a register, sign-extended or not; local memory; the 48 B of an `ld.lt` for a register. -/
inductive LoadDst where
  | reg (r : Nat) (signed : Bool)
  | loc (off : Nat)
  | lt (r : Nat)
  deriving DecidableEq, Repr

/-- A load merged into a miss register: gang, lane, VA, bytes, destination. -/
structure MissLoad where
  gang : Nat
  lane : Nat
  va : Nat
  len : Nat
  dst : LoadDst
  deriving DecidableEq, Repr

/-- A store to a lighter block on its way to the home (R328). -/
structure LighterStore where
  ctx : Nat
  /-- The storing gang's block. -/
  block : Nat
  part : Nat
  /-- Target of the 48 B block, and the D16 bytes replaced: offset in the 64 B and bytes. -/
  dpa : Nat
  off : Nat
  bytes : List Byte
  whole : Bool
  deriving DecidableEq, Repr

/-- Who asked for a CIM operation. -/
inductive CimOwner where
  | packet (pid : Nat)
  /-- The gang, its block and its destination register. -/
  | gang (g block ud : Nat)
  deriving DecidableEq, Repr

/-- Progress of a CIM_EXEC packet (R274). -/
structure CimExecSt where
  pid : Nat
  /-- Loads of its macros that were dispatched before it. -/
  behind : List Nat
  /-- Vectors not yet enqueued. -/
  left : Nat
  ops : Nat
  stale : Bool
  lost : Option Nat
  deriving DecidableEq, Repr

/-- SPDM errors (R430, R433, R466, R487); an order of requests the protocol does not allow is answered UnexpectedRequest
(log 70). -/
inductive SpdmErr where
  | unsupportedRequest | unexpectedRequest | invalidRequest | sessionLimitExceeded | unspecified | decryptError
  deriving DecidableEq, Repr

/-- The PLDM commands the device answers or sends (Table 19-5, R482 to R484). -/
inductive PldmCmd where
  | getTid | setTid | getPldmVersion | getPldmTypes | getPldmCommands
  | getPdrRepositoryInfo | getPdr | getSensorReading | getStateSensorReadings | setEventReceiver | getEventReceiver
  | platformEventMessage
  | requestUpdate | getFirmwareParameters | passComponentTable | updateComponent | requestFirmwareData | transferComplete
  | verifyComplete | applyComplete | activateFirmware | getStatus | cancelUpdateComponent | cancelUpdate
  deriving DecidableEq, Repr

/-- Why an MCTP control or PLDM request is not carried out (log 71). -/
inductive MgmtErr where
  | invalidData | unsupportedType | invalidSensor | noPdr | updateInProgress | notInUpdate | wrongState | refused
  | selfContained | writeFailed
  deriving DecidableEq, Repr

/-- Units of the PLDM sensors (Table 19-6). -/
inductive SensorUnit where
  | tempSixtyFourth | volt100uV | volt1mV | amp10mA | watt100mW | deviceState | thermalState
  deriving DecidableEq, Repr

/-- The phases of a PLDM update (R485). -/
inductive UpdPhase where
  | idle | learn | ready | download | verify | apply | activate
  deriving DecidableEq, Repr

/-- Content of a management message the device sends: what the spec says it carries. The byte layouts are those of the
DMTF standards, which the spec names and does not repeat (log 70, 71). -/
inductive MgmtMsg where
  | spdmError (e : SpdmErr)
  /-- SPDM 1.2, as 0x12. -/
  | version (v : Nat)
  | capabilities
  /-- ECDSA P-384, SHA-384, ECDHE P-384 and AES-256-GCM. -/
  | algorithms
  /-- The digest of each provisioned slot's chain: slot 0, or none. -/
  | digests (l : List (BitVec 384))
  /-- A portion of the slot 0 chain, and how many bytes follow it. -/
  | certificate (portion : List Byte) (remainder : Nat)
  | challengeAuth (signature : BitVec 768)
  | measurementCount (n : Nat)
  | measurements (l : List (Nat × BitVec 384)) (signature : BitVec 768)
  | keyExchangeRsp (session : Nat) (signature : BitVec 768)
  | finishRsp (session : Nat)
  | endSessionAck (session : Nat)
  | ideKm (m : IdeKm)
  /-- DOE Discovery: 0 DOE Discovery, 1 CMA/SPDM, 2 secured CMA/SPDM; the next index, 0 after the last. -/
  | doeProtocol (p next : Nat)
  | error (e : MgmtErr)
  | eid (n : Nat)
  | uuid (u : BitVec 128)
  | versions (l : List Word)
  | messageTypes (l : List Nat)
  | tid (t : BitVec 8)
  | pldmVersion (v : Word)
  | pldmTypes (l : List Nat)
  | pldmCommands (l : List PldmCmd)
  | pdrInfo (records : Nat)
  /-- A PDR: sensor, unit, upper warning, critical and fatal thresholds, the next record, 0 after the last. -/
  | pdr (sensor : Nat) (unit : SensorUnit) (limits : List Int) (next : Nat)
  /-- A numeric reading; none where the operational state is "unavailable". -/
  | reading (v : Option Int)
  | stateReading (v : Option Nat)
  /-- A PlatformEventMessage: sensor, new state. -/
  | event (sensor state : Nat)
  | receiver (r : Option (Nat × Nat))
  /-- The command has been accepted. -/
  | accepted (c : PldmCmd)
  /-- GetFirmwareParameters: component, active and pending version. -/
  | parameters (component : Nat) (active : Word) (pending : Option Word)
  | requestData (offset length : Nat)
  | transferComplete (ok : Bool)
  /-- VerifyComplete; on failure the reason code of 0x0701 (R34). -/
  | verifyComplete (failure : Option Nat)
  | applyComplete
  | status (p : UpdPhase) (offset : Nat)
  deriving DecidableEq, Repr

/-- The PMBus commands that the pilot uses (R108); VOUT_COMMAND carries a ULINEAR16 value (R110). -/
inductive PmbCmd where
  | page (n : Nat)
  | voutMode
  | voutCommand (v : Nat)
  | readVout
  | statusWord
  deriving DecidableEq, Repr

/-- What the device sends to the outside. -/
inductive Output where
  /-- A PMBus transaction of the pilot (R108): whether the bus runs at 1 MHz, the regulator's 7-bit address, the command;
  its packet error code is line coding (log 11). -/
  | pmbus (fast : Bool) (addr : Nat) (cmd : PmbCmd)
  /-- An MSI-X message of function 0 (PF) or n + 1 (VF n). -/
  | msix (fn : Nat) (addr : DWord) (data : Word)
  /-- A write to host memory under the requester ID of function `fn`, 0 the PF and n + 1 VF n (R158, R203), and whether its
  data is poisoned. -/
  | hostWrite (fn addr : Nat) (bytes : List Byte) (poison : Bool)
  /-- The answer to a register read, a BAR2 or CXL read, or a pop. -/
  | readData (bytes : List Byte) (poison : Bool)
  /-- A completer abort (R415, R319). -/
  | abort
  /-- The CXL error response for an inactive range (R51). -/
  | cxlInactive
  /-- A sequenced flit on a Hawser port: SEQ, ACK_SEQ, NAK, CR_COUNT of its own pool as CR_POOL (log 62), and what it
  carries. -/
  | flit (port : Nat) (seq ack : BitVec 12) (nak : Bool) (credits : Nat) (p : HwsPayload)
  /-- A training record on a Hawser port. -/
  | record (port : Nat) (r : HwsRecord)
  /-- A back-invalidate snoop of a line to the host, BISnpInv or BISnpData (R305). -/
  | bisnp (line : Nat) (inv : Bool)
  /-- A coherence answer to the host: the line and the state granted, 1 S, 2 E, 3 M (R305). -/
  | cxlGrant (line state : Nat)
  /-- The answer to a host snoop or an ATS invalidation. -/
  | snoopDone (line : Nat)
  | atsDone
  /-- A management message: transport (0, 1 MCTP bindings; 2 PF DOE; 3 + n VF n), content. -/
  | mgmt (transport : Nat) (m : MgmtMsg)
  /-- An answer on SMBus to the Alert Response Address. -/
  | smbAddr (a : BitVec 7)
  /-- SMBus is released (R479). -/
  | smbRelease
  /-- What TDO shows during a JTAG data shift, first bit first. -/
  | tdo (bits : List Bool)
  deriving DecidableEq, Repr

/-- The always-on domain's reset, straps, pins and the fuse block's only writable field (R24 to R29, R34, R35). -/
structure Ao where
  /-- R24: the power-on reset has been released. -/
  porReleased : Bool := false
  /-- R24: the oscillator trim has been loaded from the fuse block. -/
  trimLoaded : Bool := false
  /-- R25: ROM checks that failed. -/
  twRomFails : Nat := 0
  /-- R25: the ROM check has passed. -/
  twRomOk : Bool := false
  /-- R26: samples of the present triple, oldest first. -/
  roleSamples : List (BitVec 2) := []
  /-- R26: triples rejected. -/
  roleTriples : Nat := 0
  /-- R26: the latched role; the ROLE field reads 0b11 while none is latched (R45). -/
  role : Option (BitVec 2) := none
  /-- Pin PERST_N is high (released); the pad pulls it down (Table 20-9). -/
  perstReleased : Bool := false
  /-- R38, R44, R45: the hub has left reset. -/
  hubOut : Bool := false
  /-- R511: PWR_CUT_N is asserted, until the next cold reset. -/
  pwrCut : Bool := false
  /-- R478: SMB_ADDR_SEL as sampled at PERST_N release (log 2). -/
  smbAddrSel : BitVec 2 := 0
  /-- R34, R35: minimum SVN in the fuse block (log 2); no reset changes it. -/
  minSvn : BitVec 16 := 0
  /-- R501: SYS_REFCLK is present (a duty of the board, R27; log 2). -/
  sysRefclk : Bool := true
  /-- R502, Table 4-11: the crystal is fitted and runs (log 2). -/
  xtal : Bool := false
  /-- Table 19-9 GLB_FEAT[6]: the recovery flash answered (log 2). -/
  recFlash : Bool := false
  deriving DecidableEq, Repr

/-- The PILOT block and the boot sequence (ch. 2). -/
structure Boot where
  /-- Table 2-2: STAGE. -/
  stage : Nat := 2
  halt : Bool := false
  ready : Bool := false
  warn : Bool := false
  trial : Bool := false
  /-- SOURCE: 0 slot A, 1 slot B, 2 recovery flash, 3 mailbox. -/
  source : BitVec 2 := 0
  failCode : BitVec 16 := 0
  /-- PILOT_BOOT_DETAIL (log 2). -/
  detail : Word := 0
  /-- The tick of the last PERST_N release, from which PILOT_BOOT_TIME counts. -/
  perstTick : Nat := 0
  /-- PILOT_BOOT_TIME in microseconds, saturating (log 2). -/
  bootTime : Word := 0
  /-- PILOT_AVAIL: available slices (log 2). -/
  avail : Word := 0
  /-- PILOT_FW_VER (log 2). -/
  fwVer : Word := 0
  /-- PILOT_FW_SVN[15:0] (log 2). -/
  imgSvn : BitVec 16 := 0
  /-- R431: SHA-384 digest of the running pilot image. -/
  imgDigest : BitVec 384 := 0
  /-- Table 17-6: the fence map as stage 9 applied it. -/
  fenceApplied : List Byte := []
  /-- PILOT_MBOX_CMD, complement pair (log 2). -/
  mboxCmd : BitVec 16 := 0
  /-- PILOT_MBOX_ARG[0..3] (log 2). -/
  mboxArg : Tab Word := []
  mboxBusy : Bool := false
  mboxLost : Bool := false
  mboxResult : BitVec 16 := 0
  /-- R35: image sources still to be tried, the first being verified or started. -/
  sources : List (BitVec 2) := []
  /-- R38: the hub PLL has locked. -/
  hubPll : Bool := false
  /-- R30: the first discarded access since this reset has been logged. -/
  discardLogged : Bool := false
  /-- R29: configuration space answers. -/
  cfgAnswers : Bool := false
  /-- R29: hub hardware has trained the host link. -/
  linkTrained : Bool := false
  /-- R32: the first position outside its window in the last stage-5 pass. -/
  s5Fail : Option Nat := none
  /-- R35: the trial slot of a boot that tries one. -/
  trialSrc : Option (BitVec 2) := none
  /-- R35: the ROM's write of the boot selector record is not over, and no source is tried before it is. -/
  selWrite : Bool := false
  /-- The most recent non-fatal code and its detail, which FAIL_CODE shows while not halted (R39). -/
  noteCode : BitVec 16 := 0
  noteDetail : Word := 0
  deriving DecidableEq, Repr

/-- One MSI-X vector (PCIe; R475). -/
structure MsixVec where
  addr : DWord := 0
  data : Word := 0
  masked : Bool := true
  pending : Bool := false
  deriving DecidableEq, Repr

/-- One VF's status page causes (Table 19-11, R477). -/
structure Vfs where
  cause : BitVec 3 := 0
  mask : BitVec 3 := 0
  /-- VFS_VEC: three vector numbers of 3 bits, at [2:0], [6:4] and [10:8]. -/
  vec : BitVec 11 := 0
  logSev : BitVec 3 := 3
  /-- MSI-X table of the VF, vectors 0 to 7. -/
  msix : Tab MsixVec := []
  msixEnable : Bool := false
  msixFmask : Bool := false
  deriving DecidableEq, Repr

/-- The host port and the INT, GLB and VFS blocks (ch. 3, ch. 19). -/
structure HostPort where
  /-- Lanes of the trained link; 0 while none is trained. -/
  width : Nat := 0
  /-- Rate code of GLB_LINK. -/
  rate : Nat := 0
  flit256 : Bool := false
  cxlOn : Bool := false
  cxlDisabled : Bool := false
  /-- R51: Memory_Active. -/
  memActive : Bool := false
  /-- R51: the HDM decoders are programmed. -/
  hdm : Bool := false
  /-- The link is in L1.2 (Table 1-1) or down (DEEP, R124). -/
  linkL12 : Bool := false
  linkDown : Bool := false
  /-- log2 of BAR2's size (R472: 1 GiB at reset). -/
  bar2Log : Nat := 30
  /-- R56: VF Enable in effect, and a write deferred to READY. -/
  vfEnable : Bool := false
  vfPending : Option Bool := none
  /-- VFs made ready in stage 12 (R51, R56). -/
  vfsReady : Bool := false
  intCause : Word := 0
  intMask : Word := 0
  /-- INT_VEC[k], k = 0..7. -/
  intVec : Tab (BitVec 6) := []
  msix : Tab MsixVec := []
  msixEnable : Bool := false
  msixFmask : Bool := false
  /-- R475: causes set in SLEEP or DEEP, to be sent once AWAKE: bits of INT_CAUSE. -/
  heldCauses : Word := 0
  /-- Per-VF causes of the same kind, 3 bits per VF. -/
  heldVfs : Tab (BitVec 3) := []
  vfs : Tab Vfs := []
  scratch : Tab Word := []
  /-- GLB_MGMT.UPDATE_DIS. -/
  updateDis : Bool := false
  /-- R470: for each function and block (function × 64 + block), the offset of the high half plus 1, and its latched value;
  (0, 0) while nothing is latched. -/
  latch : Tab (Nat × Word) := []
  /-- Table 3-1: link IDE in force. -/
  ideLink : Bool := false
  ideStreams : List Nat := []
  /-- R103: PTM is enabled by the host's dialogue; R52: a D3hot request stands. -/
  d3hot : Bool := false
  deriving DecidableEq, Repr

/-- The states of a Hawser port (Table 3-5). -/
inductive PortSt where
  | disabled | detect | lock | equalize | deskew | hail | moor | active | down
  deriving DecidableEq, Repr

/-- One Hawser port (ch. 3). -/
structure Port where
  /-- HWS_PORT_CTRL. -/
  groupMask : BitVec 2 := 3
  lpiEn : Bool := true
  enable : Bool := true
  st : PortSt := .disabled
  /-- Lanes in use: 0, 4 or 8. -/
  width : Nat := 0
  recovering : Bool := false
  lpi : Bool := false
  downReason : BitVec 4 := 0
  lastFail : BitVec 4 := 0
  attempts : Nat := 0
  peerPort : BitVec 4 := 0
  laneFail : BitVec 8 := 0
  peerSn : DWord := 0
  peerSession : BitVec 16 := 0
  peerRole : BitVec 2 := 0
  peerCaps : BitVec 8 := 0
  fecCorr : Nat := 0
  fecUncorr : Nat := 0
  replayCnt : Nat := 0
  recovCnt : Nat := 0
  laneBer : Tab Word := []
  /-- FFE taps: lane × 8 + tap. -/
  coeff : Tab Int := []
  goodLanes : BitVec 8 := 0
  /-- Codeword lock of this end, and as the peer's record says. -/
  cwLock : Bool := false
  peerCwLock : Bool := false
  groups : BitVec 2 := 0
  /-- Counted attempts of the series, and the tick of its first DETECT (R62). -/
  counted : Nat := 0
  seriesTick : Nat := 0
  /-- In the 1 ms gap after a failed attempt (R62). -/
  gap : Bool := false
  /-- R63: signal was lost after a rejection. -/
  sawLoss : Bool := false
  session : BitVec 16 := 0
  txSeq : BitVec 12 := 0
  /-- R57: the last ACK_SEQ received. -/
  ackSeq : BitVec 12 := 0
  rxNext : BitVec 12 := 0
  nakOut : Bool := false
  /-- R57: held flits, oldest first: SEQ and what it carries. -/
  replay : List (BitVec 12 × HwsPayload) := []
  /-- Flits accepted for sending and not yet sent (the replay buffer was full or credits were missing). -/
  sendQ : List HwsPayload := []
  resends : Nat := 0
  /-- R58: the tick from which the 4 µs without an ACK_SEQ advance count, and that of the last resend. -/
  replayFrom : Nat := 0
  resentAt : Option Nat := none
  /-- R66 running counts by pool. -/
  creditUsed : Tab Nat := []
  creditRet : Tab Nat := []
  creditOut : Tab Nat := []
  /-- R71: credits moved into a pool, or out of it. -/
  moved : Tab Int := []
  ownGrant : Option CreditGrant := none
  peerGrant : Option CreditGrant := none
  grantAcked : Bool := false
  strictMask : Nat := 0
  /-- R65: the record that is sent again every 2 µs. -/
  record : Option HwsRecord := none
  deriving DecidableEq, Repr

/-- One sequence step's filter (R79, R80). -/
structure Filt where
  /-- Codes fed since the filter was cleared, newest first, at most the window's length. -/
  codes : List Nat := []
  /-- The running output y of the exponential filter. -/
  y : Int := 0
  /-- Outputs produced since the filter was cleared. -/
  outputs : Nat := 0
  deriving DecidableEq, Repr

/-- What a channel remembers of its outputs (TW_CH_LAST, R81, R82). -/
structure ChLast where
  value : BitVec 16 := 0
  seen : Bool := false
  stale : Bool := false
  bad : Bool := false
  /-- Harbour time (ns) of the last valid output, and whether there was one. -/
  prevTime : Option Nat := none
  /-- Tick of the last valid output, of the last TW_CH_ROC write, or of the domain's start (R82). -/
  silentFrom : Nat := 0
  roc : Bool := false
  hi : Bool := false
  lo : Bool := false
  /-- Sequence step and record data of the last valid output, for a stale record. -/
  lastSub : Nat := 0
  lastSeq : Nat := 0
  deriving DecidableEq, Repr

/-- One Tidewatch rule: its four register pairs, value in [31:0] and complement in [63:32], and its
evaluation state (R85, R89, R93). -/
structure Rule where
  src : DWord := 0xFFFF_FFFF_0000_0000
  thr : DWord := 0xFFFF_FFFF_0000_0000
  act : DWord := 0xFFFF_FFFF_0000_0000
  aux : DWord := 0xFFFF_FFFF_0000_0000
  cnt : Nat := 0
  active : Bool := false
  /-- Consecutive evaluations on which the condition has held. -/
  persist : Nat := 0
  /-- Result of the previous evaluation. -/
  prev : Bool := false
  /-- A new output of the source since the last evaluation. -/
  fresh : Bool := false
  /-- R85: triggers held: the unserved one and the pending one. -/
  trig : Nat := 0
  /-- R93: SOURCE of the write that last set the rule: 3 the manager, 4 the local admin host. -/
  source : Nat := 4
  deriving DecidableEq, Repr

/-- One digital input (R84). -/
structure Din where
  level : Bool := false
  /-- Tick and harbour time of the last accepted edge. -/
  lastEdge : Option Nat := none
  /-- R86: harbour time (ns) of the last accepted active edge. -/
  lastActive : Option Nat := none
  deriving DecidableEq, Repr

/-- The thermal ladder of one die (R94). -/
structure Ladder where
  /-- Consecutive scans at or above WARN, THROTTLE and TRIP. -/
  warnN : Nat := 0
  thrN : Nat := 0
  tripN : Nat := 0
  warned : Bool := false
  level : Nat := 0
  /-- Scans (ms) spent at or above THROTTLE, and below, since the last level change. -/
  hotN : Nat := 0
  coolN : Nat := 0
  deriving DecidableEq, Repr

/-- Tidewatch (ch. 4). Everything here survives all but a cold reset. -/
structure Tw where
  adcFault : Bool := false
  refused : Bool := false
  /-- R105: rules whose pairs did not match. -/
  ruleBad : BitVec 64 := 0
  watch : Word := 1000
  /-- R88: the tick from which watch boundaries are counted, and the number of the last boundary evaluated. -/
  watchBase : Nat := 0
  watchLast : Nat := 0
  ruleFired : BitVec 64 := 0
  alert : BitVec 6 := 0
  thermLim : DWord := 0xFF939BA0006C645F
  tripped : Bool := false
  calStale : BitVec 8 := 0
  sensorFail : BitVec 32 := 0
  /-- TW_CIM_CALT[d] (log 2) and whether a calibration has recorded it. -/
  calT : Tab (BitVec 16) := []
  trigCfg : Tab Word := []
  /-- TW_TRIG_OVR[i]: count, saturating; the flag is count ≠ 0 or sticky. -/
  trigOvr : Tab Nat := []
  sampleFifo : List DWord := []
  sampleOvf : Bool := false
  sampleGap : Bool := false
  trigFifo : List (Word × DWord) := []
  trigOvf : Bool := false
  trigGap : Bool := false
  trigTime : DWord := 0
  /-- TW_TIMER[t]; timer 0 runs the rail scan every 10,000 µs. -/
  timer : Tab DWord := []
  chLim : Tab DWord := []
  chRoc : Tab DWord := []
  chLast : Tab ChLast := []
  isnsScale : Tab Word := []
  athCfg : Tab DWord := []
  seqCtrl : Tab Word := []
  /-- R85: triggers a sequence holds: at most two before its run, one pending while it runs. -/
  seqTrig : Tab Nat := []
  /-- R77: the running sequence, its step and the conversion within the step. -/
  seqRunning : Option Nat := none
  seqStep : Nat := 0
  seqConv : Nat := 0
  /-- R78: the present step has begun; raw settle conversions it still owes, and whether its gain changed. -/
  stepBegun : Bool := false
  settleLeft : Nat := 0
  settleGain : Bool := false
  /-- The steps as they stood when the run began (a write takes effect at the next run). -/
  runSteps : Tab Word := []
  seqOvr : Tab Nat := []
  safeTemp : Tab (BitVec 16) := []
  safeValid : BitVec 32 := 0
  /-- TW_SEQ_STEP: sequence × 32 + step. -/
  step : Tab Word := []
  filt : Tab Filt := []
  /-- Steps whose filter a step write clears at the next run (R80). -/
  filtClear : Tab Bool := []
  /-- R78: channel, SUBSEL and gain of the previous conversion. -/
  convLast : Option (Nat × Nat × Nat) := none
  rule : Tab Rule := []
  din : Tab Din := []
  ladder : Tab Ladder := []
  /-- R97: consecutive clipped readings of each die sensor. -/
  clip : Tab Nat := []
  /-- R98: consecutive scans on which a die's mean was more than 5 °C from its calibration. -/
  calDrift : Tab Nat := []
  adcFail : Nat := 0
  adcPass : Nat := 0
  /-- R90: throttle levels requested by the active rules: rule number to level. -/
  ruleThrottle : Tab Nat := []
  /-- R99: THERM_N holds every die at level 4. -/
  thermLow : Bool := false
  thermLogged : Bool := false
  /-- R129: dies held at throttle level 4 by a PMB alert. -/
  pmbHold : BitVec 8 := 0
  /-- R103: TIME_OUT is high until this tick. -/
  timeOutUntil : Option Nat := none
  /-- Tidewatch has begun sampling (R24, R25). -/
  sampling : Bool := false
  deriving DecidableEq, Repr

/-- The states of the harbour-time discipline (R102). -/
inductive Disc where
  | free | acquire | locked | holdover
  deriving DecidableEq, Repr

/-- The TIME block (ch. 4). Survives all but a cold reset. -/
structure TimeBlk where
  /-- R100: harbour time in units of 2^-24 ns. -/
  harbour : Nat := 0
  /-- Ticks of the always-on clock since the power-on reset was released; the model's own clock for durations. -/
  tick : Nat := 0
  setVal : DWord := 0
  setAtPps : Bool := false
  /-- R101: a set waits for the next tick, or for the next accepted PPS edge. -/
  setPending : Bool := false
  timeOutEn : Bool := false
  timeOutW : BitVec 8 := 0
  disc : Disc := .free
  ppsLost : Bool := false
  ppsErr : Word := 0
  ppsBad : Nat := 0
  ppsLast : DWord := 0
  /-- Tick of the last PPS edge. -/
  ppsTick : Option Nat := none
  /-- R102: consecutive in-period edges, edges within the lock bound, edges beyond the step bound. -/
  ppsRun : Nat := 0
  ppsGood : Nat := 0
  ppsFar : Nat := 0
  /-- R102: time was set or stepped since ACQUIRE began. -/
  stepped : Bool := false
  rate : Word := 0x7D000000
  ptmLocal : DWord := 0
  ptmMaster : DWord := 0
  deriving DecidableEq, Repr

/-- Device power states (Table 5-5). -/
inductive Dev where
  | boot | training | ready | awake | sleep | deep
  deriving DecidableEq, Repr

/-- Slice power states (Table 5-4). -/
inductive SliceSt where
  | run | doze | nap | off
  deriving DecidableEq, Repr

/-- One compute die's clock and voltage (ch. 5). -/
structure Die where
  /-- PLL runs, and the code it runs at. -/
  pllOn : Bool := false
  code : Nat := 0
  /-- A change in progress: the code it goes to. -/
  change : Option Nat := none
  /-- The relock of the change has begun (cores stopped). -/
  relocking : Bool := false
  /-- R112: budget cap; none while no cap stands. -/
  cap : Option Nat := none
  /-- R129: cap after a PMBus fault. -/
  faultCap : Option Nat := none
  /-- The failed relock under way goes back to the frequency before the change (R130). -/
  back : Bool := false
  target : Nat := 750
  /-- R107, R111: the voltage in mV that the core supply is known to hold: the boot voltage of Table 2-1, then the settled
  target, or the new target as soon as the supply is told to fall. -/
  volt : Nat := 750
  lastVout : Nat := 0
  /-- R129: the regulator has reported ULINEAR16 in VOUT_MODE. -/
  pmbMode : Bool := false
  pmbFault : Bool := false
  pmbTries : Nat := 0
  /-- A PMBus transaction with the regulator is in progress. -/
  pmbBusy : Bool := false
  relockFails : Nat := 0
  pmbCfg : Word := 0
  deriving DecidableEq, Repr

/-- One slice's power (ch. 5). -/
structure Slice where
  st : SliceSt := .off
  unavail : Bool := false
  /-- R17: pre-woken from this state. -/
  prewoken : Option SliceSt := none
  /-- The pre-wake's packet, when a packet caused it (R125). -/
  prewakePid : Option Nat := none
  floor : SliceSt := .nap
  /-- R127: clock code requested by the owner. -/
  clkReq : Option Nat := none
  /-- R114: waking to RUN. -/
  waking : Bool := false
  deriving DecidableEq, Repr

/-- A hold of POWER_HOLD or of a wake (R126, R172). -/
structure Hold where
  /-- none: the device; some m: the slices of mask m. -/
  slices : Option Word
  pid : Nat
  /-- Harbour time (ns) at which the hold ends. -/
  ends : Nat
  source : Nat
  part : Nat
  deriving DecidableEq, Repr

/-- The PWR block (ch. 5). -/
structure Pwr where
  dev : Dev := .boot
  pilotHalted : Bool := false
  fullRestore : Bool := false
  /-- R123: the SLEEP order that waits for idle. -/
  sleepPending : List Nat := []
  idleDwell : Word := 1000
  deckRet : DWord := 0x00000000FFFFFFFF
  dozeDwell : Word := 256
  napDwell : Word := 100
  offDwell : Word := 10
  prewakeCnt : Nat := 0
  wakeSrc : Word := 0
  limit : Word := 750
  power : Word := 0
  pmbCtrl : Word := 0
  die : Tab Die := []
  slice : Tab Slice := []
  holds : List Hold := []
  /-- R122: the training saved in retention RAM, none or whether it is intact. -/
  saved : Option Bool := none
  hbmSr : Bool := false
  /-- R447: dies whose stack did not leave self-refresh, and the exits tried. -/
  hbmFail : BitVec 8 := 0
  hbmTries : Nat := 0
  /-- R120: deck tiers (die × 4 + tier) without power. -/
  deckOff : Word := 0
  wakePending : Bool := false
  /-- R122: a DEEP order has been accepted and its entry is under way. -/
  deepAccepted : Bool := false
  /-- R15: a wake arrived during DEEP entry. -/
  deepWake : Bool := false
  deriving DecidableEq, Repr

/-- A fetched packet: its bytes (SLOTS × 64), the harbour time (ns) of its arrival (R151), and the order in which
the arbitration window resolved it: granted, or not yet resolved. -/
structure Packet where
  bytes : List Byte
  arrival : Nat
  pid : Nat
  granted : Bool := false
  deriving DecidableEq, Repr

/-- A queue and its two rings (ch. 6). -/
structure Queue where
  enabled : Bool := false
  sqBase : DWord := 0
  cqBase : DWord := 0
  /-- The ring lies in device memory, its base a device physical address (Table 7-11). -/
  sqDev : Bool := false
  cqDev : Bool := false
  sqLog : Nat := 0
  cqLog : Nat := 0
  vector : Nat := 0
  sqPut : Word := 0
  sqGet : Word := 0
  cqGet : Word := 0
  cqPut : Word := 0
  /-- R136: completion entries reserved so far, a running count. -/
  reserved : Word := 0
  dbBad : Bool := false
  cqBad : Bool := false
  fetchErr : Bool := false
  seqExp : Word := 0
  seq0 : Word := 0
  /-- PUT writes and their harbour times, newest first, which date the arrival of packets (R151). -/
  puts : List (Word × Nat) := []
  buffer : List Packet := []
  /-- R155, R422: replies held, with their NOTIFY, while the queue is stopped or its partition's slot has not come. -/
  held : List (Bool × List Byte) := []
  /-- R136: replies, with their NOTIFY, of packets that completed undispatched while no completion entry could be reserved: they
  wait at the head of the queue, which neither fetches nor dispatches behind them. -/
  late : List (Bool × List Byte) := []
  /-- The handle of the queue: entry index and generation (R171). -/
  handle : DWord := 0
  /-- The queue has ended; its last reply may still be written. -/
  ended : Bool := false
  deriving DecidableEq, Repr

/-- A dispatched packet that has not completed. -/
structure Inflight where
  q : QueueId
  pkt : Packet
  /-- A TALLY_WAIT, SEM_WAIT or FENCE that blocks its queue (R146, Table 7-8). -/
  blocking : Bool := false
  /-- R182: not to start before these packets have completed. -/
  waitFor : List Nat := []
  started : Bool := true
  /-- R160: harbour time (ns) of its timeout. -/
  deadline : Option Nat := none
  /-- Its context (partition × 2^32 + entry index), when it names one. -/
  ctx : Option Nat := none
  /-- R12: its outcome, met while the device sleeps and told once it is AWAKE: status and result. -/
  answer : Option (Nat × Nat) := none
  deriving DecidableEq, Repr

/-- An order to device power that no packet brings (Table 6-7): the SOURCE of its class, its outcome, and its harbour time (ns).
Outcome 1 is AWAKE, 4 a trip, 0 a hardware safety action, which beats every order of its window (R152). -/
structure OwnOrder where
  source : Nat
  outcome : Nat
  time : Nat
  deriving DecidableEq, Repr

/-- All queues (ch. 6). -/
structure Queues where
  /-- By `QueueId.code`. -/
  tab : Tab Queue := []
  inflight : List Inflight := []
  nextPid : Nat := 0
  /-- R151, R152: orders of Tidewatch and of hardware safety in windows not yet resolved. -/
  own : List OwnOrder := []
  deriving DecidableEq, Repr

/-- The partition map and what hangs on it (ch. 17). -/
structure Parts where
  /-- PART_MAP[n] value half (VALID, STRICT, CONTROLLER, CLOCK, CONTEXTS; Table 17-8) and complement. -/
  map : Tab DWord := []
  slices : Tab DWord := []
  createCnt : Tab Nat := []
  scrub : Word := 0
  frozen : Word := 0
  /-- R409: partitions being scrubbed: partition, packet, slices. -/
  scrubbing : List (Nat × Nat × Word) := []
  bwRefuse : Nat := 0
  bwLast : DWord := 0
  /-- R416: generation of the partition's keys. -/
  keyGen : Tab Nat := []
  /-- R198: generation of the export key; a reset that reaches stage 7 draws another. -/
  exportKey : Nat := 0
  /-- R416: generations drawn so far. -/
  keyNext : Nat := 1
  /-- R417: protected granules (DPA ÷ 64 KiB). -/
  prot : Tab Bool := []
  /-- R160: the partition's default TIMEOUT in µs; 0 means 10 s. -/
  defTimeout : Tab Nat := []
  /-- R422: the STRICT slot now served: partition, harbour-time microsecond, packets it may still dispatch. -/
  slot : Option (Nat × Nat × Nat) := none
  deriving DecidableEq, Repr

/-- Kinds of objects (Table 7-2). -/
inductive ObjKind where
  | context | memory | event | queue | run
  deriving DecidableEq, Repr

/-- Where an imported event comes from (R199, R200): its token, the exporting device, partition, event index and
generation. -/
structure MirrorOf where
  token : List Byte
  dev : Nat
  part : Nat
  event : Nat
  gen : Nat
  deriving DecidableEq, Repr

/-- An importer of an exported event (R200): the exporting partition, event index and generation, the importing device,
and the value last sent. -/
structure Importer where
  part : Nat
  event : Nat
  gen : Nat
  dev : Nat
  last : DWord
  deriving DecidableEq, Repr

/-- What an object is, beside its table entry. -/
inductive ObjBody where
  | none
  /-- 20-bit PASID, state, AMAX bookkeeping lives in `Objs.ctx`. -/
  | context (pasid : Nat)
  /-- Tier 0 (HBM) or 1 to 4, base DPA, size in bytes, slice, chandler allocation, creating context. -/
  | memory (tier dpa size slice : Nat) (chandler : Bool) (ctx : Nat)
  | queue (k : Nat)
  /-- First counter, count, open, context, the recorded values and, for an imported event's run, its exporter. -/
  | run (first count : Nat) (open_ : Bool) (ctx : Nat) (rec_ : List DWord) (mirror : Option MirrorOf)
  deriving DecidableEq, Repr

/-- One entry of a partition's object table (R184 to R190). -/
structure Obj where
  kind : ObjKind := .context
  live : Bool := false
  gen : Nat := 0
  count : Word := 0
  /-- The complement the entry stores with the count. -/
  ncount : Word := 0xFFFFFFFF
  frozen : Bool := false
  retired : Bool := false
  /-- R190: destroyed by its own opcode (context or queue) or run closed at count zero. -/
  ended : Bool := false
  /-- R188: the creation reference stands, and retains not yet released. -/
  creation : Bool := false
  retains : Nat := 0
  body : ObjBody := .none
  deriving DecidableEq, Repr

/-- Where a mapping leads. -/
inductive Target where
  | dev (dpa : Nat)
  | host (bus : Nat)
  deriving DecidableEq, Repr

/-- A mapping of a context (R288, R289, Table 7-10). -/
structure Mapping where
  va : Nat
  len : Nat
  /-- Page size in bytes. -/
  page : Nat
  target : Target
  /-- Object entry index of the memory object, none for host memory or a pool window. -/
  obj : Option Nat
  /-- 0 NORMAL, 1 STREAM, 2 DEVICE. -/
  attr : Nat
  prot : Bool
  lighter : Bool
  rd : Bool
  wr : Bool
  ex : Bool
  deriving DecidableEq, Repr

/-- One AMAX register (R252). -/
structure Amax where
  value : Word := 0
  snap : Word := 0
  streams : Nat := 0
  deriving DecidableEq, Repr

/-- The life of a context (R191). -/
inductive CtxSt where
  | live | killed | ended
  deriving DecidableEq, Repr

/-- A context (R191, R252, R289). -/
structure Ctx where
  st : CtxSt := .ended
  pasid : Nat := 0
  maps : List Mapping := []
  /-- The first fault: code and core number (R163, R232), and the launch whose block met it. -/
  fault : Option (Nat × Nat) := none
  faultLaunch : Option Nat := none
  /-- R235: the tick at which the first fault was met, and its gang (core × 64 + quarter × 16 + slot). -/
  faultTick : Nat := 0
  faultGang : Nat := 0
  /-- R231: the context's blocks have stopped. -/
  stopped : Bool := false
  amax : Tab Amax := []
  deriving DecidableEq, Repr

/-- A binding of a host signal word to an event (R203). -/
structure Binding where
  part : Nat
  /-- Event: object entry index of a mirror, or (run entry << 17 | c). -/
  event : Nat
  word : Nat
  fn : Nat
  last : DWord
  deriving DecidableEq, Repr

/-- Objects and contexts (ch. 8), keyed by partition × 2^32 + index. -/
structure Objs where
  tab : Tab Obj := []
  ctx : Tab Ctx := []
  /-- R192: pools by slice: offset and size. -/
  pool : Tab (Nat × Nat) := []
  /-- R198: exported events by partition, each (event index, generation). -/
  exports : Tab (List (Nat × Nat)) := []
  importers : List Importer := []
  bindings : List Binding := []
  /-- R204: partition and word of signal words written for the last time since the last SIGNAL_WORD_UPDATE. -/
  lastWords : List (Nat × Nat) := []
  deriving DecidableEq, Repr

/-- Who waits on, or holds, a sync object. -/
inductive Waiter where
  | gang (g : Nat)
  | packet (pid : Nat)
  deriving DecidableEq, Repr

/-- A waiter record (R349). -/
structure WaitRec where
  who : Waiter
  amount : DWord
  /-- Harbour time (ns). -/
  deadline : Option Nat
  owned : Bool
  /-- Destination registers of the result: first `u` register, predicate. -/
  uReg : Nat
  pReg : Nat
  part : Nat
  deriving DecidableEq, Repr

/-- A holder record (R345): the gang and the units it holds. -/
structure HoldRec where
  gang : Nat
  units : Nat
  deriving DecidableEq, Repr

/-- A semaphore (R342). -/
structure Sem where
  count : Word := 0
  ncount : Word := 0xFFFFFFFF
  abandoned : Bool := false
  bad : Bool := false
  waiters : List WaitRec := []
  holders : List HoldRec := []
  deriving DecidableEq, Repr

/-- A tally counter (R339), stored with its complement (R337). -/
structure Tally where
  value : DWord := 0
  nvalue : DWord := 0xFFFFFFFFFFFFFFFF
  bad : Bool := false
  /-- R199, R202: a mirror counter, and ORPHANED. -/
  mirror : Bool := false
  orphaned : Bool := false
  waiters : List WaitRec := []
  deriving DecidableEq, Repr

/-- An operation on its way to a sync store (R336). -/
structure SyncOp where
  kind : SyncKind
  /-- [17] type, [16:0] index. -/
  obj : Nat
  amount : DWord
  src : SyncSrc
  part : Nat
  owned : Bool
  deadline : Option Nat
  uReg : Nat
  pReg : Nat
  /-- Complement of the partition in its breakwater tag (R411). -/
  npart : Byte := ~~~(BitVec.ofNat 8 part)
  deriving DecidableEq, Repr

/-- The eight sync stores (ch. 14). -/
structure Sync where
  tally : Tab Tally := []
  sem : Tab Sem := []
  /-- Records in use per slice, and their peak (SYNC_REC_USE). -/
  recPeak : Tab Nat := []
  dbgSel : Word := 0
  recSel : Word := 0
  repair : Word := 0
  repairHi : Word := 0
  dupCnt : Nat := 0
  repulse : Nat := 0
  ops : Tab DWord := []
  /-- R336: operations sent and not yet applied, oldest first, each with its die. -/
  inbox : List (Nat × SyncOp) := []
  deriving DecidableEq, Repr

/-- One exact slot (R359): S a 176-bit two's-complement sum in units of 2^W. -/
structure Slot where
  s : BitVec 176 := 0
  w : Int := -32
  inexact : Bool := false
  pinf : Bool := false
  ninf : Bool := false
  nan : Bool := false
  range : Bool := false
  poisoned : Bool := false
  deriving DecidableEq, Repr

/-- An add in flight to a reduction unit (R356). -/
structure RedAdd where
  fmt : RedFmt
  /-- Device physical address, or the slot's number. -/
  dpa : Nat
  value : DWord
  part : Nat
  gang : Nat
  /-- Complement of the partition in its breakwater tag (R411). -/
  npart : Byte := ~~~(BitVec.ofNat 8 part)
  deriving DecidableEq, Repr

/-- One entry of a core's deferral buffer (R363, R364). -/
structure DfrEntry where
  block : Nat
  kind : DfrKind
  /-- Device physical address, slot or object word. -/
  key : Nat
  /-- The partial: the sum to add, or the units to post. -/
  value : DWord
  /-- The partial of an exact slot. -/
  slot : Slot
  /-- sem.post.own: gangs that asked for the return. -/
  gangs : List Nat
  deriving DecidableEq, Repr

/-- A commit on its way to, or held at, the ledger home (R367, R375). -/
structure Commit where
  launch : Nat
  part : Nat
  ctx : Nat
  core : Nat
  block : Nat
  /-- Linear index in the grid. -/
  index : Nat
  entries : List DfrEntry
  early : Bool
  flags : Nat
  deriving DecidableEq, Repr

/-- Reductions in memory and the ledger homes (ch. 15). -/
structure Red where
  slot : Tab Slot := []
  inflight : List RedAdd := []
  commits : List Commit := []
  held : List Commit := []
  deriving DecidableEq, Repr

/-- What a gang waits for (R211, R225, R226, R297, R349). -/
inductive GangWait where
  | ready
  /-- Parked on a sync object, or waiting for a sync store's answer. -/
  | sync (obj : Nat)
  /-- At bar.blk or bar.clu, with its deadline (harbour ns) and its result predicate. -/
  | barBlk (deadline : Nat) (p : Nat)
  | barClu (deadline : Nat) (p : Nat)
  /-- In mov.wait for a ticket. -/
  | mov (ticket : Word) (deadline p : Nat)
  /-- A load that waits for its miss registers. -/
  | mem
  /-- cim.mvm in progress. -/
  | cim
  /-- It has met a fault: it issues nothing more (R231). -/
  | fault
  deriving DecidableEq, Repr

/-- One entry of the reconvergence stack (R212). -/
structure Reconv where
  /-- The join that the branch names. -/
  label : Nat
  /-- Lanes active before the branch. -/
  all : Word
  /-- Lanes that have not yet run their side. -/
  rest : Word
  deriving DecidableEq, Repr

/-- An mma issued and not yet complete, its operands as they stood (R239, R255, R262): element formats (Table 7-7's codes),
tile, the codes of A by row and of B by row of k, the 32 scale bytes of the MX forms. -/
structure PendMma where
  fa : Nat
  fb : Nat
  tile : Nat
  a : List Nat
  b : List Nat
  scales : List Nat
  retried : Bool
  deriving DecidableEq, Repr

/-- A gang, in slot `core × 64 + quarter × 16 + slot` (R210). -/
structure Gang where
  live : Bool := false
  /-- Key of its block. -/
  block : Nat := 0
  /-- Gang index within the block. -/
  index : Nat := 0
  active : Word := 0
  exited : Word := 0
  stack : List Reconv := []
  u : Tab Word := []
  /-- Register × 32 + lane. -/
  v : Tab Word := []
  /-- Predicate registers, one bit per lane. -/
  p : Tab Word := []
  /-- Tile × 256 + row × 16 + column. -/
  tile : Tab Word := []
  ovf : Bool := false
  nan : Bool := false
  inv : Bool := false
  staleCal : Bool := false
  /-- Stochastic draws taken, by lane (R249). -/
  draws : Tab Nat := []
  wait : GangWait := .ready
  mma : Option PendMma := none
  /-- The bytes of an `ld.lt` that have come, by offset, with their poison (R333). -/
  ltBuf : List (Nat × Byte × Bool) := []
  /-- The gang has issued an instruction. -/
  issued : Bool := false
  deriving DecidableEq, Repr

/-- A block (R217 to R224), by key. -/
structure Block where
  live : Bool := false
  launch : Nat := 0
  cluster : Nat := 0
  index : Nat := 0
  rank : Nat := 0
  core : Nat := 0
  gangs : List Nat := []
  /-- Gangs that have ended. -/
  endedGangs : Nat := 0
  started : Bool := false
  exited : Bool := false
  early : Bool := false
  /-- R367: its commit is on the way, and it has been acknowledged. -/
  commitSent : Bool := false
  done : Bool := false
  flags : Nat := 0
  deriving DecidableEq, Repr

/-- Why a core is laid up. -/
inductive LayUp where
  | no | factory | field
  deriving DecidableEq, Repr

/-- A piece of work on a mover: a kernel descriptor, or a packet's piece (R226, R228). -/
inductive MovWork where
  | desc (gang block launch : Nat) (ticket : Word) (d : MoverDesc)
  | piece (pid off len : Nat)
  deriving DecidableEq, Repr

/-- A core (ch. 9). -/
structure Core where
  laid : LayUp := .no
  cause : Nat := 0
  /-- R446: the lay-up stands in the fence map, or is to be recorded there. -/
  persist : Bool := false
  rotation : Nat := 0
  dozing : Bool := false
  mover : List MovWork := []
  corrected : Nat := 0
  corrFrom : Nat := 0
  dfr : List DfrEntry := []
  /-- Written bytes of local memory: block key × 2^18 + offset. -/
  loc : List Host.Cell := []
  /-- Poisoned bytes of local memory (R275). -/
  locPoison : Tab Bool := []
  deriving DecidableEq, Repr

/-- Cores, blocks and gangs. -/
structure Cores where
  core : Tab Core := []
  block : Tab Block := []
  nextBlock : Nat := 0
  gang : Tab Gang := []
  deriving DecidableEq, Repr

/-- The progress of a running LAUNCH (R165, R213, R219, R366, R371). -/
structure Launch where
  live : Bool := false
  pid : Nat := 0
  part : Nat := 0
  ctx : Nat := 0
  entry : Nat := 0
  args : DWord := 0
  grid : Nat × Nat × Nat := (1, 1, 1)
  block : Nat := 32
  cluster : Nat := 1
  regs : Nat := 1
  locSize : Nat := 0
  slices : Word := 0
  seed : DWord := 0
  /-- Near-cache entry masks: GANG_LOAD, MATRIX, CONST, MOVER. -/
  ncMask : List DWord := []
  acc : Nat := 0
  amaxMask : DWord := 0
  nextCluster : Nat := 0
  /-- Clusters to be placed again, before any other (R373). -/
  rerun : List Nat := []
  /-- Linear indices of single blocks to be placed again beside their cluster (R234). -/
  replace : List Nat := []
  /-- Blocks of the grid that have run, and blocks that a replay ran or will run again (R165). -/
  ran : Nat := 0
  reran : Nat := 0
  flags : Nat := 0
  replayable : Bool := false
  /-- It still has its replayable status (R371). -/
  status : Bool := false
  replayed : Bool := false
  /-- Ledger bits set: linear block indices committed. -/
  ledger : Tab Bool := []
  ledgerBytes : Nat := 0
  waitLedger : Bool := false
  number : Nat := 0
  /-- Cores on which the launch has placed blocks (R298). -/
  cores : List Nat := []
  deriving DecidableEq, Repr

/-- A packet whose work is split into mover pieces (R228). -/
structure MovPkt where
  pid : Nat
  left : Nat
  /-- Bytes, elements or intact blocks done (R450). -/
  work : Nat := 0
  /-- Elements flushed by a PACK (R332). -/
  flushed : Nat := 0
  flags : Nat := 0
  /-- Offset of the first poisoned source byte. -/
  lost : Option Nat := none
  /-- Index of the first block of an UNPACK that is not well-formed. -/
  failed : Option Nat := none
  /-- Scale byte of a CONVERT (R253). -/
  scale : Nat := 127
  deriving DecidableEq, Repr

/-- Launches and mover packets in progress. -/
structure Work where
  launch : Tab Launch := []
  nextLaunch : Nat := 0
  mov : List MovPkt := []
  /-- Ledger bytes in use per partition (R366). -/
  ledgerUse : Tab Nat := []
  deriving DecidableEq, Repr

/-- A near-cache entry (R294 to R298). -/
structure NearLine where
  ctx : Nat
  /-- Near line: VA ÷ 512. -/
  line : Nat
  bytes : List Byte
  /-- Poisoned 64 B units of the line. -/
  poison : BitVec 8
  lighter : Bool
  deriving DecidableEq, Repr

/-- A miss register (R297). -/
structure Miss where
  ctx : Nat
  line : Nat
  /-- Near-cache entries its fill may take: the mask of its class (R295). -/
  mask : DWord
  lds : List MissLoad
  deriving DecidableEq, Repr

/-- A combining-buffer entry (R311): 256 B of one context, with its byte mask. -/
structure Comb where
  ctx : Nat
  va : Nat
  data : List (Option Byte)
  block : Nat
  deriving DecidableEq, Repr

/-- Coherence state of a line at one agent (R300). -/
inductive Moesi where
  | i | s | e | o | m
  deriving DecidableEq, Repr

/-- A coherence request (R301). -/
structure HomeReq where
  agent : Nat
  kind : ReqKind
  nacks : Nat
  /-- Way of the die's L2 that its fill takes (R299). -/
  way : Nat := 0
  /-- R302: harbour time in ns before which a NACKed request is not made again. -/
  due : Nat := 0
  deriving DecidableEq, Repr

/-- The directory entry of a line (R300 to R304). -/
structure DirLine where
  /-- Agent to state; absent is I. -/
  agents : Tab Moesi := []
  /-- Agents inside their tenure. -/
  tenure : List Nat := []
  queue : List HomeReq := []
  /-- Waiting for a forwarded agent, or for a back-invalidate response. -/
  busy : Bool := false
  fwdTo : Option Nat := none
  /-- R306: a host snoop of a host line that waits for tenures: whether it invalidates. -/
  snoop : Option Bool := none
  deriving DecidableEq, Repr

/-- A line that a way of an L2 set holds (R299): its number, and the partition tag of the access that filled it. -/
structure L2Line where
  line : Nat
  part : Option Nat
  deriving DecidableEq, Repr

/-- Memory and caches (ch. 12, ch. 13). -/
structure Mem where
  /-- Device memory by device physical address; an unlisted byte reads 0 (log 3). -/
  bytes : List Host.Cell := []
  /-- Poisoned 64 B units (DPA ÷ 64). -/
  poison : Tab Bool := []
  /-- R417: key generation under which a PROTECTED 64 B unit was written. -/
  gen : Tab Nat := []
  /-- Near caches: core × 64 + entry. -/
  near : Tab NearLine := []
  plru : Tab Nat := []
  miss : Tab Miss := []
  comb : Tab (List Comb) := []
  /-- Stores to lighter pages on their way to the home (R328). -/
  rmw : List LighterStore := []
  dir : Tab DirLine := []
  /-- R302: reserved requests per home, oldest first: die to (line, request), at most 32. -/
  resv : Tab (List (Nat × HomeReq)) := []
  /-- NACKs received and waiting: (line, agent, kind, count). -/
  nacked : List (Nat × HomeReq) := []
  /-- Agents where a forwarded request waits for the tenure's end: (line, agent). -/
  fwdWait : List (Nat × Nat) := []
  /-- Translations held: context × 2^33 + page of 64 KiB. -/
  tlb : Tab Bool := []
  /-- R299: what the L2 of die d holds in way w of set n, key (16 d + w) × 65,536 + n; a line that the directory shows as I at
  the die is held no more. -/
  l2 : Tab L2Line := []
  /-- R440: errors of way w of bank b of die d since the first's time: key 16 × (32 d + b) + w; time, uncorrectable, corrected. -/
  wayErr : Tab (Nat × Nat × Nat) := []
  /-- R442: laid-up ways of bank b of die d, key 32 d + b. -/
  wayOff : Tab (BitVec 16) := []
  /-- R440: corrected and uncorrectable errors of a granule since the first's time. -/
  gErr : Tab (Nat × Nat × Nat) := []
  retired : Tab Bool := []
  scrubHbm : Tab Nat := []
  scrubDeck : Tab Nat := []
  deriving DecidableEq, Repr

/-- A CIM operation (R273 to R275). -/
structure CimOp where
  /-- CIM_EXEC's packet, or the gang of cim.mvm. -/
  owner : CimOwner
  die : Nat
  slice : Nat
  ctx : Nat
  part : Nat
  inVa : Nat
  outVa : Nat
  macro_ : Nat
  count : Nat
  rowgrp : Nat
  time : Bool
  /-- Loads of its macros that it follows (ch. 7, Collisions). -/
  behind : List Nat
  stale : Bool
  /-- Complement of the partition in its breakwater tag (R411). -/
  npart : Byte := ~~~(BitVec.ofNat 8 part)
  deriving DecidableEq, Repr

/-- A CIM_LOAD in progress (R265, R266). -/
structure CimLoad where
  pid : Nat
  die : Nat
  first : Nat
  count : Nat
  deriving DecidableEq, Repr

/-- Computing in the deck (ch. 11). -/
structure Cim where
  autoRecal : Bool := true
  staleWait : Bool := false
  calBusy : BitVec 8 := 0
  calReq : BitVec 8 := 0
  calFail : BitVec 8 := 0
  calValid : BitVec 8 := 0
  zeroed : Word := 0
  activeMax : Tab Nat := []
  active : Tab Nat := []
  peak : Tab Nat := []
  opsDig : Tab DWord := []
  opsTime : Tab DWord := []
  calTime : Tab DWord := []
  calTrim : Tab Word := []
  /-- Poisoned macros: die × 8192 + macro. -/
  poisoned : Tab Bool := []
  /-- By slice: the running operation and the waiting ones. -/
  running : Tab CimOp := []
  queue : Tab (List CimOp) := []
  /-- R273: by die, the local slice last granted. -/
  last : Tab Nat := []
  loads : List CimLoad := []
  calTry : Tab Nat := []
  /-- CIM_CALIBRATE packets: packet and dies left. -/
  calPkts : List (Nat × BitVec 8) := []
  /-- CIM_EXEC packets: packet, vectors left, operations done, stale. -/
  execs : List CimExecSt := []
  deriving DecidableEq, Repr

/-- The state of this device in its fleet (Table 16-4). -/
inductive FleetOwn where
  | standalone | forming | joined | adrift | unjoined
  deriving DecidableEq, Repr

/-- The state of another device, as this one holds it. -/
inductive FleetDevSt where
  | free | joined | asleep | dormant | lost | reserved
  deriving DecidableEq, Repr

/-- One row of the device table. -/
structure FleetDev where
  st : FleetDevSt := .free
  links : Nat := 0
  path : List Nat := []
  sn : DWord := 0
  /-- Tick of the last BEAT. -/
  lastBeat : Nat := 0
  /-- R400: it has an ASSIGN and has not yet sent its first BEAT. -/
  returning : Bool := false
  /-- R400: the next barrier that it takes part in realigns its pairs. -/
  realign : Bool := false
  /-- R396: tick from which an ASLEEP worker has had no route. -/
  cutFrom : Option Nat := none
  deriving DecidableEq, Repr

/-- A producer or consumer entry of the pair table (R394). -/
structure Pair where
  valid : Bool := false
  broken : Bool := false
  refused : Bool := false
  byManager : Bool := false
  frozen : Bool := false
  /-- R405: registered since this device last received OPEN; it takes part from the next. -/
  recent : Bool := false
  peer : Nat := 0
  part : Nat := 0
  counter : Nat := 0
  /-- The entry at the other end, when known. -/
  other : Nat := 0
  /-- S or A of the epochs that a barrier has taken, and of the later epochs one by one (epoch modulo 256). -/
  total : DWord := 0
  byEpoch : Tab DWord := []
  deriving DecidableEq, Repr

/-- A remote window channel (R391). -/
structure RwChan where
  ctrl : Word := 0
  len : Word := 0
  dpa : DWord := 0
  bus : DWord := 0
  /-- STAT: DONE, BUSY and STATUS. -/
  done : Bool := false
  busy : Bool := false
  status : Nat := 0
  /-- Bytes whose messages are acknowledged. -/
  acked : Nat := 0
  /-- Messages not yet answered: MSG_ID or REQ_TAG, offset, bytes. -/
  ids : List (DWord × Nat × Nat) := []
  deriving DecidableEq, Repr

/-- The phase of the running barrier (R401). -/
inductive BarPhase where
  | idle | open_ | close | advance
  deriving DecidableEq, Repr

/-- The barrier in progress, at the manager and at a device (R401). -/
structure Barrier where
  phase : BarPhase := .idle
  k : Nat := 0
  /-- FLEET_DRAIN as it stood at the start (R405). -/
  drainUs : Nat := 10000
  openTick : Nat := 0
  /-- PERIOD that a FLEET_BARRIER sets at its end; 0 keeps it. -/
  period : Nat := 0
  parts : List Nat := []
  drained : List Nat := []
  applied : List Nat := []
  /-- S(≤k) and A(≤k) as reported: (producer, consumer device, counter, total). -/
  sTot : List (Nat × Nat × Nat × DWord) := []
  aTot : List (Nat × Nat × Nat × Nat × DWord) := []
  /-- ADVANCE messages not yet acknowledged: (device, index). -/
  adv : List (Nat × Nat) := []
  advanced : Nat := 0
  /-- FLEET_BARRIER packet, if one asked for it. -/
  pid : Option Nat := none
  /-- Whether this device has still to reply DRAINED for this barrier. -/
  owesDrained : Bool := false
  deriving DecidableEq, Repr

/-- A message kept until it is acknowledged (R386): whether it is now with a port, and whether it has ever been, which
fixed its epoch (R401) and counted it in its pair's sent total (R394). -/
structure HeldMsg where
  msg : FleetMsg
  sent : Bool
  stamped : Bool
  deriving DecidableEq, Repr

/-- The fleet layer (ch. 16). -/
structure Fleet where
  own : FleetOwn := .forming
  refused : Bool := false
  devNum : Option Nat := none
  id : Word := 0
  expect : Nat := 0
  barrierEn : Bool := true
  period : Word := 100
  drain : Word := 10000
  /-- The present epoch, and the barriers completed (FLEET_EPOCH). -/
  epoch : Nat := 1
  barriers : Nat := 0
  lateCnt : Nat := 0
  advCnt : Nat := 0
  dev : Tab FleetDev := []
  /-- Route table: device to egress port. -/
  route : Tab Nat := []
  /-- Topology known to the manager: the peer serial numbers on each device's ports, from its ANNOUNCE. -/
  peers : Tab (List DWord) := []
  /-- R379: announces heard in the round: serial number, fleet ID, port path, the peers' serial numbers. -/
  round : List (DWord × Word × List Nat × List DWord) := []
  roundOpen : Bool := false
  /-- Tick of the round's first ANNOUNCE. -/
  roundTick : Nat := 0
  /-- Messages received and not yet acted on, oldest first: port, credit pool, message (R397). -/
  inbox : List (Nat × Nat × FleetMsg) := []
  /-- Messages of other devices that wait for a route onward (R386). -/
  relay : List FleetMsg := []
  /-- R386: messages kept until acknowledged, oldest first. -/
  held : List HeldMsg := []
  msgCnt : Nat := 0
  /-- R385: accepted IDs by source, newest first, with the STATUS of a FORWARD. -/
  accepted : Tab (List (DWord × List Byte)) := []
  pairSel : Word := 0
  prod : Tab Pair := []
  cons : Tab Pair := []
  rw : Tab RwChan := []
  bar : Barrier := {}
  /-- FLEET_BARRIER packets waiting, with their PERIOD. -/
  barWait : List (Nat × Nat) := []
  closed : Option Nat := none
  /-- R400: sent totals last reported before a loss. -/
  lastS : List (Nat × Nat × Nat × DWord) := []
  /-- R389: FLEET_FORWARD packets, the MSG_ID each waits for, and the device. -/
  fwdOut : List (Nat × DWord × Nat) := []
  /-- TALLY_ADD and SEM_POST packets and the MSG_ID each waits for; EVENT_IMPORT by REQ_TAG. -/
  syncOut : List (Nat × DWord × Nat) := []
  importOut : List (Nat × DWord × Nat) := []
  /-- FORWARD packets whose inner reply is owed: MSG_ID and source by packet. -/
  fwdIn : List (Nat × DWord × Nat) := []
  /-- ADVANCE messages of the present barrier already applied: message index. -/
  advSeen : List Nat := []
  /-- Tick of the last BEAT received from the manager. -/
  mgrBeat : Nat := 0
  /-- Tick of the last barrier start. -/
  lastBarrier : Nat := 0
  deriving DecidableEq, Repr

/-- One journal slot of the persistent store (Table 18-7). -/
structure NvmSlot where
  /-- Header programmed with correct fields for this record (its complements and CRC hold). -/
  hdr : Bool := false
  seq : Word := 0
  data : List Byte := []
  /-- The data programmed agree with DATA_CRC. -/
  dataOk : Bool := false
  marker : Bool := false
  erases : Nat := 0
  deriving DecidableEq, Repr

/-- What a queued write of the store is for (R455, R459). -/
inductive NvmWhy where
  | packet (pid : Nat)
  | internal
  /-- ActivateFirmware waits for it (R485). -/
  | activate
  /-- The mailbox CONFIRM waits for it (R35). -/
  | confirm
  /-- The ROM waits for it before it tries the image sources (R35). -/
  | rom
  deriving DecidableEq, Repr

/-- A queued write of a record. -/
structure NvmWrite where
  rec_ : Nat
  data : List Byte
  why : NvmWhy
  deriving DecidableEq, Repr

/-- Phase of the write in progress (R455). -/
inductive NvmPhase where
  | erase
  | page (n : Nat)
  | hdr
  | marker
  deriving DecidableEq, Repr

/-- An operation on the target slot of a firmware update (R485): the erase of one of its 64 KiB blocks, or the program of
one page, whose bytes start at an offset in the slot. -/
inductive SlotJob where
  | erase (slot blk : Nat)
  | page (slot off : Nat) (bytes : List Byte)
  deriving DecidableEq, Repr

/-- Record 0 of a device as shipped: slot A active, trial state NONE (Table 18-6, log 4). -/
def bootSelectorShipped : List Byte := [0, 0xFF, 0, 0xFF]

/-- Record 1 of a device as shipped: every core enabled, no way laid up (Table 18-8, log 4). -/
def fenceMapShipped : List Byte :=
  (List.replicate 768 [(0 : Byte), 0xFF]).flatten ++ (List.replicate 256 [(0 : Byte), 0, 0xFF, 0xFF]).flatten

/-- The persistent store and its controller (ch. 18); the records survive every reset. -/
structure Nvm where
  /-- Record × 2 + slot; records 0 and 1 as shipped, the others erased (log 4). -/
  slot : Tab NvmSlot :=
    [(0, { hdr := true, data := bootSelectorShipped, dataOk := true, marker := true, erases := 1 }),
     (2, { hdr := true, data := fenceMapShipped, dataOk := true, marker := true, erases := 1 })]
  /-- Bytes programmed in pilot image slots A (0) and B (1). -/
  img : Tab (List Host.Cell) := []
  queue : List NvmWrite := []
  cur : Option (NvmWrite × Nat × NvmPhase × Bool) := none
  /-- R458: the write in progress is interrupted: the page program under way finishes and no further page follows. -/
  stop : Bool := false
  /-- R485, R491: operations on the target slot that wait, oldest first, and the one in progress; while one is, the record
  write in `cur` waits for its turn. -/
  slotJobs : List SlotJob := []
  slotBusy : Option SlotJob := none
  /-- R446: recordings of the device's own that wait until writes are accepted again. -/
  waiting : List NvmWrite := []
  refusing : Bool := false
  /-- NVM_WRITE packets that wait because 16 writes are queued hold their queue's head; none is kept here. -/
  writes : Word := 0
  fails : Nat := 0
  wearMax : Nat := 0
  lastOut : Nat := 0
  lastRec : Nat := 0
  deriving DecidableEq, Repr

/-- One log entry (Table 18-8a). -/
structure LogEntry where
  seq : Nat
  time : DWord
  event : Nat
  gap : Bool
  sev : Nat
  part : Option Nat
  tag : Word
  unit : Nat
  code : Nat
  addr : DWord
  payload : List Byte
  deriving DecidableEq, Repr

/-- The event log and the status history (R460 to R464). -/
structure LogBlk where
  entries : List LogEntry := []
  next : Nat := 0
  overflow : Bool := false
  gapNext : Bool := false
  dropCnt : Nat := 0
  intSev : Nat := 3
  sel : Word := 0
  history : List LogEntry := []
  histNext : Nat := 0
  /-- R461: corrected errors of the present second by unit: second, count. -/
  corr : Tab (Nat × Nat) := []
  deriving DecidableEq, Repr

/-- The FENCE block (ch. 18); the lay-ups themselves are in `Core`. -/
structure Fence where
  pending : Bool := false
  repaired : Bool := false
  autoPersist : Bool := true
  mapSeq : Word := 0
  deriving DecidableEq, Repr

/-- MCTP, PLDM, SPDM and SMBus (ch. 17, ch. 19). -/
structure Mgmt where
  /-- Endpoint ID by binding: 0 SMBus, 1 PCIe VDM. -/
  eid : Tab Nat := []
  /-- Reassembly by binding × 256 + source: next sequence number, message bytes. -/
  reasm : Tab (Nat × List Byte) := []
  /-- The last complete message of each binding × 256 + source that no command has answered yet. -/
  inbox : Tab (List Byte) := []
  tid : BitVec 8 := 0
  /-- R482: event receiver (binding, endpoint). -/
  receiver : Option (Nat × Nat) := none
  /-- R483: undelivered events (sensor, new state, retries). -/
  events : List (Nat × Nat × Nat) := []
  /-- Last states reported of sensors 1 to 8 and 64, 65. -/
  lastState : Tab Nat := []
  upd : UpdPhase := .idle
  updBind : Nat := 0
  updTarget : Nat := 0
  updSize : Nat := 0
  updOff : Nat := 0
  updMax : Nat := 0
  /-- R485: bytes of the image that have come and do not fill a page yet. -/
  updPage : List Byte := []
  /-- Endpoint of the update agent. -/
  updSource : Nat := 0
  /-- Version of the image that was verified, or that waits for activation. -/
  updPending : Option Word := none
  /-- SPDM connection phase by transport: 0, 1 MCTP bindings; 2 PF DOE; 3 + n VF n DOE. -/
  spdm : Tab Nat := []
  /-- Sessions: (transport, session, established). -/
  sessions : List (Nat × Nat × Bool) := []
  deriving DecidableEq, Repr

/-- Instructions of the TAP (Table 19-7). -/
inductive TapIr where
  | bypass | idcode | samplePreload | extest | clamp | highz | extestPulse | extestTrain
  deriving DecidableEq, Repr

/-- JTAG (R488, R489). -/
structure Jtag where
  /-- IDCODE after Test-Logic-Reset, as IEEE 1149.1 (log 5). -/
  ir : TapIr := .idcode
  /-- The boundary register, the cell nearest TDO first; its length is the package's (log 75). -/
  bsr : List Bool := []
  /-- The TEST_MODE pin, tied low (R488). -/
  testMode : Bool := false
  deriving DecidableEq, Repr

/-- The device. -/
structure State where
  ao : Ao := {}
  boot : Boot := {}
  host : HostPort := {}
  /-- The eight Hawser ports. -/
  hws : Tab Port := []
  tw : Tw := {}
  time : TimeBlk := {}
  pwr : Pwr := {}
  q : Queues := {}
  part : Parts := {}
  obj : Objs := {}
  sync : Sync := {}
  red : Red := {}
  core : Cores := {}
  work : Work := {}
  mem : Mem := {}
  cim : Cim := {}
  fleet : Fleet := {}
  nvm : Nvm := {}
  log : LogBlk := {}
  fence : Fence := {}
  mgmt : Mgmt := {}
  jtag : Jtag := {}
  /-- What the device has sent to the outside, newest first (log 6). -/
  out : List Output := []
  /-- The counter behind the free values (log 7). -/
  free : Nat := 0
  /-- The commands waiting, first in first out (log 1). -/
  pending : List Instr := []
  deriving DecidableEq, Repr

/-- The machine right after reset: the cold reset asserted, every field at its default (R24, R41). -/
def State.reset : State := {}

/-- The update of `ao`. -/
def State.onAo (f : Ao → Ao) (s : State) : State := { s with ao := f s.ao }
/-- The update of `boot`. -/
def State.onBoot (f : Boot → Boot) (s : State) : State := { s with boot := f s.boot }
/-- The update of `host`. -/
def State.onHost (f : HostPort → HostPort) (s : State) : State := { s with host := f s.host }
/-- The update of `hws`. -/
def State.onHws (f : (Tab Port) → Tab Port) (s : State) : State := { s with hws := f s.hws }
/-- The update of `tw`. -/
def State.onTw (f : Tw → Tw) (s : State) : State := { s with tw := f s.tw }
/-- The update of `time`. -/
def State.onTime (f : TimeBlk → TimeBlk) (s : State) : State := { s with time := f s.time }
/-- The update of `pwr`. -/
def State.onPwr (f : Pwr → Pwr) (s : State) : State := { s with pwr := f s.pwr }
/-- The update of `q`. -/
def State.onQ (f : Queues → Queues) (s : State) : State := { s with q := f s.q }
/-- The update of `part`. -/
def State.onPart (f : Parts → Parts) (s : State) : State := { s with part := f s.part }
/-- The update of `obj`. -/
def State.onObj (f : Objs → Objs) (s : State) : State := { s with obj := f s.obj }
/-- The update of `sync`. -/
def State.onSync (f : Sync → Sync) (s : State) : State := { s with sync := f s.sync }
/-- The update of `red`. -/
def State.onRed (f : Red → Red) (s : State) : State := { s with red := f s.red }
/-- The update of `core`. -/
def State.onCore (f : Cores → Cores) (s : State) : State := { s with core := f s.core }
/-- The update of `work`. -/
def State.onWork (f : Work → Work) (s : State) : State := { s with work := f s.work }
/-- The update of `mem`. -/
def State.onMem (f : Mem → Mem) (s : State) : State := { s with mem := f s.mem }
/-- The update of `cim`. -/
def State.onCim (f : Cim → Cim) (s : State) : State := { s with cim := f s.cim }
/-- The update of `fleet`. -/
def State.onFleet (f : Fleet → Fleet) (s : State) : State := { s with fleet := f s.fleet }
/-- The update of `nvm`. -/
def State.onNvm (f : Nvm → Nvm) (s : State) : State := { s with nvm := f s.nvm }
/-- The update of `log`. -/
def State.onLog (f : LogBlk → LogBlk) (s : State) : State := { s with log := f s.log }
/-- The update of `fence`. -/
def State.onFence (f : Fence → Fence) (s : State) : State := { s with fence := f s.fence }
/-- The update of `mgmt`. -/
def State.onMgmt (f : Mgmt → Mgmt) (s : State) : State := { s with mgmt := f s.mgmt }
/-- The update of `jtag`. -/
def State.onJtag (f : Jtag → Jtag) (s : State) : State := { s with jtag := f s.jtag }
/-- The update of `out`. -/
def State.onOut (f : (List Output) → List Output) (s : State) : State := { s with out := f s.out }
/-- The update of `free`. -/
def State.onFree (f : Nat → Nat) (s : State) : State := { s with free := f s.free }
/-- The update of `pending`. -/
def State.onPending (f : (List Instr) → List Instr) (s : State) : State := { s with pending := f s.pending }

end Sys2Proof.Machine
end

