-- ==== Sys2Proof/Machine/Ops.lean ====
section
/-! DEFINITION. The operations every unit shares: sparse tables, bytes, device memory, harbour time, interrupts, the
event log, ALERT_N, free values, and the state of power that decides who may act. -/

namespace Sys2Proof

/-- The entry at index `k`, `d` where none is listed. -/
def Tab.look {α : Type} (t : Tab α) (k : Nat) (d : α) : α :=
  match t with
  | [] => d
  | (i, a) :: r => if i = k then a else Tab.look r k d

/-- The entry at index `k`, if one is listed. -/
def Tab.find {α : Type} (t : Tab α) (k : Nat) : Option α :=
  match t with
  | [] => none
  | (i, a) :: r => if i = k then some a else Tab.find r k

/-- The table without index `k`. -/
def Tab.drop {α : Type} (t : Tab α) (k : Nat) : Tab α :=
  match t with
  | [] => []
  | (i, a) :: r => if i = k then Tab.drop r k else (i, a) :: Tab.drop r k

/-- The table with `v` at index `k`, its place kept by rising index. -/
def Tab.ins {α : Type} (t : Tab α) (k : Nat) (v : α) : Tab α :=
  match t with
  | [] => [(k, v)]
  | (i, a) :: r => if k < i then (k, v) :: (i, a) :: r else if k = i then (k, v) :: r else (i, a) :: Tab.ins r k v

/-- The table after writing `v` at index `k`: the default `d` is never listed. -/
def Tab.put {α : Type} [DecidableEq α] (t : Tab α) (k : Nat) (d v : α) : Tab α :=
  if v = d then t.drop k else t.ins k v

/-- The table after changing entry `k` by `f`. -/
def Tab.upd {α : Type} [DecidableEq α] (t : Tab α) (k : Nat) (d : α) (f : α → α) : Tab α :=
  t.put k d (f (t.look k d))

/-- Canonical form: indices strictly rising and no entry equal to the default. -/
def Tab.wf {α : Type} [DecidableEq α] (d : α) : Tab α → Bool
  | [] => true
  | [(_, a)] => a ≠ d
  | (i, a) :: (j, b) :: r => decide (a ≠ d) && decide (i < j) && Tab.wf d ((j, b) :: r)

/-- Bits `lo` to `lo + len − 1` of a word, as a number. -/
def bits {n : Nat} (w : BitVec n) (lo len : Nat) : Nat := (w.toNat >>> lo) % 2 ^ len

/-- The word with bit `i` set. -/
def setBit {n : Nat} (w : BitVec n) (i : Nat) : BitVec n := w ||| BitVec.twoPow n i

/-- The word with bit `i` cleared. -/
def clearBit {n : Nat} (w : BitVec n) (i : Nat) : BitVec n := w &&& ~~~ BitVec.twoPow n i

/-- The word with bit `i` as given. -/
def putBit {n : Nat} (w : BitVec n) (i : Nat) (b : Bool) : BitVec n := if b then setBit w i else clearBit w i

/-- The numbers of the bits that are 1. -/
def ones {n : Nat} (w : BitVec n) : List Nat := (List.range n).filter fun i => w.getLsbD i

/-- The word whose 1 bits are those listed. -/
def maskOf (n : Nat) (l : List Nat) : BitVec n := l.foldl setBit 0

/-- How many bits are 1. -/
def popcount {n : Nat} (w : BitVec n) : Nat := (ones w).length

/-- A boolean as a number. -/
def b2n (b : Bool) : Nat := if b then 1 else 0

/-- One more, saturating at 2^32 − 1. -/
def satInc (n : Nat) : Nat := if n < 0xFFFFFFFF then n + 1 else 0xFFFFFFFF

/-- `n` bytes of a number, little-endian. -/
def toLe : Nat → Nat → List Byte
  | 0, _ => []
  | n + 1, w => BitVec.ofNat 8 w :: toLe n (w / 256)

/-- The number that bytes spell, little-endian. -/
def ofLe : List Byte → Nat
  | [] => 0
  | b :: r => b.toNat + 256 * ofLe r

/-- Field of `len` bytes at offset `o` of a byte list, little-endian; missing bytes read 0. -/
def field (bs : List Byte) (o len : Nat) : Nat := ofLe ((bs.drop o).take len)

/-- All bytes from offset `o`, `len` long, are zero. -/
def zeroAt (bs : List Byte) (o len : Nat) : Bool := ((bs.drop o).take len).all (· == 0)

/-- A 64-bit register pair: value in [31:0], complement in [63:32]. -/
def pairOk (w : DWord) : Bool := bits w 32 32 == 0xFFFFFFFF - bits w 0 32

/-- The pair that holds a 32-bit value. -/
def mkPair (v : Word) : DWord := BitVec.ofNat 64 (v.toNat + (0xFFFFFFFF - v.toNat) * 2 ^ 32)

/-- The value half of a pair. -/
def pairVal (w : DWord) : Word := w.setWidth 32

namespace Machine

/-- What a meaning answers. -/
abbrev Result := Host.Outcome State Fault Refusal

/-- Harbour time in whole nanoseconds (R100). -/
def State.nowNs (s : State) : Nat := s.time.harbour / 2 ^ 24

/-- Harbour time as TIME_NOW shows it. -/
def State.now (s : State) : DWord := BitVec.ofNat 64 s.nowNs

/-- Something leaves the device. -/
def State.emit (o : Output) (s : State) : State := s.onOut (o :: ·)

/-- A fresh free value (log 7). -/
def State.fresh (s : State) : DWord × State := (Config.free s.free, s.onFree (· + 1))

/-- The device is in SLEEP or DEEP. -/
def State.asleep (s : State) : Bool := s.pwr.dev == .sleep || s.pwr.dev == .deep

/-- The device is READY or AWAKE, its fast domains running (Table 5-5, R118). -/
def State.awake (s : State) : Bool := s.pwr.dev == .ready || s.pwr.dev == .awake

/-- An MSI-X message on vector `v` of function `fn` (0 the PF, n + 1 VF n), or its pending bit while it is masked
(R475, R477). -/
def State.msixSend (fn v : Nat) (s : State) : State :=
  if fn = 0 then
    let e := s.host.msix.look v {}
    if s.host.msixEnable && !s.host.msixFmask && !e.masked then s.emit (.msix 0 e.addr e.data)
    else s.onHost fun h => { h with msix := h.msix.put v {} { e with pending := true } }
  else
    let f := s.host.vfs.look (fn - 1) {}
    let e := f.msix.look v {}
    if f.msixEnable && !f.msixFmask && !e.masked then s.emit (.msix fn e.addr e.data)
    else s.onHost fun h =>
      { h with vfs := h.vfs.put (fn - 1) {} { f with msix := f.msix.put v {} { e with pending := true } } }

/-- PF cause `k` of Table 19-3 occurs (R474, R475). -/
def State.raise (k : Nat) (s : State) : State :=
  if s.host.intCause.getLsbD k then s
  else
    let t := s.onHost fun h => { h with intCause := setBit h.intCause k }
    if s.asleep then t.onHost fun h => { h with heldCauses := setBit h.heldCauses k }
    else if s.host.intMask.getLsbD k then t
    else t.msixSend 0 (s.host.intVec.look k 0).toNat

/-- The VF vector of cause `b`: VFS_VEC holds QUEUE at [2:0], LOG at [6:4] and FROZEN at [10:8] (Table 19-11). -/
def Vfs.vecOf (f : Vfs) (b : Nat) : Nat := bits f.vec (4 * b) 3

/-- VF `n` cause `b` occurs: 0 QUEUE, 1 LOG, 2 FROZEN (R477). -/
def State.raiseVf (n b : Nat) (s : State) : State :=
  let f := s.host.vfs.look n {}
  if f.cause.getLsbD b then s
  else
    let t := s.onHost fun h => { h with vfs := h.vfs.put n {} { f with cause := setBit f.cause b } }
    if s.asleep then t.onHost fun h => { h with heldVfs := h.heldVfs.upd n 0 fun m => setBit m b }
    else if f.mask.getLsbD b then t
    else t.msixSend (n + 1) (f.vecOf b)

/-- What an occurrence gives the event log (R461). DESIGN CHOICE (log 100): fields and severities that no table states. -/
structure Occ where
  event : Nat
  sev : Nat
  part : Option Nat := none
  tag : Word := 0
  unit : Nat := 0xFFF
  code : Nat := 0
  addr : DWord := 0
  payload : List Byte := []

/-- A log entry of an occurrence, with sequence number `n`. -/
def Occ.entry (o : Occ) (n : Nat) (gap : Bool) (t : DWord) : LogEntry :=
  { seq := n, time := t, event := o.event, gap := gap, sev := o.sev, part := o.part, tag := o.tag, unit := o.unit,
    code := o.code, addr := o.addr, payload := o.payload }

/-- Free-running 31-bit sequence numbers (R460). -/
def seq31 (n : Nat) : Nat := n % 2 ^ 31

/-- R462: an entry of severity `sev` is dropped. -/
def LogBlk.drops (l : LogBlk) (sev : Nat) : Bool :=
  decide (4096 ≤ l.entries.length) || (decide (3840 ≤ l.entries.length) && decide (sev < 3))

/-- R462: a dropped entry uses up its number, sets OVERFLOW and marks the next entry. -/
def LogBlk.dropOne (l : LogBlk) : LogBlk :=
  { l with next := seq31 (l.next + 1), overflow := true, gapNext := true, dropCnt := satInc l.dropCnt }

/-- R460: an accepted entry. -/
def LogBlk.accept (o : Occ) (t : DWord) (l : LogBlk) : LogBlk :=
  { l with entries := l.entries ++ [o.entry l.next l.gapNext t], next := seq31 (l.next + 1), gapNext := false }

/-- An occurrence is logged (R460 to R464, R477). -/
def State.logOcc (o : Occ) (s : State) : State :=
  if s.log.drops o.sev then
    let t := s.onLog LogBlk.dropOne
    if s.log.overflow then t else t.raise 3
  else
    let t := s.onLog (LogBlk.accept o s.now)
    let t := if s.log.intSev ≤ o.sev then t.raise 3 else t
    match o.part with
    | none => t
    | some p => if (s.host.vfs.look p {}).logSev.toNat ≤ o.sev then t.raiseVf p 1 else t

/-- R461: corrected errors are counted by unit and second; the count of a past second is logged when the unit's next
error, or the tick, finds the second over (log 8). -/
def State.corrected (unit : Nat) (s : State) : State :=
  let sec := s.nowNs / 1000000000
  match s.log.corr.find unit with
  | none => s.onLog fun l => { l with corr := l.corr.ins unit (sec, 1) }
  | some (t, n) =>
    if t = sec then s.onLog fun l => { l with corr := l.corr.ins unit (sec, n + 1) }
    else
      (s.logOcc { event := 0x301, sev := 1, unit := unit, payload := toLe 4 n }).onLog fun l =>
        { l with corr := l.corr.ins unit (sec, 1) }

/-- Bits of TW_ALERT (Table 4-10): 0 INTEGRITY, 1 RULE, 2 WARN, 3 TRIP, 4 SENSOR, 5 ADC. -/
def State.alert (b : Nat) (s : State) : State := s.onTw fun w => { w with alert := setBit w.alert b }

/-- A complement mismatch is logged and asserts ALERT_N (R6, R509). -/
def State.mismatch (event : Nat) (part : Option Nat) (addr : DWord) (s : State) (tag : Word := 0) : State :=
  (s.logOcc { event := event, sev := 2, part := part, tag := tag, addr := addr }).alert 0

/-- Bytes of device memory; an unlisted byte reads 0 (log 3). -/
def Mem.read (m : Mem) (a n : Nat) : List Byte := (List.range n).map fun i => Tab.look (α := Byte) m.bytes (a + i) 0

/-- Device memory after writing bytes from address `a`. -/
def memWrite (m : List Host.Cell) (a : Nat) : List Byte → List Host.Cell
  | [] => m
  | b :: r => memWrite (Tab.put (α := Byte) m a 0 b) (a + 1) r

/-- The 64 B units that `n` bytes from `a` touch. -/
def unitsOf (a n : Nat) : List Nat := if n = 0 then [] else (List.range ((a + n - 1) / 64 - a / 64 + 1)).map (a / 64 + ·)

/-- A unit is poisoned (R316). -/
def Mem.poisoned (m : Mem) (a n : Nat) : Bool := (unitsOf a n).any fun u => m.poison.look u false

/-- Units become poisoned (R316). -/
def Mem.poisonAt (m : Mem) (a n : Nat) : Mem :=
  { m with poison := (unitsOf a n).foldl (fun t u => t.put u false true) m.poison }

/-- R316: a store that covers a whole 64 B unit clears its poison, a partial store leaves it. -/
def Mem.clearWhole (m : Mem) (a n : Nat) : Mem :=
  { m with
    poison := (unitsOf a n).foldl
      (fun t u => if a ≤ 64 * u ∧ 64 * u + 64 ≤ a + n then t.put u false false else t) m.poison }

/-- A plain store of bytes at a device physical address. -/
def Mem.store (m : Mem) (a : Nat) (bs : List Byte) : Mem :=
  { m.clearWhole a bs.length with bytes := memWrite m.bytes a bs }

/-- A range filled with zeros: nothing of it stays listed. -/
def Mem.zero (m : Mem) (a n : Nat) : Mem :=
  let out : Nat → Bool := fun u => decide (64 * u + 64 ≤ a ∨ a + n ≤ 64 * u)
  { m with
    bytes := m.bytes.filter (fun c => decide (c.1 < a ∨ a + n ≤ c.1))
    poison := m.poison.filter (fun c => out c.1)
    gen := m.gen.filter (fun c => out c.1) }

/-- The die of a slice (R209). -/
def dieOf (sl : Nat) : Nat := sl / 4

/-- The slice of a core (R209). -/
def sliceOf (c : Nat) : Nat := c / 24

/-- R287: base of a slice's 9 GiB HBM share. -/
def hbmBase (sl : Nat) : Nat := (sl / 4) * 0x900000000 + (sl % 4) * 0x240000000

/-- R287: base of a slice's 128 MiB share of deck tier `t` of its die. -/
def deckBase (sl t : Nat) : Nat :=
  0x6000000000 + (sl / 4) * 0x80000000 + t * 0x20000000 + (sl % 4) * 0x08000000

/-- R287: the slice in whose share a device physical address lies, and its tier: 0 HBM, 1 to 4 the deck tiers. -/
def shareOf (a : Nat) : Option (Nat × Nat) :=
  if a < 8 * 0x900000000 then some ((a / 0x900000000) * 4 + (a % 0x900000000) / 0x240000000, 0)
  else if 0x6000000000 ≤ a ∧ a < 0x6000000000 + 8 * 0x80000000 then
    let o := a - 0x6000000000
    some ((o / 0x80000000) * 4 + (o % 0x20000000) / 0x08000000, (o % 0x80000000) / 0x20000000 + 1)
  else none

/-- The value half of PART_MAP[n]. -/
def State.pmap (s : State) (n : Nat) : Word := pairVal (s.part.map.look n (mkPair 0))

/-- Partition `n` exists (PART_MAP.VALID). -/
def State.partExists (s : State) (n : Nat) : Bool := (s.pmap n).getLsbD 31

/-- Partition `n` is STRICT. -/
def State.strict (s : State) (n : Nat) : Bool := (s.pmap n).getLsbD 30

/-- Slices that partition `n` owns. -/
def State.slicesOf (s : State) (n : Nat) : Word := pairVal (s.part.slices.look n (mkPair 0))

/-- The partition that owns a slice. -/
def State.owner (s : State) (sl : Nat) : Option Nat :=
  (List.range 32).find? fun n => s.partExists n && (s.slicesOf n).getLsbD sl

/-- R410: both pairs of a partition's entry in the map match their complements. -/
def State.mapOk (s : State) (n : Nat) : Bool :=
  pairOk (s.part.map.look n (mkPair 0)) && pairOk (s.part.slices.look n (mkPair 0))

/-- Partition `n` owns slice `sl`, by a map whose pairs match (R410). -/
def State.owns (s : State) (n sl : Nat) : Bool := s.mapOk n && s.partExists n && (s.slicesOf n).getLsbD sl

/-- R436: partition `n` is frozen, or is to be: its map does not match. -/
def State.isFrozen (s : State) (n : Nat) : Bool := s.part.frozen.getLsbD n || !s.mapOk n

/-- A core is enabled. -/
def State.coreOn (s : State) (c : Nat) : Bool := (s.core.core.look c {}).laid == .no

/-- The enabled-core mask of a slice (QUERY item 2). -/
def State.coreMask (s : State) (sl : Nat) : BitVec 24 :=
  maskOf 24 ((List.range 24).filter fun c => s.coreOn (sl * 24 + c))

/-- Enabled cores of the device. -/
def State.coresOn (s : State) : Nat := ((List.range 768).filter s.coreOn).length

/-- A slice, by number. -/
def State.slice (s : State) (n : Nat) : Slice := s.pwr.slice.look n {}

/-- The update of one slice. -/
def State.onSlice (n : Nat) (f : Slice → Slice) (s : State) : State :=
  s.onPwr fun p => { p with slice := p.slice.upd n {} f }

/-- The update of one die. -/
def State.onDie (d : Nat) (f : Die → Die) (s : State) : State :=
  s.onPwr fun p => { p with die := p.die.upd d {} f }

/-- R442: all four ways of the slice are laid up in one bank of its die's L2; bits [4k + 3:4k] are local slice k's ways
(R299). -/
def State.waysGone (s : State) (n : Nat) : Bool :=
  (List.range 32).any fun b => bits (s.mem.wayOff.look (32 * dieOf n + b) 0) (4 * (n % 4)) 4 == 15

/-- Where the lines of host memory are numbered from. -/
def hostLine : Nat := 2 ^ 40

/-- A line of HBM (R300). -/
def hbmLine (l : Nat) : Bool := decide (l * 256 < 8 * 0x900000000)

/-- The directory entry of a line. -/
def State.dirAt (s : State) (l : Nat) : DirLine := s.mem.dir.look l {}

/-- The update of a directory entry. -/
def State.onDir (l : Nat) (f : DirLine → DirLine) (s : State) : State := s.onMem fun m => { m with dir := m.dir.upd l {} f }

/-- The state of a line at an agent. -/
def DirLine.at_ (d : DirLine) (x : Nat) : Moesi := d.agents.look x .i

/-- R301, R317: agent `x` gives up its copy. -/
def State.giveUp (l x : Nat) (s : State) : State :=
  s.onDir l fun d => { d with agents := d.agents.drop x, tenure := d.tenure.filter fun a => a != x }

/-- L2 lines of die `d` in the ways that `p` names, of the sets that `q` names (R299). -/
def State.l2Lines (s : State) (d : Nat) (p : Nat → Nat → Bool) : List Nat :=
  (s.mem.l2.filter fun e => e.1 / 2 ^ 20 == d && p (e.1 / 65536 % 16) (e.1 % 65536)).map fun e => e.2.line

/-- Lines leave the L2 of die `d`: dirty ones are written back, and the directory shows no copy (R115, R442). -/
def State.l2Empty (d : Nat) (p : Nat → Nat → Bool) (s : State) : State :=
  ((s.l2Lines d p).foldl (fun t l => t.giveUp l d) s).onMem fun m =>
    { m with l2 := m.l2.filter fun e => !(e.1 / 2 ^ 20 == d && p (e.1 / 65536 % 16) (e.1 % 65536)) }

/-- A slice is usable: available, with at least one enabled core (R40, R165). -/
def State.usable (s : State) (sl : Nat) : Bool :=
  s.boot.avail.getLsbD sl && !(s.slice sl).unavail && decide (s.coreMask sl ≠ 0)

/-- The role field of PILOT_BOOT_STAT: 0b11 while none is latched (R45). -/
def State.roleField (s : State) : BitVec 2 := s.ao.role.getD 3

/-- The device is the manager. -/
def State.isManager (s : State) : Bool := s.ao.role == some 1

/-- The device is a worker. -/
def State.isWorker (s : State) : Bool := s.ao.role == some 0

/-- The device is standalone. -/
def State.isStandalone (s : State) : Bool := s.ao.role == some 2

end Machine

end Sys2Proof
end

