-- ==== Sys2Proof/Machine/Link.lean ====
section
/-! DEFINITION. Sending over Hawser: credits, the replay buffer, fleet messages and routes (R57, R66, R382 to R387). -/

namespace Sys2Proof

/-- Credit pool of a message class (Table 3-6). -/
def poolOf (cls : Nat) : Nat :=
  if cls = 3 ∨ cls = 4 then 1 else if cls = 1 ∨ cls = 5 ∨ cls = 6 then 2 else if cls = 2 then 3 else 0

/-- The partition a message concerns, where its body names one (Table 16-2a); that of its request for a STATUS or read data,
which take the RSP reserve (R66). -/
def FleetMsg.part (m : FleetMsg) : Option Nat :=
  if m.cls = 1 then some (field m.body 4 1 % 32)
  else if (m.cls = 5 ∨ m.cls = 6) ∧ m.sub = 0 then some (field m.body 8 1 % 32)
  else if m.cls = 2 then m.forPart
  else none

/-- Credits granted for a pool (Table 3-6): the STRICT reserves are pools 64 + 2k and 65 + 2k. -/
def CreditGrant.pool (g : CreditGrant) (pool : Nat) : Nat :=
  if pool = 0 then g.ctrl else if pool = 1 then g.sync else if pool = 2 then g.req else if pool = 3 then g.rsp
  else if 64 ≤ pool ∧ pool < 128 ∧ g.strict.getLsbD ((pool - 64) / 2) then 16 else 0

/-- Flits of one message: 246 B of payload each (Table 3-3), the header being 16 B. -/
def FleetMsg.flits (m : FleetMsg) (pool : Nat) : List HwsPayload :=
  let n := (16 + m.body.length + 245) / 246
  (List.range n).map fun i => { pool := pool, idx := i, cnt := n, msg := m }

namespace Machine

/-- A Hawser port. -/
def State.port (s : State) (p : Nat) : Port := s.hws.look p {}

/-- A port in DOWN with a DOWN_REASON (R62, R64). -/
def Port.toDown (why : Nat) (p : Port) : Port :=
  { p with st := .down, downReason := BitVec.ofNat 4 why, record := none, recovering := false, gap := false, width := 0, lpi := false }

/-- The update of one port. -/
def State.onPort (p : Nat) (f : Port → Port) (s : State) : State := s.onHws fun t => t.upd p {} f

/-- Credits a pool holds in all: granted, and moved in or out (R66, R71). -/
def Port.poolSize (p : Port) (pool : Nat) : Int :=
  match p.peerGrant with
  | none => 0
  | some g => (g.pool pool : Int) + p.moved.look pool 0

/-- Credits used and not yet returned. -/
def Port.poolUsed (p : Port) (pool : Nat) : Nat := p.creditUsed.look pool 0 - p.creditRet.look pool 0

/-- Credits left for a pool (R66); a reserve is used only once it holds all 16 of its credits (R71). -/
def Port.credit (p : Port) (pool : Nat) : Nat :=
  if 64 ≤ pool ∧ p.poolSize pool < 16 then 0 else (p.poolSize pool - p.poolUsed pool).toNat

/-- The port can send a new sequenced flit of a pool now (R57, R66; in low-power idle it waits). -/
def Port.canSend (p : Port) (pool : Nat) : Bool :=
  p.st == .active && !p.recovering && !p.lpi && decide (p.replay.length < 256) && decide (0 < p.credit pool)

/-- The flit with a SEQ as port `n` sends it, with its header (Table 3-4): NAK stands until the resent flit arrives (DESIGN
CHOICE, log 62), and CR_POOL is the flit's own pool. -/
def Port.flitOut (n : Nat) (seq : BitVec 12) (f : HwsPayload) (p : Port) : Output :=
  .flit n seq (p.rxNext - 1) p.nakOut (p.creditOut.look f.pool 0 % 4096) f

/-- A flit is sent: it takes the next SEQ, a credit and a place in the replay buffer (R57). -/
def State.sendFlit (n : Nat) (f : HwsPayload) (s : State) : State :=
  let p := s.port n
  (s.emit (p.flitOut n p.txSeq f)).onPort n fun p =>
    { p with txSeq := p.txSeq + 1, replay := p.replay ++ [(p.txSeq, f)],
             replayFrom := if p.replay.isEmpty then s.time.tick else p.replayFrom,
             creditUsed := p.creditUsed.upd f.pool 0 (· + 1) }

/-- A flit to send: sent now, or behind those that wait. -/
def State.pushFlit (n : Nat) (f : HwsPayload) (s : State) : State :=
  let p := s.port n
  if p.canSend f.pool && p.sendQ.isEmpty then s.sendFlit n f
  else s.onPort n fun p => { p with sendQ := p.sendQ ++ [f] }

/-- The flits that wait are sent in order while room and credits last; `k` bounds their number. -/
def State.drainPort (n : Nat) : Nat → State → State
  | 0, s => s
  | k + 1, s =>
    match (s.port n).sendQ with
    | [] => s
    | f :: r =>
      if (s.port n).canSend f.pool then
        State.drainPort n k ((s.onPort n fun p => { p with sendQ := r }).sendFlit n f)
      else s

/-- Every flit that can go, goes. -/
def State.drain (n : Nat) (s : State) : State := s.drainPort n (s.port n).sendQ.length

/-- The pool a message uses on a port: the STRICT reserve of its partition where the peer grants one (R66, R71). -/
def State.msgPool (s : State) (n : Nat) (m : FleetMsg) : Nat :=
  let base := poolOf m.cls
  match m.part with
  | some k =>
    if (s.port n).strictMask.testBit k ∧ base = 2 then 64 + 2 * k
    else if (s.port n).strictMask.testBit k ∧ base = 3 then 65 + 2 * k else base
  | none => base

/-- A message goes out on port `n`. -/
def State.sendOn (n : Nat) (m : FleetMsg) (s : State) : State :=
  (m.flits (s.msgPool n m)).foldl (fun t f => t.pushFlit n f) s

/-- This device's number; 0xFF while it has none (Table 16-1). -/
def State.myNum (s : State) : Nat := s.fleet.devNum.getD 0xFF

/-- The egress port toward a device, if it is reachable (R383). -/
def State.egress (s : State) (dst : Nat) : Option Nat :=
  match s.fleet.route.find dst with
  | some p => if p < 8 then some p else none
  | none => none

/-- The egress port toward a device, while that port holds a link; in recovery it keeps what it is given (R67, R386). -/
def State.egressUp (s : State) (dst : Nat) : Option Nat :=
  match s.egress dst with
  | some p => if (s.port p).st = .active ∨ (s.port p).recovering then some p else none
  | none => none

/-- A message of a class that carries a MSG_ID is kept until acknowledged (R385, R386). -/
def kept (cls : Nat) : Bool := cls == 1 || cls == 3 || cls == 4 || cls == 5

/-- R387: a sync message waits for every earlier WRITE to the same destination. -/
def waitsForWrite (held : List HeldMsg) (m : FleetMsg) : Bool :=
  (m.cls == 3 || m.cls == 4) && held.any fun h => h.msg.cls == 5 && h.msg.dst == m.dst

/-- An add is counted in the sent total of the producer pair that covers it (R394). -/
def Fleet.countSent (m : FleetMsg) (f : Fleet) : Fleet :=
  if m.cls = 3 ∧ m.sub = 0 then
    let c := field m.body 0 4 % 2 ^ 17
    let n := BitVec.ofNat 64 (field m.body 8 8)
    { f with prod := f.prod.map fun e =>
        if e.2.valid && e.2.peer == m.dst && e.2.counter == c then (e.1, { e.2 with byEpoch := e.2.byEpoch.upd m.epoch 0 (· + n) }) else e }
  else f

/-- A kept message goes to a port: the first time, it is stamped with the present epoch and counted (R394, R401). -/
def State.handOver (n : Nat) (h : HeldMsg) (s : State) : State × HeldMsg :=
  if h.stamped then (s.sendOn n h.msg, { h with sent := true })
  else
    let m := { h.msg with epoch := s.fleet.epoch % 256 }
    ((s.sendOn n m).onFleet (Fleet.countSent m), { msg := m, sent := true, stamped := true })

/-- A message starts on its way: kept when it carries a MSG_ID, sent when a route exists and nothing holds it
(R384, R386, R387). -/
def State.sendMsg (m : FleetMsg) (s : State) : State :=
  let h : HeldMsg := { msg := m, sent := false, stamped := false }
  let behind := s.fleet.held.any fun d => !d.sent && d.msg.dst == m.dst && d.msg.cls == m.cls
  match s.egressUp m.dst with
  | some p =>
    if !kept m.cls then s.sendOn p m
    else if waitsForWrite s.fleet.held m || behind then s.onFleet fun f => { f with held := f.held ++ [h] }
    else
      let (t, h') := s.handOver p h
      t.onFleet fun f => { f with held := f.held ++ [h'] }
  | none =>
    if kept m.cls then s.onFleet fun f => { f with held := f.held ++ [h] }
    -- any other waits with the messages that are to be sent again (R386), but for a BEAT, which the next replaces
    else if m.cls = 8 ∧ m.sub = 0 then s else s.onFleet fun f => { f with relay := f.relay ++ [m] }

/-- Held messages that have not been handed to a port are sent in order as routes and R387 allow. -/
def State.sendHeld (s : State) : State :=
  let go := fun (acc : State × List HeldMsg) (h : HeldMsg) =>
    let (t, done) := acc
    if h.sent then (t, done ++ [h])
    else
      let blocked := waitsForWrite done h.msg || done.any (fun d => !d.sent && d.msg.dst == h.msg.dst && d.msg.cls == h.msg.cls)
      match s.egressUp h.msg.dst, blocked with
      | some p, false =>
        let (u, h') := t.handOver p h
        (u, done ++ [h'])
      | _, _ => (t, done ++ [h])
  let (t, l') := s.fleet.held.foldl go (s, [])
  let t := t.onFleet fun f => { f with held := l' }
  -- messages of other devices that wait for a route onward
  t.fleet.relay.foldl (fun t m => match t.egressUp m.dst with
    | some p => t.sendOn p m
    | none => t.onFleet fun f => { f with relay := f.relay ++ [m] }) (t.onFleet fun f => { f with relay := [] })

/-- The next MSG_ID of a message outside a commit (R385). -/
def State.nextMsgId (s : State) : DWord × State :=
  (BitVec.ofNat 64 (s.myNum % 64 * 2 ^ 58 + s.fleet.msgCnt % 2 ^ 57),
    s.onFleet fun f => { f with msgCnt := f.msgCnt + 1 })

/-- A message from this device in its present epoch. -/
def State.mkMsg (s : State) (cls sub dst : Nat) (id : DWord) (body : List Byte) (forPart : Option Nat := none) : FleetMsg :=
  { cls := cls, sub := sub, src := s.myNum, dst := dst, hops := 0, epoch := s.fleet.epoch % 256, msgId := id,
    body := body, forPart := forPart }

/-- A fresh series of attempts begins in DETECT (R60, R62, R63). -/
def State.startSeries (n : Nat) (s : State) : State :=
  let p := s.port n
  if p.enable && !s.isStandalone then
    s.onPort n fun p =>
      { p with st := .detect, recovering := false, lpi := false, downReason := 0, attempts := 1, counted := 0,
               laneFail := 0, width := 0, sawLoss := false, record := none, cwLock := false, peerCwLock := false,
               grantAcked := false, gap := false, seriesTick := s.time.tick }
  else s

/-- STATUS 1, an acknowledgement of `ack` to device `dst` with an outcome (Table 16-2a). -/
def State.sendAck (dst : Nat) (ack : DWord) (outcome entry : Nat) (forPart : Option Nat := none) (s : State) : State :=
  s.sendMsg (s.mkMsg 2 1 dst 0 (toLe 8 ack.toNat ++ toLe 1 outcome ++ toLe 1 0 ++ toLe 2 entry) forPart)

/-- STATUS 3, a refusal with a status code. -/
def State.sendRefusal (dst : Nat) (ack : Nat) (code : Nat) (forPart : Option Nat := none) (s : State) : State :=
  s.sendMsg (s.mkMsg 2 3 dst 0 (toLe 8 ack ++ toLe 2 code) forPart)

/-- R382: an unusable message is discarded and logged (0x0706). -/
def State.discardMsg (m : FleetMsg) (s : State) : State :=
  s.logOcc { event := 0x706, sev := 2, code := m.cls * 16 + m.sub, addr := m.msgId }

end Machine

end Sys2Proof
end

