-- ==== Sys2Proof/Machine/Operands.lean ====
section
/-! DEFINITION. Operand forms: the packet header and parameter fields, the front-end checks that need no more than the
packet's bytes, the status reply, and handles (ch. 6 and ch. 7). -/

namespace Sys2Proof

/-- One number for each queue, by which the queue table is indexed. -/
def QueueId.code : QueueId → Nat
  | .admin a => a
  | .fwd k => 32 + k
  | .part p k => 64 + p * 4096 + k

/-- The number in the QUEUE field (R141). -/
def QueueId.number : QueueId → Nat
  | .admin a => a
  | .fwd k => k
  | .part _ k => k

/-- Admin queues and forward queues pass check 8 (R388). -/
def QueueId.isAdmin : QueueId → Bool
  | .part _ _ => false
  | _ => true

/-- SOURCE code of the issuer (Table 6-7), which is also its rank. -/
def QueueId.source : QueueId → Nat
  | .fwd _ => 3
  | .admin _ => 4
  | .part _ _ => 5

/-- The function under whose requester ID the queue reaches the host: 0 the PF, n + 1 VF n (R158). -/
def QueueId.fn : QueueId → Nat
  | .part p _ => p + 1
  | _ => 0

namespace Machine

/-- Field of the packet. -/
def Packet.f (p : Packet) (o len : Nat) : Nat := field p.bytes o len
/-- OPCODE. -/
def Packet.op (p : Packet) : Nat := p.f 0 1
/-- FLAGS bit. -/
def Packet.flag (p : Packet) (i : Nat) : Bool := (p.f 2 1).testBit i
/-- FENCE_BEFORE, NOTIFY, REPLAYABLE, NO_RUNAHEAD (Table 6-3). -/
def Packet.fenceBefore (p : Packet) : Bool := p.flag 0
def Packet.notify (p : Packet) : Bool := p.flag 1
def Packet.replayable (p : Packet) : Bool := p.flag 2
def Packet.noRunahead (p : Packet) : Bool := p.flag 3
/-- PART. -/
def Packet.part (p : Packet) : Nat := p.f 4 1 % 32
/-- SEQ. -/
def Packet.seq (p : Packet) : Word := BitVec.ofNat 32 (p.f 8 4)
/-- TAG. -/
def Packet.tag (p : Packet) : Word := BitVec.ofNat 32 (p.f 12 4)

/-- Status codes (Table 6-6). -/
def stOk : Nat := 0x0000
def stOkFlagged : Nat := 0x0001
def stBadOpcode : Nat := 0x0100
def stBadParam : Nat := 0x0101
def stIntegrity : Nat := 0x0102
def stDenied : Nat := 0x0103
def stConflict : Nat := 0x0104
def stNoResource : Nat := 0x0105
def stTimeout : Nat := 0x0106
def stCancelled : Nat := 0x0107
def stAbandoned : Nat := 0x0108
def stFaulted : Nat := 0x0109
def stLost : Nat := 0x010A
def stThermal : Nat := 0x010B
def stOverrun : Nat := 0x010C
def stNotReady : Nat := 0x010D
def stPeerLost : Nat := 0x010E

/-- DETAIL of a rejection: the reason in [31:24] and the offset in [15:0] (R143). -/
def reason (r off : Nat) : Nat := r * 2 ^ 24 + off % 2 ^ 16

/-- Slots each opcode takes (Table 7-1); none for an opcode that is not listed. -/
def opSlots (op : Nat) : Option (Nat × Nat) :=
  match op with
  | 0x02 => some (2, 2)
  | 0x48 => some (1, 8)
  | 0x60 => some (2, 8)
  | 0x01 | 0x03 | 0x04 | 0x05 | 0x06 | 0x07 | 0x08 | 0x09 | 0x0A => some (1, 1)
  | 0x10 | 0x11 | 0x12 | 0x13 | 0x14 | 0x15 | 0x16 | 0x17 => some (1, 1)
  | 0x20 | 0x21 | 0x22 | 0x23 | 0x24 | 0x25 | 0x26 => some (1, 1)
  | 0x30 | 0x31 | 0x32 | 0x33 | 0x34 | 0x35 => some (1, 1)
  | 0x40 | 0x41 | 0x49 | 0x50 | 0x51 | 0x52 | 0x58 | 0x59 | 0x61 | 0x62 | 0x68 | 0x69 | 0x70 | 0x71 => some (1, 1)
  | _ => none

/-- Device scope at the power opcodes (Table 7-12). -/
def Packet.powerDevice (p : Packet) : Bool :=
  (p.op == 0x40 && p.f 18 1 == 0) || (p.op == 0x41 && p.f 16 1 == 0)

/-- An opcode of device scope, which carries PART 0 on an admin queue (R141, Table 7-1): FENCE with SCOPE 2 is one. QUERY items
5 to 7 concern a partition, and LOG_READ is of either scope (log 12). -/
def Packet.deviceScope (p : Packet) : Bool :=
  p.powerDevice ||
  match p.op with
  | 0x48 | 0x49 | 0x58 | 0x59 | 0x60 | 0x61 | 0x62 | 0x68 | 0x69 => true
  | 0x14 => p.f 16 1 == 2
  | 0x70 => decide (p.f 16 1 < 5) || decide (7 < p.f 16 1)
  | _ => false

/-- Admin-only opcodes (check 8 of Table 6-4, Table 7-1; FENCE of scope 2, and popping TW_READs are checked with
their own parameters). -/
def Packet.adminOnly (p : Packet) : Bool :=
  (p.op == 0x40 && p.f 18 1 == 0) || (p.op == 0x14 && p.f 16 1 == 2) ||
  match p.op with
  | 0x48 | 0x50 | 0x51 | 0x58 | 0x59 | 0x60 | 0x61 | 0x62 | 0x69 => true
  | _ => false

/-- Orders that enter an arbitration window (Table 7-1). -/
def Packet.arbitrated (p : Packet) : Bool :=
  p.powerDevice ||
  match p.op with
  | 0x48 | 0x58 | 0x59 | 0x69 => true
  | _ => false

/-- Opcodes that name a CONTEXT at bytes 16 to 23. -/
def opHasCtx (op : Nat) : Bool :=
  match op with
  | 0x02 | 0x03 | 0x04 | 0x05 | 0x06 | 0x07 | 0x08 | 0x09 | 0x15 | 0x16 | 0x17 | 0x20 | 0x22 | 0x23 | 0x33 | 0x34 => true
  | _ => false

/-- Opcodes of context or die scope, and NVM_WRITE and CORE_RETURN, which complete THERMAL while TRIPPED is set
(Table 7-3). -/
def opThermal (op : Nat) : Bool :=
  match op with
  | 0x02 | 0x03 | 0x04 | 0x05 | 0x06 | 0x07 | 0x08 | 0x09 | 0x0A | 0x15 | 0x16 | 0x17 => true
  | 0x20 | 0x22 | 0x23 | 0x33 | 0x34 | 0x35 | 0x69 | 0x59 => true
  | _ => false

/-- Bytes from 16 on that the parameter tables name, as (offset, length) (R157). -/
def Packet.used (p : Packet) : List (Nat × Nat) :=
  match p.op with
  | 0x02 => [(16, 88)]
  | 0x03 | 0x06 | 0x07 => [(16, 32)]
  | 0x04 => [(16, 33)]
  | 0x05 => [(16, 36)] ++ (if p.f 51 1 = 2 then [(52, 1)] else []) ++ [(53, 1)] ++ (if p.f 50 1 = 2 then [(56, 8)] else [])
  | 0x08 => [(16, 21)]
  | 0x09 => [(16, 31), (48, 4)]
  | 0x0A => if p.f 17 1 = 1 then [(17, 1)] else [(16, 2)]
  | 0x10 => [(16, 5), (24, 8)]
  | 0x11 => [(16, 5), (24, 16)]
  | 0x12 => [(16, 5), (24, 4)]
  | 0x13 => [(16, 5), (24, 4), (32, 8)]
  | 0x14 => [(16, 1)]
  | 0x15 | 0x16 => [(16, 24)]
  | 0x17 => [(16, 25)]
  | 0x20 => [(16, 18), (36, 4)]
  | 0x21 | 0x24 | 0x25 | 0x31 | 0x33 | 0x35 => [(16, 8)]
  | 0x22 => [(16, 43)]
  | 0x23 => [(16, 24)]
  | 0x26 => [(16, 1), (24, 16)]
  | 0x30 => [(16, 26)]
  | 0x32 => [(16, 4)]
  | 0x34 => [(16, 16)]
  | 0x40 => if p.f 18 1 = 0 then [(16, 3)] ++ (if p.f 16 1 = 2 then [(24, 8)] else []) else [(16, 8)]
  | 0x41 => if p.f 16 1 = 0 then [(16, 1), (24, 8)] else [(16, 1), (20, 12)]
  | 0x48 => [(16, 3), (24, 8 * p.f 18 1)]
  | 0x49 => [(16, 5), (24, 8)]
  | 0x50 => [(16, 5)] ++ (if p.f 20 1 = 1 then [(21, 1)] else []) ++ [(22, 1), (24, 8)]
  | 0x58 => [(16, 3)]
  | 0x59 => [(16, 2)]
  | 0x60 => [(16, 1), (64, 448)]
  | 0x61 => [(16, 4), (24, 8)]
  | 0x68 | 0x69 => [(16, 4), (24, 12)]
  | 0x70 => if p.f 16 1 = 2 ∨ p.f 16 1 = 6 then [(16, 2)] else [(16, 1)]
  | 0x71 => [(16, 14)]
  | _ => []

/-- Reserved bits inside named bytes: (offset, mask). -/
def Packet.reservedBits (p : Packet) : List (Nat × Nat) :=
  [(2, 0xF0), (4, 0xE0), (7, 0xF0)] ++
  match p.op with
  | 0x10 | 0x11 | 0x12 | 0x13 => [(18, 0xFC), (19, 0xFF)]
  | 0x22 => [(57, 0xE0), (58, 0xF8)]
  | 0x30 => [(35, 0xFC)]
  | 0x32 => [(18, 0xF0), (19, 0xFF)]
  | _ => []

/-- Check 7 of Table 6-4: the offset of the first reserved byte that is not zero. -/
def Packet.reservedBad (p : Packet) : Option Nat :=
  (List.range p.bytes.length).find? fun o =>
    let b := p.f o 1
    if p.reservedBits.any fun r => r.1 == o && (b &&& r.2) != 0 then true
    else if o < 16 then false
    else b != 0 && !(p.used.any fun r => decide (r.1 ≤ o) && decide (o < r.1 + r.2))

/-- The offset of the first check that fails. -/
def firstBad : List (Bool × Nat) → Option Nat
  | [] => none
  | (ok, off) :: r => if ok then firstBad r else some off

/-- A VA field in range (R158). -/
def vaOk (v : Nat) : Bool := decide (v < 2 ^ 49)

/-- A TIMEOUT field in range (R160). -/
def toOk (v : Nat) : Bool := decide (v ≤ 2 ^ 32)

/-- log2 ring sizes (R132). -/
def ringOk (n : Nat) : Bool := decide (6 ≤ n) && decide (n ≤ 16)

/-- PAGE sizes (Table 7-10). -/
def pageBytes (c : Nat) : Nat := if c = 0 then 0x10000 else if c = 1 then 0x200000 else 0x40000000

/-- A format of CONVERT is MX (Table 7-7). -/
def fmtMx (f : Nat) : Bool := decide (5 ≤ f)

/-- Check 11 of Table 6-4 for the parameters that need no state: the offset of the first out of range. -/
def Packet.rangeBad (p : Packet) : Option Nat :=
  let f := p.f
  firstBad <| [((!p.replayable || p.op == 0x02), 2)] ++
  match p.op with
  | 0x02 => [(vaOk (f 24 8) && f 24 8 % 256 == 0, 24), (vaOk (f 32 8) && f 32 8 % 64 == 0, 32),
      (f 40 4 != 0, 40), (f 44 4 != 0, 44), (f 48 4 != 0 && decide (f 40 4 * f 44 4 * f 48 4 < 2 ^ 32), 48),
      (decide (32 ≤ f 52 2) && decide (f 52 2 ≤ 1024) && f 52 2 % 32 == 0, 52),
      (decide (1 ≤ f 54 1) && decide (f 54 1 ≤ 16), 54), (decide (1 ≤ f 55 1) && decide (f 55 1 ≤ 32), 55),
      (decide (f 56 4 ≤ 262144) && f 56 4 % 256 == 0, 56), (decide (f 52 2 * f 55 1 * 32 ≤ 262144), 52)]
  | 0x03 => [(vaOk (f 24 8), 24), (vaOk (f 32 8), 32), (decide (1 ≤ f 40 8) && decide (f 40 8 ≤ 2 ^ 40), 40)]
  | 0x04 => [(f 48 1 == 1 || f 48 1 == 2 || f 48 1 == 4 || f 48 1 == 8, 48),
      (vaOk (f 24 8) && f 24 8 % max 1 (f 48 1) == 0, 24), (decide (1 ≤ f 32 8) && f 32 8 % max 1 (f 48 1) == 0, 32)]
  | 0x05 => [(vaOk (f 24 8), 24), (vaOk (f 32 8), 32), (decide (f 48 1 ≤ 7), 48), (decide (f 49 1 ≤ 7), 49),
      (decide (1 ≤ f 40 8) && (!(fmtMx (f 48 1) || fmtMx (f 49 1)) || f 40 8 % 32 == 0), 40),
      (decide (f 50 1 ≤ 2), 50), (decide (f 51 1 ≤ 2) && (fmtMx (f 49 1) || f 51 1 == 0), 51), (decide (f 53 1 ≤ 63), 53)]
  | 0x06 => [(vaOk (f 24 8) && f 24 8 % 64 == 0, 24), (vaOk (f 32 8), 32), (decide (1 ≤ f 40 8) && f 40 8 % 32 == 0, 40)]
  | 0x07 => [(vaOk (f 24 8), 24), (vaOk (f 32 8) && f 32 8 % 64 == 0, 32), (decide (1 ≤ f 40 8) && f 40 8 % 32 == 0, 40)]
  | 0x08 => [(vaOk (f 24 8) && f 24 8 % 65536 == 0, 24), (decide (f 32 2 < 8192), 32),
      (decide (1 ≤ f 34 2) && decide (f 34 2 ≤ 2048), 34), (decide (f 36 1 < 8), 36)]
  | 0x09 => [(vaOk (f 24 8), 24), (vaOk (f 32 8) && f 32 8 % 64 == 0, 32), (decide (f 40 2 < 8192), 40),
      (decide (1 ≤ f 42 2) && decide (f 42 2 ≤ 512), 42), (decide (f 44 1 < 8), 44), (decide (f 45 1 ≤ 1), 45),
      (decide (1 ≤ f 46 1) && decide (f 46 1 ≤ 16) && f 42 2 % max 1 (f 46 1) == 0, 46),
      (decide (1 ≤ f 48 4) && decide (f 48 4 ≤ 2 ^ 20), 48)]
  | 0x0A => [(decide (f 16 1 < 8) || f 17 1 == 1, 16), (decide (f 17 1 ≤ 1), 17)]
  | 0x10 => [((f 16 4).testBit 17 == false, 16), (decide (f 20 1 ≤ 63) || f 20 1 == 0xFF, 20), (f 24 8 != 0, 24)]
  | 0x11 => [((f 16 4).testBit 17 == false, 16), (f 20 1 == 0xFF, 20), (toOk (f 32 8), 32)]
  | 0x12 => [((f 16 4).testBit 17, 16), (decide (f 20 1 ≤ 63) || f 20 1 == 0xFF, 20), (f 24 4 != 0, 24)]
  | 0x13 => [((f 16 4).testBit 17, 16), (f 20 1 == 0xFF, 20), (f 24 4 != 0, 24), (toOk (f 32 8), 32)]
  | 0x14 => [(decide (f 16 1 ≤ 2), 16)]
  | 0x15 => [(f 32 8 % 16 == 0, 32)]
  | 0x17 => [(f 32 8 % 8 == 0, 32), (decide (f 40 1 ≤ 2), 40)]
  | 0x20 => [(decide (1 ≤ f 24 8) && f 24 8 % 65536 == 0, 24), (decide (f 32 1 ≤ 4), 32),
      (decide (16 ≤ f 33 1) && decide (f 33 1 ≤ 30), 33)]
  | 0x22 => [(decide (f 56 1 ≤ 2), 56), (vaOk (f 24 8) && f 24 8 % pageBytes (f 56 1) == 0, 24),
      (f 40 8 % pageBytes (f 56 1) == 0, 40),
      (decide (1 ≤ f 48 8) && f 48 8 % pageBytes (f 56 1) == 0 && vaOk (f 24 8 + f 48 8 - 1), 48),
      (decide (f 57 1 % 8 ≤ 2) && !((f 57 1).testBit 3 && (f 57 1).testBit 4) && !((f 57 1).testBit 4 && f 57 1 % 8 == 2), 57),
      (f 58 1 % 8 != 0, 58)]
  | 0x23 => [(vaOk (f 24 8), 24), (decide (1 ≤ f 32 8), 32)]
  | 0x26 => [(decide (f 16 1 < 32), 16), (f 24 8 % 65536 == 0, 24), (f 32 8 % 65536 == 0, 32)]
  | 0x30 => [(f 16 8 % 4096 == 0, 16), (f 24 8 % 4096 == 0, 24), (ringOk (f 32 1), 32), (ringOk (f 33 1), 33),
      (decide (f 34 1 ≤ 7), 34), (decide (f 40 2 < 4080) || f 40 2 == 0xFFFF, 40)]
  | 0x34 => [(decide (f 24 4 < 131072), 24),
      (decide (1 ≤ f 28 4) && decide (f 28 4 ≤ 4096) && decide (f 24 4 / 4096 == (f 24 4 + f 28 4 - 1) / 4096), 28)]
  | 0x40 => [(decide (f 18 1 ≤ 1), 18),
      (if f 18 1 = 0 then decide (1 ≤ f 16 1) && decide (f 16 1 ≤ 3)
        else f 16 1 == 0 || f 16 1 == 0x11 || f 16 1 == 0x12 || f 16 1 == 0x13, 16),
      (f 18 1 == 0 || f 19 1 == 0 || (decide (16 ≤ f 19 1) && decide (f 19 1 ≤ 64)), 19),
      (f 18 1 == 0 || f 20 4 != 0, 20), (f 18 1 == 1 && f 24 8 == 0 || toOk (f 24 8), 24)]
  | 0x41 => [(decide (f 16 1 ≤ 1), 16), (f 16 1 == 0 || f 20 4 != 0, 20), (toOk (f 24 8), 24)]
  | 0x48 => [(f 16 2 % 8 == 0, 16), (decide (1 ≤ f 18 1) && decide (f 18 1 ≤ 61) &&
      decide (24 + 8 * f 18 1 ≤ p.bytes.length), 18)]
  | 0x49 => [(f 16 2 % 8 == 0, 16), (decide (1 ≤ f 18 2) && decide (f 18 2 ≤ 256), 18), (decide (f 20 1 ≤ 1), 20),
      (f 24 8 % 8 == 0, 24)]
  | 0x50 => [(f 16 4 != 0, 16), (decide (f 20 1 ≤ 1), 20),
      (f 20 1 == 0 || (decide (16 ≤ f 21 1) && decide (f 21 1 ≤ 64)), 21), (toOk (f 24 8), 24)]
  | 0x58 => [(decide (f 16 2 < 768), 16), (decide (f 18 1 ≤ 1), 18)]
  | 0x59 => [(decide (f 16 2 < 768), 16)]
  | 0x60 => [(decide (1 ≤ f 16 1) && decide (f 16 1 ≤ 63), 16)]
  | 0x61 => [(decide (f 16 4 ≤ 10000), 16), (toOk (f 24 8), 24)]
  | 0x68 => [(f 16 4 == 0 || decide (f 16 4 ≤ 5) || (decide (256 ≤ f 16 4) && decide (f 16 4 ≤ 1279)), 16),
      (f 24 8 % 8 == 0, 24), (decide (8 ≤ f 32 4) && decide (f 32 4 ≤ 65536), 32)]
  | 0x69 => [(f 16 4 == 0 || decide (f 16 4 ≤ 5) || (decide (256 ≤ f 16 4) && decide (f 16 4 ≤ 1279)), 16),
      (f 24 8 % 8 == 0, 24), (decide (8 ≤ f 32 4) && decide (f 32 4 ≤ 65216), 32)]
  | 0x70 => [(decide (f 16 1 ≤ 7), 16), (if f 16 1 = 2 then decide (f 17 1 < 32) else if f 16 1 = 6 then decide (f 17 1 < 4) else true, 17)]
  | 0x71 => [(decide (1 ≤ f 28 2) && decide (f 28 2 ≤ 256), 28)]
  | _ => []

/-- Handle fields of an opcode: (offset, type code), type 0 standing for a handle of any type (Table 7-2). -/
def Packet.handles (p : Packet) : List (Nat × Nat) :=
  (if opHasCtx p.op then [(16, 1)] else []) ++
  match p.op with
  | 0x15 | 0x17 => [(24, 3)]
  | 0x21 => [(16, 2)]
  | 0x22 => if p.f 32 8 = 0 then [] else [(32, 2)]
  | 0x24 | 0x25 => [(16, 0)]
  | 0x31 => [(16, 4)]
  | 0x35 => [(16, 5)]
  | _ => []

/-- The parts of a handle (ch. 8): type [63:58], partition [57:53], generation [52:32], index [31:0]. -/
def hType (h : Nat) : Nat := h / 2 ^ 58 % 64
def hPart (h : Nat) : Nat := h / 2 ^ 53 % 32
def hGen (h : Nat) : Nat := h / 2 ^ 32 % 2 ^ 21
def hIdx (h : Nat) : Nat := h % 2 ^ 32

/-- A handle from its parts. -/
def mkHandle (ty part gen idx : Nat) : Nat := ty * 2 ^ 58 + part * 2 ^ 53 + gen * 2 ^ 32 + idx

/-- The 32-byte status reply (Table 6-5); the PHASE byte is the last. -/
def replyBytes (seq : Word) (status time result detail qnum source phase : Nat) : List Byte :=
  toLe 4 seq.toNat ++ toLe 2 status ++ toLe 2 (0xFFFF - status) ++ toLe 8 time ++ toLe 8 result ++ toLe 4 detail ++
    toLe 2 qnum ++ toLe 1 source ++ toLe 1 phase

/-- PHASE of completion position `i` (R137). -/
def phaseOf (i size : Nat) : Nat := (i / size + 1) % 2

end Machine

end Sys2Proof
end

