-- ==== Sys2Proof/Machine/QueueOps.lean ====
section
/-! DEFINITION. What every packet goes through: replies, reservations, dispatch and completion (R132 to R155). -/

namespace Sys2Proof.Machine

open Sys2Proof

/-- A queue. -/
def State.queue (s : State) (q : QueueId) : Queue := s.q.tab.look q.code {}

/-- The update of one queue. -/
def State.onQueue (q : QueueId) (f : Queue → Queue) (s : State) : State :=
  s.onQ fun x => { x with tab := x.tab.upd q.code {} f }

/-- A copy of a reply goes to the status history, the newest over the oldest (R463). -/
def State.history (part : Nat) (tag : Word) (status : Nat) (r : List Byte) (s : State) : State :=
  let e : LogEntry :=
    { seq := seq31 s.log.histNext + 2 ^ 31, time := s.now, event := 0x105, gap := false, sev := 0, part := some part,
      tag := tag, unit := 0xFFF, code := status, addr := 0, payload := r }
  s.onLog fun l =>
    { l with history := (l.history ++ [e]).drop (l.history.length + 1 - 16384), histNext := l.histNext + 1 }

/-- A reply is written to the completion ring, at the queue's completion PUT with its PHASE (R137). -/
def State.ringReply (q : QueueId) (r : List Byte) (s : State) : State :=
  let x := s.queue q
  let size := 2 ^ x.cqLog
  let i := x.cqPut.toNat
  let bytes := r.take 31 ++ toLe 1 (phaseOf i size)
  let a := x.cqBase.toNat + (i % size) * 32
  let t := if x.cqDev then s.onMem fun m => m.store a bytes else s.emit (.hostWrite q.fn a bytes false)
  t.onQueue q fun x => { x with cqPut := x.cqPut + 1 }

/-- A forward queue's reply goes to the manager as STATUS 0, and is kept with the FORWARD's ID (R385, R389). -/
def State.fwdReply (pid part : Nat) (r : List Byte) (s : State) : State :=
  match s.fleet.fwdIn.find? fun e => e.1 == pid with
  | none => s
  | some (_, id, src) =>
    let t := s.onFleet fun f =>
      { f with fwdIn := f.fwdIn.filter (fun e => e.1 != pid)
               accepted := f.accepted.upd src [] fun l => l.map fun a => if a.1 = id then (id, r) else a }
    t.sendMsg (t.mkMsg 2 0 src 0 (toLe 8 id.toNat ++ r) (some part))

/-- A reply is written, and the queue's vector raised where its packet has NOTIFY (R137, R138). -/
def State.putReply (q : QueueId) (notify : Bool) (r : List Byte) (s : State) : State :=
  let t := s.ringReply q r
  if notify then t.msixSend q.fn (s.queue q).vector else t

/-- The queue belongs to a STRICT partition (R422). -/
def State.strictQueue (s : State) (q : QueueId) : Bool := match q with | .part p _ => s.strict p | _ => false

/-- R422: the queue's partition is served now: it is not STRICT, or its slot is open and has packets left. -/
def State.slotOpen (s : State) (q : QueueId) : Bool :=
  match q with
  | .part p _ => !s.strict p || (match s.part.slot with
    | some (n, us, left) => n == p && us == s.nowNs / 1000 && decide (0 < left)
    | none => false)
  | _ => true

/-- The held replies of a queue are written in order. -/
def State.flushHeld (q : QueueId) (s : State) : State :=
  let l := (s.queue q).held
  l.foldl (fun t h => t.putReply q h.1 h.2) (s.onQueue q fun x => { x with held := [] })

/-- R155: FETCH_ERR of a queue is cleared. Whether the ring has become writable is a free value (log 90): then the held replies
are written; else they are discarded where the queue ends, and elsewhere it stays stopped with them. -/
def State.clearErr (q : QueueId) (ends : Bool) (s : State) : State :=
  let x := s.queue q
  if !x.fetchErr then s
  else if x.held.isEmpty then s.onQueue q fun x => { x with fetchErr := false }
  else
    let (v, t) := s.fresh
    if v.getLsbD 0 then (t.onQueue q fun x => { x with fetchErr := false }).flushHeld q
    else if ends then t.onQueue q fun x => { x with fetchErr := false, held := [] }
    else t

/-- A reply whose entry is reserved is written, or held (R155, R422). -/
def State.giveReply (q : QueueId) (notify : Bool) (r : List Byte) (s : State) : State :=
  if (s.queue q).fetchErr || s.strictQueue q then s.onQueue q fun x => { x with held := x.held ++ [(notify, r)] }
  else s.putReply q notify r

/-- The pilot writes the reply of a packet (R136, R137, R138, R155, R463); a queue that is gone has no ring. -/
def State.reply (q : QueueId) (p : Packet) (status result detail : Nat) (s : State) : State :=
  let r := replyBytes p.seq status s.nowNs result detail q.number q.source 0
  match q with
  | .fwd _ => (s.history p.part p.tag status r).fwdReply p.pid p.part r
  | _ => if (s.queue q).enabled then (s.history p.part p.tag status r).giveReply q p.notify r else s

/-- A completion entry can be reserved (R136). -/
def Queue.canReserve (x : Queue) : Bool := decide ((x.reserved - x.cqGet).toNat < 2 ^ x.cqLog)

/-- A completion entry is reserved for a queue that has a ring. -/
def State.reserve (q : QueueId) (s : State) : State := s.onQueue q fun x => { x with reserved := x.reserved + 1 }

/-- An undispatched packet completes without having started (R153, R154). Its reply waits where no completion entry can be
reserved for it (R136). -/
def State.refuse (q : QueueId) (p : Packet) (status result detail : Nat) (s : State) : State :=
  if (s.queue q).canReserve || q matches .fwd _ then (s.reserve q).reply q p status result detail
  else
    let r := replyBytes p.seq status s.nowNs result detail q.number q.source 0
    (s.history p.part p.tag status r).onQueue q fun x => { x with late := x.late ++ [(p.notify, r)] }

/-- Replies that waited for a completion entry are written as far as entries can be reserved now (R136, R138). -/
def State.flushLate (q : QueueId) (s : State) : State :=
  (s.queue q).late.foldl (fun t e =>
    if (t.queue q).canReserve then
      ((t.reserve q).onQueue q fun x => { x with late := x.late.tail }).giveReply q e.1 e.2
    else t) s

/-- A packet is rejected: reply and log entry and nothing else (R143). -/
def State.reject (q : QueueId) (p : Packet) (status detail : Nat) (s : State) : State :=
  (s.logOcc { event := 0x101, sev := 2, part := some p.part, tag := p.tag, code := status,
              addr := BitVec.ofNat 64 detail }).refuse q p status 0 detail

/-- The packets dispatched and not complete. -/
def State.inflight (s : State) (pid : Nat) : Option Inflight := s.q.inflight.find? fun i => i.pkt.pid == pid

/-- TAG of a dispatched packet, for the log entries that it causes (R141). -/
def State.tagOf (s : State) (pid : Nat) : Word := match s.inflight pid with | some i => i.pkt.tag | none => 0

/-- The completion of packet `pid` is recorded: it leaves the list, and no packet waits for it any more. -/
def Queues.remove (pid : Nat) (x : Queues) : Queues :=
  { x with inflight := (x.inflight.filter fun i => i.pkt.pid != pid).map fun i =>
      { i with waitFor := i.waitFor.filter fun w => w != pid } }

/-- A dispatched packet completes with its reply (R136). -/
def State.finish (pid status result detail : Nat) (s : State) : State :=
  match s.inflight pid with
  | none => s
  | some i => (s.onQ (Queues.remove pid)).reply i.q i.pkt status result detail

/-- The queue has a packet dispatched that blocks it (R146). -/
def State.blocked (s : State) (q : QueueId) : Bool := s.q.inflight.any fun i => decide (i.q = q) && i.blocking

/-- The context a packet names, by partition × 2^32 + entry index. -/
def Packet.ctxKey (p : Packet) : Option Nat :=
  if opHasCtx p.op then some (p.part * 2 ^ 32 + hIdx (p.f 16 8)) else none

/-- R182: a MEM_UNMAP of the packet's context has been dispatched and has not completed. -/
def State.behindUnmap (s : State) (p : Packet) : Bool :=
  match p.ctxKey with
  | none => false
  | some c => s.q.inflight.any fun i => i.pkt.op == 0x23 && i.ctx == some c

/-- The packet at the head of queue `q` may be dispatched, but for the order among granted orders (R136, R146, R152, R182).
Once an order for DEEP is accepted none may (R124); behind a reply that waits for its completion entry none may (R136). -/
def State.mayStart (s : State) (q : QueueId) (p : Packet) : Bool :=
  let x := s.queue q
  x.enabled && !x.fetchErr && s.awake && !s.pwr.deepAccepted && !s.blocked q && x.late.isEmpty
    && (!p.fenceBefore || !(s.q.inflight.any fun i => decide (i.q = q)))
    && (x.canReserve || q matches .fwd _) && (!p.arbitrated || p.granted) && !s.behindUnmap p && s.slotOpen q

/-- The queue that a code numbers. -/
def QueueId.ofCode (c : Nat) : QueueId :=
  if c < 32 then .admin c else if c < 64 then .fwd (c - 32) else .part ((c - 64) / 4096) ((c - 64) % 4096)

/-- Every queue the table lists. -/
def State.queues (s : State) : List QueueId := s.q.tab.map fun e => QueueId.ofCode e.1

/-- R152: granted orders take effect in arrival order: no other queue has a granted order of earlier arrival that could be
dispatched now. -/
def State.orderTurn (s : State) (q : QueueId) (p : Packet) : Bool :=
  !p.arbitrated || s.queues.all fun r =>
    decide (r = q) || match (s.queue r).buffer with
      | o :: _ => !(o.arbitrated && decide (o.arrival < p.arrival) && s.mayStart r o)
      | [] => true

/-- The packet at the head of a queue that may be dispatched now, if its opcode is `op` (R146, R152). -/
def State.head (s : State) (q : QueueId) (op : Nat) : Option Packet :=
  let x := s.queue q
  match x.buffer with
  | [] => none
  | p :: _ =>
    if p.op == op && s.mayStart q p && s.orderTurn q p then some p else none

/-- The default TIMEOUT of a partition in µs (R160). -/
def State.timeoutOf (s : State) (p : Packet) (v : Nat) : Nat :=
  if v ≠ 0 then v
  else
    let d := s.part.defTimeout.look p.part 0
    if d = 0 then 10000000 else d

/-- The head packet of a queue is dispatched: it leaves the buffer, reserves its entry, and runs. -/
def State.take (q : QueueId) (p : Packet) (s : State) : State :=
  let t := s.onQueue q fun x => { x with buffer := x.buffer.tail, reserved := x.reserved + 1 }
  let t := if s.strictQueue q then t.onPart fun x => { x with slot := x.slot.map fun e => (e.1, e.2.1, e.2.2 - 1) } else t
  -- a pre-wake of the packet is no longer the run-ahead's (R125)
  let t := t.onPwr fun w => { w with slice := w.slice.map fun e =>
    (e.1, { e.2 with prewakePid := if e.2.prewakePid = some p.pid then none else e.2.prewakePid }) }
  t.onQ fun x => { x with inflight := x.inflight ++ [{ q := q, pkt := p, ctx := p.ctxKey }] }

/-- The update of one dispatched packet. -/
def State.onInflight (pid : Nat) (f : Inflight → Inflight) (s : State) : State :=
  s.onQ fun x => { x with inflight := x.inflight.map fun i => if i.pkt.pid = pid then f i else i }

/-- A context, by its key. -/
def State.ctx (s : State) (c : Nat) : Ctx := s.obj.ctx.look c {}

/-- The statuses common to every opcode that are judged at dispatch (R161, R124, R436): frozen partition (which only its
PART_DESTROY passes), tripped device, killed context. -/
def State.common (s : State) (p : Packet) : Option (Nat × Nat) :=
  if s.isFrozen p.part && !p.deviceScope && p.op != 0x51 then some (stIntegrity, 0)
  else if s.tw.tripped && opThermal p.op then some (stThermal, 0)
  else
    match p.ctxKey with
    | some c => if (s.ctx c).st != .live && p.op != 0x33 then some (stFaulted, 0) else none
    | none => none

/-- A packet command: the head of `q` with opcode `op` that `sel` accepts is dispatched and `f` gives its effect; where
no such packet can be dispatched now nothing happens (log 9). -/
def State.dispatch (q : QueueId) (op : Nat) (sel : Packet → Bool) (f : Packet → State → State) (s : State) : State :=
  match s.head q op with
  | none => s
  | some p =>
    if !sel p then s
    else
      match s.common p with
      | some (st, d) => (s.take q p).finish p.pid st 0 d
      | none => f p (s.take q p)

/-- Every packet of the opcode. -/
def anyPkt (_ : Packet) : Bool := true

/-- Undispatched packets of a queue complete CANCELLED in order (R154). -/
def State.cancelQueue (q : QueueId) (s : State) : State :=
  let l := (s.queue q).buffer
  let t := l.foldl (fun t p => t.refuse q p stCancelled 0 0) s
  t.onQueue q fun x => { x with buffer := [] }

/-- A number that no queue has: what a packet of a queue that is gone answers to. -/
def goneQueue : QueueId := .part 0 4095

/-- The queue is gone: its dispatched packets still complete, without a reply (R154, R171). -/
def State.leaveQueue (q : QueueId) (s : State) : State :=
  s.onQ fun x => { x with inflight := x.inflight.map fun i => if i.q = q then { i with q := goneQueue } else i }

/-- Undispatched packets of every queue that satisfy `sel` complete CANCELLED, in order (R154). -/
def State.cancelWhere (qs : List QueueId) (sel : Packet → Bool) (s : State) : State :=
  qs.foldl (fun t q =>
    let l := (t.queue q).buffer
    let u := (l.filter sel).foldl (fun t p => t.refuse q p stCancelled 0 0) t
    u.onQueue q fun x => { x with buffer := x.buffer.filter fun p => !sel p }) s

end Sys2Proof.Machine
end

