-- ==== Sys2Proof/Machine/StoreOps.lean ====
section
/-! DEFINITION. The persistent store's journal and its controller (R452 to R459, R465, R466), and what the pilot
records there: the boot selector, the fence map and the retirement list. -/

namespace Sys2Proof.Machine

open Sys2Proof

/-- The erase count that a slot's header shows (R455). -/
def NvmSlot.readErases (x : NvmSlot) : Nat := if x.hdr then x.erases else 0

/-- R456: a slot is valid. -/
def NvmSlot.valid (x : NvmSlot) : Bool := x.hdr && x.dataOk && x.marker && decide (x.data.length ≤ 65216)

/-- Slot `j` of record `r`. -/
def State.nvmSlot (s : State) (r j : Nat) : NvmSlot := s.nvm.slot.look (2 * r + j) {}

/-- R456: slot 0's SEQ is newer than slot 1's. -/
def seqNewer (a b : Word) : Bool := decide (0 < (a - b).toNat) && decide ((a - b).toNat < 2 ^ 31)

/-- R456: the slot of record `r` that every reader uses; of two that are not newer than each other, slot 1 (log 16). -/
def State.newest (s : State) (r : Nat) : Option Nat :=
  let v0 := (s.nvmSlot r 0).valid
  let v1 := (s.nvmSlot r 1).valid
  if v0 && v1 then some (if seqNewer (s.nvmSlot r 0).seq (s.nvmSlot r 1).seq then 0 else 1)
  else if v0 then some 0 else if v1 then some 1 else none

/-- Data of the record's newest valid slot. -/
def State.record (s : State) (r : Nat) : Option (List Byte) := (s.newest r).map fun j => (s.nvmSlot r j).data

/-- R455: the slot a write programs: the older or invalid one. -/
def State.targetSlot (s : State) (r : Nat) : Nat :=
  match s.newest r with
  | some 0 => 1
  | _ => 0

/-- R455: the SEQ of a new write. -/
def State.nextSeq (s : State) (r : Nat) : Word :=
  match s.newest r with
  | none => 0
  | some j => (s.nvmSlot r j).seq + 1

/-- Table 18-8: the fence map as the device now knows it: recorded lay-ups, and laid-up ways. The entry of a core that is
laid up because its entry is damaged stays as it stands (R467). -/
def State.fenceMap (s : State) : List Byte :=
  let old := (s.record 1).getD []
  let core := fun c =>
    let x := s.core.core.look c {}
    let v : Byte := if x.laid = .factory then 1 else if x.laid = .field ∧ x.persist then 2 else 0
    if x.laid = .field ∧ x.cause = 6 ∧ !x.persist ∧ 2 * c + 2 ≤ old.length then (old.drop (2 * c)).take 2 else [v, ~~~ v]
  let bank := fun b =>
    let m := (s.mem.wayOff.look b 0).toNat
    toLe 2 m ++ toLe 2 (0xFFFF - m)
  ((List.range 768).map core).flatten ++ ((List.range 256).map bank).flatten

/-- Table 18-6: the retirement list. -/
def State.retireList (s : State) : List Byte :=
  (s.mem.retired.map fun e => toLe 4 e.1 ++ toLe 4 (0xFFFFFFFF - e.1)).flatten

/-- The data a write programs: a recording holds what is known when its data is assembled (ch. 18, Collisions). -/
def State.writeData (s : State) (w : NvmWrite) : List Byte :=
  if w.rec_ = 1 then s.fenceMap else if w.rec_ = 2 then s.retireList else w.data

/-- The free controller takes the next queued write and starts its erase (R455, R459); the block's content is gone. -/
def State.nvmStart (s : State) : State :=
  match s.nvm.cur, s.nvm.slotBusy, s.nvm.queue with
  | none, none, w :: r =>
    let j := s.targetSlot w.rec_
    let e := max (s.nvmSlot w.rec_ 0).readErases (s.nvmSlot w.rec_ 1).readErases + 1
    let w' := { w with data := s.writeData w }
    s.onNvm fun n =>
      { n with queue := r, cur := some (w', j, .erase, false)
               slot := n.slot.put (2 * w.rec_ + j) {} { erases := e } }
  | _, _, _ => s

/-- The controller takes the next operation on the target slot of an update, while it has none there. -/
def State.slotStart (s : State) : State :=
  match s.nvm.slotBusy, s.nvm.slotJobs with
  | none, j :: r => s.onNvm fun n => { n with slotBusy := some j, slotJobs := r }
  | _, _ => s

/-- R491: an operation on a record has ended, and the target slot has its turn. -/
def State.nvmTurn (s : State) : State := if s.nvm.slotJobs.isEmpty then s.nvmStart else s.slotStart

/-- R491: the operation on the target slot has ended, and the record write has its turn. -/
def State.slotTurn (s : State) : State :=
  let t := (s.onNvm fun n => { n with slotBusy := none }).nvmStart
  if t.nvm.cur.isSome then t else t.slotStart

/-- Operations on the target slot are queued (R485); a record operation in progress ends first. -/
def State.slotQueue (l : List SlotJob) (s : State) : State :=
  let t := s.onNvm fun n => { n with slotJobs := n.slotJobs ++ l }
  if t.nvm.cur.isSome then t else t.slotStart

/-- Blocks of the target slot are still to be erased (R485). -/
def State.slotErasing (s : State) : Bool := (s.nvm.slotBusy.toList ++ s.nvm.slotJobs).any fun j => match j with | .erase _ _ => true | _ => false

/-- The chunk the device asks for next (R485). -/
def State.chunk (s : State) : Nat := min s.mgmt.updMax (s.mgmt.updSize - s.mgmt.updOff)

/-- RequestFirmwareData goes to the agent. -/
def State.askChunk (s : State) : State := s.emit (.mgmt s.mgmt.updBind (.requestData s.mgmt.updOff s.chunk))

/-- R485: once the last block is erased the image's first chunk is requested. -/
def State.askFirst (s : State) : State := if s.mgmt.upd = .download ∧ !s.slotErasing then s.askChunk else s

/-- The image cells after an operation on a slot: a block is erased, a page programmed. -/
def SlotJob.run (j : SlotJob) (t : Tab (List Host.Cell)) : Tab (List Host.Cell) :=
  match j with
  | .erase a b => t.upd a [] fun l => l.filter fun c => decide (c.1 / 65536 ≠ b)
  | .page a off bytes => t.upd a [] fun l => l ++ (List.range bytes.length).map fun i => (off + i, bytes.getD i 0)

/-- A write is queued (R459). -/
def State.nvmQueue (w : NvmWrite) (s : State) : State :=
  (s.onNvm fun n => { n with queue := n.queue ++ [w] }).nvmStart

/-- R446, R458, R465: a recording of the device's own waits until writes are accepted again; of two of one record the newer
stands. PERSIST_PENDING shows the fence map and the retirement list. -/
def State.nvmHold (w : NvmWrite) (s : State) : State :=
  (s.onNvm fun n => { n with waiting := (n.waiting.filter fun x => x.rec_ != w.rec_) ++ [{ w with why := .internal }] }).onFence
    fun f => { f with pending := f.pending || decide (w.rec_ = 1 ∨ w.rec_ = 2) }

/-- R446: a recording by the pilot: queued, or waiting while writes are refused. -/
def State.persist (r : Nat) (data : List Byte) (s : State) : State :=
  let w : NvmWrite := { rec_ := r, data := data, why := .internal }
  if s.nvm.refusing then s.nvmHold w
  else (s.onFence fun f => { f with pending := f.pending || decide (r = 1 ∨ r = 2) }).nvmQueue w

/-- R35: the ROM writes the boot selector record and waits for it; while writes are refused the recording waits instead
(log 80). -/
def State.romSelect (data : List Byte) (s : State) : State :=
  if s.nvm.refusing then s.nvmHold { rec_ := 0, data := data, why := .internal }
  else (s.onBoot fun b => { b with selWrite := true }).nvmQueue { rec_ := 0, data := data, why := .rom }

/-- R446, R451: writes are accepted again, and the recordings that waited are made. -/
def State.nvmAccept (s : State) : State :=
  s.nvm.waiting.foldl (fun t w => t.nvmQueue w) (s.onNvm fun n => { n with refusing := false, waiting := [] })

/-- Record 0 with an active slot and a trial state, both with complements (Table 18-6). -/
def selectorBytes (active trial : Nat) : List Byte :=
  toLe 1 active ++ toLe 1 (0xFF - active) ++ toLe 1 trial ++ toLe 1 (0xFF - trial)

/-- The boot selector: active slot and trial state; a record that is not valid or names no listed value stands for
slot A with NONE (R466, log 16). -/
def State.selector (s : State) : Nat × Nat :=
  match s.record 0 with
  | none => (0, 0)
  | some d =>
    let a := field d 0 1
    let t := field d 2 1
    if field d 1 1 = 0xFF - a ∧ field d 3 1 = 0xFF - t ∧ a ≤ 1 ∧ t ≤ 2 ∧ 4 ≤ d.length then (a, t) else (0, 0)

/-- The mailbox answers. -/
def State.mboxAnswer (st : Nat) (s : State) : State :=
  s.onBoot fun b => { b with mboxBusy := false, mboxResult := BitVec.ofNat 16 st }

/-- R458: the write in progress is interrupted: no further page is programmed, and the interruption is logged. -/
def State.nvmInterrupt (s : State) : State :=
  match s.nvm.cur with
  | none => s
  | some (w, _, _, _) =>
    (s.onNvm fun n => { n with cur := none, stop := false, lastOut := 2, lastRec := w.rec_ }).logOcc
      { event := 0x903, sev := 2, code := w.rec_ }

/-- R95, R446, R458: what becomes of a write that a trip stops: a packet completes THERMAL, a CONFIRM answers THERMAL
(log 82), a recording waits; an activation ends with its session. -/
def State.nvmLeave (w : NvmWrite) (s : State) : State :=
  match w.why with
  | .packet pid => s.finish pid stThermal 0 0
  | .confirm => s.mboxAnswer stThermal
  | .activate => s
  | .internal => s.nvmHold w
  | .rom => (s.onBoot fun b => { b with selWrite := false }).nvmHold w

/-- R455: the effect of page phase `p` of the write in progress on its slot: the header completes it but for its marker,
and the marker makes it valid if the page programmed well. -/
def State.nvmPage (w : NvmWrite) (j : Nat) (p : NvmPhase) (good : Bool) (s : State) : State :=
  let old := s.nvmSlot w.rec_ j
  match p with
  | .hdr =>
    let x : NvmSlot := { hdr := true, seq := s.nextSeq w.rec_, data := w.data, dataOk := true, marker := false, erases := old.erases }
    s.onNvm fun n => { n with slot := n.slot.put (2 * w.rec_ + j) {} x }
  | .marker => s.onNvm fun n => { n with slot := n.slot.put (2 * w.rec_ + j) {} { old with marker := good } }
  | _ => s

/-- R458: the write in progress stops: an erase, or a write whose turn has not come, at once; a page program finishes
first. -/
def State.nvmStop (s : State) : State :=
  match s.nvm.cur with
  | none => s
  | some (w, _, p, _) =>
    if s.nvm.slotBusy.isSome || decide (p = NvmPhase.erase) then s.nvmInterrupt.nvmLeave w else s.onNvm fun n => { n with stop := true }

/-- R458, R95: a trip interrupts the writes, and the store refuses writes from then on. An erase of the target slot stops
too (log 81). -/
def State.nvmRefuse (s : State) : State :=
  let ws := s.nvm.queue
  let t := (s.onNvm fun n => { n with queue := [], refusing := true }).nvmStop
  let t := t.onNvm fun n => match n.slotBusy with | some (.erase _ _) => { n with slotBusy := none } | _ => n
  ws.foldl (fun t w => t.nvmLeave w) t

/-- R458: a reset interrupts the writes: a page program in progress finishes (`good`), an erase is stopped, and nothing
queued survives. The refusal of a trip lasts as long as TRIPPED (R95). -/
def State.nvmReset (good : Bool) (s : State) : State :=
  let t := match s.nvm.cur, s.nvm.slotBusy with
    | some (w, j, p, _), none => s.nvmPage w j p good
    | _, some (.page a o b) => s.onNvm fun n => { n with img := (SlotJob.page a o b).run n.img }
    | _, _ => s
  (t.nvmInterrupt).onNvm fun n =>
    { n with queue := [], slotJobs := [], slotBusy := none, waiting := [], refusing := n.refusing && s.tw.tripped }

/-- The committed slot of the write in progress (R455). -/
def committedSlot (seq : Word) (data : List Byte) (erases : Nat) : NvmSlot :=
  { hdr := true, seq := seq, data := data, dataOk := true, marker := true, erases := erases }

/-- FENCE_MAP_SEQ shows the newest committed fence map (Table 18-11). -/
def State.fenceSeq (s : State) : Word :=
  match s.newest 1 with
  | none => 0
  | some j => (s.nvmSlot 1 j).seq

end Sys2Proof.Machine
end

