-- ==== Sys2Proof/Machine/PowerOps.lean ====
section
/-! DEFINITION. Clocks, voltages and power states: what units ask of each other (ch. 5). -/

namespace Sys2Proof.Machine

open Sys2Proof

/-- Throttle cap of a level (Table 4-8), as a clock code; level 0 caps nothing. -/
def levelCap (l : Nat) : Nat := if l = 0 then 64 else if l = 1 then 48 else if l = 2 then 36 else if l = 3 then 24 else 16

/-- T_d: the highest valid reading of the die's sensors that have not failed, in 1/64 °C (R94, R97). -/
def State.dieTemp (s : State) (d : Nat) : Option Int :=
  let l := (List.range 4).filterMap fun k =>
    let n := 4 * d + k
    if s.tw.safeValid.getLsbD n && !s.tw.sensorFail.getLsbD n then some (s.tw.safeTemp.look n 0).toInt else none
  match l with
  | [] => none
  | a :: r => some (r.foldl max a)

/-- All four sensors of the die have failed (R97). -/
def State.allFailed (s : State) (d : Nat) : Bool := (List.range 4).all fun k => s.tw.sensorFail.getLsbD (4 * d + k)

/-- The throttle level in force on a die: the ladder, the rules, THERM_N, ADC_FAULT, failed sensors and PMB faults, the
highest of them (R93, R94, R97, R99, R104, R129). -/
def State.level (s : State) (d : Nat) : Nat :=
  let rules := s.tw.ruleThrottle.foldl (fun a e => max a e.2) 0
  let four := s.tw.thermLow || s.tw.adcFault || s.allFailed d || s.tw.pmbHold.getLsbD d
  max (max (s.tw.ladder.look d {}).level rules) (if four then 4 else 0)

/-- The STRICT partition that holds a slice of the die, if one does. -/
def State.strictOn (s : State) (d : Nat) : Option Nat :=
  (List.range 32).find? fun n => s.partExists n && s.strict n && (List.range 4).any fun k => (s.slicesOf n).getLsbD (4 * d + k)

/-- The merged clock request of a die (R127): PART_MAP.CLOCK of a STRICT partition, or the highest request, or 36. -/
def State.merged (s : State) (d : Nat) : Nat :=
  match s.strictOn d with
  | some n => bits (s.pmap n) 20 8
  | none =>
    let l := (List.range 4).filterMap fun k =>
      if (s.slice (4 * d + k)).unavail then none else (s.slice (4 * d + k)).clkReq
    match l with
    | [] => 36
    | a :: r => r.foldl max a

/-- The lower of the throttle and budget caps (PWR_DIE_CLK[15:8], R112, R129). -/
def State.capOf (s : State) (d : Nat) : Nat :=
  let x := s.pwr.die.look d {}
  min (levelCap (s.level d)) (min (x.cap.getD 64) (x.faultCap.getD 64))

/-- The clock R127 allows. -/
def State.allowed (s : State) (d : Nat) : Nat := min (s.merged d) (s.capOf d)

/-- V(f) of Table 5-2 in mV, interpolated, rounded up. -/
def vOfCode (c : Nat) : Nat :=
  let seg := fun (c0 v0 c1 v1 : Nat) => v0 + ((v1 - v0) * (c - c0) + (c1 - c0) - 1) / (c1 - c0)
  if c ≤ 24 then seg 16 500 24 520 else if c ≤ 32 then seg 24 520 32 555 else if c ≤ 36 then seg 32 555 36 580
  else if c ≤ 40 then seg 36 580 40 605 else if c ≤ 48 then seg 40 605 48 665 else if c ≤ 56 then seg 48 665 56 745
  else seg 56 745 64 850

/-- R109: the voltage in mV the pilot requests for die `d` at clock code `c`. -/
def State.voltage (s : State) (d c : Nat) : Nat :=
  let g : Int := match s.dieTemp d with | some t => if t < 20 * 64 then 10 else 0 | none => 0
  let v := (vOfCode c : Int) + (Config.fuseOfs d).toInt + g
  (max 500 (min 850 v)).toNat

/-- R129: the highest clock code of Table 5-1 whose voltage does not exceed `mv`; 16 where none does. -/
def State.codeUnder (s : State) (d mv : Nat) : Nat :=
  ((List.range 49).filter fun i => decide (s.voltage d (16 + i) ≤ mv)).foldl (fun a i => max a (16 + i)) 16

/-- R107: the highest clock code that the die's present voltage supports. -/
def State.supported (s : State) (d : Nat) : Nat := s.codeUnder d (s.pwr.die.look d {}).volt

/-- R110: a voltage in mV as ULINEAR16 with exponent −12, rounded up so that the voltage suffices (log 83). -/
def uLinear16 (mv : Nat) : Nat := (mv * 4096 + 999) / 1000

/-- R108: PWR_PMB_CFG[d].ENABLE: the pilot has a regulator of die `d` to ask (log 83). -/
def State.pmbOn (s : State) (d : Nat) : Bool := (s.pwr.die.look d {}).pmbCfg.getLsbD 31

/-- R108: a PMBus command to the regulator of die `d`, at the address of PWR_PMB_CFG[d] and the speed of PWR_PMB_CTRL. -/
def State.pmbSend (d : Nat) (c : PmbCmd) (s : State) : State :=
  s.emit (.pmbus (s.pwr.pmbCtrl.getLsbD 0) (bits (s.pwr.die.look d {}).pmbCfg 16 7) c)

/-- R108, R110, R129: the transaction with the regulator of die `d`: PAGE, then VOUT_MODE until it has reported ULINEAR16, and
after that VOUT_COMMAND with the target, whose settling READ_VOUT shows. -/
def State.pmbAsk (d : Nat) (s : State) : State :=
  let x := s.pwr.die.look d {}
  let t := s.pmbSend d (.page (bits x.pmbCfg 8 8))
  if x.pmbMode then (t.pmbSend d (.voutCommand (uLinear16 x.target))).pmbSend d .readVout else t.pmbSend d .voutMode

/-- R110, R111: the regulator of die `d` is asked for `mv`, where the bus is in use and has not failed. A transaction to that
voltage that is in progress goes on. A lower voltage counts from the moment it is asked for. -/
def State.askVolt (d mv : Nat) (s : State) : State :=
  let x := s.pwr.die.look d {}
  if !s.pmbOn d || x.pmbFault then s
  else if x.pmbBusy && x.target == mv then s
  else
    (s.onDie d fun x => { x with target := mv, pmbBusy := true, pmbTries := 0, volt := min x.volt mv }).pmbAsk d

/-- R111, R130: the die moves toward the clock that R127 allows. A lower clock relocks at once, and the voltage follows once it
is reached; a higher clock within the present voltage relocks, and one beyond it asks the regulator first. A relock in progress
goes on to the new clock, within the present voltage, unless it goes back after a failure. -/
def State.retune (d : Nat) (s : State) : State :=
  let x := s.pwr.die.look d {}
  let want := s.allowed d
  if !x.pllOn then s
  else if x.relocking then
    if x.back then s else s.onDie d fun x => { x with change := some (min want (s.supported d)) }
  else if want < x.code then s.onDie d fun x => { x with change := some want, relocking := true }
  else if want = x.code then (s.onDie d fun x => { x with change := none }).askVolt d (s.voltage d want)
  else if want ≤ s.supported d then s.onDie d fun x => { x with change := some want, relocking := true }
  else if s.pmbOn d && !x.pmbFault then (s.onDie d fun x => { x with change := some want }).askVolt d (s.voltage d want)
  else
    let c := min want (s.supported d)
    if x.code < c then s.onDie d fun x => { x with change := some c, relocking := true } else s.onDie d fun x => { x with change := none }

/-- Every die is retuned. -/
def State.retuneAll (s : State) : State := (List.range 8).foldl (fun t d => t.retune d) s

/-- R116: a die's PLL runs while any of its slices is out of OFF. -/
def State.pllWanted (s : State) (d : Nat) : Bool := (List.range 4).any fun k => (s.slice (4 * d + k)).st != .off

/-- The PLL of the die starts at the clock then allowed, as far as its voltage supports it, and goes on to it (R107, R116);
or it stops. While TRIPPED no die's clock starts (R95). -/
def State.pllFollow (d : Nat) (s : State) : State :=
  let x := s.pwr.die.look d {}
  if s.pllWanted d then
    if x.pllOn || s.tw.tripped then s
    else
      (s.onDie d fun x =>
        { x with pllOn := true, code := min (s.allowed d) (s.supported d), change := none, relocking := false, back := false }).retune d
  else if x.pllOn then
    s.onDie d fun x => { x with pllOn := false, code := 0, change := none, relocking := false, back := false }
  else s

/-- A slice changes its power state. -/
def State.setSlice (n : Nat) (st : SliceSt) (s : State) : State :=
  (s.onSlice n fun x => { x with st := st, waking := false }).pllFollow (dieOf n)

/-- R114, R115: a slice starts to wake; a slice that is unavailable or owned by no partition ignores the request. -/
def State.wakeSlice (n : Nat) (s : State) : State :=
  let x := s.slice n
  if x.unavail || (s.owner n).isNone || x.st == .run then s
  else s.onSlice n fun x => { x with waking := true }

/-- R17, R125: a pre-wake of a slice in NAP or OFF; one already in force keeps the former state it remembers. -/
def State.prewake (n : Nat) (pid : Option Nat) (s : State) : State :=
  let x := s.slice n
  if x.unavail || (s.owner n).isNone then s
  else if x.prewoken.isSome then s.onSlice n fun x => { x with prewakePid := pid }
  else if x.st == .nap || x.st == .off then
    s.onSlice n fun x => { x with prewoken := some x.st, prewakePid := pid, waking := true }
  else s

/-- A POWER_HOLD in force names the slice, or the device (PWR_SLICE_STATE.HELD, PWR_STAT.HOLD). -/
def State.held (s : State) (n : Nat) : Bool :=
  s.pwr.holds.any fun h => match h.slices with | some m => m.getLsbD n | none => false

/-- A device-level hold is in force. -/
def State.deviceHeld (s : State) : Bool := s.pwr.holds.any fun h => h.slices.isNone

/-- Sources of PWR_WAKE_SRC (Table 5-7): 0 rule, 1 PCIe, 2 hail, 3 WAKE_N, 4 packet waiter. -/
def State.wake (src rule : Nat) (s : State) : State :=
  let note := fun (t : State) => t.onPwr fun p => { p with wakeSrc := BitVec.ofNat 32 (2 ^ src + rule * 256) }
  if s.pwr.dev = .sleep then (note s).onPwr fun p => { p with wakePending := true }
  else if s.pwr.dev = .deep ∧ (src = 0 ∨ src = 3) then (note s).onPwr fun p => { p with wakePending := true }
  else if s.pwr.deepAccepted ∧ (src = 0 ∨ src = 3) then s.onPwr fun p => { p with deepWake := true }
  else s

/-- ALERT_N is asserted (R509): a TW_ALERT bit, a boot halt, a PMB_FAULT, CAL_FAIL or PART_FROZEN bit. -/
def State.alertPin (s : State) : Bool :=
  s.tw.alert != 0 || s.boot.halt || s.pwr.die.any (fun e => e.2.pmbFault) || s.cim.calFail != 0 || s.part.frozen != 0

/-- R56: the VFs' configuration space is there: VF Enable is in effect, which it is not before READY. -/
def State.vfThere (s : State) : Bool := s.boot.ready && s.host.vfEnable

/-- R30: until READY only GLB, INT and PILOT respond; the first discarded access after a reset is logged. -/
def State.discarded (off : Nat) (s : State) : State :=
  if s.boot.discardLogged || !s.ao.hubOut then s
  else (s.onBoot fun b => { b with discardLogged := true }).logOcc { event := 0x104, sev := 2, addr := BitVec.ofNat 64 off }

/-- A host access, which wakes a sleeping device (R14). -/
def State.hostWake (s : State) : State := if s.pwr.dev = .sleep then s.wake 1 0 else s

end Sys2Proof.Machine
end

