-- ==== Sys2Proof/Machine/Sensors.lean ====
section
/-! DEFINITION. What the management side sees of the device: when it answers, the sensors of Table 19-6, the PLDM events
they give rise to, and the end of an update session (R479, R482, R483, R490). -/

namespace Sys2Proof.Machine

open Sys2Proof

/-- Thermal limits in force: WARN, THROTTLE and TRIP in 1/64 °C; the reset ones while the pair does not match (R94,
R105). -/
def State.limits (s : State) : Int × Int × Int :=
  let w : DWord := if pairOk s.tw.thermLim then s.tw.thermLim else 0xFF939BA0006C645F
  ((bits w 0 8 : Int) * 64, (bits w 8 8 : Int) * 64, (bits w 16 8 : Int) * 64)

/-- R479: the pilot runs: from the end of stage 8 while the boot proceeds, and in READY and AWAKE. -/
def State.pilotRuns (s : State) : Bool := decide (9 ≤ s.boot.stage) && !s.boot.halt && !s.asleep

/-- A channel's latest valid value; none while it has none (R104, R482). -/
def State.channelReading (s : State) (c : Nat) (signed : Bool) : Option Int :=
  let x := s.tw.chLast.look c {}
  if !x.seen || x.stale || x.bad || s.tw.adcFault then none
  else some (if signed then x.value.toInt else (x.value.toNat : Int))

/-- The numeric sensors of Table 19-6; the outer none for an ID that is none of them. -/
def State.sensor (s : State) (id : Nat) : Option (Option Int) :=
  if 1 ≤ id ∧ id ≤ 8 then some (if s.tw.adcFault then none else s.dieTemp (id - 1))
  else if id = 9 ∨ id = 10 then some (s.channelReading (35 + id) true)
  else if 11 ≤ id ∧ id ≤ 17 then some (s.channelReading (21 + id) false)
  else if 18 ≤ id ∧ id ≤ 25 then
    let v := (s.pwr.die.look (id - 18) {}).lastVout
    some (if v = 0 then none else some (v : Int))
  else if 26 ≤ id ∧ id ≤ 29 then some (s.channelReading (14 + id) true)
  else if id = 30 then some (some (s.pwr.power.toNat : Int))
  else none

/-- How many of the upper limits WARN, THROTTLE and TRIP a temperature has reached. -/
def State.limitsMet (s : State) (t : Int) : Nat :=
  (if s.limits.1 ≤ t then 1 else 0) + (if s.limits.2.1 ≤ t then 1 else 0) + (if s.limits.2.2 ≤ t then 1 else 0)

/-- Sensor 64: BOOT, TRAINING, READY, AWAKE; none in SLEEP and DEEP, which it does not name. -/
def State.deviceState (s : State) : Option Nat :=
  match s.pwr.dev with
  | .boot => some 0
  | .training => some 1
  | .ready => some 2
  | .awake => some 3
  | _ => none

/-- Sensor 65: the highest of the thermal ladder's conditions: normal, warning, throttled, tripped. -/
def State.thermalState (s : State) : Nat :=
  if s.tw.tripped then 3
  else if s.tw.ladder.any (fun e => e.2.level != 0) then 2
  else if s.tw.ladder.any (fun e => e.2.warned) then 1
  else 0

/-- The state of a sensor that gives rise to events: 1 to 8, 64 and 65. -/
def State.sensorState (s : State) (id : Nat) : Option Nat :=
  if id = 64 then s.deviceState
  else if id = 65 then some s.thermalState
  else match s.sensor id with
    | some (some t) => some (s.limitsMet t)
    | _ => none

/-- The sensors that give rise to events. -/
def eventSensors : List Nat := [1, 2, 3, 4, 5, 6, 7, 8, 64, 65]

/-- The event at the head of the list is sent to the receiver (R483). -/
def State.sendEvent (s : State) : State :=
  match s.mgmt.events, s.mgmt.receiver with
  | (id, v, _) :: _, some (b, _) => if s.pilotRuns then s.emit (.mgmt b (.event id v)) else s
  | _, _ => s

/-- R483: an event occurs: held as one of 16 and sent when it is the first, or discarded and logged. -/
def State.pldmEvent (id v : Nat) (s : State) : State :=
  if 16 ≤ s.mgmt.events.length then s.logOcc { event := 0x706, sev := 2, code := id }
  else
    let t := s.onMgmt fun m => { m with events := m.events ++ [(id, v, 0)] }
    if s.mgmt.events.isEmpty then t.sendEvent else t

/-- R483: every change of the sensors since the last look gives rise to an event, while a receiver is set. -/
def State.pldmWatch (s : State) : State :=
  match s.mgmt.receiver with
  | none => s
  | some _ =>
    eventSensors.foldl (fun t id =>
      match s.sensorState id with
      | none => t
      | some v =>
        if t.mgmt.lastState.look id 0 = v then t
        else (t.onMgmt fun m => { m with lastState := m.lastState.put id 0 v }).pldmEvent id v) s

/-- R480: SMB_ALERT_N is asserted. -/
def State.smbAlert (s : State) : Bool := s.alertPin || !s.mgmt.events.isEmpty

/-- R478: the SMBus address of Table 19-4. -/
def smbAddress (sel : BitVec 2) : BitVec 7 :=
  match sel.toNat with
  | 0 => 0x4E
  | 1 => 0x4F
  | 2 => 0x5E
  | _ => 0x5F

/-- R490: an update session ends at once: no further page of the target slot is programmed, and a record write of its
activation is taken back, a page in progress finishing first. -/
def State.endUpdate (s : State) : State :=
  if s.mgmt.upd = .idle then s
  else
    let mine := fun w : NvmWrite => match w.why with | .activate => true | _ => false
    let t := s.onNvm fun n => { n with queue := n.queue.filter (fun w => !mine w), slotJobs := [] }
    let t := match t.nvm.cur with
      | some (w, _, p, _) =>
        if !mine w || t.nvm.stop then t
        else if t.nvm.slotBusy.isSome || decide (p = NvmPhase.erase) then t.nvmInterrupt.nvmStart
        else t.onNvm fun n => { n with stop := true }
      | none => t
    (t.onMgmt fun m => { m with upd := .idle, updPending := none, updPage := [] }).logOcc { event := 0x903, sev := 2, code := 0 }

/-- A trip meets an update (ch. 19, Collisions): it ends, and a transfer still running is reported as failed. -/
def State.tripUpdate (s : State) : State :=
  let t := if s.mgmt.upd = .download ∧ s.pilotRuns then s.emit (.mgmt s.mgmt.updBind (.transferComplete false)) else s
  t.endUpdate

end Sys2Proof.Machine
end

