-- ==== Sys2Proof/Machine/BootOps.lean ====
section
/-! DEFINITION. Boot stages, failures and resets (ch. 2). -/

namespace Sys2Proof.Machine

open Sys2Proof

/-- PILOT_BOOT_TIME: microseconds since PERST_N release (the always-on clock ticks every 125 ns), saturating. -/
def State.bootUs (s : State) : Word :=
  BitVec.ofNat 32 (min ((s.time.tick - s.boot.perstTick) / 8) 0xFFFFFFFF)

/-- A fatal boot failure (R39). -/
def State.halt (stage code : Nat) (detail : Word) (s : State) : State :=
  let t := s.onBoot fun b =>
    { b with halt := true, ready := false, stage := stage, failCode := BitVec.ofNat 16 code, detail := detail,
             bootTime := s.bootUs }
  (t.logOcc { event := 0x800 + stage, sev := 6, code := code, addr := detail.setWidth 64 }).raise 1

/-- A non-fatal boot failure (R39). -/
def State.note (code : Nat) (detail : Word) (s : State) : State :=
  let t := s.onBoot fun b =>
    { b with warn := true, failCode := BitVec.ofNat 16 code, detail := detail, noteCode := BitVec.ofNat 16 code,
             noteDetail := detail }
  t.logOcc { event := 0x800 + code / 256, sev := 2, code := code, addr := detail.setWidth 64 }

/-- The boot is running at a stage, not halted. -/
def State.atStage (s : State) (n : Nat) : Bool := s.boot.stage == n && !s.boot.halt

/-- Stage 15: READY (R31, R56, R474). -/
def State.reachReady (s : State) : State :=
  let t := s.onBoot fun b => { b with stage := 15, ready := true, bootTime := s.bootUs }
  let t := t.onPwr fun p => { p with dev := .ready }
  let t := t.onHost fun h => match h.vfPending with
    | some on => { h with vfEnable := on, vfPending := none }
    | none => h
  ((t.raise 1).raise 5).pldmWatch

/-- Workers this manager holds as joined. -/
def State.joined (s : State) : Nat := (s.fleet.dev.filter fun e => decide (e.2.st = .joined)).length

/-- Stage 14 is complete once the expected workers have joined, or this worker has its number (R31). -/
def State.stage14 (s : State) : State :=
  if !s.atStage 14 then s
  else if s.isManager then
    if s.fleet.expect ≠ 0 ∧ s.fleet.expect ≤ s.joined then s.reachReady else s
  else if s.fleet.devNum.isSome then s.reachReady else s

/-- Stage 14 begins. -/
def State.enter14 (s : State) : State := (s.onBoot fun b => { b with stage := 14 }).stage14

/-- An enabled port has settled: it is DOWN, or ACTIVE and not in recovery. -/
def State.portSettledAt (s : State) (n : Nat) : Bool :=
  decide ((s.port n).st = .down) || (decide ((s.port n).st = .active) && !(s.port n).recovering)

/-- R63: stage 13 is complete when every enabled port is ACTIVE or DOWN; DOWN ports give 0x0D01. -/
def State.stage13 (s : State) : State :=
  let on := (List.range 8).filter fun n => (s.port n).enable
  let down := on.filter fun n => decide ((s.port n).st = .down)
  if s.atStage 13 && on.all s.portSettledAt then
    (if down.isEmpty then s else s.note 0x0D01 (maskOf 32 down)).enter14
  else s

/-- Stage 13's limit passes: a port whose series has not ended goes DOWN as after its last attempt (R31, R40, R62). -/
def State.stage13Over (s : State) : State :=
  (((List.range 8).filter fun n => (s.port n).enable && !s.portSettledAt n).foldl (fun t n =>
    (t.onPort n (Port.toDown 1)).logOcc { event := 0x704, sev := 4, unit := 0x900 + n }) s).stage13

/-- Stage 13 begins: every enabled port starts a series. -/
def State.enter13 (s : State) : State :=
  ((List.range 8).foldl (fun t n => t.startSeries n) (s.onBoot fun b => { b with stage := 13 })).stage13

/-- Stage 12 is complete; a standalone device skips stages 13 and 14 (R31). -/
def State.after12 (s : State) : State := if s.isStandalone then s.reachReady else s.enter13

/-- R35: the order of the image sources, and the selector write that goes with it. -/
def State.enter7 (s : State) : State :=
  let (a, tr) := s.selector
  let s := if (s.record 0).isSome then s else s.logOcc { event := 0x901, sev := 2, code := 0 }
  let act := BitVec.ofNat 2 a
  let oth := BitVec.ofNat 2 (1 - a)
  let order := if tr = 1 then [oth, act, 2] else [act, oth, 2]
  let s := s.onPart fun p => { p with exportKey := p.keyNext, keyNext := p.keyNext + 1 }
  let t := s.onBoot fun b =>
    { b with stage := 7, sources := order, trialSrc := if tr = 1 then some oth else none }
  if tr = 1 then t.romSelect (selectorBytes a 2)
  else if tr = 2 then t.romSelect (selectorBytes a 0) else t

/-- R34: why the ROM rejects an image; none when it accepts it. -/
def rejectReason (minSvn : BitVec 16) (i : ImageInfo) : Option Nat :=
  if !i.readable then some 6
  else if i.magic ≠ 0x50435349 ∨ i.hdrVer ≠ 1 ∨ i.bodyLen < 4096 ∨ 2097152 < i.bodyLen ∨ i.bodyLen % 4096 ≠ 0
      ∨ !i.reservedZero ∨ 65535 < i.svn.toNat then some 1
  else if !i.keyOk then some 5
  else if !i.sigOk then some 3
  else if !i.digestOk then some 2
  else if i.svn.toNat < minSvn.toNat then some 4
  else none

/-- The verified image starts: stage 8 (R31). -/
def State.startPilot (src : BitVec 2) (i : ImageInfo) (s : State) : State :=
  s.onBoot fun b =>
    { b with stage := 8, halt := false, source := src, fwVer := i.version, imgSvn := i.svn.setWidth 16, imgDigest := i.digest,
             failCode := b.noteCode, detail := b.noteDetail, trial := decide (b.trialSrc = some src) }

/-- The source in hand has failed: the next is tried, and after the last the boot halts with 0x0702 (R34, R35). -/
def State.nextSource (s : State) : State :=
  let t := s.onBoot fun b => { b with stage := 7, sources := b.sources.tail }
  if t.boot.sources.isEmpty then t.halt 7 0x0702 0 else t

/-- Fleet table (record 3), with the layout of log 14: fleet ID, expected count, then serial number and device number
pairs. -/
def fleetTable (id : Word) (expect : Nat) (l : List (DWord × Nat)) : List Byte :=
  toLe 4 id.toNat ++ toLe 1 expect ++ [0, 0, 0] ++ (l.map fun e => toLe 8 e.1.toNat ++ toLe 8 e.2).flatten

/-- The pairs of a fleet table, `n` at most. -/
def fleetPairs : Nat → List Byte → List (DWord × Nat)
  | 0, _ => []
  | n + 1, bs => if bs.length < 16 then [] else (BitVec.ofNat 64 (field bs 0 8), field bs 8 8) :: fleetPairs n (bs.drop 16)

/-- R377: the fleet layer when the pilot starts: the fleet ID, the expected count and the reserved numbers of the
fleet table; the manager without an ID takes its serial number's low word, or 1. -/
def State.fleetInit (s : State) : State :=
  let d := (s.record 3).getD []
  let s := if (s.record 3).isSome then s else s.logOcc { event := 0x901, sev := 2, code := 3 }
  let id := BitVec.ofNat 32 (field d 0 4)
  let sn : Word := Config.serial.setWidth 32
  let id := if s.isManager ∧ id = 0 then (if sn = 0 then 1 else sn) else id
  s.onFleet fun f =>
    { f with id := id, expect := field d 4 1
             dev := if s.isManager then (fleetPairs 63 (d.drop 8)).foldl (fun t e => t.put e.2 {} { st := .reserved, sn := e.1 }) [] else []
             own := if s.isStandalone then .standalone else if s.isManager then .joined else .forming
             devNum := if s.isManager then some 0 else none }

/-- Slices become unavailable during the boot: they are held OFF and leave PILOT_AVAIL (R40, R115). -/
def State.dropSlices (l : List Nat) (s : State) : State :=
  l.foldl (fun t n =>
    ((t.onSlice n fun x => { x with unavail := true, st := .off, waking := false }).onBoot fun b =>
      { b with avail := clearBit b.avail n }).logOcc { event := 0x403, sev := 4, unit := 0x800 + dieOf n, code := n }) s

/-- The slices of the dies of a mask. -/
def slicesOfDies (m : BitVec 8) : List Nat := ((ones m).map fun d => (List.range 4).map (4 * d + ·)).flatten

/-- What every reset but a VF FLR takes away beyond the always-on domain (R41, Table 2-5); a page program in progress
finishes first (R46). -/
def State.clearFast (s : State) : State :=
  let s := (s.nvmReset true).endUpdate
  { s with
    boot := {}
    hws := []
    pwr := {}
    q := {}
    part := { keyNext := s.part.keyNext, createCnt := s.part.createCnt }
    obj := {}
    sync := {}
    red := {}
    core := {}
    work := {}
    mem := { gErr := s.mem.gErr }
    cim := {}
    fleet := {}
    fence := {}
    mgmt := {}
    tw := { s.tw with seqRunning := none }
    log := { s.log with history := [], histNext := 0 } }

/-- INT_CAUSE.BOOT is the only cause that may be set after a reset (R474, R476). -/
def bootCause (was : Bool) : Word := if was then 2 else 0

/-- A device that was READY, or whose BOOT cause stood, shows BOOT after the reset (R474, R476). -/
def State.bootSet (s : State) : Bool := s.boot.ready || s.host.intCause.getLsbD 1

/-- The halt of stage 3 or 4, which only a cold reset ends, or the always-on stages themselves (R45). -/
def State.beforeFive (s : State) : Bool := decide (s.boot.stage < 5)

/-- What any reset clears of the host's registers in a halt of stage 3 or 4: the mailbox answer (R48), and whether a
discarded access has been logged (R30). -/
def State.clearHalted (s : State) : State :=
  s.onBoot fun b => { b with mboxBusy := false, mboxLost := false, mboxResult := 0, mboxCmd := 0, mboxArg := [], discardLogged := false }

/-- A warm reset (R41, R45, R46): stages 2 to 4 and their halts stay, and the host link retrains; otherwise the boot restarts
at stage 5. -/
def State.warmReset (s : State) : State :=
  if s.beforeFive then
    (s.clearHalted.onBoot fun b => { b with linkTrained := false, cfgAnswers := false }).onHost fun _ => {}
  else
    let set := s.bootSet
    let t := (s.clearFast).onHost fun _ => { intCause := bootCause set }
    let t := t.onAo fun a => { a with hubOut := a.perstReleased }
    (t.onBoot fun b => { b with stage := 5, perstTick := t.time.tick }).onPwr fun p => { p with dev := .boot }

/-- The host port after a PF FLR (R41, R476): the link stays trained; a reset of the device's own (`inner`) keeps
configuration space with the MSI-X table and INT_VEC. -/
def HostPort.afterFlr (inner set : Bool) (h : HostPort) : HostPort :=
  let keep : HostPort := { width := h.width, rate := h.rate, flit256 := h.flit256, intCause := bootCause set }
  if inner then
    { keep with msix := h.msix, msixEnable := h.msixEnable, msixFmask := h.msixFmask, intVec := h.intVec,
                bar2Log := h.bar2Log }
  else keep

/-- A PF FLR (R41, R476, R515): the boot restarts at stage 7 (Table 2-5; from stage 5 or 6 as well, log 74), where the ROM
goes on once the hub PLL has locked (R38); a halt of stage 3 or 4 stays (R45). `inner` marks one from REBOOT or the watchdog.
In DEEP the hub has no power and nothing is reset. -/
def State.pfFlr (inner : Bool) (s : State) : State :=
  if !s.ao.hubOut || s.pwr.dev == .deep then s
  else if s.beforeFive then s.clearHalted.onHost (HostPort.afterFlr inner false)
  else
    let set := s.bootSet
    let t := s.clearFast.onHost fun _ => s.host.afterFlr inner set
    let t := t.onBoot fun b =>
      { b with stage := 7, hubPll := s.boot.hubPll, linkTrained := s.boot.linkTrained, cfgAnswers := s.boot.linkTrained,
               perstTick := s.boot.perstTick }
    let t := if s.boot.hubPll then t.enter7 else t
    if inner && set && !s.host.intCause.getLsbD 1 then t.msixSend 0 (t.host.intVec.look 1 0).toNat else t

/-- A cold reset (R24, R41, R460): only the persistent store and the fuse block survive; pins stay as the board holds
them. Whether a page program in progress finished before the rail fell is open (R23, R457, log 7). -/
def State.coldReset (s : State) : State :=
  let (v, s) := s.fresh
  let n := (s.nvmReset (v.getLsbD 0)).nvm
  let r : State := {}
  { r with
    ao := { perstReleased := s.ao.perstReleased, minSvn := s.ao.minSvn, sysRefclk := s.ao.sysRefclk, xtal := s.ao.xtal }
    nvm := { n with refusing := false, writes := 0, fails := 0, wearMax := 0, lastOut := 0, lastRec := 0 }
    part := { keyNext := s.part.keyNext }
    jtag := { r.jtag with testMode := s.jtag.testMode }
    out := s.out, free := s.free, pending := s.pending }

end Sys2Proof.Machine
end

