-- ==== Sys2Proof/Machine/GangOps.lean ====
section
/-! DEFINITION. Gangs, blocks and their registers, and the faults that kill a context (R210, R230 to R235). -/

namespace Sys2Proof.Machine

open Sys2Proof

/-- Core, quarter and slot of a gang (R210). -/
def gCore (g : Nat) : Nat := g / 64
def gQuarter (g : Nat) : Nat := g % 64 / 16
def gSlot (g : Nat) : Nat := g % 16

/-- A gang. -/
def State.gang (s : State) (g : Nat) : Gang := s.core.gang.look g {}

/-- The update of one gang. -/
def State.onGang (g : Nat) (f : Gang → Gang) (s : State) : State :=
  s.onCore fun c => { c with gang := c.gang.upd g {} f }

/-- A block, by key. -/
def State.blk (s : State) (b : Nat) : Block := s.core.block.look b {}

/-- The update of one block. -/
def State.onBlk (b : Nat) (f : Block → Block) (s : State) : State :=
  s.onCore fun c => { c with block := c.block.upd b {} f }

/-- A core. -/
def State.coreAt (s : State) (c : Nat) : Core := s.core.core.look c {}

/-- The update of one core. -/
def State.onCoreAt (c : Nat) (f : Core → Core) (s : State) : State :=
  s.onCore fun x => { x with core := x.core.upd c {} f }

/-- A launch in progress, by number. -/
def State.launch (s : State) (l : Nat) : Launch := s.work.launch.look l {}

/-- The update of one launch. -/
def State.onLaunch (l : Nat) (f : Launch → Launch) (s : State) : State :=
  s.onWork fun w => { w with launch := w.launch.upd l {} f }

/-- The launch a gang belongs to. -/
def State.launchOf (s : State) (g : Nat) : Launch := s.launch (s.blk (s.gang g).block).launch

/-- TAG of the LAUNCH of a gang (R141). -/
def State.gangTag (s : State) (g : Nat) : Word := s.tagOf (s.launchOf g).pid

/-- A `u` register. -/
def Gang.uReg (x : Gang) (r : Nat) : Word := x.u.look r 0
/-- A pair of `u` registers, low word first. -/
def Gang.uPair (x : Gang) (r : Nat) : DWord := BitVec.ofNat 64 ((x.uReg r).toNat + (x.uReg (r + 1)).toNat * 2 ^ 32)
/-- A `u` register is written. -/
def Gang.setU (r : Nat) (v : Word) (x : Gang) : Gang := { x with u := x.u.put r 0 v }
/-- A pair of `u` registers is written, low word first. -/
def Gang.setPair (r : Nat) (v : DWord) (x : Gang) : Gang := (x.setU r (v.setWidth 32)).setU (r + 1) (BitVec.ofNat 32 (v.toNat / 2 ^ 32))
/-- A lane of a `v` register. -/
def Gang.vReg (x : Gang) (r lane : Nat) : Word := x.v.look (r * 32 + lane) 0
/-- A lane of a `v` register is written. -/
def Gang.setV (r lane : Nat) (v : Word) (x : Gang) : Gang := { x with v := x.v.put (r * 32 + lane) 0 v }
/-- A predicate register. -/
def Gang.pReg (x : Gang) (r : Nat) : Word := x.p.look r 0
/-- A predicate register is written. -/
def Gang.setP (r : Nat) (v : Word) (x : Gang) : Gang := { x with p := x.p.put r 0 v }
/-- A predicate of a uniform instruction: every lane the same. -/
def Gang.setFlag (r : Nat) (b : Bool) (x : Gang) : Gang := x.setP r (if b then 0xFFFFFFFF else 0)

/-- The update of one context. -/
def State.onCtx (c : Nat) (f : Ctx → Ctx) (s : State) : State :=
  s.onObj fun o => { o with ctx := o.ctx.upd c {} f }

/-- A context is killed by its first fault (R230, R235), that of gang `g` of launch `l` or of a packet. A later one changes
nothing, unless it is met at the same time, before the stop, on a lower core, quarter or slot; a packet's fault has
reached its reply, and stays. -/
def State.kill (c code g : Nat) (l : Option Nat) (s : State) : State :=
  let x := s.ctx c
  if x.st = .live then
    s.onCtx c fun x => { x with st := .killed, fault := some (code, gCore g), faultLaunch := l, faultTick := s.time.tick, faultGang := g }
  else if x.st = .killed ∧ !x.stopped ∧ x.faultTick = s.time.tick ∧ x.faultLaunch.isSome ∧ l.isSome ∧ g < x.faultGang then
    s.onCtx c fun x => { x with fault := some (code, gCore g), faultLaunch := l, faultGang := g }
  else s

/-- The gangs of a context may run: it lives, or its first fault lies less than 10 µs back and it has not stopped (R231). -/
def State.ctxRuns (s : State) (c : Nat) : Bool :=
  let x := s.ctx c
  x.st == .live || (x.st == .killed && !x.stopped && decide (s.time.tick < x.faultTick + 80))

/-- The partition of a context key. -/
def partOfKey (c : Nat) : Nat := c / 2 ^ 32

/-- A fault of launch `n` is logged with the items of R232: core, quarter and slot of gang `g`, lane mask, TAG. The commands
carry no instruction address, so the logged one is a free value (log 7). -/
def State.logFault (g n code : Nat) (addr : DWord) (lanes : Word) (s : State) : State :=
  let l := s.launch n
  let (va, t) := s.fresh
  t.logOcc { event := 0x200 + code, sev := 3, part := some l.part, tag := s.tagOf l.pid, unit := gCore g, code := code, addr := addr,
             payload := toLe 8 va.toNat ++ toLe 4 lanes.toNat ++ toLe 1 (gQuarter g) ++ toLe 1 (gSlot g) }

/-- A gang meets a fault: it is logged, its context is killed, and the gang issues nothing more. -/
def State.gangFault (g code : Nat) (addr : DWord) (s : State) : State :=
  let x := s.gang g
  let n := (s.blk x.block).launch
  (((s.logFault g n code addr x.active).kill (s.launch n).ctx code g (some n))).onGang g fun y => { y with wait := .fault }

/-- R183: an access of a packet meets a fault: its context is killed and the packet completes FAULTED, with core number
0x0FFF. -/
def State.packetFault (pid code : Nat) (addr : DWord) (s : State) : State :=
  match s.inflight pid with
  | none => s
  | some i =>
    let t := s.logOcc { event := 0x200 + code, sev := 3, part := some i.pkt.part, tag := i.pkt.tag, code := code, addr := addr }
    let t := match i.ctx with | some c => t.kill c code (0xFFF * 64) none | none => t
    t.finish pid stFaulted 0 (code + 0xFFF * 65536)

/-- A core's near cache drops every entry of a context (R298). -/
def State.nearDrop (core c : Nat) (s : State) : State :=
  s.onMem fun m => { m with near := m.near.filter fun e => !(e.1 / 64 == core && e.2.ctx == c) }

/-- An acquire of a gang: its core drops its context's near-cache entries (R298, R309). -/
def State.acquire (g : Nat) (s : State) : State := s.nearDrop (gCore g) (s.launchOf g).ctx

/-- R371: the launch of a gang loses its replayable status. -/
def State.loseStatus (g : Nat) (s : State) : State :=
  s.onLaunch (s.blk (s.gang g).block).launch fun l => { l with status := false }

/-- A core's hardware runs: its slice is in RUN, its clock is not relocking, nothing has tripped (R106, R113, R450). -/
def State.coreRuns (s : State) (c : Nat) : Bool :=
  s.awake && !s.tw.tripped && s.coreOn c && (s.slice (sliceOf c)).st == .run
    && !(s.pwr.die.look (dieOf (sliceOf c)) {}).relocking

/-- R220: a block has issued before, or every block of its cluster is resident: none is to be placed again. -/
def State.clusterHere (s : State) (b : Nat) : Bool :=
  let x := s.blk b
  let l := s.launch x.launch
  x.started || !(l.replace.any fun i => i / max 1 l.cluster == x.cluster)

/-- A core's mover runs: traffic in flight goes on while the clock relocks, and while the slice's cores all doze (R106,
R113, R228). -/
def State.moverRuns (s : State) (c : Nat) : Bool :=
  s.awake && !s.tw.tripped && s.coreOn c && ((s.slice (sliceOf c)).st == .run || (s.slice (sliceOf c)).st == .doze)

/-- A gang can issue an instruction: it is live and ready, its context runs, its cluster is resident, and its device runs
(R113, R118, R220, R231, R450). Which ready gang of a quarter issues next is the sender's (log 91). -/
def State.canIssue (s : State) (g : Nat) : Bool :=
  let x := s.gang g
  x.live && x.wait == .ready && x.active != 0 && s.ctxRuns (s.launchOf g).ctx && s.clusterHere x.block && s.coreRuns (gCore g)

/-- Lanes that are active. -/
def Gang.lanes (x : Gang) : List Nat := (List.range 32).filter fun i => x.active.getLsbD i

/-- An instruction of gang `g`: nothing happens where it cannot issue (log 9). -/
def State.issue (g : Nat) (f : State → State) (s : State) : State :=
  if s.canIssue g then
    let t := s.onGang g fun x => { x with issued := true }
    f (t.onBlk (t.gang g).block fun b => { b with started := true })
  else s

/-- A pair of registers for a 64-bit result starts at an even register of `u0` to `u62` (ch. 14). -/
def evenU (r : Nat) : Bool := decide (r ≤ 62) && r % 2 == 0

end Sys2Proof.Machine
end

