-- ==== Sys2Proof/Machine/SyncOps.lean ====
section
/-! DEFINITION. The sync stores: counters, semaphores, their queues of waiters and holders, and the operations applied to
them in arrival order (R336 to R355). -/

namespace Sys2Proof.Machine

open Sys2Proof

/-- A tally counter. -/
def State.tally (s : State) (i : Nat) : Tally := s.sync.tally.look i {}
/-- A semaphore. -/
def State.sem (s : State) (i : Nat) : Sem := s.sync.sem.look i {}
/-- The update of one counter. -/
def State.onTally (i : Nat) (f : Tally → Tally) (s : State) : State :=
  s.onSync fun x => { x with tally := x.tally.upd i {} f }
/-- The update of one semaphore. -/
def State.onSem (i : Nat) (f : Sem → Sem) (s : State) : State := s.onSync fun x => { x with sem := x.sem.upd i {} f }

/-- A counter with a new value, stored with its complement (R337). -/
def Tally.set (v : DWord) (t : Tally) : Tally := { t with value := v, nvalue := ~~~v }
/-- A semaphore with a new count. -/
def Sem.set (v : Word) (t : Sem) : Sem := { t with count := v, ncount := ~~~v }
/-- The object can take an operation: not BAD, and its complement matches (R337, R355). -/
def Tally.ok (t : Tally) : Bool := !t.bad && t.nvalue == ~~~t.value
def Sem.ok (t : Sem) : Bool := !t.bad && t.ncount == ~~~t.count

/-- Slice and sync store of an object index (R336). -/
def objSlice (i : Nat) : Nat := i % 2 ^ 17 / 4096
def objDie (i : Nat) : Nat := i % 2 ^ 17 / 16384

/-- A record of a gang, charged to the object's slice (R350). -/
def WaitRec.isGang (w : WaitRec) : Bool := match w.who with | .gang _ => true | .packet _ => false

/-- Gang waiter and holder records charged to a slice (R350). -/
def State.recUse (s : State) (sl : Nat) : Nat :=
  let t := (s.sync.tally.filter fun e => objSlice e.1 == sl).map fun e => (e.2.waiters.filter WaitRec.isGang).length
  let m := (s.sync.sem.filter fun e => objSlice e.1 == sl).map fun e =>
    (e.2.waiters.filter WaitRec.isGang).length + e.2.holders.length
  t.sum + m.sum

/-- The peak of SYNC_REC_USE follows. -/
def State.notePeak (sl : Nat) (s : State) : State :=
  s.onSync fun x => { x with recPeak := x.recPeak.upd sl 0 (max (s.recUse sl)) }

/-- What an operation answers. -/
inductive SyncRes where
  | ok | abandoned | timeout | noRecord | notHolder | overrun | failed | mirror | bad
  deriving DecidableEq, Repr

/-- Result code of Table 14-4 and predicate. -/
def SyncRes.code : SyncRes → Nat
  | .abandoned => 1 | .timeout => 2 | .noRecord => 3 | .notHolder => 4 | .overrun => 5 | .failed => 6 | _ => 0
def SyncRes.good : SyncRes → Bool
  | .ok | .abandoned => true
  | _ => false

/-- Status of a sync packet (Table 7-8, R201). -/
def SyncRes.status : SyncRes → Nat
  | .ok => stOk | .abandoned => stAbandoned | .timeout => stTimeout | .overrun => stOverrun | .mirror => stDenied
  | .bad => stIntegrity | _ => stOk

/-- R12: a packet of the sync store ends: in SLEEP its outcome is kept and, where its condition was met, the device is
woken. -/
def State.syncFinish (pid : Nat) (r : SyncRes) (v : Nat) (s : State) : State :=
  let detail := if r = .mirror then reason 0x0A 16 else 0
  if s.asleep then
    let t := s.onInflight pid fun i => { i with answer := some (r.status, v) }
    if r.good then t.wake 4 0 else t
  else s.finish pid r.status v detail

/-- The result predicate of a sync instruction, where it names one: 8 names none. -/
def Gang.setResult (p : Nat) (b : Bool) (x : Gang) : Gang := if p < 8 then x.setFlag p b else x

/-- A gang learns the outcome: a counter writes its value to ud and ud + 1, a semaphore its code to ud (Tables 14-2 to
14-4); a BAD object kills the context (R355). -/
def State.syncGang (g : Nat) (tally : Bool) (u p : Nat) (r : SyncRes) (v : DWord) (s : State) : State :=
  let t := s.onGang g fun x => { x with wait := .ready }
  if r = .bad then t.gangFault g 0xF 0
  else if tally then t.onGang g fun x => (x.setPair u v).setResult p r.good
  else t.onGang g fun x => (x.setU u (BitVec.ofNat 32 r.code)).setResult p r.good

/-- A wait of a gang that succeeds is an acquire (R309, R353), and a plain semaphore's ends the replayable status of its
launch (R371). -/
def State.gotIt (g : Nat) (tally owned : Bool) (r : SyncRes) (s : State) : State :=
  if r.good then (if tally || owned then s else s.loseStatus g).acquire g else s

/-- A waiter record ends with an outcome. -/
def State.endWaiter (tally : Bool) (w : WaitRec) (r : SyncRes) (v : DWord) (s : State) : State :=
  match w.who with
  | .gang g => (s.gotIt g tally w.owned r).syncGang g tally w.uReg w.pReg r v
  | .packet pid => s.syncFinish pid r v.toNat

/-- The waiters of a counter whose expected value is reached end in queue order (R341). -/
def State.serveTally (i : Nat) (s : State) : State :=
  let t := s.tally i
  let go := fun w : WaitRec => decide (w.amount.toNat ≤ t.value.toNat)
  let s := s.onTally i fun t => { t with waiters := t.waiters.filter fun w => !go w }
  (t.waiters.filter go).foldl (fun s w => s.endWaiter true w .ok t.value) s

/-- A holding of `n` units is entered, or added to the gang's record (R345). -/
def Sem.hold (g n : Nat) (t : Sem) : Sem :=
  if t.holders.any fun h => h.gang == g then
    { t with holders := t.holders.map fun h => if h.gang = g then { h with units := h.units + n } else h }
  else { t with holders := t.holders ++ [{ gang := g, units := n }] }

/-- Units leave a semaphore: the count falls, ABANDONED is shown once and clears (R342, R345, R347). -/
def Sem.take (n : Nat) (owned : Option Nat) (t : Sem) : Sem :=
  let u := { t.set (t.count - BitVec.ofNat 32 n) with abandoned := false }
  match owned with
  | some g => u.hold g n
  | none => u

/-- Outcome of an acquisition (R347). -/
def Sem.acquired (t : Sem) : SyncRes := if t.abandoned then .abandoned else .ok

/-- Waiters are served from the head while the head fits (R343); `k` bounds their number. -/
def State.serveSemN (i : Nat) : Nat → State → State
  | 0, s => s
  | k + 1, s =>
    let t := s.sem i
    match t.waiters with
    | [] => s
    | w :: r =>
      if w.amount.toNat ≤ t.count.toNat then
        let own := match w.who, w.owned with | .gang g, true => some g | _, _ => none
        let s' := s.onSem i fun t => { t.take w.amount.toNat own with waiters := r }
        State.serveSemN i k (s'.endWaiter false w t.acquired ((s'.sem i).count.setWidth 64))
      else s

/-- Every waiter that can be served is. -/
def State.serveSem (i : Nat) (s : State) : State := s.serveSemN i (s.sem i).waiters.length

/-- A log entry about a sync object. -/
def State.syncLog (event sev : Nat) (part : Option Nat) (obj : Nat) (s : State) (tag : Word := 0) : State :=
  s.logOcc { event := event, sev := sev, part := part, tag := tag, addr := BitVec.ofNat 64 obj }

/-- TAG of the packet that a sync operation comes from: its own, or its gang's LAUNCH (R141). -/
def State.opTag (s : State) (op : SyncOp) : Word :=
  match op.src with
  | .packet pid => s.tagOf pid
  | .gang g => s.gangTag g
  | _ => 0

/-- R201: an add to a mirror counter is logged where no packet asked for it. -/
def State.mirrorLog (op : SyncOp) (s : State) : State :=
  match op.src with
  | .packet _ => s
  | _ => s.syncLog 0xA02 2 (some op.part) op.obj (s.opTag op)

/-- R355: the object is marked BAD and logged, and its waiters end with INTEGRITY. -/
def State.markBad (obj : Nat) (s : State) (tag : Word := 0) : State :=
  let i := obj % 2 ^ 17
  let part := s.owner (objSlice i)
  let s := (s.syncLog 0xA01 4 part obj tag).alert 0
  if obj < 2 ^ 17 then
    let t := s.tally i
    t.waiters.foldl (fun s w => s.endWaiter true w .bad 0) (s.onTally i fun t => { t with bad := true, waiters := [] })
  else
    let t := s.sem i
    t.waiters.foldl (fun s w => s.endWaiter false w .bad 0) (s.onSem i fun t => { t with bad := true, waiters := [] })

/-- OUTCOME of the acknowledgement of a remote operation (Table 16-2a): 0 applied, 1 refused; a refusal by the store counts
as one (log 60). -/
def SyncRes.outcome : SyncRes → Nat
  | .ok => 0
  | _ => 1

/-- The issuer of an operation learns its outcome; a core, a rule and the pilot learn nothing. -/
def State.answer (op : SyncOp) (r : SyncRes) (v : DWord) (s : State) : State :=
  match op.src with
  | .gang g => s.syncGang g (decide (op.obj < 2 ^ 17)) op.uReg op.pReg r v
  | .packet pid => s.syncFinish pid r v.toNat
  | .remote dev id => s.sendAck dev id r.outcome 0
  | _ => s

/-- An operation that acquires at once. -/
def State.acquired (op : SyncOp) (r : SyncRes) (s : State) : State :=
  match op.src with
  | .gang g => s.gotIt g (decide (op.obj < 2 ^ 17)) op.owned r
  | _ => s

/-- A waiter record for an operation that cannot complete at once. -/
def SyncOp.record (op : SyncOp) : Option WaitRec :=
  let mk := fun w => some { who := w, amount := op.amount, deadline := op.deadline, owned := op.owned, uReg := op.uReg,
                            pReg := op.pReg, part := op.part }
  match op.src with
  | .gang g => mk (.gang g)
  | .packet pid => mk (.packet pid)
  | _ => none

/-- A record is free for the operation (R350). -/
def State.recFree (s : State) (op : SyncOp) : Bool :=
  match op.src with
  | .gang _ => decide (s.recUse (objSlice op.obj) < 1024)
  | _ => true

/-- The operation parks: its record joins the object's queue (R349). -/
def State.park (op : SyncOp) (s : State) : State :=
  match op.record with
  | none => s
  | some w =>
    let i := op.obj % 2 ^ 17
    let t := if op.obj < 2 ^ 17 then s.onTally i fun t => { t with waiters := t.waiters ++ [w] }
      else s.onSem i fun t => { t with waiters := t.waiters ++ [w] }
    let t := t.notePeak (objSlice i)
    match op.src with
    | .gang g => t.onGang g fun x => { x with wait := .sync op.obj }
    | _ => t

/-- Waiters on a counter whose deadline lies in an earlier microsecond have expired when an ADD is applied (ch. 14,
Collisions). -/
def State.expireTally (i : Nat) (s : State) : State :=
  let t := s.tally i
  let late := fun w : WaitRec => match w.deadline with | some d => decide (d / 1000 < s.nowNs / 1000) | none => false
  let s := s.onTally i fun t => { t with waiters := t.waiters.filter fun w => !late w }
  (t.waiters.filter late).foldl (fun s w => s.endWaiter true w .timeout t.value) s

/-- An operation on a tally counter (R339 to R341, R201). -/
def State.applyTally (op : SyncOp) (s : State) : State :=
  let i := op.obj
  let t := s.tally i
  match op.kind with
  | .add =>
    if t.mirror then (s.mirrorLog op).answer op .mirror t.value
    else if 2 ^ 64 ≤ t.value.toNat + op.amount.toNat then (s.syncLog 0xA02 2 (some op.part) op.obj (s.opTag op)).answer op .overrun t.value
    else
      let v := t.value + op.amount
      (((s.expireTally i).onTally i (Tally.set v)).answer op .ok v).serveTally i
  | .waitGe =>
    if op.amount.toNat ≤ t.value.toNat then (s.acquired op .ok).answer op .ok t.value
    else if s.recFree op then s.park op else s.answer op .noRecord t.value
  | _ => s.answer op .ok t.value

/-- `sem.rd` writes the count and the ABANDONED flag (Table 14-3). -/
def State.answerSemRead (op : SyncOp) (t : Sem) (s : State) : State :=
  match op.src with
  | .gang g => s.onGang g fun x =>
      (({ x with wait := .ready }).setU op.uReg t.count).setU (op.uReg + 1) (BitVec.ofNat 32 (b2n t.abandoned))
  | _ => s

/-- Units are added to a semaphore, by a POST or a return, and waiters are served (R342, R343). -/
def State.applyPost (op : SyncOp) (n : Nat) (s : State) : State :=
  let i := op.obj % 2 ^ 17
  let t := s.sem i
  if 2 ^ 32 ≤ t.count.toNat + n then
    (s.syncLog 0xA02 2 (some op.part) op.obj (s.opTag op)).answer op .overrun (t.count.setWidth 64)
  else
    let v := t.count + BitVec.ofNat 32 n
    ((s.onSem i (Sem.set v)).answer op .ok (v.setWidth 64)).serveSem i

/-- The gang whose holding an operation concerns. -/
def SyncOp.gang (op : SyncOp) : Option Nat := match op.src with | .gang g => some g | _ => none

/-- An operation on a semaphore (R342 to R347). -/
def State.applySem (op : SyncOp) (s : State) : State :=
  let i := op.obj % 2 ^ 17
  let t := s.sem i
  let own := if op.owned then op.gang else none
  let fits := t.waiters.isEmpty && decide (op.amount.toNat ≤ t.count.toNat)
  let newRec := match own with | some g => !(t.holders.any fun h => h.gang == g) | none => false
  let takeNow := fun (s : State) =>
    let u := (s.onSem i (Sem.take op.amount.toNat own)).notePeak (objSlice i)
    (u.acquired op t.acquired).answer op t.acquired ((u.sem i).count.setWidth 64)
  match op.kind with
  | .post => s.applyPost op op.amount.toNat
  | .postOwn =>
    match op.gang with
    | none => s
    | some g =>
      match t.holders.find? fun h => h.gang == g with
      | none => s.answer op .notHolder 0
      | some h =>
        if 2 ^ 32 ≤ t.count.toNat + h.units then s.applyPost op h.units
        else (s.onSem i fun t => { t with holders := t.holders.filter fun h => h.gang != g }).applyPost op h.units
  | .semRead => s.answerSemRead op t
  | .tryTake =>
    if !fits then s.answer op .failed 0
    else if newRec && !s.recFree op then s.answer op .noRecord 0
    else takeNow s
  | .take =>
    if fits then
      if newRec && !s.recFree op then s.answer op .noRecord 0 else takeNow s
    else if s.recFree op then s.park op else s.answer op .noRecord 0
  | _ => s

/-- The sync store applies one operation (R336, R355). -/
def State.applyOp (op : SyncOp) (s : State) : State :=
  let i := op.obj % 2 ^ 17
  let s := s.onSync fun x => { x with ops := x.ops.upd (objDie i) 0 (· + 1) }
  if op.obj < 2 ^ 17 then
    let t := s.tally i
    if t.ok then s.applyTally op else (if t.bad then s else s.markBad op.obj (s.opTag op)).answer op .bad 0
  else
    let t := s.sem i
    if t.ok then s.applySem op else (if t.bad then s else s.markBad op.obj (s.opTag op)).answer op .bad 0

/-- An operation reaches its sync store: it is applied at once unless others wait there (R336). -/
def State.submit (op : SyncOp) (s : State) : State :=
  if s.sync.inbox.any fun e => e.1 == objDie op.obj then
    let t := s.onSync fun x => { x with inbox := x.inbox ++ [(objDie op.obj, op)] }
    match op.src with
    | .gang g => t.onGang g fun x => { x with wait := .sync op.obj }
    | _ => t
  else s.applyOp op

/-- R346: the holding of gang `g` on semaphore `i` is abandoned, with the waiter records of the gang there; of a BAD
semaphore only the records go. -/
def State.abandonAt (i g : Nat) (s : State) : State :=
  let t := s.sem i
  match t.holders.find? fun h => h.gang == g with
  | none => s
  | some h =>
    let sum := t.count.toNat + h.units
    let drop := fun t : Sem => { t with holders := t.holders.filter (fun h => h.gang != g)
                                        waiters := t.waiters.filter fun w => decide (w.who ≠ .gang g) }
    if !t.ok then s.onSem i drop
    else
      let s := if 2 ^ 32 ≤ sum then s.syncLog 0xA02 2 (s.owner (objSlice i)) (i + 2 ^ 17) else s
      (s.onSem i fun t => { (drop t).set (BitVec.ofNat 32 (min sum 0xFFFFFFFF)) with abandoned := true }).serveSem i

/-- R346: every holding of gang `g` is abandoned. -/
def State.abandon (g : Nat) (s : State) : State := s.sync.sem.foldl (fun t e => t.abandonAt e.1 g) s

/-- The waiter records of a gang are deleted without a result (ch. 14, Collisions). -/
def State.dropWaiters (g : Nat) (s : State) : State :=
  let keep := fun l : List WaitRec => l.filter fun w => decide (w.who ≠ .gang g)
  let t := s.onSync fun x =>
    { x with tally := x.tally.foldl (fun t e => t.put e.1 {} { e.2 with waiters := keep e.2.waiters }) []
             sem := x.sem.foldl (fun t e => t.put e.1 {} { e.2 with waiters := keep e.2.waiters }) []
             inbox := x.inbox.filter fun e => decide (e.2.src ≠ .gang g) }
  (s.sync.sem.map Prod.fst).foldl (fun t i => t.serveSem i) t

/-- The records and waiting operations of a packet are deleted. -/
def State.dropPacketWaiter (pid : Nat) (s : State) : State :=
  let keep := fun l : List WaitRec => l.filter fun w => decide (w.who ≠ .packet pid)
  let t := s.onSync fun x =>
    { x with tally := x.tally.foldl (fun t e => t.put e.1 {} { e.2 with waiters := keep e.2.waiters }) []
             sem := x.sem.foldl (fun t e => t.put e.1 {} { e.2 with waiters := keep e.2.waiters }) []
             inbox := x.inbox.filter fun e => decide (e.2.src ≠ .packet pid) }
  (s.sync.sem.map Prod.fst).foldl (fun t i => t.serveSem i) t

/-- R337: the objects of a slice are zeroed, their records deleted. -/
def State.zeroSync (sl : Nat) (s : State) : State :=
  s.onSync fun x =>
    { x with tally := x.tally.filter (fun e => objSlice e.1 != sl), sem := x.sem.filter (fun e => objSlice e.1 != sl) }

/-- The partition's timeout of a kernel wait: `ut` in µs, or the default (R352), as a deadline in harbour ns. -/
def State.kernelDeadline (s : State) (part : Nat) (ut : Word) : Nat :=
  let d := s.part.defTimeout.look part 0
  let us := if ut ≠ 0 then ut.toNat else if d = 0 then 10000000 else d
  s.nowNs + us * 1000

/-- A rule's TALLY_ADD is applied to the store (R9, R16). -/
def State.ruleAdd (counter : Nat) (s : State) : State :=
  s.applyOp { kind := .add, obj := counter % 2 ^ 17, amount := 1, src := .tidewatch,
              part := (s.owner (objSlice counter)).getD 0, owned := false, deadline := none, uReg := 0, pReg := 0 }

end Sys2Proof.Machine
end

