-- ==== Sys2Proof/Machine/TwOps.lean ====
section
/-! DEFINITION. Tidewatch's shared operations: channels and their scaled values, limits, records, triggers, throttle and
trip, rule actions (R72 to R99), and the setting of harbour time (R101). -/

namespace Sys2Proof.Machine

open Sys2Proof

/-- TW_CH_LIM at cold reset: the rail windows of Table 20-10 for channels 32 to 39, and for the others the widest
window of their format (R514, log 2): HI_LIM in [31:16], LO_LIM in [15:0] of the value half. -/
def chLimReset (n : Nat) : DWord :=
  let w := fun lo hi : Nat => mkPair (BitVec.ofNat 32 (hi * 65536 + lo))
  match n with
  | 32 => w 7275 7725 | 33 => w 6790 7210 | 34 => w 7760 8240 | 35 => w 11640 12360 | 36 => w 17100 18900
  | 37 => w 17100 18900 | 38 => w 7275 7725 | 39 => w 4750 8750
  | n => if n < 32 ∨ (40 ≤ n ∧ n ≤ 45) then w 0x8000 0x7FFF else w 0 0xFFFF

/-- TW_CH_LIM of a channel. -/
def State.chLim (s : State) (n : Nat) : DWord := s.tw.chLim.look n (chLimReset n)

/-- TW_CH_ROC of a channel; nothing is set at reset (log 2). -/
def State.chRoc (s : State) (n : Nat) : DWord := s.tw.chRoc.look n (mkPair 0)

/-- The window of a channel, unless its pair does not match (R32, R105). -/
def State.window (s : State) (n : Nat) : Option (Nat × Nat) :=
  let w := s.chLim n
  if pairOk w then some (bits w 0 16, bits w 16 16) else none

/-- Channels whose scaled value is signed (Table 4-1). -/
def chSigned (n : Nat) : Bool := decide (n < 32) || (decide (40 ≤ n) && decide (n ≤ 45))

/-- A scaled value, or a limit, as a number in the channel's format. -/
def chInt (n v : Nat) : Int := if chSigned n then (BitVec.ofNat 16 v).toInt else (v : Int)

/-- TW_SEQ_STEP at cold reset: sequence 0 holds the rail scan (ch. 4), every other step AUTO_SETTLE and LAST. -/
def stepReset (q k : Nat) : Word :=
  if q = 0 ∧ k < 15 then
    let c := s5Channel k
    BitVec.ofNat 32 (c.1 * 2 ^ 26 + c.2 * 2 ^ 23 + 2 ^ 16 + 2 ^ 13 + (if k = 14 then 2 ^ 10 else 0))
  else 0x00010400
where
  /-- Channel and SUBSEL of a rail-scan step. -/
  s5Channel (i : Nat) : Nat × Nat := if i < 7 then (32 + i, 0) else (39, i - 7)

/-- TW_SEQ_STEP[q][k]. -/
def State.step_ (s : State) (q k : Nat) : Word := s.tw.step.look (q * 32 + k) (stepReset q k)

/-- TW_SEQ_CTRL[q] without its read-only bits: sequence 0 enabled on timer 0 at reset. -/
def seqCtrlReset (q : Nat) : Word := if q = 0 then 0x44000000 else 0
def State.seqCtrl (s : State) (q : Nat) : Word := s.tw.seqCtrl.look q (seqCtrlReset q)

/-- TW_TIMER[t]: timer 0 periodic at 10 ms at reset. -/
def timerReset (t : Nat) : DWord := if t = 0 then 0xC000000000002710 else 0
def State.timer (s : State) (t : Nat) : DWord := s.tw.timer.look t (timerReset t)

/-- Fields of a step word. -/
def stCh (w : Word) : Nat := bits w 26 6
def stSub (w : Word) : Nat := bits w 23 3
def stGain (w : Word) : Nat := bits w 21 2
def stCount (w : Word) : Nat := bits w 17 4 + 1
def stAuto (w : Word) : Bool := w.getLsbD 16
def stFilter (w : Word) : Nat := bits w 13 3
def stRecord (w : Word) : Nat := bits w 11 2
def stLast (w : Word) : Bool := w.getLsbD 10

/-- A quotient as a scaled value: exact where it is a whole number in range, else rounded either way (log 7). -/
def scaleTo (ch : Nat) (y num : Int) (den : Nat) (cfg : DWord) : BitVec 16 :=
  let q := num / (den : Int)
  let v := if num % (den : Int) = 0 then q else if Config.roundUp num den then q + 1 else q
  let ok := if chSigned ch then decide (-32768 ≤ v) && decide (v ≤ 32767) else decide (0 ≤ v) && decide (v ≤ 65535)
  if ok then BitVec.ofInt 16 v else Config.scaled ch y cfg

/-- The fraction bits of the base-2 logarithm of `m / 2 ^ 40`, in [1, 2), by repeated squaring. -/
def log2Frac : Nat → Nat → Nat
  | 0, _ => 0
  | k + 1, m =>
    let q := m * m / 2 ^ 40
    if 2 ^ 41 ≤ q then 2 ^ k + log2Frac k (q / 2) else log2Frac k q

/-- The base-2 logarithm of `n / d` in units of 2^-32, `d ≤ n`, both positive. -/
def log2Up (n d : Nat) : Nat :=
  let e := Nat.log2 (n / d)
  e * 2 ^ 32 + log2Frac 32 (n * 2 ^ 40 / (d * 2 ^ e))

/-- The natural logarithm of `n / d` in units of 2^-64, ln 2 being 2977044472 in units of 2^-32. -/
def lnRatio (n d : Nat) : Int :=
  if d ≤ n then (log2Up n d : Int) * 2977044472 else -((log2Up d n : Int) * 2977044472)

/-- R73, R507: the B-parameter model of TW_ATH_CFG: the thermistor's resistance R from the divider with the bias resistor, of
which `x` of `full` is the thermistor's share; 1 / T = 1 / 298.15 K + ln (R / R25) / B, T in K. The value is a quotient in
1/64 °C; none where the model has none (log 86). -/
def athQuot (x full : Nat) (cfg : DWord) : Option (Int × Nat) :=
  let b := bits cfg 48 16
  let r25 := bits cfg 24 24
  let bias := bits cfg 0 24
  if b = 0 ∨ r25 = 0 ∨ bias = 0 ∨ x = 0 ∨ full ≤ x then none
  else
    let den : Int := 100 * (b : Int) * 2 ^ 64 + 29815 * lnRatio (bias * x) (r25 * (full - x))
    if den ≤ 0 then none else some (64 * 298150 * (b : Int) * 2 ^ 64 - 174816 * den, (10 * den).toNat)

/-- R73: the scaled value of a 16-bit internal code `y`, taken in eighths of a count at gain ×1, so that it does not depend on
the gain. Rails: 2.40 V full scale. Shunts: ±150 mV, times TW_ISNS_SCALE, in 10 mA. Thermistors: against ATH_REF, the
converter's full scale (log 86). Die sensors: their fused trim, which the spec does not give. -/
def State.scale (s : State) (ch gain : Nat) (y : Int) : BitVec 16 :=
  let u := y * 8 / 2 ^ gain
  let diff := (y - 32768) * 8 / 2 ^ gain
  if (32 ≤ ch ∧ ch ≤ 39) ∨ ch = 46 ∨ ch = 47 then scaleTo ch u (u * 24000) (65536 * 8) 0
  else if 40 ≤ ch ∧ ch ≤ 43 then
    let k := s.tw.isnsScale.look (ch - 40) 0
    scaleTo ch diff (diff * 15 * (k.toNat : Int)) (32768 * 8 * 65536) (k.setWidth 64)
  else if ch = 44 ∨ ch = 45 then
    let cfg := s.tw.athCfg.look (ch - 44) 0
    match athQuot u.toNat (65536 * 8) cfg with
    | some (num, den) => scaleTo ch u num den cfg
    | none => Config.scaled ch u cfg
  else Config.scaled ch u 0

/-- The window length of a filter, and its invalid outputs (Table 4-2). -/
def filtWindow (f : Nat) : Nat := if f = 1 then 4 else if f = 2 then 16 else if f = 3 then 5 else 1
def filtInvalid (f : Nat) : Nat :=
  match f with | 1 => 3 | 2 => 15 | 3 => 4 | 4 => 24 | 5 => 96 | _ => 0

/-- A code is inserted in rising order. -/
def insertCode (n : Nat) : List Nat → List Nat
  | [] => [n]
  | a :: r => if n ≤ a then n :: a :: r else a :: insertCode n r

/-- The median of five codes. -/
def median5 (l : List Nat) : Nat := (l.foldr insertCode []).getD 2 0

/-- R79: a raw code is fed to a step's filter. DESIGN CHOICE (log 87): before MA4 or MA16 has its whole window, the sum of the
codes fed so far is still divided by 4 or 16; such outputs are invalid. -/
def Filt.feed (f code : Nat) (x : Filt) : Filt :=
  let v : Int := 16 * code
  let l := (code :: x.codes).take (filtWindow f)
  let sum : Int := 16 * l.sum
  let y : Int := match f with
    | 1 => (sum + 2) / 4
    | 2 => (sum + 8) / 16
    | 3 => if l.length = 5 then 16 * median5 l else Config.medFew l
    | 4 => if x.outputs = 0 then v else x.y + (v - x.y + 4) / 8
    | 5 => if x.outputs = 0 then v else x.y + (v - x.y + 16) / 32
    | _ => v
  { codes := l, y := y, outputs := x.outputs + 1 }

/-- Harbour time in whole µs, bits [27:0] (Table 4-3). -/
def State.stamp (s : State) : Nat := s.nowNs / 1000 % 2 ^ 28

/-- R83: a record is pushed to the sample FIFO, or dropped. -/
def State.pushSample (r : Nat) (s : State) : State :=
  s.onTw fun w =>
    if 256 ≤ w.sampleFifo.length then { w with sampleOvf := true, sampleGap := true }
    else { w with sampleFifo := w.sampleFifo ++ [BitVec.ofNat 64 (r + b2n w.sampleGap * 8)], sampleGap := false }

/-- A sample record (Table 4-3) without its GAP bit. -/
def sampleRec (ts value : Nat) (stale roc hi lo : Bool) (settle : Nat) (valid : Bool) (seq ch sub : Nat) : Nat :=
  ts * 2 ^ 36 + value * 2 ^ 20 + b2n stale * 2 ^ 19 + b2n roc * 2 ^ 18 + b2n hi * 2 ^ 17 + b2n lo * 2 ^ 16 +
    settle * 2 ^ 14 + b2n valid * 2 ^ 13 + seq * 2 ^ 10 + ch * 2 ^ 4 + sub

/-- R81: the flags of a valid output; none while a pair of the channel does not match (R105). -/
def State.checks (s : State) (ch v : Nat) : Bool × Bool × Bool :=
  let x := s.tw.chLast.look ch {}
  let rw := s.chRoc ch
  match s.window ch with
  | none => (false, false, false)
  | some (lo, hi) =>
    if !pairOk rw then (false, false, false)
    else
      let rocLim := bits rw 0 16
      let roc := match x.prevTime with
        | none => false
        | some t =>
          rocLim != 0 &&
            decide ((rocLim * (s.nowNs - t) : Nat) < (chInt ch v - chInt ch x.value.toNat).natAbs * 1000000)
      (roc, decide (chInt ch hi < chInt ch v), decide (chInt ch v < chInt ch lo))

/-- R105: a channel whose pair does not match becomes BAD, is logged and asserts ALERT_N. -/
def State.chPair (ch : Nat) (s : State) : State :=
  if pairOk (s.chLim ch) && pairOk (s.chRoc ch) then s
  else if (s.tw.chLast.look ch {}).bad then s
  else (s.mismatch 0x508 none (BitVec.ofNat 64 ch)).onTw fun w =>
    { w with chLast := w.chLast.upd ch {} fun x => { x with bad := true } }

/-- R81, R82, R89: a valid output of a channel: its flags, TW_CH_LAST, the end of staleness, and news for the rules. -/
def State.validOut (ch seq sub : Nat) (v : BitVec 16) (s : State) : State :=
  let s := s.chPair ch
  let (roc, hi, lo) := s.checks ch v.toNat
  s.onTw fun w =>
    { w with
      chLast := w.chLast.upd ch {} fun x =>
        { x with value := v, seen := true, stale := false, prevTime := some s.nowNs, silentFrom := s.time.tick,
                 roc := roc, hi := hi, lo := lo, lastSub := sub, lastSeq := seq }
      rule := w.rule.map fun e =>
        if bits e.2.src 29 2 = 0 ∧ bits e.2.src 23 6 = ch then (e.1, { e.2 with fresh := true }) else e }

/-- A rail of the unchanged rail scan leaves its window during the boot: 0x0002 (Table 2-4, R514). -/
def State.railLost (ch seq v : Nat) (s : State) : State :=
  let railScan := seq = 0 ∧ (s.tw.step.all fun e => decide (32 ≤ e.1))
  match s.window ch with
  | some (lo, hi) =>
    if railScan ∧ 6 ≤ s.boot.stage ∧ s.boot.stage < 15 ∧ !s.boot.halt ∧ (v < lo ∨ hi < v) then
      s.halt s.boot.stage 0x0002 (BitVec.ofNat 32 ch)
    else s
  | none => s

/-- An output of a step is delivered: `settle` is 0 NONE, 1 MUX, 2 GAIN, 3 FILTER (R78 to R83, R104); SUBSEL is recorded for
channel 39 alone (Table 4-3). -/
def State.deliver (q sub : Nat) (w : Word) (v : BitVec 16) (valid : Bool) (settle : Nat) (last : Bool) (s : State) : State :=
  let ch := stCh w
  let sub := if ch = 39 then sub else 0
  let ok := valid && !s.tw.adcFault
  let t := if ok then (s.validOut ch q sub v).railLost ch q v.toNat else s
  let x := t.tw.chLast.look ch {}
  let rec_ := sampleRec t.stamp v.toNat false (ok && x.roc) (ok && x.hi) (ok && x.lo) (if valid then 0 else settle) ok q ch sub
  if stRecord w = 1 ∨ (stRecord w = 2 ∧ last) then t.pushSample rec_ else t

/-- A counter with an OVERRUN flag counts one more: [31] the flag, [15:0] saturating (Table 4-10). -/
def bumpOvr (n : Nat) : Nat := 2 ^ 31 + min (n % 2 ^ 16 + 1) 0xFFFF

/-- R76, R85: a trigger reaches a sequence: 0 held to be served, 1 pending, 2 dropped. -/
def State.trigSeq (q : Nat) (s : State) : Nat × State :=
  let n := s.tw.seqTrig.look q 0
  let run := decide (s.tw.seqRunning = some q)
  if (run && decide (1 ≤ n)) || decide (2 ≤ n) then (2, s)
  else (if run || decide (1 ≤ n) then 1 else 0, s.onTw fun w => { w with seqTrig := w.seqTrig.put q 0 (n + 1) })

/-- Enabled sequences whose TRIG_SRC is `src`. -/
def State.seqsOf (s : State) (src : Nat) : List Nat :=
  (List.range 8).filter fun q => (s.seqCtrl q).getLsbD 30 && bits (s.seqCtrl q) 26 4 == src

/-- Every register pair of the rule matches; a rule with a pair that does not is skipped (R105). -/
def Rule.pairsOk (r : Rule) : Bool := pairOk r.src && pairOk r.thr && pairOk r.act && pairOk r.aux

/-- Enabled rules of kind `kind` and index `i` whose edge condition takes a rising (or falling) edge (Table 4-5). -/
def State.rulesOf (s : State) (kind i : Nat) (rise : Bool) : List Nat :=
  (s.tw.rule.filter fun e =>
    let w := pairVal e.2.src
    let c := bits w 20 3
    e.2.pairsOk && w.getLsbD 31 && bits w 29 2 == kind && bits w 23 6 == i && (c == 7 || c == (if rise then 5 else 6))).map Prod.fst

/-- R85: a trigger reaches a rule. -/
def State.trigRule (n : Nat) (s : State) : Nat × State :=
  let r := s.tw.rule.look n {}
  if 2 ≤ r.trig then (2, s)
  else (r.trig, s.onTw fun w => { w with rule := w.rule.upd n {} fun r => { r with trig := r.trig + 1 } })

/-- R85: a trigger is delivered to rules and sequences; the fate met by each. -/
def State.trigAll (rules seqs : List Nat) (s : State) : List Nat × List (Nat × Nat) × State :=
  let (a, s) := rules.foldl (fun (acc : List Nat × State) n => let (f, t) := acc.2.trigRule n; (acc.1 ++ [f], t)) ([], s)
  let (b, s) := seqs.foldl (fun (acc : List (Nat × Nat) × State) q =>
    let (f, t) := acc.2.trigSeq q; (acc.1 ++ [(q, f)], t)) ([], s)
  (a, b, s)

/-- THROTTLE limit in 1/64 °C. -/
def State.throttleLim (s : State) : Int := s.limits.2.1

/-- Opcodes whose running packets a trip completes THERMAL (R450); a running calibration ends with them. -/
def tripOps : List Nat := [0x03, 0x04, 0x05, 0x06, 0x07, 0x08, 0x09, 0x0A]

/-- Units of work that a running packet has completed. -/
def State.workDone (s : State) (pid : Nat) : Nat :=
  match s.work.mov.find? fun m => m.pid == pid with
  | some m => m.work
  | none =>
    match s.cim.execs.find? fun e => e.pid == pid with
    | some e => e.ops
    | none => 0

/-- A stream closes an AMAX register (R252). -/
def State.closeStream (c a : Nat) (s : State) : State :=
  s.onCtx c fun x => { x with amax := x.amax.upd a {} fun r => { r with streams := r.streams - 1 } }

/-- The mover pieces, CIM operations and loads of a packet are taken away; the stream of a CONVERT closes. -/
def State.dropWork (pid : Nat) (s : State) : State :=
  let t := match s.inflight pid with
    | some i => if i.pkt.op = 0x05 ∧ s.work.mov.any (fun m => m.pid == pid) then s.closeStream (i.ctx.getD 0) (i.pkt.f 53 1) else s
    | none => s
  let t := t.onCore fun c =>
    { c with core := c.core.map fun e =>
        (e.1, { e.2 with mover := e.2.mover.filter fun m => match m with | .piece p _ _ => p != pid | _ => true }) }
  let t := t.onWork fun w => { w with mov := w.mov.filter fun m => m.pid != pid }
  t.onCim fun c =>
    let mine := fun o : CimOp => match o.owner with | .packet p => p == pid | _ => false
    { c with
      queue := c.queue.map (fun e => (e.1, e.2.filter fun o => !mine o))
      active := c.running.foldl (fun a e => if mine e.2 then a.upd e.2.die 0 (· - e.2.count) else a) c.active
      running := c.running.filter (fun e => !mine e.2)
      loads := c.loads.filter (fun l => l.pid != pid)
      execs := c.execs.filter (fun e => e.pid != pid)
      calPkts := c.calPkts.filter (fun e => e.1 != pid) }

/-- A running packet stops with a status, its RESULT the work it had completed. -/
def State.stopWork (pid st : Nat) (s : State) : State :=
  let n := s.workDone pid
  (s.dropWork pid).finish pid st n 0

/-- R151, R152: a decision of Tidewatch or of hardware safety enters the window of its microsecond. Decisions of past windows
are kept only while packets may still be resolved against them. -/
def State.ownOrder (source outcome : Nat) (s : State) : State :=
  let waits := s.q.tab.any fun e => e.2.sqPut != e.2.sqGet || e.2.buffer.any fun p => p.arbitrated && !p.granted
  s.onQ fun x =>
    { x with own := (if waits then x.own else x.own.filter fun o => o.time / 1000 == s.nowNs / 1000) ++
        [{ source := source, outcome := outcome, time := s.nowNs }] }

/-- R47: TRIP reached in stages 10 to 14 halts the boot with 0x0001. -/
def State.tripBoot (die : Nat) (s : State) : State :=
  if 10 ≤ s.boot.stage ∧ s.boot.stage ≤ 14 ∧ !s.boot.halt then s.halt s.boot.stage 0x0001 (BitVec.ofNat 32 die) else s

/-- The gang of a `cim.mvm` still waits for it. -/
def State.mvmWaits (s : State) (o : CimOp) : Bool :=
  match o.owner with
  | .gang g b _ => (s.gang g).live && (s.gang g).block == b && (s.gang g).wait == .cim
  | _ => false

/-- R283, R451: the `cim.mvm` operations that run stop, to run again from their start once the trip is over. -/
def State.stopMvm (s : State) : State :=
  let again := fun (e : Nat × CimOp) => match e.2.owner with | .gang _ _ _ => true | _ => false
  s.onCim fun c =>
    { c with
      queue := (c.running.filter fun e => again e && s.mvmWaits e.2).foldl (fun q e => q.upd e.1 [] fun l => e.2 :: l) c.queue
      active := c.running.foldl (fun a e => if again e then a.upd e.2.die 0 (· - e.2.count) else a) c.active
      running := c.running.filter fun e => !again e }

/-- R95, R450: the effects of a trip: clocks stop, TRIPPED, ALERT, the log, the store refuses, HBM enters self-refresh,
and running packet work completes THERMAL. While TRIPPED is set only the boot's halt follows (R47). -/
def State.trip (die : Nat) (s : State) : State :=
  if s.tw.tripped then s.tripBoot die
  else
    let t := ((s.ownOrder 2 4).onTw fun w => { w with tripped := true }).alert 3
    let t := (t.logOcc { event := 0x504, sev := 5, unit := 0x800 + die, code := die }).nvmRefuse.tripUpdate
    let t := t.onPwr fun p =>
      { p with hbmSr := true
               die := p.die.map fun e => (e.1, { e.2 with pllOn := false, change := none, relocking := false, pmbBusy := false }) }
    let l := (t.q.inflight.filter fun i => tripOps.contains i.pkt.op).map fun i => i.pkt.pid
    ((l.foldl (fun t pid => t.stopWork pid stThermal) t).stopMvm).tripBoot die

/-- R511: PWR_CUT_N is asserted, with the trip effects where TRIPPED is 0. -/
def State.pwrCut (die : Nat) (s : State) : State :=
  let t := (s.ownOrder 1 0).onAo fun a => { a with pwrCut := true }
  if s.tw.tripped then t else t.trip die

/-- A die's recalibration is requested (R98, R277). -/
def State.calRequest (dies : BitVec 8) (s : State) : State := s.onCim fun c => { c with calReq := c.calReq ||| dies }

/-- A digital input when sampling begins: WAKE_N and THERM_N are high through their pull-ups, the others low through their
pull-downs (Table 20-9). -/
def dinReset (i : Nat) : Din := { level := i == 5 || i == 6 }

/-- The rule's source value, for its log entry. -/
def State.ruleValue (s : State) (kind i : Nat) : DWord :=
  if kind = 0 then (s.tw.chLast.look i {}).value.setWidth 64
  else if kind = 1 then BitVec.ofNat 64 (b2n (s.tw.din.look i (dinReset i)).level) else 0

/-- The die with the highest reading, for a trip that no die's reading caused. -/
def State.hottest (s : State) : Nat :=
  ((List.range 8).foldl (fun (a : Nat × Int) d => match s.dieTemp d with
    | some x => if a.2 < x then (d, x) else a
    | none => a) (0, -32769)).1

/-- R90 to R93: rule `n` issues its actions, the add before the wake (R16). -/
def State.fire (n : Nat) (s : State) : State :=
  let r := s.tw.rule.look n {}
  let w := pairVal r.src
  let a := pairVal r.act
  let has := fun i => a.getLsbD i
  let target := bits a 17 6
  let value := s.ruleValue (bits w 29 2) (bits w 23 6)
  let t := s.onTw fun w => { w with rule := w.rule.upd n {} fun r => { r with cnt := satInc r.cnt } }
  let t := if has 23 then t.logOcc { event := 0x501, sev := 0, code := n, addr := value } else t
  let t := if has 24 then (t.onTw fun w => { w with ruleFired := setBit w.ruleFired n }).raise 2 else t
  let t := if has 25 then t.alert 1 else t
  let t := if has 30 then
      (if t.pwr.dev = .deep then t.logOcc { event := 0x50B, sev := 2, code := n, addr := BitVec.ofNat 64 (bits r.aux 0 17) }
        else t.ruleAdd (bits r.aux 0 17))
    else t
  let t := if has 27 then (t.onTw fun w => { w with ruleThrottle := w.ruleThrottle.put n 0 (bits a 14 3) }).retuneAll else t
  let t := if has 29 then t.calRequest (if target = 32 then 0xFF else setBit 0 (dieOf target)) else t
  let t := if has 28 then t.trip t.hottest else t
  let t := if has 31 then t.pwrCut t.hottest else t
  if has 26 then
    let t := (t.ownOrder r.source 1).wake 0 n
    if target < 32 then t.prewake target none else t
  else t

/-- Every stored harbour time moves with a set or a step of `d` ns, so that intervals measured across it are kept. -/
def State.shiftTime (d : Int) (s : State) : State :=
  let f := fun n : Nat => ((n : Int) + d).toNat
  s.onTw fun w =>
    { w with
      din := w.din.map (fun e => (e.1, { e.2 with lastEdge := e.2.lastEdge.map f, lastActive := e.2.lastActive.map f }))
      chLast := w.chLast.map (fun e => (e.1, { e.2 with prevTime := e.2.prevTime.map f })) }

/-- Harbour time is set so that the instant `at_` becomes `goal` (ns), and the set is logged (R100, R101). -/
def State.setTime (at_ goal : Nat) (s : State) : State :=
  let d : Int := (goal : Int) - at_
  let t := (s.shiftTime d).onTime fun x => { x with harbour := ((x.harbour : Int) + d * 2 ^ 24).toNat % 2 ^ 88 }
  t.logOcc { event := 0x50A, sev := 0, addr := BitVec.ofNat 64 goal }

/-- R101: the set waiting for the next AO tick loads TIME_SET; LOCKED falls to ACQUIRE, which has its own step (R102). -/
def State.loadSet (s : State) : State :=
  let t := s.setTime s.nowNs s.time.setVal.toNat
  t.onTime fun x =>
    { x with setPending := false, disc := if x.disc = .locked then .acquire else x.disc
             stepped := x.stepped && decide (x.disc ≠ .locked), ppsGood := 0 }

end Sys2Proof.Machine
end

