-- ==== Sys2Proof/Machine/Boot.lean ====
section
/-! DEFINITION. The meanings of power-on, boot stages, resets and the mailbox (ch. 2). -/

namespace Sys2Proof.Machine

open Sys2Proof

/-- R24: the always-on power-on reset releases: the trim is loaded and harbour time starts at zero. -/
def execVddAoPorRelease (s : State) : Result :=
  .next <|
    if s.ao.porReleased then s
    else
      ((s.onAo fun a => { a with porReleased := true, trimLoaded := true }).onBoot fun b => { b with stage := 3 }).onTime
        fun t => { t with harbour := 0, tick := 0 }

/-- R24: VDD_AO has dropped: a cold reset. -/
def execVddAoDrop (s : State) : Result := .next s.coldReset

/-- R45: a halt of stage 3 or 4 lets the hub leave reset if PERST_N is released. -/
def State.haltEarly (stage code : Nat) (detail : Word) (s : State) : State :=
  (s.halt stage code detail).onAo fun a => { a with hubOut := a.perstReleased }

/-- R25: the Tidewatch ROM check, run once more after a failure; a second failure halts with 0x0301. -/
def execTwRomCheckDone (pass : Bool) (s : State) : Result :=
  .next <|
    if s.atStage 3 && s.ao.porReleased then
      if pass then
        ((s.onAo fun a => { a with twRomOk := true }).onTw fun w => { w with sampling := true }).onBoot
          fun b => { b with stage := 4 }
      else if s.ao.twRomFails = 0 then s.onAo fun a => { a with twRomFails := 1 }
      else (s.onAo fun a => { a with twRomFails := 2 }).haltEarly 3 0x0301 0
    else s

/-- R44: stage 4 is complete; the hub leaves reset if PERST_N was released before. -/
def State.after4 (s : State) : State :=
  let t := s.onBoot fun b => { b with stage := 5, perstTick := if s.ao.perstReleased then s.time.tick else b.perstTick }
  t.onAo fun a => { a with hubOut := a.perstReleased }

/-- The DETAIL of 0x0402: three samples of two bits. DESIGN CHOICE (log 79): the first sample is in [5:4], the last in
[1:0]; Table 2-4 gives no order. -/
def sampleBits : List (BitVec 2) → Word
  | [a, b, c] => BitVec.ofNat 32 (a.toNat * 16 + b.toNat * 4 + c.toNat)
  | _ => 0

/-- R26: a ROLE_SEL sample; three that agree latch the role, the third rejected triple halts with 0x0402. -/
def execRoleSelSample (v : BitVec 2) (s : State) : Result :=
  .next <|
    if s.atStage 4 then
      let l := s.ao.roleSamples ++ [v]
      if l.length < 3 then s.onAo fun a => { a with roleSamples := l }
      else if l.all (· == v) then
        let t := s.onAo fun a => { a with roleSamples := l, role := some v }
        if v = 3 then t.haltEarly 4 0x0401 3 else t.after4
      else
        let t := s.onAo fun a => { a with roleSamples := [], roleTriples := a.roleTriples + 1 }
        if 3 ≤ t.ao.roleTriples then t.haltEarly 4 0x0402 (sampleBits l) else t
    else s

/-- R32: stage 5 is over; stage 7 begins once the hub PLL has locked (R38). -/
def State.after5 (s : State) : State :=
  let t := s.onBoot fun b => { b with stage := 6, s5Fail := none }
  if t.boot.hubPll then t.enter7 else t

/-- The channel of a direct-check position, and the SUBSEL of channel 39 (R32). -/
def s5Channel (i : Nat) : Nat × Nat := if i < 7 then (32 + i, 0) else (39, i - 7)

/-- PILOT_BOOT_DETAIL of 0x0501 (Table 2-4). -/
def s5Detail (i : Nat) : Word := BitVec.ofNat 32 ((s5Channel i).1 + (s5Channel i).2 * 256)

/-- A stage-5 mean lies within its window. -/
def State.s5Ok (s : State) (i v : Nat) : Bool :=
  match s.window (s5Channel i).1 with
  | some (lo, hi) => decide (lo ≤ v) && decide (v ≤ hi)
  | none => false

/-- R32: a direct pass over the 15 positions ends. -/
def execStage5RailPass (means : List (BitVec 16)) (s : State) : Result :=
  .next <|
    if s.atStage 5 && s.ao.hubOut then
      match (List.range 15).find? fun i => !s.s5Ok i (means.getD i 0).toNat with
      | none => s.after5
      | some i => s.onBoot fun b => { b with s5Fail := some i }
    else s

/-- R47: the first die whose sensors read above THROTTLE. -/
def State.hotDie (s : State) : Option Nat :=
  (List.range 8).find? fun d => match s.dieTemp d with | some t => decide (s.throttleLim < t) | none => false

/-- R40: with no slice left the boot halts with 0x0A04. -/
def State.noSlice (stage : Nat) (next : State → State) (s : State) : State :=
  if s.boot.avail = 0 then s.halt stage 0x0A04 0 else next s

/-- The dies with an available slice. -/
def State.availDies (s : State) : BitVec 8 :=
  maskOf 8 ((List.range 8).filter fun d => (List.range 4).any fun k => s.boot.avail.getLsbD (4 * d + k))

/-- Stage 11 begins (Table 5-5); stage 10 asks for the calibration of every available die (R277). -/
def State.enter11 (s : State) : State :=
  (((s.onBoot fun b => { b with stage := 11 }).onPwr fun p => { p with dev := .training }).calRequest s.availDies).pldmWatch

/-- R40, R442: slices without an enabled core, or whose four ways are laid up in a bank, become unavailable. -/
def State.dropEmpty (s : State) : State :=
  s.dropSlices ((List.range 32).filter fun n => s.boot.avail.getLsbD n && (decide (s.coreMask n = 0) || s.waysGone n))

/-- The stacks of a mask fail their training (R40). -/
def State.hbmOutcome (failed : BitVec 8) (s : State) : State :=
  let bad := failed &&& s.availDies
  if bad = 0 then s else (s.note 0x0B01 (bad.setWidth 32)).dropSlices (slicesOfDies bad)

/-- Stage 11 ends with the stacks of a mask failed (R40). -/
def State.hbmDone (failed : BitVec 8) (s : State) : State :=
  (s.hbmOutcome failed).noSlice 11 fun t => t.onBoot fun b => { b with stage := 12 }

/-- A source that did not verify or start within its stage's limit (R31, R40). The reason of 0x0701 is 6, read error:
DESIGN CHOICE (log 79), its list having none for a time-out. -/
def State.sourceLate (stage : Nat) (s : State) : State :=
  if stage = 7 then
    match s.boot.sources with
    | [] => s
    | src :: _ => (s.note 0x0701 (BitVec.ofNat 32 (src.toNat * 2 ^ 28 + 6 * 2 ^ 24))).nextSource
  else (s.note 0x0801 (BitVec.ofNat 32 (s.boot.source.toNat * 2 ^ 28))).nextSource

/-- Stage 10's limit passes (R31, R40, R47): while a die is hot, or the power cut stands, the boot halts with 0x0001, whose
DETAIL names the hot die and, where only the cut stands, 0 (DESIGN CHOICE, log 79); otherwise the dies of the mask, whose PLLs
have not locked, are lost. -/
def State.stage10Late (mask : BitVec 8) (s : State) : State :=
  match s.hotDie with
  | some d => s.halt 10 0x0001 (BitVec.ofNat 32 d)
  | none =>
    if s.ao.pwrCut then s.halt 10 0x0001 0
    else
      let t := s.onBoot fun b => { b with avail := 0xFFFFFFFF }
      (((t.note 0x0A01 (mask.setWidth 32)).dropSlices (slicesOfDies mask)).dropEmpty).noSlice 10 State.enter11

/-- R31, R40: a stage exceeds its limit; `mask` names the dies or stacks that did not finish. The DETAIL of 0x0501 is the first
failing position of the last pass, and the first position where none has ended: DESIGN CHOICE (log 79). -/
def execBootStageTimeout (mask : Word) (s : State) : Result :=
  .next <|
    if s.boot.halt then s
    else match s.boot.stage with
      | 3 => s.haltEarly 3 0x0301 0
      | 4 => s.haltEarly 4 0x0402 (sampleBits s.ao.roleSamples)
      | 5 => if s.ao.hubOut then s.halt 5 0x0501 (s5Detail (s.boot.s5Fail.getD 0)) else s
      | 7 => s.sourceLate 7
      | 8 => s.sourceLate 8
      | 9 => s.halt 9 0x0901 0
      | 10 => s.stage10Late (mask.setWidth 8)
      | 11 => s.hbmDone (mask.setWidth 8)
      | 12 => (s.note 0x0C02 0).after12
      | 13 => s.stage13Over
      | 14 =>
        if s.isManager then (s.note 0x0E01 (BitVec.ofNat 32 s.joined)).reachReady
        else ((s.note 0x0E02 0).onFleet fun f => { f with own := .unjoined }).reachReady
      | _ => s

/-- R28, R46: an assertion shorter than 9 µs is ignored, one of 10 µs or more is a warm reset, one between is either. -/
def execPerstNAssert (ns : Nat) (accept : Bool) (s : State) : Result :=
  .next <|
    if ns < 9000 ∨ (ns < 10000 ∧ accept = false) then s
    else (s.onAo fun a => { a with perstReleased := false, hubOut := false }).warmReset

/-- R29, R44, R45, R478: PERST_N is released: the hub leaves reset once stage 4 is over, and the SMBus address is
sampled. -/
def execPerstNRelease (sel : BitVec 2) (s : State) : Result :=
  .next <|
    let t := s.onAo fun a => { a with perstReleased := true, smbAddrSel := sel }
    if decide (5 ≤ s.boot.stage) || s.boot.halt then
      (t.onAo fun a => { a with hubOut := true }).onBoot fun b => { b with perstTick := s.time.tick }
    else t

/-- R41: a PCIe hot reset or a link-down reset is a warm reset; in DEEP the link is down already (R122). -/
def execHostLinkReset (s : State) : Result :=
  .next (if s.ao.hubOut && s.pwr.dev != .deep then s.warmReset else s)

/-- R41, R42, R476: an FLR on the physical function. -/
def execPfFlr (s : State) : Result := .next (s.pfFlr false)

/-- R43: the watchdog expires while the pilot should run. -/
def execPilotWatchdogExpiry (s : State) : Result :=
  .next <|
    if decide (8 ≤ s.boot.stage) && !s.boot.halt && !s.asleep then
      (s.logOcc { event := 0x604, sev := 6 }).pfFlr true
    else s

/-- R38: the hub PLL locks; stage 7 starts if stage 5 is over. -/
def execHubPllLock (s : State) : Result :=
  .next <|
    if s.ao.hubOut && !s.boot.hubPll && !s.boot.halt then
      let t := (s.onBoot fun b => { b with hubPll := true }).onAo fun a => { a with sysRefclk := true }
      if s.boot.stage = 6 ∨ s.boot.stage = 7 then t.enter7 else t
    else s

/-- R38: no lock within 1 ms of the hub leaving reset halts with 0x0703. -/
def execHubPllLockTimeout (s : State) : Result :=
  .next <| if s.ao.hubOut && !s.boot.hubPll && !s.boot.halt then s.halt 7 0x0703 0 else s

/-- R34, R40: the ROM has verified the source in hand, which it tries once its write of the boot selector record is over
(R35). -/
def execImageVerifyDone (img : ImageInfo) (s : State) : Result :=
  .next <|
    match s.atStage 7 && !s.boot.selWrite, s.boot.sources with
    | true, src :: _ =>
      let s := if src = 2 then s.onAo fun a => { a with recFlash := img.readable } else s
      match rejectReason s.ao.minSvn img with
      | none => s.startPilot src img
      | some r => (s.note 0x0701 (BitVec.ofNat 32 (src.toNat * 2 ^ 28 + r * 2 ^ 24))).nextSource
    | _, _ => s

/-- R31, R377, R431: the pilot checks in with the ROM, which completes stage 8. -/
def execPilotCheckIn (s : State) : Result :=
  .next <|
    if s.atStage 8 then
      (s.onBoot fun b => { b with stage := 9 }).fleetInit
    else s

/-- R40: the pilot has not checked in within 20 ms. -/
def execPilotStartTimeout (s : State) : Result :=
  .next <|
    if s.atStage 8 then s.sourceLate 8 else s

/-- One core entry of the fence map (Table 18-8, R467): the lay-up, and whether the entry is bad. -/
def fenceEntry (d : List Byte) (c : Nat) : LayUp × Bool :=
  if d.length < 2 * c + 2 then (.no, false)
  else
    let v := field d (2 * c) 1
    if field d (2 * c + 1) 1 ≠ 0xFF - v then (.field, true)
    else if v = 0 then (.no, false) else if v = 1 then (.factory, false) else if v = 2 then (.field, false)
    else (.field, true)

/-- The laid-up ways of bank `b` in a fence map; an entry whose pair does not match names none (log 16). -/
def fenceWays (d : List Byte) (b : Nat) : BitVec 16 :=
  let m := field d (1536 + 4 * b) 2
  if 2560 ≤ d.length ∧ field d (1536 + 4 * b + 2) 2 = 0xFFFF - m then BitVec.ofNat 16 m else 0

/-- The lay-ups of a fence map are applied (R31, R443 cause 6, R467). -/
def State.applyFence (d : List Byte) (s : State) : State :=
  let bad := (List.range 768).any fun c => (fenceEntry d c).2
  let t := s.onCore fun x =>
    { x with core := (List.range 768).foldl (fun t c =>
        match fenceEntry d c with
        | (.no, _) => t
        | (k, b) => t.put c {} { laid := k, cause := 6, persist := !b && k = .field }) x.core }
  let t := t.onMem fun m =>
    { m with wayOff := (List.range 256).foldl (fun t b => t.put b 0 (fenceWays d b)) m.wayOff }
  let t := t.onFence fun f => { f with mapSeq := s.fenceSeq, repaired := bad }
  if bad then t.logOcc { event := 0x401, sev := 4, code := 6 } else t

/-- The retired granules of record 2 (Table 18-6, R466): entries whose pair matches. -/
def retireOf : Nat → List Byte → Tab Bool
  | 0, _ => []
  | n + 1, d =>
    if d.length < 8 then []
    else
      let r := retireOf n (d.drop 8)
      if field d 4 4 = 0xFFFFFFFF - field d 0 4 then r.put (field d 0 4) false true else r

/-- R31, R466, R467: stage 9 loads the fence map. -/
def execFenceMapLoad (s : State) : Result :=
  .next <|
    if s.atStage 9 then
      match s.record 1 with
      | none => (s.logOcc { event := 0x901, sev := 2, code := 1 }).halt 9 0x0901 0
      | some d =>
        let t := s.applyFence d
        let t := if (s.record 2).isSome then t else t.logOcc { event := 0x901, sev := 2, code := 2 }
        (t.onMem fun m => { m with retired := retireOf 7680 ((s.record 2).getD []) }).onBoot fun b => { b with stage := 10, fenceApplied := d }
    else s

/-- A core that fails BIST is laid up with cause 2 and recorded (R40, R443, R446). -/
def State.bistCore (c : Nat) (s : State) : State :=
  (s.onCore fun x =>
    { x with core := x.core.upd c {} fun y => { y with laid := .field, cause := 2, persist := true } }).logOcc
    { event := 0x401, sev := 4, unit := c, code := 2 }

/-- The outcomes of stage 10 (R40): PLLs that did not lock, new failing cores, dies whose uncore failed, and the slices left
without a core or a bank of ways. -/
def State.bistOutcome (pllFail : BitVec 8) (badCores : List Nat) (badUncore : BitVec 8) (s : State) : State :=
  let t := if pllFail = 0 then s else (s.note 0x0A01 (pllFail.setWidth 32)).dropSlices (slicesOfDies pllFail)
  let new := badCores.filter fun c => decide (c < 768) && t.coreOn c
  let t := if new.isEmpty then t
    else ((new.foldl (fun t c => t.bistCore c) t).note 0x0A02 (BitVec.ofNat 32 new.length)).persist 1 []
  let t := if badUncore = 0 then t else (t.note 0x0A03 (badUncore.setWidth 32)).dropSlices (slicesOfDies badUncore)
  t.dropEmpty

/-- R40, R47, R515: stage 10 ends: PLL lock and BIST. It does not start while a die is hot or the cut stands. -/
def execBistComplete (pllFail : BitVec 8) (badCores : List Nat) (badUncore : BitVec 8) (s : State) : Result :=
  .next <|
    if s.atStage 10 && s.hotDie.isNone && !s.ao.pwrCut then
      ((s.onBoot fun b => { b with avail := 0xFFFFFFFF }).bistOutcome pllFail badCores badUncore).noSlice 10 State.enter11
    else s

/-- R40, R314: stage 11 ends. -/
def execHbmTrainComplete (failed : BitVec 8) (s : State) : Result :=
  .next <| if s.atStage 11 then s.hbmDone failed else s

/-- R52, R54: the link qualifies for CXL.cache and CXL.mem. -/
def cxlOk (width rate : Nat) (flit256 : Bool) : Bool := (width == 8 || width == 16) && (rate == 5 || rate == 6) && flit256

/-- R52, Table 3-1: the support the spec gives each PCIe 6.0 option. An option marked "No" is not advertised and no command acts
on it; the advertisement is a constant of the port, so it needs no field of State. -/
def PcieOption.supported : PcieOption → Bool
  | .aspmL0s | .msiIntx | .pri | .tdisp => false
  | .linkRates | .flitMode | .nonFlitMode | .widths | .l0p | .aspmL1 | .pciPm | .laneMargining | .maxPayload | .maxRead
  | .extendedTags | .msix | .aer | .ari | .sriov | .flr | .ats | .pasid | .resizableBar | .ptm | .doe | .ideLink
  | .ideSelective => true

/-- R52, Table 3-1: the number the detail of an option gives: bytes of a payload or a read request, tag bits, vectors of the
PF, VFs, PASID bits, IDE streams; 0 where the detail is no number. -/
def PcieOption.amount : PcieOption → Nat
  | .maxPayload => 512
  | .maxRead => 4096
  | .extendedTags => 14
  | .msix => 64
  | .sriov => 32
  | .pasid => 20
  | .ideLink => 1
  | .ideSelective => 33
  | _ => 0

/-- R53, Table 3-2: the support the spec gives each CXL 3.1 option. The device is a Type 2 device. -/
def CxlOption.supported : CxlOption → Bool
  | .io | .cache | .memHdmDb | .flit256 | .hierarchyRouting | .ide => true
  | .memHdmH | .memHdmD | .flit68 | .multiLogical | .dynamicCapacity | .portRouting | .persistentFlush => false

/-- R52, Table 3-1: a link the host port can train: x16, x8, x4 or x1, 2.5 to 64 GT/s, with 256 B flits at 64 GT/s. -/
def linkOk (width rate : Nat) (flit256 : Bool) : Bool :=
  (width == 16 || width == 8 || width == 4 || width == 1) && decide (1 ≤ rate) && decide (rate ≤ 6) && (rate != 6 || flit256)

/-- R54: CXL.cache and CXL.mem run where the trained link qualifies; elsewhere the device is a PCIe device. -/
def HostPort.cxlSet (h : HostPort) : HostPort :=
  let on := cxlOk h.width h.rate h.flit256
  { h with cxlOn := on, cxlDisabled := !on }

/-- R29, R52: hub hardware completes host link training; configuration space answers. A link that trains again after stage 12
is judged again for CXL (R54). -/
def execHostLinkTrained (width rate : Nat) (flit256 : Bool) (s : State) : Result :=
  .next <|
    if s.ao.hubOut && s.pwr.dev != .deep && linkOk width rate flit256 then
      let t := (s.onHost fun h => { h with width := width, rate := rate, flit256 := flit256, linkDown := false }).onBoot fun b =>
        { b with linkTrained := true, cfgAnswers := true }
      if s.host.memActive then t.onHost HostPort.cxlSet else t
    else s

/-- R51, R54, R55: the pilot completes stage 12. A link below x16 or 64 GT/s, or without CXL, is reported. -/
def execHostLinkStageDone (s : State) : Result :=
  .next <|
    if s.atStage 12 && s.boot.linkTrained then
      let t := s.onHost fun h => { h with hdm := true, memActive := true, vfsReady := true }.cxlSet
      let h := t.host
      let t := if h.width < 16 ∨ h.rate < 6 ∨ h.cxlDisabled then
          (t.logOcc { event := 0x701, sev := 2 }).note 0x0C01
            (BitVec.ofNat 32 (b2n h.cxlDisabled * 65536 + h.width % 256 * 256 + h.rate % 256))
        else t
      t.after12
    else s

/-- R31: a manager that expects no worker has heard no hail for 100 ms. -/
def execFleetHailQuiet (s : State) : Result :=
  .next <| if s.atStage 14 && s.isManager && s.fleet.expect == 0 then s.reachReady else s

/-- Whether the mailbox may execute a command other than NOP (R38, R45, R49). -/
def State.mboxOpen (s : State) : Bool :=
  (s.boot.halt && !(decide (s.boot.stage < 5)) && s.boot.failCode != 0x0703) || s.boot.ready

/-- R48, R50: a mailbox command is written; like any host access it wakes a sleeping device (R14). A busy mailbox loses it,
a pair that does not match completes INTEGRITY; `f` answers the rest. The PILOT block responds once the hub has left reset,
and not in DEEP. -/
def State.mbox (cmd : Nat) (compl : Byte) (f : State → State) (s : State) : State :=
  if !s.ao.hubOut || s.pwr.dev == .deep then s
  else
    let s := s.hostWake
    if s.boot.mboxBusy then s.onBoot fun b => { b with mboxLost := true }
    else
      let t := s.onBoot fun b => { b with mboxCmd := BitVec.ofNat 16 (compl.toNat * 256 + cmd) }
      if compl.toNat ≠ 0xFF - cmd then
        (t.onBoot fun b => { b with mboxResult := BitVec.ofNat 16 stIntegrity }).mismatch 0x508 none 0x20020
      else f t

/-- NOP completes OK, but in the 0x0703 halt, where only REBOOT is executed (R38, R50, log 17). -/
def execMboxNop (compl : Byte) (s : State) : Result :=
  .next <| s.mbox 1 compl fun t => t.mboxAnswer (if t.boot.halt && t.boot.failCode == 0x0703 then stNotReady else stOk)

/-- LOAD_IMAGE's length and address are in range (Table 2-6). -/
def State.loadArgsOk (s : State) : Bool :=
  let len := (s.boot.mboxArg.look 2 0).toNat
  decide (4608 ≤ len) && decide (len ≤ 2097152 + 512) && (s.boot.mboxArg.look 0 0).toNat % 4096 == 0

/-- R37, R50: LOAD_IMAGE in a 0x0702 halt; an image that fails is logged as 0x0701 and the halt remains. -/
def execMboxLoadImage (compl : Byte) (img : ImageInfo) (s : State) : Result :=
  .next <| s.mbox 2 compl fun t =>
    if !(t.boot.halt && t.boot.failCode == 0x0702) then t.mboxAnswer stNotReady
    else if !t.loadArgsOk then t.mboxAnswer stBadParam
    else
      match rejectReason t.ao.minSvn img with
      | none => (t.onBoot fun b => { b with sources := [3], trialSrc := none }).startPilot 3 img |>.mboxAnswer stOk
      | some r =>
        ((t.onBoot fun b => { b with warn := true, noteCode := 0x0701, noteDetail := BitVec.ofNat 32 (3 * 2 ^ 28 + r * 2 ^ 24) }).logOcc
          { event := 0x807, sev := 2, code := 0x0701, addr := BitVec.ofNat 64 (3 * 2 ^ 28 + r * 2 ^ 24) }).mboxAnswer stIntegrity

/-- R38, R41, R50: REBOOT is a PF FLR; it is accepted while halted (not in stage 3 or 4) or READY. -/
def execMboxReboot (compl : Byte) (s : State) : Result :=
  .next <| s.mbox 3 compl fun t =>
    if !(t.mboxOpen || (t.boot.halt && t.boot.failCode == 0x0703)) then t.mboxAnswer stNotReady
    else if t.boot.mboxArg.look 0 0 ≠ 0 then t.mboxAnswer stBadParam
    else t.pfFlr true

/-- R35, R50: CONFIRM makes the trial slot active; it answers once record 0 is committed (log 18). While the store refuses
writes after a trip it answers THERMAL: DESIGN CHOICE (log 82), Table 2-6 giving NOT_READY alone. -/
def execMboxConfirm (compl : Byte) (s : State) : Result :=
  .next <| s.mbox 4 compl fun t =>
    if t.boot.ready && t.boot.trial && t.nvm.refusing then t.mboxAnswer stThermal
    else if t.boot.ready && t.boot.trial then
      (t.onBoot fun b => { b with mboxBusy := true }).nvmQueue
        { rec_ := 0, data := selectorBytes t.boot.source.toNat 0, why := .confirm }
    else t.mboxAnswer stNotReady

/-- R501: SYS_REFCLK stops outside DEEP: the core, fabric and hub PLLs lose lock and the pilot stops running. -/
def execSysRefclkStop (s : State) : Result :=
  .next <|
    let t := s.onAo fun a => { a with sysRefclk := false }
    if s.pwr.dev = .deep then t
    else
      (t.onBoot fun b => { b with hubPll := false }).onPwr fun p =>
        { p with pilotHalted := true, die := p.die.map fun e => (e.1, { e.2 with pllOn := false, change := none, relocking := false }) }

end Sys2Proof.Machine
end

