-- ==== Sys2Proof/Machine/CoreOps.lean ====
section
/-! DEFINITION. Blocks on cores: places and placement, the end of blocks, the stop of a context, and lay-ups (ch. 9,
R234, R373, R444, R445). -/

namespace Sys2Proof.Machine

open Sys2Proof

/-- Blocks of a launch's grid. -/
def Launch.total (l : Launch) : Nat := l.grid.1 * l.grid.2.1 * l.grid.2.2
/-- Clusters of a launch (R218). -/
def Launch.clusters (l : Launch) : Nat := (l.total + l.cluster - 1) / max 1 l.cluster
/-- Linear block indices of cluster `k` (R218). -/
def Launch.members (l : Launch) (k : Nat) : List Nat :=
  (List.range l.cluster).filterMap fun r => let i := k * l.cluster + r; if i < l.total then some i else none
/-- Gangs of a block. -/
def Launch.gangs (l : Launch) : Nat := l.block / 32

/-- Blocks that occupy places on a core: their keys and records. -/
def State.onCoreBlocks (s : State) (c : Nat) : List (Nat × Block) :=
  s.core.block.filter fun e => e.2.live && e.2.core == c

/-- Gangs that occupy slots of quarter `q` of core `c`. -/
def State.quarterGangs (s : State) (c q : Nat) : List (Nat × Gang) :=
  s.core.gang.filter fun e => e.2.live && gCore e.1 == c && gQuarter e.1 == q

/-- Room left on a core: per quarter gang slots, KiB of registers and tiles; then local memory and blocks (R215). -/
structure Room where
  slots : List Nat
  regs : List Nat
  acc : List Nat
  loc : Nat
  blocks : Nat

/-- The room of a core. -/
def State.room (s : State) (c : Nat) : Room :=
  let use := fun (f : Launch → Nat) => (List.range 4).map fun q =>
    ((s.quarterGangs c q).map fun e => f (s.launch (s.blk e.2.block).launch)).sum
  let bs := s.onCoreBlocks c
  { slots := (use fun _ => 1).map (16 - ·), regs := (use Launch.regs).map (64 - ·), acc := (use Launch.acc).map (16 - ·),
    loc := 262144 - (bs.map fun e => (s.launch e.2.launch).locSize).sum, blocks := 64 - bs.length }

/-- `k` further blocks of a launch fit in the room of a core whose rotation is `r` (R215). -/
def Room.fits (m : Room) (l : Launch) (r k : Nat) : Bool :=
  decide (k ≤ m.blocks) && decide (k * l.locSize ≤ m.loc) && (List.range 4).all fun q =>
    let n := ((List.range (k * l.gangs)).filter fun j => (r + j) % 4 == q).length
    decide (n ≤ m.slots.getD q 0) && decide (n * l.regs ≤ m.regs.getD q 0) && decide (n * l.acc ≤ m.acc.getD q 0)

/-- Free block places of a core for a launch. -/
def State.places (s : State) (l : Launch) (c : Nat) : Nat :=
  let m := s.room c
  let r := (s.coreAt c).rotation
  ((List.range 64).filter fun k => m.fits l r (k + 1)).length

/-- Enabled cores of a slice, ascending. -/
def State.enabledCores (s : State) (n : Nat) : List Nat := ((List.range 24).map (n * 24 + ·)).filter s.coreOn

/-- The slices a launch may use (R165): owned, named, available, with at least CLUSTER enabled cores. -/
def State.usableFor (s : State) (l : Launch) : List Nat :=
  (List.range 32).filter fun n =>
    s.owns l.part n && (l.slices == 0 || l.slices.getLsbD n) && !(s.slice n).unavail
      && decide (l.cluster ≤ (s.enabledCores n).length)

/-- The first of the best by a measure, in list order. -/
def bestBy {α : Type} (f : α → Nat) : List α → Option α
  | [] => none
  | a :: r => match bestBy f r with
    | none => some a
    | some b => if f a < f b then some b else some a

/-- `n` cores with the most free places, each with at least one, the lower number first among equals (R219). -/
def pickCores (f : Nat → Nat) : Nat → List Nat → List Nat
  | 0, _ => []
  | n + 1, cs =>
    match bestBy f cs with
    | none => []
    | some c => if f c = 0 then [] else c :: pickCores f n (cs.filter fun d => d != c)

/-- Insertion in rising order. -/
def insertUp (n : Nat) : List Nat → List Nat
  | [] => [n]
  | a :: r => if n ≤ a then n :: a :: r else a :: insertUp n r

/-- Cores chosen on a slice for `n` blocks of a launch, ascending; none where the cluster does not fit. -/
def State.chooseCores (s : State) (l : Launch) (n sl : Nat) : Option (List Nat) :=
  let cs := s.enabledCores sl
  let tab := cs.map fun c => (c, s.places l c)
  let chosen := pickCores (fun c => Tab.look tab c 0) n cs
  if chosen.length = n then some (chosen.foldr insertUp []) else none

/-- The lowest free slot of a quarter. -/
def State.freeSlot (s : State) (c q : Nat) : Nat :=
  let base := c * 64 + q * 16
  match (List.range 16).find? fun k => !(s.gang (base + k)).live with
  | some k => base + k
  | none => base

/-- The registers of a gang at block start (Table 9-2). -/
def startGang (l : Launch) (b : Block) (key i : Nat) (csize : Nat) : Gang :=
  let w := fun n : Nat => BitVec.ofNat 32 n
  let (gx, gy, gz) := l.grid
  let us : List (Nat × Nat) :=
    [(0, b.index % gx), (1, b.index / gx % gy), (2, b.index / (gx * gy)), (3, b.rank), (4, csize), (5, i),
     (6, l.args.toNat % 2 ^ 32), (7, l.args.toNat / 2 ^ 32), (8, gx), (9, gy), (10, gz)]
  { live := true, block := key, index := i, active := 0xFFFFFFFF
    u := us.foldl (fun t e => t.put e.1 0 (w e.2)) []
    v := (List.range 32).foldl (fun t j => t.put j 0 (w (i * 32 + j))) [] }

/-- A gang of a block is placed (R210, R215, R217). -/
def State.placeGang (l : Launch) (key csize : Nat) (s : State) (i : Nat) : State :=
  let b := s.blk key
  let g := s.freeSlot b.core ((i + (s.coreAt b.core).rotation) % 4)
  (s.onCore fun c => { c with gang := c.gang.put g {} (startGang l b key i csize) }).onBlk key fun b =>
    { b with gangs := b.gangs ++ [g] }

/-- A block is placed on a core (R215, R217); a dispatch ends a pre-wake's dwell (R17). -/
def State.placeBlock (n idx core : Nat) (s : State) : State :=
  let l := s.launch n
  let key := s.core.nextBlock
  let k := idx / max 1 l.cluster
  let b : Block := { live := true, launch := n, cluster := k, index := idx, rank := idx % max 1 l.cluster, core := core }
  let t := s.onCore fun c => { c with block := c.block.put key {} b, nextBlock := key + 1 }
  let t := (List.range l.gangs).foldl (fun t i => t.placeGang l key (l.members k).length i) t
  let t := t.onCoreAt core fun c => { c with rotation := (c.rotation + l.gangs) % 4 }
  t.onSlice (sliceOf core) fun x => { x with prewoken := none, prewakePid := none }

/-- A cluster is placed, blocks in rank order on ascending cores (R219). -/
def State.placeCluster (n k : Nat) (cores : List Nat) (s : State) : State :=
  (((s.launch n).members k).zip cores).foldl (fun t e => t.placeBlock n e.1 e.2) s

/-- Near-cache entries, miss registers and combining-buffer entries of a core are lost (R318). -/
def State.dropCaches (c : Nat) (s : State) : State :=
  s.onMem fun m =>
    { m with near := m.near.filter (fun e => e.1 / 64 != c), plru := m.plru.filter (fun e => e.1 / 64 != c)
             miss := m.miss.filter (fun e => e.1 / 32 != c), comb := m.comb.drop c }

/-- A gang stops for good: its records go, its holdings are abandoned, its slot is free (R231, R346, R444). A `cim.mvm` that
runs finishes on its sequencer, and holds its places until then (R272, ch. 11); one that waits does not start. -/
def State.removeGang (g : Nat) (s : State) : State :=
  let t := (s.dropWaiters g).abandon g
  let t := t.onCim fun c =>
    { c with queue := c.queue.map fun e => (e.1, e.2.filter fun o => match o.owner with | .gang h b _ => !(h == g && b == (s.gang g).block) | _ => true) }
  let t := t.onCoreAt (gCore g) fun c =>
    { c with mover := c.mover.filter fun m => match m with | .desc h b _ _ _ => !(h == g && b == (s.gang g).block) | _ => true }
  let t := t.onMem fun m =>
    { m with miss := m.miss.map fun e => (e.1, { e.2 with lds := e.2.lds.filter fun x => x.gang != g }) }
  t.onCore fun c => { c with gang := c.gang.drop g }

/-- A block leaves its core; its deferral entries go without a commit, and its local memory with it. -/
def State.removeBlock (key : Nat) (s : State) : State :=
  let b := s.blk key
  let t := b.gangs.foldl (fun t g => if (t.gang g).live ∧ (t.gang g).block = key then t.removeGang g else t) s
  let t := t.onCoreAt b.core fun c =>
    { c with
      dfr := c.dfr.filter (fun e => e.block != key)
      loc := c.loc.filter (fun e => e.1 / 2 ^ 18 != key)
      locPoison := c.locPoison.filter (fun e => e.1 / 2 ^ 18 != key)
      mover := c.mover.filter fun m => match m with | .desc _ b _ _ _ => b != key | _ => true }
  t.onCore fun c => { c with block := c.block.drop key }

/-- A block of cluster `k` of launch `n` is still to be placed again. -/
def State.toReplace (s : State) (n k : Nat) : Bool :=
  let l := s.launch n
  l.rerun.contains k || l.replace.any fun i => i / max 1 l.cluster == k

/-- Places of a cluster whose blocks have all exited are freed (R224), none being left to run; the records stay until their
commits are done. -/
def State.freeCluster (n k : Nat) (s : State) : State :=
  let mine := s.core.block.filter fun e => e.2.launch == n && e.2.cluster == k
  if !s.toReplace n k && mine.all fun e => e.2.exited then
    mine.foldl (fun t e =>
      let t := e.2.gangs.foldl (fun t g => t.onCore fun c => { c with gang := c.gang.drop g }) t
      let t := t.onCoreAt e.2.core fun c =>
        { c with
          loc := c.loc.filter (fun x => x.1 / 2 ^ 18 != e.1)
          locPoison := c.locPoison.filter fun x => x.1 / 2 ^ 18 != e.1 }
      if e.2.done then t.onCore fun c => { c with block := c.block.drop e.1 }
      else t.onBlk e.1 fun b => { b with live := false, gangs := [] }) s
  else s

/-- Keys of a launch's blocks. -/
def State.blocksOf (s : State) (n : Nat) : List Nat := (s.core.block.filter fun e => e.2.launch == n).map Prod.fst

/-- A LAUNCH's AMAX streams close (R252). -/
def State.closeAmax (l : Launch) (s : State) : State := (ones l.amaxMask).foldl (fun t a => t.closeStream l.ctx a) s

/-- A launch leaves the list: its ledger is freed (R366), its streams close, its packet completes. -/
def State.endLaunch (n st result detail : Nat) (s : State) : State :=
  let l := s.launch n
  let t := (s.closeAmax l).onWork fun w =>
    { w with launch := w.launch.drop n, ledgerUse := w.ledgerUse.upd l.part 0 (· - l.ledgerBytes) }
  t.finish l.pid st result detail

/-- RESULT of a LAUNCH: blocks run and blocks re-run (R165). -/
def Launch.result (l : Launch) : Nat := l.ran * 2 ^ 32 + l.reran % 2 ^ 32

/-- DETAIL of a LAUNCH (Table 7-4). -/
def Launch.detail (l : Launch) : Nat :=
  l.flags % 16 + (if l.replayable && !l.status then 16 else 0) + (if l.replayed then 32 else 0)

/-- Status of a work packet with these flags (R162). -/
def flagStatus (d : Nat) : Nat := if d % 32 = 0 then stOk else stOkFlagged

/-- R231, R205: everything a context runs stops: its blocks, launches and packets. The launch that met the first fault
carries its code (R232). -/
def State.stopContext (c : Nat) (s : State) : State :=
  let x := s.ctx c
  let ls := (s.work.launch.filter fun e => e.2.ctx == c).map Prod.fst
  let s := ls.foldl (fun s n => (s.blocksOf n).foldl (fun s b => s.removeBlock b) s) s
  let s := s.onCore fun x =>
    { x with core := x.core.map fun e =>
        (e.1, { e.2 with mover := e.2.mover.filter fun m => match m with | .desc _ _ n _ _ => !ls.contains n | _ => true }) }
  let s := ls.foldl (fun s n =>
    let d := match x.fault, x.faultLaunch with
      | some (code, core), some m => if m = n then code + core * 65536 else 0
      | _, _ => 0
    s.endLaunch n stFaulted (s.launch n).result d) s
  let ps := (s.q.inflight.filter fun i => i.ctx == some c && i.pkt.op != 0x23 && i.pkt.op != 0x33).map fun i => i.pkt.pid
  let s := ps.foldl (fun s pid => ((s.dropWork pid).dropPacketWaiter pid).finish pid stFaulted 0 0) s
  let s := s.onMem fun m =>
    { m with near := m.near.filter (fun e => e.2.ctx != c), miss := m.miss.filter (fun e => e.2.ctx != c)
             comb := m.comb.foldl (fun t e => t.put e.1 [] (e.2.filter fun z => z.ctx != c)) [] }
  s.onCtx c fun x => { x with stopped := true }

/-- A block that has not issued an instruction is to be placed again, with no other effect (R234). Where the slice can no
longer hold its cluster and none of that has issued, the cluster is placed again as a whole (R218, R219). -/
def State.replaceBlock (key : Nat) (s : State) : State :=
  let b := s.blk key
  let l := s.launch b.launch
  let peers := s.core.block.filter fun e => e.2.launch == b.launch && e.2.cluster == b.cluster
  let sl := sliceOf b.core
  let gone := (s.slice sl).unavail || decide ((s.enabledCores sl).length < (l.members b.cluster).length)
  if gone && peers.all fun e => !e.2.started && !e.2.exited then
    (peers.foldl (fun s e => s.removeBlock e.1) s).onLaunch b.launch fun l =>
      { l with rerun := l.rerun ++ [b.cluster], replace := l.replace.filter fun i => i / max 1 l.cluster != b.cluster }
  else (s.removeBlock key).onLaunch b.launch fun l => { l with replace := l.replace ++ [b.index] }

/-- Members of a cluster that have run to their end: neither resident and running, nor waiting to be placed. -/
def State.ranOf (s : State) (n k : Nat) : Nat :=
  let l := s.launch n
  let here := (s.core.block.filter fun e => e.2.launch == n && e.2.cluster == k && !e.2.exited).length
  (l.members k).length - here - (l.replace.filter fun i => i / max 1 l.cluster == k).length

/-- R373: a cluster is re-run: its blocks stop, and it is placed again ahead of the clusters not yet placed. -/
def State.rerunCluster (n k : Nat) (s : State) : State :=
  if (s.launch n).rerun.contains k then s
  else
    let again := s.ranOf n k
    let peers := (s.core.block.filter fun e => e.2.launch == n && e.2.cluster == k).map Prod.fst
    let t := peers.foldl (fun s k => s.removeBlock k) s
    t.onLaunch n fun l =>
      { l with rerun := l.rerun ++ [k], replayed := true, ran := l.ran - again, reran := l.reran + (l.members k).length
               replace := l.replace.filter fun i => i / max 1 l.cluster != k }

/-- R234, R373, R444: one block that was on a core being lost: it is placed again, re-run, or, in a launch that is not
replayable, the loss kills its context. One whose places are free and whose commit has left loses nothing. The fault is
logged for the block's first gang (log 92). -/
def State.loseBlock (c key : Nat) (s : State) : State :=
  let b := s.blk key
  let l := s.launch b.launch
  if b.live && !b.started && !b.exited then s.replaceBlock key
  else if l.replayable && l.status then (if b.done && !b.live then s else s.rerunCluster b.launch b.cluster)
  else if b.live || (b.exited && !b.commitSent) then
    let g := b.gangs.headD (c * 64)
    (s.logFault g b.launch 0x13 0 (s.gang g).active).kill l.ctx 0x13 g (some b.launch)
  else s

/-- Slices whose movers may take pieces of a partition's packets: those in RUN or DOZE, else the lowest owned (R228). -/
def State.moverSlices (s : State) (p : Nat) : List Nat :=
  let mine := (List.range 32).filter fun n => s.owns p n && !(s.slice n).unavail
  let up := mine.filter fun n => (s.slice n).st == .run || (s.slice n).st == .doze
  if up.isEmpty then mine.take 1 else up

/-- The slices a packet needs (R114, R125): those a LAUNCH may use, the slice of a CIM packet's macros, those whose movers a
mover packet's pieces go to. -/
def State.needs (s : State) (p : Packet) : List Nat :=
  if p.op = 0x02 then (List.range 32).filter fun n => s.owns p.part n && (p.f 60 4 == 0 || (p.f 60 4).testBit n)
  else if p.op = 0x08 then [p.f 36 1 * 4 + p.f 32 2 / 2048]
  else if p.op = 0x09 then [p.f 44 1 * 4 + p.f 40 2 / 2048]
  else if 0x03 ≤ p.op ∧ p.op ≤ 0x07 then s.moverSlices p.part
  else []

/-- R228: a piece goes to the mover of the partition's slices with the shortest queue, the lowest core among equals
(log 24); a slice that must be woken is. -/
def State.givePiece (p : Nat) (w : MovWork) (s : State) : State :=
  let cores := ((s.moverSlices p).map s.enabledCores).flatten
  match bestBy (fun c => 10000 - (s.coreAt c).mover.length) cores with
  | none => s
  | some c =>
    let t := s.onCoreAt c fun x => { x with mover := x.mover ++ [w] }
    if (t.slice (sliceOf c)).st = .run then t else t.wakeSlice (sliceOf c)

/-- R444: what a core that is lost takes with it: its blocks, caches, deferral entries; its packet pieces move on. -/
def State.loseCore (c : Nat) (s : State) : State :=
  let keys := (s.core.block.filter fun e => e.2.core == c).map Prod.fst
  let t := keys.foldl (fun s k => if (s.core.block.find k).isSome then s.loseBlock c k else s) s
  let gs := (t.core.gang.filter fun e => gCore e.1 == c).map Prod.fst
  let t := gs.foldl (fun t g => t.removeGang g) t
  let ps := (t.coreAt c).mover.filter fun m => match m with | .piece _ _ _ => true | _ => false
  let t := (t.dropCaches c).onCoreAt c fun x => { x with mover := [], dfr := [], dozing := false }
  ps.foldl (fun t m => match m with
    | .piece pid _ _ => match t.inflight pid with
      | some i => t.givePiece i.pkt.part m
      | none => t
    | _ => t) t

/-- A core dozes: no gang on it can issue (R113). -/
def State.dozes (s : State) (c : Nat) : Bool :=
  !(s.core.gang.any fun e => gCore e.1 == c && e.2.live && e.2.wait == .ready && e.2.active != 0)

/-- Every enabled core of the slice dozes. -/
def State.allDoze (s : State) (n : Nat) : Bool := (s.enabledCores n).all s.dozes

/-- A block occupies a place on the slice. -/
def State.resident (s : State) (n : Nat) : Bool := s.core.block.any fun e => e.2.live && sliceOf e.2.core == n

/-- CIM or mover work of the slice. -/
def State.engineWork (s : State) (n : Nat) : Bool :=
  (s.cim.running.find n).isSome || !(s.cim.queue.look n []).isEmpty
    || (List.range 24).any fun k => !(s.coreAt (n * 24 + k)).mover.isEmpty

/-- PWR_CORE_DOZE of a slice (R113): its enabled cores in DOZE, which they are while the slice runs or dozes and no gang of
theirs can issue. -/
def State.coreDoze (s : State) (n : Nat) : BitVec 24 :=
  if (s.slice n).st = .run ∨ (s.slice n).st = .doze then
    maskOf 24 ((List.range 24).filter fun k => s.coreOn (n * 24 + k) && s.dozes (n * 24 + k))
  else 0

/-- The slice is kept from falling: a hold or a pre-wake stands (R126). -/
def State.keptUp (s : State) (n : Nat) : Bool := s.held n || (s.slice n).prewoken.isSome

/-- Core state is lost when a slice stops (Table 5-3): near caches go with it. -/
def State.napCores (n : Nat) (s : State) : State := (List.range 24).foldl (fun t k => t.dropCaches (n * 24 + k)) s

/-- R115, R299: the slice's L2 lines, those of its four ways, are written back and its L2 share is lost. Once no slice of the
die has power, the directory shows no copy at the die at all. -/
def State.dropL2 (n : Nat) (s : State) : State :=
  let d := dieOf n
  let t := s.l2Empty d fun w _ => w / 4 == n % 4
  if (List.range 4).all fun k => 4 * d + k == n || (t.slice (4 * d + k)).st == .off then
    t.onMem fun m => { m with dir := m.dir.map fun e =>
      (e.1, { e.2 with agents := e.2.agents.drop d, tenure := e.2.tenure.filter fun a => a != d }) }
  else t

/-- A slice goes to NAP or OFF. -/
def State.sliceDown (n : Nat) (st : SliceSt) (s : State) : State :=
  let t := s.napCores n
  (if st = .off then t.dropL2 n else t).setSlice n st

/-- A pre-wake of the slice ends (R17, R125): it returns to its former state, unless a hold stands or work is there. -/
def State.leavePrewake (n : Nat) (s : State) : State :=
  match (s.slice n).prewoken with
  | none => s
  | some f =>
    let t := s.onSlice n fun x => { x with prewoken := none, prewakePid := none }
    if t.held n || t.resident n || t.engineWork n then t else t.sliceDown n f

/-- R125: pre-wakes of a packet that is cancelled end at once. -/
def State.endPrewake (pid : Nat) (s : State) : State :=
  (List.range 32).foldl (fun t n => if (t.slice n).prewakePid = some pid then t.leavePrewake n else t) s

/-- R130, R449: packets dispatched to a slice that is lost complete FAULTED: its CIM packets, launches that no slice is left for,
unless they are replayable and wait for one, and packets for movers where the partition has none left (log 95). -/
def State.faultLost (n : Nat) (s : State) : State :=
  let t := (s.work.launch.filter fun e =>
      s.usableFor e.2 == [] && !(e.2.replayable && e.2.status) && (s.ctx e.2.ctx).st == .live).foldl (fun t e =>
    ((t.blocksOf e.1).foldl (fun t b => t.removeBlock b) t).endLaunch e.1 stFaulted e.2.result 0) s
  let gone := t.q.inflight.filter fun i =>
    ((i.pkt.op == 0x08 || i.pkt.op == 0x09) && (t.needs i.pkt).contains n)
      || (t.work.mov.any (fun m => m.pid == i.pkt.pid) && ((t.moverSlices i.pkt.part).map t.enabledCores).flatten == [])
  gone.foldl (fun t i => (t.dropWork i.pkt.pid).finish i.pkt.pid stFaulted 0 0) t

/-- R40, R115, R445: a slice becomes unavailable while the device runs. -/
def State.sliceLost (n : Nat) (s : State) (tag : Word := 0) : State :=
  if (s.slice n).unavail then s
  else
    let t := s.onSlice n fun x => { x with unavail := true }
    let t := (t.enabledCores n).foldl (fun t c => t.loseCore c) t
    let t := ((t.sliceDown n .off).onSlice n fun x => { x with prewoken := none, prewakePid := none, waking := false }).faultLost n
    (t.onBoot fun b => { b with avail := clearBit b.avail n }).logOcc { event := 0x403, sev := 4, part := s.owner n, tag := tag, unit := 0x800 + dieOf n, code := n }

/-- R443 to R446: a core is laid up for a cause of Table 18-4. The fence map takes it where R446 says so, and a slice
left without enabled cores becomes unavailable (R40). -/
def State.layUp (c cause : Nat) (persist : Bool) (s : State) (tag : Word := 0) : State :=
  if (s.coreAt c).laid ≠ .no then s
  else
    let t := s.onCoreAt c fun x => { x with laid := .field, cause := cause, persist := persist }
    let t := (t.loseCore c).logOcc { event := 0x401, sev := 4, part := s.owner (sliceOf c), tag := tag, unit := c, code := cause }
    let t := if persist then t.persist 1 [] else t
    if t.coreMask (sliceOf c) = 0 then t.sliceLost (sliceOf c) tag else t

/-- Lay-ups by the hardware itself are recorded while AUTO_PERSIST is 1 (R446). -/
def State.layUpHw (c cause : Nat) (s : State) : State := s.layUp c cause s.fence.autoPersist

end Sys2Proof.Machine
end

