-- ==== Sys2Proof/Machine/Lighter.lean ====
section
/-! DEFINITION. Lighter blocks: 32 D16 values in 48 bytes (R320 to R325). -/

namespace Sys2Proof.Machine

open Sys2Proof

/-- CRC-16, one bit: polynomial 0x1021 (R321). -/
def crcBit (c : BitVec 16) : BitVec 16 := if c.msb then (c <<< 1) ^^^ 0x1021 else c <<< 1

/-- `n` bits of the CRC. -/
def crcBits : Nat → BitVec 16 → BitVec 16
  | 0, c => c
  | n + 1, c => crcBits n (crcBit c)

/-- CRC-16 over bytes, from `c` (R321). -/
def crcFrom (c : BitVec 16) : List Byte → BitVec 16
  | [] => c
  | b :: r => crcFrom (crcBits 8 (c ^^^ (b.setWidth 16 <<< 8))) r

/-- CRC-16 with initial value 0xFFFF (R321). -/
def crc16 (l : List Byte) : BitVec 16 := crcFrom 0xFFFF l

/-- Exponent field of a D16 value (Table 10-2). -/
def d16Exp (x : Nat) : Nat := x / 128 % 256

/-- Value `i` of expanded bytes. -/
def d16At (bs : List Byte) (i : Nat) : Nat := field bs (2 * i) 2

/-- Base exponent of 32 values (Table 13-1). -/
def ltBase (bs : List Byte) : Nat := (List.range 32).foldl (fun a i => max a (d16Exp (d16At bs i))) 0

/-- Delta of element `i` (R322). -/
def ltDelta (bs : List Byte) (i : Nat) : Nat :=
  let d := ltBase bs - d16Exp (d16At bs i)
  if 6 < d then 7 else d

/-- Elements flushed to signed zero whose source was not a zero (R332). -/
def ltFlushed (bs : List Byte) : Nat :=
  ((List.range 32).filter fun i => ltDelta bs i == 7 && d16At bs i % 2 ^ 15 != 0).length

/-- The 48 B block of 64 expanded bytes (R322). -/
def ltEncode (bs : List Byte) : List Byte :=
  let e := ltBase bs
  let delta := (List.range 32).foldl (fun a i => a + ltDelta bs i * 2 ^ (3 * i)) 0
  let sf := (List.range 32).map fun i =>
    let x := d16At bs i
    BitVec.ofNat 8 (x / 2 ^ 15 % 2 * 128 + (if ltDelta bs i = 7 then 0 else x % 128))
  let body := toLe 1 e ++ toLe 1 (0xFF - e) ++ toLe 12 delta ++ sf
  body ++ toLe 2 (crc16 body).toNat

/-- A block is well-formed (R323). -/
def ltOk (b : List Byte) : Bool :=
  let e := field b 0 1
  let dl := field b 2 12
  field b 1 1 == 0xFF - e && field b 46 2 == (crc16 (b.take 46)).toNat && (List.range 32).all fun i =>
    let d := dl / 2 ^ (3 * i) % 8
    if d = 7 then field b (14 + i) 1 % 128 == 0 else decide (d ≤ e)

/-- The 64 expanded bytes of a well-formed block (R323). -/
def ltDecode (b : List Byte) : Option (List Byte) :=
  if ltOk b then
    let e := field b 0 1
    let dl := field b 2 12
    some <| ((List.range 32).map fun i =>
      let d := dl / 2 ^ (3 * i) % 8
      let sf := field b (14 + i) 1
      toLe 2 (sf / 128 * 2 ^ 15 + (if d = 7 then 0 else (e - d) * 128 + sf % 128))).flatten
  else none

/-- Bytes replaced from an offset. -/
def splice {α : Type} (old : List α) (off : Nat) (new : List α) : List α :=
  old.take off ++ new ++ old.drop (off + new.length)

end Sys2Proof.Machine
end

