-- ==== Sys2Proof/Machine/MemOps.lean ====
section
/-! DEFINITION. Virtual memory, the breakwater at a memory's home, lighter pages, the near caches and the combining
buffers (R286 to R299, R311, R312, R316, R322 to R330, R412 to R417). -/

namespace Sys2Proof.Machine

open Sys2Proof

/-- R192, Table 12-1: the first VA of the chandler windows. -/
def chdBase : Nat := 0x0001_8000_0000_0000

/-- The parts of `n` bytes at offset `d` of a pool that pages of one size map: offset in the pool, bytes, page. The largest pages
are taken (log 42). -/
def windowParts (d n : Nat) : List (Nat × Nat × Nat) :=
  let big := if d % 2 ^ 30 = 0 then n / 2 ^ 30 * 2 ^ 30 else 0
  let mid := if d % 2 ^ 21 = 0 then (n - big) / 2 ^ 21 * 2 ^ 21 else 0
  [(0, big, 2 ^ 30), (big, mid, 2 ^ 21), (big + mid, n - big - mid, 65536)].filter fun e => e.2.1 != 0

/-- R192: the chandler windows of a context: the pools of its partition's slices, NORMAL, read and write. -/
def State.windows (s : State) (c : Nat) : List Mapping :=
  ((s.obj.pool.filter fun e => s.owns (partOfKey c) e.1 && e.2.2 != 0).map fun e => (windowParts e.2.1 e.2.2).map fun w =>
    ({ va := chdBase + e.1 * 2 ^ 36 + w.1, len := w.2.1, page := w.2.2, target := .dev (hbmBase e.1 + e.2.1 + w.1), obj := none,
       attr := 0, prot := false, lighter := false, rd := true, wr := true, ex := false } : Mapping)).flatten

/-- Every mapping of a context (R286). -/
def State.mapsOf (s : State) (c : Nat) : List Mapping := (s.ctx c).maps ++ s.windows c

/-- A mapping covers a VA. -/
def Mapping.covers (m : Mapping) (va : Nat) : Bool := decide (m.va ≤ va) && decide (va < m.va + m.len)

/-- The mapping of a VA. -/
def State.mapAt (s : State) (c va : Nat) : Option Mapping := (s.mapsOf c).find? fun m => m.covers va

/-- A part of an access that lies in one mapping. -/
structure Piece where
  m : Mapping
  va : Nat
  len : Nat

/-- The access of `n` bytes at `va` cut at mapping bounds, and the first VA without a mapping; `k` bounds the parts. -/
def cutPieces (maps : List Mapping) : Nat → Nat → Nat → List Piece × Option Nat
  | 0, va, n => ([], if n = 0 then none else some va)
  | k + 1, va, n =>
    if n = 0 then ([], none)
    else
      match maps.find? fun m => m.covers va with
      | none => ([], some va)
      | some m =>
        let l := min n (m.va + m.len - va)
        let (r, f) := cutPieces maps k (va + l) (n - l)
        ({ m := m, va := va, len := l } :: r, f)

/-- The parts of an access in a context. -/
def State.pieces (s : State) (c va n : Nat) : List Piece × Option Nat :=
  let maps := s.mapsOf c
  cutPieces maps (maps.length + 1) va n

/-- Device bytes a part touches: first address and length (R325). -/
def Piece.span (x : Piece) : Option (Nat × Nat) :=
  let a := x.va - x.m.va
  match x.m.target with
  | .host _ => none
  | .dev d => if x.m.lighter then some (d + a / 64 * 48, ((a + x.len - 1) / 64 + 1 - a / 64) * 48) else some (d + a, x.len)

/-- A granule of 64 KiB marked protected lies in the range (R417). -/
def State.marked (s : State) (d n : Nat) : Bool := s.part.prot.any fun e => decide (e.1 * 65536 < d + n) && decide (d < (e.1 + 1) * 65536)

/-- Device physical address of a VA, where it has one. -/
def State.dpaOf (s : State) (c va : Nat) : Nat :=
  match s.mapAt c va with
  | some m => match m.target with | .dev d => d + (va - m.va) | .host b => b + (va - m.va)
  | none => va

/-- A range has a mapping with the property. -/
def State.anyMap (s : State) (c va n : Nat) (f : Mapping → Bool) : Bool := (s.pieces c va n).1.any fun x => f x.m

/-- R412, R413, R417: the home admits the part for partition `p`. -/
def State.admits (s : State) (p : Nat) (x : Piece) : Bool :=
  match x.span with
  | none => true
  | some (d, n) =>
    (match shareOf d, shareOf (d + n - 1) with
      | some (a, _), some (b, _) => s.owns p a && s.owns p b
      | _, _ => false) && (x.m.prot || !s.marked d n) && !s.isFrozen p

/-- A breakwater refusal is counted, recorded and logged (R412): tag, slice of the target, destination, address or index. -/
def State.bwRefuse (tag : Nat) (sl : Option Nat) (dst addr : Nat) (s : State) (pkt : Word := 0) : State :=
  let o := (sl.bind s.owner).getD 0
  let t := s.onPart fun p =>
    { p with bwRefuse := satInc p.bwRefuse
             bwLast := BitVec.ofNat 64 (tag % 256 * 2 ^ 56 + o * 2 ^ 51 + dst * 2 ^ 48 + addr % 2 ^ 48) }
  t.logOcc { event := 0xB01, sev := 2, part := if tag < 32 then some tag else none, tag := pkt, addr := BitVec.ofNat 64 addr }

/-- A refusal at the home of a device physical address, or another destination that it names. -/
def State.bwRefusal (tag dst addr : Nat) (s : State) (pkt : Word := 0) : State :=
  s.bwRefuse tag ((shareOf addr).map Prod.fst) dst addr pkt

/-- A fault BREAKWATER of an access of context `c` is a refusal (R412, R413): of the reduction unit where the address is a slot's
number, below every VA that can be mapped (R286); of core `core`, whose slice another partition owns; else of the home. -/
def State.noteRefusal (c code a : Nat) (core : Option Nat) (s : State) (pkt : Word := 0) : State :=
  let p := partOfKey c
  if code ≠ 0xB then s
  else if a < 262144 then s.bwRefuse p (some (a / 8192)) 4 a pkt
  else
    let d := s.dpaOf c a
    let dst := match core with
      | some x => if !s.owns p (sliceOf x) then 6 else if (shareOf d).any fun e => s.owns p e.1 then 2 else 1
      | none => 1
    s.bwRefusal p dst d pkt

/-- R412: an access of a packet meets a fault; one that the breakwater refused is counted. -/
def State.accessPacketFault (pid c code a : Nat) (s : State) : State :=
  (s.noteRefusal c code a none (s.tagOf pid)).packetFault pid code (BitVec.ofNat 64 a)

/-- What an access needs. -/
inductive Need where
  | read | write | exec
  deriving DecidableEq, Repr

/-- The mapping's PERM allows it. -/
def Mapping.allows (m : Mapping) (n : Need) : Bool := match n with | .read => m.rd | .write => m.wr | .exec => m.ex

/-- The fault an access of `n` bytes meets: its code of Table 9-4 and the address; `refused` says that the host refused
a translation (R292). -/
def State.accessFault (s : State) (c va n : Nat) (need : Need) (refused : Bool) : Option (Nat × Nat) :=
  let (ps, miss) := s.pieces c va n
  let bad := ps.findSome? fun x =>
    if !x.m.allows need then some (5, x.va)
    else if refused && (match x.m.target with | .host _ => true | _ => false) then some (4, x.va)
    else if !s.admits (partOfKey c) x then some (0xB, x.va) else none
  match bad with
  | some f => some f
  | none => miss.map fun a => (4, a)

/-- R299: the L2 of die `d` holds a line of the range that an access of another partition filled. -/
def State.l2Foreign (s : State) (d p a n : Nat) : Bool :=
  s.mem.l2.any fun e => e.1 / 2 ^ 20 == d && e.2.part != some p && decide (a < (e.2.line + 1) * 256) && decide (e.2.line * 256 < a + n)
    && (s.dirAt e.2.line).at_ d != .i

/-- R413, R299: a core compares the PART field of the page-table entry with the owner of its own slice, and its die's L2 the
tag with that of the line; the first VA refused. -/
def State.coreRefuses (s : State) (core c va n : Nat) : Option Nat :=
  if !s.owns (partOfKey c) (sliceOf core) then some va
  else (s.pieces c va n).1.findSome? fun x => match x.span with
    | some (d, k) => if s.l2Foreign (dieOf (sliceOf core)) (partOfKey c) d k then some x.va else none
    | none => none

/-- The fault that an access of a core meets, as `accessFault`. -/
def State.coreFault (s : State) (core c va n : Nat) (need : Need) (refused : Bool) : Option (Nat × Nat) :=
  match s.accessFault c va n need refused with
  | some f => some f
  | none => (s.coreRefuses core c va n).map fun a => (0xB, a)

/-- The host holds a line of the range in a state that keeps the device from reading it, or from writing it (R301, R305);
log 40. -/
def State.hostKeeps (s : State) (d n : Nat) (write : Bool) : Bool :=
  s.mem.dir.any fun e => decide (d < (e.1 + 1) * 256) && decide (e.1 * 256 < d + n) &&
    match Tab.look e.2.agents 9 .i with
    | .i => false
    | .s | .o => write
    | _ => true

/-- R263, R287: device physical address of macro `m` of die `d`. -/
def macroBase (d m : Nat) : Nat := 0x6000000000 + d * 0x80000000 + 0x60000000 + m * 65536

/-- A CIM operation uses a macro that the range touches. -/
def CimOp.touches (o : CimOp) (a n : Nat) : Bool :=
  decide (a < macroBase o.die o.macro_ + o.count * 65536) && decide (macroBase o.die o.macro_ < a + n)

/-- R266: an operation other than that of sequencer `me` holds a macro of the range, which a write waits for. -/
def State.deckHeld (s : State) (a n : Nat) (me : Nat := 32) : Bool := s.cim.running.any fun e => e.1 != me && e.2.touches a n

/-- An access by VA has to wait: the host keeps a line, or an operation other than that of sequencer `me` holds a macro that is
to be written. -/
def State.vaKept (s : State) (c va n : Nat) (write : Bool) (me : Nat := 32) : Bool :=
  (s.pieces c va n).1.any fun x => match x.span with
    | some (d, k) => s.hostKeeps d k write || (write && s.deckHeld d k me)
    | none => false

/-- The macro of tier 3 in which a device physical address lies: die × 8,192 + macro (R263). -/
def macroAt (a : Nat) : Option Nat :=
  match shareOf a with
  | some (sl, 4) => some (dieOf sl * 8192 + (a - 0x6000000000) % 0x20000000 / 65536)
  | _ => none

/-- R284, R316, R439: a 64 B unit is poisoned: marked so, or in a poisoned macro. -/
def State.unitMarked (s : State) (u : Nat) : Bool :=
  s.mem.poison.look u false || (match macroAt (u * 64) with | some m => s.cim.poisoned.look m false | none => false)

/-- R316, R418: a 64 B unit reads as poisoned: marked so, or written under a key since replaced. -/
def State.unitBad (s : State) (prot : Bool) (p u : Nat) : Bool :=
  s.unitMarked u ||
    (prot && (let g := s.mem.gen.look u 0; g != 0 && g != s.part.keyGen.look p 0))

/-- R441: granules that no rule may retire: those of the first 128 MiB of a share, and any beyond 240 of a share. -/
def State.mayRetire (s : State) (g : Nat) : Bool :=
  match shareOf (g * 65536) with
  | some (sl, 0) =>
    decide (hbmBase sl + 0x8000000 ≤ g * 65536) &&
      decide ((s.mem.retired.filter fun e => (shareOf (e.1 * 65536)).map Prod.fst == some sl).length < 240)
  | _ => false

/-- 24 hours of harbour time in ns (R440). -/
def errorPeriod : Nat := 86400000000000

/-- R440, R441: an error of a granule is counted, and at its threshold the granule is retired. -/
def State.granuleError (g : Nat) (unc : Bool) (s : State) : State :=
  let (t0, u, c) := s.mem.gErr.look g (0, 0, 0)
  let fresh := (u == 0 && c == 0) || decide (errorPeriod ≤ s.nowNs - t0)
  let (t0, u, c) := if fresh then (s.nowNs, 0, 0) else (t0, u, c)
  let u := if unc then u + 1 else u
  let c := if unc then c else c + 1
  let t := s.onMem fun m => { m with gErr := m.gErr.put g (0, 0, 0) (t0, u, c) }
  if (1 ≤ u ∨ 16 ≤ c) ∧ !(t.mem.retired.look g false) ∧ t.mayRetire g then
    let t := (t.onMem fun m => { m with retired := m.retired.put g false true }).logOcc
      { event := 0x305, sev := 4, unit := 0x800 + g * 65536 / 0x900000000, addr := BitVec.ofNat 64 (g * 65536) }
    if t.fence.autoPersist then t.persist 2 [] else t
  else t

/-- R316: an uncorrectable error of a 64 B unit poisons it and is logged. -/
def State.unitLost (u : Nat) (unit : Nat) (s : State) : State :=
  (s.onMem fun m => m.poisonAt (u * 64) 1).logOcc
    { event := 0x302, sev := 2, unit := unit, part := (shareOf (u * 64)).bind fun e => s.owner e.1, addr := BitVec.ofNat 64 (u * 64) }

/-- R284, R439: an uncorrectable error of a macro of tier 3 poisons it and is logged. -/
def State.macroLost (d m : Nat) (s : State) : State :=
  (s.onCim fun c => { c with poisoned := c.poisoned.put (d * 8192 + m) false true }).logOcc
    { event := 0xC02, sev := 2, unit := 0x800 + d, part := s.owner (4 * d + m / 2048), addr := BitVec.ofNat 64 m }

/-- An error of one 64 B unit of device memory as it is read (R284, R315, R316, R439, R440). -/
def State.unitError (u : Nat) (unc : Bool) (s : State) : State :=
  let a := u * 64
  match shareOf a with
  | none => s
  | some (sl, tier) =>
    let unit := 0x800 + dieOf sl
    if tier = 0 then
      if unc then (s.unitLost u unit).granuleError (a / 65536) true else (s.corrected unit).granuleError (a / 65536) false
    else if !unc then s.corrected unit
    else
      match macroAt a with
      | some m => s.macroLost (m / 8192) (m % 8192)
      | none => s.unitLost u unit

/-- The errors that memory shows in the units that an access of these ranges reads. -/
def State.meetEcc (ecc : EccErrs) (spans : List (Nat × Nat)) (s : State) : State :=
  (ecc.filter fun e => spans.any fun r => decide (r.1 < (e.1 + 1) * 64) && decide (e.1 * 64 < r.1 + r.2)).foldl
    (fun t e => t.unitError e.1 e.2) s

/-- The same for an access by VA. -/
def State.meetEccVa (c va n : Nat) (ecc : EccErrs) (s : State) : State :=
  if ecc.isEmpty then s else s.meetEcc ecc ((s.pieces c va n).1.filterMap Piece.span)

/-- The device bytes of a range with their poison. -/
def State.devRead (s : State) (prot : Bool) (p d n : Nat) : List (Byte × Bool) :=
  (s.mem.read d n).zipIdx.map fun e => (e.1, s.unitBad prot p ((d + e.2) / 64))

/-- The expanded bytes of the lighter block at `d`: all poisoned where it is not well-formed or a unit of it is (R323,
R335). -/
def State.ltRead (s : State) (d : Nat) : List (Byte × Bool) :=
  match ltDecode (s.mem.read d 48), s.mem.poisoned d 48 with
  | some l, false => l.map fun b => (b, false)
  | _, _ => List.replicate 64 (0, true)

/-- The bytes of a part as kernels see them; `host` gives those of host memory. -/
def State.readPiece (s : State) (p : Nat) (x : Piece) (host : List (Option Byte)) : List (Byte × Bool) :=
  match x.m.target with
  | .host _ => (List.range x.len).map fun i => match host.getD i (some 0) with | some b => (b, false) | none => (0, true)
  | .dev d =>
    let a := x.va - x.m.va
    if x.m.lighter then
      let all := ((List.range ((a + x.len - 1) / 64 + 1 - a / 64)).map fun k => s.ltRead (d + (a / 64 + k) * 48)).flatten
      (all.drop (a % 64)).take x.len
    else s.devRead x.m.prot p (d + a) x.len

/-- The bytes of an access whose faults have been checked. -/
def State.readVa (s : State) (c va n : Nat) (host : List (Option Byte)) : List (Byte × Bool) :=
  ((s.pieces c va n).1.map fun x => s.readPiece (partOfKey c) x (host.drop (x.va - va))).flatten

/-- The offset of the first poisoned byte, saturated (R183). -/
def firstPoison (l : List (Byte × Bool)) : Option Nat := (l.zipIdx.find? fun e => e.1.2).map fun e => min e.2 0xFFFFFFFF

/-- A store to plain device memory: poisoned bytes poison their units; in a PROTECTED page the units belong to the
present key (R316, R416). -/
def State.devWrite (prot : Bool) (p d : Nat) (l : List (Byte × Bool)) (s : State) : State :=
  s.onMem fun m =>
    let m := m.store d (l.map Prod.fst)
    let m := l.zipIdx.foldl (fun m e => if e.1.2 then m.poisonAt (d + e.2) 1 else m) m
    if prot then
      let key := s.part.keyGen.look p 0
      { m with gen := (unitsOf d l.length).foldl (fun t u =>
          if (d ≤ 64 * u ∧ 64 * u + 64 ≤ d + l.length) ∨ t.look u 0 = 0 then t.put u 0 key else t) m.gen }
    else m

/-- R328, R335: bytes are merged into the lighter block at `d` from expanded offset `off`; a partial store to a block
that is not well-formed changes nothing. -/
def State.ltMerge (d off : Nat) (l : List (Byte × Bool)) (s : State) : State :=
  let new := l.map Prod.fst
  let pois := l.any Prod.snd
  let old := if off = 0 ∧ 64 ≤ l.length then some [] else
    match ltDecode (s.mem.read d 48), s.mem.poisoned d 48 with
    | some o, false => some o
    | _, _ => none
  match old with
  | none => s
  | some o => s.onMem fun m =>
    let m := m.store d (ltEncode (splice o off new))
    if pois then m.poisonAt d 48 else m

/-- Stores to the lighter block at `d` that are on their way are applied, oldest first (R307, R328). -/
def State.flushBlock (d : Nat) (s : State) : State :=
  let t := s.onMem fun m => { m with rmw := m.rmw.filter fun w => w.dpa != d }
  (s.mem.rmw.filter fun w => w.dpa == d).foldl (fun t w => t.ltMerge w.dpa w.off (w.bytes.map fun b => (b, false))) t

/-- Bytes stored across lighter blocks: expanded offset `a` in the mapping's image at `d`; `k` bounds the blocks. -/
def State.ltStore (d : Nat) : Nat → Nat → List (Byte × Bool) → State → State
  | 0, _, _, s => s
  | k + 1, a, l, s =>
    if l.isEmpty then s
    else
      let n := 64 - a % 64
      let b := d + a / 64 * 48
      State.ltStore d k (a + n) (l.drop n) ((s.flushBlock b).ltMerge b (a % 64) (l.take n))

/-- A part is stored at its home. -/
def State.writePiece (p : Nat) (x : Piece) (l : List (Byte × Bool)) (s : State) : State :=
  let a := x.va - x.m.va
  match x.m.target with
  | .host b => s.emit (.hostWrite (p + 1) (b + a) (l.map Prod.fst) (l.any Prod.snd))
  | .dev d => if x.m.lighter then s.ltStore d (l.length / 64 + 2) a l else s.devWrite x.m.prot p (d + a) l

/-- An access whose faults have been checked is stored. -/
def State.writeVa (c va : Nat) (l : List (Byte × Bool)) (s : State) : State :=
  (s.pieces c va l.length).1.foldl (fun t x => t.writePiece (partOfKey c) x ((l.drop (x.va - va)).take x.len)) s

/-- Lighter stores that are on their way to the blocks an access reads are applied first. -/
def State.settleLighter (c va n : Nat) (s : State) : State :=
  (s.pieces c va n).1.foldl (fun t x =>
    match x.m.lighter, x.span with
    | true, some (d, k) => (List.range (k / 48)).foldl (fun t i => t.flushBlock (d + i * 48)) t
    | _, _ => t) s

/-- The malformed blocks that a fill meets are logged with their address (R335). -/
def State.logMalformed (c va n : Nat) (s : State) (tag : Word := 0) : State :=
  (s.pieces c va n).1.foldl (fun t x =>
    match x.m.lighter, x.span with
    | true, some (d, k) => (List.range (k / 48)).foldl (fun t i =>
        if ltOk (t.mem.read (d + i * 48) 48) then t
        else t.logOcc { event := 0x304, sev := 2, part := some (partOfKey c), tag := tag, addr := BitVec.ofNat 64 (d + i * 48) }) t
    | _, _ => t) s

/-- What a read meets in lighter pages: stores on their way are applied, and malformed blocks logged with the TAG of the packet
that reads. -/
def State.meetLighter (c va n : Nat) (tag : Word) (s : State) : State := (s.settleLighter c va n).logMalformed c va n tag

/-- R318: which core's near entry numbers. -/
def nearKey (core i : Nat) : Nat := core * 64 + i

/-- Valid near entries of a core that hold a line of a context. -/
def State.nearHits (s : State) (core c line : Nat) : List Nat :=
  (List.range 64).filter fun i => match s.mem.near.find (nearKey core i) with
    | some e => e.ctx == c && e.line == line
    | none => false

/-- The nodes of the replacement tree from the root to entry `i`, each with the side taken (R296). -/
def plruPath (i : Nat) : List (Nat × Bool) :=
  (List.range 6).map fun k => ((64 + i) / 2 ^ (6 - k), (64 + i) / 2 ^ (5 - k) % 2 == 1)

/-- A hit or fill of entry `i` turns the tree's bits along its path away from it (R296). -/
def State.plruTouch (core i : Nat) (s : State) : State :=
  let turn := fun t : Nat => (plruPath i).foldl (fun t e => if e.2 then t - (if t.testBit e.1 then 2 ^ e.1 else 0)
      else if t.testBit e.1 then t else t + 2 ^ e.1) t
  s.onMem fun m => { m with plru := m.plru.upd core 0 turn }

/-- R296: the victim of the mask, descending from node `n` with `k` levels left. -/
def plruVictim (tree mask : Nat) : Nat → Nat → Nat
  | 0, n => n - 64
  | k + 1, n =>
    let has := fun m : Nat => (List.range (2 ^ k)).any fun j => mask.testBit (m * 2 ^ k + j - 64)
    let want := if tree.testBit n then 2 * n + 1 else 2 * n
    let other := if tree.testBit n then 2 * n else 2 * n + 1
    plruVictim tree mask k (if has want then want else other)

/-- A fill (R294, R296): the lowest invalid entry of the mask, else the victim. -/
def State.nearFill (core : Nat) (mask : DWord) (e : NearLine) (s : State) : State :=
  if mask = 0 then s
  else
    let i := match (ones mask).find? fun i => (s.mem.near.find (nearKey core i)).isNone with
      | some i => i
      | none => plruVictim (s.mem.plru.look core 0) mask.toNat 6 1
    (s.onMem fun m => { m with near := m.near.ins (nearKey core i) e }).plruTouch core i

/-- The entry after bytes are stored into it from offset `o` (R294, R316). -/
def NearLine.merge (o : Nat) (l : List Byte) (e : NearLine) : NearLine :=
  { e with
    bytes := splice e.bytes o l
    poison := (unitsOf o l.length).foldl (fun p u => if o ≤ 64 * u ∧ 64 * u + 64 ≤ o + l.length then clearBit p u else p) e.poison }

/-- A store of the core meets its near cache: matching entries take the bytes, or, for a LIGHTER page, go (R294, R329). -/
def State.nearStore (core c va : Nat) (l : List Byte) (lighter : Bool) (s : State) : State :=
  let hits := s.nearHits core c (va / 512)
  let one := fun (t : Tab NearLine) (i : Nat) =>
    let k := nearKey core i
    if lighter then t.drop k
    else match t.find k with
      | some e => t.ins k (e.merge (va % 512) l)
      | none => t
  s.onMem fun m => { m with near := hits.foldl one m.near }

/-- The near caches of every core drop a context's entries in a range of VA (R291, R298). -/
def State.nearDropRange (c va n : Nat) (s : State) : State :=
  s.onMem fun m => { m with near := m.near.filter fun e =>
    !(e.2.ctx == c && decide (va < (e.2.line + 1) * 512) && decide (e.2.line * 512 < va + n)) }

/-- Runs of present bytes: offset and bytes. -/
def runsOf (o : Nat) : List (Option Byte) → List (Nat × List Byte)
  | [] => []
  | none :: r => runsOf (o + 1) r
  | some b :: r =>
    match runsOf (o + 1) r with
    | (k, l) :: t => if k = o + 1 then (o, b :: l) :: t else (o, [b]) :: (k, l) :: t
    | [] => [(o, [b])]

/-- No agent holds a line of a range of HBM any more (R311). -/
def State.uncache (d n : Nat) (s : State) : State :=
  s.onMem fun m => { m with dir := m.dir.map fun e =>
    if d < (e.1 + 1) * 256 ∧ e.1 * 256 < d + n then (e.1, { e.2 with agents := [], tenure := [] }) else e }

/-- Every byte of a combining-buffer entry goes to its home (R311, R330), the bytes of its units in `bad` poisoned (R439); every
cached copy of its lines goes. -/
def State.drainEntry (e : Comb) (s : State) (bad : Byte := 0) : State :=
  let t := (s.pieces e.ctx e.va 512).1.foldl (fun t x => match x.span with | some (d, k) => t.uncache d k | none => t) s
  (runsOf 0 e.data).foldl (fun t r => t.writeVa e.ctx (e.va + r.1) (r.2.zipIdx.map fun b => (b.1, bad.getLsbD ((r.1 + b.2) / 64)))) t

/-- Entries of a core that satisfy `p` drain, oldest first. -/
def State.drainComb (core : Nat) (p : Comb → Bool) (s : State) : State :=
  let l := s.mem.comb.look core []
  let t := s.onMem fun m => { m with comb := m.comb.put core [] (l.filter fun e => !p e) }
  (l.filter p).foldl (fun t e => t.drainEntry e) t

/-- A fresh entry. -/
def freshComb (c va block : Nat) : Comb := { ctx := c, va := va, data := List.replicate 512 none, block := block }

/-- A STREAM store of bytes within one 512 B range enters the combining buffer (R311). -/
def State.combStore (core c block va : Nat) (l : List Byte) (s : State) : State :=
  let base := va / 512 * 512
  let put := fun e : Comb => { e with data := splice e.data (va - base) (l.map some) }
  let es := s.mem.comb.look core []
  let t := if es.any fun e => e.ctx == c && e.va == base then
      s.onMem fun m => { m with comb := m.comb.put core [] (es.map fun e => if e.ctx = c ∧ e.va = base then put e else e) }
    else
      let s := match es with
        | e :: r => if es.length < 8 then s else (s.onMem fun m => { m with comb := m.comb.put core [] r }).drainEntry e
        | [] => s
      s.onMem fun m => { m with comb := m.comb.upd core [] fun es => es ++ [put (freshComb c base block)] }
  t.drainComb core fun e => e.data.all Option.isSome

/-- Entries of the core that overlap a load's bytes drain first (R312). -/
def State.drainFor (core c va n : Nat) (s : State) : State :=
  s.drainComb core fun e => e.ctx == c && ((e.data.drop (va - e.va)).take n).any Option.isSome
    && decide (e.va < va + n) && decide (va < e.va + 512)

/-- The store path of a core: bytes within one near line that have passed their checks (R293, R294, R328). -/
def State.coreStore (core c block va : Nat) (l : List Byte) (s : State) : State :=
  match s.mapAt c va with
  | none => s
  | some m =>
    if m.attr = 2 then s.writeVa c va (l.map fun b => (b, false))
    else
      let t := s.nearStore core c va l m.lighter
      if m.attr = 1 then t.combStore core c block va l
      else
        match m.target, m.lighter with
        | .dev d, true =>
          let a := va - m.va
          t.onMem fun x => { x with rmw := x.rmw ++ [{ ctx := c, block := block, part := partOfKey c, dpa := d + a / 64 * 48, off := a % 64, bytes := l, whole := l.length == 64 }] }
        | _, _ => t.writeVa c va (l.map fun b => (b, false))

end Sys2Proof.Machine
end

