-- ==== Sys2Proof/Machine/PageTable.lean ====
section
/-! DEFINITION. Page tables: the entries of a context's four-level table, its walk, and the tables that it takes of its
partition's pool (R289, R290, R326, R408). A context holds its mappings; every entry follows from them. -/

namespace Sys2Proof.Machine

open Sys2Proof

/-- The lowest VA bit that a level indexes (Table 12-3). -/
def levelShift (lvl : Nat) : Nat := if lvl ≤ 1 then 16 else if lvl = 2 then 21 else if lvl = 3 then 30 else 39

/-- A page-table entry: not in use, the address of the next table, or a page's mapping and where the page begins in it. -/
inductive Pte where
  | invalid
  | table (addr : Nat)
  | leaf (m : Mapping) (off : Nat)
  deriving DecidableEq, Repr

/-- R408: the page-table pool of a partition, behind the object table at the start of its lowest slice's share. -/
def State.tablePool (s : State) (p : Nat) : Nat := hbmBase ((ones (s.slicesOf p)).headD 0) + 0x4000000

/-- R289: the table of level `lvl` for VA prefix `i`: 4 KiB aligned, or 8 KiB for the root. Which table of the pool it is, no rule
states (log 42). -/
def State.tableAddr (s : State) (c lvl i : Nat) : Nat :=
  let k := Config.tablePlace c lvl i
  s.tablePool (partOfKey c) + (if lvl = 4 then k % 8192 * 8192 else k % 16384 * 4096)

/-- R289: the entry of level `lvl` that VA prefix `i` indexes: a leaf where a page of the level's size lies there, a table where
smaller pages do. -/
def State.pte (s : State) (c lvl i : Nat) : Pte :=
  let n := 2 ^ levelShift lvl
  let here := (s.mapsOf c).filter fun m => decide (m.va < (i + 1) * n) && decide (i * n < m.va + m.len)
  match here.find? fun m => m.page == n with
  | some m => .leaf m (i * n - m.va)
  | none => if here.isEmpty then .invalid else .table (s.tableAddr c (lvl - 1) i)

/-- R289: the walk of a VA from level `lvl` down: the mapping of the leaf, and the VA's place in it. -/
def State.walkFrom (s : State) (c va : Nat) : Nat → Option (Mapping × Nat)
  | 0 => none
  | lvl + 1 =>
    match s.pte c (lvl + 1) (va / 2 ^ levelShift (lvl + 1)) with
    | .invalid => none
    | .leaf m off => some (m, off + va % 2 ^ levelShift (lvl + 1))
    | .table _ => s.walkFrom c va lvl

/-- The walk from the root. -/
def State.walk (s : State) (c va : Nat) : Option (Mapping × Nat) := s.walkFrom c va 4

/-- The 64 bits of an entry of a context of partition `p` (Table 12-4, R326). -/
def Pte.word (p : Nat) : Pte → DWord
  | .invalid => 0
  | .table a => BitVec.ofNat 64 (p % 32 * 2 ^ 57 + a % 2 ^ 57 / 4096 * 4096 + 1)
  | .leaf m off =>
    let (space, a) := match m.target with
      | .host b => (2, b + off)
      | .dev d => (if d < 8 * 0x900000000 then 0 else 1, if m.lighter then d + off / 64 * 48 else d + off)
    BitVec.ofNat 64 (space * 2 ^ 62 + p % 32 * 2 ^ 57 + a % 2 ^ 57 / 65536 * 65536 + b2n m.ex * 1024 + b2n m.wr * 512 + b2n m.rd * 256
      + b2n m.lighter * 128 + b2n m.prot * 64 + m.attr % 4 * 16 + (if m.lighter then a / 16384 % 4 * 4 else 0) + 2 + 1)

/-- Index ranges of 2^`shift` bytes that hold pages smaller than `page` bytes. -/
def tablesAt (maps : List Mapping) (shift : Nat) (page : Nat) : List Nat :=
  (maps.filter fun m => decide (m.page < page)).foldl (fun l m =>
    (List.range ((m.va + m.len - 1) / 2 ^ shift + 1 - m.va / 2 ^ shift)).foldl (fun l i =>
      let x := m.va / 2 ^ shift + i
      if l.contains x then l else x :: l) l) []

/-- Page tables of mappings, in units of 4 KiB: the root's two, and one for each entry that is no leaf (R289). -/
def tableCount (maps : List Mapping) : Nat :=
  2 + (tablesAt maps 39 (2 ^ 40)).length + (tablesAt maps 30 (2 ^ 30)).length + (tablesAt maps 21 (2 ^ 21)).length

/-- Page tables of a partition, chandler windows and all; 16,384 fit in its pool (R192, R290). -/
def State.tablesUsed (s : State) (p : Nat) : Nat :=
  ((s.obj.ctx.filter fun e => partOfKey e.1 == p && e.2.st != .ended).map fun e => tableCount (s.mapsOf e.1)).sum

end Sys2Proof.Machine
end

