-- ==== Sys2Proof/Machine/ObjOps.lean ====
section
/-! DEFINITION. Objects: the object table, reference counts, memory given out, contexts, runs, events, bindings and
importers, and how each ends (ch. 8). -/

namespace Sys2Proof.Machine

open Sys2Proof

/-- Key of an object or context: partition and entry index. -/
def objKey (p i : Nat) : Nat := p * 2 ^ 32 + i

/-- An object table entry. -/
def State.objAt (s : State) (k : Nat) : Obj := s.obj.tab.look k {}

/-- The update of one entry. -/
def State.onObjAt (k : Nat) (f : Obj → Obj) (s : State) : State :=
  s.onObj fun o => { o with tab := o.tab.upd k {} f }

/-- The stored complement matches (R187). -/
def Obj.pairOk (o : Obj) : Bool := o.ncount == ~~~o.count

/-- A count, stored with its complement (R187). -/
def Obj.setCount (n : Word) (o : Obj) : Obj := { o with count := n, ncount := ~~~n }

/-- R185, R186: an entry that can take a new object. -/
def Obj.isFree (o : Obj) : Bool := !o.live && !o.retired && !o.frozen

/-- The lowest free entry of partition `p` among `n` indices from `lo`: at most one more than the entries listed need be
looked at. -/
def State.freeIndex (s : State) (p lo n : Nat) : Option Nat :=
  ((List.range (min n (s.obj.tab.length + 1))).map (lo + ·)).find? fun i => (s.objAt (objKey p i)).isFree

/-- Indices of runs and imported events, and of contexts and memory, which come to the other entries of the table last (R186;
the order is log 31). -/
def State.freeRun (s : State) (p : Nat) : Option Nat := s.freeIndex p 0 32768
def State.freeOther (s : State) (p : Nat) : Option Nat :=
  [(32768, 0xFF000 - 32768), (0, 32768), (0xFFFF0, 16), (0xFF000, 4080)].findSome? fun r => s.freeIndex p r.1 r.2

/-- The entry of partition queue `k`: its handle has the queue's index in [11:0] (Table 7-11; log 31). -/
def queueEntry (p k : Nat) : Nat := objKey p (0xFF000 + k)

/-- A new object with its creation reference among `n` references. -/
def State.newObj (k : Nat) (kind : ObjKind) (body : ObjBody) (n : Word) (s : State) : State :=
  s.onObjAt k fun o => ({ o with kind := kind, live := true, ended := false, creation := true, retains := 0, body := body }).setCount n

/-- Type code of an object's own handle (Table 7-2). -/
def ObjKind.code : ObjKind → Nat
  | .context => 1 | .memory => 2 | .event => 3 | .queue => 4 | .run => 5

/-- The handle of an entry; an imported event's carries its mirror counter (R199). -/
def State.handleOf (s : State) (k : Nat) : Nat :=
  let o := s.objAt k
  let i := k % 2 ^ 32
  match o.kind, o.body with
  | .event, .run c _ _ _ _ _ => mkHandle 3 (partOfKey k) o.gen (i * 2 ^ 17 + c)
  | _, _ => mkHandle o.kind.code (partOfKey k) o.gen i

/-- The entry a handle names: an EVENT handle names its run's (R187, R197). -/
def handleKey (h : Nat) : Nat := objKey (hPart h) (if hType h = 3 then hIdx h / 2 ^ 17 else hIdx h)

/-- A handle names a live object of its type and generation (R159, R185, R197). -/
def State.handleLive (s : State) (h : Nat) : Bool :=
  let o := s.objAt (handleKey h)
  o.live && o.gen == hGen h &&
    match hType h, o.kind, o.body with
    | 1, .context, _ => true
    | 2, .memory, _ => true
    | 4, .queue, _ => true
    | 5, .run, _ => true
    | 3, .run, .run f n _ _ _ _ => decide (f ≤ hIdx h % 2 ^ 17) && decide (hIdx h % 2 ^ 17 < f + n)
    | 3, .event, .run f _ _ _ _ _ => f == hIdx h % 2 ^ 17
    | _, _, _ => false

/-- The object waits for its last packets (R189, R207); a run of RUN_BEGIN does not while it is open (R196). -/
def Obj.waiting (o : Obj) : Bool :=
  o.count == 0 && match o.kind, o.body with | .run, .run _ _ open_ _ _ _ => !open_ | _, _ => true

/-- Packets fetched or running, of any queue. -/
def State.packets (s : State) : List Packet :=
  (s.q.tab.map fun e => e.2.buffer).flatten ++ s.q.inflight.map Inflight.pkt

/-- A fetched or running packet names the entry (R189). -/
def State.named (s : State) (k : Nat) : Bool :=
  s.packets.any fun p => p.handles.any fun h => let v := p.f h.1 8; v != 0 && handleKey v == k

/-- Value of counter `c` of a run: the counter's while open, the recorded one after (R197). -/
def State.runValue (s : State) (body : ObjBody) (c : Nat) : DWord :=
  match body with
  | .run f _ open_ _ rec_ _ => if open_ then (s.tally c).value else rec_.getD (c - f) 0
  | _ => 0

/-- Value of the event that entry `k` gives counter `c`. -/
def State.eventValue (s : State) (k c : Nat) : DWord := s.runValue (s.objAt k).body c

/-- Ranges of a slice's share of tier `t` (0 HBM, 1 to 4 the deck) given out, as (first address, length): the tables, pools and
ledger of R408, and static objects. -/
def State.claimed (s : State) (p sl t : Nat) : List (Nat × Nat) :=
  let base := if t = 0 then hbmBase sl else deckBase sl (t - 1)
  let low := (ones (s.slicesOf p)).head? == some sl
  let own := if low ∧ t = 0 then [(base, 0x8000000)] else if low ∧ t = 1 then [(base, 0x800000)] else []
  let objs := s.obj.tab.filterMap fun e =>
    match e.2.body with
    | .memory t' d n sl' ch _ => if e.2.live && t' == t && sl' == sl && !ch then some (d, n) else none
    | _ => none
  own ++ objs

/-- Used ranges of a slice's share: those given out, the chandler's pool and retired granules. -/
def State.usedRanges (s : State) (p sl t : Nat) : List (Nat × Nat) :=
  let pool := if t = 0 then (match s.obj.pool.find sl with | some (o, n) => if n = 0 then [] else [(hbmBase sl + o, n)] | none => []) else []
  let ret := if t = 0 then s.mem.retired.filterMap fun e => if e.2 then some (e.1 * 65536, 65536) else none else []
  s.claimed p sl t ++ pool ++ ret

/-- Two ranges overlap. -/
def overlap (a n b m : Nat) : Bool := decide (a < b + m) && decide (b < a + n) && decide (0 < n) && decide (0 < m)

/-- Rounding up to a multiple. -/
def alignUp (a n : Nat) : Nat := (a + n - 1) / n * n

/-- The lowest place for `n` bytes at an alignment in a share, beside the used ranges. -/
def firstFit (base size : Nat) (used : List (Nat × Nat)) (align n : Nat) : Option Nat :=
  let c := (base :: used.map fun u => u.1 + u.2).map fun a => alignUp a align
  let ok := c.filter fun a => decide (base ≤ a) && decide (a + n ≤ base + size) && !(used.any fun u => overlap a n u.1 u.2)
  match ok with
  | [] => none
  | a :: r => some (r.foldl min a)

/-- Size of a slice's share of a tier. -/
def shareSize (t : Nat) : Nat := if t = 0 then 0x240000000 else 0x8000000

/-- First address of a slice's share of a tier. -/
def shareBase (sl t : Nat) : Nat := if t = 0 then hbmBase sl else deckBase sl (t - 1)

/-- A place for `n` bytes on the lowest of the slices that has one (log 32). -/
def State.findPlace (s : State) (p t align n : Nat) (slices : List Nat) : Option (Nat × Nat) :=
  slices.findSome? fun sl => (firstFit (shareBase sl t) (shareSize t) (s.usedRanges p sl t) align n).map fun a => (sl, a)

/-- Bytes of a share that no range uses (QUERY items 5 and 6). -/
def State.freeBytes (s : State) (p t : Nat) : Nat :=
  ((ones (s.slicesOf p)).map fun sl =>
    let used := (s.usedRanges p sl t).filter fun u => overlap (shareBase sl t) (shareSize t) u.1 u.2
    let holes := s.mem.retired.filter fun e => t == 0 && e.2 && overlap (shareBase sl t) (shareSize t) (e.1 * 65536) 65536
    -- a retired granule inside an object or a pool is counted once
    let twice := (holes.filter fun e => ((s.usedRanges p sl t).filter fun u => u.2 != 65536 || u.1 != e.1 * 65536).any
      fun u => overlap u.1 u.2 (e.1 * 65536) 65536).length * 65536
    shareSize t + twice - (used.map Prod.snd).sum).sum

/-- Coherence records of the device agents for the lines of a range go (R182, R189). -/
def State.dropLines (d n : Nat) (s : State) : State :=
  s.onMem fun m => { m with dir := m.dir.foldl (fun t e =>
    if overlap d n (e.1 * 256) 256 then t.put e.1 {} { e.2 with agents := e.2.agents.filter fun a => a.1 == 9 } else t.ins e.1 e.2) [] }

/-- Granules of a range. -/
def granules (d n : Nat) : List Nat := if n = 0 then [] else (List.range ((d + n - 1) / 65536 + 1 - d / 65536)).map (d / 65536 + ·)

/-- Importers of a run entry learn its final value (R202). -/
def State.finalUpdate (k : Nat) (s : State) : State :=
  let o := s.objAt k
  let mine := s.obj.importers.filter fun i => i.part == partOfKey k && i.event / 2 ^ 17 == k % 2 ^ 32 && i.gen == o.gen
  let t := s.onObj fun x => { x with
    importers := x.importers.filter fun i => !(i.part == partOfKey k && i.event / 2 ^ 17 == k % 2 ^ 32 && i.gen == o.gen)
    exports := x.exports.upd (partOfKey k) [] fun l => l.filter fun e => e.1 / 2 ^ 17 != k % 2 ^ 32 }
  mine.foldl (fun t i =>
    let v := s.runValue o.body (i.event % 2 ^ 17)
    if i.dev = 0xFF then
      -- a local mirror: the runs of this device whose exporter is this event
      t.obj.tab.foldl (fun t e => match e.2.body with
        | .run c _ _ _ _ (some m) =>
          if m.dev == 0xFF && m.part == i.part && m.event == i.event && m.gen == i.gen && e.2.live then
            (((t.onTally c fun x => { (x.set (BitVec.ofNat 64 (max x.value.toNat v.toNat))) with orphaned := true }).serveTally c).logOcc
              { event := 0xD03, sev := 2, part := some (partOfKey e.1), addr := BitVec.ofNat 64 c })
          else t
        | _ => t) t
    else
      let (id, t) := t.nextMsgId
      t.sendMsg (t.mkMsg 3 1 i.dev id (toLe 4 i.event ++ toLe 1 i.part ++ toLe 3 i.gen ++ toLe 8 v.toNat ++ toLe 1 1))) t

/-- A signal word is written for the last time, or for the only one; whether the write failed is told at the next
SIGNAL_WORD_UPDATE (R203, R204). -/
def State.lastWord (part fn word : Nat) (v : DWord) (s : State) : State :=
  (s.onObj fun x => { x with lastWords := (part, word) :: x.lastWords }).emit (.hostWrite fn word (toLe 8 v.toNat) false)

/-- Bindings of an event's run end with a last write of the final value (R203, R204). -/
def State.endBindings (k : Nat) (s : State) : State :=
  let o := s.objAt k
  let mine := s.obj.bindings.filter fun b => b.part == partOfKey k && b.event / 2 ^ 17 == k % 2 ^ 32
  let t := s.onObj fun x => { x with bindings := x.bindings.filter fun b => !(b.part == partOfKey k && b.event / 2 ^ 17 == k % 2 ^ 32) }
  mine.foldl (fun t b => t.lastWord b.part b.fn b.word (s.runValue o.body (b.event % 2 ^ 17))) t

/-- The entry is freed: its generation advances, or it is retired (R185). -/
def Obj.freed (o : Obj) : Obj :=
  if o.gen = 0x1FFFFF then { gen := o.gen, retired := true } else { gen := o.gen + 1 }

/-- R189, R190: an object without references that no packet names is destroyed. -/
def State.destroyObj (k : Nat) (s : State) : State :=
  let o := s.objAt k
  let t := match o.body with
    | .memory _ d n _ ch _ =>
      let t := s.dropLines d n
      -- chandler memory keeps its contents (R193)
      if ch then t
      else
        let t := t.onPart fun p => { p with prot := (granules d n).foldl (fun m g => m.put g false false) p.prot }
        t.onMem fun m => m.zero d n
    | .run c _ _ _ _ m =>
      let t := (s.finalUpdate k).endBindings k
      if m.isSome then t.onTally c fun x => { x with mirror := false } else t
    | _ => s
  t.onObjAt k fun _ => o.freed

/-- R196: a run of RUN_BEGIN closes: its counters are recorded, its open reference goes. A count that is zero already stays so,
and one whose complement does not match is left as it is (R208). -/
def State.closeRun (k : Nat) (s : State) : State :=
  let o := s.objAt k
  match o.kind, o.body with
  | .run, .run f n true c _ m =>
    s.onObjAt k fun o =>
      let x := { o with body := .run f n false c ((List.range n).map fun i => (s.tally (f + i)).value) m }
      if o.pairOk && o.count != 0 then x.setCount (o.count - 1) else x
  | _, _ => s

/-- The outcome of a reference operation. -/
inductive RefRes where
  | count (n : Word) | mismatch

/-- R208: a count whose complement does not match freezes its object. -/
def State.freezeObj (k : Nat) (s : State) (tag : Word := 0) : State :=
  (s.onObjAt k fun o => { o with frozen := true }).mismatch 0xD01 (some (partOfKey k)) (BitVec.ofNat 64 (k % 2 ^ 32)) tag

/-- R208: of entries that an operation is to touch, those whose count does not match its complement and that are not frozen. -/
def State.badCounts (s : State) (ks : List Nat) : List Nat := ks.filter fun k => (s.objAt k).live && !(s.objAt k).pairOk && !(s.objAt k).frozen

/-- R208: such entries are frozen. -/
def State.freezeBad (ks : List Nat) (tag : Word) (s : State) : State := (s.badCounts ks).foldl (fun t k => t.freezeObj k tag) s

/-- One reference is removed, `f` saying which (R187, R188). -/
def State.releaseRef (k : Nat) (f : Obj → Obj) (s : State) (tag : Word := 0) : State × RefRes :=
  let o := s.objAt k
  if o.frozen then (s, .mismatch)
  else if !o.pairOk then (s.freezeObj k tag, .mismatch)
  else if o.count = 0 then (s, .count 0)
  else (s.onObjAt k fun o => (f o).setCount (o.count - 1), .count (o.count - 1))

/-- The creation reference is released, where it stands. -/
def State.releaseCreation (k : Nat) (s : State) : State :=
  if (s.objAt k).creation then (s.releaseRef k fun o => { o with creation := false }).1 else s

/-- The object is a chandler allocation. -/
def Obj.chandler (o : Obj) : Bool := match o.body with | .memory _ _ _ _ c _ => c | _ => false

/-- R188: OBJ_RELEASE has a reference to release: a retain, or a creation reference, which a chandler allocation has none of. -/
def Obj.releasable (o : Obj) : Bool := decide (0 < o.retains) || (o.creation && !o.chandler)

/-- OBJ_RELEASE takes a retain where one stands, else the creation reference (log 33). -/
def Obj.dropOne (o : Obj) : Obj :=
  if 0 < o.retains then { o with retains := o.retains - 1 } else { o with creation := false }

/-- A mapping's reference is released (R188). -/
def State.releaseMapping (m : Mapping) (p : Nat) (s : State) : State :=
  match m.obj with
  | some i => (s.releaseRef (objKey p i) id).1
  | none => s

/-- R182, R291: a context's mappings within a range go, with their translations, cached copies and references. -/
def State.unmapRange (c va n : Nat) (s : State) : State :=
  let gone := (s.ctx c).maps.filter fun m => decide (va ≤ m.va) && decide (m.va + m.len ≤ va + n)
  let t := (s.onCtx c fun x => { x with maps := x.maps.filter fun m => !(decide (va ≤ m.va) && decide (m.va + m.len ≤ va + n)) }).nearDropRange c va n
  let t := t.onMem fun m => { m with tlb := m.tlb.filter fun e =>
    !(e.1 / 2 ^ 33 == c && decide (va ≤ e.1 % 2 ^ 33 * 65536) && decide (e.1 % 2 ^ 33 * 65536 < va + n)) }
  gone.foldl (fun t m =>
    let t := match m.target with
      | .dev d => if m.lighter then t.dropLines d (m.len / 4 * 3) else t.dropLines d m.len
      | .host _ => t
    t.releaseMapping m (partOfKey c)) t

/-- Entries of the objects that a range of a context maps. -/
def State.mappedObjs (s : State) (c va n : Nat) : List Nat :=
  ((s.ctx c).maps.filter fun m => decide (va ≤ m.va) && decide (m.va + m.len ≤ va + n)).filterMap fun m =>
    m.obj.map fun i => objKey (partOfKey c) i

/-- Entries whose counts the end of a context touches (R205, R208): its own, its objects' and those of its mappings. -/
def State.endTouches (s : State) (c : Nat) : List Nat :=
  c :: s.mappedObjs c 0 (2 ^ 50) ++ (s.obj.tab.filter fun e => e.2.live && partOfKey e.1 == partOfKey c && (match e.2.body with
    | .memory _ _ _ _ _ x => x == c
    | .run _ _ _ x _ _ => x == c
    | _ => false)).map Prod.fst

/-- R205, R206: a context ends: packets, holdings and blocks, runs, mappings and allocations, creation references. -/
def State.endContext (c : Nat) (s : State) : State :=
  let names := fun p : Packet => p.ctxKey == some c
  let t := (s.cancelWhere s.queues names).stopContext c
  let runs := (t.obj.tab.filter fun e => match e.2.kind, e.2.body with
    | .run, .run _ _ o x _ _ => e.2.live && o && x == c
    | _, _ => false).map Prod.fst
  let t := runs.foldl (fun t k => t.closeRun k) t
  let t := t.unmapRange c 0 (2 ^ 50)
  let mine := (t.obj.tab.filter fun e => e.2.live && partOfKey e.1 == partOfKey c && (match e.2.body with
    | .memory _ _ _ _ _ x => x == c
    | .run _ _ _ x _ _ => x == c
    | _ => false)).map Prod.fst
  let t := mine.foldl (fun t k => t.releaseCreation k) t
  let t := t.onMem fun m => { m with near := m.near.filter (fun e => e.2.ctx != c), tlb := m.tlb.filter fun e => e.1 / 2 ^ 33 != c }
  let t := t.onCtx c fun _ => { st := .ended }
  (t.onObjAt c fun o => { o with ended := true }).releaseCreation c

/-- A queue ends (R154, R171, R190). -/
def State.endQueue (q : QueueId) (s : State) : State :=
  let t := (s.clearErr q true).cancelQueue q
  let k := handleKey (t.queue q).handle.toNat
  let t := t.onQueue q fun x => { x with ended := true }
  (t.onObjAt k fun o => { o with ended := true }).releaseCreation k

/-- Free counters of a partition, lowest first: in no open run, without value's use by a run, BAD or waiter (R199,
QUERY item 7; log 34). -/
def State.inOpenRun (s : State) (c : Nat) : Bool :=
  s.obj.tab.any fun e => e.2.live && match e.2.body with
    | .run f n o _ _ _ => o && decide (f ≤ c) && decide (c < f + n)
    | _ => false

/-- A counter that can be given out. -/
def State.tallyFree (s : State) (c : Nat) : Bool := !s.inOpenRun c && (s.tally c).waiters.isEmpty && !(s.tally c).bad

/-- Live exports of a partition (R198). -/
def State.exportsOf (s : State) (p : Nat) : List (Nat × Nat) := s.obj.exports.look p []

/-- R436: partition `p` is frozen, with its log entry, its VF's cause and ALERT_N. -/
def State.freezePart (p : Nat) (s : State) : State :=
  if s.part.frozen.getLsbD p then s
  else ((s.onPart fun x => { x with frozen := setBit x.frozen p }).logOcc { event := 0xB02, sev := 2, part := some p }).raiseVf p 2

/-- R410, R436: a partition whose map does not match freezes (log 96). -/
def State.freezeMaps (s : State) : State := ((List.range 32).filter fun n => !s.mapOk n).foldl (fun t n => t.freezePart n) s

/-- R191, R206: all that a partition holds ends: contexts, queues, objects, exports and bindings. `keep` is a VF FLR's:
generations and pools stay, and retired entries are usable again (R185). Undispatched packets of other queues that act on the
partition complete CANCELLED (R154). -/
def State.endPartition (p : Nat) (keep : Bool) (s : State) : State :=
  let ctxs := (s.obj.ctx.filter fun e => partOfKey e.1 == p && e.2.st != .ended).map Prod.fst
  let t := ctxs.foldl (fun t c => t.endContext c) s
  let qs := t.queues.filter fun q => match q with | .part n _ => n == p | _ => false
  let t := (qs.foldl (fun t q => t.cancelQueue q) t).cancelWhere (t.queues.filter fun q => !qs.contains q) fun x =>
    x.part == p && !x.deviceScope && x.op != 0x50 && x.op != 0x51 && x.op != 0x52
  -- dispatched packets of the partition that name no context
  let mine := (t.q.inflight.filter fun i => i.pkt.part == p && i.pkt.op != 0x51 && !i.pkt.deviceScope).map fun i => i.pkt.pid
  let t := mine.foldl (fun t pid => ((t.dropWork pid).dropPacketWaiter pid).finish pid stFaulted 0 0) t
  -- bindings end without a last write (R204)
  let t := t.onObj fun o => { o with bindings := o.bindings.filter fun b => b.part != p }
  let ks := (t.obj.tab.filter fun e => e.2.live && partOfKey e.1 == p).map Prod.fst
  let t := ks.foldl (fun t k => (t.closeRun k).destroyObj k) t
  let t := qs.foldl (fun t q => t.onQ fun x => { x with tab := x.tab.drop q.code }) t
  t.onObj fun o =>
    { o with
      tab := o.tab.filter fun e => partOfKey e.1 != p || (keep && !e.2.retired)
      ctx := o.ctx.filter fun e => partOfKey e.1 != p
      exports := o.exports.drop p
      pool := if keep then o.pool else o.pool.filter fun e => !(s.slicesOf p).getLsbD e.1 }

end Sys2Proof.Machine
end

