-- ==== Sys2Proof/Machine/Settle.lean ====
section
/-! DEFINITION. What follows when a packet has completed: packets that waited for it start, objects without references
or packets end, pre-wakes of cancelled packets return, PLDM events arise (R125, R168, R182, R189, R483). -/

namespace Sys2Proof.Machine

open Sys2Proof

/-- R169: the range of a MEM_UNMAP is covered exactly by mappings that lie wholly within it. -/
def State.unmapExact (s : State) (c va n : Nat) : Bool :=
  let gone := (s.ctx c).maps.filter fun m => overlap m.va m.len va n
  gone.all (fun m => decide (va ≤ m.va) && decide (m.va + m.len ≤ va + n)) && (gone.map Mapping.len).sum == n

/-- A MEM_UNMAP runs (R169, R182). -/
def State.runUnmap (p : Packet) (s : State) : State :=
  let c := objKey p.part (hIdx (p.f 16 8))
  let va := p.f 24 8
  let n := p.f 32 8
  if (s.ctx c).st ≠ .live then s.finish p.pid stFaulted 0 0
  else if s.unmapExact c va n && s.badCounts (s.mappedObjs c va n) != [] then
    (s.freezeBad (s.mappedObjs c va n) p.tag).finish p.pid stIntegrity 0 0
  else if s.unmapExact c va n then
    let k := ((s.ctx c).maps.filter fun m => overlap m.va m.len va n).length
    (s.unmapRange c va n).finish p.pid stOk k 0
  else s.finish p.pid stBadParam 0 (reason 0x06 24)

/-- A packet that waited for others runs (R168, R182). -/
def State.startPacket (i : Inflight) (s : State) : State :=
  let t := s.onInflight i.pkt.pid fun x => { x with started := true }
  match i.pkt.op with
  | 0x14 => t.finish i.pkt.pid stOk 0 0
  | 0x23 => t.runUnmap i.pkt
  | 0x33 =>
    let touched := t.endTouches (objKey i.pkt.part (hIdx (i.pkt.f 16 8)))
    if (t.objAt (handleKey (i.pkt.f 16 8))).ended then t.finish i.pkt.pid stFaulted 0 0
    else if t.badCounts touched ≠ [] then (t.freezeBad touched i.pkt.tag).finish i.pkt.pid stIntegrity 0 0
    else (t.endContext (objKey i.pkt.part (hIdx (i.pkt.f 16 8)))).finish i.pkt.pid stOk 0 0
  | _ => t

/-- The first packet that has nothing more to wait for. -/
def State.startable (s : State) : Option Inflight := s.q.inflight.find? fun i => !i.started && i.waitFor.isEmpty

/-- Packets that can start do, one after another; `k` bounds their number. -/
def State.startAll : Nat → State → State
  | 0, s => s
  | k + 1, s =>
    match s.startable with
    | none => s
    | some i => State.startAll k (s.startPacket i)

/-- Entries that are to be destroyed now (R189, R190, R196). -/
def State.dead (s : State) : List Nat :=
  (s.obj.tab.filter fun e => e.2.live && !e.2.frozen && e.2.pairOk && e.2.waiting
    && (match e.2.kind with | .context | .queue => e.2.ended | _ => true) && !s.named e.1).map Prod.fst

/-- Pre-wakes whose packet was cancelled end (R125, R154). -/
def State.dropPrewakes (s : State) : State :=
  let held := fun pid : Nat => s.q.tab.any fun e => e.2.buffer.any fun p => p.pid == pid
  (s.pwr.slice.filterMap fun e => e.2.prewakePid).foldl (fun t pid => if held pid then t else t.endPrewake pid) s

/-- Everything that follows. -/
def State.settle (s : State) : State :=
  let t := s.startAll s.q.inflight.length
  (t.dead.foldl (fun t k => t.destroyObj k) t).dropPrewakes.freezeMaps.pldmWatch

/-- A command whose effect may have completed packets or released references: its next state. -/
def done (s : State) : Result := .next s.settle

/-- The first dispatched packets a new one has to wait for (R168, R182). -/
def State.waitOn (pid : Nat) (sel : Inflight → Bool) (s : State) : State :=
  let l := (s.q.inflight.filter fun i => i.pkt.pid != pid && sel i).map fun i => i.pkt.pid
  s.onInflight pid fun i => { i with waitFor := l, started := false }

end Sys2Proof.Machine
end

