-- ==== Sys2Proof/Machine/CimOps.lean ====
section
/-! DEFINITION. Local memory, and what CIM operations compute and wait for (R224, R263 to R274, R278, R279, R421). -/

namespace Sys2Proof.Machine

open Sys2Proof

/-- Byte `off` of the local memory of block `b`, and whether it is poisoned; what nothing has written since the block
started is undefined (R224, log 7). -/
def State.localAt (s : State) (b off : Nat) : Byte × Bool :=
  let c := s.coreAt (s.blk b).core
  let v := match Tab.find (α := Byte) c.loc (b * 2 ^ 18 + off) with | some x => x | none => Config.localByte b off
  (v, c.locPoison.look (b * 2 ^ 18 + off) false)

/-- Bytes of a block's local memory. -/
def State.localRead (s : State) (b off n : Nat) : List (Byte × Bool) := (List.range n).map fun i => s.localAt b (off + i)

/-- A byte of local memory is written. -/
def Core.putLocal (k : Nat) (v : Byte × Bool) (c : Core) : Core :=
  { c with loc := Tab.ins (α := Byte) c.loc k v.1, locPoison := c.locPoison.put k false v.2 }

/-- Bytes of a block's local memory are written. -/
def State.localWrite (b off : Nat) (l : List (Byte × Bool)) (s : State) : State :=
  s.onCoreAt (s.blk b).core fun c => l.zipIdx.foldl (fun c e => c.putLocal (b * 2 ^ 18 + off + e.2) e.1) c

/-- Weight byte of a macro at row `r`, column `c` (R263). -/
def State.weight (s : State) (d m r c : Nat) : Byte := Tab.look (α := Byte) s.mem.bytes (macroBase d m + r * 256 + c) 0

/-- A signed nibble (R264). -/
def nibble (b : Byte) : Int := (b.setWidth 4).toInt

/-- A sum over `n` terms. -/
def sumInt (n : Nat) (f : Nat → Int) : Int := ((List.range n).map f).sum

/-- R268: column `c` of group `j` in digital mode. -/
def State.digital (s : State) (o : CimOp) (x : Nat → Byte) (j c : Nat) : Int :=
  sumInt o.rowgrp fun i => sumInt 256 fun r =>
    (s.weight o.die (o.macro_ + j * o.rowgrp + i) r c).toInt * (x (256 * i + r)).toInt

/-- R269: the true sum of segment `t` of macro `i` in group `j`, column `c`. -/
def State.segment (s : State) (o : CimOp) (x : Nat → Byte) (j c i t : Nat) : Int :=
  sumInt 64 fun r => nibble (s.weight o.die (o.macro_ + j * o.rowgrp + i) (64 * t + r) c) *
    (((x (256 * i + 64 * t + r)).toNat % 16 : Nat) : Int)

/-- R269, R270: the decoded sum of a segment: 15q − 7,680 for a code q of 0 to 960 that a free value picks (log 7), within
22 of the true sum unless the calibration is stale. -/
def decodeSegment (stale : Bool) (sum : Int) (pick : DWord) : Int :=
  let codes : List Nat := (List.range 961).filter fun q => stale || decide ((15 * (q : Int) - 7680 - sum).natAbs ≤ 22)
  15 * ((codes.getD (pick.toNat % max 1 codes.length) 512 : Nat) : Int) - 7680

/-- R269: column `c` of group `j` in time mode. -/
def State.timed (s : State) (o : CimOp) (x : Nat → Byte) (j c : Nat) : Int :=
  sumInt o.rowgrp fun i => sumInt 4 fun t =>
    decodeSegment o.stale (s.segment o x j c i t) (Config.free (s.free + ((j * 256 + c) * o.rowgrp + i) * 4 + t))

/-- Groups of an operation. -/
def CimOp.groups (o : CimOp) : Nat := o.count / max 1 o.rowgrp

/-- R274: the output blocks of an operation, and the free values it used. -/
def State.cimOutput (o : CimOp) (x : List Byte) (s : State) : List Byte × State :=
  let at_ := fun i => x.getD i 0
  let out := ((List.range o.groups).map fun j => ((List.range 256).map fun c =>
    toLe 4 (BitVec.ofInt 32 (if o.time then s.timed o at_ j c else s.digital o at_ j c)).toNat).flatten).flatten
  (out, if o.time then s.onFree (· + o.groups * 256 * o.rowgrp * 4) else s)

/-- R284: a macro of the operation is poisoned. -/
def State.macroBad (s : State) (o : CimOp) : Bool :=
  (List.range o.count).any fun i =>
    s.cim.poisoned.look (o.die * 8192 + o.macro_ + i) false || s.mem.poisoned (macroBase o.die (o.macro_ + i)) 65536

/-- Two ranges of macros of one die meet. -/
def macrosMeet (d m n d' m' n' : Nat) : Bool := d == d' && decide (m < m' + n') && decide (m' < m + n)

/-- Loads not complete that write one of these macros. -/
def State.loadsOn (s : State) (d m n : Nat) : List Nat :=
  (s.cim.loads.filter fun l => macrosMeet l.die l.first l.count d m n).map CimLoad.pid

/-- R272: active places a die offers under its throttle level. -/
def State.cimLimit (s : State) (d : Nat) : Nat :=
  let l := s.level d
  min (min 512 (s.cim.activeMax.look d 512)) (if l = 3 then 256 else if 4 ≤ l then 128 else 512)

/-- R421: places of one slice of a strict die. -/
def State.strictShare (s : State) (d : Nat) : Nat :=
  let l := s.level d
  if l = 3 then 64 else if 4 ≤ l then 32 else 128

/-- R266: a write to a macro of the operation is in progress: in a combining buffer, on its way to a lighter block, or an add or
commit on its way (log 98). -/
def State.cimWritten (s : State) (o : CimOp) : Bool :=
  s.mem.comb.any (fun e => e.2.any fun x => (runsOf 0 x.data).any fun r =>
      (s.pieces x.ctx (x.va + r.1) r.2.length).1.any fun p => match p.span with | some (d, k) => o.touches d k | none => false)
    || s.mem.rmw.any (fun w => o.touches w.dpa 48)
    || s.red.inflight.any (fun a => a.fmt != .xs && o.touches a.dpa 8)
    || (s.red.commits ++ s.red.held).any fun c => c.entries.any fun e => match e.kind with | .memAdd _ => o.touches e.key 8 | _ => false

/-- R266, R279, ch. 7: what an operation waits for beside its places: earlier loads of its macros, a calibration of its
die, or, with STALE_WAIT, one to come; its slice must run (R273). -/
def State.cimReady (s : State) (o : CimOp) : Bool :=
  o.behind.all (fun pid => !(s.cim.loads.any fun l => l.pid == pid)) && !s.cimWritten o && (s.slice o.slice).st == .run
    && (!o.time || (!s.cim.calBusy.getLsbD o.die
        && !(s.cim.staleWait && s.tw.calStale.getLsbD o.die && !s.cim.calFail.getLsbD o.die)))

/-- The places fit (R18, R272, R421): beside an operation that began before its die was strict, too. -/
def State.cimFits (s : State) (o : CimOp) : Bool :=
  if (s.strictOn o.die).isSome then decide (o.count ≤ s.strictShare o.die) && decide (s.cim.active.look o.die 0 + o.count ≤ 512)
  else decide (s.cim.active.look o.die 0 + o.count ≤ s.cimLimit o.die)

/-- The next operation of a slice's sequencer that runs none. -/
def State.cimNext (s : State) (sl : Nat) : Option CimOp :=
  if (s.cim.running.find sl).isSome then none else (s.cim.queue.look sl []).head?

/-- R273: the sequencer that the round of a die grants: the first after the last granted whose operation is ready; one
whose places do not fit stops the round. On a strict die the slices do not wait for each other (R421). -/
def State.cimGrant (s : State) (d : Nat) : List Nat → Option CimOp
  | [] => none
  | k :: r =>
    match s.cimNext (4 * d + k) with
    | none => s.cimGrant d r
    | some o =>
      if !s.cimReady o then s.cimGrant d r
      else if s.cimFits o then some o
      else if (s.strictOn d).isSome then s.cimGrant d r else none

/-- Local slices in round order. -/
def State.cimRound (s : State) (d : Nat) : List Nat := (List.range 4).map fun i => (s.cim.last.look d 3 + 1 + i) % 4

/-- The operation of vector `v` of a CIM_EXEC (R274). -/
def vectorOp (p : Packet) (v : Nat) (behind : List Nat) : CimOp :=
  let rg := p.f 46 1
  let m := p.f 40 2
  let d := p.f 44 1
  { owner := .packet p.pid, die := d, slice := 4 * d + m / 2048, ctx := p.ctxKey.getD 0, part := p.part,
    inVa := p.f 24 8 + v * 256 * rg, outVa := p.f 32 8 + v * (p.f 42 2 / max 1 rg) * 1024, macro_ := m, count := p.f 42 2,
    rowgrp := rg, time := p.f 45 1 == 1, behind := behind, stale := false }

/-- The owner of an operation is packet `pid`. -/
def CimOp.ofPacket (o : CimOp) (pid : Nat) : Bool := match o.owner with | .packet p => p == pid | _ => false

/-- An operation of the packet waits. -/
def State.cimQueued (s : State) (pid : Nat) : Bool := s.cim.queue.any fun e => e.2.any fun o => o.ofPacket pid

/-- R421, R273: a CIM_EXEC enqueues its next vector once none of its own waits and the sequencer has room. -/
def State.feedOne (e : CimExecSt) (s : State) : State :=
  match s.inflight e.pid with
  | none => s
  | some i =>
    let p := i.pkt
    let o := vectorOp p (p.f 48 4 - e.left) e.behind
    if e.left = 0 ∨ s.cimQueued e.pid ∨ 32 ≤ (s.cim.queue.look o.slice []).length then s
    else if (s.strictOn o.die).isSome ∧ 128 < o.count then (s.dropWork e.pid).finish e.pid stBadParam 0 (reason 0x06 42)
    else
      let t := s.onCim fun c =>
        { c with queue := c.queue.upd o.slice [] fun l => l ++ [o]
                 execs := c.execs.map fun x => if x.pid = e.pid then { x with left := x.left - 1 } else x }
      if (t.slice o.slice).st = .run then t else t.wakeSlice o.slice

/-- Every CIM_EXEC enqueues what it can. -/
def State.feed (s : State) : State := s.cim.execs.foldl (fun t e => t.feedOne e) s

/-- An operation ends: its places are free. -/
def State.cimFree (o : CimOp) (s : State) : State :=
  s.onCim fun c => { c with running := c.running.drop o.slice, active := c.active.upd o.die 0 (· - o.count) }

end Sys2Proof.Machine
end

