-- ==== Sys2Proof/Machine/Store.lean ====
section
/-! DEFINITION. The meanings of the persistent store, the event log and the interrupt masks (ch. 18, ch. 19), and of the
packets that read and write them (R179, R181). -/

namespace Sys2Proof.Machine

open Sys2Proof

/-- The last page with data beyond byte 191 of a record's data (R455). -/
def lastDataPage (len : Nat) : Nat := (63 + len) / 256

/-- The write in progress goes on with phase `p`. -/
def State.nvmPhase (w : NvmWrite) (j : Nat) (p : NvmPhase) (retried : Bool) (s : State) : State :=
  s.onNvm fun n => { n with cur := some (w, j, p, retried) }

/-- R455, R485, R491: an erase is done: of a block of an update's target slot, or of the slot a record write takes, whose
page programming then begins once its turn has come. -/
def execNvmEraseDone (s : State) : Result :=
  done <|
    match s.nvm.slotBusy, s.nvm.cur with
    | some (.erase a b), _ => (s.onNvm fun n => { n with img := (SlotJob.erase a b).run n.img }).slotTurn.askFirst
    | none, some (w, j, .erase, r) => (s.nvmPhase w j (if 1 ≤ lastDataPage w.data.length then .page 1 else .hdr) r).nvmTurn
    | _, _ => s

/-- TAG of the packet that a write of the store is for, if it is (R141). -/
def State.nvmTag (s : State) (w : NvmWrite) : Word := match w.why with | .packet pid => s.tagOf pid | _ => 0

/-- Whoever waits for a write of the store learns its outcome (R465, R485, R35): `ok` with the new SEQ, or a failure. -/
def State.nvmTell (w : NvmWrite) (ok : Bool) (seq : Word) (s : State) : State :=
  match w.why with
  | .packet pid => if ok then s.finish pid stOk seq.toNat 0 else s.finish pid stNoResource 0 1
  | .internal => if ok then s else s.nvmHold w
  | .rom =>
    let t := s.onBoot fun b => { b with selWrite := false }
    if ok then t else t.nvmHold w
  | .activate =>
    (s.onMgmt fun m => { m with upd := if ok then .idle else .apply }).emit
      (.mgmt s.mgmt.updBind (if ok then .accepted .activateFirmware else .error .writeFailed))
  | .confirm =>
    let t := (s.mboxAnswer (if ok then stOk else stNoResource)).onBoot fun b => { b with trial := if ok then false else b.trial }
    if ok ∧ s.ao.minSvn.toNat < s.boot.imgSvn.toNat then t.onAo fun a => { a with minSvn := s.boot.imgSvn } else t

/-- FENCE_STAT and FENCE_MAP_SEQ after a commit of record `r` (Table 18-11). -/
def State.fenceFollow (r : Nat) (s : State) : State :=
  let more := s.nvm.queue.any (fun q => q.rec_ = 1 || q.rec_ = 2) || s.nvm.waiting.any fun q => q.rec_ = 1 || q.rec_ = 2
  s.onFence fun f =>
    { f with pending := if (r = 1 ∨ r = 2) ∧ !more then false else f.pending, mapSeq := s.fenceSeq }

/-- A write is committed (R455): the counters, PERSIST_PENDING and FENCE_MAP_SEQ follow, and the controller goes on. A
recording that waits for the same record holds no more than this one. -/
def State.nvmCommit (w : NvmWrite) (j : Nat) (s : State) : State :=
  let x := s.nvmSlot w.rec_ j
  let t := s.onNvm fun n =>
    { n with cur := none, writes := n.writes + 1, lastOut := 0, lastRec := w.rec_, wearMax := max n.wearMax x.erases
             slot := n.slot.put (2 * w.rec_ + j) {} { x with marker := true }
             waiting := n.waiting.filter fun q => !(q.rec_ == w.rec_ && (w.rec_ == 1 || w.rec_ == 2)) }
  ((t.fenceFollow w.rec_).nvmTell w true x.seq).nvmTurn

/-- R465: a failed read-back: the slot is erased and written once more, and a second failure fails the write. -/
def State.nvmFail (w : NvmWrite) (j : Nat) (retried : Bool) (s : State) : State :=
  let e := (s.nvmSlot w.rec_ j).erases
  if retried then
    let t := s.onNvm fun n =>
      { n with cur := none, fails := satInc n.fails, lastOut := 3, lastRec := w.rec_
               slot := n.slot.put (2 * w.rec_ + j) {} { erases := e } }
    ((t.logOcc { event := 0x904, sev := 2, tag := s.nvmTag w, code := w.rec_ }).nvmTell w false 0).nvmTurn
  else
    ((s.onNvm fun n => { n with slot := n.slot.put (2 * w.rec_ + j) {} { erases := e + 1 } }).nvmPhase w j .erase true).nvmTurn

/-- A page of the record write in progress is programmed: the next phase, or the read-back that `readback` answers. -/
def State.nvmPaged (w : NvmWrite) (j : Nat) (p : NvmPhase) (r readback : Bool) (s : State) : State :=
  match p with
  | .page n => (s.nvmPhase w j (if n < lastDataPage w.data.length then .page (n + 1) else .hdr) r).nvmTurn
  | .hdr => ((s.nvmPage w j .hdr readback).nvmPhase w j .marker r).nvmTurn
  | .marker => if readback then s.nvmCommit w j else s.nvmFail w j r
  | .erase => s

/-- R455, R458, R465, R485, R491: a page program completes, of an update's target slot or of the record write in progress;
of a write that a trip has interrupted it is the last. -/
def execNvmPageDone (readback : Bool) (s : State) : Result :=
  done <|
    match s.nvm.slotBusy, s.nvm.cur with
    | some (.page a o b), _ => (s.onNvm fun n => { n with img := (SlotJob.page a o b).run n.img }).slotTurn
    | none, some (w, j, p, r) =>
      if p = NvmPhase.erase then s
      else if s.nvm.stop then (((s.nvmPage w j p readback).nvmInterrupt.nvmLeave w).fenceFollow 0).nvmTurn
      else s.nvmPaged w j p r readback
    | _, _ => s

/-- Records a partition queue may read (Table 18-6). -/
def partReadable (r : Nat) : Bool := r == 4 || r == 5 || (decide (768 ≤ r) && decide (r ≤ 1279))

/-- R179, R456, R466: NVM_READ copies the newest committed slot of a record to the host; a record without one is logged when it
is asked for (log 16). -/
def execNvmRead (q : QueueId) (s : State) : Result :=
  done <| s.dispatch q 0x68 anyPkt fun p s =>
    let r := p.f 16 4
    match s.newest r with
    | none => (s.logOcc { event := 0x901, sev := 2, tag := p.tag, code := r }).finish p.pid stLost 0 0
    | some j =>
      let x := s.nvmSlot r j
      (s.emit (.hostWrite q.fn (p.f 24 8) (x.data.take (p.f 32 4)) false)).finish p.pid stOk
        (x.data.length + x.seq.toNat * 2 ^ 32) 0

/-- R179, R183, R459: NVM_WRITE queues a journalled write; while 16 are queued it stays at the head of its queue. `data` is
what the host's memory holds at SRC, a poisoned byte being absent: then nothing is written (log 93). -/
def execNvmWrite (q : QueueId) (data : List (Option Byte)) (s : State) : Result :=
  done <|
    if 16 ≤ s.nvm.queue.length then s
    else s.dispatch q 0x69 anyPkt fun p s =>
      if s.nvm.refusing then
        (s.logOcc { event := 0x902, sev := 2, tag := p.tag, code := p.f 16 4 }).finish p.pid stThermal 0 0
      else
        let l := (List.range (p.f 32 4)).map fun i => data.getD i none
        match l.findIdx? Option.isNone with
        | some k => s.finish p.pid stLost 0 k
        | none => s.nvmQueue { rec_ := p.f 16 4, data := l.filterMap id, why := .packet p.pid }

/-- A log entry as its 64 bytes (Table 18-8a). -/
def LogEntry.bytes (e : LogEntry) : List Byte :=
  toLe 4 e.seq ++ toLe 8 e.time.toNat ++ toLe 2 e.event ++
    toLe 1 (b2n e.gap * 128 + (if e.part.isSome then 64 else 0) + e.sev) ++ toLe 1 (e.part.getD 0) ++
    toLe 4 e.tag.toNat ++ toLe 2 e.unit ++ toLe 2 e.code ++ toLe 8 e.addr.toNat ++
    (e.payload ++ List.replicate 32 0).take 32

/-- R462: sequence number `a` precedes `b`, modulo 2^31. -/
def precedes (a b : Nat) : Bool :=
  let d := (b % 2 ^ 31 + 2 ^ 31 - a % 2 ^ 31) % 2 ^ 31
  decide (1 ≤ d) && decide (d ≤ 2 ^ 30 - 1)

/-- R181, R463: the entries a LOG_READ copies. -/
def State.logPick (s : State) (q : QueueId) (first count : Nat) : List LogEntry :=
  let l := if 2 ^ 31 ≤ first then s.log.history else s.log.entries
  let mine := fun (e : LogEntry) => match q with
    | .part p _ => e.part == some p
    | _ => true
  ((l.filter fun e => !precedes e.seq first && mine e)).take count

/-- R181: LOG_READ copies log or status history entries to the host; RESULT holds how many and the SEQ after the last. -/
def execLogRead (q : QueueId) (s : State) : Result :=
  done <| s.dispatch q 0x71 anyPkt fun p s =>
    let first := p.f 24 4
    let hist := decide (2 ^ 31 ≤ first)
    let l := s.logPick q first (p.f 28 2)
    let top := if hist then 2 ^ 31 else 0
    let after := match l.getLast? with
      | some e => seq31 (e.seq + 1) + top
      | none => seq31 (if hist then s.log.histNext else s.log.next) + top
    (s.emit (.hostWrite q.fn (p.f 16 8) ((l.map LogEntry.bytes).flatten) false)).finish p.pid stOk
      (l.length + after * 2 ^ 32) 0

/-- LOG_RELEASE pops every entry that precedes the value; a value beyond LOG_NEXT is discarded (R462). -/
def State.logRelease (v : Word) (s : State) : State :=
  if precedes s.log.next v.toNat then s
  else s.onLog fun l => { l with entries := l.entries.filter fun e => !precedes e.seq v.toNat }

/-- R462: a write of LOG_RELEASE. -/
def execLogRelease (v : Word) (s : State) : Result :=
  done <| if !s.boot.ready then s.discarded 0x7000C else s.hostWake.logRelease v

/-- R475: messages for the causes of a mask, in ascending order. -/
def State.sendCauses (m : Word) (s : State) : State :=
  ((List.range 8).filter fun k => m.getLsbD k).foldl (fun t k => t.msixSend 0 (t.host.intVec.look k 0).toNat) s

/-- INT_MASK takes a value; a cause that is unmasked while set sends its message, once the device is AWAKE (R475). -/
def State.setIntMask (v : Word) (s : State) : State :=
  let new := s.host.intMask &&& ~~~ v &&& s.host.intCause &&& 0xFF
  let t := s.onHost fun h => { h with intMask := v &&& 0xFF }
  if s.asleep then (t.onHost fun h => { h with heldCauses := h.heldCauses ||| new }).hostWake
  else t.sendCauses new

/-- R475: a write of INT_MASK. -/
def execIntMaskWrite (v : Word) (s : State) : Result := done <| if !s.ao.hubOut then s else s.setIntMask v

/-- R477: messages for VF causes. -/
def State.sendVfCauses (n : Nat) (m : BitVec 3) (s : State) : State :=
  (ones m).foldl (fun t b => t.msixSend (n + 1) ((t.host.vfs.look n {}).vecOf b)) s

/-- VFS_MASK of VF `n` takes a value (R477). -/
def State.setVfsMask (n : Nat) (v : BitVec 3) (s : State) : State :=
  let f := s.host.vfs.look n {}
  let new := f.mask &&& ~~~ v &&& f.cause
  let t := s.onHost fun h => { h with vfs := h.vfs.put n {} { f with mask := v } }
  if s.asleep then (t.onHost fun h => { h with heldVfs := h.heldVfs.upd n 0 (· ||| new) }).hostWake
  else t.sendVfCauses n new

/-- R477: a write of VFS_MASK. -/
def execVfsMaskWrite (n : Nat) (v : BitVec 3) (s : State) : Result :=
  done <| if !s.boot.ready || !s.host.vfEnable || decide (32 ≤ n) then s.discarded 0xC else s.setVfsMask n v

/-- QUERY (R180): the packet's ITEM is `item`. -/
def State.query (q : QueueId) (item : Nat) (f : State → Packet → Nat) (s : State) : State :=
  s.dispatch q 0x70 (fun p => p.f 16 1 == item) fun p s => s.finish p.pid stOk (f s p) 0

/-- QUERY item 0: the serial number. -/
def execQuerySerial (q : QueueId) (s : State) : Result := done <| s.query q 0 fun _ _ => Config.serial.toNat
/-- QUERY item 1: enabled cores of the device. -/
def execQueryCores (q : QueueId) (s : State) : Result := done <| s.query q 1 fun s _ => s.coresOn
/-- QUERY item 2: the enabled-core mask of a slice. -/
def execQuerySliceCores (q : QueueId) (s : State) : Result := done <| s.query q 2 fun s p => (s.coreMask (p.f 17 1)).toNat
/-- QUERY item 3: harbour time. -/
def execQueryTime (q : QueueId) (s : State) : Result := done <| s.query q 3 fun s _ => s.nowNs % 2 ^ 64
/-- QUERY item 4: PILOT_FW_VER. -/
def execQueryFwVer (q : QueueId) (s : State) : Result := done <| s.query q 4 fun s _ => s.boot.fwVer.toNat

end Sys2Proof.Machine
end

