-- ==== Sys2Proof/Machine/FleetOps.lean ====
section
/-! DEFINITION. What units ask of the fleet: who can be reached, remote adds and posts, export tokens and mirrors
(R198 to R202, R393). -/

namespace Sys2Proof.Machine

open Sys2Proof

/-- The status of an operation toward a device that cannot be reached: PEER_LOST when it is LOST or this device is
ADRIFT, NOT_READY when it is DORMANT, unreachable or unassigned (R389, R393, R399). -/
def State.unreachable (s : State) (dst : Nat) : Option Nat :=
  let d := s.fleet.dev.look dst {}
  if s.fleet.own = .adrift ∨ d.st = .lost then some stPeerLost
  else if d.st = .dormant ∨ (s.egress dst).isNone ∨ s.fleet.own ≠ .joined then some stNotReady else none

/-- DEVICE names this device (R168). -/
def State.isLocal (s : State) (dev : Nat) : Bool := dev == 0xFF || s.fleet.devNum == some dev

/-- Body of a TALLY_ADD_REMOTE 0 (Table 16-2a). -/
def addBody (obj part n : Nat) : List Byte := toLe 4 obj ++ toLe 1 part ++ toLe 3 0 ++ toLe 8 n
/-- Body of a SEM_REMOTE 0. -/
def postBody (obj part n : Nat) : List Byte := toLe 4 obj ++ toLe 1 part ++ toLe 3 0 ++ toLe 4 n

/-- A remote add or post leaves, and its MSG_ID. -/
def State.sendSync (dst obj part n : Nat) (s : State) : DWord × State :=
  let (id, t) := s.nextMsgId
  let m := if obj < 2 ^ 17 then t.mkMsg 3 0 dst id (addBody obj part n) else t.mkMsg 4 0 dst id (postBody obj part n)
  (id, t.sendMsg m)

/-- The number that bits [127:32] of a token spell (Table 8-3). -/
def tokenBody (fleetId dev part gen event : Nat) : Nat :=
  fleetId * 2 ^ 64 + dev * 2 ^ 58 + part * 2 ^ 53 + gen * 2 ^ 32 + event

/-- The fleet ID and device number that this device's tokens carry (Table 8-3). -/
def State.tokenId (s : State) : Nat × Nat :=
  if s.isStandalone then (0, 0) else (s.fleet.id.toNat, s.fleet.devNum.getD 0)

/-- The export token of an event, as 16 bytes. -/
def State.token (s : State) (part gen event : Nat) : List Byte :=
  let (f, d) := s.tokenId
  let b := tokenBody f d part gen event
  toLe 4 (Config.exportCode s.part.exportKey b).toNat ++ toLe 12 b

/-- What a token names: fleet ID, device, partition, generation, event index. -/
def tokenParts (t : List Byte) : Nat × Nat × Nat × Nat × Nat :=
  let b := field t 4 12
  (b / 2 ^ 64, b / 2 ^ 58 % 64, b / 2 ^ 53 % 32, b / 2 ^ 32 % 2 ^ 21, b % 2 ^ 32)

/-- R199: the exporter verifies a token: the event's value, if its check code and its event hold. -/
def State.verifyToken (s : State) (t : List Byte) : Option DWord :=
  let (f, d, p, g, e) := tokenParts t
  let k := objKey p (e / 2 ^ 17)
  if (f, d) = s.tokenId ∧ field t 0 4 = (Config.exportCode s.part.exportKey (field t 4 12)).toNat
      ∧ s.handleLive (mkHandle 3 p g e) then some (s.eventValue k (e % 2 ^ 17))
  else none

/-- An importer is entered with the value it starts from (R200). -/
def State.addImporter (t : List Byte) (dev : Nat) (v : DWord) (s : State) : State :=
  let (_, _, p, g, e) := tokenParts t
  let i : Importer := { part := p, event := e, gen := g, dev := dev, last := v }
  if s.obj.importers.any fun x => x.part == p && x.event == e && x.gen == g && x.dev == dev then s
  else s.onObj fun o => { o with importers := o.importers ++ [i] }

/-- The lowest free counter of a partition's slices (R199). -/
def State.freeTally (s : State) (p : Nat) : Option Nat :=
  (ones (s.slicesOf p)).findSome? fun sl => ((List.range 4096).map (sl * 4096 + ·)).find? s.tallyFree

/-- R199: the import is accepted: a mirror counter opens at the event's value, and an EVENT object names it. -/
def State.openMirror (pid : Nat) (p : Packet) (t : List Byte) (dev : Nat) (v : DWord) (s : State) : State :=
  let (_, _, ep, g, e) := tokenParts t
  match s.freeTally p.part, s.freeRun p.part with
  | some c, some i =>
    let k := objKey p.part i
    let m : MirrorOf := { token := t, dev := dev, part := ep, event := e, gen := g }
    let s := s.newObj k .event (.run c 1 true (objKey p.part (hIdx (p.f 16 8))) [] (some m)) 1
    let s := s.onTally c fun x => { (x.set v) with mirror := true, orphaned := false, bad := false }
    s.finish pid stOk (s.handleOf k) 0
  | _, _ => s.finish pid stNoResource 0 0

/-- A mirror is marked ORPHANED (R202). -/
def State.orphan (k c : Nat) (s : State) : State :=
  if (s.tally c).orphaned then s
  else (s.onTally c fun x => { x with orphaned := true }).logOcc
    { event := 0xD03, sev := 2, part := some (partOfKey k), addr := BitVec.ofNat 64 c }

/-- A mirror rises to a received value, and its waiters are served (R200). -/
def State.raiseMirror (c : Nat) (v : DWord) (s : State) : State :=
  if (s.tally c).value.toNat < v.toNat then (s.onTally c (Tally.set v)).serveTally c else s

/-- Mirrors of this device that follow an event of device `dev`: entry and counter. -/
def State.mirrorsOf (s : State) (dev : Nat) (sel : MirrorOf → Bool) : List (Nat × Nat) :=
  s.obj.tab.filterMap fun e => match e.2.body with
    | .run c _ _ _ _ (some m) => if e.2.live && m.dev == dev && sel m then some (e.1, c) else none
    | _ => none

end Sys2Proof.Machine
end

