-- ==== Sys2Proof/Machine/Flags.lean ====
section
/-! DEFINITION. Number formats, rounding, the stochastic draws, MX scales, exact sums and the flags they set
(R244 to R258). Flags are numbers: OVF 1, NAN 2, INV 4 (R259). -/

namespace Sys2Proof

/-- A value of a floating-point format: NaN, an infinity, or ± m × 2^e. -/
inductive Num where
  | nan
  | inf (neg : Bool)
  | fin (neg : Bool) (m : Nat) (e : Int)
  deriving DecidableEq, Repr

/-- How a format uses its highest codes (Table 10-2): infinities and NaNs, one NaN, or none. -/
inductive Specials where
  | ieee | oneNan | none
  deriving DecidableEq, Repr

/-- A floating-point format: exponent bits, fraction bits, bias, emax, specials. -/
structure Fmt where
  eb : Nat
  fb : Nat
  bias : Nat
  emax : Int
  sp : Specials

/-- The formats of Table 10-2. -/
def fD16 : Fmt := { eb := 8, fb := 7, bias := 127, emax := 127, sp := .ieee }
def fB16 : Fmt := { eb := 5, fb := 10, bias := 15, emax := 15, sp := .ieee }
def fB32 : Fmt := { eb := 8, fb := 23, bias := 127, emax := 127, sp := .ieee }
def fE4M3 : Fmt := { eb := 4, fb := 3, bias := 7, emax := 8, sp := .oneNan }
def fE5M2 : Fmt := { eb := 5, fb := 2, bias := 15, emax := 15, sp := .ieee }
def fE2M1 : Fmt := { eb := 2, fb := 1, bias := 1, emax := 2, sp := .none }

/-- Width in bits. -/
def Fmt.width (f : Fmt) : Nat := 1 + f.eb + f.fb

/-- The largest finite magnitude's code. -/
def Fmt.maxCode (f : Fmt) : Nat :=
  match f.sp with
  | .ieee => (2 ^ f.eb - 1) * 2 ^ f.fb - 1
  | .oneNan => 2 ^ (f.eb + f.fb) - 2
  | .none => 2 ^ (f.eb + f.fb) - 1

/-- The code of infinity, in a format that has one. -/
def Fmt.infCode (f : Fmt) : Nat := (2 ^ f.eb - 1) * 2 ^ f.fb

/-- The canonical NaN (R246). -/
def Fmt.nanCode (f : Fmt) : Nat :=
  match f.sp with
  | .ieee => f.infCode + 2 ^ (f.fb - 1)
  | _ => 2 ^ (f.eb + f.fb) - 1

/-- The sign bit's weight. -/
def Fmt.signBit (f : Fmt) (neg : Bool) : Nat := if neg then 2 ^ (f.eb + f.fb) else 0

/-- The value of a code (Table 10-2). -/
def Fmt.decode (f : Fmt) (x : Nat) : Num :=
  let neg := x / 2 ^ (f.eb + f.fb) % 2 == 1
  let mag := x % 2 ^ (f.eb + f.fb)
  let e := mag / 2 ^ f.fb
  let k := mag % 2 ^ f.fb
  if f.sp = .ieee ∧ f.infCode ≤ mag then (if k = 0 then .inf neg else .nan)
  else if f.sp = .oneNan ∧ f.maxCode < mag then .nan
  else if e = 0 then .fin neg k (1 - (f.bias : Int) - f.fb)
  else .fin neg (2 ^ f.fb + k) ((e : Int) - f.bias - f.fb)

/-- Rounding modes (R247); a stochastic one carries its draw. -/
inductive Rnd where
  | even | zero | stoch (r : Nat)
  deriving DecidableEq, Repr

/-- floor(log2 n), for n ≥ 1. -/
def log2 (n : Nat) : Nat := Nat.log2 n

/-- m × 2^e cut at the rounding point 2^u: the kept integer, rounded by the mode (R247). -/
def roundAt (r : Rnd) (m : Nat) (e u : Int) : Nat :=
  if u ≤ e then m * 2 ^ (e - u).toNat
  else
    let sh := (u - e).toNat
    let q := m / 2 ^ sh
    let rem := m % 2 ^ sh
    match r with
    | .zero => q
    | .even => if 2 ^ sh < 2 * rem ∨ (2 * rem = 2 ^ sh ∧ q % 2 = 1) then q + 1 else q
    | .stoch d => if 65536 ≤ rem * 65536 / 2 ^ sh + d then q + 1 else q

/-- The magnitude code of m × 2^e as if the format had no end; above `maxCode` the value overflows. -/
def Fmt.roundCode (f : Fmt) (r : Rnd) (m : Nat) (e : Int) : Nat :=
  if m = 0 then 0
  else
    let top := max ((log2 m : Int) + e) (1 - f.bias)
    (top - 1 + f.bias).toNat * 2 ^ f.fb + roundAt r m e (top - f.fb)

/-- R248, Table 10-3: OVF is set where the mode in force, or `.even`, rounds above the largest finite value. -/
def Fmt.overflows (f : Fmt) (r : Rnd) (m : Nat) (e : Int) : Bool :=
  decide (f.maxCode < f.roundCode r m e) || decide (f.maxCode < f.roundCode .even m e)

/-- The code of ± m × 2^e, and its flags (R247, R248, Table 10-4). -/
def Fmt.packFin (f : Fmt) (r : Rnd) (neg : Bool) (m : Nat) (e : Int) : Nat × Nat :=
  let c := f.roundCode r m e
  let flag := if f.overflows r m e then 1 else 0
  let code :=
    if c ≤ f.maxCode then f.signBit neg + c
    else match f.sp with
      | .ieee => f.signBit neg + (if r = .zero then f.maxCode else f.infCode)
      | .oneNan => f.nanCode
      | .none => f.signBit neg + f.maxCode
  (code, flag)

/-- The result of an operation written in a format that has infinities: a NaN's flags are the operation's. -/
def Fmt.pack (f : Fmt) (r : Rnd) (x : Num) : Nat × Nat :=
  match x with
  | .nan => (f.nanCode, 0)
  | .inf neg => (f.signBit neg + f.infCode, 0)
  | .fin neg m e => f.packFin r neg m e

/-- A conversion to a floating-point format (Table 10-4); of E2M1, whose NaN and Inf inputs turn the block's scale to
0xFF, the code is then the caller's. -/
def Fmt.convert (f : Fmt) (r : Rnd) (x : Num) : Nat × Nat :=
  match x with
  | .nan => (f.nanCode, 2)
  | .inf neg => match f.sp with
    | .ieee => (f.signBit neg + f.infCode, 0)
    | _ => (f.nanCode, 4)
  | .fin neg m e => f.packFin r neg m e

/-- A two's-complement code of `w` bits. -/
def intCode (w : Nat) (v : Int) : Nat := (BitVec.ofInt w v).toNat

/-- A conversion to INT8 or INT4 (Table 10-4). -/
def toInteger (w : Nat) (r : Rnd) (x : Num) : Nat × Nat :=
  let hi : Int := 2 ^ (w - 1) - 1
  let lo : Int := -(2 ^ (w - 1))
  let val := fun (neg : Bool) (r : Rnd) (m : Nat) (e : Int) =>
    let q : Int := roundAt r m e 0
    if neg then -q else q
  let out := fun v : Int => decide (v < lo) || decide (hi < v)
  match x with
  | .nan => (0, 4)
  | .inf neg => (intCode w (if neg then lo else hi), 4)
  | .fin neg m e =>
    let v := val neg r m e
    (intCode w (max lo (min hi v)), if out v || out (val neg .even m e) then 1 else 0)

/-- The element formats of CONVERT (Table 7-7): D16, binary16, binary32, INT8, INT4, E4M3, E5M2, E2M1. -/
def fmtOf (c : Nat) : Option Fmt :=
  match c with
  | 0 => some fD16 | 1 => some fB16 | 2 => some fB32 | 5 => some fE4M3 | 6 => some fE5M2 | 7 => some fE2M1
  | _ => none

/-- Width of an element format in bits. -/
def fmtBits (c : Nat) : Nat :=
  match c with
  | 0 | 1 => 16 | 2 => 32 | 3 | 5 | 6 => 8 | _ => 4

/-- The element format is MX. -/
def isMx (c : Nat) : Bool := c == 5 || c == 6 || c == 7

/-- A value times 2^x. -/
def Num.scale (x : Int) : Num → Num
  | .fin neg m e => .fin neg m (e + x)
  | y => y

/-- The value of an element code under its block's scale byte; only MX formats have one (R245). -/
def elemValue (c code scale : Nat) : Num :=
  if isMx c ∧ scale = 255 then .nan
  else
    match fmtOf c with
    | some f => (f.decode code).scale (if isMx c then (scale : Int) - 127 else 0)
    | none =>
      let v := (BitVec.ofNat (fmtBits c) code).toInt
      .fin (decide (v < 0)) v.natAbs 0

/-- The code of a value in an element format with scale exponent `x`, its flags, and whether the block's scale becomes
0xFF (R253, Table 10-4). -/
def elemCode (c : Nat) (r : Rnd) (x : Int) (v : Num) : Nat × Nat × Bool :=
  match fmtOf c with
  | some f =>
    let (code, fl) := f.convert r (v.scale (if isMx c then -x else 0))
    (code, fl, f.sp == .none && (match v with | .fin _ _ _ => false | _ => true))
  | none =>
    let (code, fl) := toInteger (fmtBits c) r v
    (code, fl, false)

/-- R249: the stochastic draw. -/
def srDraw (seed : DWord) (block thread n : Nat) : Nat :=
  let z : BitVec 64 := seed ^^^ (BitVec.ofNat 64 (block % 2 ^ 32 * 2 ^ 32 + thread % 2 ^ 32) * 0x9E3779B97F4A7C15)
  let z := z + BitVec.ofNat 64 (n % 2 ^ 32) * 0xBF58476D1CE4E5B9
  let z := (z ^^^ (z >>> 30)) * 0xBF58476D1CE4E5B9
  let z := (z ^^^ (z >>> 27)) * 0x94D049BB133111EB
  let z := z ^^^ (z >>> 31)
  (z >>> 48).toNat

/-- A finite value: it is counted by AMAX, and drawn for under `.stoch`. -/
def Num.finite : Num → Bool
  | .fin _ _ _ => true
  | _ => false

/-- The binary32 magnitude of a finite value; none where binary32 cannot hold it, which the spec leaves unstated. -/
def Num.mag32 : Num → Option Nat
  | .fin _ m e => if fB32.maxCode < fB32.roundCode .even m e then none else some (fB32.roundCode .even m e)
  | _ => none

/-- R253: floor(log2 S) of a binary32 magnitude code S ≠ 0. -/
def log2Code (s : Nat) : Int :=
  if s < 2 ^ 23 then (log2 s : Int) - 149 else (s / 2 ^ 23 : Nat) - 127

/-- R253: the scale exponent of a stream whose snapshot is `s`, for element format `c`. -/
def autoExp (c s : Nat) : Int :=
  match fmtOf c with
  | some f => if s = 0 then 0 else max (-127) (min 127 (log2Code s - f.emax))
  | none => 0

/-- A signed significand at an exponent. -/
def Num.signed (neg : Bool) (m : Nat) : Int := if neg then -(m : Int) else m

/-- The exact sum of finite terms, each (significand, exponent), over the least exponent. -/
def exactSum (l : List (Int × Int)) : Int × Int :=
  let lo := l.foldl (fun a t => min a t.2) (match l with | [] => 0 | t :: _ => t.2)
  ((l.map fun t => t.1 * 2 ^ (t.2 - lo).toNat).sum, lo)

/-- Product of two values, and INV for Inf × 0 (R256). -/
def Num.mul : Num → Num → Num × Nat
  | .nan, _ => (.nan, 2)
  | _, .nan => (.nan, 2)
  | .inf a, .inf b => (.inf (a != b), 0)
  | .inf a, .fin b m _ => if m = 0 then (.nan, 4) else (.inf (a != b), 0)
  | .fin a m _, .inf b => if m = 0 then (.nan, 4) else (.inf (a != b), 0)
  | .fin a m e, .fin b n f => (.fin (a != b) (m * n) (e + f), 0)

/-- A term is a NaN. -/
def Num.isNan : Num → Bool
  | .nan => true
  | _ => false
/-- A term is an infinity of this sign. -/
def Num.isInf (neg : Bool) : Num → Bool
  | .inf s => s == neg
  | _ => false

/-- The exact sum of terms, each with its flags, under R256; a zero sum is negative only where every term is a negative
zero. -/
def sumTerms (l : List (Num × Nat)) : Num × Nat :=
  let fl := l.foldl (fun a t => a ||| t.2) 0
  if l.any fun t => t.1.isNan then (.nan, fl)
  else if (l.any fun t => t.1.isInf false) && (l.any fun t => t.1.isInf true) then (.nan, 4 ||| fl)
  else if l.any fun t => t.1.isInf false then (.inf false, fl)
  else if l.any fun t => t.1.isInf true then (.inf true, fl)
  else
    let fs := l.filterMap fun t => match t.1 with | .fin s m e => some (Num.signed s m, e) | _ => none
    let (v, e) := exactSum fs
    let neg := if v = 0 then l.all fun t => match t.1 with | .fin s m _ => s && m == 0 | _ => false else decide (v < 0)
    (.fin neg v.natAbs e, fl)

/-- A value as a term: a NaN operand sets NAN (R256). -/
def Num.term (x : Num) : Num × Nat := (x, if x.isNan then 2 else 0)

/-- The integer square root of `n` by bits from `2^k` down. -/
def isqrt (n : Nat) : Nat → Nat → Nat
  | 0, r => if (r + 1) * (r + 1) ≤ n then r + 1 else r
  | k + 1, r => isqrt n k (if (r + 2 ^ (k + 1)) * (r + 2 ^ (k + 1)) ≤ n then r + 2 ^ (k + 1) else r)

/-- A value that rounds as the square root of m × 2^e does: 40 or more bits of it, and a sticky bit (Table 10-5). -/
def sqrtFin (m : Nat) (e : Int) : Nat × Int :=
  let (m, e) := if e % 2 = 0 then (m, e) else (2 * m, e - 1)
  let n := m * 2 ^ 80
  let r := isqrt n 64 0
  (2 * r + (if r * r = n then 0 else 1), e / 2 - 41)

end Sys2Proof
end

