-- ==== Sys2Proof/Machine/MoverOps.lean ====
section
/-! DEFINITION. What the movers do: stores by a mover, AMAX registers, conversions of elements, and the pieces of packets
(R166, R183, R227, R228, R245, R252, R253, R260). -/

namespace Sys2Proof.Machine

open Sys2Proof

/-- A near-cache entry after a store of bytes from `va` (R294, R316): the bytes that lie in it, poisoned ones marking their
unit. -/
def NearLine.takeStore (va : Nat) (l : List (Byte × Bool)) (e : NearLine) : NearLine :=
  let base := e.line * 512
  let lo := max va base
  let hi := min (va + l.length) (base + 512)
  if hi ≤ lo then e
  else
    let part := (l.drop (lo - va)).take (hi - lo)
    let n := e.merge (lo - base) (part.map Prod.fst)
    { n with poison := part.zipIdx.foldl (fun p x => if x.1.2 then setBit p ((lo - base + x.2) / 64) else p) n.poison }

/-- Stores of any requester of a core meet its near cache (R294, R329). -/
def State.nearStoreAll (core c va : Nat) (l : List (Byte × Bool)) (lighter : Bool) (s : State) : State :=
  s.onMem fun m =>
    { m with
      near := m.near.filterMap fun e =>
        if e.1 / 64 = core ∧ e.2.ctx = c ∧ va < (e.2.line + 1) * 512 ∧ e.2.line * 512 < va + l.length then
          if lighter then none else some (e.1, e.2.takeStore va l)
        else some e }

/-- A mover's store of an access whose faults have been checked (R227, R294). -/
def State.moverWrite (core c va : Nat) (l : List (Byte × Bool)) (s : State) : State :=
  (s.pieces c va l.length).1.foldl (fun t x =>
    let part := (l.drop (x.va - va)).take x.len
    (t.nearStoreAll core c x.va part x.m.lighter).writePiece (partOfKey c) x part) s

/-- An AMAX register of a context. -/
def State.amax (s : State) (c a : Nat) : Amax := (s.ctx c).amax.look a {}

/-- A stream opens an AMAX register (R252). -/
def State.openStream (c a : Nat) (s : State) : State :=
  s.onCtx c fun x => { x with amax := x.amax.upd a {} fun r =>
    if r.streams = 0 then { value := 0, snap := r.value, streams := 1 } else { r with streams := r.streams + 1 } }

/-- A source value raises an AMAX register: the larger magnitude stays. `none` is a magnitude that binary32 does not hold,
for which the spec states no result: a free value (log 7). -/
def State.raiseAmax (c a : Nat) (m : Option Nat) (s : State) : State :=
  match m with
  | some v => s.onCtx c fun x => { x with amax := x.amax.upd a {} fun r => { r with value := BitVec.ofNat 32 (max r.value.toNat v) } }
  | none =>
    let (v, t) := s.fresh
    t.onCtx c fun x => { x with amax := x.amax.upd a {} fun r => { r with value := v.setWidth 32 } }

/-- One element of a conversion: its value and whether its source is poisoned; its code, flags, and whether the block's
scale becomes 0xFF. -/
structure ConvElem where
  v : Num
  bad : Bool
  code : Nat
  flags : Nat
  spoil : Bool

/-- What a CONVERT asks for (Table 7-7). -/
structure ConvReq where
  count : Nat
  src : Nat
  dst : Nat
  round : Nat
  seed : DWord
  x : Int

/-- The rounding of element `e` of a CONVERT (R250). -/
def ConvReq.rnd (r : ConvReq) (e : Nat) : Rnd :=
  if r.round = 0 then .even else if r.round = 1 then .zero else .stoch (srDraw r.seed (e / 2 ^ 32) (e % 2 ^ 32) 0)

/-- Element `i` of packed bytes, `w` bits wide, and whether a byte of it is poisoned (R245). -/
def packedAt (l : List (Byte × Bool)) (w i : Nat) : Nat × Bool :=
  let n := max 1 (w / 8)
  let bs := (l.drop (i * w / 8)).take n
  (ofLe (bs.map Prod.fst) / (if w = 4 ∧ i % 2 = 1 then 16 else 1) % 2 ^ w, bs.any Prod.snd)

/-- The conversion of element `off + i`, `i` being its place in the piece's bytes and `scales` the piece's scale bytes. -/
def ConvReq.elem (r : ConvReq) (off : Nat) (bytes scales : List (Byte × Bool)) (i : Nat) : ConvElem :=
  let (code, bad) := packedAt bytes (fmtBits r.src) i
  let (sc, sbad) := match scales[i / 32]? with | some b => (b.1.toNat, b.2) | none => (127, false)
  let v := elemValue r.src code sc
  let (c, fl, sp) := elemCode r.dst (r.rnd (off + i)) r.x v
  { v := v, bad := bad || sbad, code := c, flags := fl, spoil := sp }

/-- Element codes packed into bytes (R245), a byte poisoned where an element of it is; a lone low half keeps `tail`'s upper
half. -/
def packBytes (w : Nat) (tail : Byte) : List (Nat × Bool) → List (Byte × Bool)
  | [] => []
  | [(a, p)] => if w = 4 then [(BitVec.ofNat 8 (a % 16 + tail.toNat / 16 * 16), p)] else (toLe (w / 8) a).map fun b => (b, p)
  | (a, p) :: (b, q) :: r =>
    if w = 4 then (BitVec.ofNat 8 (a % 16 + b % 16 * 16), p || q) :: packBytes w tail r
    else (toLe (w / 8) a).map (fun x => (x, p)) ++ (toLe (w / 8) b).map (fun x => (x, q)) ++ packBytes w tail r

/-- A packet that runs on movers. -/
def State.movPkt (s : State) (pid : Nat) : Option MovPkt := s.work.mov.find? fun m => m.pid == pid

/-- The update of one. -/
def State.onMov (pid : Nat) (f : MovPkt → MovPkt) (s : State) : State :=
  s.onWork fun w => { w with mov := w.mov.map fun m => if m.pid = pid then f m else m }

/-- Units of a piece of up to 2 MiB of source (R228): bytes for COPY and FILL, elements for CONVERT and PACK, elements of
whole 48 B blocks for UNPACK. -/
def pieceUnits (p : Packet) : Nat :=
  match p.op with
  | 0x05 => 2097152 * 8 / fmtBits (p.f 48 1)
  | 0x06 => 1048576
  | 0x07 => 2097152 / 48 * 32
  | _ => 2097152

/-- LENGTH or COUNT of a packet that runs on movers (Table 7-6). -/
def moverTotal (p : Packet) : Nat := if p.op = 0x04 then p.f 32 8 else p.f 40 8

/-- R228: the packet's pieces go to movers. -/
def State.splitPacket (p : Packet) (scale : Nat) (s : State) : State :=
  let total := moverTotal p
  let u := pieceUnits p
  let n := (total + u - 1) / u
  let t := s.onWork fun w => { w with mov := w.mov ++ [{ pid := p.pid, left := n, scale := scale }] }
  (List.range n).foldl (fun t i => t.givePiece p.part (.piece p.pid (i * u) (min u (total - i * u)))) t

/-- The least of the offsets met. -/
def minOpt (a b : Option Nat) : Option Nat :=
  match a, b with
  | some x, some y => some (min x y)
  | some x, none => some x
  | none, y => y

/-- A piece has done its work: units, flushed elements, flags, the first poisoned offset, the first failing block. -/
def State.pieceDone (pid work flushed flags : Nat) (lost : Option Nat) (s : State) (failed : Option Nat := none) : State :=
  s.onMov pid fun m => { m with left := m.left - 1, work := m.work + work, flushed := m.flushed + flushed,
                                flags := m.flags ||| flags, lost := minOpt m.lost lost, failed := minOpt m.failed failed }

/-- DETAIL of a packet that completes LOST (R183, Table 7-6): the offset of the first poisoned source byte, saturated, or the
index of the first failing block, whichever comes first in the source (log 94). -/
def MovPkt.lostAt (m : MovPkt) : Option Nat :=
  match m.lost, m.failed with
  | some k, some b => some (if k / 48 ≤ b then min k 0xFFFFFFFF else b)
  | some k, none => some (min k 0xFFFFFFFF)
  | none, b => b

/-- A COPY piece (Table 7-6, R183, R332). -/
def State.copyPiece (core : Nat) (p : Packet) (off n : Nat) (host : HostMem) (s : State) : State :=
  let c := p.ctxKey.getD 0
  let src := p.f 24 8 + off
  let s := s.meetLighter c src n (s.tagOf p.pid)
  let data := s.readVa c src n host.bytes
  (s.moverWrite core c (p.f 32 8 + off) data).pieceDone p.pid n 0 0 ((firstPoison data).map (off + ·))

/-- A FILL piece: PATTERN repeated from DST (Table 7-6). -/
def State.fillPiece (core : Nat) (p : Packet) (off n : Nat) (s : State) : State :=
  let c := p.ctxKey.getD 0
  let sz := max 1 (p.f 48 1)
  let data := (List.range n).map fun i => (BitVec.ofNat 8 (p.f (40 + (off + i) % sz) 1), false)
  (s.moverWrite core c (p.f 24 8 + off) data).pieceDone p.pid n 0 0 none

/-- What a CONVERT packet asks for, with the scale byte in use. -/
def convReq (p : Packet) (scale : Nat) : ConvReq :=
  { count := p.f 40 8, src := p.f 48 1, dst := p.f 49 1, round := p.f 50 1, seed := BitVec.ofNat 64 (p.f 56 8)
    x := (scale : Int) - 127 }

/-- Scale bytes of the destination blocks of a piece: 0xFF where an element of an E2M1 block was NaN or Inf; poisoned
where an element was (R183, R253, Table 10-4). -/
def scaleBytes (scale : Nat) (es : List ConvElem) : List (Byte × Bool) :=
  (List.range (es.length / 32)).map fun b =>
    let l := (es.drop (32 * b)).take 32
    (if l.any fun e => e.spoil && !e.bad then 0xFF else BitVec.ofNat 8 scale, l.any ConvElem.bad)

/-- A CONVERT piece (R245 to R253, R183). -/
def State.convertPiece (core : Nat) (p : Packet) (scale off n : Nat) (host : HostMem) (s : State) : State :=
  let c := p.ctxKey.getD 0
  let r := convReq p scale
  let ws := fmtBits r.src
  let wd := fmtBits r.dst
  let sa := p.f 24 8 + off * ws / 8
  let sn := (n * ws + 7) / 8
  let ss := p.f 24 8 + r.count * ws / 8 + off / 32
  let da := p.f 32 8 + off * wd / 8
  let ds := p.f 32 8 + r.count * wd / 8 + off / 32
  let s := s.meetLighter c sa sn (s.tagOf p.pid)
  let bytes := s.readVa c sa sn host.bytes
  let scales := if isMx r.src then s.readVa c ss (n / 32) (host.bytes.drop sn) else []
  let es := (List.range n).map (r.elem off bytes scales)
  let old := ((s.readVa c (da + n * wd / 8) 1 (host.bytes.drop (sn + scales.length))).headD (0, false)).1
  -- the code of an E2M1 element whose block's scale is 0xFF is not stated: a free value (log 7)
  let (z, s) := if es.any ConvElem.spoil then s.fresh else (0, s)
  let codes := es.zipIdx.map fun e => (if e.1.spoil then (z.toNat / 2 ^ (4 * (e.2 % 16))) % 16 else e.1.code, e.1.bad)
  let s := s.moverWrite core c da (packBytes wd old codes)
  let s := if isMx r.dst then s.moverWrite core c ds (scaleBytes scale es) else s
  let good := es.filter fun e => !e.bad
  let s := (good.filter fun e => e.v.finite).foldl (fun t e => t.raiseAmax c (p.f 53 1) e.v.mag32) s
  let eltLost := (firstPoison bytes).map (off * ws / 8 + ·)
  let sclLost := (firstPoison scales).map (r.count * ws / 8 + off / 32 + ·)
  s.pieceDone p.pid n 0 (good.foldl (fun a e => a ||| e.flags) 0) (minOpt eltLost sclLost)

/-- A PACK piece (R322, R332, R183). -/
def State.packPiece (core : Nat) (p : Packet) (off n : Nat) (host : HostMem) (s : State) : State :=
  let c := p.ctxKey.getD 0
  let src := p.f 24 8 + off * 2
  let s := s.meetLighter c src (n * 2) (s.tagOf p.pid)
  let data := s.readVa c src (n * 2) host.bytes
  let blocks := (List.range (n / 32)).map fun b => (data.drop (64 * b)).take 64
  let out := (blocks.map fun b => (ltEncode (b.map Prod.fst)).map fun x => (x, b.any Prod.snd)).flatten
  let flushed := (blocks.map fun b => if b.any Prod.snd then 0 else ltFlushed (b.map Prod.fst)).sum
  (s.moverWrite core c (p.f 32 8 + off / 32 * 48) out).pieceDone p.pid n flushed 0
    ((firstPoison data).map (off * 2 + ·))

/-- An UNPACK piece (R323, R332, R6): a failing block poisons its 64 B. -/
def State.unpackPiece (core : Nat) (p : Packet) (off n : Nat) (host : HostMem) (s : State) : State :=
  let c := p.ctxKey.getD 0
  let src := p.f 24 8 + off / 32 * 48
  let s := s.settleLighter c src (n / 32 * 48)
  let data := s.readVa c src (n / 32 * 48) host.bytes
  let blocks := (List.range (n / 32)).map fun b => (data.drop (48 * b)).take 48
  let dec := blocks.map fun b => if b.any Prod.snd then none else ltDecode (b.map Prod.fst)
  let out := (dec.map fun d => match d with
    | some l => l.map fun b => (b, false)
    | none => List.replicate 64 ((0 : Byte), true)).flatten
  let s := (blocks.zipIdx.filter fun b => !ltOk (b.1.map Prod.fst) && !(b.1.any Prod.snd)).foldl (fun t b =>
    t.logOcc { event := 0x304, sev := 2, part := some p.part, tag := p.tag, addr := BitVec.ofNat 64 (t.dpaOf c (src + b.2 * 48)) }) s
  let bad := (blocks.zipIdx.find? fun b => !ltOk (b.1.map Prod.fst) && !(b.1.any Prod.snd)).map fun b => off / 32 + b.2
  (s.moverWrite core c (p.f 32 8 + off * 2) out).pieceDone p.pid (dec.filter Option.isSome).length 0 0
    ((firstPoison data).map (off / 32 * 48 + ·)) bad

/-- The ranges a piece reads and writes: (VA, bytes, need). -/
def pieceRanges (p : Packet) (off n : Nat) : List (Nat × Nat × Need) :=
  let ws := fmtBits (p.f 48 1)
  let wd := fmtBits (p.f 49 1)
  match p.op with
  | 0x03 => [(p.f 24 8 + off, n, .read), (p.f 32 8 + off, n, .write)]
  | 0x04 => [(p.f 24 8 + off, n, .write)]
  | 0x05 =>
    [(p.f 24 8 + off * ws / 8, (n * ws + 7) / 8, .read)] ++
    (if isMx (p.f 48 1) then [(p.f 24 8 + p.f 40 8 * ws / 8 + off / 32, n / 32, .read)] else []) ++
    [(p.f 32 8 + off * wd / 8, (n * wd + 7) / 8, .write)] ++
    (if isMx (p.f 49 1) then [(p.f 32 8 + p.f 40 8 * wd / 8 + off / 32, n / 32, .write)] else [])
  | 0x06 => [(p.f 24 8 + off * 2, n * 2, .read), (p.f 32 8 + off / 32 * 48, n / 32 * 48, .write)]
  | 0x07 => [(p.f 24 8 + off / 32 * 48, n / 32 * 48, .read), (p.f 32 8 + off * 2, n * 2, .write)]
  | _ => []

/-- The fault a piece meets (R183). -/
def State.pieceFault (s : State) (p : Packet) (off n : Nat) (refused : Bool) : Option (Nat × Nat) :=
  (pieceRanges p off n).findSome? fun r => s.accessFault (p.ctxKey.getD 0) r.1 r.2.1 r.2.2 refused

/-- RESULT of a packet that ran on movers (Table 7-6). -/
def State.moverResult (s : State) (p : Packet) (m : MovPkt) : Nat :=
  match p.op with
  | 0x05 => (s.amax (p.ctxKey.getD 0) (p.f 53 1)).value.toNat + m.scale * 2 ^ 32
  | 0x06 => m.flushed
  | _ => m.work

/-- The packet completes with its last piece (R162, R183, R228). -/
def State.moverEnd (p : Packet) (s : State) : State :=
  match s.movPkt p.pid with
  | none => s
  | some m =>
    if m.left ≠ 0 then s
    else
      let r := s.moverResult p m
      let t := s.dropWork p.pid
      match m.lostAt with
      | some k => t.finish p.pid stLost r k
      | none => t.finish p.pid (flagStatus m.flags) r m.flags

/-- A piece of a packet is carried out. -/
def State.runPiece (core pid off n : Nat) (host : HostMem) (s : State) : State :=
  match s.inflight pid, s.movPkt pid with
  | some i, some m =>
    let p := i.pkt
    match s.pieceFault p off n host.refused with
    | some (code, a) => (s.dropWork pid).accessPacketFault pid (p.ctxKey.getD 0) code a
    | none =>
      let s := ((pieceRanges p off n).filter fun r => r.2.2 == .read).foldl (fun t r => t.meetEccVa (p.ctxKey.getD 0) r.1 r.2.1 host.ecc) s
      let t := match p.op with
        | 0x03 => s.copyPiece core p off n host
        | 0x04 => s.fillPiece core p off n
        | 0x05 => s.convertPiece core p m.scale off n host
        | 0x06 => s.packPiece core p off n host
        | _ => s.unpackPiece core p off n host
      t.moverEnd p
  | _, _ => s

end Sys2Proof.Machine
end

