-- ==== Sys2Proof/Machine/KernelOps.lean ====
section
/-! DEFINITION. What every kernel instruction goes through: issue, operand checks and their fault codes, registers and
flags, and the adds a gang has in flight (R210, R229, R230, R249, R259, R307, R309, R356, R357, R360). -/

namespace Sys2Proof.Machine

open Sys2Proof

/-- One check of an instruction: that it holds, and the fault code and address if not (Table 9-4). -/
abbrev Check := Bool × Nat × Nat

/-- The first check that fails: fault code and address. -/
def firstFault : List Check → Option (Nat × Nat)
  | [] => none
  | (ok, e) :: r => if ok then firstFault r else some e

/-- An instruction of gang `g` whose checks are `checks`: it meets the first fault, or has its effect. -/
def State.instr (g : Nat) (checks : State → List Check) (f : State → State) (s : State) : State :=
  s.issue g fun s =>
    match firstFault (checks s) with
    | some (code, a) => (s.noteRefusal (s.launchOf g).ctx code a (some (gCore g)) (s.gangTag g)).gangFault g code (BitVec.ofNat 64 a)
    | none => f s

/-- `n` `v` registers from `r` exist (REG_RANGE). -/
def State.vOk (s : State) (g r n : Nat) : Check := (decide (r + n ≤ 8 * (s.launchOf g).regs), 2, 0)

/-- `n` `u` registers from `r` exist; another number is no encoding (R210, ILLEGAL_INSTR). -/
def uOk (r n : Nat) : Check := (decide (r + n ≤ 64), 1, 0)

/-- A predicate register exists (log 50). -/
def pOk (r : Nat) : Check := (decide (r < 8), 1, 0)

/-- A register pair of a uniform instruction (Table 14-2). -/
def pairUOk (r : Nat) : Check := (evenU r, 1, 0)

/-- A tile exists (R229, ACC_RANGE). -/
def State.tileOk (s : State) (g t : Nat) : Check := (decide (t < (s.launchOf g).acc), 0x12, 0)

/-- An offset is aligned (MISALIGNED). -/
def alignOk (a n : Nat) : Check := (a % max 1 n == 0, 3, a)

/-- A range lies in local memory (LOCAL_RANGE). -/
def State.localOk (s : State) (g off n : Nat) : Check := (decide (off + n ≤ (s.launchOf g).locSize), 6, off)

/-- A range of the block's local memory is free of poison (POISON). -/
def State.localClean (s : State) (g off n : Nat) : Check :=
  (!((s.localRead (s.gang g).block off n).any Prod.snd), 0xC, off)

/-- Flags are set (R259): OVF 1, NAN 2, INV 4. -/
def Gang.flag (f : Nat) (x : Gang) : Gang :=
  { x with ovf := x.ovf || f.testBit 0, nan := x.nan || f.testBit 1, inv := x.inv || f.testBit 2 }

/-- The sticky flags as `flg.rd` gives them, with STALE_CAL at bit 3 (Table 7-4). -/
def Gang.flags (x : Gang) : Nat := b2n x.ovf + 2 * b2n x.nan + 4 * b2n x.inv + 8 * b2n x.staleCal

/-- A value of `w` bits is written to a lane's register; the spec states nothing of the bits above (log 7). -/
def State.putNarrow (g r lane w code : Nat) (s : State) : State :=
  if 32 ≤ w then s.onGang g (Gang.setV r lane (BitVec.ofNat 32 code))
  else
    let (z, t) := s.fresh
    t.onGang g (Gang.setV r lane (BitVec.ofNat 32 (code % 2 ^ w + z.toNat * 2 ^ w)))

/-- R249: the stochastic draw of a lane at its present count. -/
def State.drawOf (s : State) (g lane : Nat) : Nat :=
  let x := s.gang g
  srDraw (s.launchOf g).seed (s.blk x.block).index (x.index * 32 + lane) (x.draws.look lane 0)

/-- The rounding of one element of a lane. -/
def State.rnd (s : State) (g lane : Nat) (r : RMode) : Rnd :=
  match r with | .even => .even | .zero => .zero | .stoch => .stoch (s.drawOf g lane)

/-- A lane has rounded a finite element under the mode: a draw is counted (R249). -/
def State.drew (g lane : Nat) (r : RMode) (finite : Bool) (s : State) : State :=
  if r = .stoch ∧ finite then s.onGang g fun x => { x with draws := x.draws.upd lane 0 (· + 1) } else s

/-- The low bits of a lane's register. -/
def Gang.low (x : Gang) (r lane w : Nat) : Nat := (x.vReg r lane).toNat % 2 ^ w

/-- The VA in a lane's register pair, low word first (log 50). -/
def Gang.va (x : Gang) (r lane : Nat) : Nat := (x.vReg r lane).toNat + (x.vReg (r + 1) lane).toNat * 2 ^ 32

/-- A lane's value of `n` bytes, from its register or pair. -/
def Gang.data (x : Gang) (r lane n : Nat) : List Byte := toLe n (x.va r lane)

/-- R360: a binary32 addend joins a slot: an integer sum modulo 2^176, truncated to the window. -/
def Slot.add (x : Num) (t : Slot) : Slot :=
  match x with
  | .nan => { t with nan := true }
  | .inf true => { t with ninf := true }
  | .inf false => { t with pinf := true }
  | .fin neg m e =>
    if m = 0 then t
    else if t.w + 175 ≤ (log2 m : Int) + e then { t with range := true }
    else
      let q := roundAt .zero m e t.w
      let exact := decide (t.w ≤ e) || q * 2 ^ (t.w - e).toNat == m
      { t with s := t.s + BitVec.ofInt 176 (if neg then -(q : Int) else q), inexact := t.inexact || !exact }

/-- R364: the partial of a deferral entry joins its slot as one addend, its flags with it. -/
def Slot.join (p t : Slot) : Slot :=
  let v := p.s.toInt
  let u := t.add (.fin (decide (v < 0)) v.natAbs p.w)
  { u with inexact := u.inexact || p.inexact, pinf := u.pinf || p.pinf, ninf := u.ninf || p.ninf, nan := u.nan || p.nan
           range := u.range || p.range }

/-- An exact slot. -/
def State.slotAt (s : State) (i : Nat) : Slot := s.red.slot.look i {}

/-- A slot is changed; a poisoned one discards adds (R376). -/
def State.slotAdd (i : Nat) (f : Slot → Slot) (s : State) : State :=
  if (s.slotAt i).poisoned then s else s.onRed fun r => { r with slot := r.slot.upd i {} f }

/-- R356: one memory-side add to an element of plain memory: integers wrap, `f32` rounds once by `.even`. An element that
is poisoned stays so. -/
def redValue (f : RedFmt) (old add : Nat) : Nat :=
  match f with
  | .i32 => (old + add) % 2 ^ 32
  | .i64 => (old + add) % 2 ^ 64
  | _ => (fB32.pack .even (sumTerms [(fB32.decode (old % 2 ^ 32)).term, (fB32.decode (add % 2 ^ 32)).term]).1).1

/-- Bytes of an element. -/
def RedFmt.bytes : RedFmt → Nat
  | .i64 => 8
  | _ => 4

/-- A reduction unit applies an add (R356, R360, R376). -/
def State.applyAdd (f : RedFmt) (key : Nat) (v : DWord) (s : State) : State :=
  if f = .xs then s.slotAdd key fun t => t.add (fB32.decode (v.toNat % 2 ^ 32))
  else
    let n := f.bytes
    if s.mem.poisoned key n then s
    else s.onMem fun m => { m with bytes := memWrite m.bytes key (toLe n (redValue f (ofLe (m.read key n)) v.toNat)) }

/-- Adds in flight are applied in order until none of those that satisfy `p` is left; `k` bounds their number. -/
def State.applyUntil (p : RedAdd → Bool) : Nat → State → State
  | 0, s => s
  | k + 1, s =>
    if s.red.inflight.any p then
      match s.red.inflight with
      | [] => s
      | a :: r => State.applyUntil p k ((s.onRed fun x => { x with inflight := r }).applyAdd a.fmt a.dpa a.value)
    else s

/-- Every add that a gang has sent is applied (R307, R309, R357). -/
def State.flushAdds (g : Nat) (s : State) : State := s.applyUntil (fun a => a.gang == g) s.red.inflight.length

/-- Stores of a context to lighter blocks that are on their way are applied (R308, R328). -/
def State.flushStores (c : Nat) (s : State) : State :=
  let mine := s.mem.rmw.filter fun w => w.ctx == c
  mine.foldl (fun t w => t.flushBlock w.dpa) s

/-- The release of a gang: its earlier stores and adds have been applied (R309, R357). -/
def State.release (g : Nat) (s : State) : State := (s.flushAdds g).flushStores (s.launchOf g).ctx

end Sys2Proof.Machine
end

