-- ==== Sys2Proof/Machine/ReduceOps.lean ====
section
/-! DEFINITION. Memory-side adds, the deferral buffer, and the commits that a ledger home applies (ch. 15). -/

namespace Sys2Proof.Machine

open Sys2Proof

/-- What the reduction unit sees of a type: signed and unsigned integers wrap alike (R356). -/
def addFmt (t : AddTy) : RedFmt :=
  match t with
  | .u32 | .s32 => .i32
  | .u64 | .s64 => .i64
  | .f32 => .f32

/-- An element that an add may name: aligned, mapped and writable, in HBM or the deck, NORMAL or STREAM, not LIGHTER
(R331, R356). -/
def State.addOk (s : State) (g va n : Nat) : List Check :=
  let c := (s.launchOf g).ctx
  let plain := match s.mapAt c va with
    | some m => m.attr != 2 && !m.lighter && (match m.target with | .dev _ => true | .host _ => false)
    | none => true
  [alignOk va n, (plain, 5, va), match s.coreFault (gCore g) c va n .write false with
    | some (code, a) => (false, code, a)
    | none => (true, 0, 0)]

/-- A slot of a slice that the gang's partition owns (R359). -/
def State.slotOk (s : State) (g i : Nat) : Check :=
  (decide (i < 262144) && s.owns (s.launchOf g).part (i / 8192), 0xB, i)

/-- An add is on its way to its reduction unit (R356); the core's near cache drops what covers the element (R357). -/
def State.sendAdd (g : Nat) (f : RedFmt) (key : Nat) (v : DWord) (s : State) : State :=
  s.onRed fun r => { r with inflight := r.inflight ++ [{ fmt := f, dpa := key, value := v, part := (s.launchOf g).part, gang := g }] }

/-- R357: the near-cache entries of a context on one core that cover an element go. -/
def State.nearDropAt (core c va : Nat) (s : State) : State :=
  s.onMem fun m => { m with near := m.near.filter fun e => !(e.1 / 64 == core && e.2.ctx == c && e.2.line == va / 512) }

/-- One lane's immediate `mem.add` (R356, R357, R371). -/
def State.addNow (g : Nat) (f : RedFmt) (va : Nat) (v : DWord) (s : State) : State :=
  let c := (s.launchOf g).ctx
  ((s.nearDropAt (gCore g) c va).sendAdd g f (s.dpaOf c va) v).loseStatus g

/-- One lane's immediate `xs.add` (R360, R371). -/
def State.xsNow (g i : Nat) (v : Word) (s : State) : State := (s.sendAdd g .xs i (v.setWidth 64)).loseStatus g

/-- The block of a gang. -/
def State.blockOf (s : State) (g : Nat) : Nat := (s.gang g).block

/-- R365: a block commits early: its entries leave as a commit, and its launch loses its status. -/
def State.commitEarly (g : Nat) (s : State) : State :=
  let key := s.blockOf g
  let b := s.blk key
  let l := s.launch b.launch
  let e := (s.coreAt b.core).dfr.filter fun e => e.block == key
  let c : Commit :=
    { launch := b.launch, part := l.part, ctx := l.ctx, core := b.core, block := key, index := b.index, entries := e
      early := true, flags := 0 }
  let t := s.onRed fun r => { r with commits := r.commits ++ [c] }
  (t.onBlk key fun b => { b with early := true }).loseStatus g

/-- A deferred operation joins the block's entry of its key, or takes a free one; none where all 256 are in use (R364). -/
def State.deferEntry (g : Nat) (kind : DfrKind) (key : Nat) (f : DfrEntry → DfrEntry) (first : DfrEntry) (s : State) : Option State :=
  let b := s.blockOf g
  let mine := fun e : DfrEntry => e.block == b && decide (e.kind = kind) && e.key == key
  let l := (s.coreAt (gCore g)).dfr
  if l.any mine then some (s.onCoreAt (gCore g) fun c => { c with dfr := l.map fun e => if mine e then f e else e })
  else if l.length < 256 then some (s.onCoreAt (gCore g) fun c => { c with dfr := l ++ [first] })
  else none

/-- R363, R365: an operation is deferred, or, once its block has committed early, applied at once. -/
def State.deferOr (g : Nat) (kind : DfrKind) (key : Nat) (f : DfrEntry → DfrEntry) (now : State → State) (s : State) : State :=
  if (s.blk (s.blockOf g)).early then now s
  else
    let first : DfrEntry := { block := s.blockOf g, kind := kind, key := key, value := 0, slot := {}, gangs := [] }
    match s.deferEntry g kind key f (f first) with
    | some t => t
    | none => now (s.commitEarly g)

/-- Operations of Table 15-2's second and third rows are deferred for this gang: its launch is marked REPLAYABLE and its
block has not committed early (R363, R365). -/
def State.defers (s : State) (g : Nat) : Bool := (s.launchOf g).replayable && !(s.blk (s.blockOf g)).early

/-- R364: a value joins the partial of an element. A first `f32` value is its own partial. -/
def DfrEntry.addValue (ty : AddTy) (fresh : Bool) (v : Nat) (e : DfrEntry) : DfrEntry :=
  if fresh then { e with value := BitVec.ofNat 64 v }
  else { e with value := BitVec.ofNat 64 (redValue (addFmt ty) e.value.toNat v) }

/-- The block has no entry of this key yet. -/
def State.newKey (s : State) (g : Nat) (kind : DfrKind) (key : Nat) : Bool :=
  !((s.coreAt (gCore g)).dfr.any fun e => e.block == s.blockOf g && decide (e.kind = kind) && e.key == key)

/-- The MSG_ID of a remote operation carried in a commit (R385). -/
def State.commitId (s : State) (c : Commit) (i : Nat) : DWord :=
  BitVec.ofNat 64 (s.myNum % 64 * 2 ^ 58 + 2 ^ 57 + c.launch % 2 ^ 17 * 2 ^ 40 + c.index % 2 ^ 32 * 2 ^ 8 + i % 2 ^ 8)

/-- A sync operation that a core sends without a gang waiting for it. -/
def coreOp (core part : Nat) (kind : SyncKind) (obj n : Nat) : SyncOp :=
  { kind := kind, obj := obj, amount := BitVec.ofNat 64 n, src := .core core, part := part, owned := false, deadline := none,
    uReg := 0, pReg := 8 }

/-- A remote add or post of a kernel leaves under a MSG_ID; toward a device that cannot be reached it is discarded and
logged (R340, R393). A word that names this device is applied here, if the partition owns the object. -/
def State.kernelRemote (core part word n : Nat) (id : DWord) (s : State) (tag : Word := 0) : State :=
  let dst := word / 2 ^ 24 % 64
  let obj := word % 2 ^ 18
  let refused := s.logOcc { event := 0xA04, sev := 2, part := some part, tag := tag, addr := BitVec.ofNat 64 word }
  if s.fleet.devNum = some dst then
    if s.owns part (objSlice obj) then s.submit (coreOp core part (if obj < 2 ^ 17 then .add else .post) obj n) else refused
  else if (s.unreachable dst).isSome then refused
  else
    let (cls, body) := if obj < 2 ^ 17 then (3, addBody obj part n) else (4, postBody obj part n)
    s.sendMsg (s.mkMsg cls 0 dst id body)

/-- R364: a deferred return of a gang's holding on semaphore `i`; without one it has no effect and is logged. -/
def State.returnOwned (c : Commit) (i g : Nat) (s : State) : State :=
  match (s.sem i).holders.find? fun h => h.gang == g with
  | none => s.syncLog 0xA02 2 (some c.part) (i + 2 ^ 17) (s.tagOf (s.launch c.launch).pid)
  | some h =>
    (s.onSem i fun t => { t with holders := t.holders.filter fun h => h.gang != g }).submit (coreOp c.core c.part .post (i + 2 ^ 17) h.units)

/-- Word bit 31 marks a remote object (Table 14-1). -/
def DfrEntry.isRemote (e : DfrEntry) : Bool := (e.kind == .tally || e.kind == .sem) && e.key.testBit 31

/-- Step 1 of R368: address and exact-slot entries. -/
def State.commitAdds (c : Commit) (s : State) : State :=
  c.entries.foldl (fun t e => match e.kind with
    | .memAdd ty => t.applyAdd (addFmt ty) e.key e.value
    | .xs => t.slotAdd e.key e.slot.join
    | _ => t) s

/-- Step 2 of R368: local posts and returns, then local adds. -/
def State.commitSync (c : Commit) (s : State) : State :=
  let here := c.entries.filter fun e => !e.isRemote
  let t := (here.filter fun e => e.kind == .sem).foldl (fun t e =>
    let t := if e.value = 0 then t else t.submit (coreOp c.core c.part .post (e.key % 2 ^ 18) e.value.toNat)
    e.gangs.foldl (fun t g => t.returnOwned c (e.key % 2 ^ 17) g) t) s
  (here.filter fun e => e.kind == .tally).foldl (fun t e => t.submit (coreOp c.core c.part .add (e.key % 2 ^ 17) e.value.toNat)) t

/-- Step 3 of R368: remote adds and posts. -/
def State.commitRemote (c : Commit) (s : State) : State :=
  c.entries.zipIdx.foldl (fun t e => if e.1.isRemote then t.kernelRemote c.core c.part e.1.key e.1.value.toNat (t.commitId c e.2) (t.tagOf (t.launch c.launch).pid) else t) s

/-- An accepted commit is applied (R260, R368, R370). -/
def State.applyCommit (c : Commit) (s : State) : State :=
  let t := ((s.commitAdds c).commitSync c).commitRemote c
  if t.work.launch.any fun e => e.1 == c.launch then t.onLaunch c.launch fun l => { l with flags := l.flags ||| c.flags } else t

/-- R375: commits held since a trip are completed. -/
def State.applyHeld (s : State) : State :=
  s.red.held.foldl (fun t c => t.applyCommit c) (s.onRed fun r => { r with held := [] })

/-- The core learns that a commit is in: the block's entries are free, and a final commit ends its record (R367). -/
def State.ackCommit (c : Commit) (s : State) : State :=
  let t := s.onCoreAt c.core fun x => { x with dfr := x.dfr.filter fun e => e.block != c.block }
  if c.early then t
  else
    match t.core.block.find c.block with
    | none => t
    | some b => if b.live then t.onBlk c.block fun b => { b with done := true }
      else t.onCore fun x => { x with block := x.block.drop c.block }

end Sys2Proof.Machine
end

