-- ==== Sys2Proof/Machine/TwRegs.lean ====
section
/-! DEFINITION. The TW and TIME register blocks (Tables 4-10 and 4-11): what each write checks and does, and what each
read returns. TW_CONFIG, TW_READ and the register commands go through here. -/

namespace Sys2Proof.Machine

open Sys2Proof

/-- A register of the TW block that can be written. -/
inductive TwReg where
  | stat | watch | fired | alert | thermLim | thermStat | trigCfg (i : Nat) | trigOvr (i : Nat) | sampleStat
  | timer (t : Nat) | chLim (n : Nat) | chRoc (n : Nat) | isns (n : Nat) | ath (n : Nat) | seqCtrl (q : Nat)
  | seqOvr (q : Nat) | step (q k : Nat) | ruleSrc (n : Nat) | ruleThr (n : Nat) | ruleAct (n : Nat) | ruleAux (n : Nat)
  deriving DecidableEq, Repr

/-- The writable register whose base lies at an offset of the TW block (Table 4-10). TW_TRIG_OVR[4], PPS_IN's, follows the four
of EXPO_TRIG (R86, log 88). -/
def twReg (off : Nat) : Option TwReg :=
  let arr := fun (base stride n : Nat) => decide (base ≤ off) && decide (off < base + stride * n) && (off - base) % stride == 0
  if off = 0 then some .stat else if off = 4 then some .watch else if off = 8 then some .fired
  else if off = 0x10 then some .alert else if off = 0x18 then some .thermLim else if off = 0x20 then some .thermStat
  else if arr 0x40 4 4 then some (.trigCfg ((off - 0x40) / 4)) else if arr 0x50 4 5 then some (.trigOvr ((off - 0x50) / 4))
  else if off = 0x88 then some .sampleStat
  else if arr 0x100 8 8 then some (.timer ((off - 0x100) / 8)) else if arr 0x200 8 48 then some (.chLim ((off - 0x200) / 8))
  else if arr 0x400 8 48 then some (.chRoc ((off - 0x400) / 8)) else if arr 0x700 4 4 then some (.isns ((off - 0x700) / 4))
  else if arr 0x720 8 2 then some (.ath ((off - 0x720) / 8)) else if arr 0x800 4 8 then some (.seqCtrl ((off - 0x800) / 4))
  else if arr 0x820 4 8 then some (.seqOvr ((off - 0x820) / 4))
  else if arr 0x1000 4 256 then some (.step ((off - 0x1000) / 128) ((off - 0x1000) % 128 / 4))
  else if arr 0x2000 8 256 then
    let n := (off - 0x2000) / 32
    match (off - 0x2000) % 32 / 8 with
    | 0 => some (.ruleSrc n) | 1 => some (.ruleThr n) | 2 => some (.ruleAct n) | _ => some (.ruleAux n)
  else none

/-- Registers of 64 bits. -/
def TwReg.wide : TwReg → Bool
  | .fired | .thermLim | .timer _ | .chLim _ | .chRoc _ | .ath _ | .ruleSrc _ | .ruleThr _ | .ruleAct _ | .ruleAux _ => true
  | _ => false

/-- Registers that hold a value and its complement. -/
def TwReg.pair : TwReg → Bool
  | .thermLim | .chLim _ | .chRoc _ | .ruleSrc _ | .ruleThr _ | .ruleAct _ | .ruleAux _ => true
  | _ => false

/-- Table 4-6a: the conditions each source accepts; an edge condition requires PERSIST = 1 (R89), and 0 is refused. -/
def ruleSrcOk (w : Word) : Bool :=
  let i := bits w 23 6
  let c := bits w 20 3
  let p := bits w 12 8
  let ok := match bits w 29 2 with
    | 0 => decide (i ≤ 47) && decide (c ≤ 4)
    | 1 => if i ≤ 3 then c == 0 || c == 1 || decide (5 ≤ c) else if i = 4 then c == 0 || c == 1 || c == 4 || c == 5
        else decide (i ≤ 6) && decide (c ≤ 1)
    | 2 => decide (i ≤ 7) && c == 5
    | _ => false
  ok && p != 0 && (decide (c < 5) || p == 1)

/-- TW_THERM_LIM's bounds and order (R96). -/
def thermLimOk (w : Word) : Bool :=
  let a := bits w 0 8
  let b := bits w 8 8
  let c := bits w 16 8
  decide (50 ≤ a) && decide (a ≤ 95) && decide (50 ≤ b) && decide (b ≤ 100) && decide (50 ≤ c) && decide (c ≤ 108)
    && decide (a ≤ b) && decide (b ≤ c)

/-- A value that a register write refuses (R91, R96, the register tables of ch. 4; of TW_WATCH log 22). -/
def TwReg.refuses (r : TwReg) (v : DWord) : Bool :=
  let w := pairVal v
  match r with
  | .watch => decide (w.toNat < 10) || decide (10000000 < w.toNat)
  | .thermLim => !thermLimOk w
  | .seqCtrl _ => decide (13 < bits w 26 4)
  | .step _ _ => decide (47 < stCh w) || decide (6 ≤ stFilter w) || stRecord w == 3
  | .ruleSrc _ => w.getLsbD 31 && !ruleSrcOk w
  | .ruleAct _ => decide (32 < bits w 17 6) || (w.getLsbD 27 && (bits w 14 3 == 0 || decide (4 < bits w 14 3)))
  | _ => false

/-- The update of a rule by a write: it is armed afresh (ch. 4, Collisions), and RULE_BAD clears once every pair matches
(log 20). -/
def State.ruleSet (n : Nat) (f : Rule → Rule) (s : State) : State :=
  let r := f { s.tw.rule.look n {} with source := 4 }
  let r := { r with active := false, persist := 0, prev := false, fresh := false, trig := 0 }
  (s.onTw fun w =>
    { w with rule := w.rule.put n {} r, ruleThrottle := w.ruleThrottle.drop n
             ruleBad := if r.pairsOk then clearBit w.ruleBad n else w.ruleBad }).retuneAll

/-- The filters of a sequence are cleared from its next run (R80). -/
def State.clearFilters (q : Nat) (s : State) : State :=
  s.onTw fun w => { w with filtClear := (List.range 32).foldl (fun t k => t.put (q * 32 + k) false true) w.filtClear }

/-- R76: TW_SEQ_CTRL is written: ENABLE from disabled clears the filters (R80), disabling discards triggers, and START
triggers an enabled sequence (log 20). -/
def State.seqCtrlSet (q : Nat) (v : Word) (s : State) : State :=
  let was := (s.seqCtrl q).getLsbD 30
  let t := s.onTw fun w => { w with seqCtrl := w.seqCtrl.put q (seqCtrlReset q) (v &&& 0x7C000000) }
  let t := if v.getLsbD 30 then (if was then t else t.clearFilters q)
    else t.onTw fun w => { w with seqTrig := w.seqTrig.drop q }
  if v.getLsbD 31 && v.getLsbD 30 then
    let (f, t) := t.trigSeq q
    if f = 2 then t.onTw fun w => { w with seqOvr := w.seqOvr.upd q 0 bumpOvr } else t
  else t

/-- Every T_d is below THROTTLE (R95). -/
def State.allCool (s : State) : Bool :=
  (List.range 8).all fun d => match s.dieTemp d with | some t => decide (t < s.throttleLim) | none => false

/-- R95, R451: a write of 1 to TRIPPED: where every die is below THROTTLE and the cut is not asserted, TRIPPED and the
store's refusal end and the dies restart. -/
def State.clearTrip (s : State) : State :=
  if s.tw.tripped && s.allCool && !s.ao.pwrCut then
    let t := (s.onTw fun w => { w with tripped := false }).logOcc { event := 0x505, sev := 5 }
    let t := t.nvmAccept.onPwr fun p => { p with hbmSr := s.asleep }
    ((List.range 8).foldl (fun t d => t.pllFollow d) t).applyHeld
  else s

/-- A flag counter after a write of its W1C flag. -/
def w1cOvr (n : Nat) (w : Word) : Nat := if w.getLsbD 31 then n % 2 ^ 31 else n

/-- A register takes a value that it does not refuse. -/
def State.twPut (r : TwReg) (v : DWord) (s : State) : State :=
  let w := pairVal v
  match r with
  | .stat => if w.getLsbD 30 then s.onTw fun x => { x with refused := false } else s
  | .watch => s.onTw fun x => { x with watch := w, watchBase := s.time.tick, watchLast := 0 }
  | .fired => s.onTw fun x => { x with ruleFired := x.ruleFired &&& ~~~v }
  | .alert => s.onTw fun x => { x with alert := x.alert &&& ~~~(w.setWidth 6) }
  | .thermLim => s.onTw fun x => { x with thermLim := mkPair (w &&& 0xFFFFFF) }
  | .thermStat => if w.getLsbD 31 then s.clearTrip else s
  | .trigCfg i => s.onTw fun x => { x with trigCfg := x.trigCfg.put i 0 (w &&& 0xC0FFFFFF) }
  | .trigOvr i => s.onTw fun x => { x with trigOvr := x.trigOvr.upd i 0 fun n => w1cOvr n w }
  | .sampleStat => if w.getLsbD 31 then s.onTw fun x => { x with sampleOvf := false } else s
  | .timer t => s.onTw fun x => { x with timer := x.timer.put t (timerReset t) (v &&& 0xC0000000FFFFFFFF) }
  | .chLim n => s.onTw fun x =>
      { x with chLim := x.chLim.put n (chLimReset n) (mkPair w)
               chLast := x.chLast.upd n {} fun c => { c with bad := c.bad && !pairOk (s.chRoc n) } }
  | .chRoc n => s.onTw fun x =>
      { x with chRoc := x.chRoc.put n (mkPair 0) (mkPair w)
               chLast := x.chLast.upd n {} fun c =>
                 { c with bad := c.bad && !pairOk (s.chLim n), silentFrom := s.time.tick } }
  | .isns n => s.onTw fun x => { x with isnsScale := x.isnsScale.put n 0 w }
  | .ath n => s.onTw fun x => { x with athCfg := x.athCfg.put n 0 v }
  | .seqCtrl q => s.seqCtrlSet q w
  | .seqOvr q => s.onTw fun x => { x with seqOvr := x.seqOvr.upd q 0 fun n => w1cOvr n w }
  | .step q k => s.onTw fun x =>
      { x with step := x.step.put (q * 32 + k) (stepReset q k) (w &&& 0xFFFFFC00)
               filtClear := x.filtClear.put (q * 32 + k) false true }
  | .ruleSrc n => s.ruleSet n fun r => { r with src := mkPair (w &&& 0xFFFFF000) }
  | .ruleThr n => s.ruleSet n fun r => { r with thr := mkPair w }
  | .ruleAct n => s.ruleSet n fun r => { r with act := mkPair (w &&& 0xFFFFC000) }
  | .ruleAux n => s.ruleSet n fun r => { r with aux := mkPair w }

/-- A register is written, or the write is refused and TW_STAT.REFUSED set. -/
def State.twSet (r : TwReg) (v : DWord) (s : State) : State :=
  if r.refuses v then s.onTw fun w => { w with refused := true } else s.twPut r v

/-- The whole value of a plain 64-bit register, which a write of one half keeps in the other. -/
def State.twOld (s : State) : TwReg → DWord
  | .timer t => s.timer t
  | .ath n => s.tw.athCfg.look n 0
  | _ => 0

/-- A register write of 4 bytes at an offset of the TW block (R469). -/
def State.twWrite4 (off : Nat) (w : Word) (s : State) : State :=
  let half := fun (hi : Bool) (r : TwReg) =>
    let o := (s.twOld r).toNat
    if r.pair && hi then s
    else if hi then s.twSet r (BitVec.ofNat 64 (o % 2 ^ 32 + w.toNat * 2 ^ 32))
    else s.twSet r (BitVec.ofNat 64 (o / 2 ^ 32 * 2 ^ 32 + w.toNat))
  match twReg off with
  | some r => if r.wide then half false r else s.twSet r (w.setWidth 64)
  | none =>
    match twReg (off - 4) with
    | some r => if off % 8 = 4 ∧ r.wide then half true r else s
    | none => s

/-- A register write of 8 bytes: a whole 64-bit register, or two registers of 32 bits. -/
def State.twWrite8 (off : Nat) (v : DWord) (s : State) : State :=
  match twReg off with
  | some r => if r.wide then s.twSet r v
      else (s.twSet r (BitVec.ofNat 64 (v.toNat % 2 ^ 32))).twWrite4 (off + 4) (BitVec.ofNat 32 (v.toNat / 2 ^ 32))
  | none => s.twWrite4 (off + 4) (BitVec.ofNat 32 (v.toNat / 2 ^ 32))

/-- TW_STAT.RULE_BAD's summary: one bit for four rules. -/
def State.ruleBadSum (s : State) : Nat := (maskOf 16 ((ones s.tw.ruleBad).map (· / 4))).toNat

/-- TW_THERM_STAT. -/
def State.thermStat (s : State) : Nat :=
  let bad := (List.range 8).map fun d =>
    min 3 ((List.range 4).filter fun k => s.tw.sensorFail.getLsbD (4 * d + k)).length * 4 ^ d
  b2n s.tw.tripped * 2 ^ 31 + s.tw.calStale.toNat * 2 ^ 16 + bad.sum

/-- TW_THROTTLE: the effective level of each die. -/
def State.throttleReg (s : State) : Nat := ((List.range 8).map fun d => s.level d * 8 ^ d).sum

/-- TW_CH_LAST[n]. -/
def ChLast.reg (x : ChLast) : Nat := b2n x.bad * 2 ^ 31 + b2n x.stale * 2 ^ 30 + b2n x.seen * 2 ^ 29 + x.value.toNat

/-- TW_SEQ_CTRL[q] as read. -/
def State.seqCtrlReg (s : State) (q : Nat) : Nat :=
  let n := s.tw.seqTrig.look q 0
  let run := decide (s.tw.seqRunning = some q)
  (s.seqCtrl q).toNat + b2n ((run && decide (1 ≤ n)) || decide (2 ≤ n)) * 2 ^ 25 + b2n run * 2 ^ 24

/-- The four bytes at a 4-byte aligned offset of the TW block, without side effects; the popping registers read 0 here
(R175). -/
def State.twRead4 (s : State) (off : Nat) : Word :=
  let half := fun (v : DWord) => BitVec.ofNat 32 (if off % 8 = 4 then v.toNat / 2 ^ 32 else v.toNat)
  let arr := fun (base size : Nat) => decide (base ≤ off) && decide (off < base + size)
  let n4 := fun base => (off - base) / 4
  let n8 := fun base => (off - base) / 8
  let w := fun n : Nat => BitVec.ofNat 32 n
  if off = 0 then w (b2n s.tw.adcFault * 2 ^ 31 + b2n s.tw.refused * 2 ^ 30 + s.ruleBadSum)
  else if off = 4 then s.tw.watch
  else if arr 8 8 then half s.tw.ruleFired
  else if off = 0x10 then s.tw.alert.setWidth 32
  else if arr 0x18 8 then half s.tw.thermLim
  else if off = 0x20 then w s.thermStat
  else if off = 0x24 then w s.throttleReg
  else if arr 0x28 16 then
    let d := (off - 0x28) / 2
    w ((s.tw.calT.look d 0).toNat + (s.tw.calT.look (d + 1) 0).toNat * 65536)
  else if arr 0x40 16 then s.tw.trigCfg.look (n4 0x40) 0
  else if arr 0x50 20 then w (s.tw.trigOvr.look (n4 0x50) 0)
  else if off = 0x88 then w (b2n s.tw.sampleOvf * 2 ^ 31 + s.tw.sampleFifo.length)
  else if arr 0x98 8 then half s.tw.trigTime
  else if arr 0x100 64 then half (s.timer (n8 0x100))
  else if arr 0x200 384 then half (s.chLim (n8 0x200))
  else if arr 0x400 384 then half (s.chRoc (n8 0x400))
  else if arr 0x600 192 then w (s.tw.chLast.look (n4 0x600) {}).reg
  else if arr 0x700 16 then s.tw.isnsScale.look (n4 0x700) 0
  else if arr 0x720 16 then half (s.tw.athCfg.look (n8 0x720) 0)
  else if arr 0x800 32 then w (s.seqCtrlReg (n4 0x800))
  else if arr 0x820 32 then w (s.tw.seqOvr.look (n4 0x820) 0)
  else if arr 0x900 64 then
    let d := (off - 0x900) / 2
    w ((s.tw.safeTemp.look d 0).toNat + (s.tw.safeTemp.look (d + 1) 0).toNat * 65536)
  else if arr 0x1000 1024 then s.step_ ((off - 0x1000) / 128) ((off - 0x1000) % 128 / 4)
  else if arr 0x2000 2048 then
    let r := s.tw.rule.look ((off - 0x2000) / 32) {}
    match (off - 0x2000) % 32 / 8 with
    | 0 => half r.src | 1 => half r.thr | 2 => half r.act | _ => half r.aux
  else if arr 0x2800 256 then w (s.tw.rule.look (n4 0x2800) {}).cnt
  else 0

/-- Code of the discipline in TIME_STAT. -/
def Disc.code : Disc → Nat | .free => 0 | .acquire => 1 | .locked => 2 | .holdover => 3

/-- The four bytes at a 4-byte aligned offset of the TIME block (Table 4-11). -/
def State.timeRead4 (s : State) (off : Nat) : Word :=
  let half := fun (v : DWord) => BitVec.ofNat 32 (if off % 8 = 4 then v.toNat / 2 ^ 32 else v.toNat)
  let t := s.time
  match off / 8 with
  | 0 => half s.now
  | 1 => half t.setVal
  | 2 => if off = 0x10 then BitVec.ofNat 32 (b2n t.setAtPps * 2 ^ 30 + b2n t.timeOutEn * 2 ^ 29 + t.timeOutW.toNat)
      else BitVec.ofNat 32 (t.disc.code * 2 ^ 30 + b2n t.ppsLost * 2 ^ 29 + b2n s.ao.xtal * 2 ^ 28)
  | 3 => if off = 0x18 then t.ppsErr else BitVec.ofNat 32 t.ppsBad
  | 4 => half t.ppsLast
  | 5 => if off = 0x28 then t.rate else 0
  | 6 => half t.ptmLocal
  | 7 => half t.ptmMaster
  | _ => 0

/-- TIME_CTRL is written (R101, R103). -/
def State.timeCtrl (w : Word) (s : State) : State :=
  s.onTime fun t =>
    { t with setPending := t.setPending || w.getLsbD 31, setAtPps := w.getLsbD 30, timeOutEn := w.getLsbD 29
             timeOutW := w.setWidth 8 }

/-- A register write of 4 bytes in the TIME block. -/
def State.timeWrite4 (off : Nat) (w : Word) (s : State) : State :=
  if off = 8 then s.onTime fun t => { t with setVal := BitVec.ofNat 64 (t.setVal.toNat / 2 ^ 32 * 2 ^ 32 + w.toNat) }
  else if off = 12 then s.onTime fun t => { t with setVal := BitVec.ofNat 64 (t.setVal.toNat % 2 ^ 32 + w.toNat * 2 ^ 32) }
  else if off = 0x10 then s.timeCtrl w
  else if off = 0x14 then (if w.getLsbD 29 then s.onTime fun t => { t with ppsLost := false } else s)
  else s

/-- R83: a pop of the sample FIFO. -/
def State.popSample (s : State) : DWord × State :=
  match s.tw.sampleFifo with
  | [] => (0xFFFFFFFFFFFFFFFF, s)
  | r :: l => (r, s.onTw fun w => { w with sampleFifo := l })

/-- R87: a pop of the trigger FIFO, which latches TW_TRIG_TIME; an empty FIFO reads 0 (log 20). -/
def State.popTrig (s : State) : Word × State :=
  match s.tw.trigFifo with
  | [] => (0, s)
  | (e, t) :: l => (e, s.onTw fun w => { w with trigFifo := l, trigTime := t })

end Sys2Proof.Machine
end

