-- ==== Sys2Proof/Machine/Tidewatch.lean ====
section
/-! DEFINITION. The meanings of Tidewatch's events and register commands (ch. 4). -/

namespace Sys2Proof.Machine

open Sys2Proof

/-- A host access to a block that responds once READY (R30); it wakes a sleeping device (R14). -/
def State.atReady (off : Nat) (f : State → State) (s : State) : State :=
  if s.boot.ready then f s.hostWake else s.discarded off

/-- R78: the settling that a conversion of step word `w` needs after the converter's previous conversion. DESIGN CHOICE
(log 87): the first conversion after the reset, which has no previous one, settles as after a gain change. -/
def State.settleFor (s : State) (w : Word) : Nat × Bool :=
  match s.tw.convLast with
  | none => (2, true)
  | some (c, sub, g) =>
    if g ≠ stGain w then (2, true) else if c ≠ stCh w ∨ sub ≠ stSub w then (1, false) else (0, false)

/-- The step begins: its settling is decided (R78). -/
def State.beginStep (w : Word) (s : State) : State :=
  if s.tw.stepBegun then s
  else
    let (n, g) := s.settleFor w
    s.onTw fun x => { x with stepBegun := true, settleLeft := n, settleGain := g }

/-- The word of step `k` of the running sequence. -/
def State.runStep (s : State) (k : Nat) : Word := s.tw.runSteps.look k 0x00010400

/-- A conversion of the step's count is over: the next conversion, the next step, or the end of the run (R76, R77). -/
def State.stepOn (w : Word) (s : State) : State :=
  s.onTw fun x =>
    if x.seqConv + 1 < stCount w then { x with seqConv := x.seqConv + 1 }
    else if stLast w ∨ x.seqStep = 31 then
      { x with seqRunning := none, seqStep := 0, seqConv := 0, stepBegun := false, settleLeft := 0, runSteps := [] }
    else { x with seqStep := x.seqStep + 1, seqConv := 0, stepBegun := false, settleLeft := 0 }

/-- R72, R74, R78, R79: a conversion of the running sequence ends with a 12-bit code. DESIGN CHOICE (log 87): a settle
conversion of a step without AUTO_SETTLE is delivered with SETTLE MUX or GAIN even where its code is clipped. -/
def execAdcConversionDone (code : Nat) (s : State) : Result :=
  done <|
    match s.tw.seqRunning with
    | none => s
    | some q =>
      let code := code % 4096
      let k := s.tw.seqStep
      let w := s.runStep k
      let s := s.beginStep w
      let settling := decide (0 < s.tw.settleLeft)
      let gain := s.tw.settleGain
      let last := decide (stCount w ≤ s.tw.seqConv + 1)
      let s := s.onTw fun x => { x with convLast := some (stCh w, stSub w, stGain w), settleLeft := x.settleLeft - 1 }
      let raw := s.scale (stCh w) (stGain w) (16 * code)
      if settling && stAuto w then s
      else if settling then (s.deliver q (stSub w) w raw false (if gain then 2 else 1) last).stepOn w
      else if (code = 0 ∧ stCh w ≠ 47) ∨ code = 4095 then (s.deliver q (stSub w) w raw false 0 last).stepOn w
      else
        let f := ((s.tw.filt.look (q * 32 + k) {}).feed (stFilter w) code)
        let s := s.onTw fun x => { x with filt := x.filt.put (q * 32 + k) {} f }
        let valid := decide (filtInvalid (stFilter w) < f.outputs)
        (s.deliver q (stSub w) w (s.scale (stCh w) (stGain w) f.y) valid (if valid then 0 else 3) last).stepOn w

/-- R97: one sensor's reading of a scan; none is a clipped one. -/
def State.sensorRead (n : Nat) (v : Option (BitVec 16)) (s : State) : State :=
  match v with
  | some t => s.onTw fun w =>
      { w with clip := w.clip.drop n, safeTemp := w.safeTemp.put n 0 t, safeValid := setBit w.safeValid n }
  | none =>
    let c := s.tw.clip.look n 0 + 1
    let t := s.onTw fun w => { w with clip := w.clip.put n 0 (min c 2), safeValid := clearBit w.safeValid n }
    if 2 ≤ c ∧ !s.tw.sensorFail.getLsbD n then
      ((t.onTw fun w => { w with sensorFail := setBit w.sensorFail n }).alert 4).logOcc { event := 0x506, sev := 5, code := n }
    else t

/-- R104: the self-checks of a scan, channel 46 against 5,880 to 6,120 and channel 47 against 0 to 50. -/
def State.adcCheck (vref gnd : Nat) (s : State) : State :=
  if 5880 ≤ vref ∧ vref ≤ 6120 ∧ gnd ≤ 50 then
    let n := s.tw.adcPass + 1
    let t := s.onTw fun w => { w with adcFail := 0, adcPass := min n 16 }
    if s.tw.adcFault ∧ 16 ≤ n then t.onTw fun w => { w with adcFault := false, filt := [] } else t
  else
    let n := s.tw.adcFail + 1
    let t := s.onTw fun w => { w with adcFail := min n 2, adcPass := 0 }
    if 2 ≤ n ∧ !s.tw.adcFault then
      ((t.onTw fun w => { w with adcFault := true }).alert 5).logOcc { event := 0x507, sev := 5 }
    else t

/-- The ladder's counts of one die after a scan that reads `t` (R94). -/
def Ladder.scan (warn thr trip t : Int) (l : Ladder) : Ladder :=
  let up := fun (c : Bool) (n : Nat) => if c then min (n + 1) 2 else 0
  let l := { l with warnN := up (decide (warn ≤ t)) l.warnN, thrN := up (decide (thr ≤ t)) l.thrN
                    tripN := up (decide (trip ≤ t)) l.tripN, warned := decide (warn ≤ t) }
  if 2 ≤ l.thrN then
    if l.level < 2 then { l with level := 2, hotN := 0, coolN := 0 }
    else if 10 ≤ l.hotN + 1 then { l with level := min 4 (l.level + 1), hotN := 0, coolN := 0 }
    else { l with hotN := l.hotN + 1, coolN := 0 }
  else if t ≤ thr - 5 * 64 then
    if 100 ≤ l.coolN + 1 then { l with level := l.level - 1, coolN := 0, hotN := 0 } else { l with coolN := l.coolN + 1, hotN := 0 }
  else { l with hotN := 0, coolN := 0 }

/-- R94: the ladder of die `d` after a scan. -/
def State.ladderStep (d : Nat) (s : State) : State :=
  match s.dieTemp d with
  | none => s.onTw fun w => { w with ladder := w.ladder.upd d {} fun l => { l with warnN := 0, thrN := 0, tripN := 0, hotN := 0, coolN := 0 } }
  | some t =>
    let (warn, thr, trip) := s.limits
    let old := s.tw.ladder.look d {}
    let l := old.scan warn thr trip t
    let s := s.onTw fun w => { w with ladder := w.ladder.put d {} l }
    let s := if 2 ≤ l.warnN then ((s.alert 2).raise 2).logOcc { event := 0x502, sev := 5, unit := 0x800 + d, code := d } else s
    let s := if l.level ≠ old.level then s.logOcc { event := 0x503, sev := 5, unit := 0x800 + d, code := l.level } else s
    if 2 ≤ l.tripN then s.trip d else s

/-- The mean of the die's valid readings times their number, and the number (R98). -/
def State.dieMean (s : State) (d : Nat) : Int × Nat :=
  let l := (List.range 4).filterMap fun k =>
    let n := 4 * d + k
    if s.tw.safeValid.getLsbD n && !s.tw.sensorFail.getLsbD n then some (s.tw.safeTemp.look n 0).toInt else none
  (l.foldl (· + ·) 0, l.length)

/-- R98: the die's mean against TW_CIM_CALT. -/
def State.calCheck (d : Nat) (s : State) : State :=
  let (sum, n) := s.dieMean d
  let c := (s.tw.calT.look d 0).toInt
  if s.cim.calValid.getLsbD d ∧ n ≠ 0 ∧ 5 * 64 * n < (sum - c * n).natAbs then
    let k := s.tw.calDrift.look d 0 + 1
    let t := s.onTw fun w => { w with calDrift := w.calDrift.put d 0 (min k 2) }
    if 2 ≤ k ∧ !s.tw.calStale.getLsbD d then
      (t.onTw fun w => { w with calStale := setBit w.calStale d }).calRequest (setBit 0 d)
    else t
  else s.onTw fun w => { w with calDrift := w.calDrift.drop d }

/-- R75: the safety scan: sensors 0 to 31 as scaled values (none clipped), then channels 46 and 47 in 0.1 mV. It takes the
converter at a step boundary of the running sequence. -/
def execSafetyScan (temps : List (Option (BitVec 16))) (vref gnd : Nat) (s : State) : Result :=
  done <|
    if !s.tw.sampling || s.tw.stepBegun then s
    else
      let s := if pairOk s.tw.thermLim then s else s.mismatch 0x508 none 0x40018
      let s := (List.range 32).foldl (fun s n => s.sensorRead n (temps.getD n none)) s
      let s := s.adcCheck vref gnd
      let s := s.onTw fun w => { w with convLast := some (47, 0, 0) }
      let s := (List.range 8).foldl (fun s d => (s.ladderStep d).calCheck d) s
      s.retuneAll

/-- R77, R80, R85: the lowest-numbered sequence that holds a trigger begins its run. -/
def execSequenceRunStart (s : State) : Result :=
  done <|
    match s.tw.sampling && s.tw.seqRunning.isNone, (List.range 8).find? fun q => s.tw.seqTrig.look q 0 != 0 with
    | true, some q =>
      s.onTw fun w =>
        { w with
          seqRunning := some q, seqStep := 0, seqConv := 0, stepBegun := false, settleLeft := 0
          seqTrig := w.seqTrig.upd q 0 (· - 1)
          runSteps := (List.range 32).foldl (fun t k => t.put k 0x00010400 (s.step_ q k)) []
          filt := w.filt.filter fun e => !(e.1 / 32 == q && w.filtClear.look e.1 false)
          filtClear := w.filtClear.filter fun e => e.1 / 32 != q }
    | _, _ => s

/-- R76: a write of TW_SEQ_CTRL[n] whose START is 1. -/
def execSeqStartWrite (n : Nat) (v : Word) (s : State) : Result :=
  done <| s.atReady (0x40800 + 4 * n) fun s => if n < 8 then s.twSet (.seqCtrl n) (v.setWidth 64) else s

/-- R85, R86: a timer expires; a one-shot timer clears its ENABLE (log 20). -/
def execTwTimerExpiry (t : Nat) (s : State) : Result :=
  done <|
    let v := s.timer t
    if t < 8 ∧ v.getLsbD 63 ∧ bits v 0 32 ≠ 0 ∧ s.tw.sampling then
      let s := if v.getLsbD 62 then s
        else s.onTw fun w => { w with timer := w.timer.put t (timerReset t) (clearBit v 63) }
      let (_, l, s) := s.trigAll (s.rulesOf 2 t true) (s.seqsOf (t + 1))
      l.foldl (fun s e => if e.2 = 2 then s.onTw fun w => { w with seqOvr := w.seqOvr.upd e.1 0 bumpOvr } else s) s
    else s

/-- R86: a trigger of an input that some consumer dropped counts once in TW_TRIG_OVR. -/
def State.trigDropped (i : Nat) (s : State) : State := s.onTw fun w => { w with trigOvr := w.trigOvr.upd i 0 bumpOvr }

/-- R84, R86, R87: an edge of EXPO_TRIG[i] at harbour time `ns`, after the previous accepted edge of either polarity at `prev`:
its consumers, its overrun and its FIFO entry. DESIGN CHOICE (log 88): TW_TRIG_CFG.ENABLE = 0 turns the input off, so that its
edges trigger nothing and enter no FIFO. -/
def State.expoEdge (i : Nat) (rise : Bool) (prev : Option Nat) (ns : Nat) (s : State) : State :=
  let cfg := s.tw.trigCfg.look i 0
  let active := rise != cfg.getLsbD 30
  if !cfg.getLsbD 31 then s
  else
    let early := active && match prev with
      | some t => decide (ns - t < bits cfg 0 24 * 1000)
      | none => false
    let (a, b, s) := if early then ([], [], s)
      else s.trigAll (s.rulesOf 1 i rise) (if active then s.seqsOf (9 + i) else [])
    let fates := a ++ b.map Prod.snd
    let fate := if early then 3 else if fates.contains 2 then 2 else if fates.contains 1 then 1 else 0
    let s := if fate = 2 then s.trigDropped i else s
    if !active then s
    else s.onTw fun w =>
      if 16 ≤ w.trigFifo.length then { w with trigOvf := true, trigGap := true }
      else
        let e := 2 ^ 31 + b2n w.trigGap * 2 ^ 30 + fate * 16 + b2n rise * 8 + i
        { w with trigFifo := w.trigFifo ++ [(BitVec.ofNat 32 e, BitVec.ofNat 64 ns)], trigGap := false }

/-- The error of a captured time against the nearest whole second, in ns (R102). -/
def ppsError (ns : Nat) : Int :=
  let r := ns % 1000000000
  if r ≤ 500000000 then (r : Int) else (r : Int) - 1000000000

/-- R102: the rate that removes an error of `e` ns within the next second, after a period that measured `d` ns at rate `r`:
the same number of ticks then makes 10^9 − e ns (log 89). -/
def steerRate (r : Word) (e : Int) (d : Nat) : Word :=
  BitVec.ofNat 32 (((r.toNat : Int) * (1000000000 - e)).toNat / max d 1)

/-- The rate is steered (R102). -/
def State.steer (e : Int) (d : Nat) (s : State) : State := s.onTime fun t => { t with rate := steerRate t.rate e d }

/-- R102: the discipline at an in-period edge with error `e`, after a period of `d` ns, the `n`th such edge in a row. -/
def State.discipline (e : Int) (d n : Nat) (s : State) : State :=
  match s.time.disc with
  | .free | .holdover =>
    if 3 ≤ n then s.onTime fun t => { t with disc := .acquire, stepped := false, ppsGood := 0, ppsFar := 0 } else s
  | .acquire =>
    let good := if e.natAbs ≤ 100 then s.time.ppsGood + 1 else 0
    let t := s.onTime fun t => { t with ppsGood := good, disc := if 4 ≤ good then .locked else .acquire, ppsFar := 0 }
    if 10000 < e.natAbs ∧ !s.time.stepped then
      ((t.setTime t.nowNs ((t.nowNs : Int) - e).toNat).onTime fun t => { t with stepped := true }).steer 0 d
    else t.steer e d
  | .locked =>
    let far := if 100 < e.natAbs then s.time.ppsFar + 1 else 0
    (s.onTime fun t =>
      if 2 ≤ far then { t with disc := .acquire, ppsFar := 0, ppsGood := 0, stepped := false } else { t with ppsFar := far }).steer e d

/-- R101, R102: an accepted rising edge of PPS_IN captured at harbour time `ns`. -/
def State.ppsEdge (ns : Nat) (s : State) : State :=
  let prev := (s.tw.din.look 4 {}).lastActive
  let s := s.onTime fun t => { t with ppsTick := some t.tick }
  let (ns, s) := if s.time.setPending && s.time.setAtPps then
      let goal := s.time.setVal.toNat
      let s := (s.setTime ns goal).onTime fun t => { t with setPending := false, stepped := true }
      (goal, s)
    else (ns, s)
  let prev := match prev with | some _ => (s.tw.din.look 4 {}).lastActive | none => none
  let s := s.onTime fun t => { t with ppsLast := BitVec.ofNat 64 ns }
  let s := s.onTw fun w => { w with din := w.din.upd 4 {} fun d => { d with lastActive := some ns } }
  match prev with
  | none => s
  | some p =>
    if 999950000 ≤ ns - p ∧ ns - p ≤ 1000050000 then
      let e := ppsError ns
      let n := s.time.ppsRun + 1
      let s := s.onTime fun t => { t with ppsErr := BitVec.ofInt 32 e, ppsRun := min n 4 }
      if s.time.setPending then s else s.discipline e (ns - p) n
    else s.onTime fun t => { t with ppsBad := satInc t.ppsBad, ppsRun := 0 }

/-- R84, R99: a level of digital input `i` is accepted; its first transition was at harbour time `ns`. -/
def execDigitalInputAccept (i : Nat) (level : Bool) (ns : Nat) (s : State) : Result :=
  done <|
    if !s.tw.sampling ∨ 7 ≤ i ∨ (s.tw.din.look i (dinReset i)).level = level then s
    else
      let prev := (s.tw.din.look i {}).lastEdge
      let s := s.onTw fun w => { w with din := w.din.upd i (dinReset i) fun d => { d with level := level, lastEdge := some ns } }
      if i < 4 then s.expoEdge i level prev ns
      else if i = 4 then
        if level then
          let (a, b, s) := s.trigAll (s.rulesOf 1 4 true) (s.seqsOf 13)
          (if (a ++ b.map Prod.snd).contains 2 then s.trigDropped 4 else s).ppsEdge ns
        else s
      else if i = 5 then (if level then s else s.wake 3 0)
      else if level then (s.onTw fun w => { w with thermLow := false }).retuneAll
      else ((s.onTw fun w => { w with thermLow := true }).logOcc { event := 0x50C, sev := 5 }).retuneAll

/-- R102: no PPS edge for 1.5 s, 12,000,000 ticks; a PPS_IN that has given none is not lost (log 21). -/
def execPpsLost (s : State) : Result :=
  done <|
    if s.time.ppsTick.any fun n => decide (n + 12000000 ≤ s.time.tick) then
      ((s.onTime fun t =>
        { t with ppsLost := true, ppsTick := none, ppsRun := 0
                 disc := match t.disc with | .acquire | .locked => .holdover | d => d }).logOcc
        { event := 0x509, sev := 2 })
    else s

/-- R82, R105: a channel becomes stale once STALE_MS, at 8,000 ticks each, have passed without a valid output, once for each
silence; a channel whose pair does not match becomes BAD instead. -/
def execChannelStale (ch : Nat) (s : State) : Result :=
  done <|
    let r := s.chRoc ch
    let x := s.tw.chLast.look ch {}
    if !(decide (ch < 48) && s.tw.sampling) then s
    else if !pairOk r then s.chPair ch
    else if bits r 16 16 ≠ 0 ∧ !x.stale ∧ x.silentFrom + bits r 16 16 * 8000 ≤ s.time.tick then
      (s.onTw fun w => { w with chLast := w.chLast.upd ch {} fun x => { x with stale := true } }).pushSample
        (sampleRec s.stamp x.value.toNat true false false false 0 false x.lastSeq ch x.lastSub)
    else s

/-- PPS_IN is lost, for a STALE rule: an edge has come since power-on and the last loss stands (R102, Table 4-5). -/
def State.ppsStale (s : State) : Bool := s.time.ppsTick.isNone && (s.tw.din.look 4 {}).lastActive.isSome

/-- Table 4-5: whether a level condition of a rule is true. -/
def State.condTrue (s : State) (kind i c : Nat) (thr : Word) : Bool :=
  if kind = 0 then
    let x := s.tw.chLast.look i {}
    let v := chInt i x.value.toNat
    let hi := chInt i (bits thr 16 16)
    let lo := chInt i (bits thr 0 16)
    match c with
    | 0 => x.seen && decide (hi < v)
    | 1 => x.seen && decide (v < lo)
    | 2 => x.seen && (decide (hi < v) || decide (v < lo))
    | 3 => x.seen && x.roc
    | _ => x.stale
  else
    let l := (s.tw.din.look i (dinReset i)).level
    match c with
    | 0 => l
    | 1 => !l
    | _ => s.ppsStale

/-- R89: an active rule's condition to re-arm. -/
def State.rearms (s : State) (kind i c : Nat) (thr : Word) (hyst : Nat) : Bool :=
  if kind = 0 ∧ c ≤ 2 then
    let v := chInt i (s.tw.chLast.look i {}).value.toNat
    let hi := chInt i (bits thr 16 16) - hyst
    let lo := chInt i (bits thr 0 16) + hyst
    if c = 0 then decide (v ≤ hi) else if c = 1 then decide (lo ≤ v) else decide (lo ≤ v) && decide (v ≤ hi)
  else !s.condTrue kind i c thr

/-- R85, R88, R89, R105: one rule at a watch boundary. DESIGN CHOICE (log 88): the THROTTLE of an edge rule, which is never
active (R89), stands until the next watch boundary. -/
def State.evalRule (n : Nat) (s : State) : State :=
  let r := s.tw.rule.look n {}
  let set := fun (f : Rule → Rule) (s : State) => s.onTw fun w => { w with rule := w.rule.upd n {} f }
  let quiet := fun (s : State) => s.onTw fun w => { w with ruleThrottle := w.ruleThrottle.drop n }
  if !r.pairsOk then
    if s.tw.ruleBad.getLsbD n then s
    else
      let t := s.onTw fun w => { w with ruleBad := setBit w.ruleBad n }
      quiet (t.mismatch 0x508 none t.tw.ruleBad)
  else
    let w := pairVal r.src
    let kind := bits w 29 2
    let i := bits w 23 6
    let c := bits w 20 3
    let thr := pairVal r.thr
    if !w.getLsbD 31 then s
    else if 5 ≤ c then
      if r.trig = 0 then quiet s else (set (fun r => { r with trig := r.trig - 1 }) (quiet s)).fire n
    else
      let counts := kind != 0 || c == 4 || r.fresh
      let now := s.condTrue kind i c thr
      let s := set (fun r => { r with fresh := false }) s
      if r.active then
        if s.rearms kind i c thr (bits r.aux 17 15) then
          quiet (set (fun r => { r with active := false, persist := 0, prev := false }) s)
        else s
      else if !counts then s
      else
        let k := if now then r.persist + 1 else 0
        if now && decide (bits w 12 8 ≤ k) then (set (fun r => { r with active := true, persist := 0, prev := true }) s).fire n
        else set (fun r => { r with persist := k, prev := now }) s

/-- The number of watch periods, in µs of 8 ticks, that have passed since the last TW_WATCH write (R88). -/
def State.watchNow (s : State) : Nat := (s.time.tick - s.tw.watchBase) / (max s.tw.watch.toNat 1 * 8)

/-- R88: a watch boundary, one watch period after the last: the 64 rules are evaluated in ascending order. -/
def execWatchBoundary (s : State) : Result :=
  done <|
    if s.tw.sampling && decide (s.tw.watchLast < s.watchNow) then
      let s := s.onTw fun w => { w with watchLast := s.watchNow }
      ((List.range 64).foldl (fun s n => s.evalRule n) s).retuneAll
    else s

/-- R103: a whole second of harbour time has begun with the present tick. -/
def execTimeOutSecond (s : State) : Result :=
  done <|
    if s.time.timeOutEn && decide (s.time.harbour % (1000000000 * 2 ^ 24) < s.time.rate.toNat) then
      let ms := if s.time.timeOutW = 0 then 100 else s.time.timeOutW.toNat
      s.onTw fun w => { w with timeOutUntil := some (s.time.tick + ms * 8000) }
    else s

/-- R101: TIME_CTRL is written, its SET bit asking for a set. -/
def execTimeSet (v : Word) (s : State) : Result := done <| s.atReady 0x50010 (State.timeCtrl v)

/-- A host read that changes state: answered with the bytes, or with zeros until READY (R30). -/
def State.readAtReady (off len : Nat) (f : State → List Byte × State) (s : State) : State :=
  if !s.ao.hubOut then s
  else if s.boot.ready then
    let (b, t) := f s.hostWake
    t.emit (.readData b false)
  else (s.discarded off).emit (.readData (List.replicate len 0) false)

/-- R83: a read of TW_SAMPLE_POP. -/
def execTwSamplePop (s : State) : Result :=
  done <| s.readAtReady 0x40080 8 fun s => let (v, t) := s.popSample; (toLe 8 v.toNat, t)

/-- R87: a read of TW_TRIG_POP. -/
def execTwTrigPop (s : State) : Result :=
  done <| s.readAtReady 0x40090 4 fun s => let (v, t) := s.popTrig; (toLe 4 v.toNat, t)

/-- R91: a write of the value half of a register of rule `n`: 0 SRC, 1 THR, 2 ACT, 3 AUX. -/
def execTwRuleWrite (n reg : Nat) (v : Word) (s : State) : Result :=
  done <| s.atReady (0x42000 + 32 * n + 8 * reg) fun s =>
    if n < 64 ∧ reg < 4 then s.twWrite4 (0x2000 + 32 * n + 8 * reg) v else s

/-- R96: a write of TW_THERM_LIM's value half. -/
def execTwThermLimWrite (v : Word) (s : State) : Result := done <| s.atReady 0x40018 (State.twWrite4 0x18 v)

/-- R80: a write of TW_SEQ_STEP[n][k]. -/
def execTwStepWrite (n k : Nat) (v : Word) (s : State) : Result :=
  done <| s.atReady (0x41000 + 128 * n + 4 * k) fun s =>
    if n < 8 ∧ k < 32 then s.twWrite4 (0x1000 + 128 * n + 4 * k) v else s

/-- R88: a write of TW_WATCH. -/
def execTwWatchWrite (v : Word) (s : State) : Result := done <| s.atReady 0x40004 (State.twWrite4 4 v)

/-- R95, R451: a write of 1 to TRIPPED. -/
def execTripClear (s : State) : Result := done <| s.atReady 0x40020 State.clearTrip

/-- R96, R511: the analog comparator sees 118 °C on a sensor of die `die`. -/
def execHardCut (die : Nat) (s : State) : Result := done <| if s.ao.porReleased then s.pwrCut (die % 8) else s

end Sys2Proof.Machine
end

