-- ==== Sys2Proof/Machine/Cim.lean ====
section
/-! DEFINITION. The meanings of the CIM packets, operations and calibrations (ch. 11, Table 7-6). -/

namespace Sys2Proof.Machine

open Sys2Proof

/-- R265: CIM_LOAD is under way until its weights are in place. -/
def execCimLoad (q : QueueId) (s : State) : Result :=
  done <| s.dispatch q 0x08 anyPkt fun p s =>
    if (s.slice (p.f 36 1 * 4 + p.f 32 2 / 2048)).unavail then s.finish p.pid stFaulted 0 0
    else s.onCim fun c => { c with loads := c.loads ++ [{ pid := p.pid, die := p.f 36 1, first := p.f 32 2, count := p.f 34 2 }] }

/-- Operations dispatched before a load still use one of its macros (R266, ch. 7 Collisions). -/
def State.loadWaits (s : State) (l : CimLoad) : Bool :=
  let mine := fun (o : CimOp) => macrosMeet o.die o.macro_ o.count l.die l.first l.count && !o.behind.contains l.pid
  s.cim.running.any (fun e => mine e.2) || s.cim.queue.any (fun e => e.2.any mine)
    || s.cim.execs.any fun e => decide (0 < e.left) && !e.behind.contains l.pid && (match s.inflight e.pid with
        | some i => mine (vectorOp i.pkt 0 e.behind)
        | none => false)

/-- R265, R183, R284: every weight of a CIM_LOAD is in place; poisoned source bytes poison what they reach, and a macro
written whole is poisoned no more. `host` gives the source's bytes in host memory. -/
def execCimLoadComplete (pid : Nat) (host : HostMem) (s : State) : Result :=
  done <|
    match s.cim.loads.find? (fun l => l.pid == pid), s.inflight pid with
    | some l, some i =>
      let p := i.pkt
      let c := p.ctxKey.getD 0
      let va := p.f 24 8
      let n := l.count * 65536
      if !s.awake || s.tw.tripped || s.loadWaits l || s.vaKept c va n false then s
      else
        match s.accessFault c va n .read host.refused with
        | some (code, a) => (s.dropWork pid).accessPacketFault pid c code a
        | none =>
          let s := (s.settleLighter c va n).meetEccVa c va n host.ecc
          let data := s.readVa c va n host.bytes
          let t := s.devWrite false p.part (macroBase l.die l.first) data
          let t := t.onCim fun x =>
            { x with loads := x.loads.filter (fun y => y.pid != pid)
                     poisoned := x.poisoned.filter fun e =>
                       !(decide (l.die * 8192 + l.first ≤ e.1) && decide (e.1 < l.die * 8192 + l.first + l.count)) }
          match firstPoison data with
          | some k => t.finish pid stLost l.count k
          | none => t.finish pid stOk l.count 0
    | _, _ => s

/-- R274: CIM_EXEC enqueues its first vector; on a strict die more than 128 macros are refused (R421). -/
def execCimExec (q : QueueId) (s : State) : Result :=
  done <| s.dispatch q 0x09 anyPkt fun p s =>
    let d := p.f 44 1
    let behind := s.loadsOn d (p.f 40 2) (p.f 42 2)
    if (s.slice (4 * d + p.f 40 2 / 2048)).unavail then s.finish p.pid stFaulted 0 0
    else (s.onCim fun c => { c with execs := c.execs ++
      [{ pid := p.pid, behind := behind, left := p.f 48 4, ops := 0, stale := false, lost := none }] }).feed

/-- R6, R412, R436: the sequencer checks the tag of an operation: that its complement matches, and that the slice of its macros
belongs to the partition. A refused one ends: its kernel's context is killed, or its packet completes (log 98). -/
def State.cimRefuse (o : CimOp) (s : State) : State :=
  let damaged := o.npart != ~~~(BitVec.ofNat 8 o.part)
  let s := s.onCim fun c => { c with queue := c.queue.upd o.slice [] List.tail }
  let s := if damaged then s.mismatch 0x302 (some o.part) (BitVec.ofNat 64 o.macro_) else s.bwRefuse o.part (some o.slice) 5 o.macro_
  match o.owner with
  | .packet pid =>
    if damaged then (s.dropWork pid).finish pid stIntegrity 0 0 else (s.dropWork pid).packetFault pid 0xB (BitVec.ofNat 64 o.macro_)
  | .gang g _ _ => if damaged then s.gangFault g 0xF (BitVec.ofNat 64 o.macro_) else s.gangFault g 0xB (BitVec.ofNat 64 o.macro_)

/-- R272, R273, R278: die `d` grants the places of the round's next operation, which starts. -/
def execCimOpStart (d : Nat) (s : State) : Result :=
  done <|
    if 8 ≤ d ∨ !s.awake ∨ s.tw.tripped then s
    else
      match s.cimGrant d (s.cimRound d) with
      | none => s
      | some o =>
        if o.npart ≠ ~~~(BitVec.ofNat 8 o.part) ∨ !s.owns o.part o.slice ∨ s.isFrozen o.part then (s.cimRefuse o).feed
        else
        let n := s.cim.active.look d 0 + o.count
        let stale := o.time && s.tw.calStale.getLsbD d
        let t := s.onCim fun c =>
          { c with queue := c.queue.upd o.slice [] List.tail, running := c.running.ins o.slice { o with stale := stale }
                   active := c.active.put d 0 n, peak := c.peak.upd d 0 (max n), last := c.last.put d 3 (o.slice % 4) }
        t.feed

/-- Macro operations are counted (Table 11-3). -/
def State.countOps (o : CimOp) (s : State) : State :=
  s.onCim fun c =>
    let n := BitVec.ofNat 64 o.count
    if o.time then { c with opsTime := c.opsTime.upd o.die 0 (· + n) } else { c with opsDig := c.opsDig.upd o.die 0 (· + n) }

/-- The end of a CIM_EXEC whose vectors are all done (R162, R274). -/
def State.endExec (pid : Nat) (s : State) : State :=
  match s.cim.execs.find? fun e => e.pid == pid with
  | none => s
  | some e =>
    if e.left ≠ 0 ∨ s.cimQueued pid ∨ s.cim.running.any (fun x => x.2.ofPacket pid) then s
    else
      let t := s.onCim fun c => { c with execs := c.execs.filter fun x => x.pid != pid }
      let d := if e.stale then 8 else 0
      match e.lost with
      | some k => t.finish pid stLost e.ops k
      | none => t.finish pid (flagStatus d) e.ops d

/-- R183, R284: a vector of a CIM_EXEC ends: its output is written, poisoned where its input or a macro was. A poisoned
macro has no source byte whose offset DETAIL could hold: it is a free value (log 7). -/
def State.endVector (o : CimOp) (pid : Nat) (host : HostMem) (s : State) : State :=
  let k := 256 * o.rowgrp
  let fault := match s.accessFault o.ctx o.inVa k .read host.refused with
    | some f => some f
    | none => s.accessFault o.ctx o.outVa (o.groups * 1024) .write host.refused
  match fault with
  | some (code, a) => (s.dropWork pid).accessPacketFault pid o.ctx code a
  | none =>
    let s := (s.settleLighter o.ctx o.inVa k).meetEccVa o.ctx o.inVa k host.ecc
    let x := s.readVa o.ctx o.inVa k host.bytes
    let src := firstPoison x
    let weights := s.macroBad o
    let (out, s) := s.cimOutput o (x.map Prod.fst)
    let bad := src.isSome || weights
    let s := s.writeVa o.ctx o.outVa (out.map fun b => (b, bad))
    let base := match s.inflight pid with | some i => o.inVa - i.pkt.f 24 8 | none => 0
    let (v, s) := if weights && src.isNone then s.fresh else ((0 : DWord), s)
    let at_ := match src with
      | some i => some (min (base + i) 0xFFFFFFFF)
      | none => if weights then some (v.toNat % 2 ^ 32) else none
    let t := s.onCim fun c => { c with execs := c.execs.map fun e => if e.pid = pid then
      { e with ops := e.ops + o.count, stale := e.stale || o.stale, lost := match e.lost with | some l => some l | none => at_ } else e }
    ((t.countOps o).cimFree o).endExec pid

/-- R275, R278, R284: a `cim.mvm` ends: its output is written, ud takes STALE_CAL and POISON, and the gang goes on. The output of
one whose block is gone is discarded (ch. 11, Collisions). -/
def State.endMvm (o : CimOp) (g b ud : Nat) (s : State) : State :=
  if !s.mvmWaits o then (s.countOps o).cimFree o
  else
  let x := s.localRead b o.inVa (256 * o.rowgrp)
  let bad := x.any Prod.snd || s.macroBad o
  let (out, s) := s.cimOutput o (x.map Prod.fst)
  let t := s.localWrite b o.outVa (out.map fun v => (v, bad))
  let t := t.onGang g fun y =>
    { y.setU ud (BitVec.ofNat 32 (b2n o.stale + 2 * b2n bad)) with wait := .ready, staleCal := y.staleCal || o.stale }
  (t.countOps o).cimFree o

/-- R268 to R271: the operation that the sequencer of slice `slice` runs finishes. -/
def execCimOpComplete (slice : Nat) (host : HostMem) (s : State) : Result :=
  done <|
    match s.cim.running.find slice with
    | none => s
    | some o =>
      let kept := match o.owner with
        | .packet _ => s.vaKept o.ctx o.inVa (256 * o.rowgrp) false || s.vaKept o.ctx o.outVa (o.groups * 1024) true slice
        | _ => false
      if !s.awake || s.tw.tripped || kept then s
      else
        let s := s.meetEcc host.ecc [(macroBase o.die o.macro_, o.count * 65536)]
        match o.owner with
        | .packet pid => s.endVector o pid host
        | .gang g b ud => s.endMvm o g b ud

/-- R276, R277: CIM_CALIBRATE asks for calibration of its die, or of every die that PART owns a slice on. -/
def execCimCalibrate (q : QueueId) (s : State) : Result :=
  done <| s.dispatch q 0x0A anyPkt fun p s =>
    let dies : BitVec 8 := if p.f 17 1 = 1 then maskOf 8 ((List.range 8).filter fun d => (List.range 4).any fun k => s.owns p.part (4 * d + k))
      else setBit 0 (p.f 16 1)
    if dies = 0 then s.finish p.pid stOk 0 0
    else (s.calRequest dies).onCim fun c => { c with calPkts := c.calPkts ++ [(p.pid, dies)] }

/-- R277, ch. 7: a pending calibration of die `d` starts, once the time-mode operations that run there have finished. -/
def execCimCalibrationStart (d : Nat) (s : State) : Result :=
  .next <|
    let wanted := s.cim.autoRecal || s.cim.calPkts.any fun e => e.2.getLsbD d
    let busy := s.cim.running.any fun e => e.2.die == d && e.2.time
    if d < 8 ∧ s.pwr.dev = .awake ∧ !s.tw.tripped ∧ s.cim.calReq.getLsbD d ∧ !s.cim.calBusy.getLsbD d ∧ wanted ∧ !busy then
      s.onCim fun c => { c with calBusy := setBit c.calBusy d }
    else s

/-- R98: the mean of the die's valid sensor readings; a mean that is no multiple of 1/64 °C is rounded one way or the
other (log 7), and without a valid sensor it is a free value. -/
def State.calMean (d : Nat) (s : State) : BitVec 16 × State :=
  let (sum, n) := s.dieMean d
  if n = 0 then let (v, t) := s.fresh; (v.setWidth 16, t)
  else
    let up := sum % n != 0 && Config.roundUp sum n
    (BitVec.ofInt 16 (sum / n + (if up then 1 else 0)), s)

/-- CIM_CALIBRATE packets whose last die is done complete; `fail` sets bit 16 of RESULT (Table 7-6, R285). -/
def State.endCalPkts (d temp : Nat) (fail : Bool) (s : State) : State :=
  let l := s.cim.calPkts.map fun e => (e.1, clearBit e.2 d, e.2.getLsbD d)
  let t := s.onCim fun c => { c with calPkts := (l.filter fun e => e.2.1 != 0).map fun e => (e.1, e.2.1) }
  (l.filter fun e => e.2.1 == 0 && e.2.2).foldl (fun t e => t.finish e.1 stOk (temp + b2n fail * 65536) 0) t

/-- R276, R285: a calibration run of die `d` ends, `pass` saying whether its reference outputs lie in their windows and
`trim` what CIM_CAL_TRIM then holds. A first failure is repeated, a second sets CAL_FAIL. -/
def execCimCalibrationDone (d : Nat) (pass : Bool) (trim : Word) (s : State) : Result :=
  done <|
    if 8 ≤ d ∨ !s.cim.calBusy.getLsbD d ∨ !s.awake ∨ s.tw.tripped then s
    else if !pass && s.cim.calTry.look d 0 == 0 then s.onCim fun c => { c with calTry := c.calTry.put d 0 1 }
    else
      let t := s.onCim fun c =>
        { c with calBusy := clearBit c.calBusy d, calReq := clearBit c.calReq d, calTry := c.calTry.drop d }
      if pass then
        let (m, t) := t.calMean d
        let t := t.onTw fun w => { w with calT := w.calT.put d 0 m, calStale := clearBit w.calStale d, calDrift := w.calDrift.drop d }
        let t := t.onCim fun c =>
          { c with calFail := clearBit c.calFail d, calValid := setBit c.calValid d, calTime := c.calTime.put d 0 s.now
                   calTrim := c.calTrim.put d 0 (trim &&& 0x03FFFFFF) }
        t.endCalPkts d m.toNat false
      else
        let t := (t.onCim fun c => { c with calFail := setBit c.calFail d }).onTw fun w => { w with calStale := setBit w.calStale d }
        let t := t.logOcc { event := 0xC01, sev := 2, unit := 0x800 + d, code := d }
        t.endCalPkts d (t.tw.calT.look d 0).toNat true

end Sys2Proof.Machine
end

