-- ==== Sys2Proof/Machine/Coherence.lean ====
section
/-! DEFINITION. The meanings of coherence at the home nodes, the combining buffers, lighter stores and the patrol scrubs
(R284, R300 to R306, R311, R315 to R317, R328, R440, R441). The directory records who holds a line; the line's value is
one and lies in device memory (log 40). Lines of host memory, which the hub records (R306), are numbered from 2^40. -/

namespace Sys2Proof.Machine

open Sys2Proof

/-- The states of an owner: M, O and E (R301). -/
def Moesi.owns : Moesi → Bool
  | .m | .o | .e => true
  | _ => false

/-- The agent other than `x` that holds the line in M, O or E. -/
def DirLine.owner (d : DirLine) (x : Nat) : Option Nat := (d.agents.find? fun e => e.1 != x && e.2.owns).map Prod.fst

/-- Another agent holds the line. -/
def DirLine.shared (d : DirLine) (x : Nat) : Bool := d.agents.any fun e => e.1 != x && e.2 != .i

/-- A request for ownership: a read own, or an upgrade. -/
def exclusive : ReqKind → Bool
  | .readOwn | .upgrade => true
  | _ => false

/-- Table 12-7: the line after the grant of a read or an upgrade to agent `x`, and the tenure that it starts at a device
agent (R303). A host never receives O and in M writes back and keeps S (R305). -/
def DirLine.granted (x : Nat) (k : ReqKind) (d : DirLine) : DirLine :=
  if exclusive k then { d with agents := [(x, .m)], tenure := if x < 8 then [x] else [] }
  else if d.at_ x ≠ .i then d
  else
    let first := !d.shared x
    let old : Tab Moesi := d.agents.map fun e => (e.1, match e.2 with
      | .m => if e.1 = 9 then Moesi.s else .o
      | .e => .s
      | st => st)
    { d with agents := old.put x .i (if first then .e else .s), tenure := if first && decide (x < 8) then d.tenure ++ [x] else d.tenure }

/-- The code of a state in an answer to the host. -/
def Moesi.code : Moesi → Nat
  | .i => 0 | .s => 1 | .e => 2 | .m => 3 | .o => 4

/-- R299: where the L2 of die `d` may hold a line in way `w`: bank line mod 32, set line ÷ 32 mod 1,536 of it (log 97). -/
def l2Key (d w l : Nat) : Nat := (16 * d + w) * 65536 + (l % 32 * 1536 + l / 32 % 1536)

/-- Bank of an L2 set, by the low part of its key. -/
def setBank (n : Nat) : Nat := n / 1536

/-- The way where die `d` holds a line. -/
def State.l2Way (s : State) (d l : Nat) : Option Nat :=
  (List.range 16).find? fun w => match s.mem.l2.find (l2Key d w l) with | some e => e.line == l && (s.dirAt l).at_ d != .i | none => false

/-- R299, R442: the way a fill takes: the one asked for, else the next of the same slice that is not laid up in the bank. -/
def State.fillWay (s : State) (d w l : Nat) : Option Nat :=
  ((List.range 4).map fun i => w / 4 * 4 + (w + i) % 4).find? fun v => !((s.mem.wayOff.look (32 * d + l % 32) 0).getLsbD v)

/-- R299: the line that die `d` receives takes a place in its L2, and the line that stood there is evicted, a dirty one written
back; without a way the die holds no copy. -/
def State.fillL2 (d w l : Nat) (s : State) : State :=
  if (s.l2Way d l).isSome then s
  else
    match s.fillWay d w l with
    | none => s.giveUp l d
    | some v =>
      let k := l2Key d v l
      let t := match s.mem.l2.find k with
        | some e => if e.line = l then s else s.giveUp e.line d
        | none => s
      t.onMem fun m => { m with l2 := m.l2.ins k { line := l, part := s.owner (4 * d + v / 4) } }

/-- The home grants the head request of a line: the state changes, the host receives its answer and the data, and the
place goes to the oldest reserved requester of the line (R301, R302, R305). -/
def State.grantHead (l : Nat) (s : State) : State :=
  match (s.dirAt l).queue with
  | [] => s
  | r :: rest =>
    let t := s.onDir l fun d => { d.granted r.agent r.kind with queue := rest, busy := false, fwdTo := none }
    let t := if r.agent < 8 then t.fillL2 r.agent r.way l else t
    let t := if r.agent = 9 then
        (t.emit (.cxlGrant l ((t.dirAt l).at_ 9).code)).emit
          (.readData (t.mem.read (l * 256) 256) (t.mem.poisoned (l * 256) 256))
      else t
    let die := l * 256 / 0x900000000
    match (t.mem.resv.look die []).find? fun e => e.1 == l with
    | none => t
    | some e =>
      (t.onMem fun m => { m with resv := m.resv.upd die [] fun x => x.erase e }).onDir l fun d =>
        { d with queue := d.queue ++ [e.2] }

/-- R301, R305: requests of a line are served from the head while nothing is asked of another agent; `k` bounds them. A
line that the host holds is snooped, one that a device agent owns is forwarded to it. -/
def State.serveHome (l : Nat) : Nat → State → State
  | 0, s => s
  | k + 1, s =>
    let d := s.dirAt l
    match d.queue with
    | [] => s
    | r :: _ =>
      let host := d.at_ 9
      if d.busy then s
      else if r.agent ≠ 9 ∧ (if exclusive r.kind then host ≠ .i else host.owns) then
        (s.emit (.bisnp l (exclusive r.kind))).onDir l fun d => { d with busy := true }
      else
        let keep := r.kind == .readShared && d.at_ r.agent != .i
        let upg := r.kind == .upgrade && d.at_ r.agent != .i
        match d.owner r.agent, keep || upg with
        | some y, false => s.onDir l fun d => { d with busy := true, fwdTo := some y }
        | _, _ => State.serveHome l k (s.grantHead l)

/-- Every request of a line that can be served is. -/
def State.serveLine (l : Nat) (s : State) : State := s.serveHome l 64

/-- The request joins the line's queue and is served in its turn. -/
def State.joinHome (l : Nat) (r : HomeReq) (s : State) : State :=
  (s.onDir l fun d => { d with queue := d.queue ++ [r] }).serveLine l

/-- R302: a NACKed requester waits 256 ns, twice as long at each further NACK, up to 8 µs. -/
def State.nackWait (s : State) (r : HomeReq) : HomeReq :=
  { r with nacks := r.nacks + 1, due := s.nowNs + min 8000 (256 * 2 ^ min r.nacks 5) }

/-- R302: a request arrives: it takes a place, or a 17th is NACKed. -/
def State.homeArrive (l : Nat) (r : HomeReq) (s : State) : State :=
  if (s.dirAt l).queue.length < 16 then s.joinHome l r
  else s.onMem fun m => { m with nacked := m.nacked ++ [(l, s.nackWait r)] }

/-- R442: a way is laid up in a bank of die `d`'s L2: its lines leave it, it takes no more, and a slice that has lost all four of
its ways in the bank becomes unavailable. -/
def State.layUpWay (d b w : Nat) (s : State) : State :=
  let t := s.l2Empty d fun v n => v == w && setBank n == b
  let t := t.onMem fun m => { m with wayOff := m.wayOff.upd (32 * d + b) 0 fun x => setBit x w, wayErr := m.wayErr.drop (16 * (32 * d + b) + w) }
  let t := t.logOcc { event := 0x306, sev := 4, unit := 0x800 + d }
  let t := if t.fence.autoPersist then t.persist 1 [] else t
  if t.waysGone (4 * d + w / 4) then t.sliceLost (4 * d + w / 4) else t

/-- R440: an error of a way of a bank is counted; at 2 uncorrectable or 64 corrected ones within 24 hours the way is laid up. -/
def State.wayError (d b w : Nat) (unc : Bool) (s : State) : State :=
  let k := 16 * (32 * d + b) + w
  let (t0, u, c) := s.mem.wayErr.look k (0, 0, 0)
  let fresh := (u == 0 && c == 0) || decide (errorPeriod ≤ s.nowNs - t0)
  let (t0, u, c) := if fresh then (s.nowNs, 0, 0) else (t0, u, c)
  let u := if unc then u + 1 else u
  let c := if unc then c else c + 1
  let t := s.onMem fun m => { m with wayErr := m.wayErr.put k (0, 0, 0) (t0, u, c) }
  if 2 ≤ u ∨ 64 ≤ c then t.layUpWay d b w else t

/-- A line is poisoned at its home and the loss logged (R316, R319). -/
def State.lineLost (l unit : Nat) (s : State) : State :=
  if hbmLine l then
    (s.onMem fun m => m.poisonAt (l * 256) 256).logOcc
      { event := 0x302, sev := 2, unit := unit, part := (shareOf (l * 256)).bind fun e => s.owner e.1, addr := BitVec.ofNat 64 (l * 256) }
  else s

/-- R319, R439, R440: an error of the requesting die's L2 copy: a corrected one is counted; an uncorrectable one poisons a line in
M or O at its home, and only drops one in E or S. -/
def State.l2Error (d l : Nat) (unc : Bool) (s : State) : State :=
  match s.l2Way d l with
  | none => s
  | some w =>
    let st := (s.dirAt l).at_ d
    let t := if !unc then s.corrected (0x800 + d) else (if st = .m ∨ st = .o then s.lineLost l (0x800 + d) else s).giveUp l d
    t.wayError d (l % 32) w unc

/-- R319: an uncorrectable error of a directory entry: the line is poisoned, the entry rebuilt as I everywhere, and the event
logged; requests that wait are served from the new entry. -/
def State.dirLost (l : Nat) (s : State) : State :=
  let t := s.onMem fun m => { m.poisonAt (l * 256) 256 with fwdWait := m.fwdWait.filter fun e => e.1 != l }
  let t := t.onDir l fun d => { d with agents := [], tenure := [], busy := false, fwdTo := none }
  (t.logOcc { event := 0x307, sev := 2, unit := 0x800 + l * 256 / 0x900000000, addr := BitVec.ofNat 64 (l * 256) }).serveLine l

/-- What the home, the requesting die's L2 and memory show in error as a request arrives. -/
def State.homeErr (l agent : Nat) (kind : ReqKind) (err : HomeErr) (s : State) : State :=
  match err with
  | .ok => s
  | .dir => if hbmLine l then s.dirLost l else s
  | .l2 unc => if agent < 8 then s.l2Error agent l unc else s
  | .mem ecc => if hbmLine l && (kind == .readShared || kind == .readOwn) then s.meetEcc ecc [(l * 256, 256)] else s

/-- R412, R299: why a die's request is refused, for the slice whose ways it fills: the home's owner check, or the tag of the copy
in the L2; the destination of Table 17-8, and nothing where it is admitted. -/
def State.homeRefuses (s : State) (l agent p : Nat) : Option Nat :=
  let foreign := match s.l2Way agent l with
    | some w => (match s.mem.l2.find (l2Key agent w l) with | some e => e.part != some p | none => false)
    | none => false
  if foreign then some 2
  else if s.isFrozen p || (hbmLine l && !(match shareOf (l * 256) with | some (sl, _) => s.owns p sl | none => false)) then some 1
  else none

/-- R301, R302, R412: a request of a device agent for a fill of a way arrives at its home, or a writeback or eviction notice,
which is applied at once. -/
def execHomeRequest (line agent : Nat) (kind : ReqKind) (body : HomeBody) (s : State) : Result :=
  .next <|
    let there := s.awake && (hbmLine line || (decide (hostLine ≤ line) && s.host.cxlOn && decide (agent < 8)))
    if !there then s
    else
      let s := s.homeErr line agent kind body.err
      let st := (s.dirAt line).at_ agent
      match kind with
      | .writeBack =>
        if st = .m ∨ st = .o ∨ (agent = 9 ∧ st = .e) then
          let t := s.giveUp line agent
          if agent = 9 then t.onMem fun m => m.store (line * 256) (body.data.take 256) else t
        else s
      | .evict => if st = .e ∨ st = .s then s.giveUp line agent else s
      | k =>
        match decide (agent < 8), s.owner (4 * agent + body.way / 4) with
        | true, some p =>
          -- a STRICT partition's L2 holds no host memory (R425)
          if decide (hostLine ≤ line) && s.strict p then s else
          match s.homeRefuses line agent p with
          | some dst => s.bwRefusal p dst (line * 256)
          | none => s.homeArrive line { agent := agent, kind := k, nacks := 0, way := body.way }
        | _, _ => s

/-- Reserved requesters that R302, or on a strict die R419, lets the home of a line hold. -/
def State.mayReserve (s : State) (l : Nat) : Bool :=
  let die := l * 256 / 0x900000000
  let all := s.mem.resv.look die []
  if (s.strictOn die).isSome then
    decide ((all.filter fun e => (shareOf (e.1 * 256)).map Prod.fst == (shareOf (l * 256)).map Prod.fst).length < 8)
  else decide (all.length < 32)

/-- R302: a NACKed requester retries: a place may be free; after its fourth NACK it is reserved, if the list has room. -/
def execHomeNackRetry (line agent : Nat) (s : State) : Result :=
  .next <|
    match s.mem.nacked.find? fun e => e.1 == line && e.2.agent == agent with
    | none => s
    | some e =>
      if s.nowNs < e.2.due then s
      else
      let t := s.onMem fun m => { m with nacked := m.nacked.erase e }
      if (s.dirAt line).queue.length < 16 then t.joinHome line e.2
      else
        let r := s.nackWait e.2
        if 4 ≤ r.nacks ∧ s.mayReserve line then
          t.onMem fun m => { m with resv := m.resv.upd (line * 256 / 0x900000000) [] fun x => x ++ [(line, r)] }
        else t.onMem fun m => { m with nacked := m.nacked ++ [(line, r)] }

/-- R306: a host snoop of a host line takes effect: copies are dropped, or owners downgraded, and the snoop is answered. -/
def State.snoopNow (l : Nat) (inval : Bool) (s : State) : State :=
  (s.onDir l fun d =>
    { d with snoop := none, agents := if inval then [] else d.agents.map fun e => (e.1, if e.2.owns then Moesi.s else e.2) }).emit
    (.snoopDone (l - hostLine))

/-- R306: no copy that the snoop affects is inside its tenure. -/
def DirLine.snoopFree (d : DirLine) (inval : Bool) : Bool :=
  d.tenure.all fun a => !(if inval then d.at_ a != .i else (d.at_ a).owns)

/-- R303, R306: the tenure of an agent ends; a forwarded request that waited for it is served, and a host snoop answered. -/
def execTenureEnd (line agent : Nat) (s : State) : Result :=
  .next <|
    if !(s.dirAt line).tenure.contains agent then s
    else
      let t := s.onDir line fun d => { d with tenure := d.tenure.filter fun a => a != agent }
      let t := if t.mem.fwdWait.contains (line, agent) then
          ((t.onMem fun m => { m with fwdWait := m.fwdWait.filter fun e => e != (line, agent) }).grantHead line).serveLine line
        else t
      match (t.dirAt line).snoop with
      | some inv => if (t.dirAt line).snoopFree inv then t.snoopNow line inv else t
      | none => t

/-- R303, R317: the forwarded request reaches the agent, which waits for its tenure, or supplies the line; an agent
whose writeback was on its way holds no copy, and the home takes the data from that. -/
def execForwardedRequest (line : Nat) (s : State) : Result :=
  .next <|
    let d := s.dirAt line
    match d.fwdTo with
    | none => s
    | some y =>
      if s.mem.fwdWait.contains (line, y) then s
      else if d.tenure.contains y then s.onMem fun m => { m with fwdWait := m.fwdWait ++ [(line, y)] }
      else (s.grantHead line).serveLine line

/-- R305: the host answers a back-invalidate snoop, with the line's data where it held it in M. -/
def execBisnpResponse (line : Nat) (data : List Byte) (s : State) : Result :=
  .next <|
    let d := s.dirAt line
    match d.busy && d.fwdTo.isNone, d.queue with
    | true, r :: _ =>
      let t := if (d.at_ 9).owns ∧ !data.isEmpty then s.onMem fun m => m.store (line * 256) (data.take 256) else s
      (t.onDir line fun d =>
        { d with busy := false, agents := if exclusive r.kind then d.agents.drop 9 else d.agents.put 9 .i .s }).serveLine line
    | _, _ => s

/-- R306: a host snoop of a line of host memory. -/
def execHostSnoop (line : Nat) (inval : Bool) (s : State) : Result :=
  .next <|
    let l := hostLine + line
    if !s.host.cxlOn || s.host.linkDown then s
    else if (s.dirAt l).snoopFree inval then s.snoopNow l inval
    else s.onDir l fun d => { d with snoop := some inval }

/-- R311, R439: the core's oldest combining-buffer entry reaches its age and drains; its 64 B units that show uncorrectable
errors drain as poisoned. -/
def execCombiningDrain (unit : DrainUnit) (s : State) : Result :=
  .next <|
    match s.mem.comb.look unit.core [] with
    | [] => s
    | e :: r => if s.awake && !s.tw.tripped then (s.onMem fun m => { m with comb := m.comb.put unit.core [] r }).drainEntry e unit.bad else s

/-- R328: the oldest lighter store on its way is applied at its home. -/
def execLighterRmw (s : State) : Result :=
  .next <|
    match s.mem.rmw with
    | [] => s
    | w :: r =>
      if s.awake && !s.tw.tripped && !s.deckHeld w.dpa 48 then
        (s.onMem fun m => { m with rmw := r }).ltMerge w.dpa w.off (w.bytes.map fun b => (b, false))
      else s

/-- R315, R316: the patrol scrub of die `d` reads its next line; `errs` tells of each 64 B unit: 0 none, 1 corrected,
2 uncorrectable. It pauses in self-refresh. -/
def execHbmPatrolScrub (d : Nat) (errs : List Nat) (s : State) : Result :=
  .next <|
    if 8 ≤ d ∨ !s.awake ∨ s.pwr.hbmSr then s
    else
      let l := s.mem.scrubHbm.look d 0
      let base := d * 0x900000000 + l * 256
      let t := s.onMem fun m => { m with scrubHbm := m.scrubHbm.put d 0 ((l + 1) % 150994944) }
      (List.range 4).foldl (fun t k =>
        match errs.getD k 0 with
        | 0 => t
        | 1 => (t.corrected (0x800 + d)).granuleError (base / 65536) false
        | _ => (t.unitLost (base / 64 + k) (0x800 + d)).granuleError (base / 65536) true) t

/-- R284, R439: the deck's patrol scrub of die `d` reads its next macro of tier 3, or its next 64 B unit of tiers 0 to 2;
`err`: 0 none, 1 corrected, 2 uncorrectable. A tier without power is not read (R120). -/
def execDeckPatrolScrub (d : Nat) (tier3 : Bool) (err : Nat) (s : State) : Result :=
  .next <|
    if 8 ≤ d ∨ !s.awake then s
    else
      let key := 2 * d + b2n tier3
      let x := s.mem.scrubDeck.look key 0
      let t := s.onMem fun m => { m with scrubDeck := m.scrubDeck.put key 0 ((x + 1) % (if tier3 then 8192 else 25165824)) }
      match err with
      | 0 => t
      | 1 => t.corrected (0x800 + d)
      | _ =>
        if tier3 then
          t.macroLost d x
        else
          t.unitLost ((0x6000000000 + d * 0x80000000) / 64 + x) (0x800 + d)

end Sys2Proof.Machine
end

