-- ==== Sys2Proof/Machine/FleetNet.lean ====
section
/-! DEFINITION. Membership and routes: device states, the manager's topology, route tables (R379, R383, R398). -/

namespace Sys2Proof.Machine

open Sys2Proof

/-- A device table row. -/
def State.fdev (s : State) (d : Nat) : FleetDev := s.fleet.dev.look d {}

/-- A row changes; a change of its state raises the fleet cause (Table 19-3). -/
def State.onDev (d : Nat) (f : FleetDev → FleetDev) (s : State) : State :=
  let t := s.onFleet fun x => { x with dev := x.dev.upd d {} f }
  if (t.fdev d).st = (s.fdev d).st then t else t.raise 4

/-- This device's own fleet state changes. -/
def State.setOwn (o : FleetOwn) (s : State) : State :=
  let t := s.onFleet fun x => { x with own := o }
  if s.fleet.own = o then t else t.raise 4

/-- Numbers of the devices in a state. -/
def State.devsIn (s : State) (p : FleetDev → Bool) : List Nat := (s.fleet.dev.filter fun e => p e.2).map Prod.fst

/-- Devices that the manager routes to: joined or asleep, or with an ASSIGN on its way. -/
def State.routable (s : State) (d : Nat) : Bool :=
  d == 0 || (let x := s.fdev d; decide (x.st = .joined) || decide (x.st = .asleep) || x.returning)

/-- Serial number of a device, as the manager knows it. -/
def State.snOf (s : State) (d : Nat) : DWord := if d = 0 then Config.serial else (s.fdev d).sn

/-- Peer serial numbers on the ports of device `d`: the manager's own as its ports show them. -/
def State.peersOf (s : State) (d : Nat) : List DWord :=
  if d = 0 then (List.range 8).map fun p => if (s.port p).st = .active then (s.port p).peerSn else 0
  else s.fleet.peers.look d []

/-- Links out of device `a`: port and device at the other end. -/
def State.linksOf (s : State) (a : Nat) : List (Nat × Nat) :=
  let all := (0 :: s.devsIn fun _ => true).filter s.routable
  ((s.peersOf a).zipIdx.filter fun e => e.1 != 0).filterMap fun e =>
    (all.find? fun b => b != a && s.snOf b == e.1).map fun b => (e.2, b)

/-- Device `b` is `k` links or fewer from `a`. -/
def State.within (s : State) : Nat → Nat → Nat → Bool
  | 0, a, b => a == b
  | k + 1, a, b => a == b || (s.linksOf a).any fun l => State.within s k l.2 b

/-- The better of two first hops: the lower device, then the lower port (R383). -/
def betterHop (x y : Nat × Nat) : Bool := decide (x.2 < y.2) || (x.2 == y.2 && decide (x.1 < y.1))

/-- The least first hop of a list. -/
def bestHop : List (Nat × Nat) → Option (Nat × Nat)
  | [] => none
  | a :: r => match bestHop r with
    | none => some a
    | some b => if betterHop b a then some b else some a

/-- R383: the egress port of device `a` toward `b`; 0xFF where there is none within 3 links. -/
def State.routePort (s : State) (a b : Nat) : Nat :=
  if a = b then 0xFF
  else
    let hop := fun k => bestHop ((s.linksOf a).filter fun l => s.within k l.2 b)
    match hop 0, hop 1, hop 2 with
    | some l, _, _ => l.1
    | none, some l, _ => l.1
    | none, none, some l => l.1
    | _, _, _ => 0xFF

/-- R383: the route table of device `a`. -/
def State.routeTable (s : State) (a : Nat) : List Nat :=
  (List.range 64).map fun b => if s.routable b then s.routePort a b else 0xFF

/-- A route table is installed; held messages find their new routes (R383, R386). -/
def State.installRoutes (t : List Nat) (s : State) : State :=
  (s.onFleet fun f => { f with route := (t.zipIdx.filter fun e => decide (e.1 < 8)).map fun e => (e.2, e.1) }).sendHeld

/-- R383: the manager computes every route and sends each joined device its table. -/
def State.newRoutes (s : State) : State :=
  if !s.isManager then s
  else
    let t := s.installRoutes (s.routeTable 0)
    (t.devsIn fun x => decide (x.st = .joined) || decide (x.st = .asleep)).foldl (fun u d =>
      u.sendMsg (u.mkMsg 8 3 d 0 ((t.routeTable d).map fun p => BitVec.ofNat 8 p))) t

end Sys2Proof.Machine
end

