-- ==== Sys2Proof/Machine/HawserOps.lean ====
section
/-! DEFINITION. What the commands of a Hawser port share: attempts and series, DOWN, ACTIVE, recovery, the discard of a
link's state, acknowledgements and credits, delivery and relaying (ch. 3, R382 to R386). -/

namespace Sys2Proof.Machine

open Sys2Proof

/-- STATE codes of HWS_PORT_STAT. -/
def PortSt.code : PortSt → Nat
  | .disabled => 0 | .detect => 1 | .lock => 2 | .equalize => 3 | .deskew => 4 | .hail => 5 | .moor => 6 | .active => 7 | .down => 15

/-- A port is in a state of a training attempt (Table 3-5). -/
def Port.training (p : Port) : Bool :=
  match p.st with | .detect | .lock | .equalize | .deskew | .hail | .moor => true | _ => false

/-- Lanes of a group. -/
def groupLanes (g : BitVec 2) : BitVec 8 := (if g.getLsbD 0 then 0x0F else 0) ||| (if g.getLsbD 1 then 0xF0 else 0)

/-- Groups all of whose lanes are in a mask. -/
def wholeGroups (m : BitVec 8) : BitVec 2 := (if m &&& 0x0F = 0x0F then 1 else 0) ||| (if m &&& 0xF0 = 0xF0 then 2 else 0)

/-- Groups a port may use: GROUP_MASK, 0 standing for both; in recovery those it uses (R68). -/
def Port.mayUse (p : Port) : BitVec 2 := if p.recovering then p.groups else if p.groupMask = 0 then 3 else p.groupMask

/-- Stage 13, routes and the fleet follow a port that became ACTIVE or DOWN (R63, R383). -/
def State.portSettled (s : State) : State := s.stage13.newRoutes

/-- A port enters DOWN (R62, R64). -/
def State.portDown (n : Nat) (why : Nat) (s : State) : State :=
  let t := s.onPort n (Port.toDown why)
  (t.logOcc { event := 0x704, sev := 4, unit := 0x900 + n }).portSettled

/-- A failed attempt (R62): the eighth counted one ends the series. -/
def State.failAttempt (n : Nat) (s : State) : State :=
  let p := s.port n
  let t := s.onPort n fun p => { p with lastFail := BitVec.ofNat 4 p.st.code, counted := p.counted + 1, gap := true, record := none }
  if 8 ≤ p.counted + 1 then t.portDown n 1 else t

/-- A new attempt of the series begins in DETECT (R60, R62). -/
def State.newAttempt (n : Nat) (s : State) : State :=
  s.onPort n fun p =>
    { p with st := .detect, gap := false, attempts := p.counted + 1, goodLanes := 0, groups := 0, width := 0, cwLock := false
             peerCwLock := false, record := none, grantAcked := false, ownGrant := none, peerGrant := none }

/-- Messages that a list of flits carries, without repeats. -/
def flitMsgs (l : List HwsPayload) : List FleetMsg := l.foldl (fun a f => if a.contains f.msg then a else a ++ [f.msg]) []

/-- R68, R386: messages that a port reports as undelivered: those this device keeps are to be sent again, the others wait
for a route. -/
def State.undelivered (l : List FleetMsg) (s : State) : State :=
  l.foldl (fun t m =>
    if kept m.cls && m.src == t.myNum then
      t.onFleet fun f => { f with held := f.held.map fun h => if h.msg = m then { h with sent := false } else h }
    else t.onFleet fun f => { f with relay := f.relay ++ [m] }) s

/-- R68: the port discards replay buffer, credits and flits in flight, reports what was not delivered, and starts a fresh
series. -/
def State.relink (n : Nat) (s : State) : State :=
  let p := s.port n
  let lost := flitMsgs (p.replay.map Prod.snd ++ p.sendQ)
  let t := s.onPort n fun p =>
    { p with replay := [], sendQ := [], creditUsed := [], creditRet := [], creditOut := [], moved := [], peerGrant := none
             ownGrant := none, resends := 0, nakOut := false, recovering := false, lpi := false }
  ((t.startSeries n).undelivered lost).sendHeld

/-- R67: recovery retraining begins: LOCK on the groups in use; what the link holds is kept. -/
def State.recover (n : Nat) (s : State) : State :=
  let t := s.onPort n fun p =>
    { p with st := .lock, recovering := true, lpi := false, goodLanes := groupLanes p.groups, recovCnt := satInc p.recovCnt, gap := false
             record := none, resends := 0 }
  t.logOcc { event := 0x703, sev := 2, unit := 0x900 + n }

/-- The 12-bit distance from one sequence number to another. -/
def seqDist (a b : BitVec 12) : Nat := (b - a).toNat

/-- R58: every held flit is sent again in order. -/
def State.resend (n : Nat) (s : State) : State :=
  let p := s.port n
  if p.replay.isEmpty then s
  else
    let t := p.replay.foldl (fun t e => t.emit (p.flitOut n e.1 e.2)) s
    t.onPort n fun p =>
      { p with replayCnt := satInc p.replayCnt, resends := p.resends + 1, replayFrom := s.time.tick, resentAt := some s.time.tick }

/-- R58, R70: a NAK asks for a resend; one that meets the resend of a replay timeout, in the same tick, asks for no other. -/
def State.nakResend (n : Nat) (s : State) : State := if (s.port n).resentAt = some s.time.tick then s else s.resend n

/-- An ACK_SEQ covers held flits, at a tick: they leave the replay buffer (R57); one that covers none changes nothing. -/
def Port.acked (tick : Nat) (a : BitVec 12) (p : Port) : Port :=
  match p.replay with
  | [] => p
  | (q, _) :: _ =>
    let d := seqDist q a
    if d < p.replay.length then { p with replay := p.replay.drop (d + 1), ackSeq := a, resends := 0, replayFrom := tick, resentAt := none } else p

/-- R71: returned credits of a shared pool fill the reserves of STRICT partitions first; those of a reserve whose partition
is STRICT no more go back to the shared pool. -/
def Port.settlePool (pool n : Nat) (p : Port) : Port :=
  if pool = 2 ∨ pool = 3 then
    (List.range 32).foldl (fun (a : Port × Nat) k =>
      let r := 64 + 2 * k + (pool - 2)
      if a.1.strictMask.testBit k ∧ a.1.poolSize r < 16 then
        let m := min a.2 (16 - a.1.poolSize r).toNat
        ({ a.1 with moved := (a.1.moved.upd r 0 (· + (m : Int))).upd pool 0 (· - (m : Int)) }, a.2 - m)
      else a) (p, n) |>.1
  else if 64 ≤ pool ∧ pool < 128 ∧ !p.strictMask.testBit ((pool - 64) / 2) then
    let dest := 2 + pool % 2
    let m := min n (p.poolSize pool).toNat
    { p with moved := (p.moved.upd pool 0 (· - (m : Int))).upd dest 0 (· + (m : Int)) }
  else p

/-- A credit return: the running total of a pool, modulo 4,096 (Table 3-4). -/
def Port.returned (pool total : Nat) (p : Port) : Port :=
  let old := p.creditRet.look pool 0
  let n := (total + 4096 - old % 4096) % 4096
  let n := min n (p.poolUsed pool)
  ({ p with creditRet := p.creditRet.put pool 0 (old + n) }).settlePool pool n

/-- Credits of a message's flits are returned to the peer. -/
def State.giveCredit (port pool : Nat) (m : FleetMsg) (s : State) : State :=
  s.onPort port fun p => { p with creditOut := p.creditOut.upd pool 0 (· + (m.flits pool).length) }

/-- R384: a message for another device is relayed, unless it has gone its 3 links. A sleeping relay wakes for it (R397). -/
def State.relayMsg (m : FleetMsg) (s : State) : State :=
  if 3 ≤ m.hops then s.discardMsg m
  else
    let t := (s.onFleet fun f => { f with relay := f.relay ++ [{ m with hops := m.hops + 1 }] }).wake 2 0
    if t.awake then t.sendHeld else t

/-- The message is for this device, or is one that each device on its way acts on: ANNOUNCE and ASSIGN (R378, R382). -/
def State.isMine (s : State) (m : FleetMsg) : Bool :=
  m.dst == 0xFF || m.dst == s.myNum || (m.cls == 8 && (m.sub == 1 || m.sub == 2))

/-- Table 16-2a: the body's length fits its class and subtype, and its reserved bytes and bits are zero (R382). -/
def bodyOk (m : FleetMsg) : Bool :=
  let n := m.body.length
  let z := fun o l => field m.body o l == 0
  let entries := fun o => decide (field m.body 4 2 ≤ 256) && n == o + 16 * field m.body 4 2 && decide (field m.body 6 1 < 2) && z 7 1
    && (List.range (field m.body 4 2)).all fun i => z (o + 16 * i + 3) 1
  match m.cls, m.sub with
  | 1, 0 => n % 64 == 0 && decide (64 ≤ n) && decide (n ≤ 448)
  | 2, 0 => n == 40
  | 2, 1 => n == 12 && z 9 1 && (field m.body 8 1 == 4 || z 10 2)
  | 2, 2 => decide (17 ≤ n) && decide (n ≤ 4112) && z 12 4
  | 2, 3 => n == 10
  | 3, 0 => n == 16 && z 5 3
  | 3, 1 => n == 17 && decide (field m.body 5 3 < 2 ^ 21) && decide (field m.body 16 1 < 2)
  | 3, 2 => n == 8 && z 5 1
  | 4, 0 => n == 12 && z 5 3
  | 5, 0 => decide (80 ≤ n) && decide (n ≤ 4112) && n % 64 == 16 && z 9 7 && field m.body 0 8 % 64 == 0
  | 5, 1 => n == 24 && z 8 8
  | 6, 0 => n == 24 && z 9 3
  | 6, 1 => n == 24 && z 8 4
  | 6, 2 => n == 24
  | 7, 0 | 7, 2 | 7, 5 => n == 4
  | 7, 1 | 7, 3 => entries 8
  | 7, 4 => entries 16 && z 12 4
  | 8, 0 => n == 8
  | 8, 1 => n == 80
  | 8, 2 => n == 88 && z 9 3 && z 20 4
  | 8, 3 => n == 64
  | 8, 4 => n == 16 && z 1 7
  | 9, 0 => n == 2
  | _, _ => false

/-- A flit accepted in order is delivered: the last flit of a message brings it to the fleet layer, or on its way. -/
def State.deliverFlit (port : Nat) (f : HwsPayload) (s : State) : State :=
  if f.idx + 1 ≠ f.cnt then s
  else if s.isMine f.msg && !bodyOk f.msg then (s.giveCredit port f.pool f.msg).discardMsg f.msg
  else if s.isMine f.msg then (s.onFleet fun x => { x with inbox := x.inbox ++ [(port, f.pool, f.msg)] }).wake 2 0
  else
    -- what came over a STRICT reserve goes on over one (R66)
    (s.giveCredit port f.pool f.msg).relayMsg { f.msg with forPart := if 64 ≤ f.pool then some ((f.pool - 64) / 2) else none }

/-- The own credit grant (R66): the STRICT partitions of the partition map. -/
def State.grantNow (s : State) : CreditGrant :=
  let k := (List.range 32).filter fun n => s.partExists n && s.strict n
  { strict := maskOf 32 k, ctrl := 64, sync := 256, req := 1024 - 16 * k.length, rsp := 704 - 16 * k.length }

/-- A grant in the ranges of R65 and R66. -/
def grantOk (g : CreditGrant) : Bool :=
  let n := popcount g.strict
  g.ctrl == 64 && g.sync == 256 && g.req == 1024 - 16 * n && g.rsp == 704 - 16 * n

/-- The own HAIL record (Table 3-7): a session number that stands once this HAIL leads to MOOR; in recovery the present
one. -/
def State.ownHail (s : State) (n : Nat) : HailRec :=
  let p := s.port n
  { magic := 0x48, version := 1, role := if s.isManager then 1 else 0, port := BitVec.ofNat 8 n, serial := Config.serial
    fleetId := s.fleet.id, session := if p.recovering then p.session else p.session + 1
    caps := (if p.lpiEn then 1 else 0) ||| 6, proto := 1, reservedZero := true }

/-- A lane mask record (Table 3-7a). -/
def Port.masks (p : Port) (lock : BitVec 2) : LaneMask := { rxMask := p.goodLanes, groups := wholeGroups p.goodLanes &&& p.mayUse, cwLock := lock }

/-- A port enters a training state with a record that it sends at once and then every 2 µs (R65). -/
def State.enterTraining (n : Nat) (st : PortSt) (r : Option HwsRecord) (s : State) : State :=
  let t := s.onPort n fun p => { p with st := st, record := r }
  match r with
  | some r => t.emit (.record n r)
  | none => t

/-- A training state or a recovery state fails (R62, R68). -/
def State.failTraining (n : Nat) (s : State) : State := if (s.port n).recovering then s.relink n else s.failAttempt n

/-- The coefficient record for one lane of this end's receiver (Table 3-7a): what it asks of the peer's transmitter follows
its own adaptation and is a free value. -/
def State.coeffRec (n lane resp : Nat) (s : State) : HwsRecord × State :=
  let (v, t) := s.fresh
  let p := s.port n
  let ber := p.laneBer.look lane 0
  (.coeff { lane := lane, req := bits v 0 2, tap := bits v 2 8 % 5, preset := bits v 10 3, resp := resp
            status := if !p.goodLanes.getLsbD lane then 2 else if 50 ≤ ber.toNat then 1 else 0, ber := BitVec.ofNat 16 ber.toNat }, t)

/-- The port is ACTIVE: from MOOR with a fresh link, or back from recovery (R60, R61, R67). -/
def State.activate (n : Nat) (fresh : Bool) (s : State) : State :=
  let t := s.onPort n fun p =>
    let q := { p with st := .active, recovering := false, record := none, gap := false }
    if fresh then
      { q with txSeq := 0, ackSeq := 0xFFF, rxNext := 0, nakOut := false, resends := 0, resentAt := none, replay := [], creditUsed := []
               creditRet := [], creditOut := [], moved := [], strictMask := match p.peerGrant with | some g => g.strict.toNat | none => 0 }
    else q
  let t := if (t.port n).groups = 3 ∨ !fresh then t else t.logOcc { event := 0x702, sev := 2, unit := 0x900 + n }
  let t := if fresh then t else t.resend n
  (t.drain n).portSettled.sendHeld

/-- What the reserves of partition `k` hold and nobody uses goes back to the shared pools at once, and its flits that still
wait use the shared pools (R71). -/
def Port.dissolve (k : Nat) (p : Port) : Port :=
  let back := fun (r : Nat) (q : Port) => q.settlePool r (q.poolSize r - q.poolUsed r).toNat
  back (65 + 2 * k) (back (64 + 2 * k)
    { p with sendQ := p.sendQ.map fun f => if f.pool = 64 + 2 * k then { f with pool := 2 } else if f.pool = 65 + 2 * k then { f with pool := 3 } else f })

/-- R71: the ports, in recovery or not, follow a partition that becomes STRICT or stops being STRICT. DESIGN CHOICE (log 62):
this device's own partition map moves the credits that it holds as a sender; from MOOR until then the peer's grant says which
reserves there are. -/
def State.strictPorts (k : Nat) (on : Bool) (s : State) : State :=
  (List.range 8).foldl (fun t n =>
    (t.onPort n fun p =>
      if p.st ≠ .active ∧ !p.recovering then p
      else if on then { p with strictMask := if p.strictMask.testBit k then p.strictMask else p.strictMask + 2 ^ k }
      else if p.strictMask.testBit k then { p with strictMask := p.strictMask - 2 ^ k }.dissolve k else p).drain n) s

/-- A write of HWS_PORT_CTRL: GROUP_MASK, LPI_EN, ENABLE, and RETRAIN (R63, R68); a standalone device's ports stay off. -/
def State.portCtrl (n : Nat) (v : Word) (s : State) : State :=
  let on := v.getLsbD 8 && !s.isStandalone
  let was := (s.port n).enable
  let t := s.onPort n fun p => { p with groupMask := BitVec.ofNat 2 (bits v 10 2), lpiEn := v.getLsbD 9, enable := on }
  if !on then
    let q := t.port n
    if !was then t
    else
      let lost := flitMsgs (q.replay.map Prod.snd ++ q.sendQ)
      let u := t.onPort n fun p =>
        { p with st := .disabled, width := 0, recovering := false, lpi := false, downReason := 0, record := none, gap := false, replay := []
                 sendQ := [], creditUsed := [], creditRet := [], creditOut := [], moved := [], peerGrant := none, ownGrant := none }
      ((u.undelivered lost).sendHeld).portSettled
  else if v.getLsbD 31 ∨ !was then
    let t := if v.getLsbD 31 then t.onPort n fun p => { p with lastFail := 0 } else t
    if (t.port n).st = .active ∨ (t.port n).recovering then t.relink n else t.startSeries n
  else t

end Sys2Proof.Machine
end

