-- ==== Sys2Proof/Machine/FleetRegs.lean ====
section
/-! DEFINITION. The FLEET block (Table 16-4): what its registers read, and what writes of them do; the fleet counter pairs
that software registers (R377, R380, R381, R394). -/

namespace Sys2Proof.Machine

open Sys2Proof

/-- Own state of FLEET_STAT. -/
def FleetOwn.code : FleetOwn → Nat
  | .standalone => 0 | .forming => 1 | .joined => 2 | .adrift => 3 | .unjoined => 4

/-- State codes of FLEET_DEV[n]. -/
def FleetDevSt.code : FleetDevSt → Nat
  | .free => 0 | .joined => 1 | .lost => 2 | .asleep => 3 | .dormant => 4 | .reserved => 5

/-- Devices in a state. -/
def State.devCount (s : State) (st : FleetDevSt) : Nat := (s.devsIn fun d => decide (d.st = st)).length

/-- Three bits per link of a port path. -/
def pathBits : List Nat → Nat
  | [] => 0
  | p :: r => p % 8 + 8 * pathBits r

/-- FLEET_DEV[n], on the manager only. -/
def State.fleetDevReg (s : State) (n : Nat) : Nat :=
  if !s.isManager then 0
  else if n = 0 then 2 ^ 29
  else
    let d := s.fdev n
    d.st.code * 2 ^ 29 + d.links % 4 * 2 ^ 24 + pathBits d.path

/-- FLEET_DEV_SN[n]. -/
def State.fleetSn (s : State) (n : Nat) : Nat := if !s.isManager then 0 else if n = 0 then Config.serial.toNat else (s.fdev n).sn.toNat

/-- The pair entry FLEET_PAIR_SEL selects: whether it is a consumer entry, and its number. -/
def Fleet.pairAt (f : Fleet) : Bool × Nat := (f.pairSel.getLsbD 12, bits f.pairSel 0 12)

/-- The selected entry. -/
def Fleet.selPair (f : Fleet) : Pair := if f.pairAt.1 then f.cons.look f.pairAt.2 {} else f.prod.look f.pairAt.2 {}

/-- S or A of every epoch (FLEET_PAIR_TOTAL). -/
def Pair.all (p : Pair) : DWord := (p.byEpoch.map Prod.snd).foldl (· + ·) p.total

/-- Epoch `e` is `k` or earlier (R404). -/
def epochLe (e k : Nat) : Bool := decide ((k % 256 + 256 - e % 256) % 256 < 128)

/-- Epochs up to `k` are folded into the total. -/
def Pair.fold (k : Nat) (p : Pair) : Pair :=
  { p with total := ((p.byEpoch.filter fun e => epochLe e.1 k).map Prod.snd).foldl (· + ·) p.total
           byEpoch := p.byEpoch.filter fun e => !epochLe e.1 k }

/-- FLEET_PAIR_CFG of an entry. -/
def Pair.cfg (p : Pair) : Nat :=
  b2n p.valid * 2 ^ 31 + b2n p.broken * 2 ^ 30 + b2n p.refused * 2 ^ 29 + b2n p.byManager * 2 ^ 28 + b2n p.frozen * 2 ^ 27
    + p.peer % 64 * 2 ^ 20 + p.counter % 2 ^ 17

/-- A 32-bit register of the FLEET block at an offset that is a multiple of 4 (Table 16-4). -/
def State.fleetRead4 (s : State) (off : Nat) : Nat :=
  let f := s.fleet
  let half := fun (v : Nat) => if off % 8 = 4 then v / 2 ^ 32 % 2 ^ 32 else v % 2 ^ 32
  if off = 0 then
    f.own.code * 2 ^ 29 + b2n s.isManager * 2 ^ 28 + b2n f.refused * 2 ^ 27 + f.devNum.getD 0 % 64 * 2 ^ 16
      + s.devCount .joined % 256 * 2 ^ 8 + s.devCount .lost % 256
  else if off = 4 then f.id.toNat
  else if off = 8 then b2n f.barrierEn * 2 ^ 28
  else if off = 0xC then f.expect % 64
  else if off = 0x10 then f.period.toNat
  else if off = 0x14 then f.drain.toNat
  else if off = 0x18 then f.barriers % 2 ^ 32
  else if off = 0x1C then f.lateCnt
  else if off = 0x20 then f.advCnt
  else if off = 0x40 then f.pairSel.toNat
  else if off = 0x44 then f.selPair.cfg
  else if off = 0x48 ∨ off = 0x4C then half f.selPair.all.toNat
  else if 0x100 ≤ off ∧ off < 0x200 then s.fleetDevReg ((off - 0x100) / 4)
  else if 0x200 ≤ off ∧ off < 0x400 then half (s.fleetSn ((off - 0x200) / 8))
  else if 0x800 ≤ off ∧ off < 0x880 then
    let c := f.rw.look ((off - 0x800) / 32) {}
    match (off - 0x800) % 32 / 4 with
    | 0 => c.ctrl.toNat
    | 1 => c.len.toNat
    | 2 | 3 => half c.dpa.toNat
    | 4 | 5 => half c.bus.toNat
    | 6 => b2n c.busy * 2 ^ 31 + b2n c.done * 2 ^ 30 + c.status % 2 ^ 16
    | _ => 0
  else 0

/-- `n` bytes of the FLEET block from an offset that is a multiple of 8. -/
def State.fleetRead (s : State) (off n : Nat) : List Byte :=
  (((List.range ((n + 3) / 4)).map fun i => toLe 4 (s.fleetRead4 (off + 4 * i))).flatten).take n

/-- The update of a producer entry. -/
def State.onProd (e : Nat) (f : Pair → Pair) (s : State) : State := s.onFleet fun x => { x with prod := x.prod.upd e {} f }

/-- The update of a consumer entry. -/
def State.onCons (e : Nat) (f : Pair → Pair) (s : State) : State := s.onFleet fun x => { x with cons := x.cons.upd e {} f }

/-- R394: a write of FLEET_PAIR_CFG registers or clears the selected producer entry; the producer then sends a pair-open
message. Which partition the message names the spec does not say: a free value. Consumer entries are not software's, and an
entry the manager wrote is the manager's (ch. 16, Collisions). -/
def State.pairCfg (v : Word) (byMgr : Bool) (s : State) : State :=
  let (isCons, e) := s.fleet.pairAt
  if isCons then s
  else if (s.fleet.prod.look e {}).byManager && !byMgr then s.onFleet fun f => { f with refused := true }
  else if !v.getLsbD 31 then s.onFleet fun f => { f with prod := f.prod.drop e }
  else
    let peer := bits v 20 6
    let c := bits v 0 17
    let t := s.onProd e fun _ => { valid := true, recent := true, peer := peer, counter := c, byManager := byMgr }
    if (t.unreachable peer).isSome ∨ t.fleet.devNum = some peer then t
    else
      let (r, t) := t.fresh
      let part := bits r 0 5
      let (id, t) := t.nextMsgId
      (t.onProd e fun p => { p with part := part }).sendMsg (t.mkMsg 3 2 peer id (toLe 4 c ++ toLe 1 part ++ toLe 1 0 ++ toLe 2 e))

/-- The fleet table is written to the store: fleet ID, expected count and membership (R377). -/
def State.saveFleet (s : State) : State :=
  let l := (s.fleet.dev.filter fun e => decide (e.2.st ≠ .free) && e.1 != 0).map fun e => (e.2.sn, e.1)
  s.persist 3 (fleetTable s.fleet.id s.fleet.expect l)

/-- A worker records its fleet ID, with the rest of its fleet table as it stands (R380). -/
def State.saveFleetId (s : State) : State :=
  let d := (s.record 3).getD []
  s.persist 3 (fleetTable s.fleet.id (field d 4 1) (fleetPairs 63 (d.drop 8)))

/-- A write of FLEET_CTRL: BARRIER_EN, and the write-only bits SAVE (R377), FORGET (R381) and CLEAR_ID (R380). -/
def State.fleetCtrl (v : Word) (s : State) : State :=
  let t := s.onFleet fun f => { f with barrierEn := v.getLsbD 28 }
  let d := bits v 0 6
  let t := if v.getLsbD 30 && t.isManager && decide ((t.fdev d).st = .lost) then t.onDev d fun _ => {} else t
  let t := if v.getLsbD 29 && t.isWorker && t.fleet.devNum.isNone then (t.onFleet fun f => { f with id := 0 }).saveFleetId else t
  if v.getLsbD 31 && !t.isStandalone then t.saveFleet else t

/-- The update of a remote window channel. -/
def State.onRw (c : Nat) (f : RwChan → RwChan) (s : State) : State := s.onFleet fun x => { x with rw := x.rw.upd c {} f }

/-- A channel ends with a status: STAT.DONE, and the fleet interrupt (R391); its messages that have not left do not leave. -/
def State.rwEnd (c status : Nat) (s : State) : State :=
  let ids := (s.fleet.rw.look c {}).ids.map fun e => e.1
  let t := s.onFleet fun f => { f with held := f.held.filter fun h => h.sent || !(h.msg.cls == 5 && ids.contains h.msg.msgId) }
  (t.onRw c fun x => { x with busy := false, done := true, status := status, ids := [] }).raise 4

/-- The writable bits of a channel's CTRL, START aside. -/
def rwCtrlMask : Word := 0x603F001F

/-- A write of a 32-bit register of the FLEET block; values outside a stated range are discarded. START of a remote window
channel is RW_START's; on a worker it is refused here as there (R392). -/
def State.fleetWrite4 (off : Nat) (v : Word) (byMgr : Bool) (s : State) : State :=
  if off = 0 then s.onFleet fun f => { f with refused := f.refused && !v.getLsbD 27 }
  else if off = 4 then
    if s.isManager ∨ (s.isWorker ∧ s.fleet.devNum.isNone) then s.onFleet fun f => { f with id := v } else s
  else if off = 8 then s.fleetCtrl v
  else if off = 0xC then s.onFleet fun f => { f with expect := v.toNat % 64 }
  else if off = 0x10 then (if 1 ≤ v.toNat ∧ v.toNat ≤ 10000 then s.onFleet fun f => { f with period := v } else s)
  else if off = 0x14 then (if 100 ≤ v.toNat ∧ v.toNat ≤ 1000000 then s.onFleet fun f => { f with drain := v } else s)
  else if off = 0x40 then s.onFleet fun f => { f with pairSel := v &&& 0x1FFF }
  else if off = 0x44 then s.pairCfg v byMgr
  else if 0x800 ≤ off ∧ off < 0x880 then
    let c := (off - 0x800) / 32
    match (off - 0x800) % 32 / 4 with
    | 0 =>
      let t := s.onRw c fun x => { x with ctrl := v &&& rwCtrlMask }
      if v.getLsbD 31 && !s.isManager then t.onRw c fun x => { x with status := stDenied } else t
    | 1 => s.onRw c fun x => { x with len := v }
    | 2 => s.onRw c fun x => { x with dpa := x.dpa &&& 0xFFFFFFFF00000000 ||| v.setWidth 64 }
    | 3 => s.onRw c fun x => { x with dpa := x.dpa &&& 0xFFFFFFFF ||| (v.setWidth 64 <<< 32) }
    | 4 => s.onRw c fun x => { x with bus := x.bus &&& 0xFFFFFFFF00000000 ||| v.setWidth 64 }
    | 5 => s.onRw c fun x => { x with bus := x.bus &&& 0xFFFFFFFF ||| (v.setWidth 64 <<< 32) }
    | 6 => if v.getLsbD 30 then s.onRw c fun x => { x with done := false } else s
    | _ => s
  else s

/-- A 64-bit write into the FLEET block (R469): the registers it covers whole, the lower first. -/
def State.fleetWrite8 (off : Nat) (v : DWord) (byMgr : Bool) (s : State) : State :=
  (s.fleetWrite4 off (v.setWidth 32) byMgr).fleetWrite4 (off + 4) ((v >>> 32).setWidth 32) byMgr

end Sys2Proof.Machine
end

