-- ==== Sys2Proof/Machine/Hawser.lean ====
section
/-! DEFINITION. The commands of a Hawser port: flits, training records, timers of the training states, and low-power idle
(ch. 3). A command that names a port from 8 up, or whose condition does not hold, has no effect (log 9). -/

namespace Sys2Proof.Machine

open Sys2Proof

/-- The command's port exists, is not off in DEEP (R122), and satisfies its condition; otherwise nothing happens. -/
def ifPort (n : Nat) (c : Port → Bool) (f : State → State) (s : State) : Result :=
  if n < 8 && s.pwr.dev != .deep && c (s.port n) then done (f s) else .next s

/-- HWS_FLIT_RECEIVE (R57, R58, R66). -/
def execHwsFlitReceive (n : Nat) (f : HwsFlit) (s : State) : Result :=
  ifPort n (fun p => decide (p.st = .active) && !p.recovering) (fun s =>
    let s := s.onPort n fun p =>
      { p with fecCorr := if f.fecCorrected then satInc p.fecCorr else p.fecCorr
               fecUncorr := if f.fecBad then satInc p.fecUncorr else p.fecUncorr }
    if f.fecBad || !f.crcOk then s.onPort n fun p => { p with nakOut := true }
    else
      let s := s.onPort n fun p => (p.acked s.time.tick f.ack).returned f.crPool f.crCount
      let s := if f.nak then s.nakResend n else s
      let s := s.drain n
      match f.body with
      | none => s
      | some b =>
        if f.seq = (s.port n).rxNext then
          (s.onPort n fun p => { p with rxNext := p.rxNext + 1, nakOut := false }).deliverFlit n b
        else s.onPort n fun p => { p with nakOut := true }) s

/-- HWS_REPLAY_TIMEOUT (R58): 4 µs, 32 ticks, without an ACK_SEQ advance or a resend while flits are held. -/
def execHwsReplayTimeout (n : Nat) (s : State) : Result :=
  ifPort n (fun p => decide (p.st = .active) && !p.recovering && !p.replay.isEmpty && decide (p.replayFrom + 32 ≤ s.time.tick))
    (State.resend n) s

/-- HWS_REPLAY_LIMIT (R59). -/
def execHwsReplayLimit (n : Nat) (s : State) : Result :=
  ifPort n (fun p => decide (p.st = .active) && !p.recovering && !p.replay.isEmpty && decide (4 ≤ p.resends)) (State.recover n) s

/-- HWS_SIGNAL_LOSS (R63, R67): in HAIL and MOOR a failing lane fails the attempt; a DOWN port notes the loss. -/
def execHwsSignalLoss (n : Nat) (s : State) : Result :=
  ifPort n (fun _ => true) (fun s =>
    let p := s.port n
    match p.st with
    | .active => s.recover n
    | .hail | .moor => if p.gap then s else s.failTraining n
    | .down => s.onPort n fun p => { p with sawLoss := true }
    | .disabled | .detect | .lock | .equalize | .deskew => s) s

/-- HWS_FEC_ERROR_BURST (R67). -/
def execHwsFecErrorBurst (n : Nat) (s : State) : Result :=
  ifPort n (fun p => decide (p.st = .active) && !p.recovering) (State.recover n) s

/-- HWS_DETECT_ENERGY (R60): lanes without energy are marked failed. -/
def execHwsDetectEnergy (n : Nat) (lanes : BitVec 8) (s : State) : Result :=
  ifPort n (fun p => decide (p.st = .detect) && !p.gap && decide (wholeGroups lanes &&& p.mayUse ≠ 0)) (fun s =>
    (s.onPort n fun p =>
      let use := groupLanes p.mayUse
      { p with goodLanes := lanes &&& use, laneFail := p.laneFail ||| (use &&& ~~~lanes) }).enterTraining n .lock none) s

/-- HWS_SYMBOL_LOCK (R60): lock on every unfailed lane of a whole group; with no whole group locked the attempt fails. -/
def execHwsSymbolLock (n : Nat) (lanes : BitVec 8) (s : State) : Result :=
  ifPort n (fun p => decide (p.st = .lock) && !p.gap) (fun s =>
    let s := s.onPort n fun p =>
      { p with laneFail := p.laneFail ||| (p.goodLanes &&& ~~~lanes), goodLanes := p.goodLanes &&& lanes }
    if wholeGroups (s.port n).goodLanes = 0 then s.failTraining n
    else
      let (r, s) := s.coeffRec n (((ones (s.port n).goodLanes).head?).getD 0) 0
      s.enterTraining n .equalize (some r)) s

/-- HWS_COEFF_REQUEST_RECEIVE (R60, R65): the request changes the transmitter's tap; `ber` and `failed` are what the own
receivers estimate and give up by now. -/
def execHwsCoeffRequestReceive (n : Nat) (r : CoeffReq) (ber : List Word) (failed : BitVec 8) (s : State) : Result :=
  ifPort n (fun p => decide (p.st = .equalize) && !p.gap && decide (r.lane < 8) && decide (r.tap < 5)) (fun s =>
    let tapOf := fun (p : Port) (t : Nat) => p.coeff.look (r.lane * 8 + t) 0
    let stuck := (r.req == 1 || r.req == 2) && Config.ffeLimit r.lane r.tap (tapOf (s.port n) r.tap) (r.req == 1)
    let s := s.onPort n fun p =>
      let k := r.lane * 8 + r.tap
      let c :=
        if stuck then p.coeff
        else if r.req = 1 then p.coeff.put k 0 (tapOf p r.tap + 1)
        else if r.req = 2 then p.coeff.put k 0 (tapOf p r.tap - 1)
        else if r.req = 3 then
          (List.range 5).foldl (fun (a : Tab Int) t => a.put (r.lane * 8 + t) 0 (Config.ffePreset r.preset t)) p.coeff
        else p.coeff
      let lost := p.goodLanes &&& failed
      { p with coeff := c, goodLanes := p.goodLanes &&& ~~~lost, laneFail := p.laneFail ||| lost
               laneBer := (ber.take 8).zipIdx.foldl (fun (a : Tab Word) e => a.put e.2 0 e.1) p.laneBer }
    let p := s.port n
    if wholeGroups p.goodLanes = 0 then s.failTraining n
    else if (ones p.goodLanes).all fun l => decide (50 ≤ (p.laneBer.look l 0).toNat) then
      s.enterTraining n .deskew (some (.masks (p.masks 0)))
    else
      let (q, s) := s.coeffRec n r.lane (if r.req = 0 then 0 else if stuck then 2 else 1)
      s.enterTraining n .equalize (some q)) s

/-- HWS_LANE_MASK_RECEIVE (R60, R61, R65): lanes that the peer's receiver did not pass are failed too; `own` is the own
codeword lock by group and the lane skew, which must be within 32 ns. -/
def execHwsLaneMaskReceive (n : Nat) (r : LaneMask) (own : DeskewState) (s : State) : Result :=
  let lock := own.lock
  ifPort n (fun p => decide (p.st = .deskew) && !p.gap) (fun s =>
    let s := s.onPort n fun p => { p with laneFail := p.laneFail ||| (p.goodLanes &&& ~~~r.rxMask) }
    let p := s.port n
    let g := (p.masks lock).groups &&& r.groups
    if g = 0 then s.failTraining n
    else if g &&& lock &&& r.cwLock = g ∧ own.skew ≤ 32 then
      let narrowed := p.recovering && decide (g ≠ p.groups)
      let s := s.onPort n fun p => { p with groups := g, width := if g = 3 then 8 else 4, cwLock := true, peerCwLock := true }
      let s := if narrowed then s.logOcc { event := 0x702, sev := 2, unit := 0x900 + n } else s
      s.enterTraining n .hail (some (.hail (s.ownHail n)))
    else
      (s.onPort n fun p => { p with cwLock := decide (g &&& lock = g), peerCwLock := decide (g &&& r.cwLock = g) }).enterTraining
        n .deskew (some (.masks (p.masks lock)))) s

/-- R64: why a HAIL record is rejected, as a DOWN_REASON. -/
def State.hailReject (s : State) (r : HailRec) : Option Nat :=
  if r.magic ≠ 0x48 ∨ r.version ≠ 1 ∨ r.proto ≠ 1 ∨ !r.reservedZero then some 5
  else if r.serial = Config.serial then some 4
  else if s.isManager ∧ r.role = 1 then some 2
  else if s.fleet.id ≠ 0 ∧ r.fleetId ≠ 0 ∧ s.fleet.id ≠ r.fleetId then some 3 else none

/-- A rejection, sent or received: the port goes DOWN with its reason, the attempt having failed in HAIL (R62, R64, R65). A
link that recovery held reports first what it loses (R68). -/
def State.rejected (n why : Nat) (s : State) : State :=
  ((if (s.port n).recovering then s.relink n else s).onPort n fun p => { p with lastFail := 5 }).portDown n why

/-- R206: a link in recovery shows that its peer has been reset: mirrors of that device's events are ORPHANED. The device is
the one of that serial number, or the manager by its role. -/
def State.peerReset (sn : DWord) (manager : Bool) (s : State) : State :=
  let devs := (List.range 64).filter fun d => (manager && d == 0) || (d != 0 && (s.fdev d).sn == sn && (s.fdev d).st != .free)
  ((devs.map fun d => s.mirrorsOf d fun _ => true).flatten).foldl (fun t e => t.orphan e.1 e.2) s

/-- HWS_HAIL_RECEIVE (R64, R66, R67, R68). -/
def execHwsHailReceive (n : Nat) (r : HailRec) (s : State) : Result :=
  ifPort n (fun p => decide (p.st = .hail) && !p.gap) (fun s =>
    match s.hailReject r with
    | some why => (s.emit (.record n (.reject why Config.serial))).rejected n why
    | none =>
      let p := s.port n
      let s := s.onPort n fun p =>
        { p with peerPort := BitVec.ofNat 4 r.port.toNat, peerSn := r.serial, peerSession := r.session
                 peerRole := BitVec.ofNat 2 r.role.toNat, peerCaps := BitVec.ofNat 8 r.caps.toNat }
      if p.recovering then
        if r.serial = p.peerSn ∧ r.session = p.peerSession then s.activate n false else (s.relink n).peerReset p.peerSn (p.peerRole = 1)
      else
        let g := s.grantNow
        (s.onPort n fun p =>
          { p with session := p.session + 1, ownGrant := some g, peerGrant := none, grantAcked := false }).enterTraining n .moor
            (some (.grant g))) s

/-- MOOR succeeds once the peer's grant is in range and the own grant has been acknowledged. -/
def State.moorDone (n : Nat) (s : State) : State :=
  if (s.port n).grantAcked && (s.port n).peerGrant.isSome then s.activate n true else s

/-- HWS_CREDIT_GRANT_RECEIVE (R65, R66). -/
def execHwsCreditGrantReceive (n : Nat) (c : CreditGrant) (s : State) : Result :=
  ifPort n (fun p => decide (p.st = .moor) && !p.gap) (fun s =>
    if grantOk c then
      ((s.onPort n fun p => { p with peerGrant := some c }).emit (.record n (.grantAck c))).moorDone n
    else s.failAttempt n) s

/-- HWS_GRANT_ACK_RECEIVE (R65). -/
def execHwsGrantAckReceive (n : Nat) (c : CreditGrant) (s : State) : Result :=
  ifPort n (fun p => decide (p.st = .moor) && !p.gap && decide (p.ownGrant = some c)) (fun s =>
    (s.onPort n fun p => { p with grantAcked := true }).moorDone n) s

/-- HWS_REJECTION_RECEIVE (R65): in HAIL, and in MOOR when the peer rejects later. -/
def execHwsRejectionReceive (n reason : Nat) (s : State) : Result :=
  ifPort n (fun p => (decide (p.st = .hail) || decide (p.st = .moor)) && !p.gap && decide (2 ≤ reason) && decide (reason ≤ 5))
    (State.rejected n reason) s

/-- HWS_RECORD_REPEAT (R65). -/
def execHwsRecordRepeat (n : Nat) (s : State) : Result :=
  ifPort n (fun p => p.training && !p.gap) (fun s =>
    match (s.port n).record with
    | some r => s.emit (.record n r)
    | none => s) s

/-- HWS_STATE_TIMEOUT (R60, R62, R68): the time limits of Table 3-5 and of R67 are the sender's to keep (log 1). -/
def execHwsStateTimeout (n : Nat) (s : State) : Result :=
  ifPort n (fun p => p.training && !p.gap) (State.failTraining n) s

/-- HWS_ATTEMPT_GAP_EXPIRY (R62). -/
def execHwsAttemptGapExpiry (n : Nat) (s : State) : Result :=
  ifPort n (fun p => p.training && p.gap) (State.newAttempt n) s

/-- HWS_SERIES_TIMEOUT (R62): 560 ms, 4,480,000 ticks, since the first DETECT of the series. -/
def execHwsSeriesTimeout (n : Nat) (s : State) : Result :=
  ifPort n (fun p => p.training && !p.recovering && decide (p.seriesTick + 4480000 ≤ s.time.tick)) (fun s =>
    (s.onPort n fun p => if p.gap then p else { p with lastFail := BitVec.ofNat 4 p.st.code }).portDown n 1) s

/-- HWS_PEER_DETECT_PATTERN (R70): the abandoned attempt counts only if it had failed already. -/
def execHwsPeerDetectPattern (n : Nat) (s : State) : Result :=
  ifPort n (fun p => p.training && decide (p.st ≠ .detect)) (fun s =>
    if (s.port n).recovering then s.relink n
    else (s.onPort n fun p => if p.gap then p else { p with lastFail := BitVec.ofNat 4 p.st.code }).newAttempt n) s

/-- HWS_DOWN_SIGNAL_SENSE (R63): after a rejection only once the signal had been lost. -/
def execHwsDownSignalSense (n : Nat) (s : State) : Result :=
  ifPort n (fun p => decide (p.st = .down) && p.enable && (decide (p.downReason = 1) || p.sawLoss)) (State.startSeries n) s

/-- HWS_RETRAIN (R63, R68): a write of HWS_PORT_CTRL. -/
def execHwsRetrain (n : Nat) (v : Word) (s : State) : Result :=
  ifPort n (fun _ => true) (State.portCtrl n v) s

/-- HWS_LPI_ENTRY (R67 text): 100 µs of idle flits at both ends, both having advertised low-power idle. -/
def execHwsLpiEntry (n : Nat) (s : State) : Result :=
  ifPort n (fun p => decide (p.st = .active) && !p.recovering && p.lpiEn && p.peerCaps.getLsbD 0 && p.replay.isEmpty && p.sendQ.isEmpty)
    (State.onPort n fun p => { p with lpi := true }) s

/-- HWS_LPI_EXIT (R14): the port leaves low-power idle, what waited is sent, and the hail wakes a sleeping device. -/
def execHwsLpiExit (n : Nat) (s : State) : Result :=
  ifPort n (fun p => p.lpi) (fun s => ((s.onPort n fun p => { p with lpi := false }).drain n).wake 2 0) s

end Sys2Proof.Machine
end

