-- ==== Sys2Proof/Machine/Host.lean ====
section
/-! DEFINITION. The meanings of host accesses through BAR2 and CXL.mem, of BAR2's size and of ATS invalidations (R287, R292,
R305, R319, R412, R415, R472). -/

namespace Sys2Proof.Machine

open Sys2Proof

/-- The partition's own areas of R408, which no host access reaches: object table and page-table pool, and ledger. -/
def State.ownArea (s : State) (p a n : Nat) : Bool :=
  match ones (s.slicesOf p) with
  | [] => false
  | sl :: _ => overlap (hbmBase sl) 0x8000000 a n || overlap (deckBase sl 0) 0x800000 a n

/-- R415: a host access is admitted to one slice's share. -/
def State.hostAdmitsAt (s : State) (a n : Nat) : Bool :=
  match shareOf a with
  | none => false
  | some (sl, _) =>
    match s.owner sl with
    | none => false
    | some p => !s.strict p && !s.isFrozen p && !s.ownArea p a n && !s.marked a n

/-- R415, R436: a host access of `n` bytes at a device physical address is admitted: at its first and last byte, hence in
each share it touches. -/
def State.hostAdmits (s : State) (a n : Nat) : Bool := s.hostAdmitsAt a n && s.hostAdmitsAt (a + n - 1) 1

/-- R266, R287, R316, R319, R412: an access through BAR2. A write to a macro that an
operation holds waits, its sender trying again (log 98). -/
def execHostBar2Access (off : Nat) (acc : Bar2Acc) (s : State) : Result :=
  .next <|
    let n := match acc with | .read n _ => n | .write b => b.length
    let zeros := fun (t : State) => match acc with
      | .read n _ => t.emit (.readData (List.replicate n 0) false)
      | .write _ => t
    if !s.boot.cfgAnswers || s.host.linkDown || n == 0 || decide (2 ^ s.host.bar2Log < off + n) then s
    else if !s.boot.ready then zeros (s.discarded off)
    else
      let s := s.hostWake
      if !s.hostAdmits off n then (s.bwRefusal 0x40 1 off).emit .abort
      else
        match acc with
        | .read n ecc =>
          let s := s.meetEcc ecc [(off, n)]
          let bad := (unitsOf off n).any s.unitMarked
          s.emit (.readData (s.mem.read off n) bad)
        | .write b => if s.deckHeld off n then s else s.onMem fun m => m.store off b

/-- R51, R305, R415: a CXL.mem read, or read for ownership, of the line of `dpa`. -/
def execHostCxlMemRequest (dpa : Nat) (own : Bool) (s : State) : Result :=
  .next <|
    let l := dpa / 256
    if s.host.linkDown || !s.boot.linkTrained then s
    else if !s.host.memActive || !s.host.cxlOn || !s.host.hdm || !hbmLine l then s.emit .cxlInactive
    else
      let s := s.hostWake
      if !s.hostAdmits (l * 256) 256 then (s.bwRefusal 0x40 1 dpa).emit .abort
      else s.homeArrive l { agent := 9, kind := if own then .readOwn else .readShared, nacks := 0 }

/-- R52, R472: a Resizable BAR write; it takes effect only while memory decoding is disabled in the PF's command register,
which `decoding` gives. -/
def execBar2Resize (log : Nat) (decoding : Bool) (s : State) : Result :=
  .next <|
    if !s.boot.cfgAnswers || s.host.linkDown then s
    else if !decoding ∧ 30 ≤ log ∧ log ≤ 39 then s.hostWake.onHost fun h => { h with bar2Log := log } else s.hostWake

/-- Host mappings of context `c` within a range of bus addresses. -/
def Ctx.busMaps (c : Ctx) (bus len : Nat) : List (Nat × Nat) :=
  c.maps.filterMap fun m => match m.target with
    | .host b => if overlap b m.len bus len then some (m.va, m.len) else none
    | _ => none

/-- R292: an ATS invalidation is answered once translation caches and near caches have dropped the translation. -/
def execAtsInvalidate (bus len : Nat) (pasid : Option Nat) (s : State) : Result :=
  .next <|
    if !s.boot.cfgAnswers || s.host.linkDown then s
    else
      let s := s.hostWake
      let cs := s.obj.ctx.filter fun e => match pasid with | none => true | some p => e.2.pasid == p
      let t := cs.foldl (fun t e => (e.2.busMaps bus len).foldl (fun t r =>
        (t.nearDropRange e.1 r.1 r.2).onMem fun m => { m with tlb := m.tlb.filter fun x =>
          !(x.1 / 2 ^ 33 == e.1 && overlap (x.1 % 2 ^ 33 * 65536) 65536 r.1 r.2) }) t) s
      t.emit .atsDone

end Sys2Proof.Machine
end

