-- ==== Sys2Proof/Machine/Objects.lean ====
section
/-! DEFINITION. The meanings of the memory, object, context and run packets (R169 to R171, ch. 8), and of the QUERY items
about a partition (R180). -/

namespace Sys2Proof.Machine

open Sys2Proof

/-- R169, R189: MEM_ALLOC: the lowest place that fits, filled with zeros. -/
def execMemAlloc (q : QueueId) (s : State) : Result :=
  done <| s.dispatch q 0x20 anyPkt fun p s =>
    let n := p.f 24 8
    let t := p.f 32 1
    let m := p.f 36 4
    let slices := (ones (s.slicesOf p.part)).filter fun k => m == 0 || m.testBit k
    match s.findPlace p.part t (2 ^ p.f 33 1) n slices, s.freeOther p.part with
    | some (sl, d), some i =>
      let k := objKey p.part i
      let s := s.newObj k .memory (.memory t d n sl false (objKey p.part (hIdx (p.f 16 8)))) 1
      let s := s.onMem fun x => x.zero d n
      s.finish p.pid stOk (s.handleOf k) 0
    | _, _ => s.finish p.pid stNoResource 0 0

/-- The reply of a reference operation. -/
def State.replyRef (pid : Nat) (r : State × RefRes) : State :=
  match r.2 with
  | .count n => r.1.finish pid stOk n.toNat 0
  | .mismatch => r.1.finish pid stIntegrity 0 0

/-- R169: MEM_FREE releases the reference that MEM_ALLOC gave; where it is gone the handle names nothing to release. -/
def execMemFree (q : QueueId) (s : State) : Result :=
  done <| s.dispatch q 0x21 anyPkt fun p s =>
    let k := handleKey (p.f 16 8)
    let o := s.objAt k
    if !o.creation || o.chandler then s.finish p.pid stBadParam 0 (reason 0x0C 16)
    else State.replyRef p.pid (s.releaseRef k (fun o => { o with creation := false }) p.tag)

/-- Table 7-10: the mapping a MEM_MAP asks for, on its object at `dpa`, or on host memory. -/
def Packet.mapping (p : Packet) (tgt : Target) (obj : Option Nat) : Mapping :=
  let a := p.f 57 1
  let r := p.f 58 1
  { va := p.f 24 8, len := p.f 48 8, page := pageBytes (p.f 56 1), target := tgt, obj := obj, attr := a % 8
    prot := a.testBit 3, lighter := a.testBit 4, rd := r.testBit 0, wr := r.testBit 1, ex := r.testBit 2 }

/-- R170, R192, R194, R286, R417: why a MEM_MAP is refused: the offset of the bad field. -/
def State.mapBad (s : State) (p : Packet) : Option Nat :=
  let c := objKey p.part (hIdx (p.f 16 8))
  let va := p.f 24 8
  let n := p.f 48 8
  let h := p.f 32 8
  let off := p.f 40 8
  let lighter := (p.f 57 1).testBit 4
  let prot := (p.f 57 1).testBit 3
  let used := if lighter then n / 4 * 3 else n
  let spot := match (s.objAt (handleKey h)).body with | .memory t d z _ ch _ => some (t, d, z, ch) | _ => none
  firstBad <|
    [(decide (0x200000 ≤ va) && decide (va + n ≤ chdBase), 24),
     (!((s.ctx c).maps.any fun m => overlap m.va m.len va n), 24)] ++
    (if h = 0 then [(!prot, 57)]
     else match spot with
      | none => [(false, 32)]
      | some (t, d, z, ch) =>
        let gs := granules (d + off) used
        let marked := fun g => s.part.prot.look g false
        let any := (granules d z).any marked
        [(!ch, 32), (!prot || t == 0, 57), (decide (off + used ≤ z), 48), (!lighter || (d + off) % 16384 == 0, 40),
         (prot || !(gs.any marked), 57), (prot || !any || gs.all marked, 57)])

/-- R170, R188, R290: MEM_MAP. -/
def execMemMap (q : QueueId) (s : State) : Result :=
  done <| s.dispatch q 0x22 anyPkt fun p s =>
    let c := objKey p.part (hIdx (p.f 16 8))
    let h := p.f 32 8
    let k := handleKey h
    let o := s.objAt k
    match s.mapBad p with
    | some e => s.finish p.pid stBadParam 0 (reason 0x06 e)
    | none =>
      if h ≠ 0 ∧ !o.pairOk then (s.freezeObj k p.tag).finish p.pid stIntegrity 0 0
      else if h ≠ 0 ∧ o.count = 0 then s.finish p.pid stBadParam 0 (reason 0x0C 32)
      else
        let d := match o.body with | .memory _ d _ _ _ _ => d | _ => 0
        let m := if h = 0 then p.mapping (.host (p.f 40 8)) none
          else p.mapping (.dev (d + p.f 40 8)) (some (k % 2 ^ 32))
        let used := s.tablesUsed p.part - tableCount (s.mapsOf c) + tableCount (s.mapsOf c ++ [m])
        if 16384 < used then s.finish p.pid stNoResource 0 0
        else
          let t := s.onCtx c fun x => { x with maps := x.maps ++ [m] }
          let t := if h = 0 then t else t.onObjAt k fun o => o.setCount (o.count + 1)
          let t := if m.prot then t.onPart fun x =>
              { x with prot := (granules (d + p.f 40 8) m.len).foldl (fun g i => g.put i false true) x.prot } else t
          t.finish p.pid stOk 0 0

/-- R182: MEM_UNMAP starts once every earlier packet of its context has completed. -/
def execMemUnmap (q : QueueId) (s : State) : Result :=
  done <| s.dispatch q 0x23 anyPkt fun p s => s.waitOn p.pid fun i => i.ctx == p.ctxKey

/-- R191: the handle is of a context that has been killed and not destroyed. -/
def State.killedCtx (s : State) (h : Nat) : Bool := (s.objAt (handleKey h)).kind == .context && (s.ctx (handleKey h)).st == .killed

/-- R187, R190, R191, R207: OBJ_RETAIN. A count of zero is told before the end of its object. -/
def execObjRetain (q : QueueId) (s : State) : Result :=
  done <| s.dispatch q 0x24 anyPkt fun p s =>
    let k := handleKey (p.f 16 8)
    let o := s.objAt k
    if !o.pairOk then (s.freezeObj k p.tag).finish p.pid stIntegrity 0 0
    else if o.count = 0 then s.finish p.pid stBadParam 0 (reason 0x0C 16)
    else if o.ended || s.killedCtx (p.f 16 8) then s.finish p.pid stFaulted 0 0
    else if o.count = 0xFFFFFFFF then s.finish p.pid stOverrun 0 0
    else (s.onObjAt k fun o => { o with retains := o.retains + 1 }.setCount (o.count + 1)).finish p.pid stOk (o.count.toNat + 1) 0

/-- R187, R188, R190, R191: OBJ_RELEASE: of a killed context FAULTED, of an ended one still OK; where no reference stands that
it may release, the handle names nothing to release (log 33). -/
def execObjRelease (q : QueueId) (s : State) : Result :=
  done <| s.dispatch q 0x25 anyPkt fun p s =>
    let k := handleKey (p.f 16 8)
    if s.killedCtx (p.f 16 8) then s.finish p.pid stFaulted 0 0
    else if (s.objAt k).pairOk && !(s.objAt k).releasable then s.finish p.pid stBadParam 0 (reason 0x0C 16)
    else State.replyRef p.pid (s.releaseRef k Obj.dropOne p.tag)

/-- Live chandler allocations of a slice. -/
def State.chandlerObjs (s : State) (sl : Nat) : List (Nat × Nat) :=
  s.obj.tab.filterMap fun e => match e.2.body with
    | .memory _ d n k true _ => if e.2.live && k == sl then some (d, n) else none
    | _ => none

/-- R169, R192: POOL_SET. The pool lies in the slice's share, clear of the tables and of static memory (log 31). -/
def execPoolSet (q : QueueId) (s : State) : Result :=
  done <| s.dispatch q 0x26 anyPkt fun p s =>
    let sl := p.f 16 1
    let b := p.f 24 8
    let n := p.f 32 8
    let out := (s.chandlerObjs sl).filter fun e => !(decide (hbmBase sl + b ≤ e.1) && decide (e.1 + e.2 ≤ hbmBase sl + b + n))
    let clash := (s.claimed p.part sl 0).any fun u => overlap (hbmBase sl + b) n u.1 u.2
    if 0x240000000 < b + n then s.finish p.pid stBadParam 0 (reason 0x06 32)
    else if clash then s.finish p.pid stBadParam 0 (reason 0x06 24)
    else if !out.isEmpty then s.finish p.pid stNotReady 0 out.length
    else (s.onObj fun o => { o with pool := o.pool.put sl (0, 0) (b, n) }).finish p.pid stOk 0 0

/-- Contexts of a partition that have not ended. -/
def State.ctxCount (s : State) (p : Nat) : Nat := (s.obj.ctx.filter fun e => partOfKey e.1 == p && e.2.st != .ended).length

/-- R408: contexts of the device that another context of partition `p` may still take: a STRICT partition's from its
reservation, a SHARED one's from what no STRICT partition reserves. -/
def State.ctxRoom (s : State) (p : Nat) : Bool :=
  let lim := fun n => bits (s.pmap n) 11 9
  if lim p ≤ s.ctxCount p then false
  else if s.strict p then true
  else
    let l := (List.range 32).filter s.partExists
    let reserved := ((l.filter s.strict).map lim).sum
    let used := ((l.filter fun n => !s.strict n).map s.ctxCount).sum
    decide (reserved + used < 1024)

/-- R171, R191: CONTEXT_CREATE. -/
def execContextCreate (q : QueueId) (s : State) : Result :=
  done <| s.dispatch q 0x32 anyPkt fun p s =>
    match s.freeOther p.part with
    | some i =>
      if s.ctxRoom p.part && decide (s.tablesUsed p.part + tableCount (s.windows (objKey p.part i)) ≤ 16384) then
        let k := objKey p.part i
        let pasid := p.f 16 4 % 2 ^ 20
        let t := s.newObj k .context (.context pasid) 1
        let t := t.onCtx k fun _ => { st := .live, pasid := pasid }
        t.finish p.pid stOk (t.handleOf k) 0
      else s.finish p.pid stNoResource 0 0
    | none => s.finish p.pid stNoResource 0 0

/-- R182, R205: CONTEXT_DESTROY. A destroyed context's handle gives FAULTED, a killed one's does not (R190, R191). -/
def execContextDestroy (q : QueueId) (s : State) : Result :=
  done <| s.dispatch q 0x33 anyPkt fun p s =>
    if (s.objAt (handleKey (p.f 16 8))).ended then s.finish p.pid stFaulted 0 0
    else s.waitOn p.pid fun i => i.ctx == p.ctxKey

/-- R196, R201, R337: RUN_BEGIN. -/
def execRunBegin (q : QueueId) (s : State) : Result :=
  done <| s.dispatch q 0x34 anyPkt fun p s =>
    let f := p.f 24 4
    let n := p.f 28 4
    let busy := ((List.range n).map (f + ·)).find? fun c => s.inOpenRun c || !(s.tally c).waiters.isEmpty
    match busy with
    | some c => s.finish p.pid stNotReady 0 c
    | none =>
      match s.freeRun p.part with
      | none => s.finish p.pid stNoResource 0 0
      | some i =>
        let k := objKey p.part i
        let t := s.newObj k .run (.run f n true (objKey p.part (hIdx (p.f 16 8))) [] none) 2
        let t := t.onSync fun x => { x with tally := x.tally.filter fun e => !(decide (f ≤ e.1) && decide (e.1 < f + n)) }
        t.finish p.pid stOk (t.handleOf k) 0

/-- R196: RUN_END: the run closes and its values are recorded; of a closed run the recorded value is told. -/
def execRunEnd (q : QueueId) (s : State) : Result :=
  done <| s.dispatch q 0x35 anyPkt fun p s =>
    let k := handleKey (p.f 16 8)
    let o := s.objAt k
    match o.body with
    | .run f n open_ _ _ _ =>
      let v := (s.eventValue k f).toNat
      if !open_ then s.finish p.pid stOk v 0
      else
        match ((List.range n).map (f + ·)).find? fun c => !(s.tally c).waiters.isEmpty with
        | some c => s.finish p.pid stNotReady 0 c
        | none =>
          if !o.pairOk then (s.freezeObj k p.tag).finish p.pid stIntegrity 0 0
          else (s.closeRun k).finish p.pid stOk v 0
    | _ => s.finish p.pid stBadParam 0 (reason 0x0C 16)

/-- R180: QUERY item 5: free HBM of PART outside the chandler pools. -/
def execQueryHbmFree (q : QueueId) (s : State) : Result :=
  done <| s.dispatch q 0x70 (fun p => p.f 16 1 == 5) fun p s => s.finish p.pid stOk (s.freeBytes p.part 0) 0

/-- R180: QUERY item 6: free bytes of PART's share of a deck tier. -/
def execQueryDeckFree (q : QueueId) (s : State) : Result :=
  done <| s.dispatch q 0x70 (fun p => p.f 16 1 == 6) fun p s => s.finish p.pid stOk (s.freeBytes p.part (p.f 17 1 + 1)) 0

/-- R180: QUERY item 7: free counters in [31:0], free semaphores in [63:32] (log 34). -/
def execQuerySyncFree (q : QueueId) (s : State) : Result :=
  done <| s.dispatch q 0x70 (fun p => p.f 16 1 == 7) fun p s =>
    let ids := ((ones (s.slicesOf p.part)).map fun sl => (List.range 4096).map (sl * 4096 + ·)).flatten
    let t := (ids.filter s.tallyFree).length
    let m := (ids.filter fun i => (s.sem i).waiters.isEmpty && (s.sem i).holders.isEmpty && !(s.sem i).bad).length
    s.finish p.pid stOk (t + m * 2 ^ 32) 0

end Sys2Proof.Machine
end

