-- ==== Sys2Proof/Machine/Power.lean ====
section
/-! DEFINITION. The meanings of power states, clocks, voltages and the power packets (ch. 1, ch. 5). -/

namespace Sys2Proof.Machine

open Sys2Proof

/-- The command of a packet that only waits on a counter or a semaphore (R11). -/
def waitOp (op : Nat) : Bool := op == 0x11 || op == 0x13

/-- A queue is empty, or its head is a wait that is not satisfied (R11). -/
def State.queueIdle (s : State) (q : QueueId) : Bool :=
  let x := s.queue q
  let waits := s.q.inflight.any fun i => decide (i.q = q) && i.blocking && waitOp i.pkt.op
  waits || (x.buffer.isEmpty && (!x.enabled || x.sqPut == x.sqGet))

/-- An order for SLEEP that waits (R123), which does not itself keep the device awake. -/
def Inflight.sleepOrder (i : Inflight) : Bool := i.pkt.op == 0x40 && i.pkt.f 18 1 == 0 && i.pkt.f 16 1 == 2

/-- The accepted order for DEEP (R13). -/
def Inflight.deepOrder (i : Inflight) : Bool := i.pkt.op == 0x40 && i.pkt.f 18 1 == 0 && i.pkt.f 16 1 == 3

/-- The conditions of R11, with R486's update session. -/
def State.idle (s : State) : Bool :=
  s.queues.all s.queueIdle
    && s.q.inflight.all (fun i => waitOp i.pkt.op || i.sleepOrder)
    && !(s.core.block.any fun e => e.2.live) && !(s.core.core.any fun e => !e.2.mover.isEmpty)
    && s.cim.running.isEmpty && s.cim.queue.all (fun e => e.2.isEmpty)
    && s.nvm.cur.isNone && s.nvm.queue.isEmpty && s.nvm.slotBusy.isNone && s.nvm.slotJobs.isEmpty
    && s.fleet.held.all (fun h => !h.sent) && s.hws.all (fun e => e.2.sendQ.isEmpty && e.2.replay.isEmpty)
    && s.pwr.holds.isEmpty && s.mgmt.upd == .idle

/-- R396: the device tells its peers its power state: 1 AWAKE, 2 SLEEP, 3 DEEP, with the complement. -/
def State.announce (code : Nat) (s : State) : State :=
  let body := toLe 1 code ++ toLe 1 (0xFF - code)
  if s.isManager then
    ((s.fleet.dev.filter fun e => decide (e.2.st = .joined ∨ e.2.st = .asleep ∨ e.2.st = .dormant)).map Prod.fst).foldl
      (fun t d => t.sendMsg (t.mkMsg 9 0 d 0 body)) s
  else if s.isWorker ∧ s.fleet.devNum.isSome then s.sendMsg (s.mkMsg 9 0 0 0 body) else s

/-- The retained tiers (R120); a pair that does not match retains every tier (log 26). -/
def State.retained (s : State) : Word := if pairOk s.pwr.deckRet then pairVal s.pwr.deckRet else 0xFFFFFFFF

/-- R119: the device enters SLEEP; the orders that waited for it complete (R172). -/
def State.enterSleep (s : State) : State :=
  let s := if pairOk s.pwr.deckRet then s else s.mismatch 0x508 none 0x30008
  let s := s.pwr.sleepPending.foldl (fun t pid => t.finish pid stOk 2 0) s
  let s := s.announce 2
  let s := (List.range 32).foldl (fun t n =>
    let x := t.slice n
    let t := t.onSlice n fun x => { x with prewoken := none, prewakePid := none }
    if x.st = .off then t
    else t.sliceDown n (if x.floor = .off ∨ (t.owner n).isNone then .off else .nap)) s
  let s := s.onPwr fun p =>
    { p with sleepPending := [], hbmSr := true, deckOff := ~~~s.retained, dev := .sleep, pilotHalted := true, wakePending := false }
  let s := s.onHost fun h => { h with linkL12 := true, d3hot := false }
  let s := s.onMgmt fun m => { m with reasm := [] }
  let s := s.onHws fun t => t.map fun e => (e.1, if e.2.st = .active ∧ e.2.lpiEn then { e.2 with lpi := true } else e.2)
  s.raise 5

/-- R11: the idle conditions have held for the idle dwell. -/
def execIdleDwellExpiry (s : State) : Result :=
  done <| if s.awake && s.idle && !((List.range 32).any fun n => s.partExists n && s.strict n) then s.enterSleep else s

/-- R123: a pending SLEEP order, or D3hot (Table 3-1), enters SLEEP as soon as the device is idle. -/
def execSleepPendingEntry (s : State) : Result :=
  done <| if s.awake && (!s.pwr.sleepPending.isEmpty || s.host.d3hot) && s.idle then s.enterSleep else s

/-- Messages for causes held in SLEEP or DEEP go out (R475, R477). -/
def State.sendHeldCauses (s : State) : State :=
  let m := s.host.heldCauses &&& ~~~s.host.intMask &&& s.host.intCause
  let v := s.host.heldVfs
  let t := (s.onHost fun h => { h with heldCauses := 0, heldVfs := [] }).sendCauses m
  v.foldl (fun t e =>
    let f := t.host.vfs.look e.1 {}
    t.sendVfCauses e.1 (e.2 &&& ~~~f.mask &&& f.cause)) t

/-- Packets whose wait ended while the device slept complete (R12). -/
def State.tellHeld (s : State) : State :=
  (s.q.inflight.filterMap fun i => i.answer.map fun a => (i.pkt.pid, a)).foldl (fun t e => t.finish e.1 e.2.1 e.2.2 0) s

/-- R120, R280: tiers that were not retained are filled with zeros. -/
def State.zeroTiers (s : State) : State :=
  (ones s.pwr.deckOff).foldl (fun t b =>
    (List.range 4).foldl (fun t k =>
      let sl := b / 4 * 4 + k
      let t := t.onMem fun m => m.zero (deckBase sl (b % 4)) 0x08000000
      if b % 4 = 3 then t.onCim fun c =>
        { c with zeroed := setBit c.zeroed sl, poisoned := c.poisoned.filter fun e => e.1 / 2048 != sl }
      else t) t) s

/-- The device is AWAKE again. -/
def State.comeAwake (s : State) : State :=
  let t := s.onPwr fun p => { p with dev := .awake, wakePending := false, pilotHalted := false, deckOff := 0 }
  let t := t.onHost fun h => { h with linkL12 := false }
  -- BEATs are expected anew from now on (R396)
  let t := t.onFleet fun f =>
    { f with mgrBeat := t.time.tick
             dev := f.dev.map fun e => (e.1, if e.2.st = .joined then { e.2 with lastBeat := t.time.tick } else e.2) }
  ((((t.raise 5).sendHeldCauses).tellHeld).announce 1).sendHeld

/-- R14, R119, R120, R447: a wake from SLEEP completes after `us` µs; the stacks of `failed` did not leave
self-refresh. -/
def execDeviceAwake (us : Nat) (failed : BitVec 8) (s : State) : Result :=
  done <|
    if s.pwr.dev = .sleep ∧ s.pwr.wakePending then
      let t := s.zeroTiers.comeAwake
      let t := t.onPwr fun p => { p with hbmSr := s.tw.tripped, hbmFail := failed, hbmTries := 0 }
      let t := if failed = 0 then t else (slicesOfDies failed).foldl (fun t n => t.sliceLost n) t
      if 400 < us then t.logOcc { event := 0x603, sev := 2, addr := BitVec.ofNat 64 us } else t
    else s

/-- Slices of a die become available again after a retry (R447). -/
def State.sliceBack (n : Nat) (s : State) : State :=
  if s.coreMask n ≠ 0 ∧ !s.waysGone n then
    (s.onSlice n fun x => { x with unavail := false }).onBoot fun b => { b with avail := setBit b.avail n }
  else s

/-- R447: a retry of the exit from self-refresh; `failed` names the stacks that still did not leave it. -/
def execHbmSrExitRetry (failed : BitVec 8) (s : State) : Result :=
  done <|
    if s.awake ∧ s.pwr.hbmFail ≠ 0 ∧ s.pwr.hbmTries < 2 then
      let back := s.pwr.hbmFail &&& ~~~failed
      let t := s.onPwr fun p => { p with hbmFail := p.hbmFail &&& failed, hbmTries := p.hbmTries + 1 }
      (slicesOfDies back).foldl (fun t n => t.sliceBack n) t
    else s

/-- R124: every packet that is left when DEEP begins completes NOT_READY: the undispatched ones, and those that still wait,
whose counters and semaphores lose their power (log 84). -/
def State.refuseRest (s : State) : State :=
  let s := s.queues.foldl (fun t q =>
    let t := (t.queue q).buffer.foldl (fun t p => t.refuse q p stNotReady 0 0) t
    t.onQueue q fun x => { x with buffer := [], sqGet := x.sqPut }) s
  s.q.inflight.foldl (fun t i => t.finish i.pkt.pid stNotReady 0 0) s

/-- What loses power in DEEP (Table 5-3, R122): HBM, the deck, the sync stores, the hub's caches and directories. -/
def State.deepLoss (s : State) : State :=
  let s := s.onMem fun m => { m with bytes := [], poison := [], gen := [], near := [], plru := [], miss := [], comb := [], rmw := [],
                                     dir := [], resv := [], nacked := [], fwdWait := [], tlb := [] }
  let s := s.onSync fun x => { x with tally := [], sem := [], inbox := [] }
  let s := s.onRed fun _ => {}
  let s := s.onCim fun c => { c with calTrim := [], calValid := 0, poisoned := [] }
  let s := s.onHost fun h => { h with linkDown := true }
  let s := s.onMgmt fun m => { m with reasm := [] }
  s.onHws fun t => t.map fun e => (e.1, { e.2 with st := .down, width := 0, lpi := false, record := none, gap := false })

/-- R122: DEEP is entered once its order has been accepted: the order completes, every other packet NOT_READY, training is
saved, and what loses power is lost. -/
def State.enterDeep (s : State) : State :=
  let s := (s.q.inflight.filter Inflight.deepOrder).foldl (fun t i => t.finish i.pkt.pid stOk 3 0) s
  let s := s.refuseRest.announce 3
  let s := (List.range 32).foldl (fun t n => (t.onSlice n fun x => { x with prewoken := none, prewakePid := none }).setSlice n .off) s
  let s := s.onPwr fun p =>
    { p with dev := .deep, saved := some true, pilotHalted := true, wakePending := p.deepWake, deepAccepted := false
             deepWake := false
             die := p.die.map fun e =>
               (e.1, { e.2 with pllOn := false, change := none, relocking := false, back := false, pmbBusy := false }) }
  s.deepLoss.raise 5

/-- R131: stages 10 and 11 are repeated in full. A slice that was lost before stays so, the repeat being no reset. -/
def State.repeatTraining (r : Retrain) (s : State) : State :=
  let t := s.logOcc { event := 0x605, sev := 2 }
  let t := (t.bistOutcome r.pllFail r.badCores r.badUncore).hbmOutcome r.hbmFail
  t.noSlice 11 fun t => t

/-- R122, R131, R277: a wake from DEEP completes; where the saved training could not be restored, stages 10 and 11 were
repeated with the outcomes of `full`. -/
def execDeepWakeDone (full : Option Retrain) (s : State) : Result :=
  done <|
    if s.pwr.dev = .deep ∧ s.pwr.wakePending then
      let t := s.comeAwake
      let t := t.onPwr fun p => { p with fullRestore := full.isSome, saved := none, hbmSr := s.tw.tripped }
      let t := t.onHost fun h => { h with linkDown := false }
      let t := match full with | none => t | some r => t.repeatTraining r
      let t := t.calRequest t.availDies
      (List.range 8).foldl (fun t p => t.startSeries p) t
    else s

/-- A launch still to place, or a queued packet, targets the slice (R114). -/
def State.targeted (s : State) (n : Nat) : Bool :=
  (s.work.launch.any fun e => s.owns e.2.part n && (decide (e.2.slices = 0) || e.2.slices.getLsbD n) &&
      (decide (e.2.nextCluster < e.2.clusters) || !e.2.rerun.isEmpty || !e.2.replace.isEmpty))
    || (s.q.tab.any fun e => e.2.buffer.any fun p => (s.needs p).contains n)

/-- R114: RUN to DOZE. -/
def execSliceDozeDwellExpiry (n : Nat) (s : State) : Result :=
  done <|
    if s.awake ∧ n < 32 ∧ (s.slice n).st = .run ∧ s.allDoze n ∧ !s.engineWork n ∧ !s.keptUp n then s.setSlice n .doze else s

/-- R114: DOZE to NAP. -/
def execSliceNapDwellExpiry (n : Nat) (s : State) : Result :=
  done <|
    let x := s.slice n
    if s.awake ∧ n < 32 ∧ x.st = .doze ∧ x.floor ≠ .doze ∧ !s.resident n ∧ !s.engineWork n ∧ !s.targeted n ∧ !s.keptUp n then
      s.sliceDown n .nap
    else s

/-- R114, R115: NAP to OFF. -/
def execSliceOffDwellExpiry (n : Nat) (s : State) : Result :=
  done <|
    let x := s.slice n
    if s.awake ∧ n < 32 ∧ x.st = .nap ∧ (x.floor = .off ∨ (s.owner n).isNone) ∧ !s.keptUp n ∧ !x.waking ∧ !s.resident n
        ∧ !s.engineWork n then s.sliceDown n .off
    else s

/-- The slices a packet of slice scope names. -/
def Packet.slices (p : Packet) : Word := BitVec.ofNat 32 (p.f 20 4)

/-- RESULT of a slice-scope POWER_SET: the effective clock code of the lowest die it names (R172). -/
def State.clockResult (s : State) (p : Packet) : Nat :=
  match ones p.slices with
  | [] => 0
  | n :: _ => s.allowed (dieOf n)

/-- Power packets whose effect is now in force complete (R128, R172): a POWER_SET once its dies' clocks have settled, a
POWER_HOLD once its slices run, with the time of its end in RESULT (R172 against R128: DEDUCED, log 85). -/
def State.powerSettle (s : State) : State :=
  let ready := fun (i : Inflight) =>
    if i.pkt.op = 0x40 ∧ i.pkt.f 18 1 = 1 then
      (ones i.pkt.slices).all fun n => (s.pwr.die.look (dieOf n) {}).change.isNone
    else if i.pkt.op = 0x41 ∧ i.pkt.f 16 1 = 1 then
      (ones i.pkt.slices).all fun n => (s.slice n).st == .run || (s.slice n).unavail
    else false
  (s.q.inflight.filter ready).foldl (fun t i =>
    if i.pkt.op = 0x40 then t.finish i.pkt.pid stOk (t.clockResult i.pkt) 0
    else
      let ends := match t.pwr.holds.find? fun h => h.pid == i.pkt.pid with | some h => h.ends | none => t.nowNs
      t.finish i.pkt.pid stOk ends 0) s

/-- R114: a slice that is called for reaches RUN. -/
def execSliceWakeDone (n : Nat) (s : State) : Result :=
  done <|
    let x := s.slice n
    if s.awake ∧ n < 32 ∧ !x.unavail ∧ (s.owner n).isSome ∧ x.st ≠ .run ∧
        (x.waking ∨ s.keptUp n ∨ (x.st = .doze ∧ (!s.allDoze n ∨ s.engineWork n))) then
      (s.setSlice n .run).powerSettle
    else s

/-- R17, R125: 200 µs have passed without work for a pre-woken slice. A return to the former state is counted; a hold, or
work that has come, keeps the slice. -/
def execPrewakeLapse (n : Nat) (s : State) : Result :=
  done <|
    if (s.slice n).prewoken.isNone ∨ s.engineWork n then s
    else
      let t := s.leavePrewake n
      if s.held n ∨ s.resident n then t else t.onPwr fun p => { p with prewakeCnt := satInc p.prewakeCnt }

/-- A relock of die `d` has ended well at code `c`: the clock is in force, and the die goes on (R106, R111). -/
def State.relocked (d c : Nat) (s : State) : State :=
  let t := s.onDie d fun x =>
    { x with code := c, change := none, relocking := false, back := false, relockFails := if x.back then x.relockFails else 0 }
  (t.retune d).powerSettle

/-- R130: a relock has failed: the PLL goes back to the previous frequency, and after three failures the die's slices become
unavailable. -/
def State.relockFailed (d : Nat) (s : State) : State :=
  let t := s.logOcc { event := 0x602, sev := 2, unit := 0x800 + d, code := d }
  if 3 ≤ (s.pwr.die.look d {}).relockFails + 1 then
    let t := t.onDie d fun x => { x with relocking := false, back := false, change := none, relockFails := 0 }
    ((List.range 4).foldl (fun t k => t.sliceLost (4 * d + k)) t).powerSettle
  else t.onDie d fun x => { x with relockFails := x.relockFails + 1, back := true, change := some x.code }

/-- R106, R111, R130: a relock of die `d` ends; one that goes back after a failure ends at the previous frequency, and any
other no higher than R127 and the voltage allow by now. -/
def execPllRelockDone (d : Nat) (ok : Bool) (s : State) : Result :=
  done <|
    let x := s.pwr.die.look d {}
    if d < 8 ∧ x.pllOn ∧ x.relocking then
      if ok then
        let c := x.change.getD x.code
        s.relocked d (if x.back then x.code else min c (min (s.allowed d) (s.supported d)))
      else s.relockFailed d
    else s

/-- R129: the regulator of die `d` is given up: PMB_FAULT, the log, ALERT_N, and the cap under the last READ_VOUT, or under
the boot voltage where none was read. -/
def State.pmbGiveUp (d : Nat) (s : State) : State :=
  let x := s.pwr.die.look d {}
  let v := if x.lastVout = 0 then 750 else x.lastVout
  let t := s.onDie d fun x =>
    { x with pmbBusy := false, pmbTries := 0, pmbFault := true, faultCap := some (s.codeUnder d v), volt := min x.volt v
             change := if x.relocking then x.change else none }
  let t := t.logOcc { event := 0x601, sev := 2, unit := 0x800 + d, code := d }
  ((if x.pmbFault then t else t.raise 5).retune d).powerSettle

/-- R129: a failed transaction is tried again, twice. -/
def State.pmbAgain (d : Nat) (s : State) : State :=
  if (s.pwr.die.look d {}).pmbTries + 1 < 3 then (s.onDie d fun x => { x with pmbTries := x.pmbTries + 1 }).pmbAsk d
  else s.pmbGiveUp d

/-- R108, R111, R129: a PMBus transaction of die `d` ends: not acknowledged or with a wrong packet error code; with the report
of VOUT_MODE, where anything but ULINEAR16 is a fault from the start; or with READ_VOUT in mV, at the target or not. -/
def execPmbusTransactionDone (d : Nat) (ok : Bool) (a : PmbAnswer) (s : State) : Result :=
  done <|
    let x := s.pwr.die.look d {}
    if d < 8 ∧ x.pmbBusy then
      if !ok then s.pmbAgain d
      else match a with
      | .mode u =>
        if x.pmbMode then s
        else if u then (s.onDie d fun x => { x with pmbMode := true }).pmbAsk d
        else s.pmbGiveUp d
      | .vout mv =>
        if !x.pmbMode then s
        else
          let s := s.onDie d fun x => { x with lastVout := mv }
          if mv ≤ x.target + 10 ∧ x.target ≤ mv + 10 then
            ((s.onDie d fun x => { x with pmbBusy := false, pmbTries := 0, volt := x.target }).retune d).powerSettle
          else s.pmbAgain d
    else s

/-- R129: PMB_ALERT_N: the pilot reads STATUS_WORD of every regulator; the dies of `mask` show a fault bit. -/
def execPmbAlert (mask : BitVec 8) (s : State) : Result :=
  done <|
    if decide (9 ≤ s.boot.stage) && !s.asleep then
      let t := ((List.range 8).filter s.pmbOn).foldl (fun t d =>
        (t.pmbSend d (.page (bits (t.pwr.die.look d {}).pmbCfg 8 8))).pmbSend d .statusWord) s
      let t := t.onTw fun w => { w with pmbHold := mask }
      let t := (ones (mask &&& ~~~s.tw.pmbHold)).foldl (fun t d => t.logOcc { event := 0x601, sev := 2, unit := 0x800 + d, code := d }) t
      t.retuneAll
    else s

/-- R112: the 1 ms step of the budget control, with the 10 ms average in 0.1 W. -/
def execBudgetStep (power : Nat) (s : State) : Result :=
  done <|
    if !s.awake then s
    else
      let s := s.onPwr fun p => { p with power := BitVec.ofNat 32 power }
      let lim := s.pwr.limit.toNat * 10
      let code := fun d => let x := s.pwr.die.look d {}; if x.pllOn then x.code else 0
      if lim < power then
        match bestBy code (List.range 8) with
        | some d =>
          if code d = 0 then s else (s.onDie d fun x => { x with cap := some (max 16 (x.code - 1)) }).retune d
        | none => s
      else if power * 100 < lim * 95 then
        let capped := (List.range 8).filter fun d => (s.pwr.die.look d {}).cap.isSome
        match bestBy (fun d => 64 - ((s.pwr.die.look d {}).cap.getD 64)) capped with
        | some d =>
          (s.onDie d fun x =>
            { x with cap := x.cap.bind fun c => if s.merged d ≤ c + 1 then none else some (c + 1) }).retune d
        | none => s
      else s

/-- R172: a hold's duration ends. -/
def execPowerHoldExpiry (pid : Nat) (s : State) : Result :=
  done <| s.onPwr fun p =>
    { p with holds := p.holds.filter fun h => !(h.pid == pid && decide (h.ends ≤ s.nowNs)) }

/-- R14: the host leaves L1.2, which wakes a sleeping device. -/
def execHostL12Exit (s : State) : Result :=
  done <| (s.onHost fun h => { h with linkL12 := false }).hostWake

/-- Table 3-1: D3hot from the driver asks for device SLEEP. -/
def execD3hotRequest (s : State) : Result :=
  done <| if s.awake && s.boot.ready then s.onHost fun h => { h with d3hot := true } else s

/-- Any context exists (R13). -/
def State.anyContext (s : State) : Bool := s.obj.ctx.any fun e => decide (e.2.st ≠ .ended)

/-- Every pending SLEEP order completes CONFLICT with the source that prevailed (R173). -/
def State.withdrawSleep (source : Nat) (s : State) : State :=
  (s.pwr.sleepPending.foldl (fun t pid => t.finish pid stConflict 0 source) s).onPwr fun p => { p with sleepPending := [] }

/-- R13, R123, R172, R173: a device-scope POWER_SET. DEEP loses to a device hold in force (log 26). -/
def execPowerSetDevice (q : QueueId) (s : State) : Result :=
  done <| s.dispatch q 0x40 (fun p => p.f 18 1 == 0) fun p s =>
    match p.f 16 1 with
    | 1 =>
      if s.tw.tripped then s.finish p.pid stThermal 0 0 else (s.withdrawSleep q.source).finish p.pid stOk 1 0
    | 2 =>
      let t := s.onPwr fun w => { w with sleepPending := w.sleepPending ++ [p.pid] }
      t.onInflight p.pid fun i => { i with deadline := some (s.nowNs + s.timeoutOf p (p.f 24 8) * 1000) }
    | _ =>
      if s.anyContext ∨ s.mgmt.upd ≠ .idle then s.finish p.pid stNotReady 0 0
      else
        match s.pwr.holds.find? fun h => h.slices.isNone with
        | some h => s.finish p.pid stConflict 0 h.source
        | none => (s.withdrawSleep q.source).onPwr fun w => { w with deepAccepted := true }

/-- R117, R127, R128: a slice-scope POWER_SET sets FLOOR and the clock request; it completes once the clock is in
force. A slice that is unavailable ignores it (R115). -/
def execPowerSetSlice (q : QueueId) (s : State) : Result :=
  done <| s.dispatch q 0x40 (fun p => p.f 18 1 == 1) fun p s =>
    let fl := p.f 16 1
    let ck := p.f 19 1
    let t := (ones p.slices).foldl (fun t n => if (s.slice n).unavail then t else t.onSlice n fun x =>
      { x with floor := if fl = 0x11 then .doze else if fl = 0x12 then .nap else if fl = 0x13 then .off else x.floor
               clkReq := if ck = 0 then x.clkReq else some ck }) s
    (t.retuneAll).powerSettle

/-- R128, R172: POWER_HOLD keeps the device, or the named slices, awake for DURATION. -/
def execPowerHold (q : QueueId) (s : State) : Result :=
  done <| s.dispatch q 0x41 anyPkt fun p s =>
    let dev := decide (p.f 16 1 = 0)
    let ends := s.nowNs + s.timeoutOf p (p.f 24 8) * 1000
    let h : Hold := { slices := if dev then none else some p.slices, pid := p.pid, ends := ends, source := q.source, part := p.part }
    let t := s.onPwr fun w => { w with holds := w.holds ++ [h] }
    if dev then t.finish p.pid stOk ends 0
    else ((ones p.slices).foldl (fun t n => t.wakeSlice n) t).powerSettle

end Sys2Proof.Machine
end

