-- ==== Sys2Proof/Machine/Queues.lean ====
section
/-! DEFINITION. The meanings of doorbells, fetching and its checks, arbitration, the admin queues' configuration, and
the packets on queues (ch. 6, R168, R171, R422). -/

namespace Sys2Proof.Machine

open Sys2Proof

/-- A queue's page exists and takes writes (ch. 6: a doorbell page of a queue that does not exist). -/
def Queue.there (x : Queue) : Bool := x.enabled && !x.ended

/-- The offset of a queue's doorbell page in its function's BAR0 (R468, R471). -/
def pageOf : QueueId → Nat
  | .admin a => 0x100000 + 4096 * a
  | .part _ k => 0x10000 + 4096 * k
  | .fwd _ => 0

/-- A discarded doorbell or completion GET is logged. -/
def State.doorLog (q : QueueId) (v : Word) (s : State) : State :=
  s.logOcc { event := 0x102, sev := 2, part := (match q with | .part p _ => some p | _ => none), code := q.number, addr := v.setWidth 64 }

/-- DB_BAD becomes 1, which is the ADMIN cause for an admin queue (Table 19-3). -/
def State.setDbBad (q : QueueId) (s : State) : State :=
  let t := s.onQueue q fun x => { x with dbBad := true }
  match q with
  | .admin _ => if (s.queue q).dbBad then t else t.raise 0
  | _ => t

/-- CQ_BAD becomes 1 (Table 19-3). -/
def State.setCqBad (q : QueueId) (s : State) : State :=
  let t := s.onQueue q fun x => { x with cqBad := true }
  match q with
  | .admin _ => if (s.queue q).cqBad then t else t.raise 0
  | _ => t

/-- A write of QDB_SQ_PUT is checked and makes packets visible, or is discarded (R133). -/
def State.sqPutWrite (q : QueueId) (put : Word) (s : State) : State :=
  let x := s.queue q
  if s.host.linkDown then s
  else if !s.boot.ready then s.discarded (pageOf q)
  else if !x.there then (s.doorLog q put).hostWake
  else
    let s := s.hostWake
    if (put - x.sqGet).toNat ≤ 2 ^ x.sqLog ∧ (put - x.sqPut).toNat ≤ 2 ^ x.sqLog then
      if put = x.sqPut then s
      else s.onQueue q fun x => { x with sqPut := put, puts := (put, s.nowNs) :: x.puts }
    else (s.setDbBad q).doorLog q put

/-- R133, R21, R124: a write of QDB_SQ_PUT. -/
def execDoorbellSqPut (q : QueueId) (put : Word) (s : State) : Result := .next (s.sqPutWrite q put)

/-- A write of QDB_CQ_GET reports consumed replies, or is discarded (R138). -/
def State.cqGetWrite (q : QueueId) (get : Word) (s : State) : State :=
  let x := s.queue q
  if s.host.linkDown then s
  else if !s.boot.ready then s.discarded (pageOf q + 8)
  else if !x.there then (s.doorLog q get).hostWake
  else
    let s := s.hostWake
    if (get - x.cqGet).toNat ≤ (x.cqPut - x.cqGet).toNat then (s.onQueue q fun x => { x with cqGet := get }).flushLate q
    else (s.setCqBad q).doorLog q get

/-- R138: a write of QDB_CQ_GET. -/
def execCqGetWrite (q : QueueId) (get : Word) (s : State) : Result := .next (s.cqGetWrite q get)

/-- CONTROLLER code of the party that a queue's packets come from (R150, R388, R406). -/
def State.party (s : State) (q : QueueId) : Nat :=
  match q with
  | .fwd _ => 1
  | _ => if s.isManager then 1 else 2

/-- The party that queue `q` belongs to is partition `n`'s controller of record (R150). -/
def State.controls (s : State) (q : QueueId) (n : Nat) : Bool := bits (s.pmap n) 28 2 == s.party q

/-- The slices that a packet's parameters name as PART's own: offset and mask (R150, R167, R168). -/
def Packet.namedSlices (p : Packet) : List (Nat × Word) :=
  let one := fun n : Nat => (BitVec.twoPow 32 n : Word)
  match p.op with
  | 0x08 => [(32, one (p.f 36 1 * 4 + p.f 32 2 / 2048))]
  | 0x09 => [(40, one (p.f 44 1 * 4 + p.f 40 2 / 2048))]
  | 0x10 | 0x11 | 0x12 | 0x13 => if p.f 20 1 = 0xFF then [(16, one (p.f 16 4 % 2 ^ 17 / 4096))] else []
  | 0x20 => [(36, BitVec.ofNat 32 (p.f 36 4))]
  | 0x26 => [(16, one (p.f 16 1))]
  | 0x34 => [(24, one (p.f 24 4 / 4096))]
  | 0x40 => if p.f 18 1 = 1 then [(20, BitVec.ofNat 32 (p.f 20 4))] else []
  | 0x41 => if p.f 16 1 = 1 then [(20, BitVec.ofNat 32 (p.f 20 4))] else []
  | _ => []

/-- A range of macros leaves the share of its first macro's slice (R167). -/
def Packet.macroLeaves (p : Packet) : Bool :=
  match p.op with
  | 0x08 => decide (2048 < p.f 32 2 % 2048 + p.f 34 2)
  | 0x09 => decide (2048 < p.f 40 2 % 2048 + p.f 42 2)
  | _ => false

/-- A die holds a slice of partition `p`. -/
def State.onDieOf (s : State) (p d : Nat) : Bool := (List.range 4).any fun k => s.owns p (4 * d + k)

/-- A die holds a slice of a STRICT partition (ch. 17). -/
def State.strictDie (s : State) (d : Nat) : Bool := (s.strictOn d).isSome

/-- Dies a CIM_CALIBRATE names (Table 7-6). -/
def State.calDies (s : State) (p : Packet) : List Nat :=
  if p.f 17 1 = 1 then (List.range 8).filter (s.onDieOf p.part) else [p.f 16 1]

/-- Records of the store that no NVM_WRITE may name (R179, Table 18-6). -/
def reservedRecord (r : Nat) : Bool := decide (r ≤ 5)

/-- R174: bits [63:32] of a TW_CONFIG value for a 32-bit register are reserved: the offset of the first such byte that is not
zero. -/
def Packet.twReserved (p : Packet) : Option Nat :=
  if p.op ≠ 0x48 then none
  else (List.range (8 * p.f 18 1)).findSome? fun i =>
    match twReg (p.f 16 2 + 8 * (i / 8)) with
    | some r => if !r.wide && decide (4 ≤ i % 8) && p.f (24 + i) 1 != 0 && decide (24 + i < p.bytes.length) then some (24 + i) else none
    | none => none

/-- Check 7 of Table 6-4: the offset of the first reserved byte of the packet that is not zero. -/
def Packet.check7 (p : Packet) : Option Nat :=
  match p.reservedBad, p.twReserved with
  | some a, some b => some (min a b)
  | some a, none => some a
  | none, b => b

/-- Check 8 of Table 6-4: the offset of an admin-only opcode on a partition queue, or of a fleet packet away from the
manager (R177, R178). -/
def State.check8 (s : State) (q : QueueId) (p : Packet) : Option Nat :=
  let mgr := (p.op == 0x60 || p.op == 0x61) && !(s.isManager && (match q with | .admin _ => true | _ => false))
  if mgr then some 0
  else if q.isAdmin then none
  else if p.adminOnly then some 0
  else if p.op = 0x49 ∧ p.f 20 1 = 0 ∧ (p.f 16 2 = 0x80 ∨ p.f 16 2 = 0x90) then some 16
  else
    match q with
    | .part n _ => if p.op = 0x30 ∧ p.part ≠ n then some 4 else none
    | _ => none

/-- Check 9: PART as R141. -/
def check9 (q : QueueId) (p : Packet) : Bool :=
  match q with
  | .part n _ => p.part == n
  | _ => !p.deviceScope || p.part == 0

/-- Check 10: the offset of the first resource whose controller of record is another party (R150, R159, R167, R198,
R199, R425). -/
def State.check10 (s : State) (q : QueueId) (p : Packet) : Option Nat :=
  let dev := p.deviceScope
  let part := p.part
  let strict := s.strict part
  let adm := q.isAdmin
  firstBad <|
    [(dev || !adm || (match p.op with
        -- these name no partition, or one that need not exist (R150, R167, R181)
        | 0x01 | 0x0A | 0x52 => true
        | 0x50 | 0x51 | 0x70 => !s.partExists part || s.controls q part
        | 0x71 => part == 0 || !s.partExists part || s.controls q part
        | 0x14 => p.f 16 1 == 0 || (s.partExists part && s.controls q part)
        | _ => s.partExists part && s.controls q part), 4)] ++
    (p.namedSlices.map fun e => ((ones e.2).all fun n => s.owns part n, e.1)) ++
    [(!p.macroLeaves, if p.op = 0x08 then 34 else 42),
     (p.op != 0x0A || adm || (s.calDies p).all fun d => s.onDieOf part d && !s.strictDie d, 16),
     (!(strict && (p.op == 0x15 || p.op == 0x16)), 4),
     (!(strict && (p.op == 0x10 || p.op == 0x12) && p.f 20 1 != 0xFF), 20),
     (!(strict && !adm && p.op == 0x41 && p.f 16 1 == 0), 16),
     (p.op != 0x68 || adm || partReadable (p.f 16 4), 16),
     (p.op != 0x69 || !reservedRecord (p.f 16 4), 16)] ++
    (p.handles.map fun h => (p.f h.1 8 == 0 || hPart (p.f h.1 8) == part, h.1))

/-- Bytes left in the register block beyond an offset hold `n` words (R175). -/
def State.check11 (s : State) (q : QueueId) (p : Packet) : Option Nat :=
  match p.rangeBad with
  | some o => some o
  | none =>
    let own := fun off => match shareOf (p.f off 8) with | some (sl, _) => s.owns p.part sl | none => false
    match p.op with
    | 0x02 => if (ones (BitVec.ofNat 32 (p.f 60 4))).all fun n => s.owns p.part n then none else some 60
    | 0x09 => if s.strictDie (p.f 44 1) ∧ 128 < p.f 42 2 then some 42 else none
    | 0x30 =>
      let b := p.f 35 1
      if b % 4 = 0 then none
      else if !q.isAdmin || s.strict p.part then some 35
      else if b % 2 = 1 ∧ !own 16 then some 16
      else if b / 2 % 2 = 1 ∧ !own 24 then some 24 else none
    | 0x49 =>
      if 65536 < p.f 16 2 + 8 * p.f 18 2 then some 18
      else if p.f 20 1 = 0 ∧ p.f 16 2 = 0x90 ∧ p.f 18 2 % 2 = 1 then some 18 else none
    | 0x40 => if p.f 18 1 = 1 ∧ (p.f 16 1 = 1 ∨ p.f 16 1 = 2 ∨ p.f 16 1 = 3) then some 16 else none
    | _ => none

/-- R172: the complement of STATE in a POWER_SET. -/
def powerPairBad (p : Packet) : Bool := p.op == 0x40 && p.f 17 1 != 0xFF - p.f 16 1

/-- Handles after check 11 (R159, R184, R208): the status and reason of the first that fails. -/
def State.handleBad (s : State) (p : Packet) : Option (Nat × Nat) :=
  p.handles.findSome? fun e =>
    let h := p.f e.1 8
    let o := s.objAt (handleKey h)
    if h = 0 then some (stBadParam, reason 0x0C e.1)
    else if (e.2 ≠ 0 ∧ hType h ≠ e.2) ∨ hType h = 0 ∨ 5 < hType h then some (stBadParam, reason 0x0D e.1)
    else if !s.handleLive h then some (stBadParam, reason 0x0C e.1)
    else if o.frozen then some (stIntegrity, 0)
    else if o.waiting && !(o.ended && p.op == 0x25) then
      match o.kind with
      | .context | .queue => none
      | _ => some (stBadParam, reason 0x0C e.1)
    else none

/-- The checks of Table 6-4 in order, then the handles: the status and DETAIL of a rejection (R143). -/
def State.frontCheck (s : State) (q : QueueId) (exp : Word) (p : Packet) : Option (Nat × Nat) :=
  let n := p.f 3 1
  if p.f 1 1 ≠ 0xFF - p.f 0 1 then some (stIntegrity, reason 0x01 1)
  else if p.f 5 1 ≠ 0xFF - p.f 4 1 then some (stIntegrity, reason 0x02 5)
  else
    match opSlots p.op with
    | none => some (stBadOpcode, reason 0x03 0)
    | some (lo, hi) =>
      if n < lo ∨ hi < n then some (stBadParam, reason 0x04 3)
      else if p.f 6 2 % 4096 ≠ q.number then some (stBadParam, reason 0x08 6)
      else if p.seq ≠ exp then some (stBadParam, reason 0x07 8)
      else
        match p.check7 with
        | some o => some (stBadParam, reason 0x05 o)
        | none =>
          match s.check8 q p with
          | some o => some (stDenied, reason 0x09 o)
          | none =>
            if !check9 q p then some (stDenied, reason 0x0B 4)
            else
              match s.check10 q p with
              | some o => some (stDenied, reason 0x0A o)
              | none =>
                if powerPairBad p then some (stIntegrity, reason 0x06 17)
                else
                  match s.check11 q p with
                  | some o => some (stBadParam, reason 0x06 o)
                  | none => s.handleBad p

/-- R125: the slices that a fetched LAUNCH, COPY or CIM_EXEC needs are pre-woken where they are in NAP or OFF. -/
def State.prewakeFor (p : Packet) (s : State) : State :=
  if p.noRunahead || !(p.op == 0x02 || p.op == 0x03 || p.op == 0x09) then s
  else (s.needs p).foldl (fun t n => t.prewake n (some p.pid)) s

/-- A packet that has been read, from a ring or a FORWARD, meets the checks: it is rejected, refused, or joins the
queue's buffer; the expected SEQ follows it (R142, R143, R124). -/
def State.intake (q : QueueId) (p : Packet) (s : State) : State :=
  let exp := (s.queue q).seqExp
  let t := s.onQueue q fun x => { x with seqExp := p.seq + 1 }
  match s.frontCheck q exp p with
  | some (st, d) => t.reject q p st d
  | none =>
    if s.pwr.deepAccepted then t.refuse q p stNotReady 0 0
    else (t.onQueue q fun x => { x with buffer := x.buffer ++ [p] }).prewakeFor p

/-- The harbour time at which the doorbell that covered ring positions up to `last` was accepted (R151). -/
def Queue.arrival (x : Queue) (last : Word) (now : Nat) : Nat :=
  let ok := x.puts.filter fun e => decide ((last - x.sqGet).toNat ≤ (e.1 - x.sqGet).toNat)
  match ok.getLast? with
  | some e => e.2
  | none => now

/-- R147, R148: the buffer takes another packet. -/
def Queue.mayFetch (x : Queue) : Bool :=
  x.enabled && !x.ended && !x.fetchErr && x.late.isEmpty && decide (x.buffer.length < 16) && !(x.buffer.any Packet.noRunahead)

/-- The slot at ring position `i`, the `k`th of its packet: from device memory, or what the host's memory holds. -/
def State.slotBytes (s : State) (x : Queue) (i : Word) (k : Nat) (slots : List Byte) : List Byte :=
  if x.sqDev then s.mem.read (x.sqBase.toNat + (i.toNat % 2 ^ x.sqLog) * 64) 64
  else ((slots.drop (64 * k)).take 64 ++ List.replicate 64 0).take 64

/-- R155: a ring access has failed twice: the queue stops, and the failure is logged and raised. -/
def State.fetchStop (q : QueueId) (s : State) : State :=
  let part := match q with | .part p _ => some p | _ => none
  let t := ((s.onQueue q fun x => { x with fetchErr := true }).logOcc { event := 0x103, sev := 4, part := part, code := q.number }).raise 0
  match part with
  | some p => t.raiseVf p 0
  | none => t

/-- A slot of a submission ring in device memory is poisoned (R155, R316). -/
def State.slotPoisoned (s : State) (x : Queue) (i : Word) : Bool :=
  x.sqDev && s.mem.poisoned (x.sqBase.toNat + (i.toNat % 2 ^ x.sqLog) * 64) 64

/-- R134: the pilot fetches the next packet of a queue, once all its slots lie below PUT, and checks it. The bytes of a
ring in host memory are the command's. A poisoned slot of device memory fails at the retry too (R155). -/
def execPacketFetch (q : QueueId) (slots : List Byte) (s : State) : Result :=
  done <|
    let x := s.queue q
    let ready := s.awake && x.mayFetch &&
      (match q with | .part p _ => !s.strict p || s.nowNs / 1000 % 32 == p | .admin _ => true | .fwd _ => false)
    let avail := (x.sqPut - x.sqGet).toNat
    if !ready || avail == 0 then s
    else
      let first := s.slotBytes x x.sqGet 0 slots
      let n := field first 3 1
      let n := if 1 ≤ n ∧ n ≤ 8 then n else 1
      if s.slotPoisoned x x.sqGet then s.fetchStop q
      else if avail < n then s
      else if (List.range n).any fun k => s.slotPoisoned x (x.sqGet + BitVec.ofNat 32 k) then s.fetchStop q
      else
        let bytes := ((List.range n).map fun k => s.slotBytes x (x.sqGet + BitVec.ofNat 32 k) k slots).flatten
        let get := x.sqGet + BitVec.ofNat 32 n
        let p : Packet := { bytes := bytes, arrival := x.arrival get s.nowNs, pid := s.q.nextPid }
        let t := s.onQ fun y => { y with nextPid := y.nextPid + 1 }
        let t := t.onQueue q fun x =>
          { x with sqGet := get, puts := x.puts.filter fun e => decide (0 < (e.1 - get).toNat) && decide ((e.1 - get).toNat ≤ 2 ^ x.sqLog) }
        let t := if t.pwr.dev = .ready then (t.onPwr fun w => { w with dev := .awake }).raise 5 else t
        t.intake q p

/-- R155: an access to a ring of the queue has failed, and failed again at its retry after 10 µs. -/
def execFetchError (q : QueueId) (s : State) : Result :=
  .next <|
    let x := s.queue q
    if x.there && !x.fetchErr && s.awake then s.fetchStop q else s

/-- Outcome of an order on device power: AWAKE, SLEEP or DEEP (Table 7-12); a hold asks for AWAKE. -/
def Packet.powerOutcome (p : Packet) : Nat := if p.op = 0x41 then 1 else p.f 16 1

/-- R152: two packets name the same shared resource with different outcomes. -/
def conflicts (a b : Packet) : Bool :=
  if a.powerDevice && b.powerDevice then a.powerOutcome != b.powerOutcome
  else if a.op = 0x48 ∧ b.op = 0x48 then
    (List.range (a.f 18 1)).any fun i => (List.range (b.f 18 1)).any fun j =>
      a.f 16 2 + 8 * i == b.f 16 2 + 8 * j && a.f (24 + 8 * i) 8 != b.f (24 + 8 * j) 8
  else if (a.op = 0x58 ∨ a.op = 0x59) ∧ (b.op = 0x58 ∨ b.op = 0x59) then
    a.f 16 2 == b.f 16 2 && (a.op != b.op || a.f 18 1 != b.f 18 1)
  else if a.op = 0x69 ∧ b.op = 0x69 then a.f 16 4 == b.f 16 4 && (a.f 24 8 != b.f 24 8 || a.f 32 4 != b.f 32 4)
  else false

/-- R152, R153: a decision of Tidewatch or of hardware safety conflicts with a packet: hardware safety with every order, a wake
with device power ordered otherwise, a trip with the device being ordered or held AWAKE (log 29). -/
def OwnOrder.conflicts (o : OwnOrder) (p : Packet) : Bool :=
  if o.outcome = 0 then true
  else if o.outcome = 4 then p.powerDevice && p.powerOutcome == 1
  else p.powerDevice && p.powerOutcome != o.outcome

/-- An order of a packet in a window: its queue and its packet. -/
abbrev Order := QueueId × Packet

/-- What decides between orders (R152): rank, how awake a power order is, arrival, partition and queue number. -/
def orderKey (source outcome arrival part number : Nat) : List Nat := [source, 4 - (if outcome = 0 then 0 else 4 - outcome), arrival, part, number]

/-- The key of a packet's order. -/
def Order.key (o : Order) : List Nat :=
  orderKey o.1.source (if o.2.powerDevice then o.2.powerOutcome else 0) o.2.arrival o.2.part o.1.number

/-- The key of a decision that no packet brings. -/
def OwnOrder.key (o : OwnOrder) : List Nat := orderKey o.source o.outcome o.time 0 0

/-- R152: `a` goes before `b`. -/
def beats (a b : Order) : Bool := decide (Order.key a < Order.key b)

/-- The order that goes before all others. -/
def bestOrder : List Order → Option Order
  | [] => none
  | a :: r => match bestOrder r with
    | none => some a
    | some b => if beats b a then some b else some a

/-- A losing packet completes CONFLICT with the winner's SOURCE (R153). -/
def State.loseOrder (source : Nat) (o : Order) (s : State) : State :=
  (s.onQueue o.1 fun x => { x with buffer := x.buffer.filter fun p => p.pid != o.2.pid }).refuse o.1 o.2 stConflict 0 source

/-- A window is resolved: each packet's order in turn is granted, and those that conflict with it lose; one that a decision of
Tidewatch or of hardware safety goes before, and conflicts with, loses to that (the first such); `k` bounds them (R152, R153). -/
def State.resolve (own : List OwnOrder) : Nat → List Order → State → State
  | 0, _, s => s
  | k + 1, l, s =>
    match bestOrder l with
    | none => s
    | some w =>
      let rest := l.filter fun o => o.2.pid != w.2.pid
      match own.find? fun o => o.conflicts w.2 && decide (o.key < w.key) with
      | some o => State.resolve own k rest (s.loseOrder o.source w)
      | none =>
        let t := s.onQueue w.1 fun x => { x with buffer := x.buffer.map fun p => if p.pid = w.2.pid then { p with granted := true } else p }
        let t := (rest.filter fun o => conflicts w.2 o.2).foldl (fun t o => t.loseOrder w.1.source o) t
        State.resolve own k (rest.filter fun o => !conflicts w.2 o.2) t

/-- Orders of every queue that await their window. -/
def State.orders (s : State) : List Order :=
  (s.queues.map fun q => ((s.queue q).buffer.filter fun p => p.arbitrated && !p.granted).map fun p => (q, p)).flatten

/-- A packet that became visible in microsecond `w` or before is still to be fetched, and can be (R147, R151). -/
def State.unfetched (s : State) (w : Nat) : Bool :=
  s.queues.any fun q =>
    let x := s.queue q
    !s.strictQueue q && x.mayFetch && x.sqPut != x.sqGet && decide (x.arrival (x.sqGet + 1) s.nowNs / 1000 ≤ w)

/-- R152: the oldest window that has ended is resolved, once the packets that became visible in it have been fetched as far as
their buffers take them. -/
def execArbitrationWindowEnd (s : State) : Result :=
  done <|
    let l := s.orders
    match l.map fun o => o.2.arrival / 1000 with
    | [] => s
    | a :: r =>
      let w := r.foldl min a
      if decide (s.nowNs / 1000 ≤ w) || s.unfetched w then s
      else
        let own := s.q.own.filter fun o => o.time / 1000 == w
        (s.onQ fun x => { x with own := x.own.filter fun o => decide (w < o.time / 1000) }).resolve own l.length
          (l.filter fun o => o.2.arrival / 1000 == w)

/-- ADMQ_CFG is written with ENABLE 1 (R156): a bad size discards the write; the indices become zero and the expected SEQ SEQ0,
and the sizes are taken only where the queue was disabled. On a stopped queue it is the admin host's clear of R155 (log 36). -/
def State.admqEnable (a : Nat) (cfg : Word) (s : State) : State :=
  let q := QueueId.admin a
  let x := s.queue q
  if !(ringOk (bits cfg 0 5) && ringOk (bits cfg 16 5)) then s.setDbBad q
  else if x.enabled then
    let t := s.onQueue q fun x =>
      { x with vector := bits cfg 8 6, sqPut := 0, sqGet := 0, cqGet := 0, cqPut := 0, reserved := x.reserved - x.cqPut,
               seqExp := x.seq0, puts := [] }
    (t.clearErr q false).flushLate q
  else s.onQueue q fun x =>
    { x with enabled := true, sqLog := bits cfg 0 5, cqLog := bits cfg 16 5, vector := bits cfg 8 6, sqPut := 0,
             sqGet := 0, cqGet := 0, cqPut := 0, reserved := 0, seqExp := x.seq0, puts := [], buffer := [], held := [], late := [],
             fetchErr := false }

/-- R156: a write of ADMQ_CFG with ENABLE 1. -/
def execAdmqEnable (a : Nat) (cfg : Word) (s : State) : Result :=
  .next <| if !s.boot.ready || !(decide (a < 32)) then s.discarded (0x100050 + a * 4096) else s.hostWake.admqEnable a cfg

/-- ADMQ_CFG is written with ENABLE 0 (R154, R155, R156): a bad size discards the write. -/
def State.admqDisable (a : Nat) (cfg : Word) (s : State) : State :=
  let q := QueueId.admin a
  if !(ringOk (bits cfg 0 5) && ringOk (bits cfg 16 5)) then s.setDbBad q
  else if (s.queue q).enabled then
    (((s.clearErr q true).cancelQueue q).onQueue q fun x => { x with enabled := false, vector := bits cfg 8 6 }).leaveQueue q
  else s.onQueue q fun x => { x with sqLog := bits cfg 0 5, cqLog := bits cfg 16 5, vector := bits cfg 8 6 }

/-- R156, R154: a write of ADMQ_CFG with ENABLE 0 cancels the queue. -/
def execAdmqDisable (a : Nat) (cfg : Word) (s : State) : Result :=
  done <| if !s.boot.ready || !(decide (a < 32)) then s.discarded (0x100050 + a * 4096) else s.hostWake.admqDisable a cfg

/-- R168: NOP completes when it is dispatched. -/
def execNop (q : QueueId) (s : State) : Result :=
  done <| s.dispatch q 0x01 anyPkt fun p s => s.finish p.pid stOk 0 0

/-- R168: FENCE waits for every packet dispatched before it in its scope. -/
def execFence (q : QueueId) (s : State) : Result :=
  done <| s.dispatch q 0x14 anyPkt fun p s =>
    let sc := p.f 16 1
    (s.onInflight p.pid fun i => { i with blocking := true }).waitOn p.pid fun i =>
      if sc = 0 then decide (i.q = q) else if sc = 1 then i.pkt.part == p.part && !i.pkt.deviceScope else true

/-- Queues a partition may hold (R186, Table 6-9). -/
def State.queueLimit (s : State) (p : Nat) : Nat := min 4080 (128 * popcount (s.slicesOf p))

/-- Entries of partition queues that are in use. -/
def State.queueCount (s : State) (p : Nat) : Nat :=
  (s.obj.tab.filter fun e => e.2.live && e.2.kind == .queue && partOfKey e.1 == p).length

/-- R171: QUEUE_CREATE. -/
def execQueueCreate (q : QueueId) (s : State) : Result :=
  done <| s.dispatch q 0x30 anyPkt fun p s =>
    let want := p.f 40 2
    let usable := fun k => (s.objAt (queueEntry p.part k)).isFree
    let k := if want = 0xFFFF then (List.range (s.queueCount p.part + s.obj.tab.length + 1)).find? usable
      else if usable want then some want else none
    match k with
    | none => s.finish p.pid stNoResource 0 0
    | some k =>
      if s.queueLimit p.part ≤ s.queueCount p.part ∨ 4080 ≤ k then s.finish p.pid stNoResource 0 0
      else
        let e := queueEntry p.part k
        let t := s.newObj e .queue (.queue k) 1
        let h := t.handleOf e
        let x : Queue :=
          { enabled := true, sqBase := BitVec.ofNat 64 (p.f 16 8), cqBase := BitVec.ofNat 64 (p.f 24 8),
            sqDev := (p.f 35 1).testBit 0, cqDev := (p.f 35 1).testBit 1, sqLog := p.f 32 1, cqLog := p.f 33 1,
            vector := p.f 34 1, seqExp := BitVec.ofNat 32 (p.f 36 4), seq0 := BitVec.ofNat 32 (p.f 36 4),
            handle := BitVec.ofNat 64 h }
        (t.onQ fun y => { y with tab := y.tab.put (QueueId.part p.part k).code {} x }).finish p.pid stOk h 0

/-- R171, R154: QUEUE_DESTROY; a queue may destroy itself, and this reply is its last. -/
def execQueueDestroy (q : QueueId) (s : State) : Result :=
  done <| s.dispatch q 0x31 anyPkt fun p s =>
    let k := handleKey (p.f 16 8)
    let target := QueueId.part p.part (p.f 16 8 % 4096)
    if (s.objAt k).ended then s.finish p.pid stFaulted 0 0
    else if s.badCounts [k] ≠ [] then (s.freezeBad [k] p.tag).finish p.pid stIntegrity 0 0
    else
      let t := s.endQueue target
      ((t.finish p.pid stOk 0 0).onQueue target fun x => { x with enabled := false }).leaveQueue target

/-- R160: a packet's TIMEOUT has expired: it completes TIMEOUT with no other effect than its reply. -/
def execPacketTimeout (pid : Nat) (s : State) : Result :=
  done <|
    match s.inflight pid with
    | none => s
    | some i =>
      match i.deadline with
      | none => s
      | some d =>
        if s.nowNs < d ∨ i.answer.isSome then s
        else
          match i.pkt.op with
          | 0x11 =>
            let v := (s.tally (i.pkt.f 16 4 % 2 ^ 17)).value
            (s.dropPacketWaiter pid).syncFinish pid .timeout v.toNat
          | 0x13 => (s.dropPacketWaiter pid).syncFinish pid .timeout 0
          | 0x40 => (s.onPwr fun w => { w with sleepPending := w.sleepPending.filter fun x => x != pid }).finish pid stTimeout 0 0
          -- its barrier still runs to its end (R404), and sets no period
          | 0x61 =>
            (s.onFleet fun f =>
              { f with bar := if f.bar.pid = some pid then { f.bar with pid := none, period := 0 } else f.bar
                       barWait := f.barWait.map fun e => if e.1 = pid then (pid, 0) else e }).finish pid stTimeout 0 0
          | _ => s

/-- R422: the microsecond of STRICT partition `p` has come: replies held since its previous slot are written, and four
packets may be dispatched. -/
def execPilotStrictSlot (p : Nat) (s : State) : Result :=
  .next <|
    let us := s.nowNs / 1000
    let again := match s.part.slot with | some (n, u, _) => n == p && u == us | none => false
    if decide (p < 32) && s.partExists p && s.strict p && us % 32 == p && s.awake && !again then
      let qs := s.queues.filter fun q => match q with | .part n _ => n == p && !(s.queue q).fetchErr | _ => false
      qs.foldl (fun t q => t.flushHeld q) (s.onPart fun x => { x with slot := some (p, us, 4) })
    else s

end Sys2Proof.Machine
end

