-- ==== Sys2Proof/Machine/Partition.lean ====
section
/-! DEFINITION. The meanings of the partition and core packets, of a VF's FLR and enable, and of errors in a core's
arrays (R41, R56, R176, R236, R406 to R409, R434 to R437, R440 to R446). -/

namespace Sys2Proof.Machine

open Sys2Proof

/-- The value half of a PART_MAP entry (Table 17-8). -/
def mapEntry (strict : Bool) (controller clock contexts : Nat) : Word :=
  BitVec.ofNat 32 (2 ^ 31 + b2n strict * 2 ^ 30 + controller * 2 ^ 28 + (if strict then clock else 0) * 2 ^ 20 + contexts * 2 ^ 11)

/-- Sync objects and exact slots of the slices of a mask take their values at PART_CREATE and at a VF FLR (R337, Table
15-1). -/
def State.zeroShares (m : Word) (s : State) : State :=
  let t := (ones m).foldl (fun t n => t.zeroSync n) s
  t.onRed fun r => { r with slot := r.slot.filter fun e => !m.getLsbD (e.1 / 8192) }

/-- R416: the partition's keys are drawn again. -/
def State.newKeys (p : Nat) (s : State) : State :=
  s.onPart fun x => { x with keyGen := x.keyGen.put p 0 x.keyNext, keyNext := x.keyNext + 1 }

/-- R408: contexts that may still be reserved: those no STRICT partition reserves and no SHARED one uses. -/
def State.ctxFree (s : State) : Nat :=
  let l := (List.range 32).filter s.partExists
  1024 - (((l.filter s.strict).map fun n => bits (s.pmap n) 11 9).sum + ((l.filter fun n => !s.strict n).map s.ctxCount).sum)

/-- R421, R434: waiting CIM operations of more than 128 places on a die that has become strict end: their packets
complete BAD_PARAM, their kernels' contexts are killed. -/
def State.strictCim (d : Nat) (s : State) : State :=
  let big := ((s.cim.queue.map fun e => e.2).flatten).filter fun o => o.die == d && decide (128 < o.count)
  let t := s.onCim fun c => { c with queue := c.queue.map fun e => (e.1, e.2.filter fun o => !(o.die == d && decide (128 < o.count))) }
  big.foldl (fun t o => match o.owner with
    | .packet pid => (t.dropWork pid).finish pid stBadParam 0 (reason 0x06 42)
    | .gang g _ _ => t.gangFault g 1 0) t

/-- R176, R408, R416, R437: PART_CREATE; `rng` says whether the hub's random source passes its health test. -/
def execPartCreate (q : QueueId) (rng : Bool) (s : State) : Result :=
  done <| s.dispatch q 0x50 anyPkt fun p s =>
    let n := p.part
    let m := BitVec.ofNat 32 (p.f 16 4)
    let strict := p.f 20 1 == 1
    let ctxs := if p.f 22 1 = 0 then 256 else p.f 22 1
    let bad := maskOf 32 ((ones m).filter fun k =>
      (s.owner k).isSome || !s.boot.avail.getLsbD k || (s.slice k).unavail || s.part.scrub.getLsbD k)
    if s.partExists n then s.finish p.pid stBadParam 0 (reason 0x06 4)
    else if bad ≠ 0 then s.finish p.pid stNoResource 0 bad.toNat
    else if !rng then (s.logOcc { event := 0xB03, sev := 6, part := some n, tag := p.tag }).finish p.pid stNoResource 0 0xFFFFFFFF
    else if strict && decide (s.ctxFree < ctxs) then s.finish p.pid stNoResource 0 0
    else
      let t := s.onPart fun x =>
        { x with map := x.map.put n (mkPair 0) (mkPair (mapEntry strict (s.party q) (p.f 21 1) ctxs))
                 slices := x.slices.put n (mkPair 0) (mkPair m)
                 createCnt := x.createCnt.upd n 0 (· + 1)
                 defTimeout := x.defTimeout.put n 0 (p.f 24 8) }
      let t := (t.newKeys n).zeroShares m
      let t := if strict then
          let dies := (List.range 8).filter fun d => (ones m).any fun k => dieOf k == d
          (dies.foldl (fun t d => t.strictCim d) t).strictPorts n true
        else t
      t.retuneAll.finish p.pid stOk 0 0

/-- R409, R436: PART_DESTROY: the partition ends, its slices are released and held OFF, and their fill begins. -/
def execPartDestroy (q : QueueId) (s : State) : Result :=
  done <| s.dispatch q 0x51 anyPkt fun p s =>
    let n := p.part
    if !s.partExists n then s.finish p.pid stBadParam 0 (reason 0x06 4)
    else
      let m := s.slicesOf n
      let t := s.endPartition n false
      let t := (ones m).foldl (fun t k =>
        (t.sliceDown k .off).onSlice k fun x => { unavail := x.unavail }) t
      let t := t.onPwr fun w => { w with holds := w.holds.filter fun h => h.slices.isNone || h.part != n }
      let t := t.onPart fun x =>
        { x with map := x.map.drop n, slices := x.slices.drop n, defTimeout := x.defTimeout.drop n
                 keyGen := x.keyGen.drop n, frozen := clearBit x.frozen n, scrub := x.scrub ||| m
                 scrubbing := x.scrubbing ++ [(n, p.pid, m)]
                 slot := match x.slot with | some (k, u, l) => if k = n then none else some (k, u, l) | none => none }
      let t := t.onWork fun w => { w with ledgerUse := w.ledgerUse.drop n }
      (if s.strict n then t.strictPorts n false else t).retuneAll

/-- The shares of a slice hold zeros with valid ECC (R409). -/
def State.fillShares (sl : Nat) (s : State) : State :=
  let t := s.onMem fun m => m.zero (hbmBase sl) 0x240000000
  let t := (List.range 4).foldl (fun t k => t.onMem fun m => m.zero (deckBase sl k) 0x08000000) t
  let t := t.onCim fun c => { c with poisoned := c.poisoned.filter fun e => e.1 / 2048 != sl }
  t.onPart fun x => { x with prot := x.prot.filter fun e =>
    !(decide (hbmBase sl ≤ e.1 * 65536) && decide (e.1 * 65536 < hbmBase sl + 0x240000000)) }

/-- R409: the fill of the slices of partition `p` is done, and its PART_DESTROY completes. -/
def execPartScrubComplete (p : Nat) (s : State) : Result :=
  done <|
    match s.part.scrubbing.find? fun e => e.1 == p with
    | none => s
    | some (_, pid, m) =>
      if !s.awake then s
      else
        let t := (ones m).foldl (fun t k => t.fillShares k) s
        let t := t.onPart fun x => { x with scrub := x.scrub &&& ~~~m, scrubbing := x.scrubbing.filter fun e => e.1 != p }
        t.finish pid stOk 0 0

/-- RESULT of PART_QUERY (Table 7-13). -/
def State.partResult (s : State) (n : Nat) : Nat :=
  let e := s.partExists n
  if !e then 0
  else
    (s.slicesOf n).toNat + 2 ^ 32 + b2n (s.strict n) * 2 ^ 33 + bits (s.pmap n) 28 2 * 2 ^ 34
      + min 255 (s.ctxCount n) * 2 ^ 40 + s.queueCount n / 16 * 2 ^ 48

/-- R176: PART_QUERY. -/
def execPartQuery (q : QueueId) (s : State) : Result :=
  done <| s.dispatch q 0x52 anyPkt fun p s => s.finish p.pid stOk (s.partResult p.part) 0

/-- R176, R446: CORE_LAYUP. -/
def execCoreLayup (q : QueueId) (s : State) : Result :=
  done <| s.dispatch q 0x58 anyPkt fun p s =>
    let c := p.f 16 2
    let per := p.f 18 1 == 1
    if per && s.tw.tripped then s.finish p.pid stThermal 0 0
    else if (s.coreAt c).laid ≠ .no then s.finish p.pid stOk 1 0
    else (s.layUp c 1 per p.tag).finish p.pid stOk 0 0

/-- R176, R446: CORE_RETURN runs BIST on a core laid up in the field; one that passes is enabled, and its fence map entry
goes. -/
def execCoreReturn (q : QueueId) (bistPass : Bool) (s : State) : Result :=
  done <| s.dispatch q 0x59 anyPkt fun p s =>
    let c := p.f 16 2
    let x := s.coreAt c
    if x.laid ≠ .field then s.finish p.pid stBadParam 0 (reason 0x06 16)
    else if !bistPass then s.finish p.pid stFaulted 0 (c * 65536)
    else
      let t := s.onCoreAt c fun x => { x with laid := .no, cause := 0, persist := false }
      let t := t.logOcc { event := 0x402, sev := 0, part := s.owner (sliceOf c), tag := p.tag, unit := c, code := 0 }
      (if x.persist then t.persist 1 [] else t).finish p.pid stOk 0 0

/-- 24 hours of harbour time in ns (R440). -/
def dayNs : Nat := 86400000000000

/-- R236, R440, R443: an error in an array of core `c`: an uncorrectable one lays the core up, a corrected one is
counted, and the 256th in 24 hours lays it up. -/
def execCoreArrayError (c : Nat) (unc : Bool) (s : State) : Result :=
  done <|
    if 768 ≤ c ∨ !s.coreOn c ∨ s.boot.stage < 10 then s
    else if unc then
      s.layUpHw c 3
    else
      let x := s.coreAt c
      let again := decide (x.corrected = 0) || decide (dayNs ≤ s.nowNs - x.corrFrom)
      let n := if again then 1 else x.corrected + 1
      let t := (s.onCoreAt c fun x => { x with corrected := n, corrFrom := if again then s.nowNs else x.corrFrom }).corrected c
      if 256 ≤ n then t.layUpHw c 5 else t

/-- What a VF FLR does to a partition (R41, R337, R346, R416, R435, R437, Table 8-4). -/
def State.resetPart (n : Nat) (rng : Bool) (s : State) : State :=
  let t := (s.endPartition n true).zeroShares (s.slicesOf n)
  let t := t.onPwr fun w => { w with holds := w.holds.filter fun h => h.slices.isNone || h.part != n }
  let t := t.onWork fun w => { w with ledgerUse := w.ledgerUse.drop n }
  if rng then t.newKeys n else (t.logOcc { event := 0xB03, sev := 6, part := some n }).freezePart n

/-- R41: an FLR of VF `n`; the connection and the session on its DOE mailbox end with it (log 70). -/
def execVfFlr (n : Nat) (rng : Bool) (s : State) : Result :=
  done <|
    if 32 ≤ n ∨ !s.boot.cfgAnswers ∨ s.host.linkDown ∨ !s.vfThere then s
    else
      let s := s.hostWake
      let t := if s.partExists n then s.resetPart n rng else s
      (t.onHost fun h => { h with vfs := h.vfs.drop n }).onMgmt fun m =>
        { m with spdm := m.spdm.drop (n + 3), sessions := m.sessions.filter fun e => e.1 != n + 3 }

/-- R56: a write of VF Enable, deferred to READY. -/
def execVfEnable (on : Bool) (s : State) : Result :=
  .next <|
    if !s.boot.cfgAnswers || s.host.linkDown then s
    else if s.boot.ready then s.hostWake.onHost fun h => { h with vfEnable := on }
    else s.onHost fun h => { h with vfPending := some on }

end Sys2Proof.Machine
end

