-- ==== Sys2Proof/Machine/Fleet.lean ====
section
/-! DEFINITION. The fleet: membership and numbering, heartbeats, loss and return, forwarding, remote windows and remote
synchronisation (R177, R178, R377 to R400). A command that receives a message acts on the oldest one of its kind that has
arrived; with none, or while the device is not awake, nothing happens (log 9). -/

namespace Sys2Proof.Machine

open Sys2Proof

/-- The first element that satisfies a condition, and the list without it. -/
def takeFirst {α : Type} (p : α → Bool) : List α → Option (α × List α)
  | [] => none
  | a :: r => if p a then some (a, r) else (takeFirst p r).map fun e => (e.1, a :: e.2)

/-- R398: messages of a LOST worker are discarded and logged until it has joined again; its ANNOUNCE is how it does. -/
def State.fromLost (s : State) (m : FleetMsg) : Bool :=
  let d := s.fdev m.src
  decide (d.st = .lost) && !d.returning && !(m.cls == 8 && (m.sub == 1 || m.sub == 2))

/-- The oldest message of a kind leaves the inbox, its credits return to the peer, and `f` acts on it, given the port it
arrived on. -/
def takeMsg (sel : FleetMsg → Bool) (f : Nat → FleetMsg → State → State) (s : State) : State :=
  if !s.awake then s
  else
    match takeFirst (fun e => sel e.2.2) s.fleet.inbox with
    | none => s
    | some ((port, pool, m), r) =>
      let t := (s.onFleet fun x => { x with inbox := r }).giveCredit port pool m
      if t.fromLost m then t.discardMsg m else f port m t

/-- Messages of a class and subtype. -/
def isMsg (cls sub : Nat) (m : FleetMsg) : Bool := m.cls == cls && m.sub == sub

/-- A field of a body. -/
def mf (m : FleetMsg) (o l : Nat) : Nat := field m.body o l

/-- FLEET_FORWARD (R177, R389): the inner packet goes to the worker. -/
def execFleetForward (q : QueueId) (s : State) : Result :=
  done <| s.dispatch q 0x60 anyPkt fun p s =>
    let d := p.f 16 1
    match s.unreachable d with
    | some st => s.finish p.pid st 0 0
    | none =>
      let (id, t) := s.nextMsgId
      (t.onFleet fun f => { f with fwdOut := f.fwdOut ++ [(p.pid, id, d)] }).sendMsg (t.mkMsg 1 0 d id (p.bytes.drop 64))

/-- FLEET_QUERY (R178). -/
def execFleetQuery (q : QueueId) (s : State) : Result :=
  done <| s.dispatch q 0x62 anyPkt fun p s =>
    let r := s.fleet.devNum.getD 0 % 64 + b2n s.isManager * 2 ^ 6 + s.devCount .joined % 256 * 2 ^ 8
      + s.devCount .lost % 256 * 2 ^ 16 + s.fleet.id.toNat * 2 ^ 32
    s.finish p.pid stOk r 0

/-- ANNOUNCE_SEND (R378, R399): a worker without a number, or adrift, announces itself on each ACTIVE port. -/
def execAnnounceSend (s : State) : Result :=
  done <|
    if !s.awake && s.boot.ready || !s.isWorker || !(s.fleet.devNum.isNone || decide (s.fleet.own = .adrift)) then s
    else
      let body := toLe 8 Config.serial.toNat ++ toLe 4 s.fleet.id.toNat ++ toLe 4 0 ++ ((s.peersOf 0).map fun x => toLe 8 x.toNat).flatten
      let m := s.mkMsg 8 1 0xFF 0 body
      ((List.range 8).filter fun p => decide ((s.port p).st = .active)).foldl (fun t p => t.sendOn p m) s

/-- Paths compared link count first, then port by port (R379). -/
def pathLess (a b : List Nat) : Bool := decide (a.length < b.length) || (a.length == b.length && decide (a < b))

/-- An announce heard in the round, by its best path. -/
def hear (e : DWord × Word × List Nat × List DWord) (l : List (DWord × Word × List Nat × List DWord)) :
    List (DWord × Word × List Nat × List DWord) :=
  if l.any fun x => x.1 == e.1 then l.map fun x => if x.1 = e.1 ∧ pathLess e.2.2.1 x.2.2.1 then e else x else l ++ [e]

/-- Messages that membership needs are acted on from boot stage 13 on, before the device is READY. -/
def State.fleetUp (s : State) : Bool := s.awake || decide (s.boot.stage = 13) || decide (s.boot.stage = 14)

/-- `takeMsg` for the messages that form the fleet during the boot. -/
def takeEarly (sel : FleetMsg → Bool) (f : Nat → FleetMsg → State → State) (s : State) : State :=
  if !s.fleetUp then s
  else
    match takeFirst (fun e => sel e.2.2) s.fleet.inbox with
    | none => s
    | some ((port, pool, m), r) =>
      let t := (s.onFleet fun x => { x with inbox := r }).giveCredit port pool m
      if t.fromLost m then t.discardMsg m else f port m t

/-- ANNOUNCE_RECEIVE (R378, R379, R380). -/
def execAnnounceReceive (s : State) : Result :=
  done <| takeEarly (isMsg 8 1) (fun port m s =>
    let sn := BitVec.ofNat 64 (mf m 0 8)
    let fid := BitVec.ofNat 32 (mf m 8 4)
    let n := mf m 12 1
    let path := port :: ((List.range n).map fun i => mf m (13 + i) 1)
    if 3 < path.length then s.discardMsg m
    else if s.isManager then
      if fid ≠ 0 ∧ fid ≠ s.fleet.id then s.discardMsg m
      else
        let peers := (List.range 8).map fun i => BitVec.ofNat 64 (mf m (16 + 8 * i) 8)
        s.onFleet fun f =>
          { f with roundOpen := true, roundTick := if f.roundOpen then f.roundTick else s.time.tick, round := hear (sn, fid, path, peers) f.round }
    else if s.fleet.own ≠ .joined ∨ (fid ≠ 0 ∧ s.fleet.id ≠ 0 ∧ fid ≠ s.fleet.id) then s
    else
      let body := m.body.take 12 ++ toLe 1 path.length ++ ((path ++ [0, 0, 0]).take 3).map (BitVec.ofNat 8) ++ m.body.drop 16
      s.sendMsg { m with src := s.myNum, dst := 0, hops := m.hops + 1, body := body }) s

/-- Numbers the fleet table records: serial number and number (R379). -/
def State.recorded (s : State) : List (DWord × Nat) := fleetPairs 63 (((s.record 3).getD []).drop 8)

/-- The number of a worker by step 1 of R379 and R381: the one it holds, or the recorded one if that is free. -/
def State.oldNumber (s : State) (sn : DWord) : Option Nat :=
  match s.devsIn fun d => decide (d.st ≠ .free) && d.sn == sn with
  | d :: _ => some d
  | [] => ((s.recorded.find? fun e => e.1 == sn).map fun e => e.2).filter fun d => decide (1 ≤ d) && decide (d ≤ 63) && decide ((s.fdev d).st = .free)

/-- Step 2: the lowest free number that the fleet table does not record for another worker. -/
def State.newNumber (s : State) (sn : DWord) : Option Nat :=
  ((List.range 63).map (· + 1)).find? fun d =>
    decide ((s.fdev d).st = .free) && !(s.recorded.any fun e => e.2 == d && e.1 != sn)

/-- A worker that has been heard gets a number. -/
def State.number (e : DWord × Word × List Nat × List DWord) (d : Nat) (s : State) : State :=
  let t := s.onDev d fun x =>
    { x with st := if x.st = .free then .reserved else x.st, sn := e.1, links := e.2.2.1.length, path := e.2.2.1, returning := true }
  t.onFleet fun f => { f with peers := f.peers.put d [] e.2.2.2, accepted := f.accepted.drop d }

/-- Before: fewer links, then the lower path, then the lower serial number. -/
def heardLess (a b : DWord × Word × List Nat × List DWord) : Bool :=
  pathLess a.2.2.1 b.2.2.1 || (a.2.2.1 == b.2.2.1 && decide (a.1.toNat < b.1.toNat))

/-- Insertion by `heardLess`. -/
def insHeard (e : DWord × Word × List Nat × List DWord) :
    List (DWord × Word × List Nat × List DWord) → List (DWord × Word × List Nat × List DWord)
  | [] => [e]
  | x :: r => if heardLess e x then e :: x :: r else x :: insHeard e r

/-- The ASSIGN of worker `d` (Table 16-2a), with the epoch of this device in its header. -/
def State.sendAssign (d : Nat) (s : State) : State :=
  let x := s.fdev d
  let body := toLe 8 x.sn.toNat ++ toLe 1 d ++ toLe 3 0 ++ toLe 4 s.fleet.id.toNat ++ toLe 1 x.links
    ++ ((x.path ++ [0, 0, 0]).take 3).map (BitVec.ofNat 8) ++ toLe 4 0 ++ (s.routeTable d).map (BitVec.ofNat 8)
  match x.path with
  | [] => s
  | p :: _ => s.sendOn p (s.mkMsg 8 2 (if x.links ≤ 1 then 0xFF else d) 0 body)

/-- NUMBERING_ROUND_END (R379, R381): 20 ms, 160,000 ticks, after the round's first ANNOUNCE. -/
def execNumberingRoundEnd (s : State) : Result :=
  done <|
    if !s.fleetUp || !s.isManager || !s.fleet.roundOpen || decide (s.time.tick < s.fleet.roundTick + 160000) then s
    else
      let l := s.fleet.round.foldl (fun a e => insHeard e a) []
      let t := s.onFleet fun f => { f with round := [], roundOpen := false }
      let old := l.filterMap fun e => (t.oldNumber e.1).map fun d => (e, d)
      let t := old.foldl (fun t x => t.number x.1 x.2) t
      let (t, ds) := (l.filter fun e => !(old.any fun x => x.1.1 == e.1)).foldl (fun (a : State × List Nat) e =>
        match a.1.newNumber e.1 with
        | some d => (a.1.number e d, a.2 ++ [d])
        | none => (a.1.logOcc { event := 0x706, sev := 2, code := 0x81, addr := e.1 }, a.2)) (t, old.map fun x => x.2)
      (ds.foldl (fun t d => t.sendAssign d) t).newRoutes

/-- R400: a returning worker starts afresh: partitions reset as by a VF FLR, forward queues and message counts restart. -/
def State.returnAfresh (rng : Bool) (s : State) : State :=
  let t := ((List.range 32).filter s.partExists).foldl (fun t n => t.resetPart n rng) s
  let t := t.onQ fun x => { x with tab := x.tab.filter fun e => decide (e.1 < 32) || decide (64 ≤ e.1)
                                   inflight := x.inflight.filter fun i => match i.q with | .fwd _ => false | _ => true }
  t.onFleet fun f => { f with fwdIn := [], msgCnt := 0 }

/-- ASSIGN_RECEIVE (R380, R382, R400): a relay passes it along its port path; the assignee takes its number, fleet ID, epoch
and routes. `rng` is the hub's random source for a returning worker's keys. -/
def execAssignReceive (rng : Bool) (s : State) : Result :=
  done <| takeEarly (isMsg 8 2) (fun _ m s =>
    let fid := BitVec.ofNat 32 (mf m 12 4)
    if m.dst ≠ 0xFF then
      if s.fleet.own ≠ .joined ∨ (s.fleet.id ≠ 0 ∧ fid ≠ s.fleet.id) ∨ 3 ≤ m.hops + 1 then s.discardMsg m
      else
        let last := decide (mf m 16 1 ≤ m.hops + 2)
        s.sendOn (mf m (17 + m.hops + 1) 1 % 8) { m with hops := m.hops + 1, dst := if last then 0xFF else m.dst }
    else if !s.isWorker ∨ BitVec.ofNat 64 (mf m 0 8) ≠ Config.serial ∨ (s.fleet.id ≠ 0 ∧ fid ≠ s.fleet.id) then s.discardMsg m
    else
      let fresh := s.fleet.id = 0
      let t := if s.fleet.own = .adrift then s.returnAfresh rng else s.onFleet fun f => { f with msgCnt := 0 }
      let t := t.onFleet fun f =>
        { f with devNum := some (mf m 8 1 % 64), id := fid, epoch := m.epoch, barriers := m.epoch - 1, closed := none, mgrBeat := t.time.tick }
      let t := if fresh then t.saveFleetId else t
      ((t.setOwn .joined).installRoutes ((m.body.drop 24).map BitVec.toNat)).stage14) s

/-- ROUTES_RECEIVE (R383): a LOST device that is reachable again has joined again. -/
def execRoutesReceive (s : State) : Result :=
  done <| takeEarly (isMsg 8 3) (fun _ m s =>
    let t := s.installRoutes (m.body.map BitVec.toNat)
    if t.isManager then t
    else t.onFleet fun f => { f with dev := f.dev.filter fun e => !(decide (e.2.st = .lost) && (f.route.find e.1).isSome)
                                     cons := f.cons.map fun e => (e.1, { e.2 with frozen := e.2.frozen && (f.route.find e.2.peer).isNone }) }) s

/-- BEAT_SEND (R395). -/
def execBeatSend (s : State) : Result :=
  done <|
    if !s.fleetUp then s
    else
      let body := toLe 8 s.nowNs
      if s.isManager then (s.devsIn fun d => decide (d.st = .joined)).foldl (fun t d => t.sendMsg (t.mkMsg 8 0 d 0 body)) s
      else if s.fleet.own = .joined ∧ (s.fdev 0).st ≠ .asleep then s.sendMsg (s.mkMsg 8 0 0 0 body) else s

/-- BEAT_RECEIVE (R395, R400): the first BEAT of a worker that has its ASSIGN completes its join, and its frozen pairs are to
be realigned. -/
def execBeatReceive (s : State) : Result :=
  done <| takeEarly (isMsg 8 0) (fun _ m s =>
    if s.isManager then
      let now := s.time.tick
      if (s.fdev m.src).returning then
        let t := s.onDev m.src fun x => { x with st := .joined, returning := false, realign := true, lastBeat := now }
        (t.onFleet fun f => { f with cons := f.cons.map fun e => (e.1, if e.2.peer = m.src then { e.2 with frozen := false } else e.2) }).stage14.newRoutes
      else s.onDev m.src fun x => if x.st = .free then x else { x with lastBeat := now }
    else if m.src = 0 then s.onFleet fun f => { f with mgrBeat := s.time.tick } else s) s

/-- R398: what a device does about a LOST worker: its operations toward it end PEER_LOST, messages to it go, mirrors of its
events are orphaned, pairs toward it are BROKEN, pairs from it frozen. -/
def State.dropPeer (d : Nat) (s : State) : State :=
  let f := s.fleet
  let pids := ((f.fwdOut ++ f.syncOut ++ f.importOut).filter fun e => e.2.2 == d).map fun e => e.1
  let t := s.onFleet fun f =>
    { f with fwdOut := f.fwdOut.filter (fun e => e.2.2 != d)
             syncOut := f.syncOut.filter (fun e => e.2.2 != d)
             importOut := f.importOut.filter (fun e => e.2.2 != d)
             held := f.held.filter (fun h => h.msg.dst != d)
             relay := f.relay.filter (fun m => m.dst != d && m.src != d)
             accepted := f.accepted.drop d
             prod := f.prod.map (fun e => (e.1, if e.2.valid && e.2.peer == d then { e.2 with broken := true } else e.2))
             cons := f.cons.map fun e => (e.1, if e.2.valid && e.2.peer == d then { e.2 with frozen := true } else e.2) }
  let t := pids.foldl (fun t p => t.finish p stPeerLost 0 0) t
  let t := (t.mirrorsOf d fun _ => true).foldl (fun t e => t.orphan e.1 e.2) t
  ((List.range 4).filter fun c => (f.rw.look c {}).busy && bits (f.rw.look c {}).ctrl 16 6 == d).foldl (fun t c => t.rwEnd c stPeerLost) t

/-- R398: the manager declares worker `d` LOST. -/
def State.loseWorker (d : Nat) (s : State) : State :=
  let t := (s.onDev d fun x => { x with st := .lost, returning := false }).logOcc { event := 0x705, sev := 2, code := d, addr := (s.fdev d).sn }
  let t := (t.devsIn fun x => decide (x.st = .joined)).foldl (fun t e =>
    t.sendMsg (t.mkMsg 8 4 e 0 (toLe 1 d ++ toLe 7 0 ++ toLe 8 (s.fdev d).sn.toNat))) t
  (t.dropPeer d).newRoutes

/-- R399: a worker that is ADRIFT: its remote operations end PEER_LOST, its held messages go. -/
def State.goAdrift (s : State) : State :=
  let t := (s.setOwn .adrift).logOcc { event := 0x705, sev := 2, code := 0 }
  let pids := (t.fleet.fwdOut ++ t.fleet.syncOut ++ t.fleet.importOut).map fun e => e.1
  let t := t.onFleet fun f =>
    { f with fwdOut := [], syncOut := [], importOut := [], held := [], relay := f.relay.filter fun m => m.src != t.myNum }
  pids.foldl (fun t p => t.finish p stPeerLost 0 0) t

/-- WORKER_ADRIFT (R399): 8 ms, 64,000 ticks, without a BEAT of a manager that has not announced SLEEP. -/
def execWorkerAdrift (s : State) : Result :=
  done <|
    if s.awake && s.isWorker && decide (s.fleet.own = .joined) && decide ((s.fdev 0).st ≠ .asleep)
        && decide (s.fleet.mgrBeat + 64000 ≤ s.time.tick) then s.goAdrift
    else s

/-- LOSS_RECEIVE (R398). -/
def execLossReceive (s : State) : Result :=
  done <| takeMsg (isMsg 8 4) (fun _ m s =>
    let d := mf m 0 1
    if s.isManager ∨ m.src ≠ 0 then s.discardMsg m
    else (s.onDev d fun x => { x with st := .lost, sn := BitVec.ofNat 64 (mf m 8 8) }).dropPeer d) s

/-- The receiver keeps the last 4,096 IDs it has accepted from a source (R385). -/
def State.accept (m : FleetMsg) (s : State) : State :=
  s.onFleet fun f => { f with accepted := f.accepted.upd m.src [] fun l => ((m.msgId, []) :: l).take 4096 }

/-- An accepted ID, with the STATUS kept for a FORWARD. -/
def State.seen (s : State) (m : FleetMsg) : Option (List Byte) :=
  ((s.fleet.accepted.look m.src []).find? fun e => e.1 == m.msgId).map fun e => e.2

/-- R388: forward queue `k` takes another packet. -/
def State.fwdRoom (s : State) (m : FleetMsg) : Bool := decide ((s.queue (.fwd (mf m 6 2 % 4096 % 32))).buffer.length < 64)

/-- FORWARD_RECEIVE (R382, R385, R388, R389): the inner packet meets the front-end checks of its forward queue. An inner
packet whose SLOTS does not give the body's length fails check 4; one whose QUEUE is no forward queue fails the check of
QUEUE. -/
def execForwardReceive (s : State) : Result :=
  done <| takeMsg (fun m => isMsg 1 0 m && s.fwdRoom m) (fun _ m s =>
    if s.isManager ∨ m.src ≠ 0 then s.discardMsg m
    else
      match s.seen m with
      | some [] => s
      | some r => s.sendMsg (s.mkMsg 2 0 m.src 0 (toLe 8 m.msgId.toNat ++ r) m.part)
      | none =>
        let k := mf m 6 2 % 4096
        let q := QueueId.fwd (k % 32)
        let p : Packet := { bytes := m.body, arrival := s.nowNs, pid := s.q.nextPid }
        let t := (s.accept m).onQ fun y => { y with nextPid := y.nextPid + 1 }
        let t := t.onFleet fun f => { f with fwdIn := f.fwdIn ++ [(p.pid, m.msgId, m.src)] }
        let t := t.onQueue q fun x => { x with enabled := true }
        let t := if t.pwr.dev = .ready then (t.onPwr fun w => { w with dev := .awake }).raise 5 else t
        let framed := p.f 1 1 == 0xFF - p.f 0 1 && p.f 5 1 == 0xFF - p.f 4 1 && (opSlots p.op).isSome
        if framed && p.f 3 1 * 64 != m.body.length then
          (t.onQueue q fun x => { x with seqExp := p.seq + 1 }).reject q p stBadParam (reason 0x04 3)
        else if 32 ≤ k then
          match t.frontCheck q p.seq p with
          | some (st, d) => t.reject q p st d
          | none => t.reject q p stBadParam (reason 0x08 6)
        else t.intake q p) s

/-- A held message is acknowledged: it is kept no longer, and what waited for it may go (R386, R387). -/
def State.freed (id : DWord) (src : Nat) (s : State) : State :=
  (s.onFleet fun f => { f with held := f.held.filter fun h => !(h.msg.msgId == id && h.msg.dst == src) }).sendHeld

/-- STATUS_REPLY_RECEIVE (R389): the FLEET_FORWARD completes with the inner STATUS, RESULT and DETAIL. -/
def execStatusReplyReceive (s : State) : Result :=
  done <| takeMsg (isMsg 2 0) (fun _ m s =>
    let id := BitVec.ofNat 64 (mf m 0 8)
    let t := s.freed id m.src
    match t.fleet.fwdOut.find? fun e => e.2.1 == id && e.2.2 == m.src with
    | none => t
    | some (pid, _, _) =>
      (t.onFleet fun f => { f with fwdOut := f.fwdOut.filter fun e => e.1 != pid }).finish pid (mf m 12 2) (mf m 24 8) (mf m 32 4)) s

/-- A message of a remote window channel has been answered: the bytes count, and the last answer ends the channel. -/
def State.rwAnswered (id : DWord) (s : State) : State :=
  (List.range 4).foldl (fun t c =>
    match (t.fleet.rw.look c {}).ids.find? fun e => e.1 == id with
    | none => t
    | some (_, _, n) =>
      let t := t.onRw c fun x => { x with ids := x.ids.filter fun e => e.1 != id, acked := x.acked + n }
      if (t.fleet.rw.look c {}).ids.isEmpty then t.rwEnd c stOk else t) s

/-- READ_DATA_RECEIVE (R199, R391): an event's value completes its import; data of a remote window go to host memory. -/
def execReadDataReceive (s : State) : Result :=
  done <| takeMsg (isMsg 2 2) (fun _ m s =>
    let tag := BitVec.ofNat 64 (mf m 0 8)
    let off := mf m 8 4
    let data := m.body.drop 16
    match s.fleet.importOut.find? fun e => e.2.1 == tag && e.2.2 == m.src with
    | some (pid, _, d) =>
      let t := s.onFleet fun f => { f with importOut := f.importOut.filter fun e => e.1 != pid }
      match t.inflight pid with
      | none => t
      | some i => t.openMirror pid i.pkt ((i.pkt.bytes.drop 24).take 16) d (BitVec.ofNat 64 (field data 0 8))
    | none =>
      let t := (List.range 4).foldl (fun t c =>
        let x := t.fleet.rw.look c {}
        match x.ids.find? fun e => e.1 == tag with
        | some (_, o, _) => if bits x.ctrl 16 6 = m.src then t.emit (.hostWrite 0 (x.bus.toNat + o + off) data false) else t
        | none => t) s
      t.rwAnswered tag) s

/-- REFUSAL_RECEIVE (R199, R391): the operation stops with the status; an import completes as for a token that fails. -/
def execRefusalReceive (s : State) : Result :=
  done <| takeMsg (isMsg 2 3) (fun _ m s =>
    let id := BitVec.ofNat 64 (mf m 0 8)
    match s.fleet.importOut.find? fun e => e.2.1 == id && e.2.2 == m.src with
    | some (pid, _, _) =>
      (s.onFleet fun f => { f with importOut := f.importOut.filter fun e => e.1 != pid }).finish pid stBadParam 0 (reason 0x0C 24)
    | none =>
      let t := s.freed id m.src
      (List.range 4).foldl (fun t c =>
        let x := t.fleet.rw.look c {}
        if x.busy && x.ids.any fun e => e.1 == id then t.rwEnd c (mf m 8 2) else t) t) s

/-- R414: a partition that remote messages may name: SHARED, with the manager its controller of record, and not frozen. -/
def State.remoteMay (s : State) (part : Nat) : Bool :=
  s.partExists part && !s.strict part && bits (s.pmap part) 28 2 == 1 && !s.isFrozen part

/-- R391: the checks of a remote access to device memory: the partition exists, the manager controls it, the range lies in its
carve-out, and the home admits it as it does a BAR2 access. -/
def State.remoteOk (s : State) (src part a n : Nat) : Bool :=
  src == 0 && decide (part < 32) && s.remoteMay part
    && (match shareOf a, shareOf (a + n - 1) with
      | some (x, _), some (y, _) => s.owns part x && s.owns part y
      | _, _ => false)
    && s.hostAdmits a n

/-- The oldest WRITE, or READ, waits at the home: the host keeps a line of its range, or a CIM operation holds a macro that it
writes (R266, R305; log 40). -/
def State.remoteWaits (s : State) (cls : Nat) : Bool :=
  match takeFirst (fun e => e.2.2.cls == cls && decide (e.2.2.sub < 2)) s.fleet.inbox with
  | some ((_, _, m), _) =>
    let n := if cls = 5 then m.body.length - 16 else mf m 12 4
    m.sub == 0 && (s.hostKeeps (mf m 0 8) n (cls == 5) || (cls == 5 && s.deckHeld (mf m 0 8) n))
  | none => false

/-- REMOTE_WRITE_RECEIVE (R385, R391). -/
def execRemoteWriteReceive (s : State) : Result :=
  done <| if s.remoteWaits 5 then s else s |> takeMsg (fun m => m.cls == 5) (fun _ m s =>
    if (s.seen m).isSome then s.sendAck m.src m.msgId 2 0 m.part
    else
      let t := s.accept m
      let a := mf m 0 8
      if m.sub = 0 then
        let data := m.body.drop 16
        if t.remoteOk m.src (mf m 8 1) a data.length then (t.onMem fun x => x.store a data).sendAck m.src m.msgId 0 0 m.part
        else t.sendRefusal m.src m.msgId.toNat stDenied m.part
      else if m.src = 0 ∧ a % 8 = 0 then (t.fleetWrite8 a (BitVec.ofNat 64 (mf m 16 8)) true).sendAck m.src m.msgId 0 0
      else t.sendRefusal m.src m.msgId.toNat stDenied)

/-- Read data for a READ (Table 16-2a). -/
def State.sendData (dst tag : Nat) (data : List Byte) (s : State) (forPart : Option Nat := none) : State :=
  s.sendMsg (s.mkMsg 2 2 dst 0 (toLe 8 tag ++ toLe 4 0 ++ toLe 4 0 ++ data) forPart)

/-- REMOTE_READ_RECEIVE (R391). -/
def execRemoteReadReceive (s : State) : Result :=
  done <| if s.remoteWaits 6 then s else s |> takeMsg (fun m => m.cls == 6 && decide (m.sub < 2)) (fun _ m s =>
    let a := mf m 0 8
    let n := mf m 12 4
    let tag := mf m 16 8
    let unit := if m.sub = 0 then 64 else 8
    if n = 0 ∨ 4096 < n ∨ n % unit ≠ 0 ∨ a % unit ≠ 0 then s.discardMsg m
    else if m.sub = 0 then
      if s.remoteOk m.src (mf m 8 1) a n then
        -- read data carry no poison mark, so poisoned data are refused (DEDUCED from R427, log 99)
        if (unitsOf a n).any s.unitMarked then s.sendRefusal m.src tag stLost m.part else s.sendData m.src tag (s.mem.read a n) m.part
      else s.sendRefusal m.src tag stDenied m.part
    else if m.src = 0 then s.sendData m.src tag (s.fleetRead a n) else s.sendRefusal m.src tag stDenied)

/-- EVENT_IMPORT_READ_RECEIVE (R199, R200). -/
def execEventImportReadReceive (s : State) : Result :=
  done <| takeMsg (isMsg 6 2) (fun _ m s =>
    let tok := m.body.take 16
    let tag := mf m 16 8
    match s.verifyToken tok with
    | some v => (s.addImporter tok m.src v).sendData m.src tag (toLe 8 v.toNat)
    | none => s.sendRefusal m.src tag stBadParam) s

/-- R354, R401: a sync message that has been accepted before is acknowledged again, one of a closed epoch is discarded and
counted; any other is accepted. -/
def State.syncIn (m : FleetMsg) (f : State → State) (s : State) : State :=
  if (s.seen m).isSome then (s.onSync fun x => { x with dupCnt := satInc x.dupCnt }).sendAck m.src m.msgId 2 0
  else if (match s.fleet.closed with | some k => epochLe m.epoch k | none => false) then
    (s.onFleet fun x => { x with lateCnt := satInc x.lateCnt }).sendAck m.src m.msgId 2 0
  else f (s.accept m)

/-- R394: an add that has been resolved counts in A of the pair that covers it. -/
def State.countResolved (src counter epoch : Nat) (n : DWord) (s : State) : State :=
  s.onFleet fun f => { f with cons := f.cons.map fun e =>
    if e.2.valid && e.2.peer == src && e.2.counter == counter then (e.1, { e.2 with byEpoch := e.2.byEpoch.upd epoch 0 (· + n) }) else e }

/-- A remote add or post at its destination: the breakwater's check, then the sync store (R336, R393). -/
def State.remoteSync (kind : SyncKind) (m : FleetMsg) (n : Nat) (s : State) : State :=
  let obj := mf m 0 4
  let part := mf m 4 1
  let typed := decide (obj < 2 ^ 18) && decide (2 ^ 17 ≤ obj) == decide (kind = .post)
  let s := if m.cls = 3 then s.countResolved m.src (obj % 2 ^ 17) m.epoch (BitVec.ofNat 64 n) else s
  if typed && decide (part < 32) && s.remoteMay part && s.owns part (objSlice obj) then
    s.submit { kind := kind, obj := obj, amount := BitVec.ofNat 64 n, src := .remote m.src m.msgId, part := part, owned := false
               deadline := none, uReg := 0, pReg := 0 }
  else
    (s.logOcc { event := 0xA04, sev := 2, part := if part < 32 then some part else none, addr := BitVec.ofNat 64 obj }).sendAck
      m.src m.msgId 1 0

/-- TALLY_ADD_REMOTE_RECEIVE (R393, R394). -/
def execTallyAddRemoteReceive (s : State) : Result :=
  done <| takeMsg (isMsg 3 0) (fun _ m s => s.syncIn m fun s => s.remoteSync .add m (mf m 8 8)) s

/-- SEM_REMOTE_RECEIVE (R393). -/
def execSemRemoteReceive (s : State) : Result :=
  done <| takeMsg (isMsg 4 0) (fun _ m s => s.syncIn m fun s => s.remoteSync .post m (mf m 8 4)) s

/-- MIRROR_UPDATE_RECEIVE (R200, R202). -/
def execMirrorUpdateReceive (s : State) : Result :=
  done <| takeMsg (isMsg 3 1) (fun _ m s => s.syncIn m fun s =>
    let v := BitVec.ofNat 64 (mf m 8 8)
    let l := s.mirrorsOf m.src fun x => x.event == mf m 0 4 && x.part == mf m 4 1 && x.gen == mf m 5 3
    let t := l.foldl (fun t e =>
      if (t.tally e.2).orphaned then t
      else
        let t := t.raiseMirror e.2 v
        if mf m 16 1 = 1 then t.orphan e.1 e.2 else t) s
    t.sendAck m.src m.msgId 0 0) s

/-- The consumer entry for a pair: the one it has already, or the lowest free one. -/
def Fleet.consFor (f : Fleet) (src other counter : Nat) : Option Nat :=
  match f.cons.find? fun e => e.2.valid && e.2.peer == src && e.2.other == other && e.2.counter == counter with
  | some e => some e.1
  | none => (List.range 4096).find? fun i => !(f.cons.look i {}).valid

/-- PAIR_OPEN_RECEIVE (R394): a pair registered anew starts from nothing. -/
def execPairOpenReceive (s : State) : Result :=
  done <| takeMsg (isMsg 3 2) (fun _ m s =>
    let c := mf m 0 4
    match s.fleet.consFor m.src (mf m 6 2) c with
    | none => (s.accept m).sendAck m.src m.msgId 3 0
    | some e =>
      if (s.seen m).isSome then s.sendAck m.src m.msgId 4 e
      else
        ((s.accept m).onCons e fun _ => { valid := true, recent := true, peer := m.src, part := mf m 4 1, counter := c, other := mf m 6 2 }).sendAck
          m.src m.msgId 4 e) s

/-- FLEET_PAIR_CFG_WRITE (R394). -/
def execFleetPairCfgWrite (v : Word) (s : State) : Result := done <| if !s.boot.ready then s.discarded 0xD0044 else s.hostWake.pairCfg v false

/-- FLEET_SAVE (R377). -/
def execFleetSave (v : Word) (s : State) : Result := done <| if !s.boot.ready then s.discarded 0xD0008 else s.hostWake.fleetCtrl (setBit v 31)

/-- FLEET_FORGET (R381). -/
def execFleetForget (v : Word) (s : State) : Result := done <| if !s.boot.ready then s.discarded 0xD0008 else s.hostWake.fleetCtrl (setBit v 30)

/-- FLEET_CLEAR_ID (R380). -/
def execFleetClearId (v : Word) (s : State) : Result := done <| if !s.boot.ready then s.discarded 0xD0008 else s.hostWake.fleetCtrl (setBit v 29)

/-- The messages of a transfer, one for each part: offset and length. -/
def rwParts (len unit : Nat) : List (Nat × Nat) := (List.range ((len + unit - 1) / unit)).map fun i => (i * unit, min unit (len - i * unit))

/-- R391: the messages of channel `c` are made and start on their way; `data` is what the host's memory holds at BUS. -/
def State.rwSend (c : Nat) (data : List Byte) (s : State) : State :=
  let x := s.fleet.rw.look c {}
  let d := bits x.ctrl 16 6
  let part := bits x.ctrl 0 5
  let space := x.ctrl.getLsbD 29
  let read := x.ctrl.getLsbD 30
  let parts := rwParts x.len.toNat (if space && !read then 8 else 4096)
  parts.foldl (fun t e =>
    let a := x.dpa.toNat + e.1
    let bytes := (data.drop e.1).take e.2 ++ List.replicate (e.2 - (data.drop e.1).length) 0
    if read then
      let tag := 2 ^ 63 + c * 2 ^ 40 + e.1
      let t := t.onRw c fun x => { x with ids := x.ids ++ [(BitVec.ofNat 64 tag, e.1, e.2)] }
      t.sendMsg (t.mkMsg 6 (b2n space) d 0 (toLe 8 a ++ toLe 1 (if space then 0 else part) ++ toLe 3 0 ++ toLe 4 e.2 ++ toLe 8 tag))
    else
      let (id, t) := t.nextMsgId
      let t := t.onRw c fun x => { x with ids := x.ids ++ [(id, e.1, e.2)] }
      t.sendMsg (t.mkMsg 5 (b2n space) d id
        (if space then toLe 8 a ++ toLe 8 0 ++ bytes else toLe 8 a ++ toLe 1 part ++ toLe 7 0 ++ bytes))) s

/-- RW_START (R391, R392): a write of CTRL with START; while the channel is BUSY it has no effect. -/
def execRwStart (c : Nat) (v : Word) (data : List Byte) (s : State) : Result :=
  done <|
    if !s.boot.ready then s.discarded (0xD0800 + 32 * c)
    else
      let s := s.hostWake
      if 4 ≤ c || (s.fleet.rw.look c {}).busy then s
      else if !s.isManager then s.onRw c fun x => { x with status := stDenied }
      else
        let s := s.onRw c fun x => { x with ctrl := v &&& rwCtrlMask, done := false, busy := true, status := 0, acked := 0, ids := [] }
        let x := s.fleet.rw.look c {}
        let unit := if x.ctrl.getLsbD 29 then 8 else 64
        if x.len = 0 ∨ x.len.toNat % unit ≠ 0 ∨ x.dpa.toNat % unit ≠ 0 then s.rwEnd c stBadParam
        else
          match s.unreachable (bits x.ctrl 16 6) with
          | some st => s.rwEnd c st
          | none => s.rwSend c data

end Sys2Proof.Machine
end

