-- ==== Sys2Proof/Machine/Jtag.lean ====
section
/-! DEFINITION. The instructions of the TAP (R488, R489). A command loads its instruction and shifts the bits of `tdi`
through the register it selects, the bit nearest TDO first (log 75). -/

namespace Sys2Proof.Machine

open Sys2Proof

/-- A shift of `tdi` through a register that captured `reg`: what TDO shows, and what the register holds after. -/
def shiftThrough (reg tdi : List Bool) : List Bool × List Bool :=
  ((reg ++ tdi).take tdi.length, (reg ++ tdi).drop tdi.length)

/-- With TEST_MODE high the spec describes no behaviour (R488). -/
def tapCommand (f : State → State) (s : State) : Result := if s.jtag.testMode then .fault .testModeHigh else .next (f s)

/-- An instruction that selects the one-bit bypass register. -/
def State.tapBypass (i : TapIr) (tdi : List Bool) (s : State) : State :=
  (s.onJtag fun j => { j with ir := i }).emit (.tdo (shiftThrough [false] tdi).1)

/-- An instruction that selects the boundary register, which captures the pins. -/
def State.tapBoundary (i : TapIr) (pins tdi : List Bool) (s : State) : State :=
  (s.onJtag fun j => { j with ir := i, bsr := (shiftThrough pins tdi).2 }).emit (.tdo (shiftThrough pins tdi).1)

/-- R489: the instruction in force takes control of the pins: EXTEST, EXTEST_PULSE, EXTEST_TRAIN, CLAMP or HIGHZ while
PERST_N is asserted. -/
def State.tapDrives (s : State) : Bool :=
  !s.ao.perstReleased && (match s.jtag.ir with | .bypass | .idcode | .samplePreload => false | _ => true)

/-- R489: while PERST_N is released the instruction acts as SAMPLE/PRELOAD. -/
def State.tapTest (i : TapIr) (pins tdi : List Bool) (s : State) : State :=
  if s.ao.perstReleased then s.tapBoundary i pins tdi
  else match i with
    | .clamp | .highz => s.tapBypass i tdi
    | _ => s.tapBoundary i pins tdi

/-- The IDCODE register: version 0x1, part number 0x6400, the manufacturer identity, 1 (R488). -/
def idcode : Word := 0x16400001#32 ||| ((Config.jedec.setWidth 32) <<< 1)

/-- R488: BYPASS. -/
def execBypass (tdi : List Bool) (s : State) : Result := tapCommand (fun s => s.tapBypass .bypass tdi) s

/-- R488: IDCODE. -/
def execIdcode (tdi : List Bool) (s : State) : Result :=
  tapCommand (fun s => (s.onJtag fun j => { j with ir := .idcode }).emit
    (.tdo (shiftThrough ((List.range 32).map idcode.getLsbD) tdi).1)) s

/-- R488: SAMPLE/PRELOAD. -/
def execSamplePreload (pins tdi : List Bool) (s : State) : Result :=
  tapCommand (fun s => s.tapBoundary .samplePreload pins tdi) s

/-- R488, R489: EXTEST. -/
def execExtest (pins tdi : List Bool) (s : State) : Result := tapCommand (fun s => s.tapTest .extest pins tdi) s

/-- R488, R489: CLAMP. -/
def execClamp (pins tdi : List Bool) (s : State) : Result := tapCommand (fun s => s.tapTest .clamp pins tdi) s

/-- R488, R489: HIGHZ. -/
def execHighz (pins tdi : List Bool) (s : State) : Result := tapCommand (fun s => s.tapTest .highz pins tdi) s

/-- R488, R489: EXTEST_PULSE. -/
def execExtestPulse (pins tdi : List Bool) (s : State) : Result := tapCommand (fun s => s.tapTest .extestPulse pins tdi) s

/-- R488, R489: EXTEST_TRAIN. -/
def execExtestTrain (pins tdi : List Bool) (s : State) : Result := tapCommand (fun s => s.tapTest .extestTrain pins tdi) s

end Sys2Proof.Machine
end

