-- ==== Sys2Proof/Machine/KernelMem.lean ====
section
/-! DEFINITION. The meanings of the memory instructions: loads and their misses, stores, cluster accesses, lighter loads
and stores, fences (ch. 9, ch. 12, ch. 13). -/

namespace Sys2Proof.Machine

open Sys2Proof

/-- An access that a check admits: aligned, mapped, permitted, admitted (R230, R292, R299, R313, R412, R413). -/
def State.accessOk (s : State) (g va n : Nat) (need : Need) (refused : Bool) : List Check :=
  [alignOk va n, match s.coreFault (gCore g) (s.launchOf g).ctx va n need refused with
    | some (code, a) => (false, code, a)
    | none => (true, 0, 0)]

/-- Sizes of an access by one lane (R313; log 50). -/
def lenOk (n : Nat) : Check := (n == 1 || n == 2 || n == 4 || n == 8, 1, 0)

/-- Registers that hold `n` bytes a lane. -/
def regsFor (n : Nat) : Nat := if n = 8 then 2 else 1

/-- The mapping of a VA is DEVICE. -/
def State.isDevice (s : State) (g va : Nat) : Bool :=
  match s.mapAt (s.launchOf g).ctx va with
  | some m => m.attr == 2
  | none => false

/-- The value a load of `n` bytes gives a register. -/
def loadValue (signed : Bool) (n : Nat) (l : List Byte) : Nat :=
  let v := ofLe l
  if signed ∧ v.testBit (8 * n - 1) then v + (2 ^ 64 - 2 ^ (8 * n)) else v

/-- R333: the 48 B of an `ld.lt` have come: the active lanes get the elements; a block that is poisoned or not well-formed
is a load of poisoned data. -/
def State.endLt (g r va : Nat) (s : State) : State :=
  let x := s.gang g
  let b := (List.range 48).map fun i => Tab.look x.ltBuf i ((0 : Byte), false)
  let s := s.onGang g fun x => { x with ltBuf := [] }
  match ltDecode (b.map Prod.fst), b.any Prod.snd with
  | some l, false => x.lanes.foldl (fun t lane => t.putNarrow g r lane 16 (d16At l lane)) s
  | _, _ => s.gangFault g 0xC (BitVec.ofNat 64 va)

/-- The bytes of a load reach their destination; poisoned data brought into a register kills the context (R316). -/
def State.give (x : MissLoad) (l : List (Byte × Bool)) (s : State) : State :=
  match x.dst with
  | .reg r signed =>
    if l.any Prod.snd then s.gangFault x.gang 0xC (BitVec.ofNat 64 x.va)
    else
      let v := loadValue signed x.len (l.map Prod.fst)
      s.onGang x.gang fun y =>
        let y := y.setV r x.lane (BitVec.ofNat 32 v)
        if x.len = 8 then y.setV (r + 1) x.lane (BitVec.ofNat 32 (v / 2 ^ 32)) else y
  | .loc off => s.localWrite (s.gang x.gang).block off l
  | .lt r =>
    let t := s.onGang x.gang fun y => { y with ltBuf := l.zipIdx.foldl (fun b e => Tab.ins b (x.lane + e.2) e.1) y.ltBuf }
    if (t.gang x.gang).ltBuf.length = 48 then t.endLt x.gang r x.va else t

/-- The bytes of a valid near-cache entry that serves a load, and its number (R295). -/
def State.nearRead (s : State) (core c va n : Nat) : Option (Nat × List (Byte × Bool)) :=
  match s.nearHits core c (va / 512) with
  | [] => none
  | i :: _ => (s.mem.near.find (nearKey core i)).map fun e =>
      (i, (List.range n).map fun k => (e.bytes.getD (va % 512 + k) 0, e.poison.getLsbD ((va % 512 + k) / 64)))

/-- A load is served by the near cache: its class's mask is not zero, and an entry holds its line. -/
def State.nearServes (s : State) (core : Nat) (mask : DWord) (c va n : Nat) : Bool := mask != 0 && (s.nearRead core c va n).isSome

/-- Numbers of the miss registers of a core, busy or free. -/
def missKeys (core : Nat) : List Nat := (List.range 32).map (core * 32 + ·)

/-- The miss register that tracks a line of a context (R297). -/
def State.missOf (s : State) (core c line : Nat) : Option Nat :=
  (missKeys core).find? fun k => match s.mem.miss.find k with
    | some m => m.ctx == c && m.line == line
    | none => false

/-- Gangs whose misses a register holds. -/
def Miss.gangs (m : Miss) : List Nat := m.lds.foldl (fun l x => if l.contains x.gang then l else l ++ [x.gang]) []

/-- Lines without repeats. -/
def distinct (l : List Nat) : List Nat := l.foldl (fun a x => if a.contains x then a else a ++ [x]) []

/-- R297: the lines of an instruction find their miss registers: each merges as at most an eighth secondary miss, or takes
a free register. -/
def State.missRoom (s : State) (core c : Nat) (lines : List Nat) : Bool :=
  let lines := distinct lines
  let free := ((missKeys core).filter fun k => (s.mem.miss.find k).isNone).length
  let fresh := lines.filter fun l => (s.missOf core c l).isNone
  decide (fresh.length ≤ free) && lines.all fun l => match s.missOf core c l with
    | some k => decide (((s.mem.miss.find k).map (fun m => m.gangs.length)).getD 0 < 9)
    | none => true

/-- A miss joins its line's register, or takes the lowest free one. -/
def State.addMiss (core c : Nat) (mask : DWord) (x : MissLoad) (s : State) : State :=
  let line := x.va / 512
  match s.missOf core c line with
  | some k => s.onMem fun m => { m with miss := m.miss.map fun e => if e.1 = k then (k, { e.2 with lds := e.2.lds ++ [x] }) else e }
  | none =>
    match (missKeys core).find? fun k => (s.mem.miss.find k).isNone with
    | some k => s.onMem fun m => { m with miss := m.miss.ins k { ctx := c, line := line, mask := mask, lds := [x] } }
    | none => s

/-- A cached part of a load is served by the near cache or misses. -/
def State.loadPart (core c : Nat) (mask : DWord) (x : MissLoad) (s : State) : State :=
  let s := s.drainFor core c x.va x.len
  let s := s.onMem fun m => { m with tlb := m.tlb.put (c * 2 ^ 33 + x.va / 65536) false true }
  if mask = 0 then s.addMiss core c mask x
  else
    match s.nearRead core c x.va x.len with
    | some (i, l) => (s.plruTouch core i).give x l
    | none => s.addMiss core c mask x

/-- A gang waits while a miss register holds a load of it. -/
def State.waitMiss (g : Nat) (s : State) : State :=
  if s.mem.miss.any fun e => e.2.lds.any fun x => x.gang == g then s.onGang g fun x => { x with wait := .mem } else s

/-- The parts of a load: DEVICE ones are made one by one, the others go through the near cache; `host` gives the bytes of
DEVICE reads of host memory in lane order. -/
def State.runLoad (g : Nat) (mask : DWord) (xs : List MissLoad) (host : HostMem) (s : State) : State :=
  let c := (s.launchOf g).ctx
  let core := gCore g
  let go := fun (acc : State × List (Option Byte)) (x : MissLoad) =>
    if acc.1.isDevice g x.va then
      let t := acc.1.meetEccVa c x.va x.len host.ecc
      (t.give x (t.readVa c x.va x.len acc.2), acc.2.drop x.len)
    else (acc.1.loadPart core c mask x, acc.2)
  ((xs.foldl go (s.flushAdds g, host.bytes)).1).waitMiss g

/-- The load cannot go on now: the host keeps a line, or no miss register is free. -/
def State.loadHeld (s : State) (g : Nat) (mask : DWord) (xs : List MissLoad) : Bool :=
  let c := (s.launchOf g).ctx
  let core := gCore g
  (xs.any fun x => s.vaKept c x.va x.len false) ||
    !s.missRoom core c ((xs.filter fun x => !s.isDevice g x.va && !s.nearServes core mask c x.va x.len).map fun x => x.va / 512)

/-- A load by its parts: the checks of every lane come first (log 51), then its effect. -/
def State.load (g cls : Nat) (pre : State → List Check) (xs : List MissLoad) (host : HostMem) (s : State) : State :=
  let mask := (s.launchOf g).ncMask.getD cls 0
  let checks := fun s : State => pre s ++ (xs.map fun x => s.accessOk g x.va x.len .read host.refused).flatten
  if (firstFault (checks s)).isNone && s.loadHeld g mask xs then s
  else s.instr g checks fun s => s.runLoad g mask xs host

/-- The parts of a load by lanes into register `vd`. -/
def State.laneLoads (s : State) (g va n : Nat) (dst : Nat → LoadDst) : List MissLoad :=
  let x := s.gang g
  x.lanes.map fun lane => { gang := g, lane := lane, va := x.va va lane, len := n, dst := dst lane }

/-- A load of `n` bytes a lane in class `cls` of Table 12-6. -/
def State.laneLoad (g cls vd va n : Nat) (signed : Bool) (host : HostMem) (s : State) : State :=
  s.load g cls (fun s => [lenOk n, s.vOk g va 2, s.vOk g vd (regsFor n)]) (s.laneLoads g va n fun _ => .reg vd signed) host

/-- R295: ld, class GANG_LOAD. -/
def execLd (g vd va len : Nat) (signed : Bool) (host : HostMem) (s : State) : Result := done <| s.laneLoad g 0 vd va len signed host

/-- R295: ld.const, class CONST. -/
def execLdConst (g vd va len : Nat) (signed : Bool) (host : HostMem) (s : State) : Result := done <| s.laneLoad g 2 vd va len signed host

/-- R295: ld.tile, class MATRIX, into registers or local memory. -/
def execLdTile (g : Nat) (dst : TileDst) (va len : Nat) (host : HostMem) (s : State) : Result :=
  done <|
    match dst with
    | .reg r => s.laneLoad g 1 r va len false host
    | .loc r =>
      let off := fun (s : State) lane => ((s.gang g).vReg r lane).toNat
      s.load g 1 (fun s => [lenOk len, s.vOk g va 2, s.vOk g r 1] ++
          ((s.gang g).lanes.map fun lane => [alignOk (off s lane) len, s.localOk g (off s lane) len]).flatten)
        (s.laneLoads g va len fun lane => .loc (off s lane)) host

/-- The parts of 48 B from `va`, cut at near lines. -/
def ltParts (g va r : Nat) : List MissLoad :=
  let n := min 48 (512 - va % 512)
  let p := fun o k : Nat => ({ gang := g, lane := o, va := va + o, len := k, dst := .lt r } : MissLoad)
  if n = 48 then [p 0 48] else [p 0 n, p n (48 - n)]

/-- R333: ld.lt reads one lighter block at the VA in the pair `ua`. -/
def execLdLt (g vd ua : Nat) (host : HostMem) (s : State) : Result :=
  done <|
    let va := ((s.gang g).uPair ua).toNat
    let mask := (s.launchOf g).ncMask.getD 0 0
    let xs := ltParts g va vd
    let checks := fun s : State => [uOk ua 2, s.vOk g vd 1, alignOk va 16] ++ (s.accessOk g va 48 .read host.refused).drop 1
    if (firstFault (checks s)).isNone && s.loadHeld g mask xs then s
    else s.instr g checks fun s => s.runLoad g mask xs host

/-- R294, R297: data for miss register `r` of a core return: the near line fills, and the merged loads are served. -/
def execMissReturn (core r : Nat) (host : HostMem) (s : State) : Result :=
  done <|
    match s.mem.miss.find (core * 32 + r) with
    | none => s
    | some m =>
      let va := m.line * 512
      if 32 ≤ r ∨ !s.awake ∨ s.tw.tripped ∨ s.vaKept m.ctx va 512 false then s
      else
        let t := s.onMem fun x => { x with miss := x.miss.drop (core * 32 + r) }
        let wake := fun t : State => m.gangs.foldl (fun t g =>
          if t.mem.miss.any fun e => e.2.lds.any fun x => x.gang == g then t else t.onGang g fun x => { x with wait := .ready }) t
        match s.coreFault core m.ctx va 512 .read host.refused with
        | some (code, a) =>
          let t := t.noteRefusal m.ctx code a (some core) ((m.lds.map fun x => s.gangTag x.gang).headD 0)
          m.lds.foldl (fun t x => t.gangFault x.gang code (BitVec.ofNat 64 x.va)) (wake t)
        | none =>
          let t := (t.meetEccVa m.ctx va 512 host.ecc).meetLighter m.ctx va 512 ((m.lds.map fun x => s.gangTag x.gang).headD 0)
          let data := t.readVa m.ctx va 512 host.bytes
          let e : NearLine := { ctx := m.ctx, line := m.line, bytes := data.map Prod.fst
                                poison := maskOf 8 ((data.zipIdx.filter fun b => b.1.2).map fun b => b.2 / 64)
                                lighter := t.anyMap m.ctx va 512 Mapping.lighter }
          let t := t.nearFill core m.mask e
          m.lds.foldl (fun t x => t.give x ((data.drop (x.va % 512)).take x.len)) (wake t)

/-- R293, R294, R307, R313, R439: st writes the low bytes of each active lane's register, in ascending lane order; `acc.ecc`
gives the errors of the units that it stores to. -/
def execSt (g va vs : Nat) (acc : StoreAcc) (s : State) : Result :=
  done <|
    let len := acc.len
    let x := s.gang g
    let c := (s.launchOf g).ctx
    let checks := fun s : State => [lenOk len, s.vOk g va 2, s.vOk g vs (regsFor len)] ++
      (x.lanes.map fun lane => s.accessOk g (x.va va lane) len .write false).flatten
    if (firstFault (checks s)).isNone && x.lanes.any (fun lane => s.vaKept c (x.va va lane) len true) then s
    else s.instr g checks fun s =>
      x.lanes.foldl (fun t lane =>
        (t.meetEccVa c (x.va va lane) len acc.ecc).coreStore (gCore g) c x.block (x.va va lane) (x.data vs lane len)) (s.flushAdds g)

/-- R333: st.lt encodes one lighter block from the active lanes, an inactive lane giving +0, and stores it at the VA in the
pair `ua`. -/
def execStLt (g ua vs : Nat) (s : State) : Result :=
  done <|
    let x := s.gang g
    let c := (s.launchOf g).ctx
    let va := (x.uPair ua).toNat
    let prot := s.anyMap c va 48 Mapping.prot
    let checks := fun s : State => [uOk ua 2, s.vOk g vs 1, alignOk va 16] ++ (s.accessOk g va 48 .write false).drop 1 ++ [(!prot, 9, va)]
    if (firstFault (checks s)).isNone && s.vaKept c va 48 true then s
    else s.instr g checks fun s =>
      let vals := (List.range 32).map fun l => toLe 2 (if x.active.getLsbD l then x.low vs l 16 else 0)
      let b := ltEncode vals.flatten
      (ltParts g va 0).foldl (fun t p => t.coreStore (gCore g) c x.block p.va ((b.drop p.lane).take p.len)) (s.flushAdds g)

/-- The block of a cluster address: the cluster's block of that rank (R222). -/
def State.peer (s : State) (g rank : Nat) : Option Nat :=
  let b := s.blk (s.gang g).block
  (s.core.block.find? fun e => e.2.live && e.2.launch == b.launch && e.2.cluster == b.cluster && e.2.rank == rank).map Prod.fst

/-- Checks of a cluster access of `n` bytes by the active lanes (R222). -/
def State.clusterChecks (s : State) (g va n : Nat) : List Check :=
  let x := s.gang g
  let l := s.launchOf g
  (x.lanes.map fun lane =>
    let a := (x.vReg va lane).toNat
    [alignOk a n, (decide (a / 2 ^ 18 < (l.members (s.blk x.block).cluster).length), 7, a), (decide (a % 2 ^ 18 + n ≤ l.locSize), 6, a)]).flatten

/-- The bytes that the active lanes read are not poisoned (R275, R316). -/
def State.clusterClean (s : State) (g va n : Nat) : List Check :=
  let x := s.gang g
  x.lanes.map fun lane =>
    let a := (x.vReg va lane).toNat
    (!((s.localRead ((s.peer g (a / 2 ^ 18)).getD 0) (a % 2 ^ 18) n).any Prod.snd), 0xC, a)

/-- A peer of an active lane's address is not resident: it is to be placed again (R234). -/
def State.peerGone (s : State) (g va : Nat) : Bool :=
  let x := s.gang g
  x.lanes.any fun lane => (s.peer g ((x.vReg va lane).toNat / 2 ^ 18)).isNone

/-- A cluster instruction: checks, a wait for peers that are not resident, and its effect lane by lane. -/
def State.cluster (g va n : Nat) (reads : Bool) (pre : State → List Check) (f : Nat → Nat → Nat → State → State) (s : State) : State :=
  let x := s.gang g
  let checks := fun s : State => pre s ++ s.clusterChecks g va n ++ (if reads then s.clusterClean g va n else [])
  if (firstFault (checks s)).isNone && s.peerGone g va then s
  else s.instr g checks fun s => x.lanes.foldl (fun t lane =>
    let a := (x.vReg va lane).toNat
    f lane ((t.peer g (a / 2 ^ 18)).getD 0) (a % 2 ^ 18) t) s

/-- R222: ld.c. -/
def execLdC (g vd va len : Nat) (signed : Bool) (s : State) : Result :=
  done <| s.cluster g va len true (fun s => [lenOk len, s.vOk g va 1, s.vOk g vd (regsFor len)]) fun lane b off t =>
    t.give { gang := g, lane := lane, va := off, len := len, dst := .reg vd signed } (t.localRead b off len)

/-- R222: st.c. -/
def execStC (g va vs len : Nat) (s : State) : Result :=
  done <|
    let x := s.gang g
    s.cluster g va len false (fun s => [lenOk len, s.vOk g va 1, s.vOk g vs (regsFor len)]) fun lane b off t =>
      t.localWrite b off ((x.data vs lane len).map fun b => (b, false))

/-- The word that an atomic operation leaves (log 50). -/
def atomValue (op : AtomOp) (old a b : Word) : Word :=
  match op with
  | .add => old + a
  | .min => if a.toNat < old.toNat then a else old
  | .max => if old.toNat < a.toNat then a else old
  | .and => old &&& a
  | .or => old ||| a
  | .xor => old ^^^ a
  | .exch => a
  | .cas => if old = a then b else old

/-- R222, R223: atom.c applies an operation to a cluster word and gives each lane the word it found. -/
def execAtomC (g : Nat) (op : AtomOp) (vd va vs vt : Nat) (s : State) : Result :=
  done <|
    let x := s.gang g
    s.cluster g va 4 true (fun s => [s.vOk g va 1, s.vOk g vd 1, s.vOk g vs 1, (op != .cas || (s.vOk g vt 1).1, 2, 0)]) fun lane b off t =>
      let l := t.localRead b off 4
      let new := atomValue op (BitVec.ofNat 32 (ofLe (l.map Prod.fst))) (x.vReg vs lane) (x.vReg vt lane)
      (t.give { gang := g, lane := lane, va := off, len := 4, dst := .reg vd false } l).localWrite b off
        ((toLe 4 new.toNat).map fun b => (b, false))

/-- What every fence does: the core's combining buffer drains, and the gang's earlier accesses are in place (R308). -/
def State.fenceOps (g : Nat) (s : State) : State := (s.release g).drainComb (gCore g) fun _ => true

/-- R308: fence.blk. -/
def execFenceBlk (g : Nat) (s : State) : Result := done <| s.instr g (fun _ => []) fun s => s.fenceOps g

/-- R308: fence.clu. -/
def execFenceClu (g : Nat) (s : State) : Result := done <| s.instr g (fun _ => []) fun s => s.fenceOps g

/-- R298, R308: fence.dev drops the context's near-cache entries too. -/
def execFenceDev (g : Nat) (s : State) : Result := done <| s.instr g (fun _ => []) fun s => (s.fenceOps g).acquire g

/-- R298, R308: fence.sys; writes to host memory have left in order. -/
def execFenceSys (g : Nat) (s : State) : Result := done <| s.instr g (fun _ => []) fun s => (s.fenceOps g).acquire g

end Sys2Proof.Machine
end

