-- ==== Sys2Proof/Machine/KernelCtl.lean ====
section
/-! DEFINITION. The meanings of the control, barrier, mover, allocation and in-deck compute instructions, and what ends a
gang and a block (ch. 8, ch. 9, ch. 11). -/

namespace Sys2Proof.Machine

open Sys2Proof

/-- A gang has ended: all of its lanes have exited (R212). -/
def Gang.ended (x : Gang) : Bool := x.active == 0 && x.stack.isEmpty

/-- R212: lanes that are left run: those that have not run their side, else those that rejoin. -/
def popLanes (exited : Word) : Word → List Reconv → Word × List Reconv
  | active, [] => (active, [])
  | active, r :: l =>
    if active ≠ 0 then (active, r :: l)
    else if r.rest ≠ 0 then (r.rest, { r with rest := 0 } :: l)
    else popLanes exited (r.all &&& ~~~exited) l

/-- R212: bra: the active lanes whose bit of `p` is set take the branch. -/
def Gang.bra (p label : Nat) (x : Gang) : Gang :=
  let taken := x.pReg p &&& x.active
  if taken = 0 ∨ taken = x.active then x
  else { x with active := taken, stack := { label := label, all := x.active, rest := x.active &&& ~~~taken } :: x.stack }

/-- R212: join: the lanes of the branch that names it run their side, or rejoin. -/
def Gang.join (label : Nat) (x : Gang) : Gang :=
  match x.stack with
  | r :: l =>
    if r.label ≠ label then x
    else if r.rest ≠ 0 then { x with active := r.rest, stack := { r with rest := 0 } :: l }
    else { x with active := r.all &&& ~~~x.exited, stack := l }
  | [] => x

/-- The branch diverges. -/
def Gang.diverges (p : Nat) (x : Gang) : Bool := let t := x.pReg p &&& x.active; t != 0 && t != x.active

/-- R212, R230: bra. -/
def execBra (g p label : Nat) (s : State) : Result :=
  done <| s.instr g (fun s => [pOk p, (!((s.gang g).diverges p && decide (32 ≤ (s.gang g).stack.length)), 8, 0)]) fun s =>
    s.onGang g (Gang.bra p label)

/-- R212: join. -/
def execJoin (g label : Nat) (s : State) : Result := done <| s.instr g (fun _ => []) fun s => s.onGang g (Gang.join label)

/-- R230: trap. -/
def execTrap (g : Nat) (s : State) : Result := done <| s.issue g fun s => s.gangFault g 0xD 0

/-- Gangs of a block with their keys. -/
def State.gangsOf (s : State) (b : Nat) : List Nat := (s.blk b).gangs

/-- Resident blocks of the cluster of block `b`. -/
def State.clusterOf (s : State) (b : Nat) : List Nat :=
  let x := s.blk b
  (s.core.block.filter fun e => e.2.live && e.2.launch == x.launch && e.2.cluster == x.cluster).map Prod.fst

/-- Every gang of these has ended or waits at the barrier (R225). -/
def State.allAt (s : State) (gs : List Nat) (at_ : GangWait → Bool) : Bool := gs.all fun g => (s.gang g).ended || at_ (s.gang g).wait

def GangWait.isBlk : GangWait → Bool
  | .barBlk _ _ => true
  | _ => false

def GangWait.isClu : GangWait → Bool
  | .barClu _ _ => true
  | _ => false

/-- Result predicate of a wait at a barrier or on the mover. -/
def GangWait.pred : GangWait → Nat
  | .barBlk _ p | .barClu _ p | .mov _ _ p => p
  | _ => 8

/-- A gang at a barrier or waiting on the mover goes on with its result predicate. -/
def State.resume (ok : Bool) (g : Nat) (s : State) : State :=
  s.onGang g fun x => { (x.setResult x.wait.pred ok) with wait := .ready }

/-- Gangs at a barrier that is complete go on (R225). -/
def State.openBar (gs : List Nat) (at_ : GangWait → Bool) (s : State) : State :=
  if s.allAt gs at_ then gs.foldl (fun t g => if at_ (t.gang g).wait then t.resume true g else t) s else s

/-- The barriers of block `b` and of its cluster open where all have arrived (R225). -/
def State.checkBars (b : Nat) (s : State) : State :=
  let t := s.openBar (s.gangsOf b) GangWait.isBlk
  let c := t.clusterOf b
  let x := t.blk b
  if c.length = ((t.launch x.launch).members x.cluster).length then t.openBar (c.map t.gangsOf).flatten GangWait.isClu else t

/-- The partition's deadline of a barrier or a `mov.wait` (R225). -/
def State.barDeadline (s : State) (g ut : Nat) : Nat := s.kernelDeadline (s.launchOf g).part ((s.gang g).uReg ut)

/-- R225, R308: bar.blk has the effect of fence.blk, then waits. -/
def execBarBlk (g p ut : Nat) (s : State) : Result :=
  done <| s.instr g (fun _ => [pOk p, uOk ut 1]) fun s =>
    let t := (s.fenceOps g).onGang g fun x => { x with wait := .barBlk (s.barDeadline g ut) p }
    t.checkBars (t.blockOf g)

/-- R225, R308: bar.clu has the effect of fence.clu, then waits. -/
def execBarClu (g p ut : Nat) (s : State) : Result :=
  done <| s.instr g (fun _ => [pOk p, uOk ut 1]) fun s =>
    let t := (s.fenceOps g).onGang g fun x => { x with wait := .barClu (s.barDeadline g ut) p }
    t.checkBars (t.blockOf g)

/-- Deadline of a gang's wait at a barrier or on the mover. -/
def GangWait.deadline : GangWait → Option Nat
  | .barBlk d _ | .barClu d _ | .mov _ d _ => some d
  | _ => none

/-- R225, R226: the deadline of a gang's barrier or mov.wait passes: it goes on with its predicate false. -/
def execBarrierTimeout (g : Nat) (s : State) : Result :=
  done <|
    match (s.gang g).wait.deadline with
    | some d => if d ≤ s.nowNs && (s.gang g).live then s.resume false g else s
    | none => s

/-- A deferred return of the gang's holding on semaphore `i` stands in its block's entries, or in a commit on its way
(R348). -/
def State.returnDue (s : State) (g i : Nat) : Bool :=
  let b := s.blockOf g
  let has := fun l : List DfrEntry => l.any fun e => e.block == b && e.kind == .sem && e.key % 2 ^ 17 == i && e.gangs.contains g
  has (s.coreAt (gCore g)).dfr || (s.red.commits ++ s.red.held).any fun c => has c.entries

/-- R346: the holdings of a gang that ends are abandoned, but for those whose return is deferred (R348). -/
def State.endHoldings (g : Nat) (s : State) : State :=
  s.sync.sem.foldl (fun t e => if s.returnDue g e.1 then t else t.abandonAt e.1 g) s

/-- R212, R224, R260, R311: a block ends: its combining-buffer entries drain, and the places of its cluster are freed with
the cluster's last block. -/
def State.endBlock (b : Nat) (s : State) : State :=
  let x := s.blk b
  let t := (s.drainComb x.core fun e => e.block == b).onBlk b fun y => { y with exited := true }
  (t.onLaunch x.launch fun l => { l with ran := l.ran + 1 }).freeCluster x.launch x.cluster

/-- R212, R225, R260, R346: a gang ends: its flags join its block's, its holdings are abandoned, and it counts as arrived at
every barrier. -/
def State.endGang (g : Nat) (s : State) : State :=
  let b := s.blockOf g
  let f := (s.gang g).flags
  let t := (s.flushAdds g).endHoldings g
  let t := t.onBlk b fun y => { y with flags := y.flags ||| f, endedGangs := y.endedGangs + 1 }
  let t := t.checkBars b
  if (t.gangsOf b).all fun h => (t.gang h).ended then t.endBlock b else t

/-- R212: exit takes the active lanes out of the mask for good. A gang with a matrix operation in flight is not ready
(R211). -/
def execExitLanes (g : Nat) (s : State) : Result :=
  done <|
    if (s.gang g).mma.isSome then s
    else s.issue g fun s =>
      let x := s.gang g
      let ex := x.exited ||| x.active
      let (a, l) := popLanes ex 0 x.stack
      let t := s.onGang g fun x => { x with exited := ex, active := a, stack := l }
      if (t.gang g).ended then t.endGang g else t

/-- R260: the flags of a block that has exited join its launch, unless its commit delivers them. -/
def execFlagCombine (b : Nat) (s : State) : Result :=
  done <|
    let x := s.blk b
    if (s.core.block.find b).isSome && x.exited && !(s.launch x.launch).replayable && (s.launch x.launch).live then
      s.onLaunch x.launch fun l => { l with flags := l.flags ||| x.flags }
    else s

/-- The bytes that local memory gives an instruction as an operand, without poison. -/
def State.localBytes (s : State) (g off n : Nat) : List Byte := (s.localRead (s.blockOf g) off n).map Prod.fst

/-- A kernel descriptor waits in, or runs on, a mover. -/
def MovWork.isDesc : MovWork → Bool
  | .desc _ _ _ _ _ => true
  | _ => false

/-- The ticket of a descriptor. -/
def MovWork.isTicket (k : Word) : MovWork → Bool
  | .desc _ _ _ t _ => t == k
  | _ => false

/-- A ticket that no queued descriptor of the core has: the mover holds at most 16 (R226). -/
def State.newTicket (s : State) (core : Nat) (v : Word) : Word :=
  (((List.range 17).map fun i => v + BitVec.ofNat 32 i).find? fun k => !((s.coreAt core).mover.any (MovWork.isTicket k))).getD v

/-- R226: mov.start queues the 32 B descriptor at the local offset in `us` and writes its ticket to `ud`; a full mover
stalls the gang. The value of a ticket is not stated: a free value (log 7). -/
def execMovStart (g ud us : Nat) (s : State) : Result :=
  done <|
    let off := ((s.gang g).uReg us).toNat
    let d := Config.moverDesc (s.localBytes g off 32)
    let checks := fun s : State => [uOk ud 1, uOk us 1, s.localOk g off 32, s.localClean g off 32, (d.ok && decide (d.dims.length ≤ 3), 0x10, 0)]
    if (firstFault (checks s)).isNone && decide (16 ≤ ((s.coreAt (gCore g)).mover.filter MovWork.isDesc).length) then s
    else s.instr g checks fun s =>
      let (v, t) := s.fresh
      let k := t.newTicket (gCore g) (v.setWidth 32)
      let t := t.onCoreAt (gCore g) fun c => { c with mover := c.mover ++ [.desc g (t.blockOf g) (t.blk (t.blockOf g)).launch k d] }
      t.onGang g (Gang.setU ud k)

/-- No descriptor of the core with this ticket is queued. -/
def State.ticketDone (s : State) (core : Nat) (k : Word) : Bool := !((s.coreAt core).mover.any (MovWork.isTicket k))

/-- R225, R226: mov.wait. -/
def execMovWait (g p us ut : Nat) (s : State) : Result :=
  done <|
    let k := (s.gang g).uReg us
    s.instr g (fun _ => [pOk p, uOk us 1, uOk ut 1]) fun s =>
      if s.ticketDone (gCore g) k then s.onGang g fun x => x.setFlag p true
      else s.onGang g fun x => { x with wait := .mov k (s.barDeadline g ut) p }

/-- Offsets of the elements of a transfer from its source and destination (R226), innermost dimension first. -/
def transferOffsets : List (Nat × Nat × Nat) → List (Nat × Nat)
  | [] => [(0, 0)]
  | (n, a, b) :: r => ((transferOffsets r).map fun e => (List.range n).map fun i => (e.1 + i * a, e.2 + i * b)).flatten

/-- Elements of a transfer: source and destination addresses. -/
def moverElems (d : MoverDesc) : List (Nat × Nat) := (transferOffsets d.dims).map fun e => (d.src + e.1, d.dst + e.2)

/-- The fault a transfer meets: LOCAL_RANGE, TRANSLATION, PERMISSION or BREAKWATER. -/
def State.transferFault (s : State) (core : Nat) (l : Launch) (d : MoverDesc) (refused : Bool) : Option (Nat × Nat) :=
  let side := fun (loc : Bool) (a : Nat) (need : Need) =>
    if loc then (if l.locSize < a + d.elem then some (6, a) else none) else s.coreFault core l.ctx a d.elem need refused
  (moverElems d).findSome? fun e => match side d.srcLocal e.1 .read with
    | some f => some f
    | none => side d.dstLocal e.2 .write

/-- The host keeps a line of the transfer. -/
def State.transferKept (s : State) (l : Launch) (d : MoverDesc) : Bool :=
  (moverElems d).any fun e => (!d.srcLocal && s.vaKept l.ctx e.1 d.elem false) || (!d.dstLocal && s.vaKept l.ctx e.2 d.elem true)

/-- A read of one near line's part through the mover's class (R227, R295): a hit is served, a miss fills. -/
def State.moverPart (core : Nat) (mask : DWord) (tag : Word) (c va n : Nat) (host : List (Option Byte)) (s : State) : List (Byte × Bool) × State :=
  let fills := match s.mapAt c va with | some m => m.attr != 2 && mask != 0 | none => false
  if !fills then
    let s := s.meetLighter c va n tag
    (s.readVa c va n host, s)
  else
    match s.nearRead core c va n with
    | some (i, l) => (l, s.plruTouch core i)
    | none =>
      let base := va / 512 * 512
      let s := s.meetLighter c base 512 tag
      let data := s.readVa c base 512 (List.replicate (va - base) none ++ host)
      let e : NearLine := { ctx := c, line := va / 512, bytes := data.map Prod.fst
                            poison := maskOf 8 ((data.zipIdx.filter fun b => b.1.2).map fun b => b.2 / 64)
                            lighter := s.anyMap c base 512 Mapping.lighter }
      ((data.drop (va - base)).take n, if data.length = 512 then s.nearFill core mask e else s)

/-- A mover's read of `n` bytes, near line by near line; `k` bounds the lines. -/
def State.moverRead (core : Nat) (mask : DWord) (tag : Word) (c : Nat) : Nat → Nat → Nat → List (Option Byte) → State → List (Byte × Bool) × State
  | 0, _, _, _, s => ([], s)
  | k + 1, va, n, host, s =>
    if n = 0 then ([], s)
    else
      let m := min n (512 - va % 512)
      let (l, t) := s.moverPart core mask tag c va m host
      let (r, u) := State.moverRead core mask tag c k (va + m) (n - m) (host.drop m) t
      (l ++ r, u)

/-- One element moves. `host` gives the bytes of elements read from host memory, one after another. Local memory that has
been freed takes nothing (R224). -/
def State.moveElem (core b : Nat) (l : Launch) (d : MoverDesc) (acc : State × List (Option Byte)) (e : Nat × Nat) : State × List (Option Byte) :=
  let s := acc.1
  let mask := l.ncMask.getD 3 0
  let (data, t) := if d.srcLocal then (s.localRead b e.1 d.elem, s)
    else s.moverRead core mask (s.tagOf l.pid) l.ctx (d.elem / 512 + 2) e.1 d.elem acc.2
  let u := if !d.dstLocal then t.moverWrite core l.ctx e.2 data else if (t.blk b).live then t.localWrite b e.2 data else t
  let fromHost := !d.srcLocal && s.anyMap l.ctx e.1 d.elem fun m => match m.target with | .host _ => true | _ => false
  (u, if fromHost then acc.2.drop d.elem else acc.2)

/-- Gangs of a core that wait for a ticket that is complete go on (R226). -/
def State.wakeMov (core : Nat) (s : State) : State :=
  (s.core.gang.filter fun e => gCore e.1 == core && e.2.live).foldl (fun t e => match (t.gang e.1).wait with
    | .mov k _ _ => if t.ticketDone core k then t.resume true e.1 else t
    | _ => t) s

/-- A transfer meets a fault (R230, R232): that of its gang, or, once the gang has ended, of its launch, with no lane active. -/
def State.descFault (g b n code addr : Nat) (s : State) : State :=
  if (s.gang g).live && (s.gang g).block == b then s.gangFault g code (BitVec.ofNat 64 addr)
  else (s.logFault g n code (BitVec.ofNat 64 addr) 0).kill (s.launch n).ctx code g (some n)

/-- R226, R227: the transfer at the head of a core's mover queue completes. -/
def execMoverDescriptorComplete (core : Nat) (host : HostMem) (s : State) : Result :=
  done <|
    match (s.coreAt core).mover with
    | .desc g b n _ d :: r =>
      let l := s.launch n
      if !s.moverRuns core || !s.ctxRuns l.ctx || s.transferKept l d then s
      else
        let t := s.onCoreAt core fun c => { c with mover := r }
        match s.transferFault core l d host.refused with
        | some (code, a) => (t.noteRefusal l.ctx code a (some core) (t.tagOf l.pid)).descFault g b n code a
        | none =>
          let t := if d.srcLocal then t else (moverElems d).foldl (fun t e => t.meetEccVa l.ctx e.1 d.elem host.ecc) t
          (((moverElems d).foldl (State.moveElem core b l d) (t, host.bytes)).1).wakeMov core
    | _ => s

/-- Chandler allocations of a slice's pool: entry, first address, bytes. -/
def State.chdList (s : State) (sl : Nat) : List (Nat × Nat × Nat) :=
  s.obj.tab.filterMap fun e => match e.2.body with
    | .memory _ d n x true _ => if (e.2.live || e.2.frozen) && x == sl then some (e.1, d, n) else none
    | _ => none

/-- First address of a slice's chandler window (R192). -/
def chdWindow (sl : Nat) : Nat := chdBase + sl * 2 ^ 36

/-- A place in the pool of slice `sl` for `n` bytes, retired granules left out (R193, R441). -/
def State.chdPlace (s : State) (sl n : Nat) : Option Nat :=
  match s.obj.pool.find sl with
  | none => none
  | some (o, z) =>
    let used := ((s.chdList sl).map fun e => e.2) ++ s.mem.retired.filterMap fun e => if e.2 then some (e.1 * 65536, 65536) else none
    firstFit (hbmBase sl + o) z used (if n < 4096 then 256 else 4096) n

/-- R193, R371: chd.alloc: the VA of the lowest place that fits (log 32), or null. -/
def execChdAlloc (g ud us : Nat) (s : State) : Result :=
  done <| s.instr g (fun _ => [uOk ud 2, uOk us 1]) fun s =>
    let sl := sliceOf (gCore g)
    let l := s.launchOf g
    let n := ((s.gang g).uReg us).toNat
    let z := (n + 255) / 256 * 256
    let s := s.loseStatus g
    let place := if 256 ≤ n ∧ n ≤ 0x4000000 then s.chdPlace sl z else none
    match place, s.freeOther l.part with
    | some d, some i =>
      let base := hbmBase sl + ((s.obj.pool.find sl).map Prod.fst).getD 0
      let t := s.newObj (objKey l.part i) .memory (.memory 0 d z sl true l.ctx) 1
      t.onGang g (Gang.setPair ud (BitVec.ofNat 64 (chdWindow sl + (d - base))))
    | _, _ =>
      (s.logOcc { event := 0xA05, sev := 0, part := some l.part, tag := s.gangTag g, unit := gCore g }).onGang g (Gang.setPair ud 0)

/-- The allocation of the gang's partition that contains a VA of a chandler window: its entry and its first VA. -/
def State.chdAt (s : State) (part va : Nat) : Option (Nat × Nat) :=
  let sl := (va - chdBase) / 2 ^ 36
  if va < chdBase ∨ 32 ≤ sl ∨ !s.owns part sl then none
  else
    let base := hbmBase sl + ((s.obj.pool.find sl).map Prod.fst).getD 0
    (s.chdList sl).findSome? fun e =>
      let first := chdWindow sl + (e.2.1 - base)
      if partOfKey e.1 = part ∧ first ≤ va ∧ va < first + e.2.2 then some (e.1, first) else none

/-- R194, R208, R371: chd.free releases the allocation reference; null has no effect. -/
def execChdFree (g us : Nat) (s : State) : Result :=
  done <|
    let va := ((s.gang g).uPair us).toNat
    let l := s.launchOf g
    let own := match s.chdAt l.part va with
      | some (k, first) =>
        first == va && (s.objAt k).creation && (match (s.objAt k).body with | .memory _ _ _ _ _ c => c == l.ctx | _ => false)
      | none => false
    s.instr g (fun _ => [uOk us 2, (va == 0 || own, 0xA, va)]) fun s =>
      let s := s.loseStatus g
      match s.chdAt l.part va with
      | none => s
      | some (k, _) =>
        if (s.objAt k).frozen then s.gangFault g 0xF (BitVec.ofNat 64 va)
        else
          match s.releaseRef k fun o => { o with creation := false } with
          | (t, .count _) => t
          | (t, .mismatch) => t.gangFault g 0xF (BitVec.ofNat 64 va)

/-- R194: chd.hdl writes the MEMORY handle of the allocation that contains the VA in `us`, or null. -/
def execChdHdl (g ud us : Nat) (s : State) : Result :=
  done <| s.instr g (fun _ => [uOk ud 2, uOk us 2]) fun s =>
    let h := match s.chdAt (s.launchOf g).part ((s.gang g).uPair us).toNat with
      | some (k, _) => s.handleOf k
      | none => 0
    s.onGang g (Gang.setPair ud (BitVec.ofNat 64 h))

/-- Table 11-1: the fields of a CIM descriptor are in their ranges, its reserved bytes zero. -/
def mvmDescOk (d : List Byte) : Bool :=
  decide (field d 0 2 ≤ 8191) && decide (1 ≤ field d 2 2) && decide (field d 2 2 ≤ 512) && decide (1 ≤ field d 4 1)
    && decide (field d 4 1 ≤ 16) && field d 2 2 % max 1 (field d 4 1) == 0 && decide (field d 5 1 ≤ 1) && field d 6 2 == 0
    && field d 8 4 % 16 == 0 && field d 12 4 % 64 == 0

/-- R167, R275: the macros lie in one share of the partition on the die. -/
def State.mvmShareOk (s : State) (part die m n : Nat) : Bool :=
  m / 2048 == (m + n - 1) / 2048 && decide (m + n ≤ 8192) && s.owns part (4 * die + m / 2048)

/-- Checks of a `cim.mvm` whose descriptor lies at a local offset (R275, R421). -/
def State.mvmChecks (s : State) (g ud us : Nat) : List Check :=
  let off := ((s.gang g).uReg us).toNat
  let d := s.localBytes g off 16
  let die := dieOf (sliceOf (gCore g))
  let n := field d 2 2
  [uOk ud 1, uOk us 1, alignOk off 16, s.localOk g off 16, s.localClean g off 16,
   (mvmDescOk d && !((s.strictOn die).isSome && decide (128 < n)), 1, 0),
   (s.mvmShareOk (s.launchOf g).part die (field d 0 2) n, 0x11, field d 0 2),
   s.localOk g (field d 8 4) (256 * field d 4 1), s.localOk g (field d 12 4) (n / max 1 (field d 4 1) * 1024)]

/-- R273, R275: cim.mvm queues one operation; a sequencer that holds 32 stalls the gang. -/
def execCimMvm (g ud us : Nat) (s : State) : Result :=
  done <|
    let d := s.localBytes g ((s.gang g).uReg us).toNat 16
    let die := dieOf (sliceOf (gCore g))
    let m := field d 0 2
    let sl := 4 * die + m / 2048
    let checks := fun s : State => s.mvmChecks g ud us
    if (firstFault (checks s)).isNone && decide (32 ≤ (s.cim.queue.look sl []).length) then s
    else s.instr g checks fun s =>
      let l := s.launchOf g
      let o : CimOp :=
        { owner := .gang g (s.blockOf g) ud, die := die, slice := sl, ctx := l.ctx, part := l.part, inVa := field d 8 4, outVa := field d 12 4
          macro_ := m, count := field d 2 2, rowgrp := field d 4 1, time := field d 5 1 == 1
          behind := s.loadsOn die m (field d 2 2), stale := false }
      let t := s.onCim fun c => { c with queue := c.queue.upd sl [] fun q => q ++ [o] }
      (t.onGang g fun x => { x with wait := .cim }).wakeSlice sl

/-- R231: the blocks, launches and packets of a context that a fault killed stop. -/
def execContextStop (c : Nat) (s : State) : Result :=
  done <| if (s.ctx c).st = .killed ∧ !(s.ctx c).stopped then s.stopContext c else s

end Sys2Proof.Machine
end

