-- ==== Sys2Proof/Machine/Special.lean ====
section
/-! DEFINITION. The special functions: their true values to 480 fractional bits, and the results that the error bounds of
Table 10-5 admit, of which the unit picks one (R256, R258). -/

namespace Sys2Proof.Machine

open Sys2Proof

/-- A free pick of the special-function unit for one function and operand, the same each time (R258). -/
def sfuPick (fn : Nat) (x : Word) : Nat := (Config.sfu fn x).toNat

/-- A magnitude code within 1 ulp of m × 2^e, a value that `.zero` cuts to `lo`: one that the unit picks (Table 10-5). -/
def nearCode (m : Nat) (e : Int) (exact : Bool) (pick : Nat) : Nat :=
  let lo := fB32.roundCode .zero m e
  min fB32.infCode (if exact then lo - 1 + pick % 3 else lo + pick % 2)

/-- 1 ÷ (m × 2^e): a significand with a sticky bit, its exponent, and whether it is exact. -/
def recipFin (m : Nat) (e : Int) : Nat × Int × Bool :=
  let q := 2 ^ 80 / m
  let exact := q * m == 2 ^ 80
  (2 * q + (if exact then 0 else 1), -e - 81, exact)

/-- 1 ÷ √(m × 2^e), likewise. -/
def rsqrtFin (m : Nat) (e : Int) : Nat × Int × Bool :=
  let (m, e) := if e % 2 = 0 then (m, e) else (2 * m, e - 1)
  let r := isqrt (2 ^ 160 / m) 80 0
  let exact := r * r * m == 2 ^ 160
  (2 * r + (if exact then 0 else 1), -e / 2 - 81, exact)

/-- Fractional bits of the fixed-point values below: far more than tell apart two binary32 codes. -/
def fxBits : Nat := 480

/-- 1 in fixed point. -/
def fxOne : Nat := 2 ^ fxBits

/-- atan(1 ÷ k), by its series. -/
def atanInv (k : Nat) : Int :=
  ((List.range 110).map fun i => (-1 : Int) ^ i * (fxOne / ((2 * i + 1) * k ^ (2 * i + 1)) : Nat)).sum

/-- π, by Machin's formula. -/
def fxPi : Int := 16 * atanInv 5 - 4 * atanInv 239

/-- 2 × artanh z, for 0 ≤ z ≤ 1/3. -/
def artanh2 (z : Nat) : Nat :=
  2 * ((List.range 160).foldl (fun a i => (a.1 + a.2 / (2 * i + 1), a.2 * z / fxOne * z / fxOne)) (0, z)).1

/-- ln 2. -/
def fxLn2 : Nat := artanh2 (fxOne / 3)

/-- 2^f, for 0 ≤ f < 1. -/
def exp2Frac (f : Nat) : Nat :=
  let t := f * fxLn2 / fxOne
  ((List.range 100).foldl (fun a k => (a.1 + a.2, a.2 * t / fxOne / (k + 1))) (0, fxOne)).1

/-- log2 of m × 2^e, for m ≠ 0. -/
def log2Fx (m : Nat) (e : Int) : Int :=
  let k := log2 m
  let y := m * fxOne / 2 ^ k
  ((k : Int) + e) * fxOne + (artanh2 ((y - fxOne) * fxOne / (y + fxOne)) * fxOne / fxLn2 : Nat)

/-- A Taylor series of r: its first term, and the factors k × (k + 1) of its terms from `k0` on. -/
def taylor (r first : Int) (k0 : Nat) : Int :=
  ((List.range 70).foldl (fun a i =>
    (a.1 + a.2, -(a.2 * r / fxOne * r / fxOne) / (((k0 + 2 * i) * (k0 + 2 * i + 1) : Nat) : Int))) ((0 : Int), first)).1

/-- ± m × 2^e modulo 2π, in −π to π. -/
def reduceAngle (neg : Bool) (m : Nat) (e : Int) : Int :=
  let r := ((m * 2 ^ (e + fxBits).toNat : Nat) : Int) % (2 * fxPi)
  let r := if fxPi < r then r - 2 * fxPi else r
  if neg then -r else r

/-- The code of the largest binary32 value not above v × 2^−480, as a signed number: codes of negative values count down
from 0. -/
def floorKey (v : Int) : Int :=
  if 0 ≤ v then fB32.roundCode .zero v.natAbs (-fxBits)
  else -((fB32.roundCode .zero (2 * v.natAbs - 1) (-(fxBits : Int) - 1) + 1 : Nat) : Int)

/-- The code of the least binary32 value not below it. -/
def ceilKey (v : Int) : Int := -floorKey (-v)

/-- The code with its sign bit. -/
def keyCode (k : Int) : Nat := fB32.signBit (decide (k < 0)) + k.natAbs

/-- A code within 2 ulp of v × 2^−480, not below the signed code `least`. -/
def within2 (least v : Int) (pick : Nat) : Nat :=
  let lo := max least (ceilKey v - 2)
  let hi := min (floorKey v + 2) fB32.maxCode
  keyCode (lo + (pick % (hi - lo + 1).toNat : Nat))

/-- A code within 2^−22 of v × 2^−480. -/
def within22 (v : Int) (pick : Nat) : Nat :=
  let d : Int := 2 ^ (fxBits - 22)
  let lo := ceilKey (v - d)
  keyCode (lo + (pick % (floorKey (v + d) - lo + 1).toNat : Nat))

/-- 2^x for x = ± m × 2^e of magnitude below 128 or negative, as a value × 2^480: far below the least code it is 0. -/
def exp2Fx (neg : Bool) (m : Nat) (e : Int) : Int :=
  if neg ∧ 8 ≤ (log2 m : Int) + e then 0
  else
    let x := (Num.signed neg (m * 2 ^ (e + fxBits).toNat))
    let n := x / (fxOne : Int)
    let v := exp2Frac (x % (fxOne : Int)).toNat
    if 0 ≤ n then v * 2 ^ n.toNat else v / 2 ^ n.natAbs

/-- sin or cos of x = ± m × 2^e, within the bound of its range. -/
def sfuAngle (cos neg : Bool) (m : Nat) (e : Int) (pick : Nat) : Nat :=
  let r := reduceAngle neg m e
  let v := if cos then taylor r fxOne 1 else taylor r r 2
  if ((m * 2 ^ (e + fxBits).toNat : Nat) : Int) ≤ 2 ^ 16 * fxPi then within2 (-fB32.infCode) v pick else within22 v pick

/-- A special function of a binary32 operand: its code and flags (R256, R258, Table 10-5). -/
def sfuValue (fn : SfuFn) (w : Word) : Nat × Nat :=
  let nan := fB32.nanCode
  let inf := fB32.infCode
  let sgn := fB32.signBit
  let ovr := fun (neg : Bool) (m : Nat) (e : Int) (c : Nat) =>
    if fB32.maxCode < fB32.roundCode .even m e ∨ inf ≤ c then (sgn neg + inf, 1) else (sgn neg + c, 0)
  match fn, fB32.decode w.toNat with
  | _, .nan => (nan, 2)
  | .rcp, .inf s => (sgn s, 0)
  | .rcp, .fin s m e =>
    if m = 0 then (sgn s + inf, 0)
    else let (q, x, ex) := recipFin m e; ovr s q x (nearCode q x ex (sfuPick 0 w))
  | .rsqrt, .inf s => if s then (nan, 4) else (0, 0)
  | .rsqrt, .fin s m e =>
    if m = 0 then (sgn s + inf, 0) else if s then (nan, 4)
    else let (q, x, ex) := rsqrtFin m e; (nearCode q x ex (sfuPick 1 w), 0)
  | .sqrt, .inf s => if s then (nan, 4) else (inf, 0)
  | .sqrt, .fin s m e =>
    if m = 0 then (sgn s, 0) else if s then (nan, 4)
    else let (q, x) := sqrtFin m e; (fB32.roundCode .even q x, 0)
  | .exp2, .inf s => (if s then 0 else inf, 0)
  | .exp2, .fin s m e =>
    if m = 0 then (0x3F800000, 0)
    else if !s ∧ 7 ≤ (log2 m : Int) + e then (inf, 1)
    else (within2 0 (exp2Fx s m e) (sfuPick 3 w), 0)
  | .log2, .inf s => if s then (nan, 4) else (inf, 0)
  | .log2, .fin s m e =>
    if m = 0 then (sgn true + inf, 0) else if s then (nan, 4)
    else if w = 0x3F800000 then (0, 0) else (within2 (-inf) (log2Fx m e) (sfuPick 4 w), 0)
  | .sin, .inf _ => (nan, 4)
  | .cos, .inf _ => (nan, 4)
  | .sin, .fin s m e => if m = 0 then (sgn s, 0) else (sfuAngle false s m e (sfuPick 5 w), 0)
  | .cos, .fin s m e => if m = 0 then (0x3F800000, 0) else (sfuAngle true s m e (sfuPick 6 w), 0)

end Sys2Proof.Machine
end

