-- ==== Sys2Proof/Machine/KernelMath.lean ====
section
/-! DEFINITION. The meanings of the matrix, conversion, flag, vector and special-function instructions (ch. 10). -/

namespace Sys2Proof.Machine

open Sys2Proof

/-- Element width of an `mma` whose operand formats may go together (R237, Table 10-1); none of any other pairing. -/
def mmaWidth (fa fb : Nat) : Option Nat :=
  if fa ≤ 1 ∧ fb ≤ 1 then some 16
  else if (fa = 5 ∨ fa = 6) ∧ (fb = 5 ∨ fb = 6) then some 8
  else if fa = 3 ∧ fb = 3 then some 8
  else if fa = 7 ∧ fb = 7 then some 4
  else if fa = 2 ∧ fb = 2 then some 32 else none

/-- The quarter datapath of a gang runs an `mma` (R238). -/
def State.datapathBusy (s : State) (g : Nat) : Bool := s.core.gang.any fun e => e.1 / 16 == g / 16 && e.2.mma.isSome

/-- A tile of the gang has an `mma` in flight (R238). -/
def State.tileBusy (s : State) (g t : Nat) : Bool :=
  match (s.gang g).mma with
  | some m => m.tile == t
  | none => false

/-- R240: element (row, k) of operand A, `w` bits wide, in the registers from `v`. -/
def Gang.elemA (x : Gang) (v w row k : Nat) : Nat :=
  let j := k % 16
  (x.vReg (v + j * w / 32) (row + 16 * (k / 16))).toNat / 2 ^ (j * w % 32) % 2 ^ w

/-- R241: element (k, column) of operand B in the bytes of its area. -/
def elemB (l : List Byte) (w k col : Nat) : Nat := field l ((k * 16 + col) * w / 8) (max 1 (w / 8)) / 2 ^ ((k * 16 + col) * w % 8) % 2 ^ w

/-- R237 to R242: an `mma` issues: C ← C + A × B on tile `t`, A in registers from `va`, B at the offset in `ub`, the
scales of the MX forms at the offset in `us`. -/
def execMma (g fa fb t va ub us : Nat) (s : State) : Result :=
  done <|
    if s.datapathBusy g then s
    else
      let mx := isMx fa
      let w := (mmaWidth fa fb).getD 16
      let x := s.gang g
      let ob := (x.uReg ub).toNat
      let os := (x.uReg us).toNat
      s.instr g (fun s =>
        [((mmaWidth fa fb).isSome, 1, 0), uOk ub 1, (!mx || (uOk us 1).1, 1, 0), s.tileOk g t, s.vOk g va (w / 2), alignOk ob 64,
          s.localOk g ob (w * 64)] ++ (if mx then [alignOk os 32, s.localOk g os 32, s.localClean g os 32] else [])
          ++ [s.localClean g ob (w * 64)])
        fun s =>
          let lb := (s.localRead x.block ob (w * 64)).map Prod.fst
          s.onGang g fun y =>
            { y with
              mma := some
                { fa := fa, fb := fb, tile := t, retried := false
                  a := (List.range 512).map fun i => x.elemA va w (i / 32) (i % 32)
                  b := (List.range 512).map fun i => elemB lb w (i / 16) (i % 16)
                  scales := if mx then (s.localRead x.block os 32).map fun b => b.1.toNat else [] } }

/-- The sum of integers. -/
def intSum (l : List Num) : Num :=
  let v := (l.map fun x => match x with | .fin s m _ => Num.signed s m | _ => 0).sum
  .fin (decide (v < 0)) v.natAbs 0

/-- The exact sum of one output element and the flags of its terms (R255, R256). -/
def PendMma.elem (m : PendMma) (row col : Nat) (c : Word) : Num × Nat :=
  let sa := m.scales.getD row 127
  let sb := m.scales.getD (16 + col) 127
  let terms := (List.range 32).map fun k =>
    (elemValue m.fa (m.a.getD (row * 32 + k) 0) sa).mul (elemValue m.fb (m.b.getD (k * 16 + col) 0) sb)
  -- INT8 products are summed as integers, whose zero has no sign
  let terms := if m.fa = 3 then [(intSum (terms.map Prod.fst), 0)] else terms
  sumTerms ((fB32.decode c.toNat).term :: terms)

/-- The tile after an `mma`, and the flags it sets. -/
def PendMma.result (m : PendMma) (x : Gang) : Gang :=
  (List.range 256).foldl (fun y i =>
    let k := m.tile * 256 + i
    let (v, fl) := m.elem (i / 16) (i % 16) (x.tile.look k 0)
    let (code, o) := fB32.pack .even v
    { y.flag (fl ||| o) with tile := y.tile.put k 0 (BitVec.ofNat 32 code) }) x

/-- R255, R262: an `mma` finishes; `ok` says that its residue check passed. A first mismatch runs it again, a second lays
the core up. -/
def execMmaComplete (g : Nat) (ok : Bool) (s : State) : Result :=
  done <|
    match (s.gang g).mma with
    | none => s
    | some m =>
      if !s.coreRuns (gCore g) then s
      else if ok then s.onGang g fun x => { m.result x with mma := none }
      else
        let t := s.logOcc { event := 0x404, sev := 1, part := some (s.launchOf g).part, tag := s.gangTag g, unit := gCore g }
        if m.retried then t.layUpHw (gCore g) 4
        else t.onGang g fun x => { x with mma := some { m with retried := true } }

/-- R243: acc.zero. -/
def execAccZero (g t : Nat) (s : State) : Result :=
  done <|
    if s.tileBusy g t then s
    else s.instr g (fun s => [s.tileOk g t]) fun s =>
      s.onGang g fun x => { x with tile := x.tile.filter fun e => e.1 / 256 != t }

/-- Row and column of register `j` of a lane in `acc.rd` and `acc.wr` (R243). -/
def tileIndex (t lane j : Nat) : Nat := t * 256 + lane % 16 * 16 + 8 * (lane / 16) + j

/-- R243: acc.rd: the active lanes receive their part of the tile. -/
def execAccRd (g vd t : Nat) (s : State) : Result :=
  done <|
    if s.tileBusy g t then s
    else s.instr g (fun s => [s.tileOk g t, s.vOk g vd 8]) fun s =>
      s.onGang g fun x => x.lanes.foldl (fun y lane =>
        (List.range 8).foldl (fun y j => y.setV (vd + j) lane (x.tile.look (tileIndex t lane j) 0)) y) x

/-- R243: acc.wr: the active lanes give their part of the tile. -/
def execAccWr (g t vs : Nat) (s : State) : Result :=
  done <|
    if s.tileBusy g t then s
    else s.instr g (fun s => [s.tileOk g t, s.vOk g vs 8]) fun s =>
      s.onGang g fun x => x.lanes.foldl (fun y lane =>
        (List.range 8).foldl (fun y j => { y with tile := y.tile.put (tileIndex t lane j) 0 (x.vReg (vs + j) lane) }) y) x

/-- R243: acc.st: the tile goes row-major to local memory at the offset in `us`. -/
def execAccSt (g us t : Nat) (s : State) : Result :=
  done <|
    if s.tileBusy g t then s
    else
      let x := s.gang g
      let off := (x.uReg us).toNat
      s.instr g (fun s => [uOk us 1, s.tileOk g t, alignOk off 64, s.localOk g off 1024]) fun s =>
        s.localWrite x.block off
          (((List.range 256).map fun i => (toLe 4 (x.tile.look (t * 256 + i) 0).toNat).map fun b => (b, false)).flatten)

/-- R252: the launch's AMAX_MASK names the register. -/
def State.amaxOk (s : State) (g a : Nat) : Check := (decide (a < 64) && (s.launchOf g).amaxMask.getLsbD a, 1, 0)

/-- A conversion meets the AMAX register it names: a finite source value raises it (R252). -/
def State.noteAmax (g a : Nat) (v : Num) (s : State) : State :=
  if v.finite then s.raiseAmax (s.launchOf g).ctx a v.mag32 else s

/-- One lane of a `cvt` (R247, R248): an MX format counts here with scale 2^0 (log 50); the code that an E2M1 element takes
for NaN or Inf is not stated: a free value (log 7). -/
def State.cvtLane (g fs fd : Nat) (r : RMode) (vd vs a : Nat) (x : Int) (s : State) (lane : Nat) : State :=
  let v := elemValue fs ((s.gang g).low vs lane (fmtBits fs)) 127
  let (code, fl, spoil) := elemCode fd (s.rnd g lane r) x v
  let s := (s.noteAmax g a v).drew g lane r v.finite
  let s := if spoil then let (z, t) := s.fresh; t.putNarrow g vd lane 4 (z.toNat % 16) else s.putNarrow g vd lane (fmtBits fd) code
  s.onGang g (Gang.flag fl)

/-- R247 to R252: cvt of the active lanes from format `fs` to format `fd` (Table 7-7's codes). -/
def execCvt (g fs fd : Nat) (r : RMode) (vd vs a : Nat) (s : State) : Result :=
  done <| s.instr g (fun s => [(decide (fs < 8) && decide (fd < 8), 1, 0), s.amaxOk g a, s.vOk g vd 1, s.vOk g vs 1]) fun s =>
    (s.gang g).lanes.foldl (fun t lane => t.cvtLane g fs fd r vd vs a 0 lane) s

/-- The scale byte of a `cvt.mx`: from a `u` register, or by the AMAX snapshot (R253, R254). -/
def State.mxScale (s : State) (g fd a : Nat) (us : Option Nat) : Nat :=
  match us with
  | some r => ((s.gang g).uReg r).toNat % 256
  | none => (autoExp fd (s.amax (s.launchOf g).ctx a).snap.toNat + 127).toNat

/-- R254: cvt.mx converts the active lanes as elements of one block, whose scale byte goes to `ud`. -/
def execCvtMx (g fs fd : Nat) (r : RMode) (vd vs ud a : Nat) (us : Option Nat) (s : State) : Result :=
  done <| s.instr g (fun s =>
      [(decide (fs < 8) && isMx fd, 1, 0), uOk ud 1, uOk (us.getD 0) 1, (s.mxScale g fd a us != 255, 1, 0), s.amaxOk g a,
        s.vOk g vd 1, s.vOk g vs 1])
    fun s =>
      let x := s.gang g
      let sc := s.mxScale g fd a us
      let odd := fd == 7 && x.lanes.any fun lane => !(elemValue fs (x.low vs lane (fmtBits fs)) 127).finite
      let t := x.lanes.foldl (fun t lane => t.cvtLane g fs fd r vd vs a ((sc : Int) - 127) lane) s
      t.onGang g (Gang.setU ud (if odd then 255 else BitVec.ofNat 32 sc))

/-- R254: amax.rd. -/
def execAmaxRd (g ud a : Nat) (s : State) : Result :=
  done <| s.instr g (fun _ => [uOk ud 1, (decide (a < 64), 1, 0)]) fun s =>
    s.onGang g (Gang.setU ud (s.amax (s.launchOf g).ctx a).value)

/-- R254: amax.scl: the scale byte of an auto-scaled conversion to format `fd` in the present stream. -/
def execAmaxScl (g ud a fd : Nat) (s : State) : Result :=
  done <| s.instr g (fun _ => [uOk ud 1, (decide (a < 64) && isMx fd, 1, 0)]) fun s =>
    s.onGang g (Gang.setU ud (BitVec.ofNat 32 (s.mxScale g fd a none)))

/-- R259: flg.rd. -/
def execFlgRd (g ud : Nat) (s : State) : Result :=
  done <| s.instr g (fun _ => [uOk ud 1]) fun s =>
    s.onGang g fun x => x.setU ud (BitVec.ofNat 32 (x.flags % 8))

/-- R259: flg.clr. -/
def execFlgClr (g : Nat) (s : State) : Result :=
  done <| s.instr g (fun _ => []) fun s => s.onGang g fun x => { x with ovf := false, nan := false, inv := false }

/-- The value and flags of a vector operation before rounding (R256, R257). -/
def vecValue (op : VecOp) (a b c : Num) : Num × Nat :=
  let neg := fun x : Num => match x with | .inf s => Num.inf (!s) | .fin s m e => .fin (!s) m e | .nan => .nan
  match op with
  | .add => sumTerms [a.term, b.term]
  | .sub => sumTerms [a.term, (neg b).term]
  | .mul => a.mul b
  | .fma => sumTerms [a.mul b, c.term]

/-- One lane of a vector operation. -/
def State.vecLane (g : Nat) (op : VecOp) (f : Nat) (fm : Fmt) (r : RMode) (vd va vb vc lane : Nat) (s : State) : State :=
  let x := s.gang g
  let n := fun v => fm.decode (x.low v lane (fmtBits f))
  let (v, fl) := vecValue op (n va) (n vb) (n vc)
  let (code, o) := fm.pack (s.rnd g lane r) v
  ((s.drew g lane r v.finite).putNarrow g vd lane (fmtBits f) code).onGang g (Gang.flag (fl ||| o))

/-- R247, R256, R257: a vector operation in D16, binary16 or binary32; `.stoch` only where the result is D16 or binary16. -/
def execVectorOp (g : Nat) (op : VecOp) (f : Nat) (r : RMode) (vd va vb vc : Nat) (s : State) : Result :=
  done <| s.instr g (fun s => [(decide (f ≤ 2) && (r != .stoch || decide (f ≤ 1)), 1, 0), s.vOk g vd 1, s.vOk g va 1,
      s.vOk g vb 1, (op != .fma || (s.vOk g vc 1).1, 2, 0)])
    fun s => match fmtOf f with
      | some fm => (s.gang g).lanes.foldl (fun t lane => t.vecLane g op f fm r vd va vb vc lane) s
      | none => s

/-- R258: a special function of the active lanes. -/
def execSfuOp (g : Nat) (fn : SfuFn) (vd vs : Nat) (s : State) : Result :=
  done <| s.instr g (fun s => [s.vOk g vd 1, s.vOk g vs 1]) fun s =>
    s.onGang g fun x => x.lanes.foldl (fun y lane =>
      let (code, fl) := sfuValue fn (x.vReg vs lane)
      (y.setV vd lane (BitVec.ofNat 32 code)).flag fl) x

end Sys2Proof.Machine
end

