-- ==== Sys2Proof/Machine/KernelSync.lean ====
section
/-! DEFINITION. The meanings of the synchronisation instructions, of the sync stores' own steps, and of the repair register
(ch. 14). -/

namespace Sys2Proof.Machine

open Sys2Proof

/-- Fields of an object word (Table 14-1). -/
def wordRemote (w : Nat) : Bool := w.testBit 31
def wordObj (w : Nat) : Nat := w % 2 ^ 18

/-- R338, R425: what an object word must meet in an instruction on a counter (`sem` false) or a semaphore; a STRICT partition
names no remote object. -/
def State.wordOk (s : State) (g : Nat) (sem remote : Bool) (w : Nat) : Check :=
  let here := w / 2 ^ 24 % 64 == 0 && s.owns (s.launchOf g).part (objSlice (wordObj w))
  (!w.testBit 30 && w / 2 ^ 18 % 64 == 0 && w.testBit 17 == sem && (if wordRemote w then remote && !s.strict (s.launchOf g).part else here), 0xE, w)

/-- The object word in a `u` register. -/
def State.objWord (s : State) (g uo : Nat) : Nat := ((s.gang g).uReg uo).toNat

/-- A sync operation of a gang; `p` 8 names no predicate. -/
def State.gangOp (s : State) (g : Nat) (kind : SyncKind) (uo : Nat) (n : DWord) (owned : Bool) (deadline : Option Nat) (ud p : Nat) : SyncOp :=
  { kind := kind, obj := wordObj (s.objWord g uo), amount := n, src := .gang g, part := (s.launchOf g).part, owned := owned,
    deadline := deadline, uReg := ud, pReg := p }

/-- A deferred or remote add or post has been handed over: p = 1, ud = 0 (R340, R364). -/
def State.handedOver (g ud p : Nat) (pair : Bool) (s : State) : State :=
  s.onGang g fun x => (if pair then x.setPair ud 0 else x.setU ud 0).setResult p true

/-- A remote add or post that is applied at once (R340, R385). -/
def State.remoteNow (g w n ud p : Nat) (pair : Bool) (s : State) : State :=
  let (id, t) := (s.release g).nextMsgId
  (t.kernelRemote (gCore g) (s.launchOf g).part w n id (s.gangTag g)).handedOver g ud p pair

/-- A tally.add or sem.post of `n`: deferred in a REPLAYABLE launch, else at once, as a release (R309, R340, R363). -/
def State.addOrPost (g : Nat) (kind : SyncKind) (dk : DfrKind) (uo ud p n : Nat) (pair : Bool) (s : State) : State :=
  let w := s.objWord g uo
  let now := fun s : State =>
    if wordRemote w then s.remoteNow g w n ud p pair
    else (s.release g).submit (s.gangOp g kind uo (BitVec.ofNat 64 n) false none ud p)
  if s.defers g then
    (s.handedOver g ud p pair).deferOr g dk w (fun e => { e with value := e.value + BitVec.ofNat 64 n }) now
  else now s

/-- R338, R340: tally.add; an n of 0 acts as tally.rd, which names no remote counter. -/
def execTallyAddInstr (g p ud uo un : Nat) (s : State) : Result :=
  done <|
    let n := ((s.gang g).uReg un).toNat
    s.instr g (fun s => [pOk p, pairUOk ud, uOk uo 1, uOk un 1, s.wordOk g false (n != 0) (s.objWord g uo)]) fun s =>
      if n = 0 then s.submit (s.gangOp g .read uo 0 false none ud 8) else s.addOrPost g .add .tally uo ud p n true

/-- R339: tally.rd. -/
def execTallyRd (g ud uo : Nat) (s : State) : Result :=
  done <| s.instr g (fun s => [pairUOk ud, uOk uo 1, s.wordOk g false false (s.objWord g uo)]) fun s =>
    s.submit (s.gangOp g .read uo 0 false none ud 8)

/-- The deadline of a kernel's wait (R352). -/
def State.waitBy (s : State) (g ut : Nat) : Option Nat := some (s.kernelDeadline (s.launchOf g).part ((s.gang g).uReg ut))

/-- R339, R349, R352: tally.wait. -/
def execTallyWaitInstr (g p ud uo ue ut : Nat) (s : State) : Result :=
  done <| s.instr g (fun s => [pOk p, pairUOk ud, pairUOk ue, uOk uo 1, uOk ut 1, s.wordOk g false false (s.objWord g uo)]) fun s =>
    (s.flushAdds g).submit (s.gangOp g .waitGe uo ((s.gang g).uPair ue) false (s.waitBy g ut) ud p)

/-- Checks of a semaphore instruction with an amount (Table 14-3). -/
def State.semChecks (s : State) (g p ud uo un : Nat) (remote : Bool) : List Check :=
  [pOk p, uOk ud 1, uOk uo 1, uOk un 1, ((s.gang g).uReg un != 0, 1, 0), s.wordOk g true remote (s.objWord g uo)]

/-- R342, R345, R349, R352: sem.wait, plain or OWNED. -/
def execSemWaitInstr (g : Nat) (own : Bool) (p ud uo un ut : Nat) (s : State) : Result :=
  done <| s.instr g (fun s => uOk ut 1 :: s.semChecks g p ud uo un false) fun s =>
    (s.flushAdds g).submit (s.gangOp g .take uo (((s.gang g).uReg un).setWidth 64) own (s.waitBy g ut) ud p)

/-- R342, R343, R345: sem.try, plain or OWNED. -/
def execSemTry (g : Nat) (own : Bool) (p ud uo un : Nat) (s : State) : Result :=
  done <| s.instr g (fun s => s.semChecks g p ud uo un false) fun s =>
    (s.flushAdds g).submit (s.gangOp g .tryTake uo (((s.gang g).uReg un).setWidth 64) own none ud p)

/-- R342, R348: sem.post. -/
def execSemPostInstr (g p ud uo un : Nat) (s : State) : Result :=
  done <| s.instr g (fun s => s.semChecks g p ud uo un true) fun s =>
    s.addOrPost g .post .sem uo ud p ((s.gang g).uReg un).toNat false

/-- R345, R348, R353: sem.post.own. -/
def execSemPostOwn (g p ud uo : Nat) (s : State) : Result :=
  done <| s.instr g (fun s => [pOk p, uOk ud 1, uOk uo 1, s.wordOk g true false (s.objWord g uo)]) fun s =>
    let now := fun s : State => (s.release g).submit (s.gangOp g .postOwn uo 0 true none ud p)
    if s.defers g then
      (s.handedOver g ud p false).deferOr g .sem (s.objWord g uo)
        (fun e => if e.gangs.contains g then e else { e with gangs := e.gangs ++ [g] }) now
    else now s

/-- Table 14-3: sem.rd. -/
def execSemRd (g ud uo : Nat) (s : State) : Result :=
  done <| s.instr g (fun s => [pairUOk ud, uOk uo 1, s.wordOk g true false (s.objWord g uo)]) fun s =>
    s.submit (s.gangOp g .semRead uo 0 false none ud 8)

/-- The first operation that waits at the sync store of die `d`, and the others. -/
def takeOp (d : Nat) : List (Nat × SyncOp) → Option (SyncOp × List (Nat × SyncOp))
  | [] => none
  | e :: r => if e.1 = d then some (e.2, r) else (takeOp d r).map fun x => (x.1, e :: x.2)

/-- R6, R436: an operation whose tag is damaged is dropped: its packet completes INTEGRITY, its kernel's context is killed
(log 98). -/
def State.damagedOp (op : SyncOp) (s : State) : State :=
  let t := s.mismatch 0x302 (some op.part) (BitVec.ofNat 64 op.obj) (s.opTag op)
  match op.src with
  | .packet pid => t.finish pid stIntegrity 0 0
  | .gang g => t.gangFault g 0xF (BitVec.ofNat 64 op.obj)
  | .remote dev id => t.sendAck dev id 1 0
  | _ => t

/-- R412: the slice that holds the object belongs to the operation's partition, which is not frozen; the operations of
Tidewatch and the pilot's own carry the hub's tag. -/
def State.opAdmitted (s : State) (op : SyncOp) : Bool :=
  op.src == .tidewatch || op.src == .pilot || (!s.isFrozen op.part && s.owns op.part (objSlice op.obj))

/-- R412, Table 17-3: an operation that the sync store refuses. -/
def State.refuseOp (op : SyncOp) (s : State) : State :=
  let t := s.bwRefuse op.part (some (objSlice op.obj)) 3 op.obj (s.opTag op)
  match op.src with
  | .packet pid => t.packetFault pid 0xB (BitVec.ofNat 64 op.obj)
  | .gang g => t.gangFault g 0xB (BitVec.ofNat 64 op.obj)
  | .remote dev id => t.sendAck dev id 1 0
  | _ => t

/-- R336, R412: the sync store of die `d` applies the operation that arrived first, unless the breakwater refuses it. -/
def execSyncOpApply (d : Nat) (s : State) : Result :=
  done <|
    match takeOp d s.sync.inbox with
    | none => s
    | some (op, r) =>
      let s := s.onSync fun x => { x with inbox := r }
      if op.npart ≠ ~~~(BitVec.ofNat 8 op.part) then s.damagedOp op
      else if !s.opAdmitted op then s.refuseOp op
      else s.applyOp op

/-- The waiter record of a gang. -/
def gangRec (g : Nat) (l : List WaitRec) : Option WaitRec := l.find? fun w => decide (w.who = .gang g)

/-- A deadline has passed. -/
def State.pastDue (s : State) (d : Option Nat) : Bool := match d with | some t => decide (t ≤ s.nowNs) | none => false

/-- R352: the deadline of a parked gang passes: its wait ends with TIMEOUT. -/
def execGangWaitTimeout (g : Nat) (s : State) : Result :=
  done <|
    match (s.gang g).wait with
    | .sync obj =>
      let i := obj % 2 ^ 17
      let rest := fun l : List WaitRec => l.filter fun w => decide (w.who ≠ .gang g)
      if obj < 2 ^ 17 then
        match gangRec g (s.tally i).waiters with
        | some w =>
          if s.pastDue w.deadline then
            (s.onTally i fun t => { t with waiters := rest t.waiters }).endWaiter true w .timeout (s.tally i).value
          else s
        | none => s
      else
        match gangRec g (s.sem i).waiters with
        | some w =>
          if s.pastDue w.deadline then
            ((s.onSem i fun t => { t with waiters := rest t.waiters }).endWaiter false w .timeout 0).serveSem i
          else s
        | none => s
    | _ => s

/-- A lost pulse is counted and logged, once for each record served (R351). -/
def State.lostPulses (obj n : Nat) (s : State) : State :=
  (List.range n).foldl (fun t _ => (t.onSync fun x => { x with repulse := satInc x.repulse }).syncLog 0xA03 1 (t.owner (objSlice obj)) obj) s

/-- The recheck of one counter. -/
def State.recheckTally (i : Nat) (s : State) : State :=
  let t := s.tally i
  if t.ok then (s.serveTally i).lostPulses i (t.waiters.filter fun w => decide (w.amount.toNat ≤ t.value.toNat)).length else s

/-- The recheck of one semaphore. -/
def State.recheckSem (i : Nat) (s : State) : State :=
  if (s.sem i).ok then
    let t := s.serveSem i
    t.lostPulses (i + 2 ^ 17) ((s.sem i).waiters.length - (t.sem i).waiters.length)
  else s

/-- R351: the 1 ms recheck serves the records whose condition is met. -/
def execSyncRecheck (s : State) : Result :=
  done <|
    let t := (s.sync.tally.map Prod.fst).foldl (fun t i => t.recheckTally i) s
    (s.sync.sem.map Prod.fst).foldl (fun t i => t.recheckSem i) t

/-- R6, R355: a write of SYNC_DBG_REPAIR gives a BAD object its value, the complement half ignored, and clears BAD. -/
def State.repairObj (v : Word) (s : State) : State :=
  let obj := bits s.sync.dbgSel 0 18
  let i := obj % 2 ^ 17
  let s := s.onSync fun x => { x with repair := v }
  if obj < 2 ^ 17 then
    s.onTally i fun t => { t.set (BitVec.ofNat 64 (s.sync.repairHi.toNat * 2 ^ 32 + v.toNat)) with bad := false }
  else s.onSem i fun t => { t.set v with bad := false }

/-- The object that SYNC_DBG_SEL selects is BAD. -/
def State.selBad (s : State) : Bool :=
  let obj := bits s.sync.dbgSel 0 18
  if obj < 2 ^ 17 then (s.tally obj).bad else (s.sem (obj % 2 ^ 17)).bad

/-- R355: SYNC_DBG_REPAIR. -/
def execSyncDbgRepair (v : DWord) (s : State) : Result :=
  done <| s.atReady 0xB0028 fun s => if s.selBad then s.repairObj (v.setWidth 32) else s

end Sys2Proof.Machine
end

