-- ==== Sys2Proof/Machine/Mctp.lean ====
section
/-! DEFINITION. MCTP over SMBus and PCIe VDM (R478 to R481, R492), and the way of a management message to the responder
that answers it. The fields of a message are the operands of its command; its bytes are laid out by the DMTF standards,
of which the spec repeats only the message type in the first byte (log 71). -/

namespace Sys2Proof.Machine

open Sys2Proof

/-- Reassembly and inbox index of a source on a binding. -/
def mctpKey (b src : Nat) : Nat := b * 256 + src

/-- The message type of a complete message (Table 19-5). -/
def messageType (l : List Byte) : Option Nat := l.head?.map fun x => x.toNat % 128

/-- A message of type `ty` waits from the source, and the device may answer it: control messages always, the others once
the binding has its endpoint ID (R481). -/
def State.waits (s : State) (b src ty : Nat) : Bool :=
  s.pilotRuns && decide (b < 2) && decide (src < 256)
    && ((s.mgmt.inbox.find (mctpKey b src)).bind messageType == some ty)
    && (ty == 0 || (s.mgmt.eid.find b).isSome)

/-- The waiting message is taken and answered. -/
def State.replyTo (b src : Nat) (m : MgmtMsg) (s : State) : State :=
  (s.onMgmt fun x => { x with inbox := x.inbox.drop (mctpKey b src) }).emit (.mgmt b m)

/-- A command that answers a waiting message of type `ty`. -/
def mctpRequest (b src ty : Nat) (f : State → State) (s : State) : Result :=
  done <| if s.waits b src ty then f s else s

/-- A complete message is the response to the PlatformEventMessage sent: PLDM, not a request, type 2, command 0x0A
(PRESUMED, the DMTF layout, log 71). -/
def eventAck (l : List Byte) : Bool :=
  messageType l == some 1 && decide (field l 1 1 < 128) && decide (field l 2 1 % 64 = 2) && decide (field l 3 1 = 0x0A)
    && decide (4 ≤ l.length)

/-- R483: the event at the head has been delivered; the next one is sent. -/
def State.eventDone (s : State) : State := (s.onMgmt fun m => { m with events := m.events.tail }).sendEvent

/-- A message is complete: it waits for its command, acknowledges an event, or is discarded (R481, Table 19-5). -/
def State.deliverMctp (b src : Nat) (l : List Byte) (s : State) : State :=
  if eventAck l then
    match s.mgmt.receiver, s.mgmt.events with
    | some r, _ :: _ => if r = (b, src) then s.eventDone else s
    | _, _ => s
  else
    match messageType l with
    | some ty =>
      if ty = 0 ∨ ((ty = 1 ∨ ty = 5 ∨ ty = 6) ∧ (s.mgmt.eid.find b).isSome) then
        s.onMgmt fun m => { m with inbox := (m.inbox.drop (mctpKey b src)).ins (mctpKey b src) l }
      else s
    | none => s

/-- R481, R492: a packet joins the reassembly of its message: one message of up to 4,096 B per source, in sequence. -/
def execMctpPacketReceive (p : MctpPacket) (s : State) : Result :=
  done <|
    if !s.pilotRuns || decide (2 ≤ p.binding) || decide (256 ≤ p.source) || (p.binding == 0 && !p.pecOk)
      || decide (64 < p.payload.length) then s
    else
      let k := mctpKey p.binding p.source
      let gone := s.onMgmt fun m => { m with reasm := m.reasm.drop k }
      let before := if p.som then some (p.seq % 4, []) else s.mgmt.reasm.find k
      match before with
      | none => s
      | some (n, l) =>
        let l := l ++ p.payload
        if n ≠ p.seq % 4 ∨ 4096 < l.length then gone
        else if p.eom then gone.deliverMctp p.binding p.source l
        else gone.onMgmt fun m => { m with reasm := m.reasm.ins k ((p.seq + 1) % 4, l) }

/-- R492: more than 100 ms pass between packets of a message. -/
def execMctpReassemblyTimeout (b src : Nat) (s : State) : Result :=
  done <| s.onMgmt fun m => { m with reasm := m.reasm.drop (mctpKey b src) }

/-- R479: SMB_CLK has been held low for 35 ms: the bus is released. -/
def execSmbusClockLowTimeout (s : State) : Result := done <| if s.pilotRuns then s.emit .smbRelease else s

/-- R480: the Alert Response Address is answered with the device's own while SMB_ALERT_N is asserted. -/
def execSmbusAlertResponse (s : State) : Result :=
  done <| if s.pilotRuns && s.smbAlert then s.emit (.smbAddr (smbAddress s.ao.smbAddrSel)) else s

/-- R481: Set Endpoint ID gives the binding its endpoint ID; an ID outside 8 to 254 is refused (PRESUMED, log 71). -/
def execSetEndpointId (b src eid : Nat) (s : State) : Result :=
  mctpRequest b src 0 (fun s =>
    if 8 ≤ eid ∧ eid ≤ 254 then (s.onMgmt fun m => { m with eid := (m.eid.drop b).ins b eid }).replyTo b src (.eid eid)
    else s.replyTo b src (.error .invalidData)) s

/-- R481: Get Endpoint ID; 0 while none is assigned. -/
def execGetEndpointId (b src : Nat) (s : State) : Result :=
  mctpRequest b src 0 (fun s => s.replyTo b src (.eid (s.mgmt.eid.look b 0))) s

/-- R481: Get Endpoint UUID. -/
def execGetEndpointUuid (b src : Nat) (s : State) : Result :=
  mctpRequest b src 0 (fun s => s.replyTo b src (.uuid Config.uuid)) s

/-- Message types of Table 19-5. -/
def mctpTypes : List Nat := [0, 1, 5, 6]

/-- R481: Get MCTP Version Support: MCTP 1.3 for the base (255) and the control type; for the other types of Table 19-5
the spec states no version. The version word is encoded as the DMTF standard does (PRESUMED, log 71). -/
def execGetMctpVersionSupport (b src ty : Nat) (s : State) : Result :=
  mctpRequest b src 0 (fun s =>
    s.replyTo b src (if ty = 255 ∨ ty = 0 then .versions [0xF1F3FF00]
      else if mctpTypes.contains ty then .versions [Config.typeVersion ty] else .error .unsupportedType)) s

/-- R481: Get Message Type Support. -/
def execGetMessageTypeSupport (b src : Nat) (s : State) : Result :=
  mctpRequest b src 0 (fun s => s.replyTo b src (.messageTypes mctpTypes)) s

end Sys2Proof.Machine
end

