-- ==== Sys2Proof/Machine/Pldm.lean ====
section
/-! DEFINITION. PLDM base commands and platform monitoring (R481 to R483, Tables 19-5 and 19-6). -/

namespace Sys2Proof.Machine

open Sys2Proof

/-- R481: GetTID. -/
def execGetTid (b src : Nat) (s : State) : Result := mctpRequest b src 1 (fun s => s.replyTo b src (.tid s.mgmt.tid)) s

/-- R481: SetTID; 0 and 255 are no terminus IDs (PRESUMED, log 71). -/
def execSetTid (b src : Nat) (t : BitVec 8) (s : State) : Result :=
  mctpRequest b src 1 (fun s =>
    if t = 0 ∨ t = 255 then s.replyTo b src (.error .invalidData)
    else (s.onMgmt fun m => { m with tid := t }).replyTo b src (.accepted .setTid)) s

/-- PLDM types of Table 19-5. -/
def pldmTypes : List Nat := [0, 2, 5]

/-- R481: GetPLDMVersion; the spec states no version of a type. -/
def execGetPldmVersion (b src ty : Nat) (s : State) : Result :=
  mctpRequest b src 1 (fun s =>
    s.replyTo b src (if pldmTypes.contains ty then .pldmVersion (Config.pldmVersion ty) else .error .unsupportedType)) s

/-- R481: GetPLDMTypes. -/
def execGetPldmTypes (b src : Nat) (s : State) : Result :=
  mctpRequest b src 1 (fun s => s.replyTo b src (.pldmTypes pldmTypes)) s

/-- The commands of a PLDM type (Table 19-5, R482, R484). -/
def pldmCommands (ty : Nat) : List PldmCmd :=
  if ty = 0 then [.getTid, .setTid, .getPldmVersion, .getPldmTypes, .getPldmCommands]
  else if ty = 2 then
    [.getPdrRepositoryInfo, .getPdr, .getSensorReading, .getStateSensorReadings, .setEventReceiver, .getEventReceiver]
  else if ty = 5 then
    [.requestUpdate, .getFirmwareParameters, .passComponentTable, .updateComponent, .requestFirmwareData,
     .transferComplete, .verifyComplete, .applyComplete, .activateFirmware, .getStatus, .cancelUpdateComponent,
     .cancelUpdate]
  else []

/-- R481: GetPLDMCommands. -/
def execGetPldmCommands (b src ty : Nat) (s : State) : Result :=
  mctpRequest b src 1 (fun s =>
    s.replyTo b src (if pldmTypes.contains ty then .pldmCommands (pldmCommands ty) else .error .unsupportedType)) s

/-- The sensor IDs of Table 19-6; the PDR repository holds one record for each, its handle the sensor ID (log 71). -/
def sensorIds : List Nat := (List.range 30).map (· + 1) ++ [64, 65]

/-- R482: GetPDRRepositoryInfo. -/
def execGetPdrRepositoryInfo (b src : Nat) (s : State) : Result :=
  mctpRequest b src 1 (fun s => s.replyTo b src (.pdrInfo sensorIds.length)) s

/-- The unit of a sensor (Table 19-6). -/
def sensorUnit (id : Nat) : SensorUnit :=
  if id ≤ 10 then .tempSixtyFourth
  else if id ≤ 17 then .volt100uV
  else if id ≤ 25 then .volt1mV
  else if id ≤ 29 then .amp10mA
  else if id = 30 then .watt100mW
  else if id = 64 then .deviceState
  else .thermalState

/-- The record that follows a sensor's, 0 after the last. -/
def nextSensor (id : Nat) : Nat := if id < 30 then id + 1 else if id = 30 then 64 else if id = 64 then 65 else 0

/-- R482: GetPDR; handle 0 asks for the first record (PRESUMED, log 71). Sensors 1 to 8 carry the limits of TW_THERM_LIM. -/
def execGetPdr (b src handle : Nat) (s : State) : Result :=
  mctpRequest b src 1 (fun s =>
    let id := if handle = 0 then 1 else handle
    if sensorIds.contains id then
      let lim := if id ≤ 8 then [s.limits.1, s.limits.2.1, s.limits.2.2] else []
      s.replyTo b src (.pdr id (sensorUnit id) lim (nextSensor id))
    else s.replyTo b src (.error .noPdr)) s

/-- R482: GetSensorReading: the register's value when the request arrives. -/
def execGetSensorReading (b src id : Nat) (s : State) : Result :=
  mctpRequest b src 1 (fun s =>
    match s.sensor id with
    | some v => s.replyTo b src (.reading v)
    | none => s.replyTo b src (.error .invalidSensor)) s

/-- R482: GetStateSensorReadings of the device or thermal state. -/
def execGetStateSensorReadings (b src id : Nat) (s : State) : Result :=
  mctpRequest b src 1 (fun s =>
    if id = 64 then s.replyTo b src (.stateReading s.deviceState)
    else if id = 65 then s.replyTo b src (.stateReading (some s.thermalState))
    else s.replyTo b src (.error .invalidSensor)) s

/-- R482, R483: SetEventReceiver: events report changes from this moment on; without a receiver none arise. -/
def execSetEventReceiver (b src : Nat) (receiver : Option Nat) (s : State) : Result :=
  mctpRequest b src 1 (fun s =>
    let now := eventSensors.foldl (fun t id => match s.sensorState id with | some v => t.put id 0 v | none => t) s.mgmt.lastState
    (s.onMgmt fun m => { m with receiver := receiver.map fun e => (b, e), lastState := now }).replyTo b src
      (.accepted .setEventReceiver)) s

/-- R482: GetEventReceiver. -/
def execGetEventReceiver (b src : Nat) (s : State) : Result :=
  mctpRequest b src 1 (fun s => s.replyTo b src (.receiver s.mgmt.receiver)) s

/-- R483: 100 ms have passed since the event at the head was sent: it is sent again, and after 3 retries discarded. -/
def execPldmEventRetry (s : State) : Result :=
  done <|
    match s.mgmt.events with
    | (id, v, n) :: r =>
      if !s.pilotRuns then s
      else if n < 3 then (s.onMgmt fun m => { m with events := (id, v, n + 1) :: r }).sendEvent
      else (s.logOcc { event := 0x706, sev := 2, code := id }).eventDone
    | [] => s

end Sys2Proof.Machine
end

