-- ==== Sys2Proof/Machine/Reduce.lean ====
section
/-! DEFINITION. The meanings of reductions, exact slots, deferred operations and commits (ch. 15). -/

namespace Sys2Proof.Machine

open Sys2Proof

/-- Checks of `mem.add` and `dfr.add` in every active lane (R331, R356). -/
def State.addChecks (s : State) (g : Nat) (ty : AddTy) (va vs : Nat) : List Check :=
  let n := (addFmt ty).bytes
  [s.vOk g va 2, s.vOk g vs (if n = 8 then 2 else 1)] ++ ((s.gang g).lanes.map fun lane => s.addOk g ((s.gang g).va va lane) n).flatten

/-- A lane's addend. -/
def Gang.addend (x : Gang) (ty : AddTy) (vs lane : Nat) : DWord :=
  BitVec.ofNat 64 (if (addFmt ty).bytes = 8 then x.va vs lane else (x.vReg vs lane).toNat)

/-- The host keeps an element from being written (log 40). -/
def State.addKept (s : State) (g : Nat) (ty : AddTy) (va : Nat) : Bool :=
  (s.gang g).lanes.any fun lane => s.vaKept (s.launchOf g).ctx ((s.gang g).va va lane) (addFmt ty).bytes true

/-- R356: mem.add: the active lanes' adds leave in ascending lane order. -/
def execMemAdd (g : Nat) (ty : AddTy) (va vs : Nat) (s : State) : Result :=
  done <|
    let x := s.gang g
    let checks := fun s : State => s.addChecks g ty va vs
    if (firstFault (checks s)).isNone && s.addKept g ty va then s
    else s.instr g checks fun s => x.lanes.foldl (fun t lane => t.addNow g (addFmt ty) (x.va va lane) (x.addend ty vs lane)) s

/-- R436: an add whose tag is damaged is dropped, and its target poisoned (log 98). -/
def State.dropAdd (a : RedAdd) (s : State) : State :=
  let t := s.mismatch 0x302 (some a.part) (BitVec.ofNat 64 a.dpa)
  if a.fmt = .xs then t.onRed fun x => { x with slot := x.slot.upd a.dpa {} fun t => { t with poisoned := true } }
  else t.onMem fun m => m.poisonAt a.dpa a.fmt.bytes

/-- R412: the slice of an add's target belongs to its partition, which is not frozen. -/
def State.addAdmitted (s : State) (a : RedAdd) : Bool :=
  !s.isFrozen a.part && (if a.fmt = .xs then s.owns a.part (a.dpa / 8192)
    else match shareOf a.dpa with | some (sl, _) => s.owns a.part sl | none => false)

/-- R412, Table 17-3: an add that the reduction unit refuses kills its kernel's context. -/
def State.refuseAdd (a : RedAdd) (s : State) : State :=
  let t := if a.fmt = .xs then s.bwRefuse a.part (some (a.dpa / 8192)) 4 a.dpa else s.bwRefusal a.part 4 a.dpa
  t.gangFault a.gang 0xB (BitVec.ofNat 64 a.dpa)

/-- R356, R412, R376: the oldest add in flight is applied; `slotBad` says that its slot shows an uncorrectable error. -/
def execReductionApply (slotBad : Bool) (s : State) : Result :=
  done <|
    match s.red.inflight with
    | [] => s
    | a :: r =>
      if !s.awake || s.tw.tripped || (a.fmt != .xs && (s.hostKeeps a.dpa a.fmt.bytes true || s.deckHeld a.dpa a.fmt.bytes)) then s
      else if a.npart ≠ ~~~(BitVec.ofNat 8 a.part) then (s.onRed fun x => { x with inflight := r }).dropAdd a
      else if !s.addAdmitted a then (s.onRed fun x => { x with inflight := r }).refuseAdd a
      else
        let s := if a.fmt = .xs ∧ slotBad then s.onRed fun x => { x with slot := x.slot.upd a.dpa {} fun t => { t with poisoned := true } } else s
        (s.onRed fun x => { x with inflight := r }).applyAdd a.fmt a.dpa a.value

/-- Checks of `xs.add` and `dfr.xs`. -/
def State.xsChecks (s : State) (g vi vx : Nat) : List Check :=
  [s.vOk g vi 1, s.vOk g vx 1] ++ (s.gang g).lanes.map fun lane => s.slotOk g ((s.gang g).vReg vi lane).toNat

/-- R360: xs.add. -/
def execXsAdd (g vi vx : Nat) (s : State) : Result :=
  done <|
    let x := s.gang g
    s.instr g (fun s => s.xsChecks g vi vx) fun s => x.lanes.foldl (fun t lane => t.xsNow g (x.vReg vi lane).toNat (x.vReg vx lane)) s

/-- R361: xs.clr zeroes the slot in `us` and sets its window from `uw`. -/
def execXsClr (g us uw : Nat) (s : State) : Result :=
  done <|
    let x := s.gang g
    let i := (x.uReg us).toNat
    let w := (x.uReg uw).toInt
    s.instr g (fun s => [uOk us 1, uOk uw 1, s.slotOk g i, (decide (-149 ≤ w) && decide (w ≤ -32), 1, 0)]) fun s =>
      (s.flushAdds g).onRed fun r => { r with slot := r.slot.put i {} { w := w } }

/-- The slot in `us` shows an uncorrectable error as the gang reads it (R376). -/
def State.slotFound (g i : Nat) (bad : Bool) (s : State) : State :=
  if bad ∧ s.canIssue g ∧ (s.slotOk g i).1 then s.onRed fun x => { x with slot := x.slot.upd i {} fun t => { t with poisoned := true } }
  else s

/-- The binary32 reading of a slot: code and flags (R361). -/
def Slot.read (t : Slot) (r : Rnd) : Nat × Nat :=
  if t.nan then (fB32.nanCode, 2)
  else if t.pinf && t.ninf then (fB32.nanCode, 4)
  else if t.pinf then (fB32.infCode, 0)
  else if t.ninf then (fB32.signBit true + fB32.infCode, 0)
  else if t.range then (fB32.nanCode, 1)
  else fB32.packFin r (decide (t.s.toInt < 0)) t.s.toInt.natAbs t.w

/-- R361, R376: xs.rd.even and xs.rd.zero. -/
def execXsRd (g : Nat) (r : RMode) (ud us : Nat) (slotBad : Bool) (s : State) : Result :=
  done <|
    let i := ((s.gang g).uReg us).toNat
    let s := (s.slotFound g i slotBad)
    s.instr g (fun s => [uOk ud 1, uOk us 1, (r != .stoch, 1, 0), s.slotOk g i, (!(s.slotAt i).poisoned, 0xC, i)]) fun s =>
      let s := s.flushAdds g
      let (code, fl) := (s.slotAt i).read (if r = .zero then .zero else .even)
      s.onGang g fun x => (x.setU ud (BitVec.ofNat 32 code)).flag fl

/-- The six words of `xs.raw` (R361). -/
def Slot.raw (t : Slot) : List Word :=
  let v := t.s.toNat
  (List.range 5).map (fun i => BitVec.ofNat 32 (v / 2 ^ (32 * i))) ++
    [BitVec.ofNat 32 (v / 2 ^ 160 + (BitVec.ofInt 8 t.w).toNat * 2 ^ 16 + b2n t.inexact * 2 ^ 24 + b2n t.pinf * 2 ^ 25
      + b2n t.ninf * 2 ^ 26 + b2n t.nan * 2 ^ 27 + b2n t.range * 2 ^ 28)]

/-- R361, R376: xs.raw. -/
def execXsRaw (g ud us : Nat) (slotBad : Bool) (s : State) : Result :=
  done <|
    let i := ((s.gang g).uReg us).toNat
    let s := (s.slotFound g i slotBad)
    s.instr g (fun s => [(decide (ud ≤ 58) && ud % 2 == 0, 1, 0), uOk us 1, s.slotOk g i, (!(s.slotAt i).poisoned, 0xC, i)]) fun s =>
      let s := s.flushAdds g
      let l := (s.slotAt i).raw
      s.onGang g fun x => l.zipIdx.foldl (fun y e => y.setU (ud + e.2) e.1) x

/-- R363, R364: dfr.add. -/
def execDfrAdd (g : Nat) (ty : AddTy) (va vs : Nat) (s : State) : Result :=
  done <|
    let x := s.gang g
    let c := (s.launchOf g).ctx
    s.instr g (fun s => s.addChecks g ty va vs) fun s => x.lanes.foldl (fun t lane =>
      let key := t.dpaOf c (x.va va lane)
      let v := x.addend ty vs lane
      t.deferOr g (.memAdd ty) key (DfrEntry.addValue ty (t.newKey g (.memAdd ty) key) v.toNat)
        fun t => t.addNow g (addFmt ty) (x.va va lane) v) s

/-- R363, R364: dfr.xs. -/
def execDfrXs (g vi vx : Nat) (s : State) : Result :=
  done <|
    let x := s.gang g
    s.instr g (fun s => s.xsChecks g vi vx) fun s => x.lanes.foldl (fun t lane =>
      let v := x.vReg vx lane
      t.deferOr g .xs (x.vReg vi lane).toNat (fun e => { e with slot := e.slot.add (fB32.decode v.toNat) })
        fun t => t.xsNow g (x.vReg vi lane).toNat v) s

/-- R367: block `b` has ended, its combining-buffer entries have drained and its stores are acknowledged: it sends its
commit. -/
def execBlockCommit (b : Nat) (s : State) : Result :=
  done <|
    let x := s.blk b
    let l := s.launch x.launch
    let pending := s.mem.rmw.any (fun w => w.block == b) || (s.mem.comb.look x.core []).any (fun e => e.block == b)
      || (s.coreAt x.core).mover.any fun m => match m with | .desc _ k _ _ _ => k == b | _ => false
    if !(s.core.block.find b).isSome || !x.exited || x.commitSent || pending || !s.awake || s.tw.tripped
        || (s.ctx l.ctx).st != .live then s
    else
      let e := if x.early then [] else (s.coreAt x.core).dfr.filter fun e => e.block == b
      let c : Commit :=
        { launch := x.launch, part := l.part, ctx := l.ctx, core := x.core, block := b, index := x.index, entries := e
          early := false, flags := x.flags }
      let t := s.onRed fun r => { r with commits := r.commits ++ [c] }
      t.onBlk b fun y => { y with commitSent := true }

/-- A commit is discarded and logged (R368). -/
def State.discardCommit (c : Commit) (s : State) : State :=
  (s.logOcc { event := 0x405, sev := 0, part := some c.part, tag := s.tagOf (s.launch c.launch).pid, unit := c.core, addr := BitVec.ofNat 64 c.index }).ackCommit c

/-- R368, R369, R375, R376: commit `i` of those on their way reaches its ledger home; `ledgerBad` says that the ledger shows
an uncorrectable error. -/
def execCommitArrive (i : Nat) (ledgerBad : Bool) (s : State) : Result :=
  done <|
    match s.red.commits[i]? with
    | none => s
    | some c =>
      let l := s.launch c.launch
      let t := s.onRed fun r => { r with commits := r.commits.eraseIdx i }
      let checked := l.replayable && l.status && !c.early
      if !s.awake || c.entries.any (fun e => match e.kind with | .memAdd ty => s.deckHeld e.key (addFmt ty).bytes | _ => false) then s
      else if !l.live || (s.ctx c.ctx).st != .live then t.discardCommit c
      else if checked && ledgerBad then
        (t.logOcc { event := 0x20C, sev := 3, part := some c.part, tag := s.tagOf l.pid, code := 0xC }).kill c.ctx 0xC (0xFFF * 64) (some c.launch)
      else if checked && l.ledger.look c.index false then t.discardCommit c
      else
        let t := if checked then t.onLaunch c.launch fun l => { l with ledger := l.ledger.put c.index false true } else t
        let t := t.ackCommit c
        if t.tw.tripped then t.onRed fun r => { r with held := r.held ++ [c] } else t.applyCommit c

end Sys2Proof.Machine
end

