-- ==== Sys2Proof/Machine/RegRead.lean ====
section
/-! DEFINITION. What the registers of PF BAR0 and of a VF's BAR0 read (R468, R471, R473, and the register tables of every
chapter). Offsets of 32-bit words; the popping registers and the peaks that a read restarts are in `Regs`. -/

namespace Sys2Proof.Machine

open Sys2Proof

/-- The half of a 64-bit value at an offset: the upper one where the offset is 4 modulo 8. -/
def halfAt (off v : Nat) : Nat := if off % 8 = 4 then v / 2 ^ 32 % 2 ^ 32 else v % 2 ^ 32

/-- Offset `off` lies in an array of `n` elements of `w` bytes from `base`. -/
def inArr (off base w n : Nat) : Bool := decide (base ≤ off) && decide (off < base + w * n)

/-- Available slices. -/
def State.slicesUp (s : State) : Nat := popcount s.boot.avail

/-- GLB (Table 19-9). -/
def State.glbRead (s : State) (off : Nat) : Nat :=
  let h := s.host
  if off = 0 then 0x6400B101
  else if off = 4 then (if s.boot.ready then 0x13FFF else 7)
  else if off = 8 then Config.serial.toNat % 2 ^ 32
  else if off = 0xC then Config.serial.toNat / 2 ^ 32
  else if off = 0x10 then 0x08202040
  else if off = 0x14 then
    b2n s.ao.recFlash * 64 + s.roleField.toNat * 16 + b2n s.ao.xtal * 8 + b2n h.ideLink * 4 + b2n h.cxlOn * 2 + b2n h.cxlOn
  else if off = 0x18 then 768 * 2 ^ 16 + s.coresOn
  else if off = 0x1C then b2n h.cxlDisabled * 2 ^ 16 + h.width * 2 ^ 8 + h.rate
  else if off = 0x20 then s.slicesUp * 9 * 2 ^ 16 + s.slicesUp * 512
  else if off = 0x24 then b2n h.updateDis
  else if inArr off 0x40 4 4 then (h.scratch.look ((off - 0x40) / 4) 0).toNat
  else 0

/-- One word of an MSI-X table entry, as PCIe lays it out. -/
def MsixVec.word (v : MsixVec) (i : Nat) : Nat :=
  if i = 0 then v.addr.toNat % 2 ^ 32 else if i = 1 then v.addr.toNat / 2 ^ 32 else if i = 2 then v.data.toNat else b2n v.masked

/-- The pending-bit array. -/
def pba (t : Tab MsixVec) : Nat := (maskOf 64 ((t.filter fun e => e.2.pending).map Prod.fst)).toNat

/-- INT (Table 19-10). -/
def State.intRead (s : State) (off : Nat) : Nat :=
  let h := s.host
  if off = 0 then h.intCause.toNat
  else if off = 4 then h.intMask.toNat
  else if inArr off 0x40 4 8 then (h.intVec.look ((off - 0x40) / 4) 0).toNat
  else if inArr off 0x8000 16 64 then (h.msix.look ((off - 0x8000) / 16) {}).word (off % 16 / 4)
  else if inArr off 0xC000 8 1 then halfAt off (pba h.msix)
  else 0

/-- PILOT (ch. 2). -/
def State.pilotRead (s : State) (off : Nat) : Nat :=
  let b := s.boot
  if off = 0 then
    b2n b.halt * 2 ^ 31 + b2n b.ready * 2 ^ 30 + b.source.toNat * 2 ^ 28 + s.roleField.toNat * 2 ^ 26 + b2n b.warn * 2 ^ 25
      + b2n b.trial * 2 ^ 24 + b.stage % 16 * 2 ^ 16 + (if b.halt then b.failCode else b.noteCode).toNat
  else if off = 4 then (if b.halt then b.detail else b.noteDetail).toNat
  else if off = 8 then b.bootTime.toNat
  else if off = 0xC then b.avail.toNat
  else if off = 0x10 then b.fwVer.toNat
  else if off = 0x14 then s.ao.minSvn.toNat * 2 ^ 16 + b.imgSvn.toNat
  else if off = 0x20 then b.mboxCmd.toNat
  else if inArr off 0x24 4 4 then (b.mboxArg.look ((off - 0x24) / 4) 0).toNat
  else if off = 0x34 then b2n b.mboxBusy * 2 ^ 31 + b2n b.mboxLost * 2 ^ 30 + b.mboxResult.toNat
  else 0

/-- Device state codes of PWR_STAT. -/
def Dev.code : Dev → Nat | .boot => 0 | .training => 1 | .ready => 2 | .awake => 3 | .sleep => 4 | .deep => 5

/-- Slice state codes of PWR_SLICE_STATE. -/
def SliceSt.code : SliceSt → Nat | .run => 0 | .doze => 1 | .nap => 2 | .off => 3

/-- PWR_SLICE_STATE[n] (ch. 5). -/
def State.sliceReg (s : State) (n : Nat) : Nat :=
  let x := s.slice n
  let o := s.owner n
  x.st.code * 2 ^ 30 + b2n x.unavail * 2 ^ 29 + b2n x.prewoken.isSome * 2 ^ 28 + b2n (s.held n) * 2 ^ 27 + x.floor.code * 2 ^ 25
    + b2n o.isSome * 32 + o.getD 0

/-- PWR (ch. 5). -/
def State.pwrRead (s : State) (off : Nat) : Nat :=
  let p := s.pwr
  let die := fun base => p.die.look ((off - base) / 4) {}
  if off = 0 then
    let capped := maskOf 8 ((List.range 8).filter fun d => (p.die.look d {}).cap.isSome)
    p.dev.code * 2 ^ 29 + b2n (!p.sleepPending.isEmpty) * 2 ^ 28 + b2n s.deviceHeld * 2 ^ 27 + b2n p.fullRestore * 2 ^ 26 + capped.toNat
  else if off = 4 then p.idleDwell.toNat
  else if inArr off 8 8 1 then halfAt off p.deckRet.toNat
  else if off = 0x10 then p.dozeDwell.toNat
  else if off = 0x14 then p.napDwell.toNat
  else if off = 0x18 then p.offDwell.toNat
  else if off = 0x1C then p.prewakeCnt
  else if off = 0x20 then p.wakeSrc.toNat
  else if off = 0x24 then p.limit.toNat
  else if off = 0x28 then p.power.toNat
  else if off = 0x2C then p.pmbCtrl.toNat
  else if inArr off 0x40 4 8 then
    let d := (off - 0x40) / 4
    s.merged d * 2 ^ 16 + s.capOf d * 2 ^ 8 + (die 0x40).code
  else if inArr off 0x60 4 8 then b2n (die 0x60).pmbFault * 2 ^ 31 + (die 0x60).target % 4096 * 2 ^ 16 + (die 0x60).lastVout % 4096
  else if inArr off 0x80 4 8 then (die 0x80).pmbCfg.toNat / 256 * 256 + (Config.fuseOfs ((off - 0x80) / 4)).toNat
  else if inArr off 0x100 4 32 then s.sliceReg ((off - 0x100) / 4)
  else if inArr off 0x180 4 32 then (s.coreDoze ((off - 0x180) / 4)).toNat
  else 0

/-- Outcome and record of the store's last write, and its state (Table 18-11). -/
def State.nvmRead (s : State) (off : Nat) : Nat :=
  let n := s.nvm
  if off = 0 then
    b2n (n.cur.isSome || n.slotBusy.isSome) * 2 ^ 31 + b2n n.refusing * 2 ^ 30 + n.queue.length % 256 * 2 ^ 16
      + (match n.cur with | some (w, _, _, _) => w.rec_ % 2048 | none => 0)
  else if off = 4 then n.writes.toNat
  else if off = 8 then n.fails
  else if off = 0xC then n.wearMax
  else if off = 0x10 then n.lastOut % 4 * 2 ^ 28 + n.lastRec % 2048
  else 0

/-- The entry LOG_SEL selects: of the status history where bit 31 is 1 (R463). -/
def LogBlk.selected (l : LogBlk) : Option LogEntry :=
  (if l.sel.getLsbD 31 then l.history else l.entries).find? fun e => e.seq == l.sel.toNat

/-- LOG (Table 18-11). -/
def State.logRead (s : State) (off : Nat) : Nat :=
  let l := s.log
  if off = 0 then b2n l.overflow * 2 ^ 31 + b2n (decide (3840 ≤ l.entries.length)) * 2 ^ 30 + l.entries.length % 2 ^ 13
  else if off = 4 then (match l.entries with | e :: _ => e.seq | [] => l.next)
  else if off = 8 then l.next
  else if off = 0x10 then l.dropCnt
  else if off = 0x14 then l.intSev
  else if off = 0x18 then seq31 l.histNext + 2 ^ 31
  else if off = 0x20 then l.sel.toNat
  else if inArr off 0x40 8 8 then
    match l.selected with
    | some e => field e.bytes (off - 0x40) 4
    | none => 0xFFFFFFFF
  else 0

/-- PART (ch. 17). -/
def State.partRead (s : State) (off : Nat) : Nat :=
  let p := s.part
  if off = 0 then (maskOf 32 ((List.range 32).filter fun n => (s.owner n).isSome)).toNat
  else if off = 4 then (maskOf 8 ((List.range 8).filter fun d => (s.strictOn d).isSome)).toNat
  else if off = 8 then p.scrub.toNat
  else if off = 0xC then p.frozen.toNat
  else if off = 0x10 then p.bwRefuse
  else if inArr off 0x18 8 1 then halfAt off p.bwLast.toNat
  else if inArr off 0x100 8 32 then halfAt off (p.map.look ((off - 0x100) / 8) (mkPair 0)).toNat
  else if inArr off 0x200 8 32 then halfAt off (p.slices.look ((off - 0x200) / 8) (mkPair 0)).toNat
  else if inArr off 0x300 4 32 then p.createCnt.look ((off - 0x300) / 4) 0
  else 0

/-- Cores of a slice laid up at the factory, and laid up at all. -/
def State.laidOf (s : State) (n : Nat) : Nat :=
  let at' := fun k => (s.coreAt (n * 24 + k)).laid
  (maskOf 24 ((List.range 24).filter fun k => at' k == .factory)).toNat * 2 ^ 24
    + (maskOf 24 ((List.range 24).filter fun k => at' k != .no)).toNat

/-- FENCE (Table 18-11). -/
def State.fenceRead (s : State) (off : Nat) : Nat :=
  if off = 0 then
    let rec_ := (s.core.core.filter fun e => e.2.laid == .field && e.2.persist).length
    b2n s.fence.pending * 2 ^ 31 + b2n s.fence.repaired * 2 ^ 30 + rec_ % 1024 * 2 ^ 16 + s.coresOn
  else if off = 4 then b2n s.fence.autoPersist
  else if off = 8 then s.fence.mapSeq.toNat
  else if inArr off 0x100 8 32 then halfAt off (s.laidOf ((off - 0x100) / 8))
  else if inArr off 0x400 4 256 then (s.mem.wayOff.look ((off - 0x400) / 4) 0).toNat
  else if inArr off 0x800 4 32 then
    let b := hbmBase ((off - 0x800) / 4)
    (s.mem.retired.filter fun e => e.2 && decide (b ≤ e.1 * 65536) && decide (e.1 * 65536 < b + 0x240000000)).length
  else 0

/-- CIM (ch. 11). -/
def State.cimRead (s : State) (off : Nat) : Nat :=
  let c := s.cim
  let i4 := fun base => (off - base) / 4
  if off = 0 then b2n c.staleWait * 2 + b2n c.autoRecal
  else if off = 4 then c.calBusy.toNat * 2 ^ 24 + c.calReq.toNat * 2 ^ 16 + c.calFail.toNat * 2 ^ 8 + c.calValid.toNat
  else if off = 8 then c.zeroed.toNat
  else if inArr off 0x40 4 8 then c.activeMax.look (i4 0x40) 512
  else if inArr off 0x60 4 8 then c.peak.look (i4 0x60) 0 * 2 ^ 16 + c.active.look (i4 0x60) 0
  else if inArr off 0x80 16 8 then
    let d := (off - 0x80) / 16
    halfAt off (if (off - 0x80) % 16 < 8 then c.opsDig.look d 0 else c.opsTime.look d 0).toNat
  else if inArr off 0x100 8 8 then halfAt off (c.calTime.look ((off - 0x100) / 8) 0).toNat
  else if inArr off 0x140 4 8 then (c.calTrim.look (i4 0x140) 0).toNat
  else if inArr off 0x160 4 8 then
    let n := (c.poisoned.filter fun e => e.2 && e.1 / 8192 == i4 0x160).length
    b2n (n != 0) * 2 ^ 31 + n
  else if inArr off 0x180 4 8 then s.mem.scrubDeck.look (2 * i4 0x180 + 1) 0
  else 0

/-- A context's number within the device: its place in the context table, which the spec does not define further. -/
def State.ctxNumber (s : State) (k : Nat) : Nat := (s.obj.ctx.takeWhile fun e => e.1 != k).length

/-- The fields of a gang in SYNC_DBG_REC. -/
def State.gangRec (s : State) (g part : Nat) : Nat :=
  part % 32 * 2 ^ 56 + s.ctxNumber (s.launchOf g).ctx % 1024 * 2 ^ 46 + gCore g % 1024 * 2 ^ 36 + gQuarter g * 2 ^ 34 + gSlot g * 2 ^ 30

/-- The microsecond bits of a deadline. -/
def deadlineBits (d : Option Nat) : Nat := match d with | some n => n / 1000 % 2 ^ 30 | none => 0

/-- SYNC_DBG_REC of a waiter record. -/
def State.waiterReg (s : State) (w : WaitRec) : Nat :=
  2 ^ 63 + deadlineBits w.deadline +
    match w.who with
    | .gang g => s.gangRec g w.part
    | .packet pid => 2 ^ 62 + w.part % 32 * 2 ^ 56 + (match s.inflight pid with | some i => i.q.number % 4096 | none => 0) * 2 ^ 44

/-- SYNC_DBG_REC of a holder record. -/
def State.holderReg (s : State) (h : HoldRec) : Nat := 2 ^ 63 + 2 ^ 61 + s.gangRec h.gang (s.launchOf h.gang).part

/-- The records of the selected object, waiters first (ch. 14). -/
def State.dbgRecords (s : State) : List Nat :=
  let o := bits s.sync.dbgSel 0 18
  if o < 2 ^ 17 then (s.tally o).waiters.map s.waiterReg
  else (s.sem (o % 2 ^ 17)).waiters.map s.waiterReg ++ (s.sem (o % 2 ^ 17)).holders.map s.holderReg

/-- SYNC_DBG_STAT. -/
def State.dbgStat (s : State) : Nat :=
  let o := bits s.sync.dbgSel 0 18
  if o < 2 ^ 17 then
    let t := s.tally o
    let inRun := s.obj.tab.any fun e => match e.2.body with
      | .run f n true _ _ _ => e.2.live && decide (f ≤ o) && decide (o < f + n)
      | _ => false
    b2n t.bad * 2 ^ 31 + b2n t.mirror * 2 ^ 29 + b2n inRun * 2 ^ 28 + b2n t.orphaned * 2 ^ 27 + t.waiters.length % 4096
  else
    let m := s.sem (o % 2 ^ 17)
    b2n m.bad * 2 ^ 31 + b2n m.abandoned * 2 ^ 30 + m.holders.length % 4096 * 2 ^ 12 + m.waiters.length % 4096

/-- SYNC (ch. 14). -/
def State.syncRead (s : State) (off : Nat) : Nat :=
  let x := s.sync
  let o := bits x.dbgSel 0 18
  let tally := decide (o < 2 ^ 17)
  if off = 0 then x.dbgSel.toNat
  else if inArr off 8 8 1 then halfAt off (if tally then (s.tally o).value.toNat else (s.sem (o % 2 ^ 17)).count.toNat)
  else if inArr off 0x10 8 1 then halfAt off (if tally then (s.tally o).nvalue.toNat else (s.sem (o % 2 ^ 17)).ncount.toNat)
  else if off = 0x18 then s.dbgStat
  else if off = 0x1C then x.recSel.toNat
  else if inArr off 0x20 8 1 then halfAt off (s.dbgRecords.getD x.recSel.toNat 0)
  else if inArr off 0x28 8 1 then halfAt off (mkPair x.repair).toNat
  else if off = 0x30 then x.repairHi.toNat
  else if off = 0x34 then x.dupCnt
  else if off = 0x38 then x.repulse
  else if inArr off 0x100 4 32 then
    let n := (off - 0x100) / 4
    x.recPeak.look n 0 % 4096 * 2 ^ 16 + s.recUse n % 4096
  else if inArr off 0x200 8 8 then halfAt off (x.ops.look ((off - 0x200) / 8) 0).toNat
  else 0

/-- HWS_PORT_STAT (ch. 3). -/
def Port.stat (p : Port) : Nat :=
  let w := if p.width = 0 then 0 else p.groups.toNat
  let st := if p.recovering then 7 else p.st.code
  let why := if p.st = .disabled then (if p.enable then 0 else 6) else if p.st = .down then p.downReason.toNat else 0
  st * 2 ^ 28 + w * 2 ^ 26 + b2n p.recovering * 2 ^ 25 + b2n p.lpi * 2 ^ 24 + why * 2 ^ 20 + p.lastFail.toNat * 2 ^ 16
    + p.attempts % 16 * 2 ^ 12 + p.peerPort.toNat % 8 * 2 ^ 9 + p.laneFail.toNat

/-- HWS_CREDIT: what the peer granted. -/
def Port.creditReg (p : Port) : Nat :=
  match p.peerGrant with
  | some g => g.ctrl / 4 % 256 * 2 ^ 24 + g.sync / 4 % 256 * 2 ^ 16 + g.req / 8 % 256 * 2 ^ 8 + g.rsp / 8 % 256
  | none => 0

/-- HWS (ch. 3), 8 KiB per port. -/
def State.hwsRead (s : State) (off : Nat) : Nat :=
  let p := s.port (off / 0x2000)
  let o := off % 0x2000
  if o = 0 then p.groupMask.toNat * 2 ^ 10 + b2n p.lpiEn * 2 ^ 9 + b2n p.enable * 2 ^ 8
  else if o = 4 then p.stat
  else if inArr o 8 8 1 then halfAt (o - 8) p.peerSn.toNat
  else if o = 0x10 then p.peerSession.toNat * 2 ^ 16 + p.peerRole.toNat * 2 ^ 8 + p.peerCaps.toNat
  else if o = 0x14 then p.fecCorr
  else if o = 0x18 then p.fecUncorr
  else if o = 0x1C then p.replayCnt
  else if o = 0x20 then p.recovCnt
  else if o = 0x24 then p.creditReg
  else if inArr o 0x40 4 8 then (p.laneBer.look ((o - 0x40) / 4) 0).toNat
  else 0

/-- QDB_STAT (ch. 6). -/
def State.queueStat (s : State) (q : QueueId) : Nat :=
  let x := s.queue q
  let fl := (s.q.inflight.filter fun i => decide (i.q = q)).length
  b2n x.dbBad * 2 ^ 31 + b2n x.cqBad * 2 ^ 30 + b2n x.fetchErr * 2 ^ 29 + b2n (x.enabled && !x.ended) * 2 ^ 28 + b2n (s.blocked q) * 2 ^ 27
    + min 16 x.buffer.length * 2 ^ 16 + min 0xFFFF fl

/-- A doorbell page (Table 6-10), with what an admin page adds (Table 6-11). -/
def State.pageRead (s : State) (q : QueueId) (o : Nat) : Nat :=
  let x := s.queue q
  let adm := match q with | .admin _ => true | _ => false
  if !adm && !(x.enabled && !x.ended) then 0
  else if o = 0 then x.sqPut.toNat
  else if o = 4 then x.sqGet.toNat
  else if o = 8 then x.cqGet.toNat
  else if o = 0xC then x.cqPut.toNat
  else if o = 0x10 then s.queueStat q
  else if o = 0x14 then x.seqExp.toNat
  else if !adm then 0
  else if inArr o 0x40 8 1 then halfAt o x.sqBase.toNat
  else if inArr o 0x48 8 1 then halfAt o x.cqBase.toNat
  else if o = 0x50 then b2n x.enabled * 2 ^ 31 + x.cqLog % 32 * 2 ^ 16 + x.vector % 64 * 2 ^ 8 + x.sqLog % 32
  else if o = 0x58 then x.seq0.toNat
  else 0

/-- A 32-bit word of PF BAR0 (Table 19-1). -/
def State.pfRead (s : State) (off : Nat) : Nat :=
  let o := off % 65536
  match off / 65536 with
  | 0 => s.glbRead o | 1 => s.intRead o | 2 => s.pilotRead o | 3 => s.pwrRead o
  | 4 => (s.twRead4 o).toNat | 5 => (s.timeRead4 o).toNat | 6 => s.nvmRead o | 7 => s.logRead o
  | 8 => s.partRead o | 9 => s.fenceRead o | 10 => s.cimRead o | 11 => s.syncRead o
  | 12 => s.hwsRead o | 13 => s.fleetRead4 o
  | 16 => s.pageRead (.admin (o / 4096)) (o % 4096)
  | 17 => s.pageRead (.admin (16 + o / 4096)) (o % 4096)
  | _ => 0

/-- A 32-bit word of VF `n`'s BAR0 (Tables 19-2 and 19-11). -/
def State.vfRead (s : State) (n off : Nat) : Nat :=
  let f := s.host.vfs.look n {}
  if off = 0 then b2n (s.partExists n) * 2 ^ 31 + b2n (s.strict n) * 2 ^ 30 + b2n (s.isFrozen n) * 2 ^ 29 + n
  else if off = 4 then (s.slicesOf n).toNat
  else if off = 8 then f.cause.toNat
  else if off = 0xC then f.mask.toNat
  else if off = 0x10 then f.vec.toNat
  else if off = 0x14 then f.logSev.toNat
  else if inArr off 0x18 8 1 then halfAt off s.now.toNat
  else if inArr off 0x8000 16 8 then (f.msix.look ((off - 0x8000) / 16) {}).word (off % 16 / 4)
  else if inArr off 0xC000 8 1 then halfAt off (pba f.msix)
  else if 0x10000 ≤ off ∧ off < 0x1000000 then s.pageRead (.part n ((off - 0x10000) / 4096)) (off % 4096)
  else 0

/-- 64-bit read-only registers of PF BAR0 that a read of their low half latches: offsets of the low halves (R470). -/
def pfWideRo (off : Nat) : Bool :=
  let o := off % 65536
  off % 8 == 0 && match off / 65536 with
  | 1 => o == 0xC000
  | 4 => o == 0x80 || o == 0x98
  | 5 => o == 0 || o == 0x20 || o == 0x30 || o == 0x38
  | 7 => inArr o 0x40 8 8
  | 8 => o == 0x18 || inArr o 0x100 8 64
  | 9 => inArr o 0x100 8 32
  | 10 => inArr o 0x80 16 8 || inArr o 0x100 8 8
  | 11 => o == 8 || o == 0x10 || o == 0x20 || inArr o 0x200 8 8
  | 13 => o == 0x48 || inArr o 0x200 8 64
  | _ => false

/-- The same of a VF's BAR0. -/
def vfWideRo (off : Nat) : Bool := off == 0x18 || off == 0xC000

end Sys2Proof.Machine
end

