-- ==== Sys2Proof/Machine/Regs.lean ====
section
/-! DEFINITION. Register accesses: which writes are accepted and what they do, and reads with the latch of 64-bit registers
(R6, R7, R468 to R471, R475). -/

namespace Sys2Proof.Machine

open Sys2Proof

/-- The pending messages of a vector table go out once nothing masks them (R475, PCIe). -/
def State.flushMsix (fn : Nat) (s : State) : State :=
  if fn = 0 then
    if !s.host.msixEnable || s.host.msixFmask then s
    else
      let l := (s.host.msix.filter fun e => e.2.pending && !e.2.masked).map Prod.fst
      l.foldl (fun t v =>
        let e := t.host.msix.look v {}
        (t.onHost fun h => { h with msix := h.msix.put v {} { e with pending := false } }).emit (.msix 0 e.addr e.data)) s
  else
    let f := s.host.vfs.look (fn - 1) {}
    if !f.msixEnable || f.msixFmask then s
    else
      let l := (f.msix.filter fun e => e.2.pending && !e.2.masked).map Prod.fst
      l.foldl (fun t v =>
        let e := (t.host.vfs.look (fn - 1) {}).msix.look v {}
        (t.onHost fun h => { h with vfs := h.vfs.upd (fn - 1) {} fun f => { f with msix := f.msix.put v {} { e with pending := false } } }).emit
          (.msix fn e.addr e.data)) s

/-- One word of a vector table entry is written. -/
def MsixVec.setWord (i : Nat) (w : Word) (v : MsixVec) : MsixVec :=
  if i = 0 then { v with addr := v.addr &&& 0xFFFFFFFF00000000 ||| w.setWidth 64 }
  else if i = 1 then { v with addr := v.addr &&& 0xFFFFFFFF ||| (w.setWidth 64 <<< 32) }
  else if i = 2 then { v with data := w } else { v with masked := w.getLsbD 0 }

/-- INT (Table 19-10): causes are cleared by 1s; a vector that is unmasked sends what it owes. -/
def State.intWrite (o : Nat) (w : Word) (s : State) : State :=
  if o = 0 then s.onHost fun h => { h with intCause := h.intCause &&& ~~~w }
  else if o = 4 then s.setIntMask w
  else if inArr o 0x40 4 8 then s.onHost fun h => { h with intVec := h.intVec.put ((o - 0x40) / 4) 0 (w.setWidth 6) }
  else if inArr o 0x8000 16 64 then
    (s.onHost fun h => { h with msix := h.msix.upd ((o - 0x8000) / 16) {} (MsixVec.setWord (o % 16 / 4) w) }).flushMsix 0
  else s

/-- GLB (Table 19-9). -/
def State.glbWrite (o : Nat) (w : Word) (s : State) : State :=
  if o = 0x24 then s.onHost fun h => { h with updateDis := w.getLsbD 0 }
  else if inArr o 0x40 4 4 then s.onHost fun h => { h with scratch := h.scratch.put ((o - 0x40) / 4) 0 w }
  else s

/-- PILOT (ch. 2): arguments, LOST, and a CMD that no row names, which completes BAD_OPCODE (R50). -/
def State.pilotWrite (o : Nat) (w : Word) (s : State) : State :=
  if o = 0x20 then
    let c := bits w 0 8
    if 1 ≤ c ∧ c ≤ 4 then s else s.mbox c (BitVec.ofNat 8 (bits w 8 8)) fun t => t.mboxAnswer stBadOpcode
  else if inArr o 0x24 4 4 then s.onBoot fun b => { b with mboxArg := b.mboxArg.put ((o - 0x24) / 4) 0 w }
  else if o = 0x34 then s.onBoot fun b => { b with mboxLost := b.mboxLost && !w.getLsbD 30 }
  else s

/-- PWR (ch. 5): a value outside its stated range is discarded. -/
def State.pwrWrite (o : Nat) (w : Word) (s : State) : State :=
  if o = 4 then (if 100 ≤ w.toNat ∧ w.toNat ≤ 1000000 then s.onPwr fun p => { p with idleDwell := w } else s)
  else if o = 8 then s.onPwr fun p => { p with deckRet := mkPair w }
  else if o = 0x10 then s.onPwr fun p => { p with dozeDwell := w }
  else if o = 0x14 then s.onPwr fun p => { p with napDwell := w }
  else if o = 0x18 then s.onPwr fun p => { p with offDwell := w }
  else if o = 0x20 then s.onPwr fun p => { p with wakeSrc := p.wakeSrc &&& ~~~(w &&& 0x1F) }
  else if o = 0x24 then (if 100 ≤ w.toNat ∧ w.toNat ≤ 750 then s.onPwr fun p => { p with limit := w } else s)
  else if o = 0x2C then s.onPwr fun p => { p with pmbCtrl := w &&& 1 }
  else if inArr o 0x80 4 8 then s.onDie ((o - 0x80) / 4) fun x => { x with pmbCfg := w &&& 0x807FFF00 }
  else s

/-- LOG (Table 18-11). -/
def State.logWrite (o : Nat) (w : Word) (s : State) : State :=
  if o = 0 then s.onLog fun l => { l with overflow := l.overflow && !w.getLsbD 31 }
  else if o = 0xC then s.logRelease w
  else if o = 0x14 then s.onLog fun l => { l with intSev := w.toNat % 8 }
  else if o = 0x20 then s.onLog fun l => { l with sel := w }
  else s

/-- CIM (ch. 11): other values of CIM_ACTIVE_MAX are discarded and logged. -/
def State.cimWrite (o : Nat) (w : Word) (s : State) : State :=
  if o = 0 then s.onCim fun c => { c with staleWait := w.getLsbD 1, autoRecal := w.getLsbD 0 }
  else if o = 8 then s.onCim fun c => { c with zeroed := c.zeroed &&& ~~~w }
  else if inArr o 0x40 4 8 then
    let d := (o - 0x40) / 4
    let v := bits w 0 10
    if 64 ≤ v ∧ v ≤ 512 ∧ v % 64 = 0 then s.onCim fun c => { c with activeMax := c.activeMax.put d 512 v }
    else s.logOcc { event := 0xC03, sev := 0, unit := 0x800 + d, code := d, addr := w.setWidth 64 }
  else s

/-- SYNC (ch. 14): REPAIR_HI, like REPAIR, is ignored unless the selected object is BAD. -/
def State.syncWrite (o : Nat) (w : Word) (s : State) : State :=
  if o = 0 then s.onSync fun x => { x with dbgSel := w &&& 0x3FFFF }
  else if o = 0x1C then s.onSync fun x => { x with recSel := w &&& 0xFFF }
  else if o = 0x28 then (if s.selBad then s.repairObj w else s)
  else if o = 0x30 then (if s.selBad then s.onSync fun x => { x with repairHi := w } else s)
  else s

/-- The base registers of an admin queue: changed only while ENABLE is 0 (R156); bases are 4 KiB aligned. -/
def State.admqBase (a : Nat) (f : Queue → Queue) (s : State) : State :=
  if (s.queue (.admin a)).enabled then s else s.onQueue (.admin a) f

/-- A 64-bit value with one half replaced. -/
def setHalf (hi : Bool) (w : Word) (v : DWord) : DWord :=
  if hi then v &&& 0xFFFFFFFF ||| (w.setWidth 64 <<< 32) else v &&& 0xFFFFFFFF00000000 ||| w.setWidth 64

/-- A doorbell page (Tables 6-10 and 6-11). -/
def State.pageWrite (q : QueueId) (o : Nat) (w : Word) (s : State) : State :=
  if o = 0 then s.sqPutWrite q w
  else if o = 8 then s.cqGetWrite q w
  else if o = 0x10 then
    if (s.queue q).there then s.onQueue q fun x => { x with dbBad := x.dbBad && !w.getLsbD 31, cqBad := x.cqBad && !w.getLsbD 30 } else s
  else
    match q with
    | .admin a =>
      let align := fun v : DWord => v &&& 0xFFFFFFFFFFFFF000
      if o = 0x40 ∨ o = 0x44 then s.admqBase a fun x => { x with sqBase := align (setHalf (o == 0x44) w x.sqBase) }
      else if o = 0x48 ∨ o = 0x4C then s.admqBase a fun x => { x with cqBase := align (setHalf (o == 0x4C) w x.cqBase) }
      else if o = 0x50 then (if w.getLsbD 31 then s.admqEnable a w else s.admqDisable a w)
      else if o = 0x58 then s.onQueue (.admin a) fun x => { x with seq0 := w }
      else s
    | _ => s

/-- A write of one 32-bit word of PF BAR0: a register, or one half of a 64-bit one. -/
def State.pfWrite4 (off : Nat) (w : Word) (s : State) : State :=
  let o := off % 65536
  match off / 65536 with
  | 0 => s.glbWrite o w | 1 => s.intWrite o w | 2 => s.pilotWrite o w | 3 => s.pwrWrite o w
  | 4 => s.twWrite4 o w | 5 => s.timeWrite4 o w | 7 => s.logWrite o w
  | 9 => if o = 4 then s.onFence fun f => { f with autoPersist := w.getLsbD 0 } else s
  | 10 => s.cimWrite o w | 11 => s.syncWrite o w
  | 12 => if o % 0x2000 = 0 then s.portCtrl (o / 0x2000) w else s
  | 13 => s.fleetWrite4 o w false
  | 16 => s.pageWrite (.admin (o / 4096)) (o % 4096) w
  | 17 => s.pageWrite (.admin (16 + o / 4096)) (o % 4096) w
  | _ => s

/-- The update of one VF's status page. -/
def State.onVf (n : Nat) (f : Vfs → Vfs) (s : State) : State := s.onHost fun h => { h with vfs := h.vfs.upd n {} f }

/-- A write of one 32-bit word of VF `n`'s BAR0 (Tables 19-2 and 19-11). -/
def State.vfWrite4 (n off : Nat) (w : Word) (s : State) : State :=
  if off = 8 then s.onVf n fun f => { f with cause := f.cause &&& ~~~(w.setWidth 3) }
  else if off = 0xC then s.setVfsMask n (w.setWidth 3)
  else if off = 0x10 then s.onVf n fun f => { f with vec := w.setWidth 11 &&& 0x777 }
  else if off = 0x14 then s.onVf n fun f => { f with logSev := w.setWidth 3 }
  else if inArr off 0x8000 16 8 then
    (s.onVf n fun f => { f with msix := f.msix.upd ((off - 0x8000) / 16) {} (MsixVec.setWord (off % 16 / 4) w) }).flushMsix (n + 1)
  else if 0x10000 ≤ off ∧ off < 0x1000000 then s.pageWrite (.part n ((off - 0x10000) / 4096)) (off % 4096) w
  else s

/-- MSI-X Enable and Function Mask, bits 15 and 14 of the message control (PCIe; R475, R476). -/
def State.msixControl (fn : Nat) (w : Nat) (s : State) : State :=
  let en := w.testBit 15
  let mk := w.testBit 14
  (if fn = 0 then s.onHost fun h => { h with msixEnable := en, msixFmask := mk }
    else s.onVf (fn - 1) fun f => { f with msixEnable := en, msixFmask := mk }).flushMsix fn

/-- A space answers at an offset: before READY only GLB, INT and PILOT (R30); a VF only once it is enabled (R56). -/
def State.answers (s : State) (sp : RegSpace) (off : Nat) : Bool :=
  s.ao.hubOut && !s.host.linkDown &&
    match sp with
    | .pf => decide (off < 0x400000) && (s.boot.ready || decide (off < 0x30000))
    | .vf n => s.vfThere && decide (n < 32) && decide (off < 0x1000000)
    | .msixCtl fn => s.boot.cfgAnswers && decide (fn ≤ 32) && (fn == 0 || s.vfThere)

/-- A write of 8 bytes: a Tidewatch register takes its whole value at once, other registers their two words, the lower
first. -/
def State.regWrite8 (sp : RegSpace) (off : Nat) (v : DWord) (s : State) : State :=
  match sp with
  | .pf =>
    if off / 65536 = 4 then s.twWrite8 (off % 65536) v
    else (s.pfWrite4 off (v.setWidth 32)).pfWrite4 (off + 4) ((v >>> 32).setWidth 32)
  | .vf n => (s.vfWrite4 n off (v.setWidth 32)).vfWrite4 n (off + 4) ((v >>> 32).setWidth 32)
  | .msixCtl _ => s

/-- REGISTER_WRITE (R469): 2, 4 or 8 aligned bytes that cover whole registers, or one half of a 64-bit register; any other
write is discarded. Only PILOT_MBOX_CMD is a register of 16 bits. -/
def execRegisterWrite (sp : RegSpace) (off : Nat) (bytes : List Byte) (s : State) : Result :=
  done <|
    let n := bytes.length
    if !s.ao.hubOut || s.host.linkDown || !(n == 2 || n == 4 || n == 8) || off % n != 0 then s
    else if !s.answers sp off then s.discarded off
    else
      let s := s.hostWake
      let v := ofLe bytes
      match sp with
      | .msixCtl fn => if n = 2 then s.msixControl fn v else s
      | .pf =>
        if n = 8 then s.regWrite8 sp off (BitVec.ofNat 64 v)
        else if n = 4 then s.pfWrite4 off (BitVec.ofNat 32 v)
        else if off = 0x20020 then s.pfWrite4 off (BitVec.ofNat 32 v) else s
      | .vf k =>
        if n = 8 then s.regWrite8 sp off (BitVec.ofNat 64 v)
        else if n = 4 then s.vfWrite4 k off (BitVec.ofNat 32 v) else s

/-- A 32-bit word of a space; the message control reads back as 16 bits. -/
def State.regRead4 (s : State) (sp : RegSpace) (off : Nat) : Nat :=
  match sp with
  | .pf => s.pfRead off
  | .vf n => s.vfRead n off
  | .msixCtl fn =>
    let (e, m) := if fn = 0 then (s.host.msixEnable, s.host.msixFmask)
      else ((s.host.vfs.look (fn - 1) {}).msixEnable, (s.host.vfs.look (fn - 1) {}).msixFmask)
    b2n e * 2 ^ 15 + b2n m * 2 ^ 14 + (if fn = 0 then 63 else 7)

/-- The aligned 8 bytes that hold an offset, with what reading them takes: the pops of Tidewatch's FIFOs (R83, R87). -/
def State.regPop (sp : RegSpace) (off : Nat) (s : State) : Nat × State :=
  let plain := s.regRead4 sp (off / 8 * 8) + s.regRead4 sp (off / 8 * 8 + 4) * 2 ^ 32
  if sp = .pf ∧ off = 0x40080 then let (v, t) := s.popSample; (v.toNat, t)
  else if sp = .pf ∧ off = 0x40090 then let (v, t) := s.popTrig; (v.toNat, t)
  else (plain, s)

/-- Peaks restart when they are read (CIM_ACTIVE, SYNC_REC_USE). -/
def State.afterRead (sp : RegSpace) (off n : Nat) (s : State) : State :=
  if sp ≠ .pf then s
  else (List.range ((n + 3) / 4)).foldl (fun t i =>
    let a := off / 4 * 4 + 4 * i
    if inArr a 0xA0060 4 8 then
      let d := (a - 0xA0060) / 4
      t.onCim fun c => { c with peak := c.peak.put d 0 (c.active.look d 0) }
    else if inArr a 0xB0100 4 32 then
      let k := (a - 0xB0100) / 4
      let u := t.recUse k
      t.onSync fun x => { x with recPeak := x.recPeak.put k 0 u }
    else t) s

/-- Function and block of an access, by which latches are kept (R470). -/
def latchKey (sp : RegSpace) (off : Nat) : Nat :=
  match sp with | .pf => off / 65536 | .vf n => (n + 1) * 64 + off / 65536 | .msixCtl _ => 63

/-- LOW_HALF_READ_LATCH (R469, R470): a register read of 1, 2, 4 or 8 aligned bytes. A 32-bit read of the low half of a 64-bit
read-only register latches the high half, and the next 32-bit read of that half returns what was latched; reads of other
sizes do not touch the latch. A read of a size or alignment that R469 does not list returns zeros. -/
def execLowHalfReadLatch (sp : RegSpace) (off n : Nat) (s : State) : Result :=
  done <|
    let zeros := fun t : State => t.emit (.readData (List.replicate n 0) false)
    if !s.ao.hubOut || s.host.linkDown || n == 0 then s
    else if !(n == 1 || n == 2 || n == 4 || n == 8) || off % n != 0 then zeros s
    else if !s.answers sp off then zeros (s.discarded off)
    else
      let s := s.hostWake
      let key := latchKey sp off
      let wide := match sp with | .pf => pfWideRo | .vf _ => vfWideRo | .msixCtl _ => fun _ => false
      let l := s.host.latch.look key (0, 0)
      if n = 4 ∧ off % 8 = 4 ∧ wide (off - 4) ∧ l.1 = off + 1 then
        (s.onHost fun h => { h with latch := h.latch.drop key }).emit (.readData (toLe 4 l.2.toNat) false)
      else
        let (v, t) := s.regPop sp off
        let t := t.afterRead sp off n
        let t := if n = 4 ∧ wide off then
            t.onHost fun h => { h with latch := h.latch.put key (0, 0) (off + 5, BitVec.ofNat 32 (v / 2 ^ 32)) }
          else t
        t.emit (.readData (((toLe 8 v).drop (off % 8)).take n) false)

end Sys2Proof.Machine
end

