-- ==== Sys2Proof/Machine/Slack.lean ====
section
/-! DEFINITION. The slack-water barrier, with what ends a part in it: acknowledgements and the loss of a worker (R178, R386,
R395, R398, R401 to R405). The manager takes part as device 0. -/

namespace Sys2Proof.Machine

open Sys2Proof

/-- The update of the barrier's record. -/
def State.onBar (f : Barrier → Barrier) (s : State) : State := s.onFleet fun x => { x with bar := f x.bar }

/-- A list in pieces of at most `n`, one empty piece for an empty list; `k` bounds their number. -/
def chunks {α : Type} (n : Nat) : Nat → List α → List (List α)
  | 0, l => [l]
  | k + 1, l => if l.length ≤ n then [l] else l.take n :: chunks n k (l.drop n)

/-- An entry of a DRAINED or APPLIED message: pair entry, the other device, counter, total. -/
abbrev TotalEntry := Nat × Nat × Nat × DWord

/-- The bytes of an entry. -/
def TotalEntry.bytes (e : TotalEntry) : List Byte := toLe 2 e.1 ++ toLe 1 e.2.1 ++ toLe 1 0 ++ toLe 4 e.2.2.1 ++ toLe 8 e.2.2.2.toNat

/-- The entries of a DRAINED or APPLIED message. -/
def totalEntries (m : FleetMsg) : List TotalEntry :=
  (List.range (mf m 4 2)).map fun i =>
    (mf m (8 + 16 * i) 2, mf m (10 + 16 * i) 1, mf m (12 + 16 * i) 4, BitVec.ofNat 64 (mf m (16 + 16 * i) 8))

/-- DRAINED or APPLIED messages to the manager, 256 entries each, LAST on the final one. -/
def State.sendTotals (sub k : Nat) (l : List TotalEntry) (s : State) : State :=
  let cs := chunks 256 l.length l
  cs.zipIdx.foldl (fun t e =>
    t.sendMsg (t.mkMsg 7 sub 0 0 (toLe 4 k ++ toLe 2 e.1.length ++ toLe 1 (b2n (e.2 + 1 == cs.length)) ++ toLe 1 0
      ++ (e.1.map TotalEntry.bytes).flatten))) s

/-- Phase 1 at a device: from now on it stamps its messages with epoch k + 1. -/
def State.openAt (k : Nat) (s : State) : State :=
  s.onFleet fun f =>
    { f with epoch := k + 1, advSeen := [], bar := { f.bar with k := k, owesDrained := true }
             prod := f.prod.map fun e => (e.1, { e.2 with recent := false }), cons := f.cons.map fun e => (e.1, { e.2 with recent := false }) }

/-- Phase 2: no message of epoch k or earlier with a MSG_ID is still to be acknowledged. -/
def State.drainedOf (s : State) (k : Nat) : Bool := s.fleet.held.all fun h => !(h.stamped && epochLe h.msg.epoch k)

/-- S(≤ k) of the producer pairs that take part (R405); BROKEN ones are left out, since no barrier advances them. -/
def State.sentTotals (s : State) : List TotalEntry :=
  (s.fleet.prod.filter fun e => e.2.valid && !e.2.broken && !e.2.recent).map fun e => (e.1, e.2.peer, e.2.counter, e.2.total)

/-- A(≤ k) of the consumer entries. -/
def State.resolvedTotals (s : State) : List TotalEntry :=
  (s.fleet.cons.filter fun e => e.2.valid && !e.2.recent).map fun e => (e.1, e.2.peer, e.2.counter, e.2.total)

/-- Phase 4 at a device: epoch k is closed. -/
def State.closeAt (k : Nat) (s : State) : State :=
  s.onFleet fun f => { f with closed := some k, cons := f.cons.map fun e => (e.1, e.2.fold k) }

/-- R402: an advance is applied as a TALLY_ADD, unless it would pass 2^64 − 1 or its object is BAD, and counts in A. -/
def State.applyAdvance (e : Nat) (delta : DWord) (s : State) : State :=
  let p := s.fleet.cons.look e {}
  if !p.valid then s
  else
    let x := s.tally p.counter
    let t := s.applyOp { kind := .add, obj := p.counter % 2 ^ 17, amount := delta, src := .pilot, part := p.part, owned := false, deadline := none
                         uReg := 0, pReg := 0 }
    if x.ok && !x.mirror && decide (x.value.toNat + delta.toNat < 2 ^ 64) then
      (t.onCons e fun p => { p with total := p.total + delta }).onFleet fun f => { f with advCnt := satInc f.advCnt }
    else t

/-- BARRIER k starts (R401, R404): OPEN goes to every worker that takes part, and to the manager itself. -/
def State.startBarrier (pid : Option Nat) (period : Nat) (s : State) : State :=
  let k := s.fleet.barriers + 1
  let parts := s.devsIn fun d => decide (d.st = .joined) && !d.returning
  let t := s.onFleet fun f =>
    { f with lastBarrier := s.time.tick
             bar := { phase := .open_, k := k, drainUs := f.drain.toNat, openTick := s.time.tick, period := period, parts := parts, pid := pid } }
  (parts.foldl (fun t d => t.sendMsg (t.mkMsg 7 0 d 0 (toLe 4 k))) t).openAt k

/-- Phase 6: DONE, the barrier is complete: its packet completes and its period is set; a waiting barrier starts. -/
def State.finishBarrier (s : State) : State :=
  let b := s.fleet.bar
  let t := b.parts.foldl (fun t d => t.sendMsg (t.mkMsg 7 5 d 0 (toLe 4 b.k))) s
  let t := t.onFleet fun f =>
    { f with barriers := b.k, bar := { k := b.k, owesDrained := b.owesDrained }
             period := if b.period = 0 then f.period else BitVec.ofNat 32 b.period }
  let t := match b.pid with
    | some p => t.finish p stOk b.advanced 0
    | none => t
  match t.fleet.barWait with
  | [] => t
  | (p, per) :: r => (t.onFleet fun f => { f with barWait := r }).startBarrier (some p) per

/-- A sent total reported for producer, consumer device and counter. -/
def totalFor (l : List (Nat × Nat × Nat × DWord)) (p c ctr : Nat) : Option DWord :=
  (l.find? fun e => e.1 == p && e.2.1 == c && e.2.2.1 == ctr).map fun e => e.2.2.2

/-- The sent total a barrier uses for a pair: of a producer that has returned, the larger of the one last reported before the
loss and the one reported now (R400). -/
def State.sentFor (s : State) (p c ctr : Nat) : Option DWord :=
  match totalFor s.fleet.bar.sTot p c ctr, if (s.fdev p).realign then totalFor s.fleet.lastS p c ctr else none with
  | some v, some w => some (if v.toNat < w.toNat then w else v)
  | some v, none => some v
  | none, w => w

/-- R401, step 5: the pairs to compare: consumer, entry, producer, counter, S and A. -/
def State.barrierPairs (s : State) : List (Nat × Nat × Nat × Nat × DWord × DWord) :=
  let b := s.fleet.bar
  b.aTot.filterMap fun a =>
    if !(b.drained.contains a.2.1) || !(b.applied.contains a.1) then none
    else (s.sentFor a.2.1 a.1 a.2.2.1).map fun v => (a.1, a.2.2.2.1, a.2.1, a.2.2.1, v, a.2.2.2.2)

/-- The sent totals reported in this barrier are remembered (R400), and what it realigned needs no more. -/
def Fleet.remember (f : Fleet) : Fleet :=
  let here := fun (e : Nat × Nat × Nat × DWord) => f.bar.sTot.any fun x => x.1 == e.1 && x.2.1 == e.2.1 && x.2.2.1 == e.2.2.1
  { f with lastS := (f.lastS.filter fun e => !here e) ++ f.bar.sTot
           dev := f.dev.map fun e => (e.1, if f.bar.drained.contains e.1 then { e.2 with realign := false } else e.2) }

/-- The ADVANCE messages to one consumer: 256 entries each, LAST on the final one. -/
def State.sendAdvance (c : Nat) (l : List (Nat × Nat × Nat × Nat × DWord × DWord)) (s : State) : State :=
  let cs := chunks 256 l.length l
  cs.zipIdx.foldl (fun t e =>
    let body := (e.1.map fun x => toLe 2 x.2.1 ++ toLe 1 x.2.2.1 ++ toLe 1 0 ++ toLe 4 x.2.2.2.1
      ++ toLe 8 (x.2.2.2.2.1 - x.2.2.2.2.2).toNat).flatten
    let t := t.sendMsg (t.mkMsg 7 4 c 0 (toLe 4 t.fleet.bar.k ++ toLe 2 e.1.length ++ toLe 1 (b2n (e.2 + 1 == cs.length)) ++ toLe 1 0
      ++ toLe 4 e.2 ++ toLe 4 0 ++ body))
    t.onBar fun b => { b with adv := b.adv ++ [(c, e.2)] }) s

/-- R401, step 5; R402: positive differences are sent, negative ones logged as EXCESS. -/
def State.advancePhase (s : State) : State :=
  let l := s.barrierPairs
  let up := l.filter fun x => decide (x.2.2.2.2.2.toNat < x.2.2.2.2.1.toNat)
  let t := (l.filter fun x => decide (x.2.2.2.2.1.toNat < x.2.2.2.2.2.toNat)).foldl (fun t x =>
    t.logOcc { event := 0x707, sev := 2, code := x.1, addr := BitVec.ofNat 64 x.2.2.2.1 }) s
  let t := t.onFleet Fleet.remember
  let t := t.onBar fun b => { b with phase := .advance, advanced := up.length }
  let own := up.filter fun x => x.1 == 0
  let t := own.foldl (fun t x => t.applyAdvance x.2.1 (x.2.2.2.2.1 - x.2.2.2.2.2)) t
  let t := t.fleet.bar.parts.foldl (fun t c =>
    let l := up.filter fun x => x.1 == c
    if l.isEmpty then t else t.sendAdvance c l) t
  if t.fleet.bar.adv.isEmpty then t.finishBarrier else t

/-- Everything the close phase waits for has arrived. -/
def State.checkApplied (s : State) : State :=
  let b := s.fleet.bar
  if b.phase = .close ∧ (0 :: b.parts).all b.applied.contains then s.advancePhase else s

/-- Phases 3 and 4: CLOSE goes to every device that took part, and to the manager itself. -/
def State.sendClose (s : State) : State :=
  let b := s.fleet.bar
  let t := s.onBar fun b => { b with phase := .close }
  let t := (b.parts.foldl (fun t d => t.sendMsg (t.mkMsg 7 2 d 0 (toLe 4 b.k))) t).closeAt b.k
  (t.onBar fun b => { b with aTot := b.aTot ++ t.resolvedTotals.map (fun e => (0, e.2.1, e.2.2.1, e.1, e.2.2.2)), applied := b.applied ++ [0] }).checkApplied

/-- Everything the open phase waits for has arrived. -/
def State.checkDrained (s : State) : State :=
  let b := s.fleet.bar
  if b.phase = .open_ ∧ (0 :: b.parts).all b.drained.contains then s.sendClose else s

/-- FLEET_BARRIER (R178, R404). -/
def execFleetBarrier (q : QueueId) (s : State) : Result :=
  done <| s.dispatch q 0x61 anyPkt fun p s =>
    let t := s.onInflight p.pid fun i => { i with deadline := some (s.nowNs + s.timeoutOf p (p.f 24 8) * 1000) }
    if t.fleet.bar.phase = .idle then t.startBarrier (some p.pid) (p.f 16 4)
    else t.onFleet fun f => { f with barWait := f.barWait ++ [(p.pid, p.f 16 4)] }

/-- BARRIER_START (R401, R404): the period, in ms of 8,000 ticks, has passed since the last barrier started. -/
def execBarrierStart (s : State) : Result :=
  done <|
    if s.awake && s.isManager && s.fleet.barrierEn && decide (s.fleet.bar.phase = .idle)
        && decide (s.fleet.lastBarrier + s.fleet.period.toNat * 8000 ≤ s.time.tick) then s.startBarrier none 0
    else s

/-- OPEN_RECEIVE (R401). -/
def execOpenReceive (s : State) : Result :=
  done <| takeMsg (isMsg 7 0) (fun _ m s => if s.isManager ∨ m.src ≠ 0 then s.discardMsg m else s.openAt (mf m 0 4)) s

/-- BARRIER_DRAINED (R401, step 2). -/
def execBarrierDrained (s : State) : Result :=
  done <|
    let k := s.fleet.bar.k
    if !s.awake || !s.fleet.bar.owesDrained || !s.drainedOf k then s
    else
      let t := s.onFleet fun f => { f with prod := f.prod.map fun e => (e.1, e.2.fold k) }
      let t := t.onBar fun b => { b with owesDrained := false }
      if t.isManager then
        (t.onBar fun b => { b with sTot := b.sTot ++ t.sentTotals.map (fun e => (0, e.2.1, e.2.2.1, e.2.2.2)), drained := b.drained ++ [0] }).checkDrained
      else t.sendTotals 1 k t.sentTotals

/-- DRAINED_RECEIVE (R401, step 3): one that comes after CLOSE still counts in step 5. -/
def execDrainedReceive (s : State) : Result :=
  done <| takeMsg (isMsg 7 1) (fun _ m s =>
    let b := s.fleet.bar
    if !s.isManager || mf m 0 4 != b.k || !(b.parts.contains m.src) || !(decide (b.phase = .open_) || decide (b.phase = .close)) then s
    else
      let l := (totalEntries m).map fun e => (m.src, e.2.1, e.2.2.1, e.2.2.2)
      (s.onBar fun b => { b with sTot := b.sTot ++ l, drained := if mf m 6 1 = 1 then b.drained ++ [m.src] else b.drained }).checkDrained) s

/-- DRAIN_TIMEOUT (R401, step 3): FLEET_DRAIN µs, of 8 ticks each, have passed since OPEN. -/
def execDrainTimeout (s : State) : Result :=
  done <|
    let b := s.fleet.bar
    if s.awake && s.isManager && decide (b.phase = .open_) && decide (b.openTick + b.drainUs * 8 ≤ s.time.tick) then s.sendClose else s

/-- CLOSE_RECEIVE (R401, step 4). -/
def execCloseReceive (s : State) : Result :=
  done <| takeMsg (isMsg 7 2) (fun _ m s =>
    if s.isManager ∨ m.src ≠ 0 then s.discardMsg m
    else
      let t := s.closeAt (mf m 0 4)
      t.sendTotals 3 (mf m 0 4) t.resolvedTotals) s

/-- APPLIED_RECEIVE (R401, step 5). -/
def execAppliedReceive (s : State) : Result :=
  done <| takeMsg (isMsg 7 3) (fun _ m s =>
    let b := s.fleet.bar
    if !s.isManager || mf m 0 4 != b.k || !(b.parts.contains m.src) || !decide (b.phase = .close) then s
    else
      let l := (totalEntries m).map fun e => (m.src, e.2.1, e.2.2.1, e.1, e.2.2.2)
      (s.onBar fun b => { b with aTot := b.aTot ++ l, applied := if mf m 6 1 = 1 then b.applied ++ [m.src] else b.applied }).checkApplied) s

/-- ADVANCE_RECEIVE (R401, R402): a message of this barrier that has been applied is only acknowledged again. -/
def execAdvanceReceive (s : State) : Result :=
  done <| takeMsg (isMsg 7 4) (fun _ m s =>
    let i := mf m 8 4
    if s.isManager ∨ m.src ≠ 0 then s.discardMsg m
    else
      let t := if s.fleet.advSeen.contains i then s
        else (List.range (mf m 4 2)).foldl (fun t j => t.applyAdvance (mf m (16 + 16 * j) 2) (BitVec.ofNat 64 (mf m (24 + 16 * j) 8)))
          (s.onFleet fun f => { f with advSeen := f.advSeen ++ [i] })
      t.sendAck 0 (BitVec.ofNat 64 (mf m 0 4 * 2 ^ 32 + i)) 0 0) s

/-- DONE_RECEIVE (R401, step 6). -/
def execDoneReceive (s : State) : Result :=
  done <| takeMsg (isMsg 7 5) (fun _ m s =>
    if s.isManager ∨ m.src ≠ 0 then s.discardMsg m else s.onFleet fun f => { f with barriers := mf m 0 4 }) s

/-- An ADVANCE has been acknowledged (R401, step 6). -/
def State.advAcked (id : DWord) (src : Nat) (s : State) : State :=
  let b := s.fleet.bar
  let i := id.toNat % 2 ^ 32
  if b.phase = .advance ∧ id.toNat / 2 ^ 32 = b.k ∧ b.adv.contains (src, i) then
    let t := s.onBar fun b => { b with adv := b.adv.filter fun e => e ≠ (src, i) }
    if t.fleet.bar.adv.isEmpty then t.finishBarrier else t
  else s

/-- STATUS_ACK_RECEIVE (R386, R391, R393, R394): the held message goes, and what it belonged to learns the outcome. -/
def execStatusAckReceive (s : State) : Result :=
  done <| takeMsg (isMsg 2 1) (fun _ m s =>
    let id := BitVec.ofNat 64 (mf m 0 8)
    let out := mf m 8 1
    match s.fleet.held.find? fun h => h.msg.msgId == id && h.msg.dst == m.src with
    | none => if s.isManager then s.advAcked id m.src else s
    | some h =>
      let t := s.freed id m.src
      let t := if isMsg 3 2 h.msg then
          let e := mf h.msg 6 2
          if out = 3 then t.onProd e fun p => { p with refused := true }
          else if out = 4 then t.onProd e fun p => { p with refused := false, other := mf m 10 2 } else t
        else t
      let t := t.rwAnswered id
      match t.fleet.syncOut.find? fun e => e.2.1 == id && e.2.2 == m.src with
      | none =>
        -- the refusal of a kernel's operation is logged here too (R340)
        if out = 1 ∧ (isMsg 3 0 h.msg ∨ isMsg 4 0 h.msg) then
          t.logOcc { event := 0xA04, sev := 2, part := some (mf h.msg 4 1), addr := BitVec.ofNat 64 (mf h.msg 0 4) }
        else t
      | some (pid, _, _) =>
        let u := t.onFleet fun f => { f with syncOut := f.syncOut.filter fun e => e.1 != pid }
        if out = 1 then u.finish pid stDenied 0 (reason 0x0A 16) else u.finish pid stOk 0 0) s

/-- A worker that is LOST or DORMANT takes no further part in the barrier in progress. -/
def State.leaveBarrier (d : Nat) (s : State) : State :=
  let t := s.onBar fun b =>
    { b with parts := b.parts.filter (fun x => x != d), drained := b.drained.filter (fun x => x != d)
             applied := b.applied.filter (fun x => x != d), adv := b.adv.filter fun e => e.1 != d }
  match t.fleet.bar.phase with
  | .idle => t
  | .open_ => t.checkDrained
  | .close => t.checkApplied
  | .advance => if t.fleet.bar.adv.isEmpty then t.finishBarrier else t

/-- POWER_MESSAGE_RECEIVE (R396). A DORMANT worker joins again only through an ASSIGN
(R400), and takes no further part in the barrier in progress (log 65). -/
def execPowerMessageReceive (s : State) : Result :=
  done <| takeMsg (isMsg 9 0) (fun _ m s =>
    let c := mf m 0 1
    let known := s.isManager || m.src == 0
    let now := s.time.tick
    let up := fun (t : State) =>
      if t.isManager then t.onDev m.src fun x => if x.st = .asleep then { x with st := .joined, lastBeat := now } else x
      else (t.onDev 0 fun _ => {}).onFleet fun f => { f with mgrBeat := now }
    if !known then s
    else if mf m 1 1 ≠ 0xFF - c ∨ c = 0 ∨ 3 < c then up (s.discardMsg m)
    else if c = 1 then up s
    else
      let to' := if c = 2 then FleetDevSt.asleep else .dormant
      let t := s.onDev m.src fun x =>
        if s.isManager && !(decide (x.st = .joined) || decide (x.st = .asleep)) then x else { x with st := to', cutFrom := none }
      if t.isManager && decide (c = 3) then t.leaveBarrier m.src else t) s

/-- WORKER_LOST (R395, R396, R398): 8 ms, 64,000 ticks, without a BEAT; of a sleeping worker, without a route. -/
def execWorkerLost (d : Nat) (s : State) : Result :=
  done <|
    let x := s.fdev d
    let silent := decide (x.st = .joined) && decide (x.lastBeat + 64000 ≤ s.time.tick)
    let cut := decide (x.st = .asleep) && (s.egressUp d).isNone
      && (match x.cutFrom with | some c => decide (c + 64000 ≤ s.time.tick) | none => false)
    if s.awake && s.isManager && d != 0 && (silent || cut) then (s.loseWorker d).leaveBarrier d else s

end Sys2Proof.Machine
end

