-- ==== Sys2Proof/Machine/Spdm.lean ====
section
/-! DEFINITION. The SPDM responder: connections, measurements, sessions and IDE key management (R430 to R433, R466,
R487). Transports: 0 and 1 the MCTP bindings, 2 the PF's DOE mailbox, 3 + n that of VF n. The order of requests that a
connection allows is that of the DMTF standard (PRESUMED, log 70). -/

namespace Sys2Proof.Machine

open Sys2Proof

/-- Functions whose DOE mailbox stands on a transport: the PF, and the VFs while VF Enable is set. -/
def State.doe (s : State) (tp : Nat) : Bool :=
  decide (9 ≤ s.boot.stage) && !s.boot.halt && s.pwr.dev != .deep && decide (2 ≤ tp) && decide (tp < 35)
    && (tp == 2 || s.host.vfEnable)

/-- An SPDM request arrives: over MCTP as a waiting message of type 0x05, or 0x06 within a session; over DOE as an
object, which as a host access wakes a sleeping device (R14, R487). -/
def spdmRequest (tp src : Nat) (secured : Bool) (f : State → State × MgmtMsg) (s : State) : Result :=
  done <|
    if tp < 2 then
      if s.waits tp src (if secured then 6 else 5) then (f s).1.replyTo tp src (f s).2 else s
    else if s.doe tp then (f s.hostWake).1.emit (.mgmt tp (f s.hostWake).2)
    else s

/-- How far a connection has come: 1 GET_VERSION, 2 GET_CAPABILITIES, 3 NEGOTIATE_ALGORITHMS. -/
def State.phase (s : State) (tp : Nat) : Nat := s.mgmt.spdm.look tp 0

/-- A connection reaches a phase. -/
def State.setPhase (tp n : Nat) (s : State) : State := s.onMgmt fun m => { m with spdm := m.spdm.put tp 0 n }

/-- A session of the transport, established or not. -/
def State.session (s : State) (tp n : Nat) (up : Bool) : Bool := s.mgmt.sessions.contains (tp, n, up)

/-- A request that needs a negotiated connection; one within a session needs that session established. -/
def State.negotiated (s : State) (tp : Nat) (sess : Option Nat) : Bool :=
  decide (3 ≤ s.phase tp) && (match sess with | some n => s.session tp n true | none => true)

/-- R430: GET_VERSION starts the connection anew, and the transport's sessions end (PRESUMED, log 70). -/
def execGetVersion (tp src : Nat) (s : State) : Result :=
  spdmRequest tp src false (fun s =>
    ((s.onMgmt fun m => { m with sessions := m.sessions.filter fun e => e.1 != tp }).setPhase tp 1, .version 0x12)) s

/-- R430: GET_CAPABILITIES. -/
def execGetCapabilities (tp src : Nat) (s : State) : Result :=
  spdmRequest tp src false (fun s =>
    if s.phase tp = 1 then (s.setPhase tp 2, .capabilities) else (s, .spdmError .unexpectedRequest)) s

/-- R430: NEGOTIATE_ALGORITHMS; a requester that offers none of the device's algorithms is answered InvalidRequest
(PRESUMED, log 70). -/
def execNegotiateAlgorithms (tp src : Nat) (common : Bool) (s : State) : Result :=
  spdmRequest tp src false (fun s =>
    if s.phase tp ≠ 2 then (s, .spdmError .unexpectedRequest)
    else if common then (s.setPhase tp 3, .algorithms)
    else (s, .spdmError .invalidRequest)) s

/-- R431: the chain of slot 0: the one the store holds, and the alias key's certificate; none while record 4 is not
valid (R466). -/
def State.chain (s : State) : Option (List Byte) := (s.record 4).map fun c => c ++ Config.aliasCert s.boot.imgDigest

/-- R430: GET_DIGESTS. -/
def execGetDigests (tp src : Nat) (sess : Option Nat) (s : State) : Result :=
  spdmRequest tp src sess.isSome (fun s =>
    if s.negotiated tp sess then (s, .digests (s.chain.toList.map Config.chainDigest))
    else (s, .spdmError .unexpectedRequest)) s

/-- R431, R466: GET_CERTIFICATE returns a portion of the slot 0 chain. -/
def execGetCertificate (tp src : Nat) (sess : Option Nat) (slot off len : Nat) (s : State) : Result :=
  spdmRequest tp src sess.isSome (fun s =>
    if !s.negotiated tp sess then (s, .spdmError .unexpectedRequest)
    else if slot ≠ 0 then (s, .spdmError .invalidRequest)
    else match s.chain with
      | none => (s.logOcc { event := 0x901, sev := 2, code := 4 }, .spdmError .unspecified)
      | some c =>
        if c.length ≤ off then (s, .spdmError .invalidRequest)
        else (s, .certificate ((c.drop off).take len) (c.length - off - min len (c.length - off)))) s

/-- R431: CHALLENGE is signed by the alias key. -/
def execChallenge (tp src slot : Nat) (nonce : List Nat) (s : State) : Result :=
  spdmRequest tp src false (fun s =>
    if !s.negotiated tp none then (s, .spdmError .unexpectedRequest)
    else if slot ≠ 0 then (s, .spdmError .invalidRequest)
    else (s, .challengeAuth (Config.aliasSign s.boot.imgDigest nonce))) s

/-- Table 17-6: the measurement of an index the table lists. A partition that does not exist measures as 384 zero bits
(log 70). -/
def State.measurement (s : State) (i : Nat) : Option (BitVec 384) :=
  if i = 1 ∨ i = 4 then some (Config.digest i [])
  else if i = 2 then some (Config.digest 2 [s.boot.imgDigest.toNat, s.boot.source.toNat])
  else if i = 3 then some (Config.digest 3 [s.boot.imgSvn.toNat, s.ao.minSvn.toNat])
  else if i = 5 then some (Config.digest 5 (s.boot.fenceApplied.map BitVec.toNat))
  else if i = 6 then some (Config.digest 6 [s.roleField.toNat, s.fleet.id.toNat, s.fleet.devNum.getD 0])
  else if 16 ≤ i ∧ i < 48 then
    let n := i - 16
    if s.partExists n then
      some (Config.digest i ((s.pmap n).toNat :: (s.slicesOf n).toNat :: s.part.createCnt.look n 0
        :: (ones (s.slicesOf n)).map fun k => (s.coreMask k).toNat))
    else some 0
  else none

/-- R433: the indices a transport may see. -/
def mayMeasure (tp i : Nat) : Bool :=
  decide (tp < 3) || (decide (1 ≤ i) && decide (i ≤ 6)) || i == 16 + (tp - 3)

/-- The measurements a transport may see. -/
def State.visible (s : State) (tp : Nat) : List (Nat × BitVec 384) :=
  (List.range 48).filterMap fun i => if mayMeasure tp i then (s.measurement i).map fun d => (i, d) else none

/-- R431: the measurements with their signature over them and the requester's nonce. -/
def State.signed (s : State) (l : List (Nat × BitVec 384)) (nonce : List Nat) : MgmtMsg :=
  .measurements l (Config.aliasSign s.boot.imgDigest (nonce ++ l.map fun e => e.2.toNat))

/-- R431 to R433: GET_MEASUREMENTS. -/
def execGetMeasurements (tp src : Nat) (sess : Option Nat) (what : MeasReq) (nonce : List Nat) (s : State) : Result :=
  spdmRequest tp src sess.isSome (fun s =>
    if !s.negotiated tp sess then (s, .spdmError .unexpectedRequest)
    else match what with
      | .count => (s, .measurementCount (s.visible tp).length)
      | .all => (s, s.signed (s.visible tp) nonce)
      | .index i =>
        match s.measurement i with
        | some d => (s, if mayMeasure tp i then s.signed [(i, d)] nonce else .spdmError .invalidRequest)
        | none => (s, .spdmError .invalidRequest)) s

/-- R487: the session limit of a transport has been reached. -/
def State.sessionsFull (s : State) (tp : Nat) : Bool :=
  if tp < 3 then decide (4 ≤ (s.mgmt.sessions.filter fun e => decide (e.1 < 3)).length)
  else decide (1 ≤ (s.mgmt.sessions.filter fun e => e.1 == tp).length)

/-- The lowest session number that no session holds. -/
def State.freeSession (s : State) : Nat :=
  ((List.range 64).find? fun n => !s.mgmt.sessions.any fun e => e.2.1 == n).getD 64

/-- R430, R487: KEY_EXCHANGE opens a session within the limits. -/
def execKeyExchange (tp src : Nat) (exchange : List Nat) (s : State) : Result :=
  spdmRequest tp src false (fun s =>
    if !s.negotiated tp none then (s, .spdmError .unexpectedRequest)
    else if s.sessionsFull tp then (s, .spdmError .sessionLimitExceeded)
    else
      let n := s.freeSession
      (s.onMgmt fun m => { m with sessions := m.sessions ++ [(tp, n, false)] },
       .keyExchangeRsp n (Config.aliasSign s.boot.imgDigest exchange))) s

/-- R430: FINISH completes the session; one whose verify data do not match ends it with DecryptError (PRESUMED, log 70). -/
def execFinish (tp src sess : Nat) (macOk : Bool) (s : State) : Result :=
  spdmRequest tp src true (fun s =>
    if !s.session tp sess false then (s, .spdmError .unexpectedRequest)
    else
      let rest := s.mgmt.sessions.filter fun e => !(e.1 == tp && e.2.1 == sess)
      if macOk then (s.onMgmt fun m => { m with sessions := rest ++ [(tp, sess, true)] }, .finishRsp sess)
      else (s.onMgmt fun m => { m with sessions := rest }, .spdmError .decryptError)) s

/-- R430: END_SESSION ends an established session. -/
def execEndSession (tp src sess : Nat) (s : State) : Result :=
  spdmRequest tp src true (fun s =>
    if s.session tp sess true then
      (s.onMgmt fun m => { m with sessions := m.sessions.filter fun e => !(e.1 == tp && e.2.1 == sess) },
       .endSessionAck sess)
    else (s, .spdmError .unexpectedRequest)) s

/-- What an IDE_KM message does to the streams: K_SET_GO starts one, K_SET_STOP stops it (PRESUMED, log 70). -/
def State.ideKm (m : IdeKm) (s : State) : State :=
  match m with
  | .query => s
  | .keyProg _ => s
  | .setGo n =>
    s.onHost fun h =>
      if n = 0 then { h with ideLink := true }
      else if n ≤ 33 ∧ !h.ideStreams.contains n then { h with ideStreams := h.ideStreams ++ [n] } else h
  | .setStop n =>
    s.onHost fun h =>
      if n = 0 then { h with ideLink := false } else { h with ideStreams := h.ideStreams.filter fun k => k != n }

/-- R430, R487: IDE_KM is accepted only within a session on the PF's DOE mailbox. -/
def execIdeKmRequest (tp src : Nat) (sess : Option Nat) (km : IdeKm) (s : State) : Result :=
  spdmRequest tp src sess.isSome (fun s =>
    match sess with
    | some n => if tp = 2 ∧ s.session tp n true then (s.ideKm km, .ideKm km) else (s, .spdmError .unsupportedRequest)
    | none => (s, .spdmError .unsupportedRequest)) s

/-- R487: DOE Discovery names the three object types; an index beyond them has none. -/
def execDoeDiscovery (tp i : Nat) (s : State) : Result :=
  done <|
    if s.doe tp then s.hostWake.emit (.mgmt tp (if i < 3 then .doeProtocol i (if i < 2 then i + 1 else 0) else .error .invalidData))
    else s

end Sys2Proof.Machine
end

