-- ==== Sys2Proof/Machine/SyncPkt.lean ====
section
/-! DEFINITION. The meanings of the synchronisation and event packets (R168, R198 to R204, Table 7-8). -/

namespace Sys2Proof.Machine

open Sys2Proof

/-- The sync operation of a packet. -/
def Packet.syncOp (p : Packet) (kind : SyncKind) (amount : Nat) (deadline : Option Nat) : SyncOp :=
  { kind := kind, obj := p.f 16 4 % 2 ^ 18, amount := BitVec.ofNat 64 amount, src := .packet p.pid, part := p.part,
    owned := false, deadline := deadline, uReg := 0, pReg := 0 }

/-- An add or post of `n`: local, or remote (R168, R393). -/
def State.addPacket (p : Packet) (kind : SyncKind) (n : Nat) (s : State) : State :=
  let dev := p.f 20 1
  let obj := p.f 16 4 % 2 ^ 18
  if s.isLocal dev then
    if s.owns p.part (objSlice obj) then s.submit (p.syncOp kind n none)
    else s.finish p.pid stDenied 0 (reason 0x0A 16)
  else
    match s.unreachable dev with
    | some st => s.finish p.pid st 0 0
    | none =>
      let (id, t) := s.sendSync dev obj p.part n
      t.onFleet fun f => { f with syncOut := f.syncOut ++ [(p.pid, id, dev)] }

/-- A wait blocks its queue until it completes (R146, R160). -/
def State.waitPacket (p : Packet) (kind : SyncKind) (n : Nat) (s : State) : State :=
  let d := s.nowNs + s.timeoutOf p (p.f 32 8) * 1000
  (s.onInflight p.pid fun i => { i with blocking := true, deadline := some d }).submit (p.syncOp kind n (some d))

/-- R168: TALLY_ADD. -/
def execTallyAdd (q : QueueId) (s : State) : Result :=
  done <| s.dispatch q 0x10 anyPkt fun p s => s.addPacket p .add (p.f 24 8)

/-- R168: TALLY_WAIT. -/
def execTallyWait (q : QueueId) (s : State) : Result :=
  done <| s.dispatch q 0x11 anyPkt fun p s => s.waitPacket p .waitGe (p.f 24 8)

/-- R168: SEM_POST. -/
def execSemPost (q : QueueId) (s : State) : Result :=
  done <| s.dispatch q 0x12 anyPkt fun p s => s.addPacket p .post (p.f 24 4)

/-- R168: SEM_WAIT. -/
def execSemWait (q : QueueId) (s : State) : Result :=
  done <| s.dispatch q 0x13 anyPkt fun p s => s.waitPacket p .take (p.f 24 4)

/-- The event a packet names at offset 24: run entry, counter, and index. -/
def Packet.event (p : Packet) : Nat × Nat × Nat :=
  let h := p.f 24 8
  (handleKey h, hIdx h % 2 ^ 17, hIdx h)

/-- R198: EVENT_EXPORT. -/
def execEventExport (q : QueueId) (s : State) : Result :=
  done <| s.dispatch q 0x15 anyPkt fun p s =>
    let (_, _, e) := p.event
    let g := hGen (p.f 24 8)
    let l := s.exportsOf p.part
    let known := l.any fun x => x.1 == e && x.2 == g
    if !known ∧ 4096 ≤ l.length then s.finish p.pid stNoResource 0 0
    else
      let t := if known then s else s.onObj fun o => { o with exports := o.exports.upd p.part [] fun l => l ++ [(e, g)] }
      (t.emit (.hostWrite q.fn (p.f 32 8) (t.token p.part g e) false)).finish p.pid stOk 0 0

/-- R199: EVENT_IMPORT: a token of this device is verified at once, another's goes to its exporter. -/
def execEventImport (q : QueueId) (s : State) : Result :=
  done <| s.dispatch q 0x16 anyPkt fun p s =>
    let tok := (p.bytes.drop 24).take 16
    let (f, d, _, _, _) := tokenParts tok
    let (f', d') := s.tokenId
    let bad := fun s : State => s.finish p.pid stBadParam 0 (reason 0x0C 24)
    if f ≠ f' then bad s
    else if d = d' then
      match s.verifyToken tok with
      | none => bad s
      | some v => (s.addImporter tok 0xFF v).openMirror p.pid p tok 0xFF v
    else
      match s.unreachable d with
      | some st => if st = stPeerLost then s.finish p.pid stPeerLost 0 0 else bad s
      | none =>
        let t := s.onFleet fun f => { f with importOut := f.importOut ++ [(p.pid, BitVec.ofNat 64 p.pid, d)] }
        t.sendMsg (t.mkMsg 6 2 d 0 (tok ++ toLe 8 p.pid))

/-- R203: SIGNAL_HOST, once: the event's value goes to the word. -/
def execSignalHostOnce (q : QueueId) (s : State) : Result :=
  done <| s.dispatch q 0x17 (fun p => p.f 40 1 == 0) fun p s =>
    let (k, c, _) := p.event
    let v := s.eventValue k c
    (s.lastWord p.part q.fn (p.f 32 8) v).finish p.pid stOk v.toNat 0

/-- R203: SIGNAL_HOST, bind: the word is bound to the event and takes its present value. -/
def execSignalHostBind (q : QueueId) (s : State) : Result :=
  done <| s.dispatch q 0x17 (fun p => p.f 40 1 == 1) fun p s =>
    let (k, c, e) := p.event
    let v := s.eventValue k c
    let mine := s.obj.bindings.filter fun b => b.part == p.part
    let same := mine.filter fun b => b.event == e
    if same.any fun b => b.word == p.f 32 8 then s.finish p.pid stOk v.toNat 0
    else if 1024 ≤ mine.length ∨ 16 ≤ same.length then s.finish p.pid stNoResource 0 0
    else
      let b : Binding := { part := p.part, event := e, word := p.f 32 8, fn := q.fn, last := v }
      ((s.onObj fun o => { o with bindings := o.bindings ++ [b] }).emit (.hostWrite b.fn b.word (toLe 8 v.toNat) false)).finish p.pid stOk v.toNat 0

/-- R204: SIGNAL_HOST, unbind: the binding ends after a last write. -/
def execSignalHostUnbind (q : QueueId) (s : State) : Result :=
  done <| s.dispatch q 0x17 (fun p => p.f 40 1 == 2) fun p s =>
    let (k, c, e) := p.event
    let here := fun b : Binding => b.part == p.part && b.event == e && b.word == p.f 32 8
    if s.obj.bindings.any here then
      ((s.onObj fun o => { o with bindings := o.bindings.filter fun b => !here b }).lastWord p.part q.fn (p.f 32 8)
        (s.eventValue k c)).finish p.pid stOk 0 0
    else s.finish p.pid stOk 0 0

/-- R200: the exporter sends an event's merged value to the importers that have not had it; the same step brings local
mirrors up. -/
def execMirrorUpdateSend (s : State) : Result :=
  done <|
    if !s.awake then s
    else s.obj.importers.foldl (fun t i =>
      let v := t.eventValue (objKey i.part (i.event / 2 ^ 17)) (i.event % 2 ^ 17)
      if v.toNat ≤ i.last.toNat then t
      else
        let t := t.onObj fun o => { o with importers := o.importers.map fun x => if x = i then { x with last := v } else x }
        if i.dev = 0xFF then
          (t.mirrorsOf 0xFF fun m => m.part == i.part && m.event == i.event && m.gen == i.gen).foldl
            (fun t e => if (t.tally e.2).orphaned then t else t.raiseMirror e.2 v) t
        else
          let (id, t) := t.nextMsgId
          t.sendMsg (t.mkMsg 3 1 i.dev id (toLe 4 i.event ++ toLe 1 i.part ++ toLe 3 i.gen ++ toLe 8 v.toNat ++ toLe 1 0))) s

/-- R204: a failed write of a signal word is logged. -/
def State.wordLost (part word : Nat) (s : State) : State :=
  s.logOcc { event := 0xD02, sev := 2, part := some part, addr := BitVec.ofNat 64 word }

/-- R203: the bound words whose event has changed receive its latest value; `fails` names the words a write of which, now or since
the last update, ends in a completion error: the failure is logged and a binding to the word is dropped (R204). -/
def execSignalWordUpdate (fails : List Nat) (s : State) : Result :=
  .next <|
    if !s.awake then s
    else
      let t := (s.obj.lastWords.filter fun e => fails.contains e.2).foldl (fun t e => t.wordLost e.1 e.2) s
      s.obj.bindings.foldl (fun t b =>
        let v := t.eventValue (objKey b.part (b.event / 2 ^ 17)) (b.event % 2 ^ 17)
        if fails.contains b.word then
          (t.onObj fun o => { o with bindings := o.bindings.filter fun x => x ≠ b }).wordLost b.part b.word
        else if v.toNat ≤ b.last.toNat then t
        else
          (t.onObj fun o => { o with bindings := o.bindings.map fun x => if x = b then { x with last := v } else x }).emit
            (.hostWrite b.fn b.word (toLe 8 v.toNat) false)) (t.onObj fun o => { o with lastWords := [] })

end Sys2Proof.Machine
end

