-- ==== Sys2Proof/Machine/TwPkt.lean ====
section
/-! DEFINITION. The meanings of TW_CONFIG, TW_READ and the PTM dialogue (R103, R174, R175). -/

namespace Sys2Proof.Machine

open Sys2Proof

/-- What is wrong with value `v` for the register at `off` of a TW_CONFIG: the status, if anything (R174). -/
def twValueBad (off : Nat) (v : DWord) : Option Nat :=
  match twReg off with
  | none => some stBadParam
  | some r =>
    if r.pair && !pairOk v then some stIntegrity
    else if !r.wide && v.toNat / 2 ^ 32 != 0 then some stBadParam
    else if r.refuses v then some stBadParam else none

/-- The values of a TW_CONFIG: index, register offset, value. -/
def Packet.twValues (p : Packet) : List (Nat × Nat × DWord) :=
  (List.range (p.f 18 1)).map fun i => (i, p.f 16 2 + 8 * i, BitVec.ofNat 64 (p.f (24 + 8 * i) 8))

/-- R93: the source class of a packet's write of a rule. -/
def State.ruleBy (source : Nat) (r : TwReg) (s : State) : State :=
  match r with
  | .ruleSrc n | .ruleThr n | .ruleAct n | .ruleAux n => s.ruleSet n fun x => { x with source := source }
  | _ => s

/-- R174: TW_CONFIG: every value is checked before any is written. -/
def execTwConfig (q : QueueId) (s : State) : Result :=
  done <| s.dispatch q 0x48 anyPkt fun p s =>
    match p.twValues.findSome? fun e => (twValueBad e.2.1 e.2.2).map fun st => (st, e.1) with
    | some (st, i) => s.finish p.pid st 0 (reason 0x06 (24 + 8 * i))
    | none =>
      let t := p.twValues.foldl (fun t e => match twReg e.2.1 with | some r => (t.twSet r e.2.2).ruleBy q.source r | none => t) s
      t.finish p.pid stOk p.twValues.length 0

/-- Words that a TW_READ pops from the sample FIFO. -/
def State.popSamples : Nat → State → List Nat × State
  | 0, s => ([], s)
  | k + 1, s =>
    let (v, t) := s.popSample
    let (l, u) := State.popSamples k t
    (v.toNat :: l, u)

/-- Words that a TW_READ pops from the trigger FIFO: entry and time of each. -/
def State.popTrigs : Nat → State → List Nat × State
  | 0, s => ([], s)
  | k + 1, s =>
    let (v, t) := s.popTrig
    let (l, u) := State.popTrigs k t
    (v.toNat :: t.tw.trigTime.toNat :: l, u)

/-- The 64-bit words of a TW_READ, with what its pops leave (R175). -/
def State.twWords (s : State) (p : Packet) : List Nat × State :=
  let off := p.f 16 2
  let n := p.f 18 2
  if p.f 20 1 = 0 ∧ off = 0x80 then s.popSamples n
  else if p.f 20 1 = 0 ∧ off = 0x90 then s.popTrigs (n / 2)
  else
    let rd := fun a => ((if p.f 20 1 = 0 then s.twRead4 a else s.timeRead4 a) : Word).toNat
    ((List.range n).map fun i => rd (off + 8 * i) + rd (off + 8 * i + 4) * 2 ^ 32, s)

/-- R175: TW_READ writes its words to host memory. -/
def execTwRead (q : QueueId) (s : State) : Result :=
  done <| s.dispatch q 0x49 anyPkt fun p s =>
    let (l, t) := s.twWords p
    (t.emit (.hostWrite q.fn (p.f 24 8) (l.map (toLe 8)).flatten false)).finish p.pid stOk l.length 0

/-- R103: at a PTM dialogue the host's master time and the harbour time are recorded. -/
def execPtmDialogue (master : DWord) (s : State) : Result :=
  .next <| if s.boot.cfgAnswers && !s.host.linkDown then
    s.onTime fun t => { t with ptmLocal := s.now, ptmMaster := master } else s

end Sys2Proof.Machine
end

