-- ==== Sys2Proof/Machine/Update.lean ====
section
/-! DEFINITION. The PLDM firmware update agent (R484 to R486, R490). -/

namespace Sys2Proof.Machine

open Sys2Proof

/-- A Type 5 request of the agent that holds the session, in one of the phases; another is refused (log 72). -/
def updRequest (b src : Nat) (phases : List UpdPhase) (f : State → State) (s : State) : Result :=
  mctpRequest b src 1 (fun s =>
    if s.mgmt.upd = .idle then s.replyTo b src (.error .notInUpdate)
    else if s.mgmt.updBind ≠ b ∨ s.mgmt.updSource ≠ src then s.replyTo b src (.error .updateInProgress)
    else if phases.contains s.mgmt.upd then f s
    else s.replyTo b src (.error .wrongState)) s

/-- R484, R485: RequestUpdate is refused while the running image is on trial, while updates are disabled and while
TRIPPED is set; otherwise record 0 is rewritten if needed and the session begins. -/
def execRequestUpdate (b src maxTransfer : Nat) (s : State) : Result :=
  mctpRequest b src 1 (fun s =>
    if s.mgmt.upd ≠ .idle then s.replyTo b src (.error .updateInProgress)
    else if s.boot.trial || s.host.updateDis || s.tw.tripped then s.replyTo b src (.error .refused)
    else
      let a := if s.boot.source.toNat < 2 then s.boot.source.toNat else s.selector.1
      let t := if s.selector = (a, 0) then s else s.persist 0 (selectorBytes a 0)
      (t.onMgmt fun m =>
        { m with upd := .learn, updBind := b, updSource := src, updTarget := 1 - a, updSize := 0, updOff := 0,
                 updMax := min maxTransfer 1024, updPending := none }).replyTo b src (.accepted .requestUpdate)) s

/-- R484: GetFirmwareParameters: component 0x0001, its active version and that of the image awaiting activation. -/
def execGetFirmwareParameters (b src : Nat) (s : State) : Result :=
  mctpRequest b src 1 (fun s => s.replyTo b src (.parameters 1 s.boot.fwVer
    (if s.mgmt.upd = .idle ∨ s.mgmt.upd = .activate then s.mgmt.updPending else none))) s

/-- R484: PassComponentTable. -/
def execPassComponentTable (b src : Nat) (s : State) : Result :=
  updRequest b src [.learn, .ready] (fun s =>
    (s.onMgmt fun m => { m with upd := .ready }).replyTo b src (.accepted .passComponentTable)) s

/-- The 64 KiB blocks that an image of `n` bytes occupies (R485). -/
def blocksOf (n : Nat) : Nat := (n + 65535) / 65536

/-- R485, R491: UpdateComponent takes the pilot image's size, and the controller erases the blocks it will occupy. -/
def execUpdateComponent (b src component size : Nat) (s : State) : Result :=
  updRequest b src [.ready] (fun s =>
    if component ≠ 1 ∨ size < 4608 ∨ 2097664 < size then s.replyTo b src (.error .invalidData)
    else
      let t := (s.slotQueue ((List.range (blocksOf size)).map fun k => .erase s.mgmt.updTarget k)).onMgmt
          fun m => { m with upd := .download, updSize := size, updOff := 0, updPage := [] }
      t.replyTo b src (.accepted .updateComponent)) s

/-- The page programs of the bytes from offset `off`, the last one short where `all` is set; with fuel `k`. -/
def pagesOf (slot : Nat) (all : Bool) : Nat → Nat → List Byte → List SlotJob
  | 0, _, _ => []
  | k + 1, off, l =>
    if l = [] ∨ (l.length < 256 ∧ !all) then []
    else .page slot off (l.take 256) :: pagesOf slot all k (off + 256) (l.drop 256)

/-- R485: bytes of the image arrive in order: every page that they fill is queued, and the last one at the image's end. -/
def State.takeChunk (bytes : List Byte) (s : State) : State :=
  let off := s.mgmt.updOff
  let l := s.mgmt.updPage ++ bytes
  let fin := decide (s.mgmt.updSize ≤ off + bytes.length)
  let t := s.slotQueue (pagesOf s.mgmt.updTarget fin (l.length + 1) (off - s.mgmt.updPage.length) l)
  t.onMgmt fun m => { m with updOff := off + bytes.length, updPage := if fin then [] else l.drop (l.length / 256 * 256) }

/-- R485: a chunk arrives in order and is programmed; the next is requested, or TransferComplete follows the last. A
response of another length is no chunk: the request is repeated (log 72). -/
def execFirmwareDataResponse (b src : Nat) (bytes : List Byte) (s : State) : Result :=
  done <|
    if s.waits b src 1 && decide (s.mgmt.upd = .download) && !s.slotErasing && s.mgmt.updBind == b && s.mgmt.updSource == src then
      let s := s.onMgmt fun m => { m with inbox := m.inbox.drop (mctpKey b src) }
      if bytes.length ≠ s.chunk then s.askChunk
      else
        let t := s.takeChunk bytes
        if t.mgmt.updSize ≤ t.mgmt.updOff then
          (t.onMgmt fun m => { m with upd := .verify }).emit (.mgmt b (.transferComplete true))
        else t.askChunk
    else s

/-- R485: the image in the slot, all of it programmed, has been verified under R34: VerifyComplete, and ApplyComplete after
a success. -/
def execVerifyComplete (img : ImageInfo) (s : State) : Result :=
  done <|
    if s.mgmt.upd = .verify ∧ s.pilotRuns ∧ s.nvm.slotJobs = [] ∧ s.nvm.slotBusy = none then
      let b := s.mgmt.updBind
      match rejectReason s.ao.minSvn img with
      | none =>
        ((s.onMgmt fun m => { m with upd := .apply, updPending := some img.version }).emit
          (.mgmt b (.verifyComplete none))).emit (.mgmt b .applyComplete)
      | some r => (s.onMgmt fun m => { m with upd := .ready }).emit (.mgmt b (.verifyComplete (some r)))
    else s

/-- R485: ActivateFirmware, accepted only after ApplyComplete and not self-contained, writes record 0 with trial state
PENDING; the answer follows its commit. -/
def execActivateFirmware (b src : Nat) (selfContained : Bool) (s : State) : Result :=
  updRequest b src [.apply] (fun s =>
    if selfContained then s.replyTo b src (.error .selfContained)
    else
      let t := s.onMgmt fun m => { m with upd := .activate, inbox := m.inbox.drop (mctpKey b src) }
      t.nvmQueue { rec_ := 0, data := selectorBytes (1 - t.mgmt.updTarget) 1, why := .activate }) s

/-- R484: GetStatus. -/
def execGetStatus (b src : Nat) (s : State) : Result :=
  mctpRequest b src 1 (fun s => s.replyTo b src (.status s.mgmt.upd s.mgmt.updOff)) s

/-- R484, R490: CancelUpdateComponent stops the transfer of the component; the session goes on. -/
def execCancelUpdateComponent (b src : Nat) (s : State) : Result :=
  updRequest b src [.download, .verify, .apply] (fun s =>
    ((s.onNvm fun n => { n with slotJobs := [] }).onMgmt fun m =>
      { m with upd := .ready, updPending := none, updPage := [] }).replyTo b src (.accepted .cancelUpdateComponent)) s

/-- R490: CancelUpdate ends the session at once. -/
def execCancelUpdate (b src : Nat) (s : State) : Result :=
  updRequest b src [.learn, .ready, .download, .verify, .apply, .activate] (fun s =>
    s.endUpdate.replyTo b src (.accepted .cancelUpdate)) s

/-- R486, R490: 60 s without a Type 5 message end the session. -/
def execUpdateIdleTimeout (s : State) : Result := done <| if s.pilotRuns then s.endUpdate else s

end Sys2Proof.Machine
end

