-- ==== Sys2Proof/Machine/Work.lean ====
section
/-! DEFINITION. The meanings of LAUNCH and the placing and end of its blocks, and of the packets that movers carry out
(Table 7-5, Table 7-6, Table 7-7, R213 to R220, R228, R261, R366, R370). -/

namespace Sys2Proof.Machine

open Sys2Proof

/-- R213, R214: offset of the parameter that the kernel descriptor `d` rejects. -/
def descBad (p : Packet) (d : List Byte) : Option Nat :=
  firstBad
    [(field d 0 4 == 0x444B5344 && field d 4 2 == 1 && decide (field d 8 4 ≤ 0x00010000) && zeroAt d 7 1 && zeroAt d 13 3
        && zeroAt d 20 4 && zeroAt d 32 32, 24),
     (decide (field d 6 1 * ((p.f 52 2 + 127) / 128) ≤ 16), 24),
     (decide (field d 12 1 ≤ p.f 55 1), 55),
     (decide (field d 16 4 ≤ p.f 56 4), 56)]

/-- The launch that a packet and its descriptor ask for. -/
def mkLaunch (p : Packet) (d : List Byte) (n : Nat) : Launch :=
  { live := true, pid := p.pid, part := p.part, ctx := p.ctxKey.getD 0, entry := p.f 24 8, args := BitVec.ofNat 64 (p.f 32 8)
    grid := (p.f 40 4, p.f 44 4, p.f 48 4), block := p.f 52 2, cluster := p.f 54 1, regs := p.f 55 1, locSize := p.f 56 4
    slices := BitVec.ofNat 32 (p.f 60 4), seed := BitVec.ofNat 64 (p.f 64 8)
    ncMask := [BitVec.ofNat 64 (p.f 72 8), BitVec.ofNat 64 (p.f 80 8), BitVec.ofNat 64 (p.f 88 8), BitVec.ofNat 64 (p.f 96 8)]
    acc := field d 6 1, amaxMask := BitVec.ofNat 64 (field d 24 8), replayable := p.replayable, status := p.replayable
    number := n }

/-- Bytes of a launch's ledger (R366). -/
def Launch.ledgerNeed (l : Launch) : Nat := if l.replayable then ((l.total + 7) / 8 + 4095) / 4096 * 4096 else 0

/-- Every register of AMAX_MASK opens (R252). -/
def State.openLaunch (l : Launch) (s : State) : State := (ones l.amaxMask).foldl (fun t a => t.openStream l.ctx a) s

/-- Room in the partition's ledger area (R366). -/
def State.ledgerFits (s : State) (l : Launch) : Bool := decide (s.work.ledgerUse.look l.part 0 + l.ledgerNeed ≤ 0x800000)

/-- A launch takes its ledger. -/
def State.takeLedger (n : Nat) (s : State) : State :=
  let l := s.launch n
  let t := s.onWork fun w => { w with ledgerUse := w.ledgerUse.upd l.part 0 (· + l.ledgerNeed) }
  t.onLaunch n fun l => { l with waitLedger := false, ledgerBytes := l.ledgerNeed, ledger := [] }

/-- Slices that a LAUNCH names and that are skipped (R165). -/
def State.skipped (s : State) (l : Launch) : Word :=
  let named := if l.slices = 0 then s.slicesOf l.part else l.slices
  named &&& ~~~ maskOf 32 (s.usableFor l)

/-- The parameters and descriptor of a LAUNCH have passed: it joins the running launches, and its streams open (R252). -/
def State.startLaunch (p : Packet) (d : List Byte) (s : State) : State :=
  let n := s.work.nextLaunch + 1
  let l := mkLaunch p d n
  match descBad p d with
  | some off => s.finish p.pid stBadParam 0 (reason 0x06 off)
  | none =>
    if 0x800000 < l.ledgerNeed then s.finish p.pid stBadParam 0 (reason 0x06 40)
    else if s.usableFor l = [] then s.finish p.pid stNoResource 0 (s.skipped l).toNat
    else
      let t := s.onWork fun w => { w with nextLaunch := n, launch := w.launch.ins n { l with waitLedger := true } }
      let t := t.openLaunch l
      if t.ledgerFits l then t.takeLedger n else t

/-- R165, R183, R213, R214, R366: a LAUNCH is dispatched; `host` answers for a descriptor in host memory. -/
def execLaunch (q : QueueId) (host : HostMem) (s : State) : Result :=
  done <| s.dispatch q 0x02 anyPkt fun p s =>
    let c := p.ctxKey.getD 0
    let e := p.f 24 8
    let fault := if e < 64 then some (4, e) else s.accessFault c (e - 64) 64 .read host.refused
    match fault with
    | some (code, a) => s.accessPacketFault p.pid c code a
    | none =>
      let s := (s.settleLighter c (e - 64) 64).meetEccVa c (e - 64) 64 host.ecc
      let d := s.readVa c (e - 64) 64 host.bytes
      if d.any Prod.snd then s.packetFault p.pid 0xC (BitVec.ofNat 64 (e - 64)) else s.startLaunch p (d.map Prod.fst)

/-- R366: a launch that waits for its ledger obtains it, the oldest of its partition first. -/
def execLedgerAllocate (n : Nat) (s : State) : Result :=
  done <|
    let l := s.launch n
    let first := s.work.launch.all fun e => !(e.2.part == l.part && e.2.waitLedger && decide (e.1 < n))
    if l.live && l.waitLedger && first && s.ledgerFits l && s.awake then s.takeLedger n else s

/-- The slice for `k` blocks of a launch: of those where they fit, the one with the most free places (R219). -/
def State.chooseSlice (s : State) (l : Launch) (k : Nat) : Option (Nat × List Nat) :=
  let fits := (s.usableFor l).filterMap fun n => (s.chooseCores l k n).map fun cs => (n, cs)
  bestBy (fun e => ((s.enabledCores e.1).map (s.places l)).sum) fits

/-- R298: cores where a launch places its first block drop its context's near-cache entries. -/
def State.greetCores (n : Nat) (cores : List Nat) (s : State) : State :=
  let l := s.launch n
  let new := cores.filter fun c => !l.cores.contains c
  (new.foldl (fun t c => t.nearDrop c l.ctx) s).onLaunch n fun l => { l with cores := l.cores ++ new }

/-- A core for block `idx`, to be placed again beside the blocks of its cluster (R218, R234). -/
def State.chooseBeside (s : State) (n idx : Nat) : Option Nat :=
  let l := s.launch n
  let peers := (s.core.block.filter fun e => e.2.launch == n && e.2.cluster == idx / max 1 l.cluster && e.2.live).map fun e => e.2.core
  let sl := match peers with
    | c :: _ => some (sliceOf c)
    | [] => (s.chooseSlice l 1).map Prod.fst
  sl.bind fun sl => bestBy (s.places l) ((s.enabledCores sl).filter fun c => !peers.contains c && decide (0 < s.places l c))

/-- R219, R220, R234, R373: the next cluster, or block to be placed again, of launch `n` is placed where it fits; a slice
that is not in RUN is woken first. -/
def State.placeNext (n : Nat) (s : State) : State :=
  let l := s.launch n
  let cluster := fun (k : Nat) (after : Launch → Launch) =>
    match s.chooseSlice l (l.members k).length with
    | none => s
    | some (sl, cs) =>
      if (s.slice sl).st ≠ .run then s.wakeSlice sl
      else ((s.placeCluster n k cs).onLaunch n after).greetCores n cs
  match l.rerun, l.replace with
  | k :: r, _ => cluster k fun l => { l with rerun := r }
  | [], i :: r =>
    match s.chooseBeside n i with
    | none => s
    | some c =>
      if (s.slice (sliceOf c)).st ≠ .run then s.wakeSlice (sliceOf c)
      else ((s.placeBlock n i c).onLaunch n fun l => { l with replace := r }).greetCores n [c]
  | [], [] => if l.nextCluster < l.clusters then cluster l.nextCluster fun l => { l with nextCluster := l.nextCluster + 1 } else s

/-- R219: the pilot places the next cluster of launch `n`. -/
def execClusterPlace (n : Nat) (s : State) : Result :=
  done <|
    let l := s.launch n
    if l.live && !l.waitLedger && s.awake && !s.tw.tripped && (s.ctx l.ctx).st == .live && !s.isFrozen l.part then s.placeNext n
    else s

/-- R137, R370: nothing of launch `n` is left to place, to run, to commit or to move. -/
def State.launchOver (s : State) (n : Nat) : Bool :=
  let l := s.launch n
  l.live && !l.waitLedger && l.nextCluster == l.clusters && l.rerun.isEmpty && l.replace.isEmpty && (s.blocksOf n).isEmpty
    && !(s.red.commits.any fun c => c.launch == n) && !(s.red.held.any fun c => c.launch == n)
    && !(s.core.core.any fun e => e.2.mover.any fun m => match m with | .desc _ _ k _ _ => k == n | _ => false)

/-- R165, R162, R370: a launch whose commits have all been applied or discarded completes. -/
def execLaunchComplete (n : Nat) (s : State) : Result :=
  done <|
    let l := s.launch n
    if s.awake && s.launchOver n && (s.ctx l.ctx).st == .live then s.endLaunch n (flagStatus l.detail) l.result l.detail else s

/-- Offset of the first parameter of a COPY that its mappings reject: a LIGHTER side not in whole blocks, or ranges that
overlap (Table 7-6). -/
def State.copyBad (s : State) (p : Packet) : Option Nat :=
  let c := p.ctxKey.getD 0
  let n := p.f 40 8
  let sl := s.anyMap c (p.f 24 8) n Mapping.lighter
  let dl := s.anyMap c (p.f 32 8) n Mapping.lighter
  firstBad [(!sl || p.f 24 8 % 64 == 0, 24), (!dl || p.f 32 8 % 64 == 0, 32), (!overlap (p.f 24 8) n (p.f 32 8) n, 32),
    (!(sl || dl) || n % 64 == 0, 40)]

/-- The partition has no mover left (R130). -/
def State.noMover (s : State) (part : Nat) : Bool := ((s.moverSlices part).map s.enabledCores).flatten == []

/-- A packet for the movers starts, unless a parameter is out of range. -/
def State.startMover (p : Packet) (bad : Option Nat) (scale : Nat) (s : State) : State :=
  match bad with
  | some off => s.finish p.pid stBadParam 0 (reason 0x06 off)
  | none => if s.noMover p.part then s.finish p.pid stFaulted 0 0 else s.splitPacket p scale

/-- R166: COPY. -/
def execCopy (q : QueueId) (s : State) : Result :=
  done <| s.dispatch q 0x03 anyPkt fun p s => s.startMover p (s.copyBad p) 127

/-- R166: FILL. -/
def execFill (q : QueueId) (s : State) : Result :=
  done <| s.dispatch q 0x04 anyPkt fun p s => s.startMover p none 127

/-- Bytes of `n` elements with their scale bytes (R245). -/
def tensorBytes (c n : Nat) : Nat := (n * fmtBits c + 7) / 8 + (if isMx c then n / 32 else 0)

/-- R253, R261: offset of the first parameter of a CONVERT out of range: an explicit scale of 0xFF, or ranges that overlap
other than in place. -/
def convertBad (p : Packet) : Option Nat :=
  let sf := p.f 48 1
  let df := p.f 49 1
  let n := p.f 40 8
  let inPlace := p.f 24 8 == p.f 32 8 && !isMx sf && !isMx df && fmtBits sf == fmtBits df
  firstBad [(inPlace || !overlap (p.f 24 8) (tensorBytes sf n) (p.f 32 8) (tensorBytes df n), 32),
    (p.f 51 1 != 2 || p.f 52 1 != 0xFF, 52)]

/-- The scale byte in use (R253); without scaling it is that of 2^0. -/
def State.convertScale (s : State) (p : Packet) : Nat :=
  match p.f 51 1 with
  | 1 => (autoExp (p.f 49 1) (s.amax (p.ctxKey.getD 0) (p.f 53 1)).snap.toNat + 127).toNat
  | 2 => p.f 52 1
  | _ => 127

/-- R166, R252: CONVERT opens its AMAX register as a stream. -/
def execConvert (q : QueueId) (s : State) : Result :=
  done <| s.dispatch q 0x05 anyPkt fun p s =>
    match convertBad p with
    | some off => s.finish p.pid stBadParam 0 (reason 0x06 off)
    | none =>
      if s.noMover p.part then s.finish p.pid stFaulted 0 0
      else
        let t := s.openStream (p.ctxKey.getD 0) (p.f 53 1)
        t.splitPacket p (t.convertScale p)

/-- R166, R332: PACK; a PROTECTED destination is refused. -/
def execPack (q : QueueId) (s : State) : Result :=
  done <| s.dispatch q 0x06 anyPkt fun p s =>
    let prot := s.anyMap (p.ctxKey.getD 0) (p.f 32 8) (p.f 40 8 / 32 * 48) Mapping.prot
    s.startMover p (if prot then some 32 else none) 127

/-- R166, R332: UNPACK. -/
def execUnpack (q : QueueId) (s : State) : Result :=
  done <| s.dispatch q 0x07 anyPkt fun p s => s.startMover p none 127

/-- R228: the mover of `core` finishes the piece at the head of its queue; `host` gives its source's bytes in host
memory. -/
def execMoverPieceComplete (core : Nat) (host : HostMem) (s : State) : Result :=
  done <|
    match (s.coreAt core).mover with
    | .piece pid off n :: r =>
      let kept := match s.inflight pid with
        | some i => (pieceRanges i.pkt off n).any fun r => s.vaKept (i.pkt.ctxKey.getD 0) r.1 r.2.1 (r.2.2 == .write)
        | none => false
      if s.moverRuns core && !kept then (s.onCoreAt core fun c => { c with mover := r }).runPiece core pid off n host else s
    | _ => s

end Sys2Proof.Machine
end

