-- ==== Sys2Proof/Machine/Dispatch.lean ====
section
/-! DEFINITION. The dispatch: each command to its meaning, one arm a constructor. -/

namespace Sys2Proof.Machine

open Sys2Proof

/-- The effect of a command on everything but the queue. -/
def exec (i : Instr) (s : State) : Host.Outcome State Fault Refusal :=
  match i with
  | .vddAoPorRelease => Sys2Proof.Machine.execVddAoPorRelease s
  | .vddAoDrop => Sys2Proof.Machine.execVddAoDrop s
  | .twRomCheckDone pass => Sys2Proof.Machine.execTwRomCheckDone pass s
  | .roleSelSample v => Sys2Proof.Machine.execRoleSelSample v s
  | .stage5RailPass means => Sys2Proof.Machine.execStage5RailPass means s
  | .bootStageTimeout mask => Sys2Proof.Machine.execBootStageTimeout mask s
  | .perstNAssert ns accept => Sys2Proof.Machine.execPerstNAssert ns accept s
  | .perstNRelease sel => Sys2Proof.Machine.execPerstNRelease sel s
  | .hostLinkReset => Sys2Proof.Machine.execHostLinkReset s
  | .pfFlr => Sys2Proof.Machine.execPfFlr s
  | .vfFlr n rng => Sys2Proof.Machine.execVfFlr n rng s
  | .pilotWatchdogExpiry => Sys2Proof.Machine.execPilotWatchdogExpiry s
  | .hubPllLock => Sys2Proof.Machine.execHubPllLock s
  | .hubPllLockTimeout => Sys2Proof.Machine.execHubPllLockTimeout s
  | .imageVerifyDone img => Sys2Proof.Machine.execImageVerifyDone img s
  | .pilotCheckIn => Sys2Proof.Machine.execPilotCheckIn s
  | .pilotStartTimeout => Sys2Proof.Machine.execPilotStartTimeout s
  | .fenceMapLoad => Sys2Proof.Machine.execFenceMapLoad s
  | .bistComplete pllFail badCores badUncore => Sys2Proof.Machine.execBistComplete pllFail badCores badUncore s
  | .hbmTrainComplete failed => Sys2Proof.Machine.execHbmTrainComplete failed s
  | .hostLinkTrained width rate flit256 => Sys2Proof.Machine.execHostLinkTrained width rate flit256 s
  | .hostLinkStageDone => Sys2Proof.Machine.execHostLinkStageDone s
  | .fleetHailQuiet => Sys2Proof.Machine.execFleetHailQuiet s
  | .mboxNop compl => Sys2Proof.Machine.execMboxNop compl s
  | .mboxLoadImage compl img => Sys2Proof.Machine.execMboxLoadImage compl img s
  | .mboxReboot compl => Sys2Proof.Machine.execMboxReboot compl s
  | .mboxConfirm compl => Sys2Proof.Machine.execMboxConfirm compl s
  | .vfEnable on => Sys2Proof.Machine.execVfEnable on s
  | .hostBar2Access off acc => Sys2Proof.Machine.execHostBar2Access off acc s
  | .hostCxlMemRequest dpa own => Sys2Proof.Machine.execHostCxlMemRequest dpa own s
  | .hostL12Exit => Sys2Proof.Machine.execHostL12Exit s
  | .d3hotRequest => Sys2Proof.Machine.execD3hotRequest s
  | .bar2Resize log decoding => Sys2Proof.Machine.execBar2Resize log decoding s
  | .atsInvalidate bus len pasid => Sys2Proof.Machine.execAtsInvalidate bus len pasid s
  | .hostSnoop line inval => Sys2Proof.Machine.execHostSnoop line inval s
  | .ptmDialogue master => Sys2Proof.Machine.execPtmDialogue master s
  | .hwsFlitReceive p f => Sys2Proof.Machine.execHwsFlitReceive p f s
  | .hwsReplayTimeout p => Sys2Proof.Machine.execHwsReplayTimeout p s
  | .hwsReplayLimit p => Sys2Proof.Machine.execHwsReplayLimit p s
  | .hwsSignalLoss p => Sys2Proof.Machine.execHwsSignalLoss p s
  | .hwsFecErrorBurst p => Sys2Proof.Machine.execHwsFecErrorBurst p s
  | .hwsDetectEnergy p lanes => Sys2Proof.Machine.execHwsDetectEnergy p lanes s
  | .hwsSymbolLock p lanes => Sys2Proof.Machine.execHwsSymbolLock p lanes s
  | .hwsCoeffRequestReceive p r ber failed => Sys2Proof.Machine.execHwsCoeffRequestReceive p r ber failed s
  | .hwsLaneMaskReceive p r own => Sys2Proof.Machine.execHwsLaneMaskReceive p r own s
  | .hwsHailReceive p r => Sys2Proof.Machine.execHwsHailReceive p r s
  | .hwsCreditGrantReceive p c => Sys2Proof.Machine.execHwsCreditGrantReceive p c s
  | .hwsGrantAckReceive p c => Sys2Proof.Machine.execHwsGrantAckReceive p c s
  | .hwsRejectionReceive p reason => Sys2Proof.Machine.execHwsRejectionReceive p reason s
  | .hwsRecordRepeat p => Sys2Proof.Machine.execHwsRecordRepeat p s
  | .hwsStateTimeout p => Sys2Proof.Machine.execHwsStateTimeout p s
  | .hwsAttemptGapExpiry p => Sys2Proof.Machine.execHwsAttemptGapExpiry p s
  | .hwsSeriesTimeout p => Sys2Proof.Machine.execHwsSeriesTimeout p s
  | .hwsPeerDetectPattern p => Sys2Proof.Machine.execHwsPeerDetectPattern p s
  | .hwsDownSignalSense p => Sys2Proof.Machine.execHwsDownSignalSense p s
  | .hwsRetrain p v => Sys2Proof.Machine.execHwsRetrain p v s
  | .hwsLpiEntry p => Sys2Proof.Machine.execHwsLpiEntry p s
  | .hwsLpiExit p => Sys2Proof.Machine.execHwsLpiExit p s
  | .adcConversionDone code => Sys2Proof.Machine.execAdcConversionDone code s
  | .safetyScan temps vref gnd => Sys2Proof.Machine.execSafetyScan temps vref gnd s
  | .sequenceRunStart => Sys2Proof.Machine.execSequenceRunStart s
  | .seqStartWrite n v => Sys2Proof.Machine.execSeqStartWrite n v s
  | .twTimerExpiry t => Sys2Proof.Machine.execTwTimerExpiry t s
  | .digitalInputAccept inp level ns => Sys2Proof.Machine.execDigitalInputAccept inp level ns s
  | .ppsLost => Sys2Proof.Machine.execPpsLost s
  | .channelStale ch => Sys2Proof.Machine.execChannelStale ch s
  | .watchBoundary => Sys2Proof.Machine.execWatchBoundary s
  | .timeOutSecond => Sys2Proof.Machine.execTimeOutSecond s
  | .timeSet v => Sys2Proof.Machine.execTimeSet v s
  | .twSamplePop => Sys2Proof.Machine.execTwSamplePop s
  | .twTrigPop => Sys2Proof.Machine.execTwTrigPop s
  | .twRuleWrite n reg v => Sys2Proof.Machine.execTwRuleWrite n reg v s
  | .twThermLimWrite v => Sys2Proof.Machine.execTwThermLimWrite v s
  | .twStepWrite n k v => Sys2Proof.Machine.execTwStepWrite n k v s
  | .twWatchWrite v => Sys2Proof.Machine.execTwWatchWrite v s
  | .tripClear => Sys2Proof.Machine.execTripClear s
  | .hardCut die => Sys2Proof.Machine.execHardCut die s
  | .idleDwellExpiry => Sys2Proof.Machine.execIdleDwellExpiry s
  | .sleepPendingEntry => Sys2Proof.Machine.execSleepPendingEntry s
  | .deviceAwake us failed => Sys2Proof.Machine.execDeviceAwake us failed s
  | .deepWakeDone full => Sys2Proof.Machine.execDeepWakeDone full s
  | .hbmSrExitRetry failed => Sys2Proof.Machine.execHbmSrExitRetry failed s
  | .sliceDozeDwellExpiry n => Sys2Proof.Machine.execSliceDozeDwellExpiry n s
  | .sliceNapDwellExpiry n => Sys2Proof.Machine.execSliceNapDwellExpiry n s
  | .sliceOffDwellExpiry n => Sys2Proof.Machine.execSliceOffDwellExpiry n s
  | .sliceWakeDone n => Sys2Proof.Machine.execSliceWakeDone n s
  | .prewakeLapse n => Sys2Proof.Machine.execPrewakeLapse n s
  | .pllRelockDone d ok => Sys2Proof.Machine.execPllRelockDone d ok s
  | .pmbusTransactionDone d ok a => Sys2Proof.Machine.execPmbusTransactionDone d ok a s
  | .pmbAlert mask => Sys2Proof.Machine.execPmbAlert mask s
  | .budgetStep power => Sys2Proof.Machine.execBudgetStep power s
  | .powerHoldExpiry pid => Sys2Proof.Machine.execPowerHoldExpiry pid s
  | .doorbellSqPut q put => Sys2Proof.Machine.execDoorbellSqPut q put s
  | .cqGetWrite q get => Sys2Proof.Machine.execCqGetWrite q get s
  | .packetFetch q slots => Sys2Proof.Machine.execPacketFetch q slots s
  | .fetchError q => Sys2Proof.Machine.execFetchError q s
  | .arbitrationWindowEnd => Sys2Proof.Machine.execArbitrationWindowEnd s
  | .admqEnable a cfg => Sys2Proof.Machine.execAdmqEnable a cfg s
  | .admqDisable a cfg => Sys2Proof.Machine.execAdmqDisable a cfg s
  | .nop q => Sys2Proof.Machine.execNop q s
  | .launch q host => Sys2Proof.Machine.execLaunch q host s
  | .ledgerAllocate n => Sys2Proof.Machine.execLedgerAllocate n s
  | .clusterPlace n => Sys2Proof.Machine.execClusterPlace n s
  | .launchComplete n => Sys2Proof.Machine.execLaunchComplete n s
  | .copy q => Sys2Proof.Machine.execCopy q s
  | .fill q => Sys2Proof.Machine.execFill q s
  | .convert q => Sys2Proof.Machine.execConvert q s
  | .pack q => Sys2Proof.Machine.execPack q s
  | .unpack q => Sys2Proof.Machine.execUnpack q s
  | .moverPieceComplete core host => Sys2Proof.Machine.execMoverPieceComplete core host s
  | .cimLoad q => Sys2Proof.Machine.execCimLoad q s
  | .cimExec q => Sys2Proof.Machine.execCimExec q s
  | .cimCalibrate q => Sys2Proof.Machine.execCimCalibrate q s
  | .tallyAdd q => Sys2Proof.Machine.execTallyAdd q s
  | .tallyWait q => Sys2Proof.Machine.execTallyWait q s
  | .semPost q => Sys2Proof.Machine.execSemPost q s
  | .semWait q => Sys2Proof.Machine.execSemWait q s
  | .fence q => Sys2Proof.Machine.execFence q s
  | .eventExport q => Sys2Proof.Machine.execEventExport q s
  | .eventImport q => Sys2Proof.Machine.execEventImport q s
  | .signalHostOnce q => Sys2Proof.Machine.execSignalHostOnce q s
  | .signalHostBind q => Sys2Proof.Machine.execSignalHostBind q s
  | .signalHostUnbind q => Sys2Proof.Machine.execSignalHostUnbind q s
  | .memAlloc q => Sys2Proof.Machine.execMemAlloc q s
  | .memFree q => Sys2Proof.Machine.execMemFree q s
  | .memMap q => Sys2Proof.Machine.execMemMap q s
  | .memUnmap q => Sys2Proof.Machine.execMemUnmap q s
  | .objRetain q => Sys2Proof.Machine.execObjRetain q s
  | .objRelease q => Sys2Proof.Machine.execObjRelease q s
  | .poolSet q => Sys2Proof.Machine.execPoolSet q s
  | .queueCreate q => Sys2Proof.Machine.execQueueCreate q s
  | .queueDestroy q => Sys2Proof.Machine.execQueueDestroy q s
  | .contextCreate q => Sys2Proof.Machine.execContextCreate q s
  | .contextDestroy q => Sys2Proof.Machine.execContextDestroy q s
  | .runBegin q => Sys2Proof.Machine.execRunBegin q s
  | .runEnd q => Sys2Proof.Machine.execRunEnd q s
  | .powerSetDevice q => Sys2Proof.Machine.execPowerSetDevice q s
  | .powerSetSlice q => Sys2Proof.Machine.execPowerSetSlice q s
  | .powerHold q => Sys2Proof.Machine.execPowerHold q s
  | .twConfig q => Sys2Proof.Machine.execTwConfig q s
  | .twRead q => Sys2Proof.Machine.execTwRead q s
  | .partCreate q rng => Sys2Proof.Machine.execPartCreate q rng s
  | .partDestroy q => Sys2Proof.Machine.execPartDestroy q s
  | .partScrubComplete p => Sys2Proof.Machine.execPartScrubComplete p s
  | .partQuery q => Sys2Proof.Machine.execPartQuery q s
  | .coreLayup q => Sys2Proof.Machine.execCoreLayup q s
  | .coreReturn q bistPass => Sys2Proof.Machine.execCoreReturn q bistPass s
  | .coreArrayError c unc => Sys2Proof.Machine.execCoreArrayError c unc s
  | .fleetForward q => Sys2Proof.Machine.execFleetForward q s
  | .fleetBarrier q => Sys2Proof.Machine.execFleetBarrier q s
  | .fleetQuery q => Sys2Proof.Machine.execFleetQuery q s
  | .nvmRead q => Sys2Proof.Machine.execNvmRead q s
  | .nvmWrite q data => Sys2Proof.Machine.execNvmWrite q data s
  | .querySerial q => Sys2Proof.Machine.execQuerySerial q s
  | .queryCores q => Sys2Proof.Machine.execQueryCores q s
  | .querySliceCores q => Sys2Proof.Machine.execQuerySliceCores q s
  | .queryTime q => Sys2Proof.Machine.execQueryTime q s
  | .queryFwVer q => Sys2Proof.Machine.execQueryFwVer q s
  | .queryHbmFree q => Sys2Proof.Machine.execQueryHbmFree q s
  | .queryDeckFree q => Sys2Proof.Machine.execQueryDeckFree q s
  | .querySyncFree q => Sys2Proof.Machine.execQuerySyncFree q s
  | .logRead q => Sys2Proof.Machine.execLogRead q s
  | .packetTimeout pid => Sys2Proof.Machine.execPacketTimeout pid s
  | .mma g fa fb t va ub us => Sys2Proof.Machine.execMma g fa fb t va ub us s
  | .mmaComplete g ok => Sys2Proof.Machine.execMmaComplete g ok s
  | .accZero g t => Sys2Proof.Machine.execAccZero g t s
  | .accRd g vd t => Sys2Proof.Machine.execAccRd g vd t s
  | .accWr g t vs => Sys2Proof.Machine.execAccWr g t vs s
  | .accSt g us t => Sys2Proof.Machine.execAccSt g us t s
  | .cvt g fs fd r vd vs a => Sys2Proof.Machine.execCvt g fs fd r vd vs a s
  | .cvtMx g fs fd r vd vs ud a us => Sys2Proof.Machine.execCvtMx g fs fd r vd vs ud a us s
  | .amaxRd g ud a => Sys2Proof.Machine.execAmaxRd g ud a s
  | .amaxScl g ud a fd => Sys2Proof.Machine.execAmaxScl g ud a fd s
  | .flgRd g ud => Sys2Proof.Machine.execFlgRd g ud s
  | .flgClr g => Sys2Proof.Machine.execFlgClr g s
  | .vectorOp g op f r vd va vb vc => Sys2Proof.Machine.execVectorOp g op f r vd va vb vc s
  | .sfuOp g fn vd vs => Sys2Proof.Machine.execSfuOp g fn vd vs s
  | .ld g vd va len signed host => Sys2Proof.Machine.execLd g vd va len signed host s
  | .st g va vs acc => Sys2Proof.Machine.execSt g va vs acc s
  | .ldC g vd va len signed => Sys2Proof.Machine.execLdC g vd va len signed s
  | .stC g va vs len => Sys2Proof.Machine.execStC g va vs len s
  | .atomC g op vd va vs vt => Sys2Proof.Machine.execAtomC g op vd va vs vt s
  | .ldTile g dst va len host => Sys2Proof.Machine.execLdTile g dst va len host s
  | .ldConst g vd va len signed host => Sys2Proof.Machine.execLdConst g vd va len signed host s
  | .ldLt g vd ua host => Sys2Proof.Machine.execLdLt g vd ua host s
  | .stLt g ua vs => Sys2Proof.Machine.execStLt g ua vs s
  | .fenceBlk g => Sys2Proof.Machine.execFenceBlk g s
  | .fenceClu g => Sys2Proof.Machine.execFenceClu g s
  | .fenceDev g => Sys2Proof.Machine.execFenceDev g s
  | .fenceSys g => Sys2Proof.Machine.execFenceSys g s
  | .barBlk g p ut => Sys2Proof.Machine.execBarBlk g p ut s
  | .barClu g p ut => Sys2Proof.Machine.execBarClu g p ut s
  | .barrierTimeout g => Sys2Proof.Machine.execBarrierTimeout g s
  | .bra g p label => Sys2Proof.Machine.execBra g p label s
  | .join g label => Sys2Proof.Machine.execJoin g label s
  | .exitLanes g => Sys2Proof.Machine.execExitLanes g s
  | .flagCombine b => Sys2Proof.Machine.execFlagCombine b s
  | .trap g => Sys2Proof.Machine.execTrap g s
  | .movStart g ud us => Sys2Proof.Machine.execMovStart g ud us s
  | .movWait g p us ut => Sys2Proof.Machine.execMovWait g p us ut s
  | .chdAlloc g ud us => Sys2Proof.Machine.execChdAlloc g ud us s
  | .chdFree g us => Sys2Proof.Machine.execChdFree g us s
  | .chdHdl g ud us => Sys2Proof.Machine.execChdHdl g ud us s
  | .cimMvm g ud us => Sys2Proof.Machine.execCimMvm g ud us s
  | .tallyAddInstr g p ud uo un => Sys2Proof.Machine.execTallyAddInstr g p ud uo un s
  | .tallyRd g ud uo => Sys2Proof.Machine.execTallyRd g ud uo s
  | .tallyWaitInstr g p ud uo ue ut => Sys2Proof.Machine.execTallyWaitInstr g p ud uo ue ut s
  | .semWaitInstr g own p ud uo un ut => Sys2Proof.Machine.execSemWaitInstr g own p ud uo un ut s
  | .semTry g own p ud uo un => Sys2Proof.Machine.execSemTry g own p ud uo un s
  | .semPostInstr g p ud uo un => Sys2Proof.Machine.execSemPostInstr g p ud uo un s
  | .semPostOwn g p ud uo => Sys2Proof.Machine.execSemPostOwn g p ud uo s
  | .semRd g ud uo => Sys2Proof.Machine.execSemRd g ud uo s
  | .syncOpApply d => Sys2Proof.Machine.execSyncOpApply d s
  | .gangWaitTimeout g => Sys2Proof.Machine.execGangWaitTimeout g s
  | .syncRecheck => Sys2Proof.Machine.execSyncRecheck s
  | .syncDbgRepair v => Sys2Proof.Machine.execSyncDbgRepair v s
  | .memAdd g ty va vs => Sys2Proof.Machine.execMemAdd g ty va vs s
  | .reductionApply slotBad => Sys2Proof.Machine.execReductionApply slotBad s
  | .xsAdd g vi vx => Sys2Proof.Machine.execXsAdd g vi vx s
  | .xsClr g us uw => Sys2Proof.Machine.execXsClr g us uw s
  | .xsRd g r ud us slotBad => Sys2Proof.Machine.execXsRd g r ud us slotBad s
  | .xsRaw g ud us slotBad => Sys2Proof.Machine.execXsRaw g ud us slotBad s
  | .dfrAdd g ty va vs => Sys2Proof.Machine.execDfrAdd g ty va vs s
  | .dfrXs g vi vx => Sys2Proof.Machine.execDfrXs g vi vx s
  | .blockCommit b => Sys2Proof.Machine.execBlockCommit b s
  | .commitArrive w ledgerBad => Sys2Proof.Machine.execCommitArrive w ledgerBad s
  | .contextStop c => Sys2Proof.Machine.execContextStop c s
  | .missReturn core r host => Sys2Proof.Machine.execMissReturn core r host s
  | .homeRequest line agent kind body => Sys2Proof.Machine.execHomeRequest line agent kind body s
  | .homeNackRetry line agent => Sys2Proof.Machine.execHomeNackRetry line agent s
  | .tenureEnd line agent => Sys2Proof.Machine.execTenureEnd line agent s
  | .forwardedRequest line => Sys2Proof.Machine.execForwardedRequest line s
  | .bisnpResponse line data => Sys2Proof.Machine.execBisnpResponse line data s
  | .combiningDrain unit => Sys2Proof.Machine.execCombiningDrain unit s
  | .lighterRmw => Sys2Proof.Machine.execLighterRmw s
  | .hbmPatrolScrub d errs => Sys2Proof.Machine.execHbmPatrolScrub d errs s
  | .deckPatrolScrub d tier3 err => Sys2Proof.Machine.execDeckPatrolScrub d tier3 err s
  | .cimOpStart d => Sys2Proof.Machine.execCimOpStart d s
  | .cimOpComplete slice host => Sys2Proof.Machine.execCimOpComplete slice host s
  | .cimCalibrationStart d => Sys2Proof.Machine.execCimCalibrationStart d s
  | .cimCalibrationDone d pass trim => Sys2Proof.Machine.execCimCalibrationDone d pass trim s
  | .mirrorUpdateSend => Sys2Proof.Machine.execMirrorUpdateSend s
  | .mirrorUpdateReceive => Sys2Proof.Machine.execMirrorUpdateReceive s
  | .signalWordUpdate fails => Sys2Proof.Machine.execSignalWordUpdate fails s
  | .announceSend => Sys2Proof.Machine.execAnnounceSend s
  | .announceReceive => Sys2Proof.Machine.execAnnounceReceive s
  | .numberingRoundEnd => Sys2Proof.Machine.execNumberingRoundEnd s
  | .assignReceive rng => Sys2Proof.Machine.execAssignReceive rng s
  | .routesReceive => Sys2Proof.Machine.execRoutesReceive s
  | .beatSend => Sys2Proof.Machine.execBeatSend s
  | .beatReceive => Sys2Proof.Machine.execBeatReceive s
  | .workerLost d => Sys2Proof.Machine.execWorkerLost d s
  | .workerAdrift => Sys2Proof.Machine.execWorkerAdrift s
  | .lossReceive => Sys2Proof.Machine.execLossReceive s
  | .powerMessageReceive => Sys2Proof.Machine.execPowerMessageReceive s
  | .forwardReceive => Sys2Proof.Machine.execForwardReceive s
  | .statusReplyReceive => Sys2Proof.Machine.execStatusReplyReceive s
  | .statusAckReceive => Sys2Proof.Machine.execStatusAckReceive s
  | .readDataReceive => Sys2Proof.Machine.execReadDataReceive s
  | .refusalReceive => Sys2Proof.Machine.execRefusalReceive s
  | .remoteWriteReceive => Sys2Proof.Machine.execRemoteWriteReceive s
  | .remoteReadReceive => Sys2Proof.Machine.execRemoteReadReceive s
  | .eventImportReadReceive => Sys2Proof.Machine.execEventImportReadReceive s
  | .tallyAddRemoteReceive => Sys2Proof.Machine.execTallyAddRemoteReceive s
  | .semRemoteReceive => Sys2Proof.Machine.execSemRemoteReceive s
  | .pairOpenReceive => Sys2Proof.Machine.execPairOpenReceive s
  | .fleetPairCfgWrite v => Sys2Proof.Machine.execFleetPairCfgWrite v s
  | .barrierStart => Sys2Proof.Machine.execBarrierStart s
  | .openReceive => Sys2Proof.Machine.execOpenReceive s
  | .barrierDrained => Sys2Proof.Machine.execBarrierDrained s
  | .drainedReceive => Sys2Proof.Machine.execDrainedReceive s
  | .drainTimeout => Sys2Proof.Machine.execDrainTimeout s
  | .closeReceive => Sys2Proof.Machine.execCloseReceive s
  | .appliedReceive => Sys2Proof.Machine.execAppliedReceive s
  | .advanceReceive => Sys2Proof.Machine.execAdvanceReceive s
  | .doneReceive => Sys2Proof.Machine.execDoneReceive s
  | .fleetSave v => Sys2Proof.Machine.execFleetSave v s
  | .fleetForget v => Sys2Proof.Machine.execFleetForget v s
  | .fleetClearId v => Sys2Proof.Machine.execFleetClearId v s
  | .rwStart c v data => Sys2Proof.Machine.execRwStart c v data s
  | .pilotStrictSlot p => Sys2Proof.Machine.execPilotStrictSlot p s
  | .getVersion tp src => Sys2Proof.Machine.execGetVersion tp src s
  | .getCapabilities tp src => Sys2Proof.Machine.execGetCapabilities tp src s
  | .negotiateAlgorithms tp src common => Sys2Proof.Machine.execNegotiateAlgorithms tp src common s
  | .getDigests tp src sess => Sys2Proof.Machine.execGetDigests tp src sess s
  | .getCertificate tp src sess slot off len => Sys2Proof.Machine.execGetCertificate tp src sess slot off len s
  | .challenge tp src slot nonce => Sys2Proof.Machine.execChallenge tp src slot nonce s
  | .getMeasurements tp src sess what nonce => Sys2Proof.Machine.execGetMeasurements tp src sess what nonce s
  | .keyExchange tp src exchange => Sys2Proof.Machine.execKeyExchange tp src exchange s
  | .finish tp src sess macOk => Sys2Proof.Machine.execFinish tp src sess macOk s
  | .endSession tp src sess => Sys2Proof.Machine.execEndSession tp src sess s
  | .doeDiscovery tp idx => Sys2Proof.Machine.execDoeDiscovery tp idx s
  | .nvmEraseDone => Sys2Proof.Machine.execNvmEraseDone s
  | .nvmPageDone readback => Sys2Proof.Machine.execNvmPageDone readback s
  | .logRelease v => Sys2Proof.Machine.execLogRelease v s
  | .intMaskWrite v => Sys2Proof.Machine.execIntMaskWrite v s
  | .vfsMaskWrite n v => Sys2Proof.Machine.execVfsMaskWrite n v s
  | .registerWrite sp off bytes => Sys2Proof.Machine.execRegisterWrite sp off bytes s
  | .lowHalfReadLatch sp off n => Sys2Proof.Machine.execLowHalfReadLatch sp off n s
  | .mctpPacketReceive p => Sys2Proof.Machine.execMctpPacketReceive p s
  | .mctpReassemblyTimeout b src => Sys2Proof.Machine.execMctpReassemblyTimeout b src s
  | .smbusClockLowTimeout => Sys2Proof.Machine.execSmbusClockLowTimeout s
  | .smbusAlertResponse => Sys2Proof.Machine.execSmbusAlertResponse s
  | .setEndpointId b src eid => Sys2Proof.Machine.execSetEndpointId b src eid s
  | .getEndpointId b src => Sys2Proof.Machine.execGetEndpointId b src s
  | .getEndpointUuid b src => Sys2Proof.Machine.execGetEndpointUuid b src s
  | .getMctpVersionSupport b src ty => Sys2Proof.Machine.execGetMctpVersionSupport b src ty s
  | .getMessageTypeSupport b src => Sys2Proof.Machine.execGetMessageTypeSupport b src s
  | .getTid b src => Sys2Proof.Machine.execGetTid b src s
  | .setTid b src t => Sys2Proof.Machine.execSetTid b src t s
  | .getPldmVersion b src ty => Sys2Proof.Machine.execGetPldmVersion b src ty s
  | .getPldmTypes b src => Sys2Proof.Machine.execGetPldmTypes b src s
  | .getPldmCommands b src ty => Sys2Proof.Machine.execGetPldmCommands b src ty s
  | .getPdrRepositoryInfo b src => Sys2Proof.Machine.execGetPdrRepositoryInfo b src s
  | .getPdr b src handle => Sys2Proof.Machine.execGetPdr b src handle s
  | .getSensorReading b src id => Sys2Proof.Machine.execGetSensorReading b src id s
  | .getStateSensorReadings b src id => Sys2Proof.Machine.execGetStateSensorReadings b src id s
  | .setEventReceiver b src receiver => Sys2Proof.Machine.execSetEventReceiver b src receiver s
  | .getEventReceiver b src => Sys2Proof.Machine.execGetEventReceiver b src s
  | .pldmEventRetry => Sys2Proof.Machine.execPldmEventRetry s
  | .requestUpdate b src maxTransfer => Sys2Proof.Machine.execRequestUpdate b src maxTransfer s
  | .getFirmwareParameters b src => Sys2Proof.Machine.execGetFirmwareParameters b src s
  | .passComponentTable b src => Sys2Proof.Machine.execPassComponentTable b src s
  | .updateComponent b src component size => Sys2Proof.Machine.execUpdateComponent b src component size s
  | .firmwareDataResponse b src bytes => Sys2Proof.Machine.execFirmwareDataResponse b src bytes s
  | .verifyComplete img => Sys2Proof.Machine.execVerifyComplete img s
  | .activateFirmware b src selfContained => Sys2Proof.Machine.execActivateFirmware b src selfContained s
  | .getStatus b src => Sys2Proof.Machine.execGetStatus b src s
  | .cancelUpdateComponent b src => Sys2Proof.Machine.execCancelUpdateComponent b src s
  | .cancelUpdate b src => Sys2Proof.Machine.execCancelUpdate b src s
  | .updateIdleTimeout => Sys2Proof.Machine.execUpdateIdleTimeout s
  | .bypass tdi => Sys2Proof.Machine.execBypass tdi s
  | .idcode tdi => Sys2Proof.Machine.execIdcode tdi s
  | .samplePreload pins tdi => Sys2Proof.Machine.execSamplePreload pins tdi s
  | .extest pins tdi => Sys2Proof.Machine.execExtest pins tdi s
  | .clamp pins tdi => Sys2Proof.Machine.execClamp pins tdi s
  | .highz pins tdi => Sys2Proof.Machine.execHighz pins tdi s
  | .extestPulse pins tdi => Sys2Proof.Machine.execExtestPulse pins tdi s
  | .extestTrain pins tdi => Sys2Proof.Machine.execExtestTrain pins tdi s
  | .moverDescriptorComplete core host => Sys2Proof.Machine.execMoverDescriptorComplete core host s
  | .cimLoadComplete pid host => Sys2Proof.Machine.execCimLoadComplete pid host s
  | .sysRefclkStop => Sys2Proof.Machine.execSysRefclkStop s
  | .ideKmRequest tp src sess km => Sys2Proof.Machine.execIdeKmRequest tp src sess km s

end Sys2Proof.Machine
end

