-- ==== Sys2Proof/Machine/Tick.lean ====
section
/-! DEFINITION. One tick of the always-on clock, 125 ns: what happens when no command waits (log 1). -/

namespace Sys2Proof.Machine

open Sys2Proof

/-- R100, R101: harbour time advances by TIME_RATE, or takes TIME_SET. -/
def State.tickTime (s : State) : State :=
  let t := if s.time.setPending && !s.time.setAtPps then s.loadSet
    else s.onTime fun x => { x with harbour := (x.harbour + x.rate.toNat) % 2 ^ 88 }
  t.onTime fun x => { x with tick := x.tick + 1 }

/-- R103: TIME_OUT falls again once its width has passed. -/
def State.tickOut (s : State) : State :=
  match s.tw.timeOutUntil with
  | some n => if n ≤ s.time.tick then s.onTw fun w => { w with timeOutUntil := none } else s
  | none => s

/-- R461: corrected errors of a second that is over are logged (log 8). -/
def State.tickLog (s : State) : State :=
  let sec := s.nowNs / 1000000000
  s.log.corr.foldl (fun t e =>
    if e.2.1 = sec then t
    else (t.logOcc { event := 0x301, sev := 1, unit := e.1, payload := toLe 4 e.2.2 }).onLog fun l => { l with corr := l.corr.drop e.1 }) s

/-- R122, R124: an accepted order for DEEP is carried out once the packets that were dispatched before it have completed, but
for those that only wait, and the store has nothing in progress (log 84). -/
def State.tickDeep (s : State) : State :=
  if s.pwr.deepAccepted && s.awake && s.q.inflight.all (fun i => waitOp i.pkt.op || i.sleepOrder || i.deepOrder)
      && s.nvm.cur.isNone && s.nvm.slotBusy.isNone then s.enterDeep
  else s

/-- R396: how long an ASLEEP worker has had no route. -/
def State.tickFleet (s : State) : State :=
  if s.fleet.dev.any fun e => decide (e.2.st = .asleep) then
    s.onFleet fun f => { f with dev := f.dev.map fun e =>
      (e.1, { e.2 with cutFrom := if e.2.st = .asleep ∧ (s.egressUp e.1).isNone then some (e.2.cutFrom.getD s.time.tick) else none }) }
  else s

/-- One tick. Before the always-on domain leaves reset nothing runs (R24). -/
def State.tick (s : State) : State :=
  if s.ao.porReleased then s.tickTime.tickOut.tickLog.tickFleet.tickDeep.settle else s

end Sys2Proof.Machine
end

