-- ==== Sys2Proof/WellFormed.lean ====
section
/-! DEFINITION. Which commands can be sent at all: what they name lies in the ranges the spec gives it. A register number
of a kernel instruction is bounded by its field only; one beyond the gang's own registers is the instruction's fault to
report (REG_RANGE, R218). -/

namespace Sys2Proof

/-- A queue number that can exist: 32 admin queues, 4,080 queues of each of 32 partitions, 32 forward queues (R132, R388,
R471). -/
def QueueId.wf : QueueId → Bool
  | .admin a => decide (a < 32)
  | .part p k => decide (p < 32) && decide (k < 4080)
  | .fwd k => decide (k < 32)

/-- A register window that exists (R468, R471). -/
def RegSpace.wf : RegSpace → Bool
  | .pf => true
  | .vf n => decide (n < 32)
  | .msixCtl fn => decide (fn < 33)

/-- A gang of 768 cores with 4 quarters of 16 slots (R209, R210). -/
def gangWf (g : Nat) : Bool := decide (g < 49152)

/-- A number below the count of its kind. -/
def below (n : Nat) (k : Nat) : Bool := decide (k < n)

/-- An MCTP packet: two bindings, 8-bit endpoints, 64 B transmission unit (R481). -/
def MctpPacket.wf (p : MctpPacket) : Bool := below 2 p.binding && below 256 p.source && decide (p.payload.length ≤ 64)

/-- The command can be sent. -/
def Instr.wf : Instr → Bool
  | .vddAoPorRelease => true
  | .vddAoDrop => true
  | .twRomCheckDone _ => true
  | .roleSelSample _ => true
  | .stage5RailPass _ => true
  | .bootStageTimeout _ => true
  | .perstNAssert _ _ => true
  | .perstNRelease _ => true
  | .hostLinkReset => true
  | .pfFlr => true
  | .vfFlr n _ => below 32 n
  | .pilotWatchdogExpiry => true
  | .hubPllLock => true
  | .hubPllLockTimeout => true
  | .imageVerifyDone _ => true
  | .pilotCheckIn => true
  | .pilotStartTimeout => true
  | .fenceMapLoad => true
  | .bistComplete _ _ _ => true
  | .hbmTrainComplete _ => true
  | .hostLinkTrained _ _ _ => true
  | .hostLinkStageDone => true
  | .fleetHailQuiet => true
  | .mboxNop _ => true
  | .mboxLoadImage _ _ => true
  | .mboxReboot _ => true
  | .mboxConfirm _ => true
  | .vfEnable _ => true
  | .hostBar2Access _ _ => true
  | .hostCxlMemRequest _ _ => true
  | .hostL12Exit => true
  | .d3hotRequest => true
  | .bar2Resize _ _ => true
  | .atsInvalidate _ _ _ => true
  | .hostSnoop _ _ => true
  | .ptmDialogue _ => true
  | .hwsFlitReceive p _ => below 8 p
  | .hwsReplayTimeout p => below 8 p
  | .hwsReplayLimit p => below 8 p
  | .hwsSignalLoss p => below 8 p
  | .hwsFecErrorBurst p => below 8 p
  | .hwsDetectEnergy p _ => below 8 p
  | .hwsSymbolLock p _ => below 8 p
  | .hwsCoeffRequestReceive p _ _ _ => below 8 p
  | .hwsLaneMaskReceive p _ _ => below 8 p
  | .hwsHailReceive p _ => below 8 p
  | .hwsCreditGrantReceive p _ => below 8 p
  | .hwsGrantAckReceive p _ => below 8 p
  | .hwsRejectionReceive p _ => below 8 p
  | .hwsRecordRepeat p => below 8 p
  | .hwsStateTimeout p => below 8 p
  | .hwsAttemptGapExpiry p => below 8 p
  | .hwsSeriesTimeout p => below 8 p
  | .hwsPeerDetectPattern p => below 8 p
  | .hwsDownSignalSense p => below 8 p
  | .hwsRetrain p _ => below 8 p
  | .hwsLpiEntry p => below 8 p
  | .hwsLpiExit p => below 8 p
  | .adcConversionDone _ => true
  | .safetyScan _ _ _ => true
  | .sequenceRunStart => true
  | .seqStartWrite n _ => below 8 n
  | .twTimerExpiry t => below 8 t
  | .digitalInputAccept _ _ _ => true
  | .ppsLost => true
  | .channelStale ch => below 48 ch
  | .watchBoundary => true
  | .timeOutSecond => true
  | .timeSet _ => true
  | .twSamplePop => true
  | .twTrigPop => true
  | .twRuleWrite n _ _ => below 64 n
  | .twThermLimWrite _ => true
  | .twStepWrite n k _ => below 8 n && below 32 k
  | .twWatchWrite _ => true
  | .tripClear => true
  | .hardCut die => below 8 die
  | .idleDwellExpiry => true
  | .sleepPendingEntry => true
  | .deviceAwake _ _ => true
  | .deepWakeDone _ => true
  | .hbmSrExitRetry _ => true
  | .sliceDozeDwellExpiry n => below 32 n
  | .sliceNapDwellExpiry n => below 32 n
  | .sliceOffDwellExpiry n => below 32 n
  | .sliceWakeDone n => below 32 n
  | .prewakeLapse n => below 32 n
  | .pllRelockDone d _ => below 8 d
  | .pmbusTransactionDone d _ _ => below 8 d
  | .pmbAlert _ => true
  | .budgetStep _ => true
  | .powerHoldExpiry _ => true
  | .doorbellSqPut q _ => q.wf
  | .cqGetWrite q _ => q.wf
  | .packetFetch q _ => q.wf
  | .fetchError q => q.wf
  | .arbitrationWindowEnd => true
  | .admqEnable a _ => below 32 a
  | .admqDisable a _ => below 32 a
  | .nop q => q.wf
  | .launch q _ => q.wf
  | .ledgerAllocate _ => true
  | .clusterPlace _ => true
  | .launchComplete _ => true
  | .copy q => q.wf
  | .fill q => q.wf
  | .convert q => q.wf
  | .pack q => q.wf
  | .unpack q => q.wf
  | .moverPieceComplete core _ => below 768 core
  | .cimLoad q => q.wf
  | .cimExec q => q.wf
  | .cimCalibrate q => q.wf
  | .tallyAdd q => q.wf
  | .tallyWait q => q.wf
  | .semPost q => q.wf
  | .semWait q => q.wf
  | .fence q => q.wf
  | .eventExport q => q.wf
  | .eventImport q => q.wf
  | .signalHostOnce q => q.wf
  | .signalHostBind q => q.wf
  | .signalHostUnbind q => q.wf
  | .memAlloc q => q.wf
  | .memFree q => q.wf
  | .memMap q => q.wf
  | .memUnmap q => q.wf
  | .objRetain q => q.wf
  | .objRelease q => q.wf
  | .poolSet q => q.wf
  | .queueCreate q => q.wf
  | .queueDestroy q => q.wf
  | .contextCreate q => q.wf
  | .contextDestroy q => q.wf
  | .runBegin q => q.wf
  | .runEnd q => q.wf
  | .powerSetDevice q => q.wf
  | .powerSetSlice q => q.wf
  | .powerHold q => q.wf
  | .twConfig q => q.wf
  | .twRead q => q.wf
  | .partCreate q _ => q.wf
  | .partDestroy q => q.wf
  | .partScrubComplete p => below 32 p
  | .partQuery q => q.wf
  | .coreLayup q => q.wf
  | .coreReturn q _ => q.wf
  | .coreArrayError c _ => below 768 c
  | .fleetForward q => q.wf
  | .fleetBarrier q => q.wf
  | .fleetQuery q => q.wf
  | .nvmRead q => q.wf
  | .nvmWrite q _ => q.wf
  | .querySerial q => q.wf
  | .queryCores q => q.wf
  | .querySliceCores q => q.wf
  | .queryTime q => q.wf
  | .queryFwVer q => q.wf
  | .queryHbmFree q => q.wf
  | .queryDeckFree q => q.wf
  | .querySyncFree q => q.wf
  | .logRead q => q.wf
  | .packetTimeout _ => true
  | .mma g _ _ _ va ub us => gangWf g && below 256 va && below 64 ub && below 64 us
  | .mmaComplete g _ => gangWf g
  | .accZero g _ => gangWf g
  | .accRd g vd _ => gangWf g && below 256 vd
  | .accWr g _ vs => gangWf g && below 256 vs
  | .accSt g us _ => gangWf g && below 64 us
  | .cvt g _ _ _ vd vs _ => gangWf g && below 256 vd && below 256 vs
  | .cvtMx g _ _ _ vd vs ud _ _ => gangWf g && below 256 vd && below 256 vs && below 64 ud
  | .amaxRd g ud _ => gangWf g && below 64 ud
  | .amaxScl g ud _ _ => gangWf g && below 64 ud
  | .flgRd g ud => gangWf g && below 64 ud
  | .flgClr g => gangWf g
  | .vectorOp g _ _ _ vd va vb vc => gangWf g && below 256 vd && below 256 va && below 256 vb && below 256 vc
  | .sfuOp g _ vd vs => gangWf g && below 256 vd && below 256 vs
  | .ld g vd va _ _ _ => gangWf g && below 256 vd && below 256 va
  | .st g va vs _ => gangWf g && below 256 va && below 256 vs
  | .ldC g vd va _ _ => gangWf g && below 256 vd && below 256 va
  | .stC g va vs _ => gangWf g && below 256 va && below 256 vs
  | .atomC g _ vd va vs vt => gangWf g && below 256 vd && below 256 va && below 256 vs && below 256 vt
  | .ldTile g _ va _ _ => gangWf g && below 256 va
  | .ldConst g vd va _ _ _ => gangWf g && below 256 vd && below 256 va
  | .ldLt g vd ua _ => gangWf g && below 256 vd && below 64 ua
  | .stLt g ua vs => gangWf g && below 64 ua && below 256 vs
  | .fenceBlk g => gangWf g
  | .fenceClu g => gangWf g
  | .fenceDev g => gangWf g
  | .fenceSys g => gangWf g
  | .barBlk g p ut => gangWf g && below 9 p && below 64 ut
  | .barClu g p ut => gangWf g && below 9 p && below 64 ut
  | .barrierTimeout g => gangWf g
  | .bra g p _ => gangWf g && below 9 p
  | .join g _ => gangWf g
  | .exitLanes g => gangWf g
  | .flagCombine _ => true
  | .trap g => gangWf g
  | .movStart g ud us => gangWf g && below 64 ud && below 64 us
  | .movWait g p us ut => gangWf g && below 9 p && below 64 us && below 64 ut
  | .chdAlloc g ud us => gangWf g && below 64 ud && below 64 us
  | .chdFree g us => gangWf g && below 64 us
  | .chdHdl g ud us => gangWf g && below 64 ud && below 64 us
  | .cimMvm g ud us => gangWf g && below 64 ud && below 64 us
  | .tallyAddInstr g p ud uo un => gangWf g && below 9 p && below 64 ud && below 64 uo && below 64 un
  | .tallyRd g ud uo => gangWf g && below 64 ud && below 64 uo
  | .tallyWaitInstr g p ud uo ue ut => gangWf g && below 9 p && below 64 ud && below 64 uo && below 64 ue && below 64 ut
  | .semWaitInstr g _ p ud uo un ut => gangWf g && below 9 p && below 64 ud && below 64 uo && below 64 un && below 64 ut
  | .semTry g _ p ud uo un => gangWf g && below 9 p && below 64 ud && below 64 uo && below 64 un
  | .semPostInstr g p ud uo un => gangWf g && below 9 p && below 64 ud && below 64 uo && below 64 un
  | .semPostOwn g p ud uo => gangWf g && below 9 p && below 64 ud && below 64 uo
  | .semRd g ud uo => gangWf g && below 64 ud && below 64 uo
  | .syncOpApply d => below 8 d
  | .gangWaitTimeout g => gangWf g
  | .syncRecheck => true
  | .syncDbgRepair _ => true
  | .memAdd g _ va vs => gangWf g && below 256 va && below 256 vs
  | .reductionApply _ => true
  | .xsAdd g vi vx => gangWf g && below 256 vi && below 256 vx
  | .xsClr g us uw => gangWf g && below 64 us && below 64 uw
  | .xsRd g _ ud us _ => gangWf g && below 64 ud && below 64 us
  | .xsRaw g ud us _ => gangWf g && below 64 ud && below 64 us
  | .dfrAdd g _ va vs => gangWf g && below 256 va && below 256 vs
  | .dfrXs g vi vx => gangWf g && below 256 vi && below 256 vx
  | .blockCommit _ => true
  | .commitArrive _ _ => true
  | .contextStop _ => true
  | .missReturn core _ _ => below 768 core
  | .homeRequest _ agent _ b => below 10 agent && below 16 b.way
  | .homeNackRetry _ agent => below 10 agent
  | .tenureEnd _ agent => below 10 agent
  | .forwardedRequest _ => true
  | .bisnpResponse _ _ => true
  | .combiningDrain u => below 768 u.core
  | .lighterRmw => true
  | .hbmPatrolScrub d _ => below 8 d
  | .deckPatrolScrub d _ _ => below 8 d
  | .cimOpStart d => below 8 d
  | .cimOpComplete slice _ => below 32 slice
  | .cimCalibrationStart d => below 8 d
  | .cimCalibrationDone d _ _ => below 8 d
  | .mirrorUpdateSend => true
  | .mirrorUpdateReceive => true
  | .signalWordUpdate _ => true
  | .announceSend => true
  | .announceReceive => true
  | .numberingRoundEnd => true
  | .assignReceive _ => true
  | .routesReceive => true
  | .beatSend => true
  | .beatReceive => true
  | .workerLost d => below 64 d
  | .workerAdrift => true
  | .lossReceive => true
  | .powerMessageReceive => true
  | .forwardReceive => true
  | .statusReplyReceive => true
  | .statusAckReceive => true
  | .readDataReceive => true
  | .refusalReceive => true
  | .remoteWriteReceive => true
  | .remoteReadReceive => true
  | .eventImportReadReceive => true
  | .tallyAddRemoteReceive => true
  | .semRemoteReceive => true
  | .pairOpenReceive => true
  | .fleetPairCfgWrite _ => true
  | .barrierStart => true
  | .openReceive => true
  | .barrierDrained => true
  | .drainedReceive => true
  | .drainTimeout => true
  | .closeReceive => true
  | .appliedReceive => true
  | .advanceReceive => true
  | .doneReceive => true
  | .fleetSave _ => true
  | .fleetForget _ => true
  | .fleetClearId _ => true
  | .rwStart c _ _ => below 4 c
  | .pilotStrictSlot p => below 32 p
  | .getVersion tp _ => below 35 tp
  | .getCapabilities tp _ => below 35 tp
  | .negotiateAlgorithms tp _ _ => below 35 tp
  | .getDigests tp _ _ => below 35 tp
  | .getCertificate tp _ _ _ _ _ => below 35 tp
  | .challenge tp _ _ _ => below 35 tp
  | .getMeasurements tp _ _ _ _ => below 35 tp
  | .keyExchange tp _ _ => below 35 tp
  | .finish tp _ _ _ => below 35 tp
  | .endSession tp _ _ => below 35 tp
  | .doeDiscovery tp _ => below 35 tp
  | .nvmEraseDone => true
  | .nvmPageDone _ => true
  | .logRelease _ => true
  | .intMaskWrite _ => true
  | .vfsMaskWrite n _ => below 32 n
  | .registerWrite sp _ _ => sp.wf
  | .lowHalfReadLatch sp _ _ => sp.wf
  | .mctpPacketReceive p => p.wf
  | .mctpReassemblyTimeout b src => below 2 b && below 256 src
  | .smbusClockLowTimeout => true
  | .smbusAlertResponse => true
  | .setEndpointId b src _ => below 2 b && below 256 src
  | .getEndpointId b src => below 2 b && below 256 src
  | .getEndpointUuid b src => below 2 b && below 256 src
  | .getMctpVersionSupport b src _ => below 2 b && below 256 src
  | .getMessageTypeSupport b src => below 2 b && below 256 src
  | .getTid b src => below 2 b && below 256 src
  | .setTid b src _ => below 2 b && below 256 src
  | .getPldmVersion b src _ => below 2 b && below 256 src
  | .getPldmTypes b src => below 2 b && below 256 src
  | .getPldmCommands b src _ => below 2 b && below 256 src
  | .getPdrRepositoryInfo b src => below 2 b && below 256 src
  | .getPdr b src _ => below 2 b && below 256 src
  | .getSensorReading b src _ => below 2 b && below 256 src
  | .getStateSensorReadings b src _ => below 2 b && below 256 src
  | .setEventReceiver b src _ => below 2 b && below 256 src
  | .getEventReceiver b src => below 2 b && below 256 src
  | .pldmEventRetry => true
  | .requestUpdate b src _ => below 2 b && below 256 src
  | .getFirmwareParameters b src => below 2 b && below 256 src
  | .passComponentTable b src => below 2 b && below 256 src
  | .updateComponent b src _ _ => below 2 b && below 256 src
  | .firmwareDataResponse b src _ => below 2 b && below 256 src
  | .verifyComplete _ => true
  | .activateFirmware b src _ => below 2 b && below 256 src
  | .getStatus b src => below 2 b && below 256 src
  | .cancelUpdateComponent b src => below 2 b && below 256 src
  | .cancelUpdate b src => below 2 b && below 256 src
  | .updateIdleTimeout => true
  | .bypass _ => true
  | .idcode _ => true
  | .samplePreload _ _ => true
  | .extest _ _ => true
  | .clamp _ _ => true
  | .highz _ _ => true
  | .extestPulse _ _ => true
  | .extestTrain _ _ => true
  | .moverDescriptorComplete core _ => below 768 core
  | .cimLoadComplete _ _ => true
  | .sysRefclkStop => true
  | .ideKmRequest tp _ _ _ => below 35 tp

end Sys2Proof
end

