-- ==== Sys2Proof/Safety.lean ====
section
/-! DEFINITION. What counts as a safe run: the block completes its steps, and only commands that can be sent wait. -/

namespace Sys2Proof.Machine

/-- Device memory is in canonical form: addresses strictly rising, no zero byte listed (log 3). -/
def Memory.wf (s : State) : Bool := Tab.wf (α := Byte) 0 s.mem.bytes

/-- The clock and voltage record of a die. -/
def State.die (s : State) (d : Nat) : Die := s.pwr.die.look d {}

/-- The packet `p` at the head of queue `q` has opcode `op`, may be dispatched now (R136, R146, R152, R182), and completes
with none of the statuses that are judged before its own effect (R161, R124, R436). -/
def State.Runs (s : State) (q : QueueId) (op : Nat) (p : Packet) : Prop := s.head q op = some p ∧ s.common p = none

/-- The state in which an instruction of gang `g` that may issue is judged and has its effect: the gang and its block are
marked as having issued one (R234). -/
def State.issued (s : State) (g : Nat) : State :=
  (s.onGang g fun x => { x with issued := true }).onBlk (s.gang g).block fun b => { b with started := true }

/-- The oldest message that has arrived and that `sel` selects is `m`, from port `port`; `x` is the state once it has left
and its credits have returned (R66, R397), and its sender is no LOST worker (R398). -/
def State.Takes (s : State) (sel : FleetMsg → Bool) (port : Nat) (m : FleetMsg) (x : State) : Prop :=
  ∃ pool r, takeFirst (fun e => sel e.2.2) s.fleet.inbox = some ((port, pool, m), r) ∧
    x = (s.onFleet fun f => { f with inbox := r }).giveCredit port pool m ∧ x.fromLost m = false

/-- A line is coherent: where an agent holds it in M or E no other holds it at all, and where one holds it in O no other
owns it (R301, Table 12-7). -/
def DirLine.coherent (d : DirLine) : Prop := ∀ a b, a ≠ b →
  ((d.at_ a = .m ∨ d.at_ a = .e) → d.at_ b = .i) ∧ (d.at_ a = .o → (d.at_ b).owns = false)

end Sys2Proof.Machine

namespace Sys2Proof.Safety

open Sys2Proof.Machine

/-- The step answers a next state. -/
def Completes (s : State) : Prop := ∃ t, step s = .next t

/-- Every waiting command can be sent. -/
def QueueWf (s : State) : Prop := s.pending.all Instr.wf = true

end Sys2Proof.Safety
end

