-- ==== Sys2Proof/Certificates/Slice0/Obligations.lean ====
section
/-! DEFINITION. The statements about the block: what each command completes with and leaves alone, whole-machine rules,
invariants and reset. -/

open Sys2Proof Sys2Proof.Machine

/-- The always-on stages. The power-on reset releases with the trim loaded and harbour time zero; the ROM check that passes
starts sampling and stage 4, one that fails is run once more, a second failure halts with 0x0301; three equal ROLE_SEL
samples latch the role and end stage 4, the reserved value 3 halts with 0x0401. It rests on R24, R25, R26. -/
def Obligations.AlwaysOnStages : Prop :=
  (∀ s : State, s.ao.porReleased = false →
    exec .vddAoPorRelease s = .next { s with
      ao := { s.ao with porReleased := true, trimLoaded := true }
      boot := { s.boot with stage := 3 }
      time := { s.time with harbour := 0, tick := 0 } }) ∧
  (∀ s : State, s.boot.stage = 3 → s.boot.halt = false → s.ao.porReleased = true →
    exec (.twRomCheckDone true) s = .next { s with
      ao := { s.ao with twRomOk := true }
      tw := { s.tw with sampling := true }
      boot := { s.boot with stage := 4 } }) ∧
  (∀ s : State, s.boot.stage = 3 → s.boot.halt = false → s.ao.porReleased = true → s.ao.twRomFails = 0 →
    exec (.twRomCheckDone false) s = .next { s with ao := { s.ao with twRomFails := 1 } }) ∧
  (∀ s : State, s.boot.stage = 3 → s.boot.halt = false → s.ao.porReleased = true → s.ao.twRomFails ≠ 0 →
    ∃ t, exec (.twRomCheckDone false) s = .next t ∧ t.boot.halt = true ∧ t.boot.stage = 3 ∧ t.boot.failCode = 0x0301 ∧
      t.ao.hubOut = s.ao.perstReleased) ∧
  (∀ (s : State) (v : BitVec 2), s.boot.stage = 4 → s.boot.halt = false → s.ao.roleSamples.length < 2 →
    exec (.roleSelSample v) s = .next { s with ao := { s.ao with roleSamples := s.ao.roleSamples ++ [v] } }) ∧
  (∀ (s : State) (v : BitVec 2), s.boot.stage = 4 → s.boot.halt = false → s.ao.roleSamples = [v, v] → v ≠ 3 →
    ∃ t, exec (.roleSelSample v) s = .next t ∧ t.ao.role = some v ∧ t.boot.stage = 5 ∧ t.boot.halt = false ∧
      t.ao.hubOut = s.ao.perstReleased) ∧
  (∀ s : State, s.boot.stage = 4 → s.boot.halt = false → s.ao.roleSamples = [3, 3] →
    ∃ t, exec (.roleSelSample 3) s = .next t ∧ t.boot.halt = true ∧ t.boot.stage = 4 ∧ t.boot.failCode = 0x0401)

/-- Resets. A drop of VDD_AO is a cold reset, after which only the persistent store, the fuse block and the pins keep
anything; PERST_N low for 10 µs or more, or a hot reset of the link, is a warm reset, which clears what lies beyond the
always-on domain and restarts the boot at stage 5; less than 9 µs of PERST_N does nothing. An FLR on the physical function
of a device in stage 5 or later goes back to stage 7 with the host link as it was and everything beyond the always-on domain
cleared; the watchdog does the same, and logs 0x604 first. A page of the store that is being programmed ends
first, and no write is left. An FLR of a VF without a partition clears its own registers. It
rests on R24, R41, R46, R28, R41, R42, R43, R515. -/
def Obligations.Resets : Prop :=
  (∀ s : State, ∃ t, exec .vddAoDrop s = .next t ∧ t.boot = {} ∧ t.host = {} ∧ t.hws = [] ∧ t.tw = {} ∧ t.time = {} ∧
    t.pwr = {} ∧ t.q = {} ∧ t.obj = {} ∧ t.sync = {} ∧ t.red = {} ∧ t.core = {} ∧ t.work = {} ∧ t.mem = {} ∧ t.cim = {} ∧
    t.fleet = {} ∧ t.log = {} ∧ t.ao.porReleased = false ∧ t.ao.role = none ∧ t.ao.minSvn = s.ao.minSvn ∧
    t.ao.perstReleased = s.ao.perstReleased ∧ t.nvm.queue = [] ∧ t.nvm.cur = none ∧
    (s.nvm.cur = none → t.nvm.slot = s.nvm.slot)) ∧
  (∀ (s : State) (ns : Nat) (b : Bool), ns < 9000 → exec (.perstNAssert ns b) s = .next s) ∧
  (∀ (s : State) (ns : Nat) (b : Bool), 10000 ≤ ns → 5 ≤ s.boot.stage →
    ∃ t, exec (.perstNAssert ns b) s = .next t ∧ t.ao.perstReleased = false ∧ t.ao.hubOut = false ∧ t.boot.stage = 5 ∧
      t.boot.halt = false ∧ t.boot.ready = false ∧ t.q = {} ∧ t.obj = {} ∧ t.core = {} ∧ t.work = {} ∧ t.sync = {} ∧
      t.fleet = {} ∧ t.mem.bytes = [] ∧ t.time = s.time ∧ t.tw.rule = s.tw.rule ∧ t.nvm.cur = none ∧
      (s.nvm.cur = none → t.nvm.slot = s.nvm.slot) ∧ t.ao.minSvn = s.ao.minSvn) ∧
  (∀ s : State, s.ao.hubOut = true → s.pwr.dev ≠ .deep → 5 ≤ s.boot.stage →
    ∃ t, exec .hostLinkReset s = .next t ∧ t.boot.stage = 5 ∧ t.boot.halt = false ∧ t.q = {} ∧ t.core = {} ∧
      t.time = s.time ∧ t.tw.rule = s.tw.rule ∧ (s.nvm.cur = none → t.nvm.slot = s.nvm.slot) ∧ t.host.msix = []) ∧
  (∀ (s : State) (sel : BitVec 2), 5 ≤ s.boot.stage →
    exec (.perstNRelease sel) s = .next { s with
      ao := { s.ao with perstReleased := true, smbAddrSel := sel, hubOut := true }
      boot := { s.boot with perstTick := s.time.tick } }) ∧
  (∀ s : State, 5 ≤ s.boot.stage → s.ao.hubOut = true → s.pwr.dev ≠ .deep →
    ∃ t, exec .pfFlr s = .next t ∧ t.boot.stage = 7 ∧ t.boot.ready = false ∧ t.boot.hubPll = s.boot.hubPll ∧
      t.q = {} ∧ t.obj = {} ∧ t.core = {} ∧ t.work = {} ∧ t.mem.bytes = [] ∧ t.time = s.time ∧ t.tw.rule = s.tw.rule ∧
      t.host.width = s.host.width ∧ t.host.msixEnable = false) ∧
  (∀ s : State, 8 ≤ s.boot.stage → s.ao.hubOut = true → s.boot.halt = false → s.pwr.dev ≠ .sleep → s.pwr.dev ≠ .deep →
    ∃ t, exec .pilotWatchdogExpiry s = .next t ∧ t.boot.stage = 7 ∧ t.q = {} ∧ t.core = {} ∧ t.work = {} ∧
      t.time = s.time) ∧
  (∀ (s : State) (rng : Bool) (n : Nat), n < 32 → s.boot.cfgAnswers = true → s.host.linkDown = false →
    s.boot.ready = true → s.host.vfEnable = true → s.pwr.dev ≠ .sleep → s.partExists n = false →
    exec (.vfFlr n rng) s = .next (State.settle { s with
      host := { s.host with vfs := s.host.vfs.drop n }
      mgmt := { s.mgmt with
        spdm := s.mgmt.spdm.drop (n + 3), sessions := s.mgmt.sessions.filter fun e => e.1 != n + 3 } }))

/-- Stages 5 to 8. A rail pass whose 15 means lie in their windows ends stage 5; the hub PLL's lock starts stage 7; no lock
halts with 0x0703; the ROM starts the pilot of an image it accepts, and passes to the next source with 0x0701 for one it
rejects; the pilot's check-in is stage 9. It rests on R31, R32, R38, R40. -/
def Obligations.StagesFiveToEight : Prop :=
  (∀ (s : State) (means : List (BitVec 16)), s.boot.stage = 5 → s.boot.halt = false → s.ao.hubOut = true →
    (∀ i, i < 15 → s.s5Ok i (means.getD i 0).toNat = true) → s.boot.hubPll = false →
    exec (.stage5RailPass means) s = .next { s with boot := { s.boot with stage := 6, s5Fail := none } }) ∧
  (∀ s : State, s.ao.hubOut = true → s.boot.hubPll = false → s.boot.halt = false → s.boot.stage = 5 →
    exec .hubPllLock s = .next { s with boot := { s.boot with hubPll := true }, ao := { s.ao with sysRefclk := true } }) ∧
  (∀ s : State, s.ao.hubOut = true → s.boot.hubPll = false → s.boot.halt = false → s.boot.stage = 6 →
    ∃ t, exec .hubPllLock s = .next t ∧ t.boot.hubPll = true ∧ t.boot.stage = 7 ∧ t.boot.sources.length = 3) ∧
  (∀ s : State, s.ao.hubOut = true → s.boot.hubPll = false → s.boot.halt = false →
    ∃ t, exec .hubPllLockTimeout s = .next t ∧ t.boot.halt = true ∧ t.boot.stage = 7 ∧ t.boot.failCode = 0x0703) ∧
  (∀ (s : State) (img : ImageInfo) (src : BitVec 2) (r : List (BitVec 2)), s.boot.stage = 7 → s.boot.halt = false →
    s.boot.selWrite = false → s.boot.sources = src :: r → rejectReason s.ao.minSvn img = none →
    ∃ t, exec (.imageVerifyDone img) s = .next t ∧ t.boot.stage = 8 ∧ t.boot.source = src ∧ t.boot.fwVer = img.version) ∧
  (∀ (s : State) (img : ImageInfo) (src x : BitVec 2) (r : List (BitVec 2)), s.boot.stage = 7 → s.boot.halt = false →
    s.boot.selWrite = false → s.boot.sources = src :: x :: r → rejectReason s.ao.minSvn img ≠ none →
    ∃ t, exec (.imageVerifyDone img) s = .next t ∧ t.boot.stage = 7 ∧ t.boot.halt = false ∧ t.boot.warn = true ∧
      t.boot.failCode = 0x0701 ∧ t.boot.sources = x :: r) ∧
  (∀ s : State, s.boot.stage = 8 → s.boot.halt = false →
    ∃ t, exec .pilotCheckIn s = .next t ∧ t.boot.stage = 9 ∧
      (s.isManager = true → t.fleet.devNum = some 0 ∧ t.fleet.id ≠ 0) ∧
      (s.isManager = false → t.fleet.devNum = none)) ∧
  (∀ (s : State) (src x : BitVec 2) (r : List (BitVec 2)), s.boot.stage = 8 → s.boot.halt = false →
    s.boot.sources = src :: x :: r →
    ∃ t, exec .pilotStartTimeout s = .next t ∧ t.boot.stage = 7 ∧ t.boot.halt = false ∧ t.boot.failCode = 0x0801 ∧
      t.boot.sources = x :: r)

/-- Stages 9 to 15. The fence map loads in stage 9, and without one the boot halts with 0x0901; BIST without a failure
leaves every slice available and starts stage 11, in which the device is TRAINING; HBM training that fails nowhere ends
stage 11; a standalone device is READY once stage 12 is complete; a manager that expects no worker is READY once the hail is
quiet; a stage 9 that exceeds its limit halts with 0x0901. It rests on R31, R40, R47, R51, R54. -/
def Obligations.StagesNineToReady : Prop :=
  (∀ (s : State) (d : List Byte), s.boot.stage = 9 → s.boot.halt = false → s.record 1 = some d →
    ∃ t, exec .fenceMapLoad s = .next t ∧ t.boot.stage = 10 ∧ t.boot.fenceApplied = d ∧ t.fence.mapSeq = s.fenceSeq) ∧
  (∀ s : State, s.boot.stage = 9 → s.boot.halt = false → s.record 1 = none →
    ∃ t, exec .fenceMapLoad s = .next t ∧ t.boot.halt = true ∧ t.boot.stage = 9 ∧ t.boot.failCode = 0x0901) ∧
  (∀ s : State, s.boot.stage = 10 → s.boot.halt = false → s.hotDie = none → s.ao.pwrCut = false →
    s.core.core = [] → s.mem.wayOff = [] →
    ∃ t, exec (.bistComplete 0 [] 0) s = .next t ∧ t.boot.stage = 11 ∧ t.boot.halt = false ∧
      t.boot.avail = 0xFFFFFFFF ∧ t.pwr.dev = .training) ∧
  (∀ s : State, s.boot.stage = 11 → s.boot.halt = false → s.boot.avail ≠ 0 →
    exec (.hbmTrainComplete 0) s = .next { s with boot := { s.boot with stage := 12 } }) ∧
  (∀ (s : State) (w r : Nat) (f : Bool), s.ao.hubOut = true → s.pwr.dev ≠ .deep → linkOk w r f = true →
    s.host.memActive = false → exec (.hostLinkTrained w r f) s = .next { s with
      host := { s.host with width := w, rate := r, flit256 := f, linkDown := false }
      boot := { s.boot with linkTrained := true, cfgAnswers := true } }) ∧
  (∀ s : State, s.boot.stage = 12 → s.boot.halt = false → s.boot.linkTrained = true → s.isStandalone = true →
    16 ≤ s.host.width → 6 ≤ s.host.rate →
    ∃ t, exec .hostLinkStageDone s = .next t ∧ t.boot.stage = 15 ∧ t.boot.ready = true ∧ t.pwr.dev = .ready ∧
      t.host.memActive = true ∧ (t.host.cxlOn = true ↔ cxlOk s.host.width s.host.rate s.host.flit256 = true)) ∧
  (∀ s : State, s.boot.stage = 14 → s.boot.halt = false → s.isManager = true → s.fleet.expect = 0 →
    ∃ t, exec .fleetHailQuiet s = .next t ∧ t.boot.stage = 15 ∧ t.boot.ready = true ∧ t.pwr.dev = .ready) ∧
  (∀ (s : State) (m : Word), s.boot.stage = 9 → s.boot.halt = false →
    ∃ t, exec (.bootStageTimeout m) s = .next t ∧ t.boot.halt = true ∧ t.boot.stage = 9 ∧ t.boot.failCode = 0x0901)

/-- The mailbox. With the hub out of reset and the mailbox not busy, a command whose complement matches is carried out: NOP
answers OK, LOAD_IMAGE of an accepted image in a 0x0702 halt starts it from source 3, REBOOT of a READY device with ARG0
zero goes to stage 7, CONFIRM of a READY device that does not run a trial answers NOT_READY and of one that does queues the
write of record 0; a complement that does not match answers INTEGRITY, and a busy mailbox loses the command. It rests on
R35, R37, R38, R48, R50. -/
def Obligations.MailboxCommands : Prop :=
  (∀ s : State, s.ao.hubOut = true → s.boot.mboxBusy = false → s.boot.halt = false → s.asleep = false →
    exec (.mboxNop 0xFE) s = .next { s with
      boot := { s.boot with mboxCmd := 0xFE01, mboxBusy := false, mboxResult := 0 } }) ∧
  (∀ (s : State) (c : Byte), s.ao.hubOut = true → s.boot.mboxBusy = false → s.asleep = false → c ≠ 0xFE →
    ∃ t, exec (.mboxNop c) s = .next t ∧ t.boot.mboxResult = 0x0102 ∧ t.tw.alert.getLsbD 0 = true) ∧
  (∀ (s : State) (c : Byte), s.ao.hubOut = true → s.boot.mboxBusy = true → s.asleep = false →
    exec (.mboxNop c) s = .next { s with boot := { s.boot with mboxLost := true } }) ∧
  (∀ (s : State) (img : ImageInfo), s.ao.hubOut = true → s.boot.mboxBusy = false → s.boot.halt = true →
    s.boot.failCode = 0x0702 → s.asleep = false → s.loadArgsOk = true → rejectReason s.ao.minSvn img = none →
    ∃ t, exec (.mboxLoadImage 0xFD img) s = .next t ∧ t.boot.stage = 8 ∧ t.boot.halt = false ∧ t.boot.source = 3 ∧
      t.boot.fwVer = img.version ∧ t.boot.mboxResult = 0) ∧
  (∀ s : State, s.ao.hubOut = true → s.boot.mboxBusy = false → s.boot.ready = true → 7 ≤ s.boot.stage →
    s.boot.mboxArg.look 0 0 = 0 → s.asleep = false →
    ∃ t, exec (.mboxReboot 0xFC) s = .next t ∧ t.boot.stage = 7 ∧ t.boot.ready = false ∧ t.host.intVec = s.host.intVec ∧
      t.host.msixEnable = s.host.msixEnable) ∧
  (∀ s : State, s.ao.hubOut = true → s.boot.mboxBusy = false → s.asleep = false → s.boot.ready = true →
    s.boot.trial = false →
    ∃ t, exec (.mboxConfirm 0xFB) s = .next t ∧ t.boot.mboxResult = 0x010D ∧ t.nvm = s.nvm) ∧
  (∀ s : State, s.ao.hubOut = true → s.boot.mboxBusy = false → s.asleep = false → s.boot.ready = true → s.boot.trial = true →
    s.nvm.refusing = false → s.nvm.cur ≠ none →
    ∃ t, exec (.mboxConfirm 0xFB) s = .next t ∧ t.boot.mboxBusy = true ∧
      t.nvm.queue = s.nvm.queue ++ [{ rec_ := 0, data := selectorBytes s.boot.source.toNat 0, why := .confirm }]) ∧
  (∀ s : State, s.pwr.dev ≠ .deep →
    ∃ t, exec .sysRefclkStop s = .next t ∧ t.ao.sysRefclk = false ∧ t.boot.hubPll = false ∧ t.pwr.pilotHalted = true)

/-- The host port. VF Enable takes effect in READY and is kept for it before; a BAR2 read answers the bytes of device memory
with their poison, a BAR2 write stores its bytes, and before READY a read answers zeros; an access the Breakwater does not
admit is aborted; BAR2 resizes only while the PF does not decode; a PTM dialogue records harbour time and the master's. CXL
and power requests of the host. A CXL.mem request in an inactive range gets the error response; one for a line that nobody
holds and nobody asks for is granted E, or M where it reads for ownership, with the line's 256 bytes; a snoop of a host line
that no tenure protects is answered and drops the copies; an ATS invalidation is answered; leaving L1.2 wakes a sleeping
device; D3hot asks for SLEEP. It rests on R56, R103, R287, R319, R412, R415, R472, R14, R51, R292, R305, R306, Table 3-1. -/
def Obligations.HostAccesses : Prop :=
  (∀ (s : State) (on : Bool), s.boot.cfgAnswers = true → s.host.linkDown = false → s.boot.ready = true →
    s.pwr.dev ≠ .sleep → exec (.vfEnable on) s = .next { s with host := { s.host with vfEnable := on } }) ∧
  (∀ (s : State) (on : Bool), s.boot.cfgAnswers = true → s.host.linkDown = false → s.boot.ready = false →
    exec (.vfEnable on) s = .next { s with host := { s.host with vfPending := some on } }) ∧
  (∀ (s : State) (off n : Nat), s.boot.cfgAnswers = true → s.boot.ready = true → s.host.linkDown = false →
    s.pwr.dev ≠ .sleep → 0 < n → off + n ≤ 2 ^ s.host.bar2Log → s.hostAdmits off n = true →
    exec (.hostBar2Access off (.read n [])) s =
      .next { s with out := .readData (s.mem.read off n) ((unitsOf off n).any s.unitMarked) :: s.out }) ∧
  (∀ (s : State) (off : Nat) (b : List Byte), s.boot.cfgAnswers = true → s.boot.ready = true →
    s.host.linkDown = false → s.pwr.dev ≠ .sleep → b ≠ [] → off + b.length ≤ 2 ^ s.host.bar2Log →
    s.hostAdmits off b.length = true → s.deckHeld off b.length = false →
    ∃ t, exec (.hostBar2Access off (.write b)) s = .next t ∧
      (∀ i (h : i < b.length), Tab.look t.mem.bytes (off + i) (0 : Byte) = b[i]) ∧
      (∀ a, a < off ∨ off + b.length ≤ a → Tab.look t.mem.bytes a (0 : Byte) = Tab.look s.mem.bytes a 0) ∧
      t.q = s.q ∧ t.obj = s.obj ∧ t.core = s.core ∧ t.out = s.out) ∧
  (∀ (s : State) (off n : Nat), s.boot.cfgAnswers = true → s.boot.ready = true → s.host.linkDown = false →
    s.pwr.dev ≠ .sleep → 0 < n → off + n ≤ 2 ^ s.host.bar2Log → s.hostAdmits off n = false →
    ∃ t, exec (.hostBar2Access off (.read n [])) s = .next t ∧ t.out.head? = some .abort ∧ t.mem = s.mem) ∧
  (∀ (s : State) (log : Nat), s.boot.cfgAnswers = true → s.host.linkDown = false → s.pwr.dev ≠ .sleep → 30 ≤ log → log ≤ 39 →
    exec (.bar2Resize log false) s = .next { s with host := { s.host with bar2Log := log } } ∧
    exec (.bar2Resize log true) s = .next s) ∧
  (∀ (s : State) (m : DWord), s.boot.cfgAnswers = true → s.host.linkDown = false →
    exec (.ptmDialogue m) s = .next { s with time := { s.time with ptmLocal := s.now, ptmMaster := m } }) ∧
  (∀ (s : State) (dpa : Nat) (own : Bool), s.host.linkDown = false → s.boot.linkTrained = true →
    s.host.memActive = false → exec (.hostCxlMemRequest dpa own) s = .next { s with out := .cxlInactive :: s.out }) ∧
  (∀ (s : State) (dpa : Nat) (own : Bool), s.host.linkDown = false → s.boot.linkTrained = true →
    s.host.memActive = true → s.host.cxlOn = true → s.host.hdm = true → s.pwr.dev ≠ .sleep →
    hbmLine (dpa / 256) = true → s.hostAdmits (dpa / 256 * 256) 256 = true → s.dirAt (dpa / 256) = {} →
    s.mem.resv.look (dpa / 256 * 256 / 0x900000000) [] = [] →
    ∃ t, exec (.hostCxlMemRequest dpa own) s = .next t ∧
      t.out = .readData (s.mem.read (dpa / 256 * 256) 256) (s.mem.poisoned (dpa / 256 * 256) 256) ::
        .cxlGrant (dpa / 256) (if own then 3 else 2) :: s.out ∧
      (t.dirAt (dpa / 256)).at_ 9 = (if own then .m else .e) ∧ t.mem.bytes = s.mem.bytes) ∧
  (∀ (s : State) (l : Nat) (inv : Bool), s.host.cxlOn = true → s.host.linkDown = false →
    (s.dirAt (hostLine + l)).snoopFree inv = true →
    ∃ t, exec (.hostSnoop l inv) s = .next t ∧ t.out = .snoopDone l :: s.out ∧ t.mem.bytes = s.mem.bytes ∧
      (inv = true → (t.dirAt (hostLine + l)).agents = [])) ∧
  (∀ (s : State) (bus len : Nat) (p : Option Nat), s.boot.cfgAnswers = true → s.host.linkDown = false →
    ∃ t, exec (.atsInvalidate bus len p) s = .next t ∧ t.out = .atsDone :: s.out ∧ t.obj = s.obj ∧
      t.mem.bytes = s.mem.bytes) ∧
  (∀ s : State, s.pwr.dev = .sleep →
    ∃ t : State, exec .hostL12Exit s = .next t.settle ∧ t.host.linkL12 = false ∧ t.pwr.wakePending = true ∧ t.pwr.wakeSrc = 2) ∧
  (∀ s : State, s.boot.ready = true → s.pwr.dev = .ready ∨ s.pwr.dev = .awake →
    exec .d3hotRequest s = .next (State.settle { s with host := { s.host with d3hot := true } }))

/-- Flits of an active port that is not in recovery. A flit that FEC cannot correct or whose CRC fails is answered with a
NAK and nothing else of it is used; one in order advances the next expected SEQ and clears the NAK, shown here for a port
that holds no flits and a flit that does not end its message; a replay timeout sends every held flit again; after four
resends without an advance, and on a burst of FEC errors or a loss of signal, the port retrains in recovery and keeps what
it holds. The states of a training attempt, outside the gap after a failed one. DETECT ends with energy on a whole group,
LOCK with symbol lock on one, EQUALIZE once every lane in use estimates its error rate at the bound, DESKEW once both ends
hold codeword lock on the groups that both masks name, HAIL with an acceptable record of the peer that begins MOOR with a
new session number and the own credit grant, and MOOR takes the peer's grant and its acknowledgement. An unacceptable HAIL
record is rejected with its reason. It rests on R57, R58, R59, R67, R60, R61, R64, R65, R66. -/
def Obligations.HawserPorts : Prop :=
  (∀ (s : State) (n : Nat) (f : HwsFlit), n < 8 → s.pwr.dev ≠ .deep → (s.port n).st = .active →
    (s.port n).recovering = false →
    f.fecBad = true ∨ f.crcOk = false →
    ∃ t : State, exec (.hwsFlitReceive n f) s = .next t.settle ∧ (t.port n).nakOut = true ∧
      (t.port n).rxNext = (s.port n).rxNext ∧ (t.port n).replay = (s.port n).replay ∧ t.fleet = s.fleet ∧ t.out = s.out ∧
      (∀ m, m ≠ n → t.port m = s.port m)) ∧
  (∀ (s : State) (n : Nat) (f : HwsFlit) (b : HwsPayload), n < 8 → s.pwr.dev ≠ .deep → (s.port n).st = .active →
    (s.port n).recovering = false → (s.port n).replay = [] → (s.port n).sendQ = [] → f.fecBad = false →
    f.crcOk = true → f.nak = false → f.body = some b → f.seq = (s.port n).rxNext → b.idx + 1 ≠ b.cnt →
    ∃ t : State, exec (.hwsFlitReceive n f) s = .next t.settle ∧ (t.port n).rxNext = (s.port n).rxNext + 1 ∧
      (t.port n).nakOut = false ∧ t.fleet = s.fleet ∧ t.out = s.out) ∧
  (∀ (s : State) (n : Nat), n < 8 → s.pwr.dev ≠ .deep → (s.port n).st = .active → (s.port n).recovering = false →
    (s.port n).replay ≠ [] → (s.port n).replayFrom + 32 ≤ s.time.tick →
    ∃ t : State, exec (.hwsReplayTimeout n) s = .next t.settle ∧ (t.port n).replay = (s.port n).replay ∧
      (t.port n).resends = (s.port n).resends + 1 ∧ t.out.length = s.out.length + (s.port n).replay.length) ∧
  (∀ (s : State) (n : Nat), n < 8 → s.pwr.dev ≠ .deep → (s.port n).st = .active → (s.port n).recovering = false →
    (s.port n).replay ≠ [] → 4 ≤ (s.port n).resends →
    ∃ t : State, exec (.hwsReplayLimit n) s = .next t.settle ∧ (t.port n).st = .lock ∧ (t.port n).recovering = true ∧
      (t.port n).replay = (s.port n).replay) ∧
  (∀ (s : State) (n : Nat), n < 8 → s.pwr.dev ≠ .deep → (s.port n).st = .active → (s.port n).recovering = false →
    ∃ t : State, exec (.hwsFecErrorBurst n) s = .next t.settle ∧ (t.port n).st = .lock ∧ (t.port n).recovering = true ∧
      (t.port n).replay = (s.port n).replay) ∧
  (∀ (s : State) (n : Nat), n < 8 → s.pwr.dev ≠ .deep → (s.port n).st = .active →
    ∃ t : State, exec (.hwsSignalLoss n) s = .next t.settle ∧ (t.port n).st = .lock ∧ (t.port n).recovering = true ∧
      (t.port n).replay = (s.port n).replay) ∧
  (∀ (s : State) (n : Nat), n < 8 → s.pwr.dev ≠ .deep → (s.port n).st = .down →
    ∃ t : State, exec (.hwsSignalLoss n) s = .next t.settle ∧ (t.port n).sawLoss = true ∧ (t.port n).st = .down) ∧
  (∀ (s : State) (n : Nat) (l : BitVec 8), n < 8 → s.pwr.dev ≠ .deep → (s.port n).st = .detect →
    (s.port n).gap = false →
    wholeGroups l &&& (s.port n).mayUse ≠ 0 →
    ∃ t : State, exec (.hwsDetectEnergy n l) s = .next t.settle ∧ (t.port n).st = .lock ∧
      (t.port n).goodLanes = l &&& groupLanes (s.port n).mayUse) ∧
  (∀ (s : State) (n : Nat) (l : BitVec 8), n < 8 → s.pwr.dev ≠ .deep → (s.port n).st = .lock →
    (s.port n).gap = false →
    wholeGroups (l &&& (s.port n).goodLanes) ≠ 0 →
    ∃ t : State, exec (.hwsSymbolLock n l) s = .next t.settle ∧ (t.port n).st = .equalize ∧
      (t.port n).goodLanes = (s.port n).goodLanes &&& l) ∧
  (∀ (s : State) (n : Nat) (r : CoeffReq), n < 8 → s.pwr.dev ≠ .deep → (s.port n).st = .equalize →
    (s.port n).gap = false → r.lane < 8 →
    r.tap < 5 → r.req = 0 → wholeGroups (s.port n).goodLanes ≠ 0 →
    (∀ l ∈ ones (s.port n).goodLanes, 50 ≤ ((s.port n).laneBer.look l 0).toNat) →
    ∃ t : State, exec (.hwsCoeffRequestReceive n r [] 0) s = .next t.settle ∧ (t.port n).st = .deskew ∧
      (t.port n).coeff = (s.port n).coeff) ∧
  (∀ (s : State) (n : Nat) (r : LaneMask), n < 8 → s.pwr.dev ≠ .deep → (s.port n).st = .deskew →
    (s.port n).gap = false →
    (s.port n).recovering = false → ((s.port n).masks 3).groups &&& r.groups ≠ 0 → r.cwLock = 3 →
    ∃ t : State, exec (.hwsLaneMaskReceive n r ⟨3, 0⟩) s = .next t.settle ∧ (t.port n).st = .hail ∧
      (t.port n).groups = ((s.port n).masks 3).groups &&& r.groups ∧
      (t.port n).laneFail = (s.port n).laneFail ||| ((s.port n).goodLanes &&& ~~~r.rxMask)) ∧
  (∀ (s : State) (n : Nat) (r : HailRec), n < 8 → s.pwr.dev ≠ .deep → (s.port n).st = .hail → (s.port n).gap = false →
    (s.port n).recovering = false → s.hailReject r = none →
    ∃ t : State, exec (.hwsHailReceive n r) s = .next t.settle ∧ (t.port n).st = .moor ∧ (t.port n).peerSn = r.serial ∧
      (t.port n).session = (s.port n).session + 1 ∧ (t.port n).ownGrant = some s.grantNow) ∧
  (∀ (s : State) (n : Nat) (r : HailRec) (why : Nat), n < 8 → s.pwr.dev ≠ .deep → (s.port n).st = .hail →
    (s.port n).gap = false →
    (s.port n).recovering = false → s.hailReject r = some why →
    exec (.hwsHailReceive n r) s = .next ((s.emit (.record n (.reject why Config.serial))).rejected n why).settle) ∧
  (∀ (s : State) (n : Nat) (g : CreditGrant), n < 8 → s.pwr.dev ≠ .deep → (s.port n).st = .moor →
    (s.port n).gap = false →
    (s.port n).grantAcked = false → grantOk g = true →
    ∃ t : State, exec (.hwsCreditGrantReceive n g) s = .next t.settle ∧ (t.port n).st = .moor ∧
      (t.port n).peerGrant = some g ∧ t.out = .record n (.grantAck g) :: s.out) ∧
  (∀ (s : State) (n : Nat) (g : CreditGrant), n < 8 → s.pwr.dev ≠ .deep → (s.port n).st = .moor →
    (s.port n).gap = false →
    (s.port n).ownGrant = some g → (s.port n).peerGrant = none →
    ∃ t : State, exec (.hwsGrantAckReceive n g) s = .next t.settle ∧ (t.port n).st = .moor ∧
      (t.port n).grantAcked = true) ∧
  (∀ (s : State) (n : Nat) (r : HwsRecord), n < 8 → s.pwr.dev ≠ .deep → (s.port n).training = true →
    (s.port n).gap = false →
    (s.port n).record = some r →
    exec (.hwsRecordRepeat n) s = .next (State.settle { s with out := .record n r :: s.out }))

/-- Failures and rest of a port. The limit of a training state fails the attempt: the gap begins, and the attempt counts;
after the gap the next attempt begins in DETECT; the series ends 560 ms after its first DETECT with the port DOWN; a
rejection takes the port DOWN with its reason; the peer's detect pattern restarts the attempt; a signal on a DOWN port, and
RETRAIN of a port that is not ACTIVE, start a fresh series; a port with nothing to send enters low-power idle, and leaves
it. It rests on R62, R63, R65, R67, R70, R14. -/
def Obligations.HawserSeries : Prop :=
  (∀ (s : State) (n : Nat), n < 8 → s.pwr.dev ≠ .deep → (s.port n).training = true → (s.port n).gap = false →
    (s.port n).recovering = false → (s.port n).counted + 1 < 8 →
    ∃ t : State, exec (.hwsStateTimeout n) s = .next t.settle ∧ (t.port n).gap = true ∧
      (t.port n).counted = (s.port n).counted + 1 ∧ (t.port n).st = (s.port n).st ∧
      (t.port n).lastFail = BitVec.ofNat 4 (s.port n).st.code) ∧
  (∀ (s : State) (n : Nat), n < 8 → s.pwr.dev ≠ .deep → (s.port n).training = true → (s.port n).gap = true →
    ∃ t : State, exec (.hwsAttemptGapExpiry n) s = .next t.settle ∧ (t.port n).st = .detect ∧ (t.port n).gap = false ∧
      (t.port n).attempts = (s.port n).counted + 1) ∧
  (∀ (s : State) (n : Nat), n < 8 → s.pwr.dev ≠ .deep → (s.port n).training = true → (s.port n).recovering = false →
    (s.port n).seriesTick + 4480000 ≤ s.time.tick → s.isManager = false → s.boot.stage ≠ 13 →
    ∃ t : State, exec (.hwsSeriesTimeout n) s = .next t.settle ∧ (t.port n).st = .down ∧ (t.port n).downReason = 1) ∧
  (∀ (s : State) (n r : Nat), n < 8 → s.pwr.dev ≠ .deep → (s.port n).st = .hail ∨ (s.port n).st = .moor →
    (s.port n).gap = false →
    (s.port n).recovering = false → 2 ≤ r → r ≤ 5 →
    exec (.hwsRejectionReceive n r) s = .next (s.rejected n r).settle) ∧
  (∀ (s : State) (n : Nat), n < 8 → s.pwr.dev ≠ .deep → (s.port n).training = true → (s.port n).st ≠ .detect →
    (s.port n).recovering = false →
    ∃ t : State, exec (.hwsPeerDetectPattern n) s = .next t.settle ∧ (t.port n).st = .detect ∧
      (t.port n).counted = (s.port n).counted) ∧
  (∀ (s : State) (n : Nat), n < 8 → s.pwr.dev ≠ .deep → (s.port n).st = .down → (s.port n).enable = true →
    s.isStandalone = false →
    (s.port n).downReason = 1 ∨ (s.port n).sawLoss = true →
    ∃ t : State, exec (.hwsDownSignalSense n) s = .next t.settle ∧ (t.port n).st = .detect ∧ (t.port n).counted = 0) ∧
  (∀ (s : State) (n : Nat) (v : Word), n < 8 → s.pwr.dev ≠ .deep → s.isStandalone = false → v.getLsbD 8 = true →
    v.getLsbD 31 = true →
    (s.port n).st ≠ .active → (s.port n).recovering = false →
    ∃ t : State, exec (.hwsRetrain n v) s = .next t.settle ∧ (t.port n).st = .detect ∧ (t.port n).enable = true ∧
      (t.port n).lpiEn = v.getLsbD 9) ∧
  (∀ (s : State) (n : Nat), n < 8 → s.pwr.dev ≠ .deep → (s.port n).st = .active → (s.port n).recovering = false →
    (s.port n).lpiEn = true →
    (s.port n).peerCaps.getLsbD 0 = true → (s.port n).replay = [] → (s.port n).sendQ = [] →
    ∃ t : State, exec (.hwsLpiEntry n) s = .next t.settle ∧ t.port n = { s.port n with lpi := true }) ∧
  (∀ (s : State) (n : Nat), n < 8 → s.pwr.dev ≠ .deep → (s.port n).lpi = true → (s.port n).sendQ = [] →
    ∃ t : State, exec (.hwsLpiExit n) s = .next t.settle ∧ t.port n = { s.port n with lpi := false })

/-- Sequences, timers and rules. A conversion of the running sequence that needs no settling and is neither clipped feeds
its step's filter with the code and passes to the next conversion of the step; the lowest-numbered sequence that holds a
trigger starts at step 0 and uses the trigger up; START of an enabled idle sequence leaves it one trigger; a one-shot timer
that expires clears its ENABLE; at a watch boundary the 64 rules are evaluated in ascending order; a channel becomes stale
with a record. The safety scan, the inputs and harbour time. The scan stores each reading that is not clipped as a valid one
and leaves the converter at channel 47; THERM_N low holds the dies at level 4; 1.5 s without an edge lose PPS and end the
lock in holdover; a whole second raises TIME_OUT for its width, 100 ms where that is 0; SET of TIME_CTRL waits for the next
tick, or for the next PPS edge; the hard cut asserts PWR_CUT_N and trips; a trip is cleared once every die is cool and the
cut is not asserted. It rests on R76 to R80, R85, R86, R88, R75, R84, R95, R97, R99, R101, R102, R103, R511. -/
def Obligations.TidewatchInputsAndSequences : Prop :=
  (∀ (s : State) (q code : Nat), s.tw.seqRunning = some q → s.tw.stepBegun = true → s.tw.settleLeft = 0 → 0 < code →
    code < 4095 →
    ∃ t : State, exec (.adcConversionDone code) s = .next t.settle ∧
      t.tw.filt.look (q * 32 + s.tw.seqStep) {} =
        (s.tw.filt.look (q * 32 + s.tw.seqStep) {}).feed (stFilter (s.runStep s.tw.seqStep)) code ∧
      (s.tw.seqConv + 1 < stCount (s.runStep s.tw.seqStep) →
        t.tw.seqConv = s.tw.seqConv + 1 ∧ t.tw.seqStep = s.tw.seqStep ∧ t.tw.seqRunning = some q)) ∧
  (∀ (s : State) (q : Nat), s.tw.sampling = true → s.tw.seqRunning = none → q < 8 → s.tw.seqTrig.look q 0 ≠ 0 →
    (∀ r, r < q → s.tw.seqTrig.look r 0 = 0) →
    ∃ t : State, exec .sequenceRunStart s = .next t.settle ∧ t.tw.seqRunning = some q ∧ t.tw.seqStep = 0 ∧
      t.tw.seqConv = 0 ∧ t.tw.seqTrig.look q 0 = s.tw.seqTrig.look q 0 - 1) ∧
  (∀ (s : State) (n : Nat) (v : Word), n < 8 → s.boot.ready = true → v.getLsbD 31 = true → v.getLsbD 30 = true →
    bits v 26 4 ≤ 13 → s.tw.seqTrig.look n 0 = 0 → s.tw.seqRunning ≠ some n →
    ∃ t : State, exec (.seqStartWrite n v) s = .next t.settle ∧ t.tw.seqTrig.look n 0 = 1 ∧
      t.seqCtrl n = v &&& 0x7C000000) ∧
  (∀ (s : State) (n : Nat), n < 8 → s.tw.sampling = true → (s.timer n).getLsbD 63 = true →
    (s.timer n).getLsbD 62 = false → bits (s.timer n) 0 32 ≠ 0 →
    ∃ t : State, exec (.twTimerExpiry n) s = .next t.settle ∧ t.timer n = clearBit (s.timer n) 63) ∧
  (∀ s : State, s.tw.sampling = true → s.tw.watchLast < s.watchNow →
    exec .watchBoundary s = .next (((List.range 64).foldl (fun t n => t.evalRule n)
      (s.onTw fun w => { w with watchLast := s.watchNow })).retuneAll).settle) ∧
  (∀ s : State, s.watchNow ≤ s.tw.watchLast → exec .watchBoundary s = .next s.settle) ∧
  (∀ (s : State) (ch : Nat), ch < 48 → s.tw.sampling = true → pairOk (s.chRoc ch) = true →
    bits (s.chRoc ch) 16 16 ≠ 0 → (s.tw.chLast.look ch {}).stale = false →
    (s.tw.chLast.look ch {}).silentFrom + bits (s.chRoc ch) 16 16 * 8000 ≤ s.time.tick → s.tw.sampleFifo.length < 256 →
    ∃ t : State, exec (.channelStale ch) s = .next t.settle ∧ (t.tw.chLast.look ch {}).stale = true ∧
      t.tw.sampleFifo.length = s.tw.sampleFifo.length + 1) ∧
  (∀ (s : State) (temps : List (Option (BitVec 16))) (vref gnd n : Nat) (v : BitVec 16), s.tw.sampling = true →
    s.tw.stepBegun = false → n < 32 → temps.getD n none = some v →
    ∃ t : State, exec (.safetyScan temps vref gnd) s = .next t.settle ∧ t.tw.safeTemp.look n 0 = v ∧
      t.tw.safeValid.getLsbD n = true ∧ t.tw.convLast = some (47, 0, 0)) ∧
  (∀ (s : State) (ns : Nat), s.tw.sampling = true → (s.tw.din.look 6 (dinReset 6)).level = true →
    ∃ t : State, exec (.digitalInputAccept 6 false ns) s = .next t.settle ∧ t.tw.thermLow = true ∧
      (t.tw.din.look 6 (dinReset 6)).level = false ∧ (t.tw.din.look 6 (dinReset 6)).lastEdge = some ns ∧
      (∀ d, 4 ≤ t.level d)) ∧
  (∀ (s : State) (n : Nat), s.time.ppsTick = some n → n + 12000000 ≤ s.time.tick → s.time.disc = .locked →
    ∃ t : State, exec .ppsLost s = .next t.settle ∧ t.time.ppsLost = true ∧ t.time.disc = .holdover ∧
      t.time.harbour = s.time.harbour) ∧
  (∀ s : State, s.time.timeOutEn = true → s.time.harbour % (1000000000 * 2 ^ 24) < s.time.rate.toNat →
    exec .timeOutSecond s = .next (State.settle { s with tw := { s.tw with
      timeOutUntil := some (s.time.tick + (if s.time.timeOutW = 0 then 100 else s.time.timeOutW.toNat) * 8000) } })) ∧
  (∀ (s : State) (v : Word), s.boot.ready = true → s.pwr.dev ≠ .sleep →
    exec (.timeSet v) s = .next (State.settle { s with time := { s.time with
      setPending := s.time.setPending || v.getLsbD 31, setAtPps := v.getLsbD 30, timeOutEn := v.getLsbD 29
      timeOutW := v.setWidth 8 } })) ∧
  (∀ (s : State) (d : Nat), s.ao.porReleased = true →
    ∃ t : State, exec (.hardCut d) s = .next t.settle ∧ t.ao.pwrCut = true ∧ t.tw.tripped = true) ∧
  (∀ s : State, s.boot.ready = true → s.tw.tripped = true → s.allCool = true → s.ao.pwrCut = false →
    ∃ t : State, exec .tripClear s = .next t.settle ∧ t.tw.tripped = false)

/-- Tidewatch's registers in READY. A pop of the sample FIFO answers its oldest record and removes it, and answers all ones
when it is empty; a pop of the trigger FIFO also latches TW_TRIG_TIME; a rule, limit, step or watch register takes a value
it accepts, with its complement where it is a pair, and refuses another with REFUSED and nothing else. The Tidewatch
packets. TW_CONFIG checks every value before it writes any and names the first that is bad; TW_READ writes its words to the
host and answers their number. It rests on R80, R83, R87, R88, R91, R96, R103, R174, R175. -/
def Obligations.TidewatchConfiguration : Prop :=
  (∀ (s : State) (r : DWord) (l : List DWord), s.ao.hubOut = true → s.boot.ready = true → s.pwr.dev ≠ .sleep →
    s.tw.sampleFifo = r :: l →
    exec .twSamplePop s = .next (State.settle { s with
      tw := { s.tw with sampleFifo := l }, out := .readData (toLe 8 r.toNat) false :: s.out })) ∧
  (∀ s : State, s.ao.hubOut = true → s.boot.ready = true → s.pwr.dev ≠ .sleep → s.tw.sampleFifo = [] →
    exec .twSamplePop s = .next (State.settle { s with out := .readData (List.replicate 8 0xFF) false :: s.out })) ∧
  (∀ (s : State) (e : Word) (x : DWord) (l : List (Word × DWord)), s.ao.hubOut = true → s.boot.ready = true →
    s.pwr.dev ≠ .sleep → s.tw.trigFifo = (e, x) :: l →
    exec .twTrigPop s = .next (State.settle { s with
      tw := { s.tw with trigFifo := l, trigTime := x }, out := .readData (toLe 4 e.toNat) false :: s.out })) ∧
  (∀ (s : State) (n : Nat) (v : Word), n < 64 → s.boot.ready = true →
    ∃ t : State, exec (.twRuleWrite n 1 v) s = .next t.settle ∧ (t.tw.rule.look n {}).thr = mkPair v ∧
      (t.tw.rule.look n {}).active = false ∧ (∀ m, m ≠ n → t.tw.rule.look m {} = s.tw.rule.look m {})) ∧
  (∀ (s : State) (n : Nat) (v : Word), n < 64 → s.boot.ready = true → s.pwr.dev ≠ .sleep → v.getLsbD 31 = true →
    ruleSrcOk v = false →
    exec (.twRuleWrite n 0 v) s = .next (State.settle { s with tw := { s.tw with refused := true } })) ∧
  (∀ (s : State) (v : Word), s.boot.ready = true → s.pwr.dev ≠ .sleep → thermLimOk v = true →
    exec (.twThermLimWrite v) s = .next (State.settle { s with
      tw := { s.tw with thermLim := mkPair (v &&& 0xFFFFFF) } })) ∧
  (∀ (s : State) (v : Word), s.boot.ready = true → s.pwr.dev ≠ .sleep → thermLimOk v = false →
    exec (.twThermLimWrite v) s = .next (State.settle { s with tw := { s.tw with refused := true } })) ∧
  (∀ (s : State) (n k : Nat) (v : Word), n < 8 → k < 32 → s.boot.ready = true → s.pwr.dev ≠ .sleep → stCh v ≤ 47 →
    stFilter v < 6 → stRecord v ≠ 3 →
    ∃ t : State, exec (.twStepWrite n k v) s = .next t.settle ∧ t.step_ n k = v &&& 0xFFFFFC00 ∧
      t.tw.filtClear.look (n * 32 + k) false = true) ∧
  (∀ (s : State) (v : Word), s.boot.ready = true → s.pwr.dev ≠ .sleep → 10 ≤ v.toNat → v.toNat ≤ 10000000 →
    exec (.twWatchWrite v) s = .next (State.settle { s with
      tw := { s.tw with watch := v, watchBase := s.time.tick, watchLast := 0 } })) ∧
  (∀ (s : State) (q : QueueId) (p : Packet) (st i : Nat), s.Runs q 0x48 p →
    (p.twValues.findSome? fun e => (twValueBad e.2.1 e.2.2).map fun st => (st, e.1)) = some (st, i) →
    exec (.twConfig q) s = .next ((s.take q p).finish p.pid st 0 (reason 0x06 (24 + 8 * i))).settle) ∧
  (∀ (s : State) (q : QueueId) (p : Packet), s.Runs q 0x48 p →
    (∀ e ∈ p.twValues, twValueBad e.2.1 e.2.2 = none) →
    exec (.twConfig q) s = .next (State.settle ((p.twValues.foldl (fun t e => match twReg e.2.1 with
      | some r => (t.twSet r e.2.2).ruleBy q.source r
      | none => t) (s.take q p)).finish p.pid stOk (p.f 18 1) 0))) ∧
  (∀ (s : State) (q : QueueId) (p : Packet), s.Runs q 0x49 p → p.f 20 1 = 0 → p.f 16 2 ≠ 0x80 → p.f 16 2 ≠ 0x90 →
    exec (.twRead q) s = .next (State.settle (((s.take q p).emit (.hostWrite q.fn (p.f 24 8)
      (((List.range (p.f 18 2)).map fun i => toLe 8 (((s.take q p).twRead4 (p.f 16 2 + 8 * i)).toNat +
        ((s.take q p).twRead4 (p.f 16 2 + 8 * i + 4)).toNat * 2 ^ 32)).flatten) false)).finish p.pid stOk (p.f 18 2) 0)))

/-- Sleep and wake. Once the idle conditions have held for the dwell, or a SLEEP order waits, an idle device enters SLEEP
with its stacks in self-refresh and the host link in L1.2; a wake that is requested brings a device in SLEEP or DEEP back to
AWAKE; a retry of the exit from self-refresh counts and keeps the stacks that still fail. The states of a slice. A slice
whose cores doze and whose engines rest goes from RUN to DOZE; one that also holds no block, is no launch's target and is
held by nothing goes on to NAP and, where its floor is OFF or nobody owns it, to OFF; a slice that is called for reaches
RUN; a pre-wake without work lapses into the state it remembers and is counted. It rests on R11, R119, R120, R122, R123,
R447, R17, R114, R115, R125, R126. -/
def Obligations.SleepAndSlices : Prop :=
  (∀ s : State, s.awake = true → s.idle = true → (∀ n, n < 32 → s.partExists n = true → s.strict n = false) →
    ∃ t : State, exec .idleDwellExpiry s = .next t.settle ∧ t.pwr.dev = .sleep ∧ t.pwr.hbmSr = true ∧
      t.pwr.deckOff = ~~~s.retained ∧ t.pwr.pilotHalted = true ∧ t.host.linkL12 = true) ∧
  (∀ s : State, s.awake = true → s.idle = true → s.pwr.sleepPending ≠ [] →
    ∃ t : State, exec .sleepPendingEntry s = .next t.settle ∧ t.pwr.dev = .sleep ∧ t.pwr.sleepPending = []) ∧
  (∀ (s : State) (us : Nat) (failed : BitVec 8), s.pwr.dev = .sleep → s.pwr.wakePending = true →
    ∃ t : State, exec (.deviceAwake us failed) s = .next t.settle ∧ t.pwr.dev = .awake) ∧
  (∀ (s : State) (r : Option Retrain), s.pwr.dev = .deep → s.pwr.wakePending = true →
    ∃ t : State, exec (.deepWakeDone r) s = .next t.settle ∧ t.pwr.dev = .awake) ∧
  (∀ (s : State) (failed : BitVec 8), s.awake = true → s.pwr.hbmFail ≠ 0 → s.pwr.hbmTries < 2 →
    ∃ t : State, exec (.hbmSrExitRetry failed) s = .next t.settle ∧ t.pwr.hbmFail = s.pwr.hbmFail &&& failed ∧
      t.pwr.hbmTries = s.pwr.hbmTries + 1) ∧
  (∀ (s : State) (n : Nat), n < 32 → s.awake = true → (s.slice n).st = .run → s.allDoze n = true →
    s.engineWork n = false → s.keptUp n = false →
    ∃ t : State, exec (.sliceDozeDwellExpiry n) s = .next t.settle ∧ (t.slice n).st = .doze ∧
      (∀ m, m ≠ n → t.slice m = s.slice m)) ∧
  (∀ (s : State) (n : Nat), n < 32 → s.awake = true → (s.slice n).st = .doze → (s.slice n).floor ≠ .doze →
    s.resident n = false → s.engineWork n = false → s.targeted n = false → s.keptUp n = false →
    ∃ t : State, exec (.sliceNapDwellExpiry n) s = .next t.settle ∧ (t.slice n).st = .nap ∧
      (∀ m, m ≠ n → t.slice m = s.slice m)) ∧
  (∀ (s : State) (n : Nat), n < 32 → s.awake = true → (s.slice n).st = .nap →
    (s.slice n).floor = .off ∨ s.owner n = none → s.keptUp n = false → (s.slice n).waking = false →
    s.resident n = false → s.engineWork n = false →
    ∃ t : State, exec (.sliceOffDwellExpiry n) s = .next t.settle ∧ (t.slice n).st = .off ∧
      (∀ m, m ≠ n → t.slice m = s.slice m)) ∧
  (∀ (s : State) (n : Nat), n < 32 → s.awake = true → (s.slice n).unavail = false → s.owner n ≠ none →
    (s.slice n).st ≠ .run → (s.slice n).waking = true →
    ∃ t : State, exec (.sliceWakeDone n) s = .next t.settle ∧ (t.slice n).st = .run ∧ (t.slice n).waking = false ∧
      (∀ m, m ≠ n → t.slice m = s.slice m)) ∧
  (∀ (s : State) (n : Nat) (f : SliceSt), (s.slice n).prewoken = some f → s.engineWork n = false →
    s.resident n = false → s.held n = false →
    ∃ t : State, exec (.prewakeLapse n) s = .next t.settle ∧ (t.slice n).st = f ∧ (t.slice n).prewoken = none ∧
      t.pwr.prewakeCnt = satInc s.pwr.prewakeCnt)

/-- Clocks and voltages. A relock to a lower clock ends with the die at the clock that R127 allows and the voltage
following; a relock that fails is tried again at the present clock; a PMBus transaction that fails is tried again, and after
the third failure sets PMB_FAULT and caps the clock; PMB_ALERT_N holds the dies that show a fault at level 4; the budget
control takes one code off the die that runs fastest while the power is over the limit, and changes no cap between 95 and
100 percent of it. It rests on R106, R108, R111, R112, R129, R130. -/
def Obligations.ClocksAndVoltages : Prop :=
  (∀ (s : State) (d c : Nat), d < 8 → (s.die d).pllOn = true → (s.die d).relocking = true → (s.die d).back = false →
    (s.die d).change = some c → c = s.allowed d → c ≤ s.supported d → c < (s.die d).code → s.pmbOn d = true →
    (s.die d).pmbFault = false →
    ∃ t : State, exec (.pllRelockDone d true) s = .next t.settle ∧ (t.die d).code = c ∧
      (t.die d).relocking = false ∧ (t.die d).change = none ∧
      (t.die d).target = s.voltage d c ∧ (t.die d).pmbBusy = true) ∧
  (∀ (s : State) (d : Nat), d < 8 → (s.die d).pllOn = true → (s.die d).relocking = true →
    (s.die d).relockFails < 2 →
    ∃ t : State, exec (.pllRelockDone d false) s = .next t.settle ∧
      (t.die d).relockFails = (s.die d).relockFails + 1 ∧
      (t.die d).change = some (s.die d).code) ∧
  (∀ (s : State) (d : Nat) (a : PmbAnswer), d < 8 → (s.die d).pmbBusy = true → (s.die d).pmbTries < 2 →
    ∃ t : State, exec (.pmbusTransactionDone d false a) s = .next t.settle ∧
      (t.die d).pmbTries = (s.die d).pmbTries + 1 ∧ (t.die d).pmbBusy = true) ∧
  (∀ (s : State) (d vout c : Nat), d < 8 → (s.die d).pmbBusy = true → (s.die d).pmbMode = true →
    (s.die d).target ≤ vout + 10 → vout ≤ (s.die d).target + 10 → (s.die d).pllOn = true → (s.die d).relocking = false →
    c = s.allowed d → (s.die d).code < c → c ≤ s.codeUnder d (s.die d).target →
    ∃ t : State, exec (.pmbusTransactionDone d true (.vout vout)) s = .next t.settle ∧ (t.die d).pmbBusy = false ∧
      (t.die d).lastVout = vout ∧ (t.die d).relocking = true ∧
      (t.die d).change = some c) ∧
  (∀ (s : State) (d : Nat) (a : PmbAnswer), d < 8 → (s.die d).pmbBusy = true → (s.die d).pmbTries = 2 →
    ∃ t : State, exec (.pmbusTransactionDone d false a) s = .next t.settle ∧
      (t.die d).pmbFault = true ∧
      (t.die d).faultCap =
        some (s.codeUnder d (if (s.die d).lastVout = 0 then 750 else (s.die d).lastVout))) ∧
  (∀ (s : State) (m : BitVec 8), 9 ≤ s.boot.stage → s.asleep = false →
    ∃ t : State, exec (.pmbAlert m) s = .next t.settle ∧ t.tw.pmbHold = m ∧
      (∀ d, m.getLsbD d = true → 4 ≤ t.level d)) ∧
  (∀ (s : State) (power d : Nat), s.awake = true → s.pwr.limit.toNat * 10 < power →
    bestBy (fun d => if (s.die d).pllOn then (s.die d).code else 0) (List.range 8) = some d →
    (s.die d).pllOn = true → (s.die d).code ≠ 0 →
    ∃ t : State, exec (.budgetStep power) s = .next t.settle ∧ t.pwr.power = BitVec.ofNat 32 power ∧
      (t.die d).cap = some (max 16 ((s.die d).code - 1))) ∧
  (∀ (s : State) (power : Nat), s.awake = true → power ≤ s.pwr.limit.toNat * 10 →
    s.pwr.limit.toNat * 10 * 95 ≤ power * 100 →
    exec (.budgetStep power) s = .next (State.settle { s with pwr := { s.pwr with power := BitVec.ofNat 32 power } }))

/-- The power packets at dispatch. POWER_SET of device scope completes for AWAKE, waits in line for SLEEP, and for DEEP is
accepted where no context, no update and no hold stands in the way; POWER_SET of slice scope gives the slices it names their
floor; POWER_HOLD enters a hold, which leaves the list when its duration has ended. It rests on R117, R123, R127, R128,
R172. -/
def Obligations.PowerPackets : Prop :=
  (∀ (s : State) (q : QueueId) (p : Packet), s.Runs q 0x40 p → p.f 18 1 = 0 → p.f 16 1 = 1 →
    exec (.powerSetDevice q) s = .next (State.settle (if s.tw.tripped then (s.take q p).finish p.pid stThermal 0 0
      else ((s.take q p).withdrawSleep q.source).finish p.pid stOk 1 0))) ∧
  (∀ (s : State) (q : QueueId) (p : Packet), s.Runs q 0x40 p → p.f 18 1 = 0 → p.f 16 1 = 2 →
    ∃ t : State, exec (.powerSetDevice q) s = .next t.settle ∧ t.pwr.sleepPending = s.pwr.sleepPending ++ [p.pid] ∧
      t.pwr.dev = s.pwr.dev) ∧
  (∀ (s : State) (q : QueueId) (p : Packet), s.Runs q 0x40 p → p.f 18 1 = 0 → p.f 16 1 = 3 → s.anyContext = false →
    s.mgmt.upd = .idle → (∀ h ∈ s.pwr.holds, h.slices ≠ none) →
    ∃ t : State, exec (.powerSetDevice q) s = .next t.settle ∧ t.pwr.deepAccepted = true ∧ t.pwr.sleepPending = []) ∧
  (∀ (s : State) (q : QueueId) (p : Packet), s.Runs q 0x40 p → p.f 18 1 = 1 → p.f 16 1 = 0x12 →
    ∃ t : State, exec (.powerSetSlice q) s = .next t.settle ∧
      (∀ n, n < 32 → (t.slice n).floor =
        if p.slices.getLsbD n && !(s.slice n).unavail then .nap else (s.slice n).floor)) ∧
  (∀ (s : State) (q : QueueId) (p : Packet), s.Runs q 0x41 p →
    ∃ t : State, exec (.powerHold q) s = .next t.settle ∧
      t.pwr.holds = s.pwr.holds ++ [{ slices := if p.f 16 1 = 0 then none else some p.slices, pid := p.pid
                                      ends := s.nowNs + s.timeoutOf p (p.f 24 8) * 1000, source := q.source
                                      part := p.part }]) ∧
  (∀ (s : State) (pid : Nat), exec (.powerHoldExpiry pid) s = .next (State.settle { s with pwr := { s.pwr with
    holds := s.pwr.holds.filter fun h => !(h.pid == pid && decide (h.ends ≤ s.nowNs)) } }))

/-- Doorbells of a queue that exists, with the host link up. A PUT within the ring of what has been fetched and of the PUT
before it is accepted; any other sets DB_BAD and changes no PUT. A completion GET that reports no more than was written is
accepted; any other sets CQ_BAD and changes no GET. It rests on R133, R138. -/
def Obligations.QueueDoorbells : Prop :=
  (∀ (s : State) (q : QueueId) (put : Word), s.host.linkDown = false → s.boot.ready = true → (s.queue q).there = true →
    (put - (s.queue q).sqGet).toNat ≤ 2 ^ (s.queue q).sqLog → (put - (s.queue q).sqPut).toNat ≤ 2 ^ (s.queue q).sqLog →
    ∃ t : State, exec (.doorbellSqPut q put) s = .next t ∧ (t.queue q).sqPut = put ∧
      (t.queue q).dbBad = (s.queue q).dbBad ∧ (t.queue q).sqGet = (s.queue q).sqGet) ∧
  (∀ (s : State) (q : QueueId) (put : Word), s.host.linkDown = false → s.boot.ready = true → (s.queue q).there = true →
    2 ^ (s.queue q).sqLog < (put - (s.queue q).sqGet).toNat →
    ∃ t : State, exec (.doorbellSqPut q put) s = .next t ∧ (t.queue q).dbBad = true ∧
      (t.queue q).sqPut = (s.queue q).sqPut) ∧
  (∀ (s : State) (q : QueueId) (get : Word), s.host.linkDown = false → s.boot.ready = true → (s.queue q).there = true →
    (get - (s.queue q).cqGet).toNat ≤ ((s.queue q).cqPut - (s.queue q).cqGet).toNat → (s.queue q).late = [] →
    ∃ t : State, exec (.cqGetWrite q get) s = .next t ∧ (t.queue q).cqGet = get ∧
      (t.queue q).cqBad = (s.queue q).cqBad ∧ (t.queue q).cqPut = (s.queue q).cqPut) ∧
  (∀ (s : State) (q : QueueId) (get : Word), s.host.linkDown = false → s.boot.ready = true → (s.queue q).there = true →
    ((s.queue q).cqPut - (s.queue q).cqGet).toNat < (get - (s.queue q).cqGet).toNat →
    ∃ t : State, exec (.cqGetWrite q get) s = .next t ∧ (t.queue q).cqBad = true ∧
      (t.queue q).cqGet = (s.queue q).cqGet)

/-- Fetching, the checks, arbitration and STRICT slots. A packet whose slots all lie below PUT is fetched and GET moves past
them; the expected SEQ follows it; it joins the buffer where every check passes and is answered with the first failed
check's status and reason otherwise; a failed ring access stops the queue; a window's orders are granted, the one that goes
first against a conflicting one, which completes CONFLICT; the microsecond of a STRICT partition opens its slot for four
packets. It rests on R134, R142, R143, R152, R153, R155, R422. -/
def Obligations.QueueFetching : Prop :=
  (∀ (s : State) (a n : Nat) (slots : List Byte), s.pwr.dev = .awake → (s.queue (.admin a)).mayFetch = true → 1 ≤ n →
    n ≤ 8 → n ≤ ((s.queue (.admin a)).sqPut - (s.queue (.admin a)).sqGet).toNat →
    field (s.slotBytes (s.queue (.admin a)) (s.queue (.admin a)).sqGet 0 slots) 3 1 = n →
    (∀ k, k < n → s.slotPoisoned (s.queue (.admin a)) ((s.queue (.admin a)).sqGet + BitVec.ofNat 32 k) = false) →
    ∃ (t : State) (p : Packet), exec (.packetFetch (.admin a) slots) s = .next (t.intake (.admin a) p).settle ∧
      (t.queue (.admin a)).sqGet = (s.queue (.admin a)).sqGet + BitVec.ofNat 32 n ∧ p.pid = s.q.nextPid ∧
      t.q.nextPid = s.q.nextPid + 1 ∧
      p.bytes = ((List.range n).map fun k =>
        s.slotBytes (s.queue (.admin a)) ((s.queue (.admin a)).sqGet + BitVec.ofNat 32 k) k slots).flatten) ∧
  (∀ (s : State) (q : QueueId) (p : Packet), s.frontCheck q (s.queue q).seqExp p = none → s.pwr.deepAccepted = false →
    ((s.intake q p).queue q).buffer = (s.queue q).buffer ++ [p] ∧ ((s.intake q p).queue q).seqExp = p.seq + 1) ∧
  (∀ (s : State) (q : QueueId), (s.queue q).there = true → (s.queue q).fetchErr = false → s.awake = true →
    ∃ t : State, exec (.fetchError q) s = .next t ∧ (t.queue q).fetchErr = true) ∧
  (∀ (s : State) (q : QueueId) (p : Packet), s.orders = [(q, p)] → p.arrival / 1000 < s.nowNs / 1000 → s.q.own = [] →
    s.unfetched (p.arrival / 1000) = false →
    exec .arbitrationWindowEnd s = .next (s.onQueue q fun x =>
      { x with buffer := x.buffer.map fun r => if r.pid = p.pid then { r with granted := true } else r }).settle) ∧
  (∀ (s : State) (a b : Order), s.orders = [a, b] → a.2.arrival / 1000 = b.2.arrival / 1000 →
    a.2.arrival / 1000 < s.nowNs / 1000 → s.q.own = [] → s.unfetched (a.2.arrival / 1000) = false → beats b a = false →
    a.2.pid ≠ b.2.pid → conflicts a.2 b.2 = true →
    exec .arbitrationWindowEnd s = .next (State.settle
      (((s.onQueue a.1 fun x => { x with buffer := x.buffer.map fun r => if r.pid = a.2.pid then { r with granted := true } else r }).onQueue
        b.1 fun x => { x with buffer := x.buffer.filter fun r => r.pid != b.2.pid }).refuse b.1 b.2 stConflict 0 a.1.source))) ∧
  (∀ (s : State) (p : Nat), p < 32 → s.partExists p = true → s.strict p = true → s.nowNs / 1000 % 32 = p →
    s.awake = true → s.part.slot = none →
    ∃ t : State, exec (.pilotStrictSlot p) s = .next t ∧ t.part.slot = some (p, s.nowNs / 1000, 4))

/-- Queues come and go, and the packets on them. It rests on R154, R156, R160, R168, R171. -/
def Obligations.QueuePackets : Prop :=
  (∀ (s : State) (a : Nat) (cfg : Word), s.boot.ready = true → a < 32 → (s.queue (.admin a)).enabled = false →
    ringOk (bits cfg 0 5) = true → ringOk (bits cfg 16 5) = true →
    ∃ t : State, exec (.admqEnable a cfg) s = .next t ∧ (t.queue (.admin a)).enabled = true ∧
      (t.queue (.admin a)).sqLog = bits cfg 0 5 ∧ (t.queue (.admin a)).cqLog = bits cfg 16 5 ∧
      (t.queue (.admin a)).vector = bits cfg 8 6 ∧ (t.queue (.admin a)).sqPut = 0 ∧ (t.queue (.admin a)).cqPut = 0 ∧
      (∀ q : QueueId, q.code ≠ a → t.queue q = s.queue q)) ∧
  (∀ (s : State) (a : Nat) (cfg : Word), s.boot.ready = true → a < 32 → (s.queue (.admin a)).enabled = true →
    ringOk (bits cfg 0 5) = true → ringOk (bits cfg 16 5) = true →
    ∃ t : State, exec (.admqDisable a cfg) s = .next t.settle ∧ (t.queue (.admin a)).enabled = false) ∧
  (∀ (s : State) (q : QueueId) (p : Packet), s.Runs q 0x01 p →
    exec (.nop q) s = .next ((s.take q p).finish p.pid stOk 0 0).settle) ∧
  (∀ (s : State) (q : QueueId) (p : Packet), s.Runs q 0x14 p → p.f 16 1 = 0 →
    exec (.fence q) s = .next (((s.take q p).onInflight p.pid fun i => { i with blocking := true }).waitOn p.pid fun i =>
      decide (i.q = q)).settle) ∧
  (∀ (s : State) (q : QueueId) (p : Packet) (k : Nat), s.Runs q 0x30 p → p.f 40 2 = k → k < 4080 →
    ((s.take q p).objAt (queueEntry p.part k)).isFree = true →
    (s.take q p).queueCount p.part < (s.take q p).queueLimit p.part →
    ∃ (t : State) (h : Nat), exec (.queueCreate q) s = .next (t.finish p.pid stOk h 0).settle ∧
      (t.queue (.part p.part k)).enabled = true ∧ (t.queue (.part p.part k)).sqLog = p.f 32 1 ∧
      (t.queue (.part p.part k)).cqLog = p.f 33 1 ∧ (t.queue (.part p.part k)).vector = p.f 34 1 ∧
      (t.queue (.part p.part k)).seqExp = BitVec.ofNat 32 (p.f 36 4)) ∧
  (∀ (s : State) (q : QueueId) (p : Packet), s.Runs q 0x31 p → ((s.take q p).objAt (handleKey (p.f 16 8))).ended = false →
    (s.take q p).badCounts [handleKey (p.f 16 8)] = [] →
    exec (.queueDestroy q) s = .next (State.settle
      (((((s.take q p).endQueue (.part p.part (p.f 16 8 % 4096))).finish p.pid stOk 0 0).onQueue
        (.part p.part (p.f 16 8 % 4096)) fun x => { x with enabled := false }).leaveQueue (.part p.part (p.f 16 8 % 4096))))) ∧
  (∀ (s : State) (pid d : Nat) (i : Inflight), s.inflight pid = some i → i.deadline = some d → d ≤ s.nowNs →
    i.answer = none → i.pkt.op = 0x13 →
    exec (.packetTimeout pid) s = .next ((s.dropPacketWaiter pid).syncFinish pid .timeout 0).settle) ∧
  (∀ (s : State) (pid d : Nat) (i : Inflight), s.inflight pid = some i → i.deadline = some d → d ≤ s.nowNs →
    i.answer = none → i.pkt.op = 0x40 →
    exec (.packetTimeout pid) s = .next (State.settle ((s.onPwr fun w =>
      { w with sleepPending := w.sleepPending.filter fun x => x != pid }).finish pid stTimeout 0 0)))

/-- A LAUNCH. Its descriptor is read and it joins the launches, or its packet is answered; the oldest launch that waits
takes its ledger as soon as it fits; its clusters are placed in order on the chosen slice, which is woken first where it is
not in RUN; once all are over it completes with its count of blocks and its flags. It rests on R165, R213, R214, R219, R366,
R370. -/
def Obligations.Launches : Prop :=
  (∀ (s x : State) (q : QueueId) (p : Packet) (host : HostMem) (c e : Nat), s.Runs q 0x02 p → p.ctxKey.getD 0 = c →
    p.f 24 8 = e → 64 ≤ e → (s.take q p).accessFault c (e - 64) 64 .read host.refused = none →
    ((s.take q p).settleLighter c (e - 64) 64).meetEccVa c (e - 64) 64 host.ecc = x →
    (x.readVa c (e - 64) 64 host.bytes).any Prod.snd = false →
    exec (.launch q host) s = .next (x.startLaunch p ((x.readVa c (e - 64) 64 host.bytes).map Prod.fst)).settle) ∧
  (∀ (s : State) (p : Packet) (d : List Byte), descBad p d = none →
    (mkLaunch p d (s.work.nextLaunch + 1)).ledgerNeed ≤ 0x800000 →
    s.usableFor (mkLaunch p d (s.work.nextLaunch + 1)) ≠ [] →
    (s.startLaunch p d).work.nextLaunch = s.work.nextLaunch + 1 ∧
      ((s.startLaunch p d).launch (s.work.nextLaunch + 1)).live = true ∧
      ((s.startLaunch p d).launch (s.work.nextLaunch + 1)).pid = p.pid ∧
      ((s.startLaunch p d).launch (s.work.nextLaunch + 1)).grid = (p.f 40 4, p.f 44 4, p.f 48 4)) ∧
  (∀ (s : State) (p : Packet) (d : List Byte) (off : Nat), descBad p d = some off →
    s.startLaunch p d = s.finish p.pid stBadParam 0 (reason 0x06 off)) ∧
  (∀ (s : State) (n : Nat), (s.launch n).live = true → (s.launch n).waitLedger = true →
    (∀ e ∈ s.work.launch, e.2.part = (s.launch n).part → e.2.waitLedger = true → n ≤ e.1) →
    s.ledgerFits (s.launch n) = true → s.awake = true →
    exec (.ledgerAllocate n) s = .next (s.takeLedger n).settle) ∧
  (∀ (s : State) (n sl : Nat) (cs : List Nat), (s.launch n).live = true → (s.launch n).waitLedger = false →
    s.awake = true → s.tw.tripped = false → (s.ctx (s.launch n).ctx).st = .live → s.isFrozen (s.launch n).part = false →
    (s.launch n).rerun = [] → (s.launch n).replace = [] → (s.launch n).nextCluster < (s.launch n).clusters →
    s.chooseSlice (s.launch n) ((s.launch n).members (s.launch n).nextCluster).length = some (sl, cs) →
    exec (.clusterPlace n) s = .next (State.settle (if (s.slice sl).st ≠ .run then s.wakeSlice sl
      else ((s.placeCluster n (s.launch n).nextCluster cs).onLaunch n fun l =>
        { l with nextCluster := l.nextCluster + 1 }).greetCores n cs))) ∧
  (∀ (s : State) (n : Nat), s.awake = true → s.launchOver n = true → (s.ctx (s.launch n).ctx).st = .live →
    exec (.launchComplete n) s =
      .next (s.endLaunch n (flagStatus (s.launch n).detail) (s.launch n).result (s.launch n).detail).settle)

/-- The packets that movers carry out start their pieces where their parameters are good, and answer with the offset of the
one that is not; without a core of the partition left they complete FAULTED (log 95); CONVERT opens its stream; PACK refuses
a PROTECTED destination; a mover runs the piece at the head of its queue. It rests on R166, R228, R252, R253, R261, R332. -/
def Obligations.MoverPackets : Prop :=
  (∀ (s : State) (q : QueueId) (p : Packet), s.Runs q 0x03 p → (s.take q p).copyBad p = none →
    (s.take q p).noMover p.part = false →
    exec (.copy q) s = .next ((s.take q p).splitPacket p 127).settle) ∧
  (∀ (s : State) (q : QueueId) (p : Packet) (off : Nat), s.Runs q 0x03 p → (s.take q p).copyBad p = some off →
    exec (.copy q) s = .next ((s.take q p).finish p.pid stBadParam 0 (reason 0x06 off)).settle) ∧
  (∀ (s : State) (q : QueueId) (p : Packet), s.Runs q 0x04 p → (s.take q p).noMover p.part = false →
    exec (.fill q) s = .next ((s.take q p).splitPacket p 127).settle) ∧
  (∀ (s : State) (q : QueueId) (p : Packet), s.Runs q 0x05 p → convertBad p = none →
    (s.take q p).noMover p.part = false →
    exec (.convert q) s = .next (((s.take q p).openStream (p.ctxKey.getD 0) (p.f 53 1)).splitPacket p
      (((s.take q p).openStream (p.ctxKey.getD 0) (p.f 53 1)).convertScale p)).settle) ∧
  (∀ (s : State) (q : QueueId) (p : Packet), s.Runs q 0x06 p →
    (s.take q p).anyMap (p.ctxKey.getD 0) (p.f 32 8) (p.f 40 8 / 32 * 48) Mapping.prot = false →
    (s.take q p).noMover p.part = false →
    exec (.pack q) s = .next ((s.take q p).splitPacket p 127).settle) ∧
  (∀ (s : State) (q : QueueId) (p : Packet), s.Runs q 0x06 p →
    (s.take q p).anyMap (p.ctxKey.getD 0) (p.f 32 8) (p.f 40 8 / 32 * 48) Mapping.prot = true →
    exec (.pack q) s = .next ((s.take q p).finish p.pid stBadParam 0 (reason 0x06 32)).settle) ∧
  (∀ (s : State) (q : QueueId) (p : Packet), s.Runs q 0x07 p → (s.take q p).noMover p.part = false →
    exec (.unpack q) s = .next ((s.take q p).splitPacket p 127).settle) ∧
  (∀ (s : State) (q : QueueId) (p : Packet) (c : Instr), (c = .fill q ∧ s.Runs q 0x04 p) ∨ (c = .unpack q ∧ s.Runs q 0x07 p) →
    (s.take q p).noMover p.part = true → exec c s = .next ((s.take q p).finish p.pid stFaulted 0 0).settle) ∧
  (∀ (s : State) (core pid off n : Nat) (r : List MovWork) (host : HostMem), (s.coreAt core).mover = .piece pid off n :: r →
    s.moverRuns core = true → s.inflight pid = none →
    exec (.moverPieceComplete core host) s =
      .next ((s.onCoreAt core fun c => { c with mover := r }).runPiece core pid off n host).settle) ∧
  (∀ (s : State) (core pid off n : Nat) (r : List MovWork) (host : HostMem) (i : Inflight),
    (s.coreAt core).mover = .piece pid off n :: r → s.moverRuns core = true → s.inflight pid = some i →
    (∀ x ∈ pieceRanges i.pkt off n, s.vaKept (i.pkt.ctxKey.getD 0) x.1 x.2.1 (x.2.2 == .write) = false) →
    exec (.moverPieceComplete core host) s =
      .next ((s.onCoreAt core fun c => { c with mover := r }).runPiece core pid off n host).settle)

/-- The packets on counters and semaphores. An add or post on an own object goes to its sync store, one that names another
partition's object is DENIED, one for another device leaves as a message; a wait blocks its queue and carries its deadline.
The packets on events. EVENT_EXPORT writes the token; EVENT_IMPORT of a token of this device opens a mirror where it is
genuine and is refused otherwise; SIGNAL_HOST writes the word once, binds it, or takes the binding away after a last write;
an event whose value has risen is sent to its importer and written to its bound word. It rests on R146, R160, R168, R393,
R198, R199, R200, R203, R204. -/
def Obligations.SyncAndEventPackets : Prop :=
  (∀ (s : State) (q : QueueId) (p : Packet), s.Runs q 0x10 p → (s.take q p).isLocal (p.f 20 1) = true →
    (s.take q p).owns p.part (objSlice (p.f 16 4 % 2 ^ 18)) = true →
    exec (.tallyAdd q) s = .next ((s.take q p).submit (p.syncOp .add (p.f 24 8) none)).settle) ∧
  (∀ (s : State) (q : QueueId) (p : Packet), s.Runs q 0x10 p → (s.take q p).isLocal (p.f 20 1) = true →
    (s.take q p).owns p.part (objSlice (p.f 16 4 % 2 ^ 18)) = false →
    exec (.tallyAdd q) s = .next ((s.take q p).finish p.pid stDenied 0 (reason 0x0A 16)).settle) ∧
  (∀ (s : State) (q : QueueId) (p : Packet), s.Runs q 0x11 p →
    exec (.tallyWait q) s = .next ((s.take q p).waitPacket p .waitGe (p.f 24 8)).settle) ∧
  (∀ (s : State) (q : QueueId) (p : Packet), s.Runs q 0x12 p → (s.take q p).isLocal (p.f 20 1) = true →
    (s.take q p).owns p.part (objSlice (p.f 16 4 % 2 ^ 18)) = true →
    exec (.semPost q) s = .next ((s.take q p).submit (p.syncOp .post (p.f 24 4) none)).settle) ∧
  (∀ (s : State) (q : QueueId) (p : Packet) (st : Nat), s.Runs q 0x12 p → (s.take q p).isLocal (p.f 20 1) = false →
    (s.take q p).unreachable (p.f 20 1) = some st →
    exec (.semPost q) s = .next ((s.take q p).finish p.pid st 0 0).settle) ∧
  (∀ (s : State) (q : QueueId) (p : Packet), s.Runs q 0x13 p →
    exec (.semWait q) s = .next ((s.take q p).waitPacket p .take (p.f 24 4)).settle) ∧
  (∀ (s : State) (q : QueueId) (p : Packet), s.Runs q 0x15 p →
    ((s.take q p).exportsOf p.part).any (fun x => x.1 == p.event.2.2 && x.2 == hGen (p.f 24 8)) = true →
    exec (.eventExport q) s = .next (State.settle (((s.take q p).emit (.hostWrite q.fn (p.f 32 8)
      ((s.take q p).token p.part (hGen (p.f 24 8)) p.event.2.2) false)).finish p.pid stOk 0 0))) ∧
  (∀ (s : State) (q : QueueId) (p : Packet), s.Runs q 0x16 p →
    (tokenParts ((p.bytes.drop 24).take 16)).1 ≠ (s.take q p).tokenId.1 →
    exec (.eventImport q) s = .next ((s.take q p).finish p.pid stBadParam 0 (reason 0x0C 24)).settle) ∧
  (∀ (s : State) (q : QueueId) (p : Packet) (v : DWord), s.Runs q 0x16 p →
    (tokenParts ((p.bytes.drop 24).take 16)).1 = (s.take q p).tokenId.1 →
    (tokenParts ((p.bytes.drop 24).take 16)).2.1 = (s.take q p).tokenId.2 →
    (s.take q p).verifyToken ((p.bytes.drop 24).take 16) = some v →
    exec (.eventImport q) s = .next (State.settle (((s.take q p).addImporter ((p.bytes.drop 24).take 16) 0xFF v).openMirror
      p.pid p ((p.bytes.drop 24).take 16) 0xFF v))) ∧
  (∀ (s : State) (q : QueueId) (p : Packet), s.Runs q 0x17 p → p.f 40 1 = 0 →
    exec (.signalHostOnce q) s = .next (State.settle (((s.take q p).lastWord p.part q.fn (p.f 32 8)
      ((s.take q p).eventValue p.event.1 p.event.2.1)).finish p.pid stOk
        ((s.take q p).eventValue p.event.1 p.event.2.1).toNat 0))) ∧
  (∀ (s : State) (part fn word : Nat) (v : DWord), (s.lastWord part fn word v).out =
      .hostWrite fn word (toLe 8 v.toNat) false :: s.out ∧ (s.lastWord part fn word v).obj.tab = s.obj.tab ∧
      (s.lastWord part fn word v).obj.bindings = s.obj.bindings ∧ (s.lastWord part fn word v).mem = s.mem) ∧
  (∀ (s : State) (q : QueueId) (p : Packet), s.Runs q 0x17 p → p.f 40 1 = 1 →
    (∀ b ∈ (s.take q p).obj.bindings, b.part ≠ p.part) →
    ∃ b : Binding, exec (.signalHostBind q) s = .next (State.settle ((((s.take q p).onObj fun o =>
      { o with bindings := o.bindings ++ [b] }).emit (.hostWrite q.fn (p.f 32 8) (toLe 8 b.last.toNat) false)).finish p.pid stOk
        b.last.toNat 0)) ∧ b.fn = q.fn ∧ b.part = p.part ∧ b.event = p.event.2.2 ∧ b.word = p.f 32 8 ∧
      b.last = (s.take q p).eventValue p.event.1 p.event.2.1) ∧
  (∀ (s : State) (q : QueueId) (p : Packet) (b : Binding), s.Runs q 0x17 p → p.f 40 1 = 2 →
    (s.take q p).obj.bindings = [b] → b.part = p.part → b.event = p.event.2.2 → b.word = p.f 32 8 →
    exec (.signalHostUnbind q) s = .next (State.settle ((((s.take q p).onObj fun o => { o with bindings := [] }).lastWord
      p.part q.fn (p.f 32 8) ((s.take q p).eventValue p.event.1 p.event.2.1)).finish p.pid stOk 0 0))) ∧
  (∀ (s : State) (i : Importer) (v : DWord), s.awake = true → s.obj.importers = [i] → i.dev ≠ 0xFF →
    s.eventValue (objKey i.part (i.event / 2 ^ 17)) (i.event % 2 ^ 17) = v → i.last.toNat < v.toNat →
    ∃ (t : State) (m : FleetMsg), exec .mirrorUpdateSend s = .next (t.sendMsg m).settle ∧
      t.obj.importers = [{ i with last := v }] ∧ m.cls = 3 ∧ m.sub = 1 ∧ m.dst = i.dev ∧
      m.body = toLe 4 i.event ++ toLe 1 i.part ++ toLe 3 i.gen ++ toLe 8 v.toNat ++ toLe 1 0) ∧
  (∀ (s : State) (b : Binding) (v : DWord), s.awake = true → s.obj.bindings = [b] →
    s.eventValue (objKey b.part (b.event / 2 ^ 17)) (b.event % 2 ^ 17) = v → b.last.toNat < v.toNat →
    exec (.signalWordUpdate []) s = .next (State.emit (.hostWrite b.fn b.word (toLe 8 v.toNat) false)
      (s.onObj fun o => { o with bindings := [{ b with last := v }], lastWords := [] })))

/-- MEM_ALLOC takes the lowest place, fills it with zeros and answers the handle, or answers NO_RESOURCE; MEM_FREE releases
the reference that MEM_ALLOC gave, once; OBJ_RETAIN counts up, OBJ_RELEASE gives back a retain or the creation and no more,
and a pair that does not match freezes the object; POOL_SET moves the pool only clear of what is in use. It rests on R169,
R187, R188, R189, R190, R192. -/
def Obligations.MemoryAndObjectPackets : Prop :=
  (∀ (s : State) (q : QueueId) (p : Packet) (sl d i : Nat), s.Runs q 0x20 p →
    (s.take q p).findPlace p.part (p.f 32 1) (2 ^ p.f 33 1) (p.f 24 8) ((ones ((s.take q p).slicesOf p.part)).filter fun k =>
      p.f 36 4 == 0 || (p.f 36 4).testBit k) = some (sl, d) → (s.take q p).freeOther p.part = some i →
    ∃ t : State, exec (.memAlloc q) s = .next (t.finish p.pid stOk (t.handleOf (objKey p.part i)) 0).settle ∧
      t.mem = s.mem.zero d (p.f 24 8) ∧ (t.objAt (objKey p.part i)).kind = .memory ∧
      (t.objAt (objKey p.part i)).count = 1 ∧ (t.objAt (objKey p.part i)).creation = true) ∧
  (∀ (s : State) (q : QueueId) (p : Packet), s.Runs q 0x20 p →
    (s.take q p).findPlace p.part (p.f 32 1) (2 ^ p.f 33 1) (p.f 24 8)
      ((ones ((s.take q p).slicesOf p.part)).filter fun k => p.f 36 4 == 0 || (p.f 36 4).testBit k) = none →
    exec (.memAlloc q) s = .next ((s.take q p).finish p.pid stNoResource 0 0).settle) ∧
  (∀ (s : State) (q : QueueId) (p : Packet) (a b c d e : Nat), s.Runs q 0x21 p →
    ((s.take q p).objAt (handleKey (p.f 16 8))).body = .memory a b c d false e →
    ((s.take q p).objAt (handleKey (p.f 16 8))).creation = true →
    exec (.memFree q) s = .next (State.settle (State.replyRef p.pid
      ((s.take q p).releaseRef (handleKey (p.f 16 8)) (fun o => { o with creation := false }) p.tag)))) ∧
  (∀ (s : State) (q : QueueId) (p : Packet), s.Runs q 0x21 p →
    ((s.take q p).objAt (handleKey (p.f 16 8))).creation = false →
    exec (.memFree q) s = .next ((s.take q p).finish p.pid stBadParam 0 (reason 0x0C 16)).settle) ∧
  (∀ (s : State) (q : QueueId) (p : Packet), s.Runs q 0x24 p →
    ((s.take q p).objAt (handleKey (p.f 16 8))).ended = false → (s.take q p).killedCtx (p.f 16 8) = false →
    ((s.take q p).objAt (handleKey (p.f 16 8))).pairOk = true →
    ((s.take q p).objAt (handleKey (p.f 16 8))).count ≠ 0 → ((s.take q p).objAt (handleKey (p.f 16 8))).count ≠ 0xFFFFFFFF →
    ∃ t : State, exec (.objRetain q) s = .next (t.finish p.pid stOk
        (((s.take q p).objAt (handleKey (p.f 16 8))).count.toNat + 1) 0).settle ∧
      (t.objAt (handleKey (p.f 16 8))).count = ((s.take q p).objAt (handleKey (p.f 16 8))).count + 1 ∧
      (t.objAt (handleKey (p.f 16 8))).retains = ((s.take q p).objAt (handleKey (p.f 16 8))).retains + 1) ∧
  (∀ (s : State) (q : QueueId) (p : Packet), s.Runs q 0x24 p →
    ((s.take q p).objAt (handleKey (p.f 16 8))).pairOk = false →
    exec (.objRetain q) s =
      .next (((s.take q p).freezeObj (handleKey (p.f 16 8)) p.tag).finish p.pid stIntegrity 0 0).settle) ∧
  (∀ (s : State) (q : QueueId) (p : Packet), s.Runs q 0x25 p → (s.take q p).killedCtx (p.f 16 8) = false →
    (((s.take q p).objAt (handleKey (p.f 16 8))).pairOk = true →
      ((s.take q p).objAt (handleKey (p.f 16 8))).releasable = true) →
    exec (.objRelease q) s = .next (State.settle (State.replyRef p.pid
      ((s.take q p).releaseRef (handleKey (p.f 16 8)) Obj.dropOne p.tag)))) ∧
  (∀ (s : State) (q : QueueId) (p : Packet), s.Runs q 0x25 p → (s.take q p).killedCtx (p.f 16 8) = false →
    ((s.take q p).objAt (handleKey (p.f 16 8))).pairOk = true →
    ((s.take q p).objAt (handleKey (p.f 16 8))).releasable = false →
    exec (.objRelease q) s = .next ((s.take q p).finish p.pid stBadParam 0 (reason 0x0C 16)).settle) ∧
  (∀ (s : State) (q : QueueId) (p : Packet), s.Runs q 0x26 p → 0x240000000 < p.f 24 8 + p.f 32 8 →
    exec (.poolSet q) s = .next ((s.take q p).finish p.pid stBadParam 0 (reason 0x06 32)).settle) ∧
  (∀ (s : State) (q : QueueId) (p : Packet), s.Runs q 0x26 p → p.f 24 8 + p.f 32 8 ≤ 0x240000000 →
    (∀ u ∈ (s.take q p).claimed p.part (p.f 16 1) 0,
      overlap (hbmBase (p.f 16 1) + p.f 24 8) (p.f 32 8) u.1 u.2 = false) →
    (s.take q p).chandlerObjs (p.f 16 1) = [] →
    exec (.poolSet q) s = .next (State.settle (((s.take q p).onObj fun o =>
      { o with pool := o.pool.put (p.f 16 1) (0, 0) (p.f 24 8, p.f 32 8) }).finish p.pid stOk 0 0))) ∧
  (∀ (s : State) (q : QueueId) (p : Packet) (u : Nat × Nat), s.Runs q 0x26 p → p.f 24 8 + p.f 32 8 ≤ 0x240000000 →
    u ∈ (s.take q p).claimed p.part (p.f 16 1) 0 →
    overlap (hbmBase (p.f 16 1) + p.f 24 8) (p.f 32 8) u.1 u.2 = true →
    exec (.poolSet q) s = .next ((s.take q p).finish p.pid stBadParam 0 (reason 0x06 24)).settle)

/-- Mappings, contexts and runs. MEM_MAP adds its mapping and takes a reference to its object, or names the field that is
bad; MEM_UNMAP and CONTEXT_DESTROY wait for the earlier packets of their context; CONTEXT_CREATE makes a live context with
its PASID where there is room; RUN_BEGIN clears its counters where none is in an open run or waited on, and RUN_END of an
open run closes it. It rests on R170, R171, R182, R191, R196, R205. -/
def Obligations.ContextPackets : Prop :=
  (∀ (s : State) (q : QueueId) (p : Packet) (off : Nat), s.Runs q 0x22 p → (s.take q p).mapBad p = some off →
    exec (.memMap q) s = .next ((s.take q p).finish p.pid stBadParam 0 (reason 0x06 off)).settle) ∧
  (∀ (s : State) (q : QueueId) (p : Packet), s.Runs q 0x22 p → (s.take q p).mapBad p = none → p.f 32 8 = 0 →
    (p.f 57 1).testBit 3 = false →
    (s.take q p).tablesUsed p.part - tableCount ((s.take q p).mapsOf (objKey p.part (hIdx (p.f 16 8)))) +
      tableCount ((s.take q p).mapsOf (objKey p.part (hIdx (p.f 16 8))) ++ [p.mapping (.host (p.f 40 8)) none]) ≤ 16384 →
    exec (.memMap q) s = .next (State.settle (((s.take q p).onCtx (objKey p.part (hIdx (p.f 16 8))) fun x =>
      { x with maps := x.maps ++ [p.mapping (.host (p.f 40 8)) none] }).finish p.pid stOk 0 0))) ∧
  (∀ (s : State) (q : QueueId) (p : Packet), s.Runs q 0x23 p →
    exec (.memUnmap q) s = .next ((s.take q p).waitOn p.pid fun i => i.ctx == p.ctxKey).settle) ∧
  (∀ (s : State) (q : QueueId) (p : Packet) (i : Nat), s.Runs q 0x32 p → (s.take q p).freeOther p.part = some i →
    (s.take q p).ctxRoom p.part = true → 
    (s.take q p).tablesUsed p.part + tableCount ((s.take q p).windows (objKey p.part i)) ≤ 16384 →
    ∃ t : State, exec (.contextCreate q) s = .next (t.finish p.pid stOk (t.handleOf (objKey p.part i)) 0).settle ∧
      (t.ctx (objKey p.part i)).st = .live ∧ (t.ctx (objKey p.part i)).pasid = p.f 16 4 % 2 ^ 20 ∧
      (t.ctx (objKey p.part i)).maps = [] ∧ (t.objAt (objKey p.part i)).kind = .context) ∧
  (∀ (s : State) (q : QueueId) (p : Packet), s.Runs q 0x32 p → (s.take q p).ctxRoom p.part = false →
    exec (.contextCreate q) s = .next ((s.take q p).finish p.pid stNoResource 0 0).settle) ∧
  (∀ (s : State) (q : QueueId) (p : Packet), s.Runs q 0x33 p → ((s.take q p).objAt (handleKey (p.f 16 8))).ended = false →
    exec (.contextDestroy q) s = .next ((s.take q p).waitOn p.pid fun i => i.ctx == p.ctxKey).settle) ∧
  (∀ (s : State) (q : QueueId) (p : Packet), s.Runs q 0x33 p → ((s.take q p).objAt (handleKey (p.f 16 8))).ended = true →
    exec (.contextDestroy q) s = .next ((s.take q p).finish p.pid stFaulted 0 0).settle) ∧
  (∀ (s : State) (q : QueueId) (p : Packet) (i : Nat), s.Runs q 0x34 p → (s.take q p).freeRun p.part = some i →
    (∀ c, p.f 24 4 ≤ c → c < p.f 24 4 + p.f 28 4 →
      (s.take q p).inOpenRun c = false ∧ ((s.take q p).tally c).waiters = []) →
    ∃ t : State, exec (.runBegin q) s = .next (t.finish p.pid stOk (t.handleOf (objKey p.part i)) 0).settle ∧
      (t.objAt (objKey p.part i)).kind = .run ∧ (t.objAt (objKey p.part i)).count = 2 ∧
      (∀ c, p.f 24 4 ≤ c → c < p.f 24 4 + p.f 28 4 → t.tally c = {}) ∧ t.sync.sem = s.sync.sem) ∧
  (∀ (s : State) (q : QueueId) (p : Packet) (f n a : Nat) (l : List DWord) (e : Option MirrorOf), s.Runs q 0x35 p →
    ((s.take q p).objAt (handleKey (p.f 16 8))).body = .run f n true a l e →
    (∀ c, f ≤ c → c < f + n → ((s.take q p).tally c).waiters = []) →
    ((s.take q p).objAt (handleKey (p.f 16 8))).pairOk = true →
    exec (.runEnd q) s = .next (((s.take q p).closeRun (handleKey (p.f 16 8))).finish p.pid stOk
      ((s.take q p).eventValue (handleKey (p.f 16 8)) f).toNat 0).settle)

/-- QUERY answers each of its items with the value the device holds. LOG_READ writes entries of 64 bytes to the host and
answers how many and the SEQ after the last; LOG_RELEASE pops the entries before its value, and none where the value lies
beyond LOG_NEXT; the masks take the value written, and no cause changes. It rests on R180, R181, R462, R463, R475, R477. -/
def Obligations.QueriesAndLog : Prop :=
  (∀ (s : State) (q : QueueId) (p : Packet), s.Runs q 0x70 p →
    (p.f 16 1 = 0 → exec (.querySerial q) s = .next ((s.take q p).finish p.pid stOk Config.serial.toNat 0).settle) ∧
    (p.f 16 1 = 1 → exec (.queryCores q) s = .next ((s.take q p).finish p.pid stOk s.coresOn 0).settle) ∧
    (p.f 16 1 = 2 →
      exec (.querySliceCores q) s = .next ((s.take q p).finish p.pid stOk (s.coreMask (p.f 17 1)).toNat 0).settle) ∧
    (p.f 16 1 = 3 → exec (.queryTime q) s = .next ((s.take q p).finish p.pid stOk (s.nowNs % 2 ^ 64) 0).settle) ∧
    (p.f 16 1 = 4 → exec (.queryFwVer q) s = .next ((s.take q p).finish p.pid stOk s.boot.fwVer.toNat 0).settle) ∧
    (p.f 16 1 = 5 →
      exec (.queryHbmFree q) s = .next ((s.take q p).finish p.pid stOk ((s.take q p).freeBytes p.part 0) 0).settle) ∧
    (p.f 16 1 = 6 → exec (.queryDeckFree q) s =
      .next ((s.take q p).finish p.pid stOk ((s.take q p).freeBytes p.part (p.f 17 1 + 1)) 0).settle) ∧
    (∀ ids, ids = ((ones ((s.take q p).slicesOf p.part)).map fun sl => (List.range 4096).map (sl * 4096 + ·)).flatten →
      p.f 16 1 = 7 → exec (.querySyncFree q) s = .next ((s.take q p).finish p.pid stOk
        ((ids.filter (s.take q p).tallyFree).length + (ids.filter fun i => ((s.take q p).sem i).waiters.isEmpty &&
          ((s.take q p).sem i).holders.isEmpty && !((s.take q p).sem i).bad).length * 2 ^ 32) 0).settle)) ∧
  (∀ (s : State) (q : QueueId) (p : Packet) (l : List LogEntry) (e : LogEntry), s.Runs q 0x71 p → p.f 24 4 < 2 ^ 31 →
    (s.take q p).logPick q (p.f 24 4) (p.f 28 2) = l → l.getLast? = some e →
    exec (.logRead q) s = .next (State.settle (((s.take q p).emit (.hostWrite q.fn (p.f 16 8)
      ((l.map LogEntry.bytes).flatten) false)).finish p.pid stOk (l.length + seq31 (e.seq + 1) * 2 ^ 32) 0))) ∧
  (∀ (s : State) (q : QueueId) (p : Packet), s.Runs q 0x71 p → p.f 24 4 < 2 ^ 31 →
    (s.take q p).logPick q (p.f 24 4) (p.f 28 2) = [] →
    exec (.logRead q) s = .next (State.settle (((s.take q p).emit (.hostWrite q.fn (p.f 16 8) [] false)).finish p.pid stOk
      (seq31 s.log.next * 2 ^ 32) 0))) ∧
  (∀ (s : State) (v : Word), s.boot.ready = true → s.asleep = false → precedes s.log.next v.toNat = false →
    ∃ t : State, exec (.logRelease v) s = .next t.settle ∧
      t.log.entries = s.log.entries.filter (fun e => !precedes e.seq v.toNat) ∧ t.log.history = s.log.history ∧
      t.log.next = s.log.next) ∧
  (∀ (s : State) (v : Word), s.boot.ready = true → precedes s.hostWake.log.next v.toNat = true →
    exec (.logRelease v) s = .next s.hostWake.settle) ∧
  (∀ (s : State) (v : Word), s.ao.hubOut = true → s.asleep = false →
    ∃ t : State, exec (.intMaskWrite v) s = .next t.settle ∧ t.host.intMask = v &&& 0xFF ∧ t.host.intCause = s.host.intCause) ∧
  (∀ (s : State) (n : Nat) (v : BitVec 3), n < 32 → s.boot.ready = true → s.host.vfEnable = true → s.asleep = false →
    ∃ t : State, exec (.vfsMaskWrite n v) s = .next t.settle ∧ (t.host.vfs.look n {}).mask = v)

/-- The store of non-volatile records. NVM_READ writes the newest committed slot's data to the host and answers its length
and SEQ, or is LOST and logged where there is none. NVM_WRITE queues a write of the bytes at SRC, is THERMAL and logged while
the store refuses, and LOST where a byte at SRC is poisoned. An erase is followed by the data pages, the header and the
marker; a read-back of the marker that agrees commits the slot, and its packet is answered with the new SEQ; a first
read-back that fails erases the slot once more, and a second fails the write. It rests on R179, R183, R455, R456, R459,
R465. -/
def Obligations.RecordStore : Prop :=
  (∀ (s : State) (q : QueueId) (p : Packet) (j : Nat), s.Runs q 0x68 p → (s.take q p).newest (p.f 16 4) = some j →
    exec (.nvmRead q) s = .next (State.settle (((s.take q p).emit (.hostWrite q.fn (p.f 24 8)
      (((s.take q p).nvmSlot (p.f 16 4) j).data.take (p.f 32 4)) false)).finish p.pid stOk
        (((s.take q p).nvmSlot (p.f 16 4) j).data.length + ((s.take q p).nvmSlot (p.f 16 4) j).seq.toNat * 2 ^ 32) 0))) ∧
  (∀ (s : State) (q : QueueId) (p : Packet), s.Runs q 0x68 p → (s.take q p).newest (p.f 16 4) = none →
    exec (.nvmRead q) s = .next (((s.take q p).logOcc { event := 0x901, sev := 2, tag := p.tag, code := p.f 16 4 }).finish
      p.pid stLost 0 0).settle) ∧
  (∀ (s : State) (q : QueueId) (p : Packet) (d : List (Option Byte)) (l : List Byte), s.Runs q 0x69 p →
    s.nvm.queue.length < 16 → s.nvm.refusing = false →
    ((List.range (p.f 32 4)).map fun i => d.getD i none) = l.map some →
    exec (.nvmWrite q d) s =
      .next ((s.take q p).nvmQueue { rec_ := p.f 16 4, data := l, why := .packet p.pid }).settle) ∧
  (∀ (s : State) (q : QueueId) (p : Packet) (d : List (Option Byte)) (k : Nat), s.Runs q 0x69 p →
    s.nvm.queue.length < 16 → s.nvm.refusing = false → k < p.f 32 4 → d.getD k none = none →
    (∀ i, i < k → (d.getD i none).isSome = true) →
    exec (.nvmWrite q d) s = .next ((s.take q p).finish p.pid stLost 0 k).settle) ∧
  (∀ (s : State) (q : QueueId) (p : Packet) (d : List (Option Byte)), s.Runs q 0x69 p → s.nvm.queue.length < 16 →
    s.nvm.refusing = true →
    exec (.nvmWrite q d) s = .next (((s.take q p).logOcc
      { event := 0x902, sev := 2, tag := p.tag, code := p.f 16 4 }).finish p.pid stThermal 0 0).settle) ∧
  (∀ (s : State) (w : NvmWrite) (j : Nat) (r : Bool), s.nvm.slotBusy = none → s.nvm.slotJobs = [] →
    s.nvm.cur = some (w, j, .erase, r) →
    ∃ t : State, exec .nvmEraseDone s = .next t.settle ∧
      t.nvm.cur = some (w, j, if 1 ≤ lastDataPage w.data.length then .page 1 else .hdr, r) ∧ t.nvm.slot = s.nvm.slot ∧
      t.nvm.queue = s.nvm.queue) ∧
  (∀ (s : State) (b : Bool) (w : NvmWrite) (j n : Nat) (r : Bool), s.nvm.slotBusy = none → s.nvm.slotJobs = [] →
    s.nvm.stop = false → s.nvm.cur = some (w, j, .page n, r) →
    ∃ t : State, exec (.nvmPageDone b) s = .next t.settle ∧
      t.nvm.cur = some (w, j, if n < lastDataPage w.data.length then .page (n + 1) else .hdr, r) ∧
      t.nvm.slot = s.nvm.slot) ∧
  (∀ (s : State) (b : Bool) (w : NvmWrite) (j : Nat) (r : Bool), s.nvm.slotBusy = none → s.nvm.slotJobs = [] →
    s.nvm.stop = false → s.nvm.cur = some (w, j, .hdr, r) →
    ∃ t : State, exec (.nvmPageDone b) s = .next t.settle ∧ t.nvm.cur = some (w, j, .marker, r) ∧
      (t.nvmSlot w.rec_ j).data = w.data ∧ (t.nvmSlot w.rec_ j).seq = s.nextSeq w.rec_ ∧
      (t.nvmSlot w.rec_ j).marker = false) ∧
  (∀ (s : State) (w : NvmWrite) (j pid : Nat) (r : Bool), s.nvm.slotBusy = none → s.nvm.slotJobs = [] →
    s.nvm.stop = false → s.nvm.cur = some (w, j, .marker, r) → w.why = .packet pid →
    ∃ t : State, exec (.nvmPageDone true) s =
        .next (State.settle (State.nvmStart (t.finish pid stOk (s.nvmSlot w.rec_ j).seq.toNat 0))) ∧
      t.nvm.cur = none ∧ t.nvmSlot w.rec_ j = { s.nvmSlot w.rec_ j with marker := true } ∧
      t.nvm.writes = s.nvm.writes + 1) ∧
  (∀ (s : State) (w : NvmWrite) (j : Nat), s.nvm.slotBusy = none → s.nvm.slotJobs = [] → s.nvm.stop = false →
    s.nvm.cur = some (w, j, .marker, false) →
    ∃ t : State, exec (.nvmPageDone false) s = .next t.settle ∧ t.nvm.cur = some (w, j, .erase, true) ∧
      (t.nvmSlot w.rec_ j).marker = false) ∧
  (∀ (s : State) (w : NvmWrite) (j pid : Nat), s.nvm.slotBusy = none → s.nvm.slotJobs = [] → s.nvm.stop = false →
    s.nvm.cur = some (w, j, .marker, true) → w.why = .packet pid →
    ∃ t : State, exec (.nvmPageDone false) s =
        .next (State.settle (State.nvmStart (t.finish pid stNoResource 0 1))) ∧
      t.nvm.cur = none ∧ (t.nvmSlot w.rec_ j).marker = false)

/-- The partition packets. PART_CREATE of a free number with free slices makes a partition with its slices, mode, clock and
contexts and new keys, and refuses slices that are not free; PART_DESTROY takes the partition and its slices and begins
their fill, whose end releases the slices and completes the packet; PART_QUERY tells what a partition holds. It rests on
R176, R408, R409, R416, R436. -/
def Obligations.PartitionPackets : Prop :=
  (∀ (s : State) (q : QueueId) (p : Packet), s.Runs q 0x50 p → (s.take q p).partExists p.part = true →
    exec (.partCreate q true) s = .next ((s.take q p).finish p.pid stBadParam 0 (reason 0x06 4)).settle) ∧
  (∀ (s : State) (q : QueueId) (p : Packet), s.Runs q 0x50 p → (s.take q p).partExists p.part = false →
    (∀ k, k < 32 → (BitVec.ofNat 32 (p.f 16 4)).getLsbD k = true → (s.take q p).owner k = none ∧
      s.boot.avail.getLsbD k = true ∧ ((s.take q p).slice k).unavail = false ∧ s.part.scrub.getLsbD k = false) →
    p.f 20 1 = 0 →
    ∃ t : State, exec (.partCreate q true) s = .next (t.finish p.pid stOk 0 0).settle ∧
      t.slicesOf p.part = BitVec.ofNat 32 (p.f 16 4) ∧ t.partExists p.part = true ∧ t.strict p.part = false ∧
      t.part.keyNext = s.part.keyNext + 1) ∧
  (∀ (s : State) (q : QueueId) (p : Packet), s.Runs q 0x51 p → (s.take q p).partExists p.part = false →
    exec (.partDestroy q) s = .next ((s.take q p).finish p.pid stBadParam 0 (reason 0x06 4)).settle) ∧
  (∀ (s : State) (q : QueueId) (p : Packet), s.Runs q 0x51 p → (s.take q p).partExists p.part = true →
    ∃ t : State, exec (.partDestroy q) s = .next t.settle ∧ t.partExists p.part = false ∧
      (p.part, p.pid, (s.take q p).slicesOf p.part) ∈ t.part.scrubbing) ∧
  (∀ (s : State) (n pid : Nat) (m : Word), s.awake = true → s.part.scrubbing = [(n, pid, m)] →
    ∃ t : State, exec (.partScrubComplete n) s = .next (t.finish pid stOk 0 0).settle ∧ t.part.scrubbing = [] ∧
      t.part.scrub = s.part.scrub &&& ~~~m) ∧
  (∀ (s : State) (q : QueueId) (p : Packet), s.Runs q 0x52 p →
    exec (.partQuery q) s = .next ((s.take q p).finish p.pid stOk ((s.take q p).partResult p.part) 0).settle)

/-- The core packets, the array errors of cores, and the fleet packets of a manager. CORE_LAYUP lays a core up, or answers 1
for one that is; CORE_RETURN enables a core that was laid up in the field and passes BIST, and no other; an uncorrectable
array error lays the core up, a corrected one is counted. It rests on R176, R177, R178, R236, R440, R446. -/
def Obligations.CoreAndFleetPackets : Prop :=
  (∀ (s : State) (q : QueueId) (p : Packet), s.Runs q 0x58 p → p.f 18 1 = 0 → ((s.take q p).coreAt (p.f 16 2)).laid = .no →
    exec (.coreLayup q) s = .next (((s.take q p).layUp (p.f 16 2) 1 false p.tag).finish p.pid stOk 0 0).settle) ∧
  (∀ (s : State) (q : QueueId) (p : Packet), s.Runs q 0x58 p → p.f 18 1 = 0 → ((s.take q p).coreAt (p.f 16 2)).laid ≠ .no →
    exec (.coreLayup q) s = .next ((s.take q p).finish p.pid stOk 1 0).settle) ∧
  (∀ (s : State) (q : QueueId) (p : Packet), s.Runs q 0x59 p → (s.coreAt (p.f 16 2)).laid = .field →
    (s.coreAt (p.f 16 2)).persist = false →
    ∃ t : State, exec (.coreReturn q true) s = .next (t.finish p.pid stOk 0 0).settle ∧
      (t.coreAt (p.f 16 2)).laid = .no ∧ (t.coreAt (p.f 16 2)).cause = 0 ∧
      (∀ c, c ≠ p.f 16 2 → t.coreAt c = s.coreAt c)) ∧
  (∀ (s : State) (q : QueueId) (p : Packet) (b : Bool), s.Runs q 0x59 p → (s.coreAt (p.f 16 2)).laid ≠ .field →
    exec (.coreReturn q b) s = .next ((s.take q p).finish p.pid stBadParam 0 (reason 0x06 16)).settle) ∧
  (∀ (s : State) (c : Nat), c < 768 → s.coreOn c = true → 10 ≤ s.boot.stage →
    exec (.coreArrayError c true) s = .next (s.layUpHw c 3).settle) ∧
  (∀ (s : State) (c : Nat), c < 768 → s.coreOn c = true → 10 ≤ s.boot.stage → (s.coreAt c).corrected ≠ 0 →
    (s.coreAt c).corrected < 255 → s.nowNs - (s.coreAt c).corrFrom < dayNs →
    ∃ t : State, exec (.coreArrayError c false) s = .next t.settle ∧
      (t.coreAt c).corrected = (s.coreAt c).corrected + 1 ∧ (t.coreAt c).laid = (s.coreAt c).laid) ∧
  (∀ (s : State) (q : QueueId) (p : Packet), s.Runs q 0x60 p → (s.take q p).unreachable (p.f 16 1) = none →
    ∃ (t : State) (m : FleetMsg), exec (.fleetForward q) s = .next (t.sendMsg m).settle ∧
      t.fleet.fwdOut = s.fleet.fwdOut ++ [(p.pid, m.msgId, p.f 16 1)] ∧ m.cls = 1 ∧ m.dst = p.f 16 1 ∧
      m.body = p.bytes.drop 64) ∧
  (∀ (s : State) (q : QueueId) (p : Packet) (st : Nat), s.Runs q 0x60 p →
    (s.take q p).unreachable (p.f 16 1) = some st →
    exec (.fleetForward q) s = .next ((s.take q p).finish p.pid st 0 0).settle) ∧
  (∀ (s : State) (q : QueueId) (p : Packet), s.Runs q 0x61 p → s.fleet.bar.phase ≠ .idle →
    ∃ t : State, exec (.fleetBarrier q) s = .next t.settle ∧ t.fleet.barWait = s.fleet.barWait ++ [(p.pid, p.f 16 4)]) ∧
  (∀ (s : State) (q : QueueId) (p : Packet), s.Runs q 0x61 p → s.fleet.bar.phase = .idle →
    exec (.fleetBarrier q) s = .next (State.settle (((s.take q p).onInflight p.pid fun i =>
      { i with deadline := some (s.nowNs + s.timeoutOf p (p.f 24 8) * 1000) }).startBarrier (some p.pid) (p.f 16 4)))) ∧
  (∀ (s : State) (q : QueueId) (p : Packet), s.Runs q 0x62 p →
    exec (.fleetQuery q) s = .next ((s.take q p).finish p.pid stOk (s.fleet.devNum.getD 0 % 64 + b2n s.isManager * 2 ^ 6 +
      s.devCount .joined % 256 * 2 ^ 8 + s.devCount .lost % 256 * 2 ^ 16 + s.fleet.id.toNat * 2 ^ 32) 0).settle)

/-- The CIM packets. CIM_LOAD is noted and, once its source is read and its macros are free, writes every byte and clears
the macros' poison; an access its context does not permit kills the context; CIM_EXEC is noted and feeds its slice's
sequencer; either completes FAULTED where its slice is lost; CIM_CALIBRATE asks for calibration and waits for it, or
completes at once where it names no die. It rests on R130, R183, R265, R274, R276, R284. -/
def Obligations.CimPackets : Prop :=
  (∀ (s : State) (q : QueueId) (p : Packet), s.Runs q 0x08 p →
    ((s.take q p).slice (p.f 36 1 * 4 + p.f 32 2 / 2048)).unavail = true →
    exec (.cimLoad q) s = .next ((s.take q p).finish p.pid stFaulted 0 0).settle) ∧
  (∀ (s : State) (q : QueueId) (p : Packet), s.Runs q 0x08 p →
    ((s.take q p).slice (p.f 36 1 * 4 + p.f 32 2 / 2048)).unavail = false →
    exec (.cimLoad q) s = .next (State.settle ((s.take q p).onCim fun c =>
      { c with loads := c.loads ++ [{ pid := p.pid, die := p.f 36 1, first := p.f 32 2, count := p.f 34 2 }] }))) ∧
  (∀ (s x : State) (pid c va n : Nat) (host : HostMem) (l : CimLoad) (i : Inflight) (d : List (Byte × Bool)),
    s.cim.loads.find? (fun l => l.pid == pid) = some l → s.inflight pid = some i → s.awake = true → s.tw.tripped = false →
    s.loadWaits l = false → i.pkt.ctxKey.getD 0 = c → i.pkt.f 24 8 = va → l.count * 65536 = n →
    s.vaKept c va n false = false → s.accessFault c va n .read host.refused = none →
    (s.settleLighter c va n).meetEccVa c va n host.ecc = x → x.readVa c va n host.bytes = d →
    firstPoison d = none →
    exec (.cimLoadComplete pid host) s = .next (State.settle
      (((x.devWrite false i.pkt.part (macroBase l.die l.first) d).onCim fun x =>
        { x with loads := x.loads.filter (fun y => y.pid != pid)
                 poisoned := x.poisoned.filter fun e =>
                   !(decide (l.die * 8192 + l.first ≤ e.1) && decide (e.1 < l.die * 8192 + l.first + l.count)) }).finish pid stOk
        l.count 0))) ∧
  (∀ (s : State) (pid code a : Nat) (host : HostMem) (l : CimLoad) (i : Inflight),
    s.cim.loads.find? (fun l => l.pid == pid) = some l → s.inflight pid = some i → s.awake = true → s.tw.tripped = false →
    s.loadWaits l = false → s.vaKept (i.pkt.ctxKey.getD 0) (i.pkt.f 24 8) (l.count * 65536) false = false →
    s.accessFault (i.pkt.ctxKey.getD 0) (i.pkt.f 24 8) (l.count * 65536) .read host.refused = some (code, a) →
    exec (.cimLoadComplete pid host) s =
      .next ((s.dropWork pid).accessPacketFault pid (i.pkt.ctxKey.getD 0) code a).settle) ∧
  (∀ (s : State) (q : QueueId) (p : Packet), s.Runs q 0x09 p →
    ((s.take q p).slice (4 * p.f 44 1 + p.f 40 2 / 2048)).unavail = true →
    exec (.cimExec q) s = .next ((s.take q p).finish p.pid stFaulted 0 0).settle) ∧
  (∀ (s : State) (q : QueueId) (p : Packet), s.Runs q 0x09 p →
    ((s.take q p).slice (4 * p.f 44 1 + p.f 40 2 / 2048)).unavail = false →
    exec (.cimExec q) s = .next (State.settle (((s.take q p).onCim fun c => { c with execs := c.execs ++
      [{ pid := p.pid, behind := (s.take q p).loadsOn (p.f 44 1) (p.f 40 2) (p.f 42 2), left := p.f 48 4, ops := 0,
         stale := false, lost := none }] }).feed))) ∧
  (∀ (s : State) (q : QueueId) (p : Packet), s.Runs q 0x0A p → p.f 17 1 = 0 → p.f 16 1 < 8 →
    ∃ t : State, exec (.cimCalibrate q) s = .next t.settle ∧
      t.cim.calPkts = s.cim.calPkts ++ [(p.pid, setBit 0 (p.f 16 1))] ∧ t.cim.calReq.getLsbD (p.f 16 1) = true) ∧
  (∀ (s : State) (q : QueueId) (p : Packet), s.Runs q 0x0A p → p.f 17 1 = 1 → (s.take q p).slicesOf p.part = 0 →
    exec (.cimCalibrate q) s = .next ((s.take q p).finish p.pid stOk 0 0).settle)

/-- CIM operations. The operation the round grants starts with its places taken and becomes the last granted; a `cim.mvm`
waits in its slice's sequencer, its gang with it; one whose tag, slice or partition does not agree is refused; the end of a
`cim.mvm` gives back the places, sets ud and the sticky STALE_CAL, and its gang goes on, where that gang still waits; the end
of a clean vector counts for its packet. It rests on R272, R273, R274, R275, R278, R284, R436. -/
def Obligations.CimOperations : Prop :=
  (∀ (s : State) (d : Nat) (o : CimOp), d < 8 → s.awake = true → s.tw.tripped = false →
    s.cimGrant d (s.cimRound d) = some o → o.npart = ~~~(BitVec.ofNat 8 o.part) → s.owns o.part o.slice = true →
    s.isFrozen o.part = false →
    exec (.cimOpStart d) s = .next (State.settle (State.feed (s.onCim fun c =>
      { c with queue := c.queue.upd o.slice [] List.tail
               running := c.running.ins o.slice { o with stale := o.time && s.tw.calStale.getLsbD d }
               active := c.active.put d 0 (s.cim.active.look d 0 + o.count)
               peak := c.peak.upd d 0 (max (s.cim.active.look d 0 + o.count)), last := c.last.put d 3 (o.slice % 4) })))) ∧
  (∀ (s : State) (d : Nat) (o : CimOp), d < 8 → s.awake = true → s.tw.tripped = false →
    s.cimGrant d (s.cimRound d) = some o →
    (o.npart ≠ ~~~(BitVec.ofNat 8 o.part) ∨ s.owns o.part o.slice = false ∨ s.isFrozen o.part = true) →
    exec (.cimOpStart d) s = .next (s.cimRefuse o).feed.settle) ∧
  (∀ (s : State) (g ud us : Nat), s.canIssue g = true → firstFault ((s.issued g).mvmChecks g ud us) = none →
    (s.cim.queue.look (4 * dieOf (sliceOf (gCore g)) + field (s.localBytes g ((s.gang g).uReg us).toNat 16) 0 2 / 2048)
      []).length < 32 →
    ∃ (t : State) (o : CimOp), exec (.cimMvm g ud us) s = .next t.settle ∧ (t.gang g).wait = .cim ∧
      o.owner = .gang g (s.blockOf g) ud ∧ o.die = dieOf (sliceOf (gCore g)) ∧
      o.macro_ = field (s.localBytes g ((s.gang g).uReg us).toNat 16) 0 2 ∧
      o.count = field (s.localBytes g ((s.gang g).uReg us).toNat 16) 2 2 ∧
      t.cim.queue.look o.slice [] = s.cim.queue.look o.slice [] ++ [o]) ∧
  (∀ (s x : State) (sl g b ud : Nat) (host : HostMem) (o : CimOp), s.cim.running.find sl = some o → s.awake = true →
    s.tw.tripped = false → o.owner = .gang g b ud → o.time = false →
    s.meetEcc host.ecc [(macroBase o.die o.macro_, o.count * 65536)] = x → x.mvmWaits o = true →
    ∃ t : State, exec (.cimOpComplete sl host) s = .next t.settle ∧ (t.gang g).wait = .ready ∧
      (t.gang g).staleCal = ((x.gang g).staleCal || o.stale) ∧
      (t.gang g).uReg ud = BitVec.ofNat 32 (b2n o.stale +
        2 * b2n ((x.localRead b o.inVa (256 * o.rowgrp)).any Prod.snd || x.macroBad o)) ∧
      t.cim.running = x.cim.running.drop o.slice ∧ t.cim.active.look o.die 0 = x.cim.active.look o.die 0 - o.count ∧
      t.mem = x.mem) ∧
  (∀ (s x : State) (sl g b ud : Nat) (host : HostMem) (o : CimOp), s.cim.running.find sl = some o → s.awake = true →
    s.tw.tripped = false → o.owner = .gang g b ud →
    s.meetEcc host.ecc [(macroBase o.die o.macro_, o.count * 65536)] = x → x.mvmWaits o = false →
    exec (.cimOpComplete sl host) s = .next (State.settle ((x.countOps o).cimFree o))) ∧
  (∀ (s w x : State) (sl pid : Nat) (host : HostMem) (o : CimOp), s.cim.running.find sl = some o → s.awake = true →
    s.tw.tripped = false → o.owner = .packet pid → s.vaKept o.ctx o.inVa (256 * o.rowgrp) false = false →
    s.vaKept o.ctx o.outVa (o.groups * 1024) true sl = false →
    s.meetEcc host.ecc [(macroBase o.die o.macro_, o.count * 65536)] = w →
    w.accessFault o.ctx o.inVa (256 * o.rowgrp) .read host.refused = none →
    w.accessFault o.ctx o.outVa (o.groups * 1024) .write host.refused = none →
    (w.settleLighter o.ctx o.inVa (256 * o.rowgrp)).meetEccVa o.ctx o.inVa (256 * o.rowgrp) host.ecc = x →
    firstPoison (x.readVa o.ctx o.inVa (256 * o.rowgrp) host.bytes) = none → x.macroBad o = false →
    ∃ t : State, exec (.cimOpComplete sl host) s = .next (((t.countOps o).cimFree o).endExec pid).settle ∧
      t.cim.execs = x.cim.execs.map fun e => if e.pid = pid then
        { e with ops := e.ops + o.count, stale := e.stale || o.stale } else e)

/-- Calibration and patrol scrubs. A calibration asked for starts once no time-mode operation runs on its die; a pass clears
CAL_STALE and CAL_FAIL and stamps the time; a first failure is repeated, and a second sets CAL_FAIL and CAL_STALE. A scrub
step goes on to the next line or macro; a macro that cannot be corrected is poisoned, and so is the 64 B unit of HBM or
DECK. It rests on R98, R276, R277, R284, R285, R293. -/
def Obligations.CalibrationAndScrub : Prop :=
  (∀ (s : State) (d : Nat), d < 8 → s.pwr.dev = .awake → s.tw.tripped = false → s.cim.calReq.getLsbD d = true →
    s.cim.calBusy.getLsbD d = false → s.cim.autoRecal = true →
    (s.cim.running.any fun e => e.2.die == d && e.2.time) = false →
    exec (.cimCalibrationStart d) s = .next (s.onCim fun c => { c with calBusy := setBit c.calBusy d })) ∧
  (∀ (s : State) (d : Nat) (trim : Word), d < 8 → s.cim.calBusy.getLsbD d = true → s.awake = true → s.tw.tripped = false →
    ∃ t : State, exec (.cimCalibrationDone d true trim) s = .next t.settle ∧ t.cim.calBusy.getLsbD d = false ∧
      t.cim.calFail.getLsbD d = false ∧ t.cim.calValid.getLsbD d = true ∧ t.tw.calStale.getLsbD d = false ∧
      t.cim.calTime.look d 0 = s.now ∧ t.cim.calTrim.look d 0 = trim &&& 0x03FFFFFF) ∧
  (∀ (s : State) (d : Nat) (trim : Word), d < 8 → s.cim.calBusy.getLsbD d = true → s.awake = true → s.tw.tripped = false →
    s.cim.calTry.look d 0 = 0 →
    exec (.cimCalibrationDone d false trim) s = .next (s.onCim fun c => { c with calTry := c.calTry.put d 0 1 }).settle) ∧
  (∀ (s : State) (d : Nat) (trim : Word), d < 8 → s.cim.calBusy.getLsbD d = true → s.awake = true → s.tw.tripped = false →
    s.cim.calTry.look d 0 = 1 →
    ∃ t : State, exec (.cimCalibrationDone d false trim) s = .next t.settle ∧ t.cim.calBusy.getLsbD d = false ∧
      t.cim.calFail.getLsbD d = true ∧ t.tw.calStale.getLsbD d = true ∧ t.cim.calTime = s.cim.calTime) ∧
  (∀ (s : State) (d : Nat), d < 8 → s.awake = true → s.pwr.hbmSr = false →
    ∃ t : State, exec (.hbmPatrolScrub d []) s = .next t ∧
      t.mem.scrubHbm.look d 0 = (s.mem.scrubHbm.look d 0 + 1) % 150994944 ∧ t.mem.bytes = s.mem.bytes) ∧
  (∀ (s : State) (d : Nat), d < 8 → s.awake = true →
    ∃ t : State, exec (.deckPatrolScrub d true 2) s = .next t ∧
      t.cim.poisoned.look (d * 8192 + s.mem.scrubDeck.look (2 * d + 1) 0) false = true ∧
      t.mem.scrubDeck.look (2 * d + 1) 0 = (s.mem.scrubDeck.look (2 * d + 1) 0 + 1) % 8192) ∧
  (∀ (s : State) (d : Nat), d < 8 → s.awake = true →
    ∃ t : State, exec (.deckPatrolScrub d false 0) s = .next t ∧
      t.mem.scrubDeck.look (2 * d) 0 = (s.mem.scrubDeck.look (2 * d) 0 + 1) % 25165824 ∧ t.mem.bytes = s.mem.bytes)

/-- While calibration is not stale, each decoded segment sum lies within 22 of its true sum, whatever code the hardware
reads, and each output of a time-mode operation within 88 × ROWGRP of the exact one. It rests on R270. -/
def Obligations.TimeModeBound : Prop :=
  (∀ (s : State) (o : CimOp) (x : Nat → Byte) (j c i t : Nat) (pick : DWord),
    (decodeSegment false (s.segment o x j c i t) pick - s.segment o x j c i t).natAbs ≤ 22) ∧
  (∀ (s : State) (o : CimOp) (x : Nat → Byte) (j c : Nat), o.stale = false →
    (s.timed o x j c - sumInt o.rowgrp fun i => sumInt 4 fun t => s.segment o x j c i t).natAbs ≤ 88 * o.rowgrp)

/-- The matrix instructions. `mma` takes its operands as they stand and the tile is busy until it completes; on completion
every element of the tile is the exact sum of its products and of the old element, rounded once, and no other tile changes;
a failed residue check runs it once more; `acc.zero`, `acc.rd`, `acc.wr` and `acc.st` move whole tiles, of active lanes
where registers take part; a tile or register that the launch lacks is a fault. It rests on R229, R237, R238, R239, R242,
R243, R255, R262. -/
def Obligations.TileInstructions : Prop :=
  (∀ (s : State) (g fa fb t va ub us w : Nat), s.canIssue g = true → s.datapathBusy g = false → mmaWidth fa fb = some w →
    isMx fa = false → ub < 64 → t < (s.launchOf g).acc → va + w / 2 ≤ 8 * (s.launchOf g).regs →
    ((s.gang g).uReg ub).toNat % 64 = 0 → ((s.gang g).uReg ub).toNat + w * 64 ≤ (s.launchOf g).locSize →
    (∀ b ∈ s.localRead (s.gang g).block ((s.gang g).uReg ub).toNat (w * 64), b.2 = false) →
    ∃ (u : State) (m : PendMma), exec (.mma g fa fb t va ub us) s = .next u.settle ∧ (u.gang g).mma = some m ∧
      m.fa = fa ∧ m.fb = fb ∧ m.tile = t ∧ m.retried = false ∧ m.scales = [] ∧
      (∀ r k, r < 16 → k < 32 → m.a.getD (r * 32 + k) 0 = (s.gang g).elemA va w r k) ∧ (u.gang g).tile = (s.gang g).tile ∧
      u.mem = s.mem) ∧
  (∀ (s : State) (g : Nat) (m : PendMma), (s.gang g).mma = some m → s.coreRuns (gCore g) = true →
    ∃ u : State, exec (.mmaComplete g true) s = .next u.settle ∧ (u.gang g).mma = none ∧
      (∀ r c, r < 16 → c < 16 → (u.gang g).tile.look (m.tile * 256 + r * 16 + c) 0 = BitVec.ofNat 32
        (fB32.pack .even (m.elem r c ((s.gang g).tile.look (m.tile * 256 + r * 16 + c) 0)).1).1) ∧
      (∀ k, k / 256 ≠ m.tile → (u.gang g).tile.look k 0 = (s.gang g).tile.look k 0) ∧ (u.gang g).v = (s.gang g).v) ∧
  (∀ (s : State) (g : Nat) (m : PendMma), (s.gang g).mma = some m → s.coreRuns (gCore g) = true → m.retried = false →
    ∃ u : State, exec (.mmaComplete g false) s = .next u.settle ∧ (u.gang g).mma = some { m with retried := true } ∧
      (u.gang g).tile = (s.gang g).tile) ∧
  (∀ (s : State) (g t : Nat), s.canIssue g = true → s.tileBusy g t = false → t < (s.launchOf g).acc →
    ∃ u : State, exec (.accZero g t) s = .next u.settle ∧ (∀ k, k < 256 → (u.gang g).tile.look (t * 256 + k) 0 = 0) ∧
      (∀ k, k / 256 ≠ t → (u.gang g).tile.look k 0 = (s.gang g).tile.look k 0) ∧ u.mem = s.mem) ∧
  (∀ (s : State) (g vd t : Nat), s.canIssue g = true → s.tileBusy g t = false → t < (s.launchOf g).acc →
    vd + 8 ≤ 8 * (s.launchOf g).regs →
    ∃ u : State, exec (.accRd g vd t) s = .next u.settle ∧ (∀ l j, l < 32 → j < 8 → (u.gang g).vReg (vd + j) l =
        if (s.gang g).active.getLsbD l then (s.gang g).tile.look (t * 256 + l % 16 * 16 + 8 * (l / 16) + j) 0
        else (s.gang g).vReg (vd + j) l) ∧
      (∀ r l, l < 32 → r < vd ∨ vd + 8 ≤ r → (u.gang g).vReg r l = (s.gang g).vReg r l) ∧ u.mem = s.mem) ∧
  (∀ (s : State) (g t vs : Nat), s.canIssue g = true → s.tileBusy g t = false → t < (s.launchOf g).acc →
    vs + 8 ≤ 8 * (s.launchOf g).regs →
    ∃ u : State, exec (.accWr g t vs) s = .next u.settle ∧ (∀ l j, l < 32 → j < 8 →
      (u.gang g).tile.look (t * 256 + l % 16 * 16 + 8 * (l / 16) + j) 0 =
        if (s.gang g).active.getLsbD l then (s.gang g).vReg (vs + j) l
        else (s.gang g).tile.look (t * 256 + l % 16 * 16 + 8 * (l / 16) + j) 0) ∧ (u.gang g).v = (s.gang g).v ∧
      u.mem = s.mem) ∧
  (∀ (s : State) (g us t : Nat), s.canIssue g = true → s.tileBusy g t = false → us < 64 → t < (s.launchOf g).acc →
    ((s.gang g).uReg us).toNat % 64 = 0 → ((s.gang g).uReg us).toNat + 1024 ≤ (s.launchOf g).locSize →
    ∃ u : State, exec (.accSt g us t) s = .next u.settle ∧ (∀ i b, i < 256 → b < 4 →
      u.localAt (s.gang g).block (((s.gang g).uReg us).toNat + 4 * i + b) =
        ((toLe 4 ((s.gang g).tile.look (t * 256 + i) 0).toNat).getD b 0, false)) ∧ u.mem = s.mem) ∧
  (∀ (s : State) (g vd t : Nat), s.canIssue g = true → s.tileBusy g t = false → (s.launchOf g).acc ≤ t →
    exec (.accRd g vd t) s = .next ((s.issued g).gangFault g 0x12 0).settle)

/-- The instructions on numbers. A vector operation writes, in each active lane, the exactly computed value rounded once,
and the lanes that are not active keep theirs; so do conversions and the special functions; `amax.rd`, `amax.scl`, `flg.rd`
and `flg.clr` read and clear what they name. It rests on R247, R248, R252, R254, R256, R257, R258, R259. -/
def Obligations.NumberInstructions : Prop :=
  (∀ (s : State) (g f : Nat) (fm : Fmt) (op : VecOp) (r : RMode) (vd va vb vc l : Nat), s.canIssue g = true → f ≤ 2 →
    fmtOf f = some fm → r ≠ .stoch → vd + 1 ≤ 8 * (s.launchOf g).regs → va + 1 ≤ 8 * (s.launchOf g).regs →
    vb + 1 ≤ 8 * (s.launchOf g).regs → (op = .fma → vc + 1 ≤ 8 * (s.launchOf g).regs) → l < 32 →
    ∃ u : State, exec (.vectorOp g op f r vd va vb vc) s = .next u.settle ∧
      ((s.gang g).active.getLsbD l = true → (u.gang g).low vd l (fmtBits f) =
        (fm.pack (if r = .even then .even else .zero) (vecValue op (fm.decode ((s.gang g).low va l (fmtBits f)))
          (fm.decode ((s.gang g).low vb l (fmtBits f))) (fm.decode ((s.gang g).low vc l (fmtBits f)))).1).1 % 2 ^ fmtBits f) ∧
      ((s.gang g).active.getLsbD l = false → (u.gang g).vReg vd l = (s.gang g).vReg vd l) ∧
      (∀ k, k ≠ vd → (u.gang g).vReg k l = (s.gang g).vReg k l) ∧ u.mem = s.mem) ∧
  (∀ (s : State) (g : Nat) (fn : SfuFn) (vd vs l : Nat), s.canIssue g = true → vd + 1 ≤ 8 * (s.launchOf g).regs →
    vs + 1 ≤ 8 * (s.launchOf g).regs → l < 32 →
    ∃ u : State, exec (.sfuOp g fn vd vs) s = .next u.settle ∧
      (u.gang g).vReg vd l = (if (s.gang g).active.getLsbD l then BitVec.ofNat 32 (sfuValue fn ((s.gang g).vReg vs l)).1
        else (s.gang g).vReg vd l) ∧ (∀ k, k ≠ vd → (u.gang g).vReg k l = (s.gang g).vReg k l) ∧ u.mem = s.mem) ∧
  (∀ (s : State) (g fs fd : Nat) (r : RMode) (vd vs a : Nat), s.canIssue g = true → fs < 8 → fd < 8 → a < 64 →
    (s.launchOf g).amaxMask.getLsbD a = true → vd + 1 ≤ 8 * (s.launchOf g).regs → vs + 1 ≤ 8 * (s.launchOf g).regs →
    exec (.cvt g fs fd r vd vs a) s = .next (State.settle
      (((s.issued g).gang g).lanes.foldl (fun t l => t.cvtLane g fs fd r vd vs a 0 l) (s.issued g)))) ∧
  (∀ (s : State) (g fs fd : Nat) (r : RMode) (vd vs ud a us : Nat), s.canIssue g = true → fs < 8 → isMx fd = true →
    ud < 64 → us < 64 → ((s.gang g).uReg us).toNat % 256 ≠ 255 → a < 64 → (s.launchOf g).amaxMask.getLsbD a = true →
    vd + 1 ≤ 8 * (s.launchOf g).regs → vs + 1 ≤ 8 * (s.launchOf g).regs → fd ≠ 7 →
    ∃ u : State, exec (.cvtMx g fs fd r vd vs ud a (some us)) s = .next u.settle ∧
      (u.gang g).uReg ud = BitVec.ofNat 32 (((s.gang g).uReg us).toNat % 256) ∧ u.mem.bytes = s.mem.bytes) ∧
  (∀ (s : State) (g ud a : Nat), s.canIssue g = true → ud < 64 → a < 64 →
    ∃ u : State, exec (.amaxRd g ud a) s = .next u.settle ∧
      (u.gang g).uReg ud = (s.amax (s.launchOf g).ctx a).value ∧ (∀ k, k ≠ ud → (u.gang g).uReg k = (s.gang g).uReg k)) ∧
  (∀ (s : State) (g ud a fd : Nat), s.canIssue g = true → ud < 64 → a < 64 → isMx fd = true →
    ∃ u : State, exec (.amaxScl g ud a fd) s = .next u.settle ∧ (u.gang g).uReg ud = BitVec.ofNat 32
      (autoExp fd (s.amax (s.launchOf g).ctx a).snap.toNat + 127).toNat) ∧
  (∀ (s : State) (g ud : Nat), s.canIssue g = true → ud < 64 →
    ∃ u : State, exec (.flgRd g ud) s = .next u.settle ∧ (u.gang g).uReg ud =
      BitVec.ofNat 32 (b2n (s.gang g).ovf + 2 * b2n (s.gang g).nan + 4 * b2n (s.gang g).inv) ∧
      (u.gang g).ovf = (s.gang g).ovf ∧ (u.gang g).nan = (s.gang g).nan ∧ (u.gang g).inv = (s.gang g).inv) ∧
  (∀ (s : State) (g : Nat), s.canIssue g = true →
    ∃ u : State, exec (.flgClr g) s = .next u.settle ∧ (u.gang g).ovf = false ∧ (u.gang g).nan = false ∧
      (u.gang g).inv = false ∧ (u.gang g).staleCal = (s.gang g).staleCal ∧ (u.gang g).u = (s.gang g).u)

/-- Loads and stores of mapped memory, and fences. A load whose lanes all may read, and for whose lines miss registers are
free, goes through the near cache lane by lane; a value that arrives is extended and written to its lane; data for a miss
register frees it and its gangs go on; stores go lane by lane; a fence drains the combining buffer, and `fence.dev` and
`fence.sys` leave no near-cache entry of the context on the core. A lane that may not access is a fault of the gang, and no
lane has its effect. It rests on R294, R295, R297, R298, R308, R313, R316, R333. -/
def Obligations.MemoryInstructions : Prop :=
  (∀ (s : State) (g vd va n : Nat) (sg : Bool) (host : HostMem) (xs : List MissLoad), s.canIssue g = true →
    s.laneLoads g va n (fun _ => .reg vd sg) = xs → (n = 1 ∨ n = 2 ∨ n = 4 ∨ n = 8) → va + 2 ≤ 8 * (s.launchOf g).regs →
    vd + regsFor n ≤ 8 * (s.launchOf g).regs →
    (∀ x ∈ xs, x.va % n = 0 ∧ s.coreFault (gCore g) (s.launchOf g).ctx x.va n .read host.refused = none) →
    (s.loadHeld g ((s.launchOf g).ncMask.getD 0 0) xs = false → exec (.ld g vd va n sg host) s =
      .next ((s.issued g).runLoad g ((s.launchOf g).ncMask.getD 0 0) xs host).settle) ∧
    (s.loadHeld g ((s.launchOf g).ncMask.getD 1 0) xs = false → sg = false → exec (.ldTile g (.reg vd) va n host) s =
      .next ((s.issued g).runLoad g ((s.launchOf g).ncMask.getD 1 0) xs host).settle) ∧
    (s.loadHeld g ((s.launchOf g).ncMask.getD 2 0) xs = false → exec (.ldConst g vd va n sg host) s =
      .next ((s.issued g).runLoad g ((s.launchOf g).ncMask.getD 2 0) xs host).settle)) ∧
  (∀ (s : State) (g r va n : Nat) (host : HostMem) (xs : List MissLoad), s.canIssue g = true →
    s.laneLoads g va n (fun l => .loc ((s.gang g).vReg r l).toNat) = xs → (n = 1 ∨ n = 2 ∨ n = 4 ∨ n = 8) →
    va + 2 ≤ 8 * (s.launchOf g).regs → r + 1 ≤ 8 * (s.launchOf g).regs →
    (∀ l ∈ (s.gang g).lanes, ((s.gang g).vReg r l).toNat % n = 0 ∧ ((s.gang g).vReg r l).toNat + n ≤ (s.launchOf g).locSize) →
    (∀ x ∈ xs, x.va % n = 0 ∧ s.coreFault (gCore g) (s.launchOf g).ctx x.va n .read host.refused = none) →
    s.loadHeld g ((s.launchOf g).ncMask.getD 1 0) xs = false →
    exec (.ldTile g (.loc r) va n host) s =
      .next ((s.issued g).runLoad g ((s.launchOf g).ncMask.getD 1 0) xs host).settle) ∧
  (∀ (s : State) (g vd ua a : Nat) (host : HostMem), s.canIssue g = true → ua + 2 ≤ 64 → vd + 1 ≤ 8 * (s.launchOf g).regs →
    ((s.gang g).uPair ua).toNat = a → a % 16 = 0 → s.coreFault (gCore g) (s.launchOf g).ctx a 48 .read host.refused = none →
    s.loadHeld g ((s.launchOf g).ncMask.getD 0 0) (ltParts g a vd) = false →
    exec (.ldLt g vd ua host) s =
      .next ((s.issued g).runLoad g ((s.launchOf g).ncMask.getD 0 0) (ltParts g a vd) host).settle) ∧
  (∀ (s : State) (x : MissLoad) (r : Nat) (sg : Bool) (l : List (Byte × Bool)), x.dst = .reg r sg → x.len ≤ 4 →
    (∀ b ∈ l, b.2 = false) →
    ((s.give x l).gang x.gang).vReg r x.lane = BitVec.ofNat 32 (loadValue sg x.len (l.map Prod.fst))) ∧
  (∀ (s : State) (c r : Nat) (m : Miss) (host : HostMem), r < 32 → s.mem.miss.find (c * 32 + r) = some m → s.awake = true →
    s.tw.tripped = false → s.vaKept m.ctx (m.line * 512) 512 false = false →
    s.coreFault c m.ctx (m.line * 512) 512 .read host.refused = none →
    ∃ u : State, exec (.missReturn c r host) s = .next u.settle ∧ u.mem.miss = s.mem.miss.drop (c * 32 + r)) ∧
  (∀ (s : State) (g va vs n : Nat) (ecc : EccErrs), s.canIssue g = true → (n = 1 ∨ n = 2 ∨ n = 4 ∨ n = 8) →
    va + 2 ≤ 8 * (s.launchOf g).regs → vs + regsFor n ≤ 8 * (s.launchOf g).regs →
    (∀ l ∈ (s.gang g).lanes, (s.gang g).va va l % n = 0 ∧
      s.coreFault (gCore g) (s.launchOf g).ctx ((s.gang g).va va l) n .write false = none ∧
      s.vaKept (s.launchOf g).ctx ((s.gang g).va va l) n true = false) →
    exec (.st g va vs ⟨n, ecc⟩) s = .next (State.settle ((s.gang g).lanes.foldl (fun t l =>
      (t.meetEccVa (s.launchOf g).ctx ((s.gang g).va va l) n ecc).coreStore (gCore g) (s.launchOf g).ctx (s.gang g).block ((s.gang g).va va l) ((s.gang g).data vs l n))
      ((s.issued g).flushAdds g)))) ∧
  (∀ (s : State) (g ua vs a : Nat) (b : List Byte), s.canIssue g = true → ua + 2 ≤ 64 → vs + 1 ≤ 8 * (s.launchOf g).regs →
    ((s.gang g).uPair ua).toNat = a → a % 16 = 0 → s.coreFault (gCore g) (s.launchOf g).ctx a 48 .write false = none →
    s.anyMap (s.launchOf g).ctx a 48 Mapping.prot = false → s.vaKept (s.launchOf g).ctx a 48 true = false →
    ltEncode ((List.range 32).map fun l => toLe 2 (if (s.gang g).active.getLsbD l then (s.gang g).low vs l 16 else 0)).flatten
      = b →
    exec (.stLt g ua vs) s = .next (State.settle ((ltParts g a 0).foldl (fun t p =>
      t.coreStore (gCore g) (s.launchOf g).ctx (s.gang g).block p.va ((b.drop p.lane).take p.len)) ((s.issued g).flushAdds g)))) ∧
  (∀ (s : State) (g va vs n l : Nat) (r : List Nat) (ecc : EccErrs), s.canIssue g = true → (n = 1 ∨ n = 2 ∨ n = 4 ∨ n = 8) →
    va + 2 ≤ 8 * (s.launchOf g).regs → vs + regsFor n ≤ 8 * (s.launchOf g).regs → (s.gang g).lanes = l :: r →
    (s.gang g).va va l % n ≠ 0 →
    exec (.st g va vs ⟨n, ecc⟩) s = .next ((s.issued g).gangFault g 3 (BitVec.ofNat 64 ((s.gang g).va va l))).settle) ∧
  (∀ (s : State) (g : Nat), s.canIssue g = true →
    exec (.fenceBlk g) s = .next ((s.issued g).fenceOps g).settle ∧
    exec (.fenceClu g) s = .next ((s.issued g).fenceOps g).settle) ∧
  (∀ (s : State) (g : Nat) (c : Instr), s.canIssue g = true → c = .fenceDev g ∨ c = .fenceSys g →
    ∃ u : State, exec c s = .next u.settle ∧
      ∀ e ∈ u.mem.near, e.1 / 64 = gCore g → e.2.ctx ≠ (s.launchOf g).ctx)

/-- Cluster addresses. Loads, stores and atomics of a cluster reach the local memory of the block of the rank that each
lane's address names, in ascending lane order; an atomic leaves its result there; a rank that the cluster lacks is a fault.
It rests on R222, R223, R316. -/
def Obligations.ClusterInstructions : Prop :=
  (∀ (s : State) (g vd va n : Nat) (sg : Bool), s.canIssue g = true → (n = 1 ∨ n = 2 ∨ n = 4 ∨ n = 8) →
    va + 1 ≤ 8 * (s.launchOf g).regs → vd + regsFor n ≤ 8 * (s.launchOf g).regs →
    firstFault ((s.issued g).clusterChecks g va n) = none → firstFault ((s.issued g).clusterClean g va n) = none →
    s.peerGone g va = false →
    exec (.ldC g vd va n sg) s = .next (State.settle ((s.gang g).lanes.foldl (fun t l =>
      t.give { gang := g, lane := l, va := ((s.gang g).vReg va l).toNat % 2 ^ 18, len := n, dst := .reg vd sg }
        (t.localRead ((t.peer g (((s.gang g).vReg va l).toNat / 2 ^ 18)).getD 0) (((s.gang g).vReg va l).toNat % 2 ^ 18) n))
      (s.issued g)))) ∧
  (∀ (s : State) (g va vs n : Nat), s.canIssue g = true → (n = 1 ∨ n = 2 ∨ n = 4 ∨ n = 8) →
    va + 1 ≤ 8 * (s.launchOf g).regs → vs + regsFor n ≤ 8 * (s.launchOf g).regs →
    firstFault ((s.issued g).clusterChecks g va n) = none → s.peerGone g va = false →
    exec (.stC g va vs n) s = .next (State.settle ((s.gang g).lanes.foldl (fun t l =>
      t.localWrite ((t.peer g (((s.gang g).vReg va l).toNat / 2 ^ 18)).getD 0) (((s.gang g).vReg va l).toNat % 2 ^ 18)
        (((s.gang g).data vs l n).map fun b => (b, false))) (s.issued g)))) ∧
  (∀ (s : State) (g : Nat) (op : AtomOp) (vd va vs vt l b : Nat) (r : List Nat), s.canIssue g = true →
    va + 1 ≤ 8 * (s.launchOf g).regs → vd + 1 ≤ 8 * (s.launchOf g).regs → vs + 1 ≤ 8 * (s.launchOf g).regs →
    vt + 1 ≤ 8 * (s.launchOf g).regs →
    firstFault ((s.issued g).clusterChecks g va 4) = none → firstFault ((s.issued g).clusterClean g va 4) = none →
    s.peerGone g va = false → (s.gang g).lanes = [l] → s.peer g (((s.gang g).vReg va l).toNat / 2 ^ 18) = some b →
    ∃ u : State, exec (.atomC g op vd va vs vt) s = .next u.settle ∧
      (u.gang g).vReg vd l =
        BitVec.ofNat 32 (ofLe ((s.localRead b (((s.gang g).vReg va l).toNat % 2 ^ 18) 4).map Prod.fst)) ∧
      (u.localRead b (((s.gang g).vReg va l).toNat % 2 ^ 18) 4).map Prod.fst = toLe 4 (atomValue op
        (BitVec.ofNat 32 (ofLe ((s.localRead b (((s.gang g).vReg va l).toNat % 2 ^ 18) 4).map Prod.fst)))
        ((s.gang g).vReg vs l) ((s.gang g).vReg vt l)).toNat ∧ u.mem = s.mem) ∧
  (∀ (s : State) (g vd va n l : Nat) (sg : Bool) (r : List Nat), s.canIssue g = true → (n = 1 ∨ n = 2 ∨ n = 4 ∨ n = 8) →
    va + 1 ≤ 8 * (s.launchOf g).regs → vd + regsFor n ≤ 8 * (s.launchOf g).regs → (s.gang g).lanes = l :: r →
    ((s.gang g).vReg va l).toNat % n = 0 →
    ((s.launchOf g).members (s.blk (s.gang g).block).cluster).length ≤ ((s.gang g).vReg va l).toNat / 2 ^ 18 →
    exec (.ldC g vd va n sg) s =
      .next ((s.issued g).gangFault g 7 (BitVec.ofNat 64 ((s.gang g).vReg va l).toNat)).settle)

/-- R324: encoding a block and decoding it keeps every element whose exponent field is at least E − 6 and leaves of any
other a zero with its own sign; infinities and NaNs are kept; with E at most 6 zeros and subnormals are kept; with E from 7
to 254 what is flushed, and so the error, lies below 1/64 of the largest magnitude (magnitudes in units of 2^−134); encoding
again reproduces the block. -/
def Obligations.LighterCodec : Prop :=
  ∀ bs : List Byte, bs.length = 64 → ∃ out : List Byte,
    (ltEncode bs).length = 48 ∧ ltDecode (ltEncode bs) = some out ∧ out.length = 64 ∧
    (∀ i, i < 32 → d16At out i =
      if ltBase bs ≤ d16Exp (d16At bs i) + 6 then d16At bs i else d16At bs i / 2 ^ 15 * 2 ^ 15) ∧
    (∀ i, i < 32 → d16Exp (d16At bs i) = 255 → ltBase bs = 255 ∧ d16At out i = d16At bs i) ∧
    (ltBase bs = 255 → ∀ i, i < 32 → (249 ≤ d16Exp (d16At bs i) → d16At out i = d16At bs i) ∧
      (d16Exp (d16At bs i) < 249 → d16At out i % 2 ^ 15 = 0)) ∧
    (ltBase bs ≤ 6 → ∀ i, i < 32 → d16Exp (d16At bs i) = 0 → d16At out i = d16At bs i) ∧
    (ltBase bs = 0 → out = bs) ∧
    (7 ≤ ltBase bs → ltBase bs ≤ 254 →
      let mag := fun i => if d16Exp (d16At bs i) = 0 then d16At bs i % 128 * 2
        else (128 + d16At bs i % 128) * 2 ^ d16Exp (d16At bs i)
      ∃ k, k < 32 ∧ (∀ j, j < 32 → mag j ≤ mag k) ∧ 64 * 2 ^ (ltBase bs + 1) ≤ mag k ∧
        ∀ i, i < 32 → d16At out i ≠ d16At bs i → mag i < 2 ^ (ltBase bs + 1)) ∧
    ltEncode out = ltEncode bs

/-- Control flow. A uniform branch changes nothing; a divergent one runs the lanes that take it and keeps the rest for the
join; a 33rd nested divergence is a fault; `join` runs the other side, then all lanes not exited; `exit` takes the active
lanes out for good; `trap` kills the context with code 0x0D, and the context's work then stops; the flags of an exited block
join its launch. It rests on R210, R212, R230, R231, R232, R260. -/
def Obligations.ControlInstructions : Prop :=
  (∀ (s : State) (g p lb : Nat), s.canIssue g = true → p < 8 →
    ((s.gang g).pReg p &&& (s.gang g).active = 0 ∨ (s.gang g).pReg p &&& (s.gang g).active = (s.gang g).active) →
    exec (.bra g p lb) s = .next (s.issued g).settle) ∧
  (∀ (s : State) (g p lb : Nat) (w : Word), s.canIssue g = true → p < 8 → (s.gang g).pReg p &&& (s.gang g).active = w →
    w ≠ 0 → w ≠ (s.gang g).active → (s.gang g).stack.length < 32 →
    ∃ u : State, exec (.bra g p lb) s = .next u.settle ∧ (u.gang g).active = w ∧ (u.gang g).stack =
      { label := lb, all := (s.gang g).active, rest := (s.gang g).active &&& ~~~w } :: (s.gang g).stack ∧
      (u.gang g).v = (s.gang g).v ∧ (u.gang g).u = (s.gang g).u ∧ u.mem = s.mem) ∧
  (∀ (s : State) (g p lb : Nat) (w : Word), s.canIssue g = true → p < 8 → (s.gang g).pReg p &&& (s.gang g).active = w →
    w ≠ 0 → w ≠ (s.gang g).active → 32 ≤ (s.gang g).stack.length →
    exec (.bra g p lb) s = .next ((s.issued g).gangFault g 8 0).settle) ∧
  (∀ (s : State) (g lb : Nat) (r : Reconv) (l : List Reconv), s.canIssue g = true → (s.gang g).stack = r :: l → r.label = lb →
    ∃ u : State, exec (.join g lb) s = .next u.settle ∧
      (r.rest ≠ 0 → (u.gang g).active = r.rest ∧ (u.gang g).stack = { r with rest := 0 } :: l) ∧
      (r.rest = 0 → (u.gang g).active = r.all &&& ~~~(s.gang g).exited ∧ (u.gang g).stack = l) ∧
      (u.gang g).v = (s.gang g).v ∧ u.mem = s.mem) ∧
  (∀ (s : State) (g : Nat) (a : Word) (l : List Reconv), s.canIssue g = true → (s.gang g).mma = none →
    popLanes ((s.gang g).exited ||| (s.gang g).active) 0 (s.gang g).stack = (a, l) → a ≠ 0 →
    ∃ u : State, exec (.exitLanes g) s = .next u.settle ∧
      (u.gang g).exited = (s.gang g).exited ||| (s.gang g).active ∧ (u.gang g).active = a ∧ (u.gang g).stack = l) ∧
  (∀ (s : State) (g : Nat), s.canIssue g = true → (s.ctx (s.launchOf g).ctx).st = .live →
    ∃ u : State, exec (.trap g) s = .next u.settle ∧ (u.ctx (s.launchOf g).ctx).st = .killed ∧
      (u.ctx (s.launchOf g).ctx).fault = some (0xD, gCore g)) ∧
  (∀ (s : State) (c : Nat), (s.ctx c).st = .killed → (s.ctx c).stopped = false →
    exec (.contextStop c) s = .next (s.stopContext c).settle) ∧
  (∀ (s : State) (b : Nat), (s.core.block.find b).isSome = true → (s.blk b).exited = true →
    (s.launch (s.blk b).launch).replayable = false → (s.launch (s.blk b).launch).live = true →
    ∃ u : State, exec (.flagCombine b) s = .next u.settle ∧
      (u.launch (s.blk b).launch).flags = (s.launch (s.blk b).launch).flags ||| (s.blk b).flags ∧ u.core = s.core)

/-- Barriers and the mover. A barrier has the effect of its fence, its gang then waits with its deadline, and the barrier
opens once every gang has arrived; a gang whose deadline has passed goes on with its predicate false; `mov.start` queues its
descriptor and gives a ticket, or meets its fault where the descriptor is invalid; `mov.wait` of a ticket that is complete
sets its predicate and otherwise waits; the transfer at the head of the queue moves its elements, or meets its fault. It
rests on R225, R226, R227, R308. -/
def Obligations.BarrierAndMoverInstructions : Prop :=
  (∀ (s t : State) (g p ut : Nat), s.canIssue g = true → p < 8 → ut < 64 →
    (((s.issued g).fenceOps g).onGang g fun x => { x with wait := .barBlk ((s.issued g).barDeadline g ut) p }) = t →
    exec (.barBlk g p ut) s = .next (t.checkBars (t.blockOf g)).settle) ∧
  (∀ (s t : State) (g p ut : Nat), s.canIssue g = true → p < 8 → ut < 64 →
    (((s.issued g).fenceOps g).onGang g fun x => { x with wait := .barClu ((s.issued g).barDeadline g ut) p }) = t →
    exec (.barClu g p ut) s = .next (t.checkBars (t.blockOf g)).settle) ∧
  (∀ (s : State) (g h d p : Nat), (s.gangsOf (s.blockOf g)) = [g, h] → g ≠ h → (s.gang g).wait = .barBlk d p →
    (s.gang h).wait = .ready → (s.gang h).ended = false →
    ((s.openBar (s.gangsOf (s.blockOf g)) GangWait.isBlk).gang g).wait = .barBlk d p) ∧
  (∀ (s : State) (g h d e p r : Nat), (s.gangsOf (s.blockOf g)) = [g, h] → g ≠ h → (s.gang g).wait = .barBlk d p →
    (s.gang h).wait = .barBlk e r →
    ((s.openBar (s.gangsOf (s.blockOf g)) GangWait.isBlk).gang g).wait = .ready ∧
    ((s.openBar (s.gangsOf (s.blockOf g)) GangWait.isBlk).gang h).wait = .ready) ∧
  (∀ (s : State) (g d p : Nat), (s.gang g).wait = .barBlk d p → d ≤ s.nowNs → (s.gang g).live = true → p < 8 →
    ∃ u : State, exec (.barrierTimeout g) s = .next u.settle ∧ (u.gang g).wait = .ready ∧ (u.gang g).pReg p = 0) ∧
  (∀ (s : State) (g ud us : Nat) (d : MoverDesc), s.canIssue g = true → ud < 64 → us < 64 →
    ((s.gang g).uReg us).toNat + 32 ≤ (s.launchOf g).locSize →
    (∀ b ∈ s.localRead (s.gang g).block ((s.gang g).uReg us).toNat 32, b.2 = false) →
    Config.moverDesc (s.localBytes g ((s.gang g).uReg us).toNat 32) = d →
    ((s.coreAt (gCore g)).mover.filter MovWork.isDesc).length < 16 →
    ∃ u : State, exec (.movStart g ud us) s = .next u.settle ∧
      (d.ok = true → d.dims.length ≤ 3 → (u.coreAt (gCore g)).mover = (s.coreAt (gCore g)).mover ++
        [.desc g (s.gang g).block (s.blk (s.gang g).block).launch ((u.gang g).uReg ud) d]) ∧
      (d.ok = false ∨ 3 < d.dims.length → u = (s.issued g).gangFault g 0x10 0)) ∧
  (∀ (s : State) (g p us ut : Nat), s.canIssue g = true → p < 8 → us < 64 → ut < 64 →
    (s.ticketDone (gCore g) ((s.gang g).uReg us) = true →
      ∃ u : State, exec (.movWait g p us ut) s = .next u.settle ∧ (u.gang g).pReg p = 0xFFFFFFFF ∧
        (u.gang g).wait = (s.gang g).wait) ∧
    (s.ticketDone (gCore g) ((s.gang g).uReg us) = false →
      ∃ u : State, exec (.movWait g p us ut) s = .next u.settle ∧
        (u.gang g).wait = .mov ((s.gang g).uReg us) (s.barDeadline g ut) p)) ∧
  (∀ (s t y : State) (c g b n : Nat) (k : Word) (d : MoverDesc) (r : List MovWork) (l : Launch) (host : HostMem),
    (s.coreAt c).mover = .desc g b n k d :: r → s.launch n = l → s.moverRuns c = true → s.ctxRuns l.ctx = true →
    s.transferKept l d = false → (s.onCoreAt c fun x => { x with mover := r }) = t →
    s.transferFault c l d host.refused = none →
    (if d.srcLocal then t else (moverElems d).foldl (fun t e => t.meetEccVa l.ctx e.1 d.elem host.ecc) t) = y →
    exec (.moverDescriptorComplete c host) s =
      .next (State.settle ((((moverElems d).foldl (State.moveElem c b l d) (y, host.bytes)).1).wakeMov c))) ∧
  (∀ (s t : State) (c g b n code a : Nat) (k : Word) (d : MoverDesc) (r : List MovWork) (l : Launch) (host : HostMem),
    (s.coreAt c).mover = .desc g b n k d :: r → s.launch n = l → s.moverRuns c = true → s.ctxRuns l.ctx = true →
    s.transferKept l d = false → (s.onCoreAt c fun x => { x with mover := r }) = t →
    s.transferFault c l d host.refused = some (code, a) →
    exec (.moverDescriptorComplete c host) s = .next (State.settle
      ((t.noteRefusal l.ctx code a (some c) (t.tagOf l.pid)).descFault g b n code a)))

/-- The chandler. `chd.alloc` gives the VA of the lowest place in its slice's pool that fits, or null; `chd.free` of an
allocation releases its creation reference, of null has no effect, and of no allocation of its context is a fault; `chd.hdl`
gives the handle of the allocation, or null. It rests on R192, R193, R194, R371. -/
def Obligations.ChandlerInstructions : Prop :=
  (∀ (s : State) (g ud us d i n : Nat), s.canIssue g = true → ud + 2 ≤ 64 → us < 64 → ((s.gang g).uReg us).toNat = n →
    256 ≤ n → n ≤ 0x4000000 →
    ((s.issued g).loseStatus g).chdPlace (sliceOf (gCore g)) ((n + 255) / 256 * 256) = some d →
    ((s.issued g).loseStatus g).freeOther (s.launchOf g).part = some i →
    ∃ u : State, exec (.chdAlloc g ud us) s = .next u.settle ∧
      (u.objAt (objKey (s.launchOf g).part i)).kind = .memory ∧
      (u.gang g).uPair ud = BitVec.ofNat 64 (chdWindow (sliceOf (gCore g)) +
        (d - (hbmBase (sliceOf (gCore g)) + ((s.obj.pool.find (sliceOf (gCore g))).map Prod.fst).getD 0)))) ∧
  (∀ (s : State) (g ud us : Nat), s.canIssue g = true → ud + 2 ≤ 64 → us < 64 → ((s.gang g).uReg us).toNat < 256 →
    ∃ u : State, exec (.chdAlloc g ud us) s = .next u.settle ∧ (u.gang g).uPair ud = 0 ∧ u.obj.tab = s.obj.tab) ∧
  (∀ (s : State) (g us : Nat), s.canIssue g = true → us + 2 ≤ 64 → (s.gang g).uPair us = 0 →
    exec (.chdFree g us) s = .next ((s.issued g).loseStatus g).settle) ∧
  (∀ (s : State) (g us k t d n sl : Nat) (b : Bool), s.canIssue g = true → us + 2 ≤ 64 →
    s.chdAt (s.launchOf g).part ((s.gang g).uPair us).toNat = some (k, ((s.gang g).uPair us).toNat) →
    (s.objAt k).body = .memory t d n sl b (s.launchOf g).ctx → (s.objAt k).creation = true → (s.objAt k).frozen = false →
    (s.objAt k).pairOk = true → (s.objAt k).count ≠ 0 →
    ∃ u : State, exec (.chdFree g us) s = .next u.settle ∧ (u.objAt k).count = (s.objAt k).count - 1 ∧
      (u.objAt k).creation = false ∧ (∀ j, j ≠ k → u.objAt j = s.objAt j) ∧ u.mem = s.mem) ∧
  (∀ (s : State) (g us k f : Nat), s.canIssue g = true → us + 2 ≤ 64 → (s.gang g).uPair us ≠ 0 →
    s.chdAt (s.launchOf g).part ((s.gang g).uPair us).toNat = some (k, f) → (s.objAt k).creation = false →
    exec (.chdFree g us) s = .next ((s.issued g).gangFault g 0xA ((s.gang g).uPair us)).settle) ∧
  (∀ (s : State) (g ud us k f : Nat), s.canIssue g = true → ud + 2 ≤ 64 → us + 2 ≤ 64 →
    s.chdAt (s.launchOf g).part ((s.gang g).uPair us).toNat = some (k, f) →
    ∃ u : State, exec (.chdHdl g ud us) s = .next u.settle ∧ (u.gang g).uPair ud = BitVec.ofNat 64 (s.handleOf k) ∧
      u.obj = s.obj) ∧
  (∀ (s : State) (g ud us : Nat), s.canIssue g = true → ud + 2 ≤ 64 → us + 2 ≤ 64 →
    s.chdAt (s.launchOf g).part ((s.gang g).uPair us).toNat = none →
    ∃ u : State, exec (.chdHdl g ud us) s = .next u.settle ∧ (u.gang g).uPair ud = 0)

/-- The counter instructions. With no operation waiting at the store: an add gives the new value in the pair ud and in the
counter; a read gives the value; a wait whose value is reached goes on at once, and any other parks its gang with a record;
an object word that the instruction may not name is a fault. The sync store by itself. It applies an operation that its
slice's owner may make, refuses any other, and drops one whose tag does not agree. The recheck serves a waiter whose
condition is met and counts it; an object whose complement does not match is marked BAD; the repair register gives the
selected BAD counter its value. It rests on R336, R337, R338, R339, R340, R341, R351, R355, R412, R436. -/
def Obligations.CounterInstructions : Prop :=
  (∀ (s : State) (g p ud uo un w : Nat) (v : DWord), s.canIssue g = true → p < 8 → evenU ud = true → uo < 64 → un < 64 →
    s.objWord g uo = w → (s.wordOk g false true w).1 = true → wordRemote w = false → s.defers g = false →
    0 < ((s.gang g).uReg un).toNat → (∀ e ∈ s.sync.inbox, e.1 ≠ objDie (wordObj w)) → (s.tally (wordObj w)).ok = true →
    (s.tally (wordObj w)).mirror = false → (s.tally (wordObj w)).waiters = [] →
    (s.tally (wordObj w)).value.toNat + ((s.gang g).uReg un).toNat < 2 ^ 64 →
    (s.tally (wordObj w)).value + ((s.gang g).uReg un).setWidth 64 = v →
    ∃ u : State, exec (.tallyAddInstr g p ud uo un) s = .next u.settle ∧ (u.tally (wordObj w)).value = v ∧
      (u.tally (wordObj w)).ok = true ∧ (u.gang g).uPair ud = v ∧ (u.gang g).pReg p = 0xFFFFFFFF) ∧
  (∀ (s : State) (g ud uo w : Nat), s.canIssue g = true → evenU ud = true → uo < 64 → s.objWord g uo = w →
    (s.wordOk g false false w).1 = true → (∀ e ∈ s.sync.inbox, e.1 ≠ objDie (wordObj w)) →
    (s.tally (wordObj w)).ok = true →
    ∃ u : State, exec (.tallyRd g ud uo) s = .next u.settle ∧ (u.gang g).uPair ud = (s.tally (wordObj w)).value ∧
      u.sync.tally = s.sync.tally ∧ u.mem = s.mem) ∧
  (∀ (s : State) (g ud uo w : Nat), s.canIssue g = true → evenU ud = true → uo < 64 → s.objWord g uo = w →
    (s.wordOk g false false w).1 = false →
    exec (.tallyRd g ud uo) s = .next ((s.issued g).gangFault g 0xE (BitVec.ofNat 64 w)).settle) ∧
  (∀ (s : State) (g p ud uo ue ut w : Nat), s.canIssue g = true → p < 8 → evenU ud = true → evenU ue = true → uo < 64 →
    ut < 64 → s.objWord g uo = w → (s.wordOk g false false w).1 = true →
    (∀ e ∈ s.sync.inbox, e.1 ≠ objDie (wordObj w)) → (s.tally (wordObj w)).ok = true →
    (((s.gang g).uPair ue).toNat ≤ (s.tally (wordObj w)).value.toNat →
      ∃ u : State, exec (.tallyWaitInstr g p ud uo ue ut) s = .next u.settle ∧ (u.gang g).pReg p = 0xFFFFFFFF ∧
        (u.gang g).uPair ud = (s.tally (wordObj w)).value ∧ (u.gang g).wait = .ready) ∧
    ((s.tally (wordObj w)).value.toNat < ((s.gang g).uPair ue).toNat → s.recUse (objSlice (wordObj w)) < 1024 →
      ∃ u : State, exec (.tallyWaitInstr g p ud uo ue ut) s = .next u.settle ∧ (u.gang g).wait = .sync (wordObj w) ∧
        (u.tally (wordObj w)).waiters.map (fun r => (r.who, r.amount)) =
          (s.tally (wordObj w)).waiters.map (fun r => (r.who, r.amount)) ++ [(.gang g, (s.gang g).uPair ue)])) ∧
  (∀ (s t : State) (d : Nat) (op : SyncOp) (r : List (Nat × SyncOp)), takeOp d s.sync.inbox = some (op, r) →
    (s.onSync fun x => { x with inbox := r }) = t →
    (op.npart = ~~~(BitVec.ofNat 8 op.part) → t.opAdmitted op = true →
      exec (.syncOpApply d) s = .next (t.applyOp op).settle) ∧
    (op.npart = ~~~(BitVec.ofNat 8 op.part) → t.opAdmitted op = false →
      exec (.syncOpApply d) s = .next (t.refuseOp op).settle) ∧
    (op.npart ≠ ~~~(BitVec.ofNat 8 op.part) → exec (.syncOpApply d) s = .next (t.damagedOp op).settle)) ∧
  (∀ (s : State) (i : Nat) (t : Tally) (w : WaitRec), s.sync.tally = [(i, t)] → s.sync.sem = [] → t.ok = true →
    t.waiters = [w] → w.amount.toNat ≤ t.value.toNat →
    ∃ u : State, exec .syncRecheck s = .next u.settle ∧ (u.tally i).waiters = [] ∧ (u.tally i).value = t.value ∧
      u.sync.repulse = satInc s.sync.repulse) ∧
  (∀ (s : State) (op : SyncOp), op.obj < 2 ^ 17 → (s.tally op.obj).nvalue ≠ ~~~(s.tally op.obj).value →
    ((s.applyOp op).tally op.obj).bad = true ∧ ((s.applyOp op).tally op.obj).value = (s.tally op.obj).value) ∧
  (∀ (s : State) (v : DWord) (i : Nat), s.boot.ready = true → s.hostWake.sync = s.sync → bits s.sync.dbgSel 0 18 = i →
    i < 2 ^ 17 → (s.tally i).bad = true →
    ∃ u : State, exec (.syncDbgRepair v) s = .next u.settle ∧ (u.tally i).bad = false ∧ (u.tally i).ok = true ∧
      (u.tally i).value = BitVec.ofNat 64 (s.sync.repairHi.toNat * 2 ^ 32 + (v.setWidth 32).toNat)) ∧
  (∀ (s : State) (v : DWord), s.boot.ready = true → s.hostWake.selBad = false →
    exec (.syncDbgRepair v) s = .next s.hostWake.settle)

/-- The semaphore instructions. A take that fits takes its units, OWNED with a holder record; one that does not parks its
gang, or, for a try, answers FAILED; a post adds units; a return gives back the units held, and one of no holding answers
NOT_HOLDER; after serving, no head of
the queue fits; a deadline that has passed ends the wait with TIMEOUT. It rests on R342, R343, R344, R345, R347, R352. -/
def Obligations.SemaphoreInstructions : Prop :=
  (∀ (s : State) (g p ud uo un ut w i : Nat) (own : Bool), s.canIssue g = true → p < 8 → ud < 64 → uo < 64 → un < 64 →
    ut < 64 → s.objWord g uo = w → wordObj w % 2 ^ 17 = i → (s.wordOk g true false w).1 = true → (s.gang g).uReg un ≠ 0 →
    (∀ e ∈ s.sync.inbox, e.1 ≠ objDie (wordObj w)) → (s.sem i).ok = true →
    ((s.sem i).waiters = [] → ((s.gang g).uReg un).toNat ≤ (s.sem i).count.toNat →
      (own = true → s.recUse (objSlice (wordObj w)) < 1024) → (s.sem i).abandoned = false →
      (∃ u : State, exec (.semWaitInstr g own p ud uo un ut) s = .next u.settle ∧
        (u.sem i).count = (s.sem i).count - (s.gang g).uReg un ∧ (u.gang g).uReg ud = 0 ∧ (u.gang g).pReg p = 0xFFFFFFFF) ∧
      (∃ u : State, exec (.semTry g own p ud uo un) s = .next u.settle ∧
        (u.sem i).count = (s.sem i).count - (s.gang g).uReg un ∧ (u.gang g).uReg ud = 0 ∧
        (u.gang g).pReg p = 0xFFFFFFFF)) ∧
    ((s.sem i).count.toNat < ((s.gang g).uReg un).toNat →
      (s.recUse (objSlice (wordObj w)) < 1024 →
        ∃ u : State, exec (.semWaitInstr g own p ud uo un ut) s = .next u.settle ∧
          (u.gang g).wait = .sync (wordObj w) ∧ (u.sem i).count = (s.sem i).count) ∧
      (∃ u : State, exec (.semTry g own p ud uo un) s = .next u.settle ∧ (u.gang g).uReg ud = 6 ∧
        (u.gang g).pReg p = 0 ∧ u.sync.sem = s.sync.sem))) ∧
  (∀ (s : State) (g p ud uo un w i : Nat), s.canIssue g = true → p < 8 → ud < 64 → uo < 64 → un < 64 →
    s.objWord g uo = w → wordObj w % 2 ^ 17 = i → (s.wordOk g true true w).1 = true → wordRemote w = false →
    s.defers g = false → (s.gang g).uReg un ≠ 0 → (∀ e ∈ s.sync.inbox, e.1 ≠ objDie (wordObj w)) → (s.sem i).ok = true →
    (s.sem i).waiters = [] → (s.sem i).count.toNat + ((s.gang g).uReg un).toNat < 2 ^ 32 →
    ∃ u : State, exec (.semPostInstr g p ud uo un) s = .next u.settle ∧
      (u.sem i).count = (s.sem i).count + (s.gang g).uReg un ∧ (u.gang g).uReg ud = 0 ∧ (u.gang g).pReg p = 0xFFFFFFFF) ∧
  (∀ (s : State) (g p ud uo w i : Nat), s.canIssue g = true → p < 8 → ud < 64 → uo < 64 → s.objWord g uo = w →
    wordObj w % 2 ^ 17 = i → (s.wordOk g true false w).1 = true → s.defers g = false →
    (∀ e ∈ s.sync.inbox, e.1 ≠ objDie (wordObj w)) → (s.sem i).ok = true → (∀ h ∈ (s.sem i).holders, h.gang ≠ g) →
    ∃ u : State, exec (.semPostOwn g p ud uo) s = .next u.settle ∧ (u.gang g).uReg ud = 4 ∧ (u.gang g).pReg p = 0 ∧
      u.sync.sem = s.sync.sem) ∧
  (∀ (s : State) (g p ud uo w i : Nat) (h : HoldRec), s.canIssue g = true → p < 8 → ud < 64 → uo < 64 →
    s.objWord g uo = w → wordObj w % 2 ^ 17 = i → (s.wordOk g true false w).1 = true → s.defers g = false →
    (∀ e ∈ s.sync.inbox, e.1 ≠ objDie (wordObj w)) → (s.sem i).ok = true → (s.sem i).holders = [h] → h.gang = g →
    (s.sem i).waiters = [] → (s.sem i).count.toNat + h.units < 2 ^ 32 →
    ∃ u : State, exec (.semPostOwn g p ud uo) s = .next u.settle ∧
      (u.sem i).count = (s.sem i).count + BitVec.ofNat 32 h.units ∧ (u.sem i).holders = [] ∧ (u.gang g).uReg ud = 0 ∧
      (u.gang g).pReg p = 0xFFFFFFFF) ∧
  (∀ (s : State) (g ud uo w i : Nat), s.canIssue g = true → evenU ud = true → uo < 64 → s.objWord g uo = w →
    wordObj w % 2 ^ 17 = i → (s.wordOk g true false w).1 = true → (∀ e ∈ s.sync.inbox, e.1 ≠ objDie (wordObj w)) →
    (s.sem i).ok = true →
    ∃ u : State, exec (.semRd g ud uo) s = .next u.settle ∧ (u.gang g).uReg ud = (s.sem i).count ∧
      (u.gang g).uReg (ud + 1) = BitVec.ofNat 32 (b2n (s.sem i).abandoned) ∧ u.sync.sem = s.sync.sem) ∧
  (∀ (s : State) (i : Nat), ((s.serveSem i).sem i).waiters = [] ∨ ∃ (w : WaitRec) (r : List WaitRec),
    ((s.serveSem i).sem i).waiters = w :: r ∧ ((s.serveSem i).sem i).count.toNat < w.amount.toNat) ∧
  (∀ (s : State) (g i d : Nat) (w : WaitRec), i < 2 ^ 17 → (s.gang g).wait = .sync i →
    gangRec g (s.tally i).waiters = some w → w.deadline = some d → d ≤ s.nowNs → w.who = .gang g → w.pReg < 8 →
    ∃ u : State, exec (.gangWaitTimeout g) s = .next u.settle ∧ (u.gang g).wait = .ready ∧ (u.gang g).pReg w.pReg = 0 ∧
      (u.tally i).value = (s.tally i).value ∧ (∀ r ∈ (u.tally i).waiters, r.who ≠ .gang g))

/-- Memory-side adds and exact slots. The active lanes' adds leave in ascending lane order; the oldest add in flight is
applied, an integer wrapping; `xs.clr` leaves an empty slot with its window; `xs.rd` and `xs.raw` give the slot as the adds
before them leave it; a slot that the partition does not own is a fault, and an add in flight that it may not make is refused
when it arrives, one whose tag does not agree dropped. It rests on R356, R357, R359, R360, R361, R376, R412, R436. -/
def Obligations.ReductionInstructions : Prop :=
  (∀ (s : State) (g : Nat) (ty : AddTy) (va vs : Nat), s.canIssue g = true →
    firstFault ((s.issued g).addChecks g ty va vs) = none → s.addKept g ty va = false →
    exec (.memAdd g ty va vs) s = .next (State.settle ((s.gang g).lanes.foldl (fun t l =>
      t.addNow g (addFmt ty) ((s.gang g).va va l) ((s.gang g).addend ty vs l)) (s.issued g)))) ∧
  (∀ (s : State) (a : RedAdd) (r : List RedAdd), s.red.inflight = a :: r → s.awake = true → s.tw.tripped = false →
    a.npart = ~~~(BitVec.ofNat 8 a.part) → s.addAdmitted a = true → a.fmt ≠ .xs →
    s.hostKeeps a.dpa a.fmt.bytes true = false → s.deckHeld a.dpa a.fmt.bytes = false → s.mem.poisoned a.dpa a.fmt.bytes = false →
    ∃ u : State, exec (.reductionApply false) s = .next u.settle ∧ u.red.inflight = r ∧ u.mem.bytes =
      memWrite s.mem.bytes a.dpa (toLe a.fmt.bytes (redValue a.fmt (ofLe (s.mem.read a.dpa a.fmt.bytes)) a.value.toNat))) ∧
  (∀ (s : State) (a : RedAdd) (r : List RedAdd) (b : Bool), s.red.inflight = a :: r → s.awake = true →
    s.tw.tripped = false → a.fmt = .xs →
    (a.npart = ~~~(BitVec.ofNat 8 a.part) → s.addAdmitted a = false → exec (.reductionApply b) s =
      .next ((s.onRed fun x => { x with inflight := r }).refuseAdd a).settle) ∧
    (a.npart ≠ ~~~(BitVec.ofNat 8 a.part) → exec (.reductionApply b) s =
      .next ((s.onRed fun x => { x with inflight := r }).dropAdd a).settle)) ∧
  (∀ (s : State) (g us uw i : Nat) (w : Int), s.canIssue g = true → us < 64 → uw < 64 → ((s.gang g).uReg us).toNat = i →
    (s.slotOk g i).1 = true → ((s.gang g).uReg uw).toInt = w → -149 ≤ w → w ≤ -32 →
    ∃ u : State, exec (.xsClr g us uw) s = .next u.settle ∧ u.slotAt i = { w := w }) ∧
  (∀ (s : State) (g us uw i : Nat), s.canIssue g = true → us < 64 → uw < 64 → ((s.gang g).uReg us).toNat = i →
    (s.slotOk g i).1 = false →
    exec (.xsClr g us uw) s = .next (((s.issued g).noteRefusal (s.launchOf g).ctx 0xB i (some (gCore g)) (s.gangTag g)).gangFault
      g 0xB (BitVec.ofNat 64 i)).settle) ∧
  (∀ (s : State) (g ud us i : Nat) (r : RMode), s.canIssue g = true → r ≠ .stoch → ud < 64 → us < 64 →
    ((s.gang g).uReg us).toNat = i → (s.slotOk g i).1 = true → (s.slotAt i).poisoned = false →
    ∃ u : State, exec (.xsRd g r ud us false) s = .next u.settle ∧ u.slotAt i = (s.flushAdds g).slotAt i ∧
      (u.gang g).uReg ud = BitVec.ofNat 32 (((s.flushAdds g).slotAt i).read (if r = .zero then .zero else .even)).1) ∧
  (∀ (s : State) (g ud us i k : Nat), s.canIssue g = true → ud ≤ 58 → ud % 2 = 0 → us < 64 →
    ((s.gang g).uReg us).toNat = i → (s.slotOk g i).1 = true → (s.slotAt i).poisoned = false → k < 6 →
    ∃ u : State, exec (.xsRaw g ud us false) s = .next u.settle ∧
      (u.gang g).uReg (ud + k) = ((s.flushAdds g).slotAt i).raw.getD k 0 ∧ u.slotAt i = (s.flushAdds g).slotAt i) ∧
  (∀ old a b : Nat, redValue .i32 (redValue .i32 old a) b = redValue .i32 (redValue .i32 old b) a ∧
    redValue .i64 (redValue .i64 old a) b = redValue .i64 (redValue .i64 old b) a)

/-- R360: `xs.add` sends the binary32 value of each active lane toward the slot that the lane names, and the value joins the
slot: a NaN or an infinity sets its flag, a finite value of at least 2^(W + 175) sets RANGE and is not added, and any other
is truncated to a multiple q of 2^W, with INEXACT where bits were dropped, and added modulo 2^176. The contents after a list
of adds do not depend on its order, and addends that are multiples of 2^W within the window give their exact sum. -/
def Obligations.ReductionOrder : Prop :=
  (∀ (s : State) (a : RedAdd) (r : List RedAdd), s.red.inflight = a :: r → s.awake = true → s.tw.tripped = false →
    a.npart = ~~~(BitVec.ofNat 8 a.part) → s.addAdmitted a = true → a.fmt = .xs → (s.slotAt a.dpa).poisoned = false →
    ∃ u : State, exec (.reductionApply false) s = .next u.settle ∧ u.red.inflight = r ∧
      u.slotAt a.dpa = (s.slotAt a.dpa).add (fB32.decode (a.value.toNat % 2 ^ 32)) ∧
      (∀ k, k ≠ a.dpa → u.slotAt k = s.slotAt k) ∧ u.mem = s.mem) ∧
  (∀ (s : State) (g vi vx : Nat), s.canIssue g = true → firstFault ((s.issued g).xsChecks g vi vx) = none →
    ∃ u : State, exec (.xsAdd g vi vx) s = .next u.settle ∧ u.red.slot = s.red.slot ∧ u.mem = s.mem ∧
      u.red.inflight.map (fun a => (a.fmt, a.dpa, a.value)) = s.red.inflight.map (fun a => (a.fmt, a.dpa, a.value)) ++
        (s.gang g).lanes.map fun l => (.xs, ((s.gang g).vReg vi l).toNat, ((s.gang g).vReg vx l).setWidth 64)) ∧
  (∀ t : Slot, t.add .nan = { t with nan := true } ∧ t.add (.inf true) = { t with ninf := true } ∧
    t.add (.inf false) = { t with pinf := true }) ∧
  (∀ (t : Slot) (neg : Bool) (m : Nat) (e : Int), 2 ^ (t.w + 175 - e).toNat ≤ m * 2 ^ (e - (t.w + 175)).toNat →
    t.add (.fin neg m e) = { t with range := true }) ∧
  (∀ (t : Slot) (neg : Bool) (m : Nat) (e : Int), m * 2 ^ (e - (t.w + 175)).toNat < 2 ^ (t.w + 175 - e).toNat →
    ∃ q : Nat, q * 2 ^ (t.w - e).toNat ≤ m * 2 ^ (e - t.w).toNat ∧ m * 2 ^ (e - t.w).toNat < (q + 1) * 2 ^ (t.w - e).toNat ∧
      t.add (.fin neg m e) = { t with
        s := t.s + BitVec.ofInt 176 (if neg then -(q : Int) else q)
        inexact := t.inexact || decide (q * 2 ^ (t.w - e).toNat ≠ m * 2 ^ (e - t.w).toNat) }) ∧
  (∀ (t : Slot) (l m : List Sys2Proof.Num), l.Perm m → l.foldl (fun t x => t.add x) t = m.foldl (fun t x => t.add x) t) ∧
  (∀ (t : Slot) (l : List (Bool × Nat × Nat)), (∀ x ∈ l, x.2.1 * 2 ^ x.2.2 < 2 ^ 175) →
    ((l.map fun x => Sys2Proof.Num.fin x.1 x.2.1 (t.w + x.2.2)).foldl (fun t x => t.add x) t).s = t.s + BitVec.ofInt 176
      ((l.map fun x => if x.1 then -((x.2.1 * 2 ^ x.2.2 : Nat) : Int) else ((x.2.1 * 2 ^ x.2.2 : Nat) : Int)).sum) ∧
    ((l.map fun x => Sys2Proof.Num.fin x.1 x.2.1 (t.w + x.2.2)).foldl (fun t x => t.add x) t).inexact = t.inexact)

/-- Deferred operations and commits. In a REPLAYABLE launch an operation joins the block's entry of its key or takes a free
one, and a block without one commits early; the end of a block sends its commit; the first commit of a block is entered in
the ledger and applied, a second is discarded. It rests on R363, R364, R365, R367, R368, R369, R371, R375. -/
def Obligations.DeferredAndCommits : Prop :=
  (∀ (s : State) (g : Nat) (ty : AddTy) (va vs : Nat), s.canIssue g = true →
    firstFault ((s.issued g).addChecks g ty va vs) = none →
    exec (.dfrAdd g ty va vs) s = .next (State.settle ((s.gang g).lanes.foldl (fun t l =>
      t.deferOr g (.memAdd ty) (t.dpaOf (s.launchOf g).ctx ((s.gang g).va va l))
        (DfrEntry.addValue ty (t.newKey g (.memAdd ty) (t.dpaOf (s.launchOf g).ctx ((s.gang g).va va l)))
          ((s.gang g).addend ty vs l).toNat)
        fun t => t.addNow g (addFmt ty) ((s.gang g).va va l) ((s.gang g).addend ty vs l)) (s.issued g)))) ∧
  (∀ (s : State) (g vi vx : Nat), s.canIssue g = true → firstFault ((s.issued g).xsChecks g vi vx) = none →
    exec (.dfrXs g vi vx) s = .next (State.settle ((s.gang g).lanes.foldl (fun t l =>
      t.deferOr g .xs ((s.gang g).vReg vi l).toNat
        (fun e => { e with slot := e.slot.add (fB32.decode ((s.gang g).vReg vx l).toNat) })
        fun t => t.xsNow g ((s.gang g).vReg vi l).toNat ((s.gang g).vReg vx l)) (s.issued g)))) ∧
  (∀ (s : State) (g key : Nat) (k : DfrKind) (f : DfrEntry → DfrEntry) (now : State → State),
    (s.blk (s.blockOf g)).early = false → s.newKey g k key = true → (s.coreAt (gCore g)).dfr.length < 256 →
    ((s.deferOr g k key f now).coreAt (gCore g)).dfr = (s.coreAt (gCore g)).dfr ++
      [f { block := s.blockOf g, kind := k, key := key, value := 0, slot := {}, gangs := [] }] ∧
    (s.deferOr g k key f now).red = s.red ∧ (s.deferOr g k key f now).mem = s.mem) ∧
  (∀ (s : State) (g key : Nat) (k : DfrKind) (f : DfrEntry → DfrEntry) (now : State → State),
    (s.blk (s.blockOf g)).early = false → s.newKey g k key = true → 256 ≤ (s.coreAt (gCore g)).dfr.length →
    s.deferOr g k key f now = now (s.commitEarly g)) ∧
  (∀ (s : State) (b : Nat), (s.core.block.find b).isSome = true → (s.blk b).exited = true → (s.blk b).commitSent = false →
    (∀ w ∈ s.mem.rmw, w.block ≠ b) → s.mem.comb.look (s.blk b).core [] = [] → (s.coreAt (s.blk b).core).mover = [] →
    s.awake = true → s.tw.tripped = false → (s.ctx (s.launch (s.blk b).launch).ctx).st = .live →
    ∃ (u : State) (c : Commit), exec (.blockCommit b) s = .next u.settle ∧ (u.blk b).commitSent = true ∧
      u.red.commits = s.red.commits ++ [c] ∧ c.block = b ∧ c.early = false ∧ c.flags = (s.blk b).flags ∧
      ((s.blk b).early = false → c.entries = (s.coreAt (s.blk b).core).dfr.filter fun e => e.block == b)) ∧
  (∀ (s : State) (i : Nat) (c : Commit) (l : Launch), s.red.commits[i]? = some c → s.launch c.launch = l →
    s.awake = true → (∀ e ∈ c.entries, ∀ ty, e.kind = .memAdd ty → s.deckHeld e.key (addFmt ty).bytes = false) →
    l.live = true → (s.ctx c.ctx).st = .live → l.replayable = true → l.status = true → c.early = false →
    l.ledger.look c.index false = false → s.tw.tripped = false →
    exec (.commitArrive i false) s = .next (State.settle ((((s.onRed fun r => { r with commits := r.commits.eraseIdx i }).onLaunch
      c.launch fun l => { l with ledger := l.ledger.put c.index false true }).ackCommit c).applyCommit c))) ∧
  (∀ (s : State) (i : Nat) (c : Commit) (l : Launch), s.red.commits[i]? = some c → s.launch c.launch = l →
    s.awake = true → (∀ e ∈ c.entries, ∀ ty, e.kind = .memAdd ty → s.deckHeld e.key (addFmt ty).bytes = false) →
    l.live = true → (s.ctx c.ctx).st = .live → l.replayable = true → l.status = true → c.early = false →
    l.ledger.look c.index false = true →
    ∃ u : State, exec (.commitArrive i false) s = .next u.settle ∧ u.red.commits = s.red.commits.eraseIdx i ∧
      u.red.slot = s.red.slot ∧ u.mem = s.mem ∧ u.sync = s.sync)

/-- The homes. A request of a line that nobody holds is granted at once, a read in E and an ownership in M; a 17th request
of a line is NACKed, and its retry joins when its wait is over and there is a place; a request that the owner check refuses is
a breakwater refusal and nothing else; a grant of a coherent line leaves it coherent; a writeback
gives up the agent's copy; a forwarded request waits for the tenure of the owner, and is then granted. Stores on their way.
The oldest entry of a core's combining buffer drains, and the oldest lighter store is merged into its block at its home,
which keeps every other one waiting. It rests on R299, R301, R302, R303, R305, R311, R317, R328, R412. -/
def Obligations.HomesAndStores : Prop :=
  (∀ (s : State) (l x w p : Nat) (k : ReqKind) (b : List Byte), hbmLine l = true → s.awake = true → x < 8 →
    s.owner (4 * x + w / 4) = some p → s.homeRefuses l x p = none → (s.fillWay x w l).isSome = true → s.dirAt l = {} →
    (∀ e ∈ s.mem.resv.look (l * 256 / 0x900000000) [], e.1 ≠ l) → k ≠ .writeBack → k ≠ .evict →
    ∃ u : State, exec (.homeRequest l x k ⟨w, b, .ok⟩) s = .next u ∧
      (u.dirAt l).at_ x = (if k = .readShared then Moesi.e else .m) ∧ (u.dirAt l).queue = [] ∧ u.mem.bytes = s.mem.bytes) ∧
  (∀ (s : State) (l x w p : Nat) (k : ReqKind) (b : List Byte), hbmLine l = true → s.awake = true → x < 8 →
    s.owner (4 * x + w / 4) = some p → s.homeRefuses l x p = none → 16 ≤ (s.dirAt l).queue.length → k ≠ .writeBack →
    k ≠ .evict →
    ∃ u : State, exec (.homeRequest l x k ⟨w, b, .ok⟩) s = .next u ∧ u.mem.dir = s.mem.dir ∧
      u.mem.nacked = s.mem.nacked ++ [(l, { agent := x, kind := k, nacks := 1, way := w, due := s.nowNs + 256 })]) ∧
  (∀ (s : State) (l x w p d : Nat) (k : ReqKind) (b : List Byte), hbmLine l = true → s.awake = true → x < 8 →
    s.owner (4 * x + w / 4) = some p → s.homeRefuses l x p = some d → k ≠ .writeBack → k ≠ .evict →
    exec (.homeRequest l x k ⟨w, b, .ok⟩) s = .next (s.bwRefusal p d (l * 256))) ∧
  (∀ (s : State) (l x w : Nat) (b : List Byte), hbmLine l = true → s.awake = true → x < 8 →
    (s.dirAt l).at_ x = .m ∨ (s.dirAt l).at_ x = .o →
    ∃ u : State, exec (.homeRequest l x .writeBack ⟨w, b, .ok⟩) s = .next u ∧ (u.dirAt l).at_ x = .i ∧
      (∀ y, y ≠ x → (u.dirAt l).at_ y = (s.dirAt l).at_ y) ∧ u.mem.bytes = s.mem.bytes) ∧
  (∀ (d : DirLine) (x : Nat) (k : ReqKind), d.coherent → (d.granted x k).coherent) ∧
  (∀ (s : State) (l x : Nat) (r : HomeReq), s.mem.nacked.find? (fun e => e.1 == l && e.2.agent == x) = some (l, r) →
    r.due ≤ s.nowNs → (s.dirAt l).queue.length < 16 →
    exec (.homeNackRetry l x) s = .next ((s.onMem fun m => { m with nacked := m.nacked.erase (l, r) }).joinHome l r)) ∧
  (∀ (s : State) (l y : Nat), (s.dirAt l).fwdTo = some y → (l, y) ∉ s.mem.fwdWait → y ∈ (s.dirAt l).tenure →
    exec (.forwardedRequest l) s = .next (s.onMem fun m => { m with fwdWait := m.fwdWait ++ [(l, y)] })) ∧
  (∀ (s : State) (l y : Nat), (s.dirAt l).fwdTo = some y → (l, y) ∉ s.mem.fwdWait → y ∉ (s.dirAt l).tenure →
    exec (.forwardedRequest l) s = .next ((s.grantHead l).serveLine l)) ∧
  (∀ (s : State) (l x : Nat), x ∈ (s.dirAt l).tenure → (l, x) ∉ s.mem.fwdWait → (s.dirAt l).snoop = none →
    ∃ u : State, exec (.tenureEnd l x) s = .next u ∧ x ∉ (u.dirAt l).tenure ∧ (u.dirAt l).agents = (s.dirAt l).agents) ∧
  (∀ (s : State) (l : Nat) (r : HomeReq) (q : List HomeReq), (s.dirAt l).busy = true → (s.dirAt l).fwdTo = none →
    (s.dirAt l).queue = r :: q → (s.dirAt l).at_ 9 = .s →
    exec (.bisnpResponse l []) s = .next ((s.onDir l fun d =>
      { d with busy := false, agents := (if exclusive r.kind then d.agents.drop 9 else d.agents.put 9 .i .s) }).serveLine l)) ∧
  (∀ (s : State) (c : Nat) (bad : Byte) (e : Comb) (r : List Comb), s.mem.comb.look c [] = e :: r → s.awake = true →
    s.tw.tripped = false → exec (.combiningDrain ⟨c, bad⟩) s =
      .next ((s.onMem fun m => { m with comb := m.comb.put c [] r }).drainEntry e bad)) ∧
  (∀ (s : State) (w : LighterStore) (r : List LighterStore), s.mem.rmw = w :: r → s.awake = true → s.tw.tripped = false →
    s.deckHeld w.dpa 48 = false →
    exec .lighterRmw s = .next ((s.onMem fun m => { m with rmw := r }).ltMerge w.dpa w.off (w.bytes.map fun b => (b, false))))

/-- Membership. A worker without a number announces itself; the manager hears announces until the round ends, 20 ms after the
first, and numbers the workers it heard; the assignee takes its number, fleet ID, epoch and routes and has joined; the first BEAT after an ASSIGN
completes the join, and each BEAT is noted; a joined worker that has been silent for 8 ms is LOST, and so is one asleep that
has been cut off that long; a worker that has not heard a manager that long is ADRIFT; LOSS, POWER and ROUTES messages take
effect; FLEET_CTRL saves, forgets a LOST worker
and clears the ID. It rests on R377 to R383, R395, R396, R398, R399, R400. -/
def Obligations.FleetMembership : Prop :=
  (∀ s : State, s.awake = true → s.isWorker = true → s.fleet.devNum = none →
    exec .announceSend s = .next (State.settle (((List.range 8).filter fun p => decide ((s.port p).st = .active)).foldl
      (fun t p => t.sendOn p (s.mkMsg 8 1 0xFF 0 (toLe 8 Config.serial.toNat ++ toLe 4 s.fleet.id.toNat ++ toLe 4 0 ++
        ((s.peersOf 0).map fun x => toLe 8 x.toNat).flatten))) s))) ∧
  (∀ (s x : State) (port : Nat) (m : FleetMsg), s.fleetUp = true → s.Takes (isMsg 8 1) port m x → x.isManager = true →
    mf m 12 1 ≤ 2 → mf m 8 4 = 0 →
    ∃ u : State, exec .announceReceive s = .next u.settle ∧ u.fleet.roundOpen = true ∧
      u.fleet.round = hear (BitVec.ofNat 64 (mf m 0 8), 0, port :: (List.range (mf m 12 1)).map (fun i => mf m (13 + i) 1),
        (List.range 8).map fun i => BitVec.ofNat 64 (mf m (16 + 8 * i) 8)) x.fleet.round) ∧
  (∀ (s t : State) (sn : DWord) (n : Nat) (path : List Nat) (peers : List DWord), s.fleetUp = true → s.isManager = true →
    s.fleet.roundOpen = true → s.fleet.roundTick + 160000 ≤ s.time.tick → s.fleet.round = [(sn, 0, path, peers)] →
    (s.onFleet fun f => { f with round := [], roundOpen := false }) = t → t.oldNumber sn = none → t.newNumber sn = some n →
    exec .numberingRoundEnd s = .next (State.settle (((t.number (sn, 0, path, peers) n).sendAssign n).newRoutes))) ∧
  (∀ s : State, s.time.tick < s.fleet.roundTick + 160000 → exec .numberingRoundEnd s = .next s.settle) ∧
  (∀ (s x : State) (port : Nat) (m : FleetMsg) (b : Bool), s.fleetUp = true → s.Takes (isMsg 8 2) port m x → m.dst = 0xFF →
    x.isWorker = true → BitVec.ofNat 64 (mf m 0 8) = Config.serial → x.fleet.id = BitVec.ofNat 32 (mf m 12 4) →
    x.fleet.id ≠ 0 → x.fleet.own ≠ .adrift →
    exec (.assignReceive b) s = .next (State.settle (((((x.onFleet fun f => { f with msgCnt := 0 }).onFleet fun f =>
      { f with devNum := some (mf m 8 1 % 64), id := BitVec.ofNat 32 (mf m 12 4), epoch := m.epoch, barriers := m.epoch - 1
               closed := none, mgrBeat := x.time.tick }).setOwn .joined).installRoutes
        ((m.body.drop 24).map BitVec.toNat)).stage14))) ∧
  (∀ (s x t : State) (port : Nat) (m : FleetMsg), s.fleetUp = true → s.Takes (isMsg 8 3) port m x →
    x.installRoutes (m.body.map BitVec.toNat) = t → t.isManager = false →
    exec .routesReceive s = .next (State.settle (t.onFleet fun f =>
      { f with dev := f.dev.filter fun e => !(decide (e.2.st = .lost) && (f.route.find e.1).isSome)
               cons := f.cons.map fun e => (e.1, { e.2 with frozen := e.2.frozen && (f.route.find e.2.peer).isNone }) }))) ∧
  (∀ s : State, s.fleetUp = true → s.isManager = true → exec .beatSend s = .next (State.settle
    ((s.devsIn fun d => decide (d.st = .joined)).foldl (fun t d => t.sendMsg (t.mkMsg 8 0 d 0 (toLe 8 s.nowNs))) s))) ∧
  (∀ (s x : State) (port : Nat) (m : FleetMsg), s.fleetUp = true → s.Takes (isMsg 8 0) port m x → x.isManager = true →
    (x.fdev m.src).returning = false → (x.fdev m.src).st = .joined →
    ∃ u : State, exec .beatReceive s = .next u.settle ∧ (u.fdev m.src).lastBeat = x.time.tick ∧
      (u.fdev m.src).st = .joined ∧ (∀ d, d ≠ m.src → u.fdev d = x.fdev d)) ∧
  (∀ (s : State) (d : Nat), s.awake = true → s.isManager = true → d ≠ 0 → (s.fdev d).st = .joined →
    (s.fdev d).lastBeat + 64000 ≤ s.time.tick →
    exec (.workerLost d) s = .next ((s.loseWorker d).leaveBarrier d).settle) ∧
  (∀ (s : State) (d c : Nat), s.awake = true → s.isManager = true → d ≠ 0 → (s.fdev d).st = .asleep →
    s.egressUp d = none → (s.fdev d).cutFrom = some c → c + 64000 ≤ s.time.tick →
    exec (.workerLost d) s = .next ((s.loseWorker d).leaveBarrier d).settle) ∧
  (∀ (s : State) (d : Nat), (s.fdev d).st = .joined → s.time.tick < (s.fdev d).lastBeat + 64000 →
    exec (.workerLost d) s = .next s.settle) ∧
  (∀ s : State, s.awake = true → s.isWorker = true → s.fleet.own = .joined → (s.fdev 0).st ≠ .asleep →
    s.fleet.mgrBeat + 64000 ≤ s.time.tick → exec .workerAdrift s = .next s.goAdrift.settle) ∧
  (∀ (s x : State) (port : Nat) (m : FleetMsg), s.awake = true → s.Takes (isMsg 8 4) port m x → x.isManager = false →
    m.src = 0 → exec .lossReceive s = .next (State.settle ((x.onDev (mf m 0 1) fun y =>
      { y with st := .lost, sn := BitVec.ofNat 64 (mf m 8 8) }).dropPeer (mf m 0 1)))) ∧
  (∀ (s x : State) (port : Nat) (m : FleetMsg), s.awake = true → s.Takes (isMsg 9 0) port m x → x.isManager = true →
    mf m 1 1 = 0xFF - mf m 0 1 → mf m 0 1 = 2 → (x.fdev m.src).st = .joined →
    ∃ u : State, exec .powerMessageReceive s = .next u.settle ∧ (u.fdev m.src).st = .asleep) ∧
  (∀ (s x : State) (port : Nat) (m : FleetMsg), s.awake = true → s.Takes (isMsg 9 0) port m x → x.isManager = true →
    mf m 1 1 = 0xFF - mf m 0 1 → mf m 0 1 = 3 → (x.fdev m.src).st = .joined →
    exec .powerMessageReceive s =
      .next (State.settle ((x.onDev m.src fun y => { y with st := .dormant, cutFrom := none }).leaveBarrier m.src))) ∧
  (∀ (s : State) (v : Word), s.boot.ready = true → v.getLsbD 29 = false → v.getLsbD 30 = false →
    s.hostWake.isStandalone = false → exec (.fleetSave v) s =
      .next (State.settle ((s.hostWake.onFleet fun f => { f with barrierEn := v.getLsbD 28 }).saveFleet))) ∧
  (∀ (s : State) (v : Word), s.boot.ready = true → v.getLsbD 29 = false → v.getLsbD 31 = false → s.hostWake.isManager = true →
    (s.hostWake.fdev (bits v 0 6)).st = .lost →
    ∃ u : State, exec (.fleetForget v) s = .next u.settle ∧ u.fdev (bits v 0 6) = {} ∧
      (∀ d, d ≠ bits v 0 6 → u.fdev d = s.hostWake.fdev d)) ∧
  (∀ (s : State) (v : Word), s.boot.ready = true → v.getLsbD 30 = false → v.getLsbD 31 = false → s.hostWake.isWorker = true →
    s.hostWake.fleet.devNum = none →
    ∃ u : State, exec (.fleetClearId v) s = .next u.saveFleetId.settle ∧ u.fleet.id = 0)

/-- Messages. A FORWARD meets the front-end checks of its queue once; a STATUS completes what it answers; remote reads,
writes, adds and posts reach the memory or the store that their partition owns, once, and are refused otherwise; a pair is
opened. It rests on R199, R200, R354, R385 to R394. -/
def Obligations.FleetMessages : Prop :=
  (∀ (s x : State) (port : Nat) (m : FleetMsg), s.awake = true →
    s.Takes (fun m => isMsg 1 0 m && s.fwdRoom m) port m x → x.isManager = false → m.src = 0 → x.seen m = some [] →
    exec .forwardReceive s = .next x.settle) ∧
  (∀ (s x t u : State) (port k : Nat) (m : FleetMsg) (p : Packet), s.awake = true →
    s.Takes (fun m => isMsg 1 0 m && s.fwdRoom m) port m x → x.isManager = false → m.src = 0 → x.seen m = none →
    mf m 6 2 % 4096 = k → k < 32 → ({ bytes := m.body, arrival := x.nowNs, pid := x.q.nextPid } : Packet) = p →
    p.f 3 1 * 64 = m.body.length →
    (((((x.accept m).onQ fun y => { y with nextPid := y.nextPid + 1 }).onFleet fun f =>
      { f with fwdIn := f.fwdIn ++ [(p.pid, m.msgId, m.src)] }).onQueue (.fwd k) fun y => { y with enabled := true })) = t →
    (if t.pwr.dev = .ready then (t.onPwr fun w => { w with dev := .awake }).raise 5 else t) = u →
    exec .forwardReceive s = .next (u.intake (.fwd k) p).settle) ∧
  (∀ (s x : State) (port pid d : Nat) (m : FleetMsg) (id i : DWord), s.awake = true → s.Takes (isMsg 2 0) port m x →
    BitVec.ofNat 64 (mf m 0 8) = id →
    (x.freed id m.src).fleet.fwdOut.find? (fun e => e.2.1 == id && e.2.2 == m.src) = some (pid, i, d) →
    exec .statusReplyReceive s = .next (State.settle (((x.freed id m.src).onFleet fun f =>
      { f with fwdOut := f.fwdOut.filter fun e => e.1 != pid }).finish pid (mf m 12 2) (mf m 24 8) (mf m 32 4)))) ∧
  (∀ (s x t : State) (port pid d : Nat) (m : FleetMsg) (h : HeldMsg) (id i : DWord), s.awake = true →
    s.Takes (isMsg 2 1) port m x → BitVec.ofNat 64 (mf m 0 8) = id →
    x.fleet.held.find? (fun h => h.msg.msgId == id && h.msg.dst == m.src) = some h → isMsg 3 2 h.msg = false →
    (x.freed id m.src).rwAnswered id = t →
    t.fleet.syncOut.find? (fun e => e.2.1 == id && e.2.2 == m.src) = some (pid, i, d) →
    exec .statusAckReceive s = .next (State.settle ((t.onFleet fun f =>
      { f with syncOut := f.syncOut.filter fun e => e.1 != pid }).finish pid (if mf m 8 1 = 1 then stDenied else stOk) 0
        (if mf m 8 1 = 1 then reason 0x0A 16 else 0)))) ∧
  (∀ (s x : State) (port pid d : Nat) (m : FleetMsg) (t : DWord) (i : Inflight), s.awake = true →
    s.Takes (isMsg 2 2) port m x →
    x.fleet.importOut.find? (fun e => e.2.1 == BitVec.ofNat 64 (mf m 0 8) && e.2.2 == m.src) = some (pid, t, d) →
    x.inflight pid = some i →
    exec .readDataReceive s = .next (State.settle ((x.onFleet fun f =>
      { f with importOut := f.importOut.filter fun e => e.1 != pid }).openMirror pid i.pkt ((i.pkt.bytes.drop 24).take 16) d
        (BitVec.ofNat 64 (field (m.body.drop 16) 0 8))))) ∧
  (∀ (s x : State) (port pid d : Nat) (m : FleetMsg) (t : DWord), s.awake = true → s.Takes (isMsg 2 3) port m x →
    x.fleet.importOut.find? (fun e => e.2.1 == BitVec.ofNat 64 (mf m 0 8) && e.2.2 == m.src) = some (pid, t, d) →
    exec .refusalReceive s = .next (State.settle ((x.onFleet fun f =>
      { f with importOut := f.importOut.filter fun e => e.1 != pid }).finish pid stBadParam 0 (reason 0x0C 24)))) ∧
  (∀ (s x : State) (port : Nat) (m : FleetMsg), s.awake = true → s.remoteWaits 5 = false →
    s.Takes (fun m => m.cls == 5) port m x → x.seen m = none → m.sub = 0 →
    (x.accept m).remoteOk m.src (mf m 8 1) (mf m 0 8) (m.body.drop 16).length = true →
    exec .remoteWriteReceive s = .next (State.settle (((x.accept m).onMem fun y =>
      y.store (mf m 0 8) (m.body.drop 16)).sendAck m.src m.msgId 0 0 m.part))) ∧
  (∀ (s x : State) (port : Nat) (m : FleetMsg), s.awake = true → s.remoteWaits 5 = false →
    s.Takes (fun m => m.cls == 5) port m x → x.seen m = none → m.sub = 0 →
    (x.accept m).remoteOk m.src (mf m 8 1) (mf m 0 8) (m.body.drop 16).length = false →
    exec .remoteWriteReceive s = .next ((x.accept m).sendRefusal m.src m.msgId.toNat stDenied m.part).settle) ∧
  (∀ (s x : State) (port n : Nat) (m : FleetMsg), s.awake = true → s.remoteWaits 6 = false →
    s.Takes (fun m => m.cls == 6 && decide (m.sub < 2)) port m x → mf m 12 4 = n → 1 ≤ n → n ≤ 4096 → n % 64 = 0 →
    mf m 0 8 % 64 = 0 → m.sub = 0 →
    (x.remoteOk m.src (mf m 8 1) (mf m 0 8) n = true → (∀ v ∈ unitsOf (mf m 0 8) n, x.unitMarked v = false) →
      exec .remoteReadReceive s = .next (x.sendData m.src (mf m 16 8) (x.mem.read (mf m 0 8) n) m.part).settle) ∧
    (x.remoteOk m.src (mf m 8 1) (mf m 0 8) n = false →
      exec .remoteReadReceive s = .next (x.sendRefusal m.src (mf m 16 8) stDenied m.part).settle)) ∧
  (∀ (s x : State) (port : Nat) (m : FleetMsg), s.awake = true → s.Takes (isMsg 6 2) port m x →
    x.verifyToken (m.body.take 16) = none →
    exec .eventImportReadReceive s = .next (x.sendRefusal m.src (mf m 16 8) stBadParam).settle) ∧
  (∀ (s x : State) (port : Nat) (m : FleetMsg) (v : DWord), s.awake = true → s.Takes (isMsg 6 2) port m x →
    x.verifyToken (m.body.take 16) = some v → exec .eventImportReadReceive s =
      .next (State.settle ((x.addImporter (m.body.take 16) m.src v).sendData m.src (mf m 16 8) (toLe 8 v.toNat)))) ∧
  (∀ (s x : State) (port : Nat) (m : FleetMsg) (c : Instr), s.awake = true →
    (c = .tallyAddRemoteReceive ∧ s.Takes (isMsg 3 0) port m x) ∨ (c = .semRemoteReceive ∧ s.Takes (isMsg 4 0) port m x) ∨
      (c = .mirrorUpdateReceive ∧ s.Takes (isMsg 3 1) port m x) → (x.seen m).isSome = true →
    exec c s = .next (State.settle ((x.onSync fun y => { y with dupCnt := satInc y.dupCnt }).sendAck m.src m.msgId 2 0))) ∧
  (∀ (s x : State) (port : Nat) (m : FleetMsg), s.awake = true → s.Takes (isMsg 3 0) port m x → x.seen m = none →
    x.fleet.closed = none →
    exec .tallyAddRemoteReceive s = .next ((x.accept m).remoteSync .add m (mf m 8 8)).settle) ∧
  (∀ (s x : State) (port : Nat) (m : FleetMsg), s.awake = true → s.Takes (isMsg 4 0) port m x → x.seen m = none →
    x.fleet.closed = none →
    exec .semRemoteReceive s = .next ((x.accept m).remoteSync .post m (mf m 8 4)).settle) ∧
  (∀ (s x : State) (port : Nat) (m : FleetMsg), s.awake = true → s.Takes (isMsg 3 1) port m x → x.seen m = none →
    x.fleet.closed = none → (x.accept m).mirrorsOf m.src (fun y =>
      y.event == mf m 0 4 && y.part == mf m 4 1 && y.gen == mf m 5 3) = [] →
    exec .mirrorUpdateReceive s = .next ((x.accept m).sendAck m.src m.msgId 0 0).settle) ∧
  (∀ (s x : State) (port k c : Nat) (m : FleetMsg), s.awake = true → s.Takes (isMsg 3 1) port m x → x.seen m = none →
    x.fleet.closed = none → (x.accept m).mirrorsOf m.src (fun y =>
      y.event == mf m 0 4 && y.part == mf m 4 1 && y.gen == mf m 5 3) = [(k, c)] →
    ((x.accept m).tally c).orphaned = false → mf m 16 1 = 0 → exec .mirrorUpdateReceive s =
      .next (State.settle (((x.accept m).raiseMirror c (BitVec.ofNat 64 (mf m 8 8))).sendAck m.src m.msgId 0 0))) ∧
  (∀ (s x : State) (port e : Nat) (m : FleetMsg), s.awake = true → s.Takes (isMsg 3 2) port m x → x.seen m = none →
    x.fleet.consFor m.src (mf m 6 2) (mf m 0 4) = some e →
    exec .pairOpenReceive s = .next (State.settle (((x.accept m).onCons e fun _ =>
      { valid := true, recent := true, peer := m.src, part := mf m 4 1, counter := mf m 0 4, other := mf m 6 2 }).sendAck m.src m.msgId 4 e))) ∧
  (∀ (s : State) (v : Word) (e : Nat), s.boot.ready = true → s.hostWake.fleet.pairAt = (false, e) →
    (s.hostWake.fleet.prod.look e {}).byManager = false → v.getLsbD 31 = false →
    ∃ u : State, exec (.fleetPairCfgWrite v) s = .next u.settle ∧ u.fleet.prod.look e {} = {} ∧
      (∀ k, k ≠ e → u.fleet.prod.look k {} = s.hostWake.fleet.prod.look k {}))

/-- The slack-water barrier. It starts in its period with OPEN to every joined worker; OPEN begins the next epoch; a device
without unacknowledged messages of the epoch is drained; when all are, or the drain time is over, CLOSE closes the epoch;
when all have applied, the manager compares; an ADVANCE is applied once; DONE sets the count. It rests on R401, R402, R404.
-/
def Obligations.SlackWaterBarrier : Prop :=
  (∀ s : State, s.awake = true → s.isManager = true → s.fleet.barrierEn = true → s.fleet.bar.phase = .idle →
    s.fleet.lastBarrier + s.fleet.period.toNat * 8000 ≤ s.time.tick →
    exec .barrierStart s = .next (s.startBarrier none 0).settle) ∧
  (∀ (s x : State) (port : Nat) (m : FleetMsg), s.awake = true → s.Takes (isMsg 7 0) port m x → x.isManager = false →
    m.src = 0 →
    ∃ u : State, exec .openReceive s = .next u.settle ∧ u.fleet.epoch = mf m 0 4 + 1 ∧ u.fleet.bar.k = mf m 0 4 ∧
      u.fleet.bar.owesDrained = true ∧ u.fleet.advSeen = []) ∧
  (∀ s : State, s.awake = true → s.fleet.bar.owesDrained = true → s.drainedOf s.fleet.bar.k = false →
    exec .barrierDrained s = .next s.settle) ∧
  (∀ s t : State, s.awake = true → s.fleet.bar.owesDrained = true → s.drainedOf s.fleet.bar.k = true → s.isManager = false →
    ((s.onFleet fun f => { f with prod := f.prod.map fun e => (e.1, e.2.fold s.fleet.bar.k) }).onBar fun b =>
      { b with owesDrained := false }) = t →
    exec .barrierDrained s = .next (t.sendTotals 1 s.fleet.bar.k t.sentTotals).settle) ∧
  (∀ (s x : State) (port : Nat) (m : FleetMsg), s.awake = true → s.Takes (isMsg 7 1) port m x → x.isManager = true →
    mf m 0 4 = x.fleet.bar.k → m.src ∈ x.fleet.bar.parts → x.fleet.bar.phase = .open_ →
    exec .drainedReceive s = .next (State.settle ((x.onBar fun b =>
      { b with sTot := b.sTot ++ (totalEntries m).map (fun e => (m.src, e.2.1, e.2.2.1, e.2.2.2))
               drained := (if mf m 6 1 = 1 then b.drained ++ [m.src] else b.drained) }).checkDrained))) ∧
  (∀ s : State, s.awake = true → s.isManager = true → s.fleet.bar.phase = .open_ →
    s.fleet.bar.openTick + s.fleet.bar.drainUs * 8 ≤ s.time.tick → exec .drainTimeout s = .next s.sendClose.settle) ∧
  (∀ (s x : State) (port : Nat) (m : FleetMsg), s.awake = true → s.Takes (isMsg 7 2) port m x → x.isManager = false →
    m.src = 0 → exec .closeReceive s = .next (State.settle
      ((x.closeAt (mf m 0 4)).sendTotals 3 (mf m 0 4) (x.closeAt (mf m 0 4)).resolvedTotals))) ∧
  (∀ (s : State) (k : Nat), (s.closeAt k).fleet.closed = some k ∧ ∀ e ∈ (s.closeAt k).fleet.cons,
    ∀ b ∈ e.2.byEpoch, epochLe b.1 k = false) ∧
  (∀ (s x : State) (port : Nat) (m : FleetMsg), s.awake = true → s.Takes (isMsg 7 3) port m x → x.isManager = true →
    mf m 0 4 = x.fleet.bar.k → m.src ∈ x.fleet.bar.parts → x.fleet.bar.phase = .close →
    exec .appliedReceive s = .next (State.settle ((x.onBar fun b =>
      { b with aTot := b.aTot ++ (totalEntries m).map (fun e => (m.src, e.2.1, e.2.2.1, e.1, e.2.2.2))
               applied := (if mf m 6 1 = 1 then b.applied ++ [m.src] else b.applied) }).checkApplied))) ∧
  (∀ (s x : State) (port : Nat) (m : FleetMsg), s.awake = true → s.Takes (isMsg 7 4) port m x → x.isManager = false →
    m.src = 0 → mf m 8 4 ∈ x.fleet.advSeen →
    exec .advanceReceive s = .next (x.sendAck 0 (BitVec.ofNat 64 (mf m 0 4 * 2 ^ 32 + mf m 8 4)) 0 0).settle) ∧
  (∀ (s x : State) (port : Nat) (m : FleetMsg), s.awake = true → s.Takes (isMsg 7 4) port m x → x.isManager = false →
    m.src = 0 → mf m 8 4 ∉ x.fleet.advSeen → mf m 4 2 = 1 → exec .advanceReceive s =
      .next (State.settle (((x.onFleet fun f => { f with advSeen := f.advSeen ++ [mf m 8 4] }).applyAdvance (mf m 16 2)
        (BitVec.ofNat 64 (mf m 24 8))).sendAck 0 (BitVec.ofNat 64 (mf m 0 4 * 2 ^ 32 + mf m 8 4)) 0 0))) ∧
  (∀ (s x : State) (port : Nat) (m : FleetMsg), s.awake = true → s.Takes (isMsg 7 5) port m x → x.isManager = false →
    m.src = 0 → ∃ u : State, exec .doneReceive s = .next u.settle ∧ u.fleet.barriers = mf m 0 4 ∧ u.sync = x.sync)

/-- The SPDM responder over DOE. Each request of a function whose mailbox answers has its answer: the connection goes
through its phases in order; a request out of order is answered UnexpectedRequest; digests, the slot 0 chain, the signed
challenge and the measurements that the transport may see follow; sessions are opened within their limit, finished and
ended; IDE_KM needs a session on the PF's mailbox; the session limit and an index that does not exist are errors. It rests
on R14, R430 to R433, R466, R487. -/
def Obligations.SpdmRequests : Prop :=
  ∀ (s : State) (tp src : Nat), 2 ≤ tp → s.doe tp = true → s.pwr.dev ≠ .sleep →
    (exec (.getVersion tp src) s = .next (State.settle ((((s.onMgmt fun m =>
      { m with sessions := m.sessions.filter fun e => e.1 != tp }).setPhase tp 1).emit (.mgmt tp (.version 0x12)))))) ∧
    (s.phase tp = 1 → exec (.getCapabilities tp src) s = .next (State.settle ((s.setPhase tp 2).emit (.mgmt tp .capabilities)))) ∧
    (s.phase tp ≠ 1 →
      exec (.getCapabilities tp src) s = .next (s.emit (.mgmt tp (.spdmError .unexpectedRequest))).settle) ∧
    (s.phase tp = 2 →
      exec (.negotiateAlgorithms tp src true) s = .next (State.settle ((s.setPhase tp 3).emit (.mgmt tp .algorithms)))) ∧
    (3 ≤ s.phase tp → exec (.getDigests tp src none) s =
      .next (s.emit (.mgmt tp (.digests (s.chain.toList.map Config.chainDigest)))).settle) ∧
    (∀ (c : List Byte) (off n : Nat), 3 ≤ s.phase tp → s.chain = some c → off + n ≤ c.length → 1 ≤ n →
      exec (.getCertificate tp src none 0 off n) s =
        .next (s.emit (.mgmt tp (.certificate ((c.drop off).take n) (c.length - off - n)))).settle) ∧
    (∀ nonce, 3 ≤ s.phase tp → exec (.challenge tp src 0 nonce) s =
      .next (s.emit (.mgmt tp (.challengeAuth (Config.aliasSign s.boot.imgDigest nonce)))).settle) ∧
    (∀ nonce, 3 ≤ s.phase tp → exec (.getMeasurements tp src none .all nonce) s =
      .next (s.emit (.mgmt tp (s.signed (s.visible tp) nonce))).settle) ∧
    (∀ i d, (i, d) ∈ s.visible tp → s.measurement i = some d ∧ (tp < 3 ∨ (1 ≤ i ∧ i ≤ 6) ∨ i = 16 + (tp - 3))) ∧
    (∀ x n, 3 ≤ s.phase tp → s.sessionsFull tp = false → s.freeSession = n →
      exec (.keyExchange tp src x) s = .next (State.settle ((s.onMgmt fun m =>
        { m with sessions := m.sessions ++ [(tp, n, false)] }).emit
          (.mgmt tp (.keyExchangeRsp n (Config.aliasSign s.boot.imgDigest x)))))) ∧
    (∀ x, 3 ≤ s.phase tp → s.sessionsFull tp = true →
      exec (.keyExchange tp src x) s = .next (s.emit (.mgmt tp (.spdmError .sessionLimitExceeded))).settle) ∧
    (∀ n, s.session tp n false = true → exec (.finish tp src n true) s = .next (State.settle ((s.onMgmt fun m =>
      { m with sessions := (s.mgmt.sessions.filter fun e => !(e.1 == tp && e.2.1 == n)) ++ [(tp, n, true)] }).emit
        (.mgmt tp (.finishRsp n))))) ∧
    (∀ n, s.session tp n true = true → exec (.endSession tp src n) s = .next (State.settle ((s.onMgmt fun m =>
      { m with sessions := m.sessions.filter fun e => !(e.1 == tp && e.2.1 == n) }).emit (.mgmt tp (.endSessionAck n))))) ∧
    (∀ n km, tp = 2 → s.session tp n true = true →
      exec (.ideKmRequest tp src (some n) km) s = .next (State.settle ((s.ideKm km).emit (.mgmt tp (.ideKm km))))) ∧
    (∀ n km, tp ≠ 2 →
      exec (.ideKmRequest tp src (some n) km) s = .next (s.emit (.mgmt tp (.spdmError .unsupportedRequest))).settle) ∧
    (∀ i, exec (.doeDiscovery tp i) s = .next (s.emit (.mgmt tp
      (if i < 3 then .doeProtocol i (if i < 2 then i + 1 else 0) else .error .invalidData))).settle)

/-- MCTP and PLDM. Packets in sequence make one message of at most 4,096 B; the bus is released and the alert address
answered; a waiting control or PLDM message is answered with what Tables 19-5 and 19-6 and the registers hold; an event that
is not acknowledged is sent again and, after 3 retries, discarded. It rests on R479 to R483, R492. -/
def Obligations.ManagementRequests : Prop :=
  (∀ (s : State) (p : MctpPacket), s.pilotRuns = true → p.binding < 2 → p.source < 256 → p.pecOk = true →
    p.payload.length ≤ 64 → p.som = true → p.eom = false → p.seq < 4 →
    ∃ u : State, exec (.mctpPacketReceive p) s = .next u.settle ∧
      u.mgmt.reasm.find (mctpKey p.binding p.source) = some ((p.seq + 1) % 4, p.payload) ∧ u.mgmt.inbox = s.mgmt.inbox) ∧
  (∀ (s : State) (p : MctpPacket) (n : Nat) (l : List Byte), s.pilotRuns = true → p.binding < 2 → p.source < 256 →
    p.pecOk = true → p.payload.length ≤ 64 → p.som = false →
    s.mgmt.reasm.find (mctpKey p.binding p.source) = some (n, l) → n ≠ p.seq % 4 →
    ∃ u : State, exec (.mctpPacketReceive p) s = .next u.settle ∧
      u.mgmt.reasm = s.mgmt.reasm.drop (mctpKey p.binding p.source) ∧ u.mgmt.inbox = s.mgmt.inbox) ∧
  (∀ (s : State) (b src : Nat), ∃ u : State, exec (.mctpReassemblyTimeout b src) s = .next u.settle ∧
    u.mgmt.reasm = s.mgmt.reasm.drop (mctpKey b src)) ∧
  (∀ s : State, s.pilotRuns = true → exec .smbusClockLowTimeout s = .next (s.emit .smbRelease).settle) ∧
  (∀ s : State, s.pilotRuns = true → s.smbAlert = true →
    exec .smbusAlertResponse s = .next (s.emit (.smbAddr (smbAddress s.ao.smbAddrSel))).settle) ∧
  (∀ (s : State) (b src : Nat), s.waits b src 0 = true →
    (∀ e, 8 ≤ e → e ≤ 254 → exec (.setEndpointId b src e) s =
      .next ((s.onMgmt fun m => { m with eid := (m.eid.drop b).ins b e }).replyTo b src (.eid e)).settle) ∧
    exec (.getEndpointId b src) s = .next (s.replyTo b src (.eid (s.mgmt.eid.look b 0))).settle ∧
    exec (.getEndpointUuid b src) s = .next (s.replyTo b src (.uuid Config.uuid)).settle ∧
    exec (.getMctpVersionSupport b src 0) s = .next (s.replyTo b src (.versions [0xF1F3FF00])).settle ∧
    (∀ t, t ≠ 0 → t ≠ 1 → t ≠ 5 → t ≠ 6 → t ≠ 255 →
      exec (.getMctpVersionSupport b src t) s = .next (s.replyTo b src (.error .unsupportedType)).settle) ∧
    exec (.getMessageTypeSupport b src) s = .next (s.replyTo b src (.messageTypes [0, 1, 5, 6])).settle) ∧
  (∀ (s : State) (b src : Nat), s.waits b src 1 = true →
    exec (.getTid b src) s = .next (s.replyTo b src (.tid s.mgmt.tid)).settle ∧
    (∀ t, t ≠ 0 → t ≠ 255 → exec (.setTid b src t) s =
      .next ((s.onMgmt fun m => { m with tid := t }).replyTo b src (.accepted .setTid)).settle) ∧
    (∀ t, t = 0 ∨ t = 2 ∨ t = 5 →
      exec (.getPldmVersion b src t) s = .next (s.replyTo b src (.pldmVersion (Config.pldmVersion t))).settle) ∧
    exec (.getPldmTypes b src) s = .next (s.replyTo b src (.pldmTypes [0, 2, 5])).settle ∧
    (∀ t, t = 0 ∨ t = 2 ∨ t = 5 →
      exec (.getPldmCommands b src t) s = .next (s.replyTo b src (.pldmCommands (pldmCommands t))).settle) ∧
    exec (.getPdrRepositoryInfo b src) s = .next (s.replyTo b src (.pdrInfo 32)).settle ∧
    (∀ i, 9 ≤ i → i ≤ 30 →
      exec (.getPdr b src i) s = .next (s.replyTo b src (.pdr i (sensorUnit i) [] (nextSensor i))).settle) ∧
    (∀ i v, s.sensor i = some v → exec (.getSensorReading b src i) s = .next (s.replyTo b src (.reading v)).settle) ∧
    exec (.getStateSensorReadings b src 64) s = .next (s.replyTo b src (.stateReading s.deviceState)).settle ∧
    exec (.getStateSensorReadings b src 65) s = .next (s.replyTo b src (.stateReading (some s.thermalState))).settle ∧
    (∀ r, ∃ u : State, exec (.setEventReceiver b src r) s = .next u.settle ∧
      u.mgmt.receiver = r.map (fun e => (b, e)) ∧ u.mgmt.events = s.mgmt.events) ∧
    exec (.getEventReceiver b src) s = .next (s.replyTo b src (.receiver s.mgmt.receiver)).settle) ∧
  (∀ (s : State) (i v n : Nat) (r : List (Nat × Nat × Nat)), s.pilotRuns = true → s.mgmt.events = (i, v, n) :: r →
    (n < 3 → exec .pldmEventRetry s =
      .next ((s.onMgmt fun m => { m with events := (i, v, n + 1) :: r }).sendEvent).settle) ∧
    (3 ≤ n → ∃ u : State, exec .pldmEventRetry s = .next u.settle ∧ u.mgmt.events = r))

/-- Firmware update. RequestUpdate is refused on trial, while updates are disabled and while TRIPPED; else the session
begins; the table, the component and its chunks follow in order; the controller erases the image's blocks before the first
chunk is taken, and programs each page that the chunks fill at its offset; the image in the slot, all of it programmed, is
judged; ActivateFirmware queues record 0 with trial state PENDING; a cancel or 60 s of silence end the session. It rests
on R484 to R486, R490, R491. -/
def Obligations.FirmwareUpdate : Prop :=
  (∀ (s : State) (b src n : Nat), s.waits b src 1 = true → s.mgmt.upd = .idle →
    (s.boot.trial = true ∨ s.host.updateDis = true ∨ s.tw.tripped = true) →
    exec (.requestUpdate b src n) s = .next (s.replyTo b src (.error .refused)).settle) ∧
  (∀ (s : State) (b src n : Nat), s.waits b src 1 = true → s.mgmt.upd = .idle → s.boot.trial = false →
    s.host.updateDis = false → s.tw.tripped = false → s.boot.source.toNat < 2 → s.selector = (s.boot.source.toNat, 0) →
    ∃ u : State, exec (.requestUpdate b src n) s = .next u.settle ∧ u.mgmt.upd = .learn ∧ u.mgmt.updBind = b ∧
      u.mgmt.updSource = src ∧ u.mgmt.updTarget = 1 - s.boot.source.toNat ∧ u.mgmt.updMax = min n 1024 ∧ u.nvm = s.nvm) ∧
  (∀ (s : State) (b src : Nat), s.waits b src 1 = true → s.mgmt.upd = .idle →
    exec (.getFirmwareParameters b src) s = .next (s.replyTo b src (.parameters 1 s.boot.fwVer s.mgmt.updPending)).settle ∧
    exec (.passComponentTable b src) s = .next (s.replyTo b src (.error .notInUpdate)).settle ∧
    exec (.getStatus b src) s = .next (s.replyTo b src (.status .idle s.mgmt.updOff)).settle) ∧
  (∀ (s : State) (b src : Nat), s.waits b src 1 = true → s.mgmt.updBind = b → s.mgmt.updSource = src →
    (s.mgmt.upd = .learn → exec (.passComponentTable b src) s =
      .next ((s.onMgmt fun m => { m with upd := .ready }).replyTo b src (.accepted .passComponentTable)).settle) ∧
    (∀ n, s.mgmt.upd = .ready → 4608 ≤ n → n ≤ 2097664 →
      ∃ u : State, exec (.updateComponent b src 1 n) s = .next (u.replyTo b src (.accepted .updateComponent)).settle ∧
        u.mgmt.upd = .download ∧ u.mgmt.updSize = n ∧ u.mgmt.updOff = 0 ∧ u.nvm.img = s.nvm.img ∧
        u.nvm.slotBusy.toList ++ u.nvm.slotJobs = s.nvm.slotBusy.toList ++ s.nvm.slotJobs ++
          (List.range ((n + 65535) / 65536)).map fun k => .erase s.mgmt.updTarget k) ∧
    (∀ n, s.mgmt.upd = .ready → n < 4608 ∨ 2097664 < n →
      exec (.updateComponent b src 1 n) s = .next (s.replyTo b src (.error .invalidData)).settle) ∧
    (∀ l, s.mgmt.upd = .download → s.slotErasing = false → l.length = s.chunk →
      s.mgmt.updOff + l.length < s.mgmt.updSize →
      ∃ u : State, exec (.firmwareDataResponse b src l) s = .next u.askChunk.settle ∧ u.mgmt.upd = .download ∧
        u.mgmt.updOff = s.mgmt.updOff + l.length ∧ u.nvm.img = s.nvm.img ∧
        u.nvm.slotBusy.toList ++ u.nvm.slotJobs = s.nvm.slotBusy.toList ++ s.nvm.slotJobs ++
          pagesOf s.mgmt.updTarget false ((s.mgmt.updPage ++ l).length + 1) (s.mgmt.updOff - s.mgmt.updPage.length)
            (s.mgmt.updPage ++ l)) ∧
    (∀ l, s.mgmt.upd = .download → s.slotErasing = false → l.length = s.chunk →
      s.mgmt.updSize ≤ s.mgmt.updOff + l.length →
      ∃ u : State, exec (.firmwareDataResponse b src l) s = .next (u.emit (.mgmt b (.transferComplete true))).settle ∧
        u.mgmt.upd = .verify ∧ u.mgmt.updPage = []) ∧
    (s.mgmt.upd = .download → s.slotErasing = true → ∀ l, exec (.firmwareDataResponse b src l) s = .next s.settle) ∧
    (s.mgmt.upd = .apply → ∃ u : State, exec (.activateFirmware b src false) s =
      .next (u.nvmQueue { rec_ := 0, data := selectorBytes (1 - s.mgmt.updTarget) 1, why := .activate }).settle ∧
      u.mgmt.upd = .activate ∧ u.nvm = s.nvm) ∧
    (s.mgmt.upd = .apply →
      exec (.activateFirmware b src true) s = .next (s.replyTo b src (.error .selfContained)).settle) ∧
    (s.mgmt.upd = .verify → exec (.cancelUpdateComponent b src) s = .next (State.settle
      (((s.onNvm fun n => { n with slotJobs := [] }).onMgmt fun m =>
        { m with upd := .ready, updPending := none, updPage := [] }).replyTo b src (.accepted .cancelUpdateComponent)))) ∧
    (s.mgmt.upd ≠ .idle →
      exec (.cancelUpdate b src) s = .next (s.endUpdate.replyTo b src (.accepted .cancelUpdate)).settle)) ∧
  (∀ (s : State) (a b : Nat), s.nvm.slotBusy = some (.erase a b) → exec .nvmEraseDone s = .next (State.settle (State.askFirst
    (State.slotTurn (s.onNvm fun n => { n with img := n.img.upd a [] fun l => l.filter fun c => decide (c.1 / 65536 ≠ b) }))))) ∧
  (∀ (s : State) (a o : Nat) (l : List Byte) (r : Bool), s.nvm.slotBusy = some (.page a o l) →
    exec (.nvmPageDone r) s = .next (State.settle (State.slotTurn (s.onNvm fun n =>
      { n with img := n.img.upd a [] fun x => x ++ (List.range l.length).map fun i => (o + i, l.getD i 0) })))) ∧
  (∀ (s : State) (img : ImageInfo), s.mgmt.upd = .verify → s.pilotRuns = true → s.nvm.slotJobs = [] → s.nvm.slotBusy = none →
    (rejectReason s.ao.minSvn img = none → ∃ u : State, exec (.verifyComplete img) s = .next u.settle ∧
      u.mgmt.upd = .apply ∧ u.mgmt.updPending = some img.version ∧ u.nvm = s.nvm) ∧
    (∀ r, rejectReason s.ao.minSvn img = some r → exec (.verifyComplete img) s = .next (State.settle
      ((s.onMgmt fun m => { m with upd := .ready }).emit (.mgmt s.mgmt.updBind (.verifyComplete (some r))))))) ∧
  (∀ s : State, s.pilotRuns = true → exec .updateIdleTimeout s = .next s.endUpdate.settle)

/-- The TAP. BYPASS shifts through one bit and IDCODE through its 32; SAMPLE/PRELOAD and the boundary instructions capture
the pins and keep the last bits shifted in; CLAMP and HIGHZ select the bypass register while PERST_N is asserted; while it
is released the six test instructions act as SAMPLE/PRELOAD. No TAP instruction changes anything outside the TAP but what
TDO shows. With TEST_MODE high, which the spec does not describe, each is a fault. It rests on R488, R489. -/
def Obligations.JtagInstructions : Prop :=
  (∀ (s : State) (tdi : List Bool), s.jtag.testMode = false →
    exec (.bypass tdi) s = .next ((s.onJtag fun j => { j with ir := .bypass }).emit (.tdo ((false :: tdi).take tdi.length)))) ∧
  (∀ (s : State) (tdi : List Bool), s.jtag.testMode = false →
    exec (.idcode tdi) s = .next ((s.onJtag fun j => { j with ir := .idcode }).emit
      (.tdo (((List.range 32).map idcode.getLsbD ++ tdi).take tdi.length)))) ∧
  (∀ (s : State) (pins tdi : List Bool), s.jtag.testMode = false →
    exec (.samplePreload pins tdi) s = .next ((s.onJtag fun j =>
      { j with ir := .samplePreload, bsr := (pins ++ tdi).drop tdi.length }).emit (.tdo ((pins ++ tdi).take tdi.length)))) ∧
  (∀ (s : State) (pins tdi : List Bool) (c : Instr) (i : TapIr), s.jtag.testMode = false →
    (c = .extest pins tdi ∧ i = .extest) ∨ (c = .extestPulse pins tdi ∧ i = .extestPulse) ∨
      (c = .extestTrain pins tdi ∧ i = .extestTrain) ∨
      (s.ao.perstReleased = true ∧ ((c = .clamp pins tdi ∧ i = .clamp) ∨ (c = .highz pins tdi ∧ i = .highz))) →
    exec c s = .next ((s.onJtag fun j => { j with ir := i, bsr := (pins ++ tdi).drop tdi.length }).emit
      (.tdo ((pins ++ tdi).take tdi.length)))) ∧
  (∀ (s : State) (pins tdi : List Bool) (c : Instr) (i : TapIr), s.jtag.testMode = false → s.ao.perstReleased = false →
    (c = .clamp pins tdi ∧ i = .clamp) ∨ (c = .highz pins tdi ∧ i = .highz) →
    exec c s = .next ((s.onJtag fun j => { j with ir := i }).emit (.tdo ((false :: tdi).take tdi.length)))) ∧
  (∀ (s : State) (pins tdi : List Bool) (c : Instr), s.jtag.testMode = true →
    c ∈ [.bypass tdi, .idcode tdi, .samplePreload pins tdi, .extest pins tdi, .clamp pins tdi, .highz pins tdi,
      .extestPulse pins tdi, .extestTrain pins tdi] → exec c s = .fault .testModeHigh)

/-- Register accesses. A write of 4 aligned bytes reaches its register and one of a size or alignment that R469 does not
list has no effect; causes are cleared by 1s; a value outside its stated range is discarded; a read of the low half of a
64-bit read-only register latches the high half, which the next read of that half returns; before READY only GLB, INT and
PILOT answer. It rests on R6, R7, R30, R469, R470, R471, R475. -/
def Obligations.RegisterAccesses : Prop :=
  (∀ (s : State) (sp : RegSpace) (off : Nat) (l : List Byte), l.length ≠ 2 → l.length ≠ 4 → l.length ≠ 8 →
    exec (.registerWrite sp off l) s = .next s.settle) ∧
  (∀ (s : State) (sp : RegSpace) (off : Nat) (l : List Byte), off % l.length ≠ 0 →
    exec (.registerWrite sp off l) s = .next s.settle) ∧
  (∀ (s : State) (off : Nat) (l : List Byte), s.ao.hubOut = true → s.host.linkDown = false → s.boot.ready = true →
    l.length = 4 → off % 4 = 0 → off < 0x400000 →
    exec (.registerWrite .pf off l) s = .next (s.hostWake.pfWrite4 off (BitVec.ofNat 32 (ofLe l))).settle) ∧
  (∀ (s : State) (n off : Nat) (l : List Byte), s.ao.hubOut = true → s.host.linkDown = false → s.boot.ready = true →
    s.host.vfEnable = true → n < 32 → l.length = 4 → off % 4 = 0 → off < 0x1000000 →
    exec (.registerWrite (.vf n) off l) s = .next (s.hostWake.vfWrite4 n off (BitVec.ofNat 32 (ofLe l))).settle) ∧
  (∀ (s : State) (off : Nat) (l : List Byte), s.ao.hubOut = true → s.host.linkDown = false → s.boot.ready = false →
    l.length = 4 → off % 4 = 0 → 0x30000 ≤ off → off < 0x400000 →
    exec (.registerWrite .pf off l) s = .next (s.discarded off).settle) ∧
  (∀ (s : State) (sp : RegSpace) (off : Nat) (l : List Byte), s.ao.hubOut = true → s.host.linkDown = false →
    s.answers sp off = true → l.length = 8 → off % 8 = 0 → (∀ fn, sp ≠ .msixCtl fn) →
    exec (.registerWrite sp off l) s = .next (s.hostWake.regWrite8 sp off (BitVec.ofNat 64 (ofLe l))).settle) ∧
  (∀ (s : State) (fn off : Nat) (l : List Byte), s.ao.hubOut = true → s.host.linkDown = false → s.boot.cfgAnswers = true →
    fn ≤ 32 → fn = 0 ∨ s.vfThere = true → l.length = 2 → off % 2 = 0 →
    exec (.registerWrite (.msixCtl fn) off l) s = .next (s.hostWake.msixControl fn (ofLe l)).settle) ∧
  (∀ (s : State) (w : Word), (s.pfWrite4 0x10000 w).host.intCause = s.host.intCause &&& ~~~w) ∧
  (∀ (s : State) (w : Word), ¬(100 ≤ w.toNat ∧ w.toNat ≤ 750) → s.pfWrite4 0x30024 w = s) ∧
  (∀ (s : State) (w : Word), 100 ≤ w.toNat → w.toNat ≤ 750 → (s.pfWrite4 0x30024 w).pwr.limit = w) ∧
  (∀ (s : State) (sp : RegSpace) (off n : Nat), s.ao.hubOut = true → s.host.linkDown = false → 0 < n → off % n ≠ 0 →
    exec (.lowHalfReadLatch sp off n) s = .next (s.emit (.readData (List.replicate n 0) false)).settle) ∧
  (∀ (s : State) (off : Nat) (v : Word), s.ao.hubOut = true → s.host.linkDown = false → s.boot.ready = true →
    s.pwr.dev ≠ .sleep → off < 0x400000 → off % 8 = 4 → pfWideRo (off - 4) = true →
    s.host.latch.look (off / 65536) (0, 0) = (off + 1, v) →
    ∃ u : State, exec (.lowHalfReadLatch .pf off 4) s = .next u.settle ∧ u.out = .readData (toLe 4 v.toNat) false :: s.out ∧
      u.host.latch.look (off / 65536) (0, 0) = (0, 0)) ∧
  (∀ (s : State) (off : Nat), s.ao.hubOut = true → s.host.linkDown = false → s.boot.ready = true → s.pwr.dev ≠ .sleep →
    off < 0x400000 → off ≠ 0x40080 → pfWideRo off = true → s.pfRead off < 2 ^ 32 →
    ∃ u : State, exec (.lowHalfReadLatch .pf off 4) s = .next u.settle ∧
      u.host.latch.look (off / 65536) (0, 0) = (off + 5, BitVec.ofNat 32 (s.pfRead (off + 4))) ∧
      u.out = .readData (toLe 4 (s.pfRead off)) false :: s.out)

/-- The step takes the command at the front of the queue and answers what the command does with the queue's rest. On an
empty queue it is one tick of the always-on clock: the model's choice (log 1). -/
def Obligations.StepTakesFront : Prop :=
  (∀ (c : Instr) (s : State), step { s with pending := c :: s.pending } = exec c s) ∧
  (∀ (c : Instr) (s : State) (l : List Instr), s.pending = c :: l → step s = exec c { s with pending := l }) ∧
  (∀ s : State, s.pending = [] → step s = .next s.tick)

/-- Every command answers a next state and leaves the queue as it finds it; the one exception are the commands of the JTAG
port while JTAG_TESTMODE is high, which fault (R490). So a step ends in a fault only there, and never in a refusal. -/
def Obligations.CommandsComplete : Prop :=
  ∀ (c : Instr) (s : State),
    (∃ t : State, exec c s = .next t ∧ t.pending = s.pending) ∨
    (exec c s = .fault .testModeHigh ∧ s.jtag.testMode = true ∧
      ((∃ tdi, c = .bypass tdi ∨ c = .idcode tdi) ∨
        ∃ pins tdi, c ∈ [.samplePreload pins tdi, .extest pins tdi, .clamp pins tdi, .highz pins tdi, .extestPulse pins tdi,
          .extestTrain pins tdi]))

/-- Device memory keeps its canonical form: no command and no tick breaks it (log 3 chooses what an unlisted byte reads). -/
def Obligations.StepKeepsMemoryForm : Prop :=
  ∀ s t : State, Memory.wf s = true → step s = .next t → Memory.wf t = true

/-- The device at cold reset: the queue and device memory are empty, the boot is before stage 3, no queue, context,
partition or launch exists, every rule is disabled, harbour time is zero and the thresholds and the watch period have their
reset values. That unstated values are zero is the model's choice (log 2). It rests on R24, R30, R41, R73, R88, R94, R469.
-/
def Obligations.ResetState : Prop :=
  State.reset.pending = [] ∧ Memory.wf State.reset = true ∧ (∀ a n, State.reset.mem.read a n = List.replicate n 0) ∧
  State.reset.boot.ready = false ∧ State.reset.boot.halt = false ∧ State.reset.ao.porReleased = false ∧
  State.reset.ao.hubOut = false ∧ State.reset.ao.pwrCut = false ∧ State.reset.ao.role = none ∧
  State.reset.time.harbour = 0 ∧ (∀ n, State.reset.partExists n = false) ∧
  (∀ q, (State.reset.queue q).enabled = false ∧ (State.reset.queue q).buffer = []) ∧ State.reset.q.inflight = [] ∧
  (∀ n, ((State.reset.tw.rule.look n {}).src.setWidth 32 : Word).getLsbD 31 = false) ∧
  State.reset.tw.thermLim = mkPair 0x6C645F ∧ State.reset.tw.watch = 1000 ∧ State.reset.tw.alert = 0 ∧
  State.reset.tw.tripped = false ∧ (∀ n, (State.reset.tally n).value = 0) ∧ (∀ n, (State.reset.sem n).count = 0) ∧
  (∀ i, (State.reset.slotAt i).w = -32 ∧ (State.reset.slotAt i).s = 0) ∧ State.reset.log.entries = [] ∧
  State.reset.jtag.testMode = false ∧ ¬Safety.Completes { State.reset with
    jtag := { State.reset.jtag with testMode := true }, pending := [.idcode []] }

/-- Replies. A packet that completes leaves the list of dispatched packets, no packet waits for it any more, and its reply
is one aligned write of 32 bytes at the completion PUT, with the PHASE of that position, after which PUT has moved one on; a
NOTIFY raises the vector of its queue. A packet that no completion entry is free for is not dispatched. It rests on R136,
R137, R138. -/
def Obligations.Replies : Prop :=
  (∀ (s : State) (i : Inflight) (pid status result detail k : Nat), s.inflight pid = some i → i.q = .admin k →
    (s.queue i.q).enabled = true → (s.queue i.q).fetchErr = false → (s.queue i.q).cqDev = false → i.pkt.notify = false →
    ∃ (t : State) (l : List Byte), s.finish pid status result detail = t ∧ t.inflight pid = none ∧
      (∀ j ∈ t.q.inflight, pid ∉ j.waitFor) ∧ l.length = 32 ∧
      t.out = .hostWrite i.q.fn ((s.queue i.q).cqBase.toNat + (s.queue i.q).cqPut.toNat % 2 ^ (s.queue i.q).cqLog * 32) l false :: s.out ∧
      l.getD 31 0 = BitVec.ofNat 8 (((s.queue i.q).cqPut.toNat / 2 ^ (s.queue i.q).cqLog + 1) % 2) ∧
      l.take 31 = (replyBytes i.pkt.seq status s.nowNs result detail k i.q.source 0).take 31 ∧
      (t.queue i.q).cqPut = (s.queue i.q).cqPut + 1 ∧ (t.queue i.q).cqGet = (s.queue i.q).cqGet ∧ t.mem = s.mem) ∧
  (∀ (s : State) (q : QueueId) (r : List Byte), s.putReply q true r = (s.putReply q false r).msixSend q.fn (s.queue q).vector) ∧
  (∀ (s : State) (q : QueueId) (op : Nat), (∀ n, q ≠ .fwd n) → (s.queue q).canReserve = false → s.head q op = none)

/-- R144: a rejected packet consumes SLOTS slots if SLOTS is 1 to 8, and one slot otherwise: the GET of the ring moves on by
so many, whatever the packet's checks say; where they say nothing else, the packet is rejected and does not join the buffer.
-/
def Obligations.RejectedSlots : Prop :=
  ∀ (s : State) (q : QueueId) (m n : Nat) (slots : List Byte), (∀ k, q ≠ .fwd k) →
    (∀ p k, q = .part p k → s.strict p = false ∨ s.nowNs / 1000 % 32 = p) → s.awake = true → (s.queue q).mayFetch = true →
    field (s.slotBytes (s.queue q) (s.queue q).sqGet 0 slots) 3 1 = m →
    n = (if 1 ≤ m ∧ m ≤ 8 then m else 1) →
    n ≤ ((s.queue q).sqPut - (s.queue q).sqGet).toNat →
    (∀ k, k < n → s.slotPoisoned (s.queue q) ((s.queue q).sqGet + BitVec.ofNat 32 k) = false) →
    ∃ (t : State) (p : Packet), exec (.packetFetch q slots) s = .next (t.intake q p).settle ∧
      p.pid = s.q.nextPid ∧ (t.queue q).buffer = (s.queue q).buffer ∧
      ((t.intake q p).queue q).sqGet = (s.queue q).sqGet + BitVec.ofNat 32 n ∧
      ((t.intake q p).queue q).seqExp = p.seq + 1 ∧
      (t.frontCheck q (s.queue q).seqExp p ≠ none →
        ((t.intake q p).queue q).buffer = (s.queue q).buffer)

/-- R201: an add to a mirror counter changes no counter: from a packet it completes DENIED, reason 0x0A; from a kernel it is
discarded and logged, with the predicate clear; and RUN_BEGIN that names a mirror counter completes NOT_READY, since its run
is open. -/
def Obligations.MirrorCounters : Prop :=
  (∀ (s : State) (q : QueueId) (p : Packet) (i : Nat), s.Runs q 0x10 p → (s.take q p).isLocal (p.f 20 1) = true →
    p.f 16 4 = i → i < 131072 → (s.take q p).owns p.part (objSlice i) = true →
    (∀ e ∈ (s.take q p).sync.inbox, e.1 ≠ objDie i) → ((s.take q p).tally i).ok = true → ((s.take q p).tally i).mirror = true →
    ∃ t : State, exec (.tallyAdd q) s =
      .next (t.finish p.pid stDenied ((s.take q p).tally i).value.toNat (reason 0x0A 16)).settle ∧
      t.sync.tally = s.sync.tally ∧ t.sync.sem = s.sync.sem ∧ t.obj = s.obj ∧ t.log = s.log) ∧
  (∀ (s : State) (g p ud uo un w : Nat), s.canIssue g = true → p < 8 → evenU ud = true → uo < 64 → un < 64 →
    s.objWord g uo = w → (s.wordOk g false true w).1 = true → wordRemote w = false → s.defers g = false →
    0 < ((s.gang g).uReg un).toNat → (∀ e ∈ s.sync.inbox, e.1 ≠ objDie (wordObj w)) → (s.tally (wordObj w)).ok = true →
    (s.tally (wordObj w)).mirror = true →
    ∃ u : State, exec (.tallyAddInstr g p ud uo un) s = .next u.settle ∧ u.sync.tally = s.sync.tally ∧
      u.log = (((s.issued g).release g).syncLog 0xA02 2 (some (s.launchOf g).part) (wordObj w) (s.gangTag g)).log ∧
      (u.gang g).pReg p = 0) ∧
  (∀ (s : State) (op : SyncOp), op.kind = .add → (∀ pid, op.src ≠ .packet pid) → (s.tally op.obj).mirror = true →
    s.applyTally op = (s.syncLog 0xA02 2 (some op.part) op.obj (s.opTag op)).answer op .mirror (s.tally op.obj).value ∧
    (s.applyTally op).sync.tally = s.sync.tally) ∧
  (∀ (s : State) (q : QueueId) (p : Packet) (c : Nat), s.Runs q 0x34 p → (∀ i, (s.tally i).mirror = true → s.inOpenRun i = true) →
    p.f 24 4 ≤ c → c < p.f 24 4 + p.f 28 4 → (s.tally c).mirror = true →
    ∃ c', p.f 24 4 ≤ c' ∧ c' ≤ c ∧ exec (.runBegin q) s = .next ((s.take q p).finish p.pid stNotReady 0 c').settle)

/-- R392: a remote window channel is usable only on the manager: there a START that its registers allow sends the first
message of its transfer, and on a worker a START is discarded and sets STAT.STATUS to DENIED. -/
def Obligations.RemoteWindows : Prop :=
  (∀ (s x t : State) (c : Nat) (v : Word) (d : List Byte) (unit : Nat), s.boot.ready = true → s.hostWake = x → c < 4 →
    x.isManager = true → (x.fleet.rw.look c {}).busy = false → unit = (if v.getLsbD 29 then 8 else 64) →
    (x.fleet.rw.look c {}).len ≠ 0 → (x.fleet.rw.look c {}).len.toNat % unit = 0 →
    (x.fleet.rw.look c {}).dpa.toNat % unit = 0 →
    (x.onRw c fun y => { y with ctrl := v &&& rwCtrlMask, done := false, busy := true, status := 0, acked := 0, ids := [] }) = t →
    t.unreachable (bits (v &&& rwCtrlMask) 16 6) = none →
    exec (.rwStart c v d) s = .next (t.rwSend c d).settle) ∧
  (∀ (s x : State) (c : Nat) (v : Word) (d : List Byte), s.boot.ready = true → s.hostWake = x → c < 4 → x.isManager = false →
    (x.fleet.rw.look c {}).busy = false →
    exec (.rwStart c v d) s = .next (x.onRw c fun y => { y with status := stDenied }).settle) ∧
  (∀ (s : State) (c : Nat) (v : Word), c < 4 → s.isManager = false → v.getLsbD 31 = true →
    s.fleetWrite4 (0x800 + 32 * c) v false = s.onRw c fun x => { x with ctrl := v &&& rwCtrlMask, status := stDenied })

/-- R473: GLB_BLOCKS reads 0x0000_0007 before READY and 0x0001_3FFF from READY onward, one bit a block of 64 KiB; before
READY exactly the blocks whose bit it shows answer. -/
def Obligations.BlocksThatRespond : Prop :=
  (∀ s : State, s.ao.hubOut = true → s.host.linkDown = false → s.boot.ready = false → s.pwr.dev ≠ .sleep →
    ∃ u : State, exec (.lowHalfReadLatch .pf 4 4) s = .next u.settle ∧ u.out = .readData [0x07, 0x00, 0x00, 0x00] false :: s.out) ∧
  (∀ s : State, s.ao.hubOut = true → s.host.linkDown = false → s.boot.ready = true → s.pwr.dev ≠ .sleep →
    ∃ u : State, exec (.lowHalfReadLatch .pf 4 4) s = .next u.settle ∧ u.out = .readData [0xFF, 0x3F, 0x01, 0x00] false :: s.out) ∧
  (∀ (s : State) (off : Nat), s.ao.hubOut = true → s.host.linkDown = false → s.boot.ready = false → off < 0x400000 →
    s.answers .pf off = Nat.testBit (s.pfRead 4) (off / 65536)) ∧
  (∀ (s : State) (off : Nat), s.ao.hubOut = true → s.host.linkDown = false → s.boot.ready = true → off < 0x400000 →
    Nat.testBit (s.pfRead 4) (off / 65536) = true → s.answers .pf off = true)
end

