-- ==== Sys2Proof/Laws/Bits.lean ====
section
/-! SUPPORT. Reading a bit after a bit was set or cleared. -/

namespace Sys2Proof.Machine

open Sys2Proof

/-- A bit after another, or itself, was set. -/
theorem getLsbD_setBit {w : Nat} (x : BitVec w) (m n : Nat) :
    (setBit x m).getLsbD n = (x.getLsbD n || (decide (n < w) && decide (m = n))) := by
  simp [setBit, BitVec.getLsbD_or, BitVec.getLsbD_twoPow]
  by_cases h : m = n
  · subst h; simp
  · simp [h]

/-- A bit after another, or itself, was cleared. -/
theorem getLsbD_clearBit {w : Nat} (x : BitVec w) (m n : Nat) :
    (clearBit x m).getLsbD n = (x.getLsbD n && !decide (m = n)) := by
  by_cases hn : n < w
  · by_cases h : m = n
    · subst h; simp [clearBit, hn]
    · simp [clearBit, hn, h]
      intro _ e; exact h e.symm
  · simp [BitVec.getLsbD_of_ge x n (by omega), BitVec.getLsbD_of_ge (clearBit x m) n (by omega)]

/-- A pair holds its value. -/
@[simp] theorem pairVal_mkPair (v : Word) : pairVal (mkPair v) = v := by
  apply BitVec.eq_of_toNat_eq
  simp [pairVal, mkPair]
  have := v.isLt
  omega

/-- A pair is sound. -/
theorem pairOk_mkPair (v : Word) : pairOk (mkPair v) = true := by
  obtain ⟨k, hk⟩ : ∃ k, v.toNat + k = 4294967295 := ⟨4294967295 - v.toNat, by have := v.isLt; omega⟩
  have h1 : 4294967295 - v.toNat = k := by omega
  have h2 : (v.toNat + k * 4294967296) % 18446744073709551616 = v.toNat + k * 4294967296 := Nat.mod_eq_of_lt (by omega)
  have h3 : (v.toNat + k * 4294967296) / 4294967296 = k := by omega
  have h4 : k % 4294967296 = k := by omega
  have h5 : v.toNat % 4294967296 = v.toNat := by omega
  simp [pairOk, mkPair, bits, Nat.shiftRight_eq_div_pow, h1, h2, h3, h4]
  omega

/-- Bytes spell a number below their count's power. -/
theorem ofLe_lt (l : List Byte) : ofLe l < 256 ^ l.length := by
  induction l with
  | nil => simp [ofLe]
  | cons b r ih => simp only [ofLe, List.length_cons, Nat.pow_succ]; have := b.isLt; omega

/-- A field spells a number below its length's power. -/
theorem field_lt (l : List Byte) (o n : Nat) : field l o n < 256 ^ n :=
  Nat.lt_of_lt_of_le (ofLe_lt _) (Nat.pow_le_pow_right (by decide) (by simp))

end Sys2Proof.Machine
end

