-- ==== Sys2Proof/Laws/State.lean ====
section
/-! SUPPORT. The State laws: what each update of one unit leaves in every unit. -/

namespace Sys2Proof.Machine

open Sys2Proof

@[simp] theorem State.onAo_ao (f : Ao → Ao) (s : State) : (s.onAo f).ao = f s.ao := rfl
@[simp] theorem State.onAo_boot (f : Ao → Ao) (s : State) : (s.onAo f).boot = s.boot := rfl
@[simp] theorem State.onAo_host (f : Ao → Ao) (s : State) : (s.onAo f).host = s.host := rfl
@[simp] theorem State.onAo_hws (f : Ao → Ao) (s : State) : (s.onAo f).hws = s.hws := rfl
@[simp] theorem State.onAo_tw (f : Ao → Ao) (s : State) : (s.onAo f).tw = s.tw := rfl
@[simp] theorem State.onAo_time (f : Ao → Ao) (s : State) : (s.onAo f).time = s.time := rfl
@[simp] theorem State.onAo_pwr (f : Ao → Ao) (s : State) : (s.onAo f).pwr = s.pwr := rfl
@[simp] theorem State.onAo_q (f : Ao → Ao) (s : State) : (s.onAo f).q = s.q := rfl
@[simp] theorem State.onAo_part (f : Ao → Ao) (s : State) : (s.onAo f).part = s.part := rfl
@[simp] theorem State.onAo_obj (f : Ao → Ao) (s : State) : (s.onAo f).obj = s.obj := rfl
@[simp] theorem State.onAo_sync (f : Ao → Ao) (s : State) : (s.onAo f).sync = s.sync := rfl
@[simp] theorem State.onAo_red (f : Ao → Ao) (s : State) : (s.onAo f).red = s.red := rfl
@[simp] theorem State.onAo_core (f : Ao → Ao) (s : State) : (s.onAo f).core = s.core := rfl
@[simp] theorem State.onAo_work (f : Ao → Ao) (s : State) : (s.onAo f).work = s.work := rfl
@[simp] theorem State.onAo_mem (f : Ao → Ao) (s : State) : (s.onAo f).mem = s.mem := rfl
@[simp] theorem State.onAo_cim (f : Ao → Ao) (s : State) : (s.onAo f).cim = s.cim := rfl
@[simp] theorem State.onAo_fleet (f : Ao → Ao) (s : State) : (s.onAo f).fleet = s.fleet := rfl
@[simp] theorem State.onAo_nvm (f : Ao → Ao) (s : State) : (s.onAo f).nvm = s.nvm := rfl
@[simp] theorem State.onAo_log (f : Ao → Ao) (s : State) : (s.onAo f).log = s.log := rfl
@[simp] theorem State.onAo_fence (f : Ao → Ao) (s : State) : (s.onAo f).fence = s.fence := rfl
@[simp] theorem State.onAo_mgmt (f : Ao → Ao) (s : State) : (s.onAo f).mgmt = s.mgmt := rfl
@[simp] theorem State.onAo_jtag (f : Ao → Ao) (s : State) : (s.onAo f).jtag = s.jtag := rfl
@[simp] theorem State.onAo_out (f : Ao → Ao) (s : State) : (s.onAo f).out = s.out := rfl
@[simp] theorem State.onAo_free (f : Ao → Ao) (s : State) : (s.onAo f).free = s.free := rfl
@[simp] theorem State.onAo_pending (f : Ao → Ao) (s : State) : (s.onAo f).pending = s.pending := rfl

@[simp] theorem State.onBoot_ao (f : Boot → Boot) (s : State) : (s.onBoot f).ao = s.ao := rfl
@[simp] theorem State.onBoot_boot (f : Boot → Boot) (s : State) : (s.onBoot f).boot = f s.boot := rfl
@[simp] theorem State.onBoot_host (f : Boot → Boot) (s : State) : (s.onBoot f).host = s.host := rfl
@[simp] theorem State.onBoot_hws (f : Boot → Boot) (s : State) : (s.onBoot f).hws = s.hws := rfl
@[simp] theorem State.onBoot_tw (f : Boot → Boot) (s : State) : (s.onBoot f).tw = s.tw := rfl
@[simp] theorem State.onBoot_time (f : Boot → Boot) (s : State) : (s.onBoot f).time = s.time := rfl
@[simp] theorem State.onBoot_pwr (f : Boot → Boot) (s : State) : (s.onBoot f).pwr = s.pwr := rfl
@[simp] theorem State.onBoot_q (f : Boot → Boot) (s : State) : (s.onBoot f).q = s.q := rfl
@[simp] theorem State.onBoot_part (f : Boot → Boot) (s : State) : (s.onBoot f).part = s.part := rfl
@[simp] theorem State.onBoot_obj (f : Boot → Boot) (s : State) : (s.onBoot f).obj = s.obj := rfl
@[simp] theorem State.onBoot_sync (f : Boot → Boot) (s : State) : (s.onBoot f).sync = s.sync := rfl
@[simp] theorem State.onBoot_red (f : Boot → Boot) (s : State) : (s.onBoot f).red = s.red := rfl
@[simp] theorem State.onBoot_core (f : Boot → Boot) (s : State) : (s.onBoot f).core = s.core := rfl
@[simp] theorem State.onBoot_work (f : Boot → Boot) (s : State) : (s.onBoot f).work = s.work := rfl
@[simp] theorem State.onBoot_mem (f : Boot → Boot) (s : State) : (s.onBoot f).mem = s.mem := rfl
@[simp] theorem State.onBoot_cim (f : Boot → Boot) (s : State) : (s.onBoot f).cim = s.cim := rfl
@[simp] theorem State.onBoot_fleet (f : Boot → Boot) (s : State) : (s.onBoot f).fleet = s.fleet := rfl
@[simp] theorem State.onBoot_nvm (f : Boot → Boot) (s : State) : (s.onBoot f).nvm = s.nvm := rfl
@[simp] theorem State.onBoot_log (f : Boot → Boot) (s : State) : (s.onBoot f).log = s.log := rfl
@[simp] theorem State.onBoot_fence (f : Boot → Boot) (s : State) : (s.onBoot f).fence = s.fence := rfl
@[simp] theorem State.onBoot_mgmt (f : Boot → Boot) (s : State) : (s.onBoot f).mgmt = s.mgmt := rfl
@[simp] theorem State.onBoot_jtag (f : Boot → Boot) (s : State) : (s.onBoot f).jtag = s.jtag := rfl
@[simp] theorem State.onBoot_out (f : Boot → Boot) (s : State) : (s.onBoot f).out = s.out := rfl
@[simp] theorem State.onBoot_free (f : Boot → Boot) (s : State) : (s.onBoot f).free = s.free := rfl
@[simp] theorem State.onBoot_pending (f : Boot → Boot) (s : State) : (s.onBoot f).pending = s.pending := rfl

@[simp] theorem State.onHost_ao (f : HostPort → HostPort) (s : State) : (s.onHost f).ao = s.ao := rfl
@[simp] theorem State.onHost_boot (f : HostPort → HostPort) (s : State) : (s.onHost f).boot = s.boot := rfl
@[simp] theorem State.onHost_host (f : HostPort → HostPort) (s : State) : (s.onHost f).host = f s.host := rfl
@[simp] theorem State.onHost_hws (f : HostPort → HostPort) (s : State) : (s.onHost f).hws = s.hws := rfl
@[simp] theorem State.onHost_tw (f : HostPort → HostPort) (s : State) : (s.onHost f).tw = s.tw := rfl
@[simp] theorem State.onHost_time (f : HostPort → HostPort) (s : State) : (s.onHost f).time = s.time := rfl
@[simp] theorem State.onHost_pwr (f : HostPort → HostPort) (s : State) : (s.onHost f).pwr = s.pwr := rfl
@[simp] theorem State.onHost_q (f : HostPort → HostPort) (s : State) : (s.onHost f).q = s.q := rfl
@[simp] theorem State.onHost_part (f : HostPort → HostPort) (s : State) : (s.onHost f).part = s.part := rfl
@[simp] theorem State.onHost_obj (f : HostPort → HostPort) (s : State) : (s.onHost f).obj = s.obj := rfl
@[simp] theorem State.onHost_sync (f : HostPort → HostPort) (s : State) : (s.onHost f).sync = s.sync := rfl
@[simp] theorem State.onHost_red (f : HostPort → HostPort) (s : State) : (s.onHost f).red = s.red := rfl
@[simp] theorem State.onHost_core (f : HostPort → HostPort) (s : State) : (s.onHost f).core = s.core := rfl
@[simp] theorem State.onHost_work (f : HostPort → HostPort) (s : State) : (s.onHost f).work = s.work := rfl
@[simp] theorem State.onHost_mem (f : HostPort → HostPort) (s : State) : (s.onHost f).mem = s.mem := rfl
@[simp] theorem State.onHost_cim (f : HostPort → HostPort) (s : State) : (s.onHost f).cim = s.cim := rfl
@[simp] theorem State.onHost_fleet (f : HostPort → HostPort) (s : State) : (s.onHost f).fleet = s.fleet := rfl
@[simp] theorem State.onHost_nvm (f : HostPort → HostPort) (s : State) : (s.onHost f).nvm = s.nvm := rfl
@[simp] theorem State.onHost_log (f : HostPort → HostPort) (s : State) : (s.onHost f).log = s.log := rfl
@[simp] theorem State.onHost_fence (f : HostPort → HostPort) (s : State) : (s.onHost f).fence = s.fence := rfl
@[simp] theorem State.onHost_mgmt (f : HostPort → HostPort) (s : State) : (s.onHost f).mgmt = s.mgmt := rfl
@[simp] theorem State.onHost_jtag (f : HostPort → HostPort) (s : State) : (s.onHost f).jtag = s.jtag := rfl
@[simp] theorem State.onHost_out (f : HostPort → HostPort) (s : State) : (s.onHost f).out = s.out := rfl
@[simp] theorem State.onHost_free (f : HostPort → HostPort) (s : State) : (s.onHost f).free = s.free := rfl
@[simp] theorem State.onHost_pending (f : HostPort → HostPort) (s : State) : (s.onHost f).pending = s.pending := rfl

@[simp] theorem State.onHws_ao (f : (Tab Port) → Tab Port) (s : State) : (s.onHws f).ao = s.ao := rfl
@[simp] theorem State.onHws_boot (f : (Tab Port) → Tab Port) (s : State) : (s.onHws f).boot = s.boot := rfl
@[simp] theorem State.onHws_host (f : (Tab Port) → Tab Port) (s : State) : (s.onHws f).host = s.host := rfl
@[simp] theorem State.onHws_hws (f : (Tab Port) → Tab Port) (s : State) : (s.onHws f).hws = f s.hws := rfl
@[simp] theorem State.onHws_tw (f : (Tab Port) → Tab Port) (s : State) : (s.onHws f).tw = s.tw := rfl
@[simp] theorem State.onHws_time (f : (Tab Port) → Tab Port) (s : State) : (s.onHws f).time = s.time := rfl
@[simp] theorem State.onHws_pwr (f : (Tab Port) → Tab Port) (s : State) : (s.onHws f).pwr = s.pwr := rfl
@[simp] theorem State.onHws_q (f : (Tab Port) → Tab Port) (s : State) : (s.onHws f).q = s.q := rfl
@[simp] theorem State.onHws_part (f : (Tab Port) → Tab Port) (s : State) : (s.onHws f).part = s.part := rfl
@[simp] theorem State.onHws_obj (f : (Tab Port) → Tab Port) (s : State) : (s.onHws f).obj = s.obj := rfl
@[simp] theorem State.onHws_sync (f : (Tab Port) → Tab Port) (s : State) : (s.onHws f).sync = s.sync := rfl
@[simp] theorem State.onHws_red (f : (Tab Port) → Tab Port) (s : State) : (s.onHws f).red = s.red := rfl
@[simp] theorem State.onHws_core (f : (Tab Port) → Tab Port) (s : State) : (s.onHws f).core = s.core := rfl
@[simp] theorem State.onHws_work (f : (Tab Port) → Tab Port) (s : State) : (s.onHws f).work = s.work := rfl
@[simp] theorem State.onHws_mem (f : (Tab Port) → Tab Port) (s : State) : (s.onHws f).mem = s.mem := rfl
@[simp] theorem State.onHws_cim (f : (Tab Port) → Tab Port) (s : State) : (s.onHws f).cim = s.cim := rfl
@[simp] theorem State.onHws_fleet (f : (Tab Port) → Tab Port) (s : State) : (s.onHws f).fleet = s.fleet := rfl
@[simp] theorem State.onHws_nvm (f : (Tab Port) → Tab Port) (s : State) : (s.onHws f).nvm = s.nvm := rfl
@[simp] theorem State.onHws_log (f : (Tab Port) → Tab Port) (s : State) : (s.onHws f).log = s.log := rfl
@[simp] theorem State.onHws_fence (f : (Tab Port) → Tab Port) (s : State) : (s.onHws f).fence = s.fence := rfl
@[simp] theorem State.onHws_mgmt (f : (Tab Port) → Tab Port) (s : State) : (s.onHws f).mgmt = s.mgmt := rfl
@[simp] theorem State.onHws_jtag (f : (Tab Port) → Tab Port) (s : State) : (s.onHws f).jtag = s.jtag := rfl
@[simp] theorem State.onHws_out (f : (Tab Port) → Tab Port) (s : State) : (s.onHws f).out = s.out := rfl
@[simp] theorem State.onHws_free (f : (Tab Port) → Tab Port) (s : State) : (s.onHws f).free = s.free := rfl
@[simp] theorem State.onHws_pending (f : (Tab Port) → Tab Port) (s : State) : (s.onHws f).pending = s.pending := rfl

@[simp] theorem State.onTw_ao (f : Tw → Tw) (s : State) : (s.onTw f).ao = s.ao := rfl
@[simp] theorem State.onTw_boot (f : Tw → Tw) (s : State) : (s.onTw f).boot = s.boot := rfl
@[simp] theorem State.onTw_host (f : Tw → Tw) (s : State) : (s.onTw f).host = s.host := rfl
@[simp] theorem State.onTw_hws (f : Tw → Tw) (s : State) : (s.onTw f).hws = s.hws := rfl
@[simp] theorem State.onTw_tw (f : Tw → Tw) (s : State) : (s.onTw f).tw = f s.tw := rfl
@[simp] theorem State.onTw_time (f : Tw → Tw) (s : State) : (s.onTw f).time = s.time := rfl
@[simp] theorem State.onTw_pwr (f : Tw → Tw) (s : State) : (s.onTw f).pwr = s.pwr := rfl
@[simp] theorem State.onTw_q (f : Tw → Tw) (s : State) : (s.onTw f).q = s.q := rfl
@[simp] theorem State.onTw_part (f : Tw → Tw) (s : State) : (s.onTw f).part = s.part := rfl
@[simp] theorem State.onTw_obj (f : Tw → Tw) (s : State) : (s.onTw f).obj = s.obj := rfl
@[simp] theorem State.onTw_sync (f : Tw → Tw) (s : State) : (s.onTw f).sync = s.sync := rfl
@[simp] theorem State.onTw_red (f : Tw → Tw) (s : State) : (s.onTw f).red = s.red := rfl
@[simp] theorem State.onTw_core (f : Tw → Tw) (s : State) : (s.onTw f).core = s.core := rfl
@[simp] theorem State.onTw_work (f : Tw → Tw) (s : State) : (s.onTw f).work = s.work := rfl
@[simp] theorem State.onTw_mem (f : Tw → Tw) (s : State) : (s.onTw f).mem = s.mem := rfl
@[simp] theorem State.onTw_cim (f : Tw → Tw) (s : State) : (s.onTw f).cim = s.cim := rfl
@[simp] theorem State.onTw_fleet (f : Tw → Tw) (s : State) : (s.onTw f).fleet = s.fleet := rfl
@[simp] theorem State.onTw_nvm (f : Tw → Tw) (s : State) : (s.onTw f).nvm = s.nvm := rfl
@[simp] theorem State.onTw_log (f : Tw → Tw) (s : State) : (s.onTw f).log = s.log := rfl
@[simp] theorem State.onTw_fence (f : Tw → Tw) (s : State) : (s.onTw f).fence = s.fence := rfl
@[simp] theorem State.onTw_mgmt (f : Tw → Tw) (s : State) : (s.onTw f).mgmt = s.mgmt := rfl
@[simp] theorem State.onTw_jtag (f : Tw → Tw) (s : State) : (s.onTw f).jtag = s.jtag := rfl
@[simp] theorem State.onTw_out (f : Tw → Tw) (s : State) : (s.onTw f).out = s.out := rfl
@[simp] theorem State.onTw_free (f : Tw → Tw) (s : State) : (s.onTw f).free = s.free := rfl
@[simp] theorem State.onTw_pending (f : Tw → Tw) (s : State) : (s.onTw f).pending = s.pending := rfl

@[simp] theorem State.onTime_ao (f : TimeBlk → TimeBlk) (s : State) : (s.onTime f).ao = s.ao := rfl
@[simp] theorem State.onTime_boot (f : TimeBlk → TimeBlk) (s : State) : (s.onTime f).boot = s.boot := rfl
@[simp] theorem State.onTime_host (f : TimeBlk → TimeBlk) (s : State) : (s.onTime f).host = s.host := rfl
@[simp] theorem State.onTime_hws (f : TimeBlk → TimeBlk) (s : State) : (s.onTime f).hws = s.hws := rfl
@[simp] theorem State.onTime_tw (f : TimeBlk → TimeBlk) (s : State) : (s.onTime f).tw = s.tw := rfl
@[simp] theorem State.onTime_time (f : TimeBlk → TimeBlk) (s : State) : (s.onTime f).time = f s.time := rfl
@[simp] theorem State.onTime_pwr (f : TimeBlk → TimeBlk) (s : State) : (s.onTime f).pwr = s.pwr := rfl
@[simp] theorem State.onTime_q (f : TimeBlk → TimeBlk) (s : State) : (s.onTime f).q = s.q := rfl
@[simp] theorem State.onTime_part (f : TimeBlk → TimeBlk) (s : State) : (s.onTime f).part = s.part := rfl
@[simp] theorem State.onTime_obj (f : TimeBlk → TimeBlk) (s : State) : (s.onTime f).obj = s.obj := rfl
@[simp] theorem State.onTime_sync (f : TimeBlk → TimeBlk) (s : State) : (s.onTime f).sync = s.sync := rfl
@[simp] theorem State.onTime_red (f : TimeBlk → TimeBlk) (s : State) : (s.onTime f).red = s.red := rfl
@[simp] theorem State.onTime_core (f : TimeBlk → TimeBlk) (s : State) : (s.onTime f).core = s.core := rfl
@[simp] theorem State.onTime_work (f : TimeBlk → TimeBlk) (s : State) : (s.onTime f).work = s.work := rfl
@[simp] theorem State.onTime_mem (f : TimeBlk → TimeBlk) (s : State) : (s.onTime f).mem = s.mem := rfl
@[simp] theorem State.onTime_cim (f : TimeBlk → TimeBlk) (s : State) : (s.onTime f).cim = s.cim := rfl
@[simp] theorem State.onTime_fleet (f : TimeBlk → TimeBlk) (s : State) : (s.onTime f).fleet = s.fleet := rfl
@[simp] theorem State.onTime_nvm (f : TimeBlk → TimeBlk) (s : State) : (s.onTime f).nvm = s.nvm := rfl
@[simp] theorem State.onTime_log (f : TimeBlk → TimeBlk) (s : State) : (s.onTime f).log = s.log := rfl
@[simp] theorem State.onTime_fence (f : TimeBlk → TimeBlk) (s : State) : (s.onTime f).fence = s.fence := rfl
@[simp] theorem State.onTime_mgmt (f : TimeBlk → TimeBlk) (s : State) : (s.onTime f).mgmt = s.mgmt := rfl
@[simp] theorem State.onTime_jtag (f : TimeBlk → TimeBlk) (s : State) : (s.onTime f).jtag = s.jtag := rfl
@[simp] theorem State.onTime_out (f : TimeBlk → TimeBlk) (s : State) : (s.onTime f).out = s.out := rfl
@[simp] theorem State.onTime_free (f : TimeBlk → TimeBlk) (s : State) : (s.onTime f).free = s.free := rfl
@[simp] theorem State.onTime_pending (f : TimeBlk → TimeBlk) (s : State) : (s.onTime f).pending = s.pending := rfl

@[simp] theorem State.onPwr_ao (f : Pwr → Pwr) (s : State) : (s.onPwr f).ao = s.ao := rfl
@[simp] theorem State.onPwr_boot (f : Pwr → Pwr) (s : State) : (s.onPwr f).boot = s.boot := rfl
@[simp] theorem State.onPwr_host (f : Pwr → Pwr) (s : State) : (s.onPwr f).host = s.host := rfl
@[simp] theorem State.onPwr_hws (f : Pwr → Pwr) (s : State) : (s.onPwr f).hws = s.hws := rfl
@[simp] theorem State.onPwr_tw (f : Pwr → Pwr) (s : State) : (s.onPwr f).tw = s.tw := rfl
@[simp] theorem State.onPwr_time (f : Pwr → Pwr) (s : State) : (s.onPwr f).time = s.time := rfl
@[simp] theorem State.onPwr_pwr (f : Pwr → Pwr) (s : State) : (s.onPwr f).pwr = f s.pwr := rfl
@[simp] theorem State.onPwr_q (f : Pwr → Pwr) (s : State) : (s.onPwr f).q = s.q := rfl
@[simp] theorem State.onPwr_part (f : Pwr → Pwr) (s : State) : (s.onPwr f).part = s.part := rfl
@[simp] theorem State.onPwr_obj (f : Pwr → Pwr) (s : State) : (s.onPwr f).obj = s.obj := rfl
@[simp] theorem State.onPwr_sync (f : Pwr → Pwr) (s : State) : (s.onPwr f).sync = s.sync := rfl
@[simp] theorem State.onPwr_red (f : Pwr → Pwr) (s : State) : (s.onPwr f).red = s.red := rfl
@[simp] theorem State.onPwr_core (f : Pwr → Pwr) (s : State) : (s.onPwr f).core = s.core := rfl
@[simp] theorem State.onPwr_work (f : Pwr → Pwr) (s : State) : (s.onPwr f).work = s.work := rfl
@[simp] theorem State.onPwr_mem (f : Pwr → Pwr) (s : State) : (s.onPwr f).mem = s.mem := rfl
@[simp] theorem State.onPwr_cim (f : Pwr → Pwr) (s : State) : (s.onPwr f).cim = s.cim := rfl
@[simp] theorem State.onPwr_fleet (f : Pwr → Pwr) (s : State) : (s.onPwr f).fleet = s.fleet := rfl
@[simp] theorem State.onPwr_nvm (f : Pwr → Pwr) (s : State) : (s.onPwr f).nvm = s.nvm := rfl
@[simp] theorem State.onPwr_log (f : Pwr → Pwr) (s : State) : (s.onPwr f).log = s.log := rfl
@[simp] theorem State.onPwr_fence (f : Pwr → Pwr) (s : State) : (s.onPwr f).fence = s.fence := rfl
@[simp] theorem State.onPwr_mgmt (f : Pwr → Pwr) (s : State) : (s.onPwr f).mgmt = s.mgmt := rfl
@[simp] theorem State.onPwr_jtag (f : Pwr → Pwr) (s : State) : (s.onPwr f).jtag = s.jtag := rfl
@[simp] theorem State.onPwr_out (f : Pwr → Pwr) (s : State) : (s.onPwr f).out = s.out := rfl
@[simp] theorem State.onPwr_free (f : Pwr → Pwr) (s : State) : (s.onPwr f).free = s.free := rfl
@[simp] theorem State.onPwr_pending (f : Pwr → Pwr) (s : State) : (s.onPwr f).pending = s.pending := rfl

@[simp] theorem State.onQ_ao (f : Queues → Queues) (s : State) : (s.onQ f).ao = s.ao := rfl
@[simp] theorem State.onQ_boot (f : Queues → Queues) (s : State) : (s.onQ f).boot = s.boot := rfl
@[simp] theorem State.onQ_host (f : Queues → Queues) (s : State) : (s.onQ f).host = s.host := rfl
@[simp] theorem State.onQ_hws (f : Queues → Queues) (s : State) : (s.onQ f).hws = s.hws := rfl
@[simp] theorem State.onQ_tw (f : Queues → Queues) (s : State) : (s.onQ f).tw = s.tw := rfl
@[simp] theorem State.onQ_time (f : Queues → Queues) (s : State) : (s.onQ f).time = s.time := rfl
@[simp] theorem State.onQ_pwr (f : Queues → Queues) (s : State) : (s.onQ f).pwr = s.pwr := rfl
@[simp] theorem State.onQ_q (f : Queues → Queues) (s : State) : (s.onQ f).q = f s.q := rfl
@[simp] theorem State.onQ_part (f : Queues → Queues) (s : State) : (s.onQ f).part = s.part := rfl
@[simp] theorem State.onQ_obj (f : Queues → Queues) (s : State) : (s.onQ f).obj = s.obj := rfl
@[simp] theorem State.onQ_sync (f : Queues → Queues) (s : State) : (s.onQ f).sync = s.sync := rfl
@[simp] theorem State.onQ_red (f : Queues → Queues) (s : State) : (s.onQ f).red = s.red := rfl
@[simp] theorem State.onQ_core (f : Queues → Queues) (s : State) : (s.onQ f).core = s.core := rfl
@[simp] theorem State.onQ_work (f : Queues → Queues) (s : State) : (s.onQ f).work = s.work := rfl
@[simp] theorem State.onQ_mem (f : Queues → Queues) (s : State) : (s.onQ f).mem = s.mem := rfl
@[simp] theorem State.onQ_cim (f : Queues → Queues) (s : State) : (s.onQ f).cim = s.cim := rfl
@[simp] theorem State.onQ_fleet (f : Queues → Queues) (s : State) : (s.onQ f).fleet = s.fleet := rfl
@[simp] theorem State.onQ_nvm (f : Queues → Queues) (s : State) : (s.onQ f).nvm = s.nvm := rfl
@[simp] theorem State.onQ_log (f : Queues → Queues) (s : State) : (s.onQ f).log = s.log := rfl
@[simp] theorem State.onQ_fence (f : Queues → Queues) (s : State) : (s.onQ f).fence = s.fence := rfl
@[simp] theorem State.onQ_mgmt (f : Queues → Queues) (s : State) : (s.onQ f).mgmt = s.mgmt := rfl
@[simp] theorem State.onQ_jtag (f : Queues → Queues) (s : State) : (s.onQ f).jtag = s.jtag := rfl
@[simp] theorem State.onQ_out (f : Queues → Queues) (s : State) : (s.onQ f).out = s.out := rfl
@[simp] theorem State.onQ_free (f : Queues → Queues) (s : State) : (s.onQ f).free = s.free := rfl
@[simp] theorem State.onQ_pending (f : Queues → Queues) (s : State) : (s.onQ f).pending = s.pending := rfl

@[simp] theorem State.onPart_ao (f : Parts → Parts) (s : State) : (s.onPart f).ao = s.ao := rfl
@[simp] theorem State.onPart_boot (f : Parts → Parts) (s : State) : (s.onPart f).boot = s.boot := rfl
@[simp] theorem State.onPart_host (f : Parts → Parts) (s : State) : (s.onPart f).host = s.host := rfl
@[simp] theorem State.onPart_hws (f : Parts → Parts) (s : State) : (s.onPart f).hws = s.hws := rfl
@[simp] theorem State.onPart_tw (f : Parts → Parts) (s : State) : (s.onPart f).tw = s.tw := rfl
@[simp] theorem State.onPart_time (f : Parts → Parts) (s : State) : (s.onPart f).time = s.time := rfl
@[simp] theorem State.onPart_pwr (f : Parts → Parts) (s : State) : (s.onPart f).pwr = s.pwr := rfl
@[simp] theorem State.onPart_q (f : Parts → Parts) (s : State) : (s.onPart f).q = s.q := rfl
@[simp] theorem State.onPart_part (f : Parts → Parts) (s : State) : (s.onPart f).part = f s.part := rfl
@[simp] theorem State.onPart_obj (f : Parts → Parts) (s : State) : (s.onPart f).obj = s.obj := rfl
@[simp] theorem State.onPart_sync (f : Parts → Parts) (s : State) : (s.onPart f).sync = s.sync := rfl
@[simp] theorem State.onPart_red (f : Parts → Parts) (s : State) : (s.onPart f).red = s.red := rfl
@[simp] theorem State.onPart_core (f : Parts → Parts) (s : State) : (s.onPart f).core = s.core := rfl
@[simp] theorem State.onPart_work (f : Parts → Parts) (s : State) : (s.onPart f).work = s.work := rfl
@[simp] theorem State.onPart_mem (f : Parts → Parts) (s : State) : (s.onPart f).mem = s.mem := rfl
@[simp] theorem State.onPart_cim (f : Parts → Parts) (s : State) : (s.onPart f).cim = s.cim := rfl
@[simp] theorem State.onPart_fleet (f : Parts → Parts) (s : State) : (s.onPart f).fleet = s.fleet := rfl
@[simp] theorem State.onPart_nvm (f : Parts → Parts) (s : State) : (s.onPart f).nvm = s.nvm := rfl
@[simp] theorem State.onPart_log (f : Parts → Parts) (s : State) : (s.onPart f).log = s.log := rfl
@[simp] theorem State.onPart_fence (f : Parts → Parts) (s : State) : (s.onPart f).fence = s.fence := rfl
@[simp] theorem State.onPart_mgmt (f : Parts → Parts) (s : State) : (s.onPart f).mgmt = s.mgmt := rfl
@[simp] theorem State.onPart_jtag (f : Parts → Parts) (s : State) : (s.onPart f).jtag = s.jtag := rfl
@[simp] theorem State.onPart_out (f : Parts → Parts) (s : State) : (s.onPart f).out = s.out := rfl
@[simp] theorem State.onPart_free (f : Parts → Parts) (s : State) : (s.onPart f).free = s.free := rfl
@[simp] theorem State.onPart_pending (f : Parts → Parts) (s : State) : (s.onPart f).pending = s.pending := rfl

@[simp] theorem State.onObj_ao (f : Objs → Objs) (s : State) : (s.onObj f).ao = s.ao := rfl
@[simp] theorem State.onObj_boot (f : Objs → Objs) (s : State) : (s.onObj f).boot = s.boot := rfl
@[simp] theorem State.onObj_host (f : Objs → Objs) (s : State) : (s.onObj f).host = s.host := rfl
@[simp] theorem State.onObj_hws (f : Objs → Objs) (s : State) : (s.onObj f).hws = s.hws := rfl
@[simp] theorem State.onObj_tw (f : Objs → Objs) (s : State) : (s.onObj f).tw = s.tw := rfl
@[simp] theorem State.onObj_time (f : Objs → Objs) (s : State) : (s.onObj f).time = s.time := rfl
@[simp] theorem State.onObj_pwr (f : Objs → Objs) (s : State) : (s.onObj f).pwr = s.pwr := rfl
@[simp] theorem State.onObj_q (f : Objs → Objs) (s : State) : (s.onObj f).q = s.q := rfl
@[simp] theorem State.onObj_part (f : Objs → Objs) (s : State) : (s.onObj f).part = s.part := rfl
@[simp] theorem State.onObj_obj (f : Objs → Objs) (s : State) : (s.onObj f).obj = f s.obj := rfl
@[simp] theorem State.onObj_sync (f : Objs → Objs) (s : State) : (s.onObj f).sync = s.sync := rfl
@[simp] theorem State.onObj_red (f : Objs → Objs) (s : State) : (s.onObj f).red = s.red := rfl
@[simp] theorem State.onObj_core (f : Objs → Objs) (s : State) : (s.onObj f).core = s.core := rfl
@[simp] theorem State.onObj_work (f : Objs → Objs) (s : State) : (s.onObj f).work = s.work := rfl
@[simp] theorem State.onObj_mem (f : Objs → Objs) (s : State) : (s.onObj f).mem = s.mem := rfl
@[simp] theorem State.onObj_cim (f : Objs → Objs) (s : State) : (s.onObj f).cim = s.cim := rfl
@[simp] theorem State.onObj_fleet (f : Objs → Objs) (s : State) : (s.onObj f).fleet = s.fleet := rfl
@[simp] theorem State.onObj_nvm (f : Objs → Objs) (s : State) : (s.onObj f).nvm = s.nvm := rfl
@[simp] theorem State.onObj_log (f : Objs → Objs) (s : State) : (s.onObj f).log = s.log := rfl
@[simp] theorem State.onObj_fence (f : Objs → Objs) (s : State) : (s.onObj f).fence = s.fence := rfl
@[simp] theorem State.onObj_mgmt (f : Objs → Objs) (s : State) : (s.onObj f).mgmt = s.mgmt := rfl
@[simp] theorem State.onObj_jtag (f : Objs → Objs) (s : State) : (s.onObj f).jtag = s.jtag := rfl
@[simp] theorem State.onObj_out (f : Objs → Objs) (s : State) : (s.onObj f).out = s.out := rfl
@[simp] theorem State.onObj_free (f : Objs → Objs) (s : State) : (s.onObj f).free = s.free := rfl
@[simp] theorem State.onObj_pending (f : Objs → Objs) (s : State) : (s.onObj f).pending = s.pending := rfl

@[simp] theorem State.onSync_ao (f : Sync → Sync) (s : State) : (s.onSync f).ao = s.ao := rfl
@[simp] theorem State.onSync_boot (f : Sync → Sync) (s : State) : (s.onSync f).boot = s.boot := rfl
@[simp] theorem State.onSync_host (f : Sync → Sync) (s : State) : (s.onSync f).host = s.host := rfl
@[simp] theorem State.onSync_hws (f : Sync → Sync) (s : State) : (s.onSync f).hws = s.hws := rfl
@[simp] theorem State.onSync_tw (f : Sync → Sync) (s : State) : (s.onSync f).tw = s.tw := rfl
@[simp] theorem State.onSync_time (f : Sync → Sync) (s : State) : (s.onSync f).time = s.time := rfl
@[simp] theorem State.onSync_pwr (f : Sync → Sync) (s : State) : (s.onSync f).pwr = s.pwr := rfl
@[simp] theorem State.onSync_q (f : Sync → Sync) (s : State) : (s.onSync f).q = s.q := rfl
@[simp] theorem State.onSync_part (f : Sync → Sync) (s : State) : (s.onSync f).part = s.part := rfl
@[simp] theorem State.onSync_obj (f : Sync → Sync) (s : State) : (s.onSync f).obj = s.obj := rfl
@[simp] theorem State.onSync_sync (f : Sync → Sync) (s : State) : (s.onSync f).sync = f s.sync := rfl
@[simp] theorem State.onSync_red (f : Sync → Sync) (s : State) : (s.onSync f).red = s.red := rfl
@[simp] theorem State.onSync_core (f : Sync → Sync) (s : State) : (s.onSync f).core = s.core := rfl
@[simp] theorem State.onSync_work (f : Sync → Sync) (s : State) : (s.onSync f).work = s.work := rfl
@[simp] theorem State.onSync_mem (f : Sync → Sync) (s : State) : (s.onSync f).mem = s.mem := rfl
@[simp] theorem State.onSync_cim (f : Sync → Sync) (s : State) : (s.onSync f).cim = s.cim := rfl
@[simp] theorem State.onSync_fleet (f : Sync → Sync) (s : State) : (s.onSync f).fleet = s.fleet := rfl
@[simp] theorem State.onSync_nvm (f : Sync → Sync) (s : State) : (s.onSync f).nvm = s.nvm := rfl
@[simp] theorem State.onSync_log (f : Sync → Sync) (s : State) : (s.onSync f).log = s.log := rfl
@[simp] theorem State.onSync_fence (f : Sync → Sync) (s : State) : (s.onSync f).fence = s.fence := rfl
@[simp] theorem State.onSync_mgmt (f : Sync → Sync) (s : State) : (s.onSync f).mgmt = s.mgmt := rfl
@[simp] theorem State.onSync_jtag (f : Sync → Sync) (s : State) : (s.onSync f).jtag = s.jtag := rfl
@[simp] theorem State.onSync_out (f : Sync → Sync) (s : State) : (s.onSync f).out = s.out := rfl
@[simp] theorem State.onSync_free (f : Sync → Sync) (s : State) : (s.onSync f).free = s.free := rfl
@[simp] theorem State.onSync_pending (f : Sync → Sync) (s : State) : (s.onSync f).pending = s.pending := rfl

@[simp] theorem State.onRed_ao (f : Red → Red) (s : State) : (s.onRed f).ao = s.ao := rfl
@[simp] theorem State.onRed_boot (f : Red → Red) (s : State) : (s.onRed f).boot = s.boot := rfl
@[simp] theorem State.onRed_host (f : Red → Red) (s : State) : (s.onRed f).host = s.host := rfl
@[simp] theorem State.onRed_hws (f : Red → Red) (s : State) : (s.onRed f).hws = s.hws := rfl
@[simp] theorem State.onRed_tw (f : Red → Red) (s : State) : (s.onRed f).tw = s.tw := rfl
@[simp] theorem State.onRed_time (f : Red → Red) (s : State) : (s.onRed f).time = s.time := rfl
@[simp] theorem State.onRed_pwr (f : Red → Red) (s : State) : (s.onRed f).pwr = s.pwr := rfl
@[simp] theorem State.onRed_q (f : Red → Red) (s : State) : (s.onRed f).q = s.q := rfl
@[simp] theorem State.onRed_part (f : Red → Red) (s : State) : (s.onRed f).part = s.part := rfl
@[simp] theorem State.onRed_obj (f : Red → Red) (s : State) : (s.onRed f).obj = s.obj := rfl
@[simp] theorem State.onRed_sync (f : Red → Red) (s : State) : (s.onRed f).sync = s.sync := rfl
@[simp] theorem State.onRed_red (f : Red → Red) (s : State) : (s.onRed f).red = f s.red := rfl
@[simp] theorem State.onRed_core (f : Red → Red) (s : State) : (s.onRed f).core = s.core := rfl
@[simp] theorem State.onRed_work (f : Red → Red) (s : State) : (s.onRed f).work = s.work := rfl
@[simp] theorem State.onRed_mem (f : Red → Red) (s : State) : (s.onRed f).mem = s.mem := rfl
@[simp] theorem State.onRed_cim (f : Red → Red) (s : State) : (s.onRed f).cim = s.cim := rfl
@[simp] theorem State.onRed_fleet (f : Red → Red) (s : State) : (s.onRed f).fleet = s.fleet := rfl
@[simp] theorem State.onRed_nvm (f : Red → Red) (s : State) : (s.onRed f).nvm = s.nvm := rfl
@[simp] theorem State.onRed_log (f : Red → Red) (s : State) : (s.onRed f).log = s.log := rfl
@[simp] theorem State.onRed_fence (f : Red → Red) (s : State) : (s.onRed f).fence = s.fence := rfl
@[simp] theorem State.onRed_mgmt (f : Red → Red) (s : State) : (s.onRed f).mgmt = s.mgmt := rfl
@[simp] theorem State.onRed_jtag (f : Red → Red) (s : State) : (s.onRed f).jtag = s.jtag := rfl
@[simp] theorem State.onRed_out (f : Red → Red) (s : State) : (s.onRed f).out = s.out := rfl
@[simp] theorem State.onRed_free (f : Red → Red) (s : State) : (s.onRed f).free = s.free := rfl
@[simp] theorem State.onRed_pending (f : Red → Red) (s : State) : (s.onRed f).pending = s.pending := rfl

@[simp] theorem State.onCore_ao (f : Cores → Cores) (s : State) : (s.onCore f).ao = s.ao := rfl
@[simp] theorem State.onCore_boot (f : Cores → Cores) (s : State) : (s.onCore f).boot = s.boot := rfl
@[simp] theorem State.onCore_host (f : Cores → Cores) (s : State) : (s.onCore f).host = s.host := rfl
@[simp] theorem State.onCore_hws (f : Cores → Cores) (s : State) : (s.onCore f).hws = s.hws := rfl
@[simp] theorem State.onCore_tw (f : Cores → Cores) (s : State) : (s.onCore f).tw = s.tw := rfl
@[simp] theorem State.onCore_time (f : Cores → Cores) (s : State) : (s.onCore f).time = s.time := rfl
@[simp] theorem State.onCore_pwr (f : Cores → Cores) (s : State) : (s.onCore f).pwr = s.pwr := rfl
@[simp] theorem State.onCore_q (f : Cores → Cores) (s : State) : (s.onCore f).q = s.q := rfl
@[simp] theorem State.onCore_part (f : Cores → Cores) (s : State) : (s.onCore f).part = s.part := rfl
@[simp] theorem State.onCore_obj (f : Cores → Cores) (s : State) : (s.onCore f).obj = s.obj := rfl
@[simp] theorem State.onCore_sync (f : Cores → Cores) (s : State) : (s.onCore f).sync = s.sync := rfl
@[simp] theorem State.onCore_red (f : Cores → Cores) (s : State) : (s.onCore f).red = s.red := rfl
@[simp] theorem State.onCore_core (f : Cores → Cores) (s : State) : (s.onCore f).core = f s.core := rfl
@[simp] theorem State.onCore_work (f : Cores → Cores) (s : State) : (s.onCore f).work = s.work := rfl
@[simp] theorem State.onCore_mem (f : Cores → Cores) (s : State) : (s.onCore f).mem = s.mem := rfl
@[simp] theorem State.onCore_cim (f : Cores → Cores) (s : State) : (s.onCore f).cim = s.cim := rfl
@[simp] theorem State.onCore_fleet (f : Cores → Cores) (s : State) : (s.onCore f).fleet = s.fleet := rfl
@[simp] theorem State.onCore_nvm (f : Cores → Cores) (s : State) : (s.onCore f).nvm = s.nvm := rfl
@[simp] theorem State.onCore_log (f : Cores → Cores) (s : State) : (s.onCore f).log = s.log := rfl
@[simp] theorem State.onCore_fence (f : Cores → Cores) (s : State) : (s.onCore f).fence = s.fence := rfl
@[simp] theorem State.onCore_mgmt (f : Cores → Cores) (s : State) : (s.onCore f).mgmt = s.mgmt := rfl
@[simp] theorem State.onCore_jtag (f : Cores → Cores) (s : State) : (s.onCore f).jtag = s.jtag := rfl
@[simp] theorem State.onCore_out (f : Cores → Cores) (s : State) : (s.onCore f).out = s.out := rfl
@[simp] theorem State.onCore_free (f : Cores → Cores) (s : State) : (s.onCore f).free = s.free := rfl
@[simp] theorem State.onCore_pending (f : Cores → Cores) (s : State) : (s.onCore f).pending = s.pending := rfl

@[simp] theorem State.onWork_ao (f : Work → Work) (s : State) : (s.onWork f).ao = s.ao := rfl
@[simp] theorem State.onWork_boot (f : Work → Work) (s : State) : (s.onWork f).boot = s.boot := rfl
@[simp] theorem State.onWork_host (f : Work → Work) (s : State) : (s.onWork f).host = s.host := rfl
@[simp] theorem State.onWork_hws (f : Work → Work) (s : State) : (s.onWork f).hws = s.hws := rfl
@[simp] theorem State.onWork_tw (f : Work → Work) (s : State) : (s.onWork f).tw = s.tw := rfl
@[simp] theorem State.onWork_time (f : Work → Work) (s : State) : (s.onWork f).time = s.time := rfl
@[simp] theorem State.onWork_pwr (f : Work → Work) (s : State) : (s.onWork f).pwr = s.pwr := rfl
@[simp] theorem State.onWork_q (f : Work → Work) (s : State) : (s.onWork f).q = s.q := rfl
@[simp] theorem State.onWork_part (f : Work → Work) (s : State) : (s.onWork f).part = s.part := rfl
@[simp] theorem State.onWork_obj (f : Work → Work) (s : State) : (s.onWork f).obj = s.obj := rfl
@[simp] theorem State.onWork_sync (f : Work → Work) (s : State) : (s.onWork f).sync = s.sync := rfl
@[simp] theorem State.onWork_red (f : Work → Work) (s : State) : (s.onWork f).red = s.red := rfl
@[simp] theorem State.onWork_core (f : Work → Work) (s : State) : (s.onWork f).core = s.core := rfl
@[simp] theorem State.onWork_work (f : Work → Work) (s : State) : (s.onWork f).work = f s.work := rfl
@[simp] theorem State.onWork_mem (f : Work → Work) (s : State) : (s.onWork f).mem = s.mem := rfl
@[simp] theorem State.onWork_cim (f : Work → Work) (s : State) : (s.onWork f).cim = s.cim := rfl
@[simp] theorem State.onWork_fleet (f : Work → Work) (s : State) : (s.onWork f).fleet = s.fleet := rfl
@[simp] theorem State.onWork_nvm (f : Work → Work) (s : State) : (s.onWork f).nvm = s.nvm := rfl
@[simp] theorem State.onWork_log (f : Work → Work) (s : State) : (s.onWork f).log = s.log := rfl
@[simp] theorem State.onWork_fence (f : Work → Work) (s : State) : (s.onWork f).fence = s.fence := rfl
@[simp] theorem State.onWork_mgmt (f : Work → Work) (s : State) : (s.onWork f).mgmt = s.mgmt := rfl
@[simp] theorem State.onWork_jtag (f : Work → Work) (s : State) : (s.onWork f).jtag = s.jtag := rfl
@[simp] theorem State.onWork_out (f : Work → Work) (s : State) : (s.onWork f).out = s.out := rfl
@[simp] theorem State.onWork_free (f : Work → Work) (s : State) : (s.onWork f).free = s.free := rfl
@[simp] theorem State.onWork_pending (f : Work → Work) (s : State) : (s.onWork f).pending = s.pending := rfl

@[simp] theorem State.onMem_ao (f : Mem → Mem) (s : State) : (s.onMem f).ao = s.ao := rfl
@[simp] theorem State.onMem_boot (f : Mem → Mem) (s : State) : (s.onMem f).boot = s.boot := rfl
@[simp] theorem State.onMem_host (f : Mem → Mem) (s : State) : (s.onMem f).host = s.host := rfl
@[simp] theorem State.onMem_hws (f : Mem → Mem) (s : State) : (s.onMem f).hws = s.hws := rfl
@[simp] theorem State.onMem_tw (f : Mem → Mem) (s : State) : (s.onMem f).tw = s.tw := rfl
@[simp] theorem State.onMem_time (f : Mem → Mem) (s : State) : (s.onMem f).time = s.time := rfl
@[simp] theorem State.onMem_pwr (f : Mem → Mem) (s : State) : (s.onMem f).pwr = s.pwr := rfl
@[simp] theorem State.onMem_q (f : Mem → Mem) (s : State) : (s.onMem f).q = s.q := rfl
@[simp] theorem State.onMem_part (f : Mem → Mem) (s : State) : (s.onMem f).part = s.part := rfl
@[simp] theorem State.onMem_obj (f : Mem → Mem) (s : State) : (s.onMem f).obj = s.obj := rfl
@[simp] theorem State.onMem_sync (f : Mem → Mem) (s : State) : (s.onMem f).sync = s.sync := rfl
@[simp] theorem State.onMem_red (f : Mem → Mem) (s : State) : (s.onMem f).red = s.red := rfl
@[simp] theorem State.onMem_core (f : Mem → Mem) (s : State) : (s.onMem f).core = s.core := rfl
@[simp] theorem State.onMem_work (f : Mem → Mem) (s : State) : (s.onMem f).work = s.work := rfl
@[simp] theorem State.onMem_mem (f : Mem → Mem) (s : State) : (s.onMem f).mem = f s.mem := rfl
@[simp] theorem State.onMem_cim (f : Mem → Mem) (s : State) : (s.onMem f).cim = s.cim := rfl
@[simp] theorem State.onMem_fleet (f : Mem → Mem) (s : State) : (s.onMem f).fleet = s.fleet := rfl
@[simp] theorem State.onMem_nvm (f : Mem → Mem) (s : State) : (s.onMem f).nvm = s.nvm := rfl
@[simp] theorem State.onMem_log (f : Mem → Mem) (s : State) : (s.onMem f).log = s.log := rfl
@[simp] theorem State.onMem_fence (f : Mem → Mem) (s : State) : (s.onMem f).fence = s.fence := rfl
@[simp] theorem State.onMem_mgmt (f : Mem → Mem) (s : State) : (s.onMem f).mgmt = s.mgmt := rfl
@[simp] theorem State.onMem_jtag (f : Mem → Mem) (s : State) : (s.onMem f).jtag = s.jtag := rfl
@[simp] theorem State.onMem_out (f : Mem → Mem) (s : State) : (s.onMem f).out = s.out := rfl
@[simp] theorem State.onMem_free (f : Mem → Mem) (s : State) : (s.onMem f).free = s.free := rfl
@[simp] theorem State.onMem_pending (f : Mem → Mem) (s : State) : (s.onMem f).pending = s.pending := rfl

@[simp] theorem State.onCim_ao (f : Cim → Cim) (s : State) : (s.onCim f).ao = s.ao := rfl
@[simp] theorem State.onCim_boot (f : Cim → Cim) (s : State) : (s.onCim f).boot = s.boot := rfl
@[simp] theorem State.onCim_host (f : Cim → Cim) (s : State) : (s.onCim f).host = s.host := rfl
@[simp] theorem State.onCim_hws (f : Cim → Cim) (s : State) : (s.onCim f).hws = s.hws := rfl
@[simp] theorem State.onCim_tw (f : Cim → Cim) (s : State) : (s.onCim f).tw = s.tw := rfl
@[simp] theorem State.onCim_time (f : Cim → Cim) (s : State) : (s.onCim f).time = s.time := rfl
@[simp] theorem State.onCim_pwr (f : Cim → Cim) (s : State) : (s.onCim f).pwr = s.pwr := rfl
@[simp] theorem State.onCim_q (f : Cim → Cim) (s : State) : (s.onCim f).q = s.q := rfl
@[simp] theorem State.onCim_part (f : Cim → Cim) (s : State) : (s.onCim f).part = s.part := rfl
@[simp] theorem State.onCim_obj (f : Cim → Cim) (s : State) : (s.onCim f).obj = s.obj := rfl
@[simp] theorem State.onCim_sync (f : Cim → Cim) (s : State) : (s.onCim f).sync = s.sync := rfl
@[simp] theorem State.onCim_red (f : Cim → Cim) (s : State) : (s.onCim f).red = s.red := rfl
@[simp] theorem State.onCim_core (f : Cim → Cim) (s : State) : (s.onCim f).core = s.core := rfl
@[simp] theorem State.onCim_work (f : Cim → Cim) (s : State) : (s.onCim f).work = s.work := rfl
@[simp] theorem State.onCim_mem (f : Cim → Cim) (s : State) : (s.onCim f).mem = s.mem := rfl
@[simp] theorem State.onCim_cim (f : Cim → Cim) (s : State) : (s.onCim f).cim = f s.cim := rfl
@[simp] theorem State.onCim_fleet (f : Cim → Cim) (s : State) : (s.onCim f).fleet = s.fleet := rfl
@[simp] theorem State.onCim_nvm (f : Cim → Cim) (s : State) : (s.onCim f).nvm = s.nvm := rfl
@[simp] theorem State.onCim_log (f : Cim → Cim) (s : State) : (s.onCim f).log = s.log := rfl
@[simp] theorem State.onCim_fence (f : Cim → Cim) (s : State) : (s.onCim f).fence = s.fence := rfl
@[simp] theorem State.onCim_mgmt (f : Cim → Cim) (s : State) : (s.onCim f).mgmt = s.mgmt := rfl
@[simp] theorem State.onCim_jtag (f : Cim → Cim) (s : State) : (s.onCim f).jtag = s.jtag := rfl
@[simp] theorem State.onCim_out (f : Cim → Cim) (s : State) : (s.onCim f).out = s.out := rfl
@[simp] theorem State.onCim_free (f : Cim → Cim) (s : State) : (s.onCim f).free = s.free := rfl
@[simp] theorem State.onCim_pending (f : Cim → Cim) (s : State) : (s.onCim f).pending = s.pending := rfl

@[simp] theorem State.onFleet_ao (f : Fleet → Fleet) (s : State) : (s.onFleet f).ao = s.ao := rfl
@[simp] theorem State.onFleet_boot (f : Fleet → Fleet) (s : State) : (s.onFleet f).boot = s.boot := rfl
@[simp] theorem State.onFleet_host (f : Fleet → Fleet) (s : State) : (s.onFleet f).host = s.host := rfl
@[simp] theorem State.onFleet_hws (f : Fleet → Fleet) (s : State) : (s.onFleet f).hws = s.hws := rfl
@[simp] theorem State.onFleet_tw (f : Fleet → Fleet) (s : State) : (s.onFleet f).tw = s.tw := rfl
@[simp] theorem State.onFleet_time (f : Fleet → Fleet) (s : State) : (s.onFleet f).time = s.time := rfl
@[simp] theorem State.onFleet_pwr (f : Fleet → Fleet) (s : State) : (s.onFleet f).pwr = s.pwr := rfl
@[simp] theorem State.onFleet_q (f : Fleet → Fleet) (s : State) : (s.onFleet f).q = s.q := rfl
@[simp] theorem State.onFleet_part (f : Fleet → Fleet) (s : State) : (s.onFleet f).part = s.part := rfl
@[simp] theorem State.onFleet_obj (f : Fleet → Fleet) (s : State) : (s.onFleet f).obj = s.obj := rfl
@[simp] theorem State.onFleet_sync (f : Fleet → Fleet) (s : State) : (s.onFleet f).sync = s.sync := rfl
@[simp] theorem State.onFleet_red (f : Fleet → Fleet) (s : State) : (s.onFleet f).red = s.red := rfl
@[simp] theorem State.onFleet_core (f : Fleet → Fleet) (s : State) : (s.onFleet f).core = s.core := rfl
@[simp] theorem State.onFleet_work (f : Fleet → Fleet) (s : State) : (s.onFleet f).work = s.work := rfl
@[simp] theorem State.onFleet_mem (f : Fleet → Fleet) (s : State) : (s.onFleet f).mem = s.mem := rfl
@[simp] theorem State.onFleet_cim (f : Fleet → Fleet) (s : State) : (s.onFleet f).cim = s.cim := rfl
@[simp] theorem State.onFleet_fleet (f : Fleet → Fleet) (s : State) : (s.onFleet f).fleet = f s.fleet := rfl
@[simp] theorem State.onFleet_nvm (f : Fleet → Fleet) (s : State) : (s.onFleet f).nvm = s.nvm := rfl
@[simp] theorem State.onFleet_log (f : Fleet → Fleet) (s : State) : (s.onFleet f).log = s.log := rfl
@[simp] theorem State.onFleet_fence (f : Fleet → Fleet) (s : State) : (s.onFleet f).fence = s.fence := rfl
@[simp] theorem State.onFleet_mgmt (f : Fleet → Fleet) (s : State) : (s.onFleet f).mgmt = s.mgmt := rfl
@[simp] theorem State.onFleet_jtag (f : Fleet → Fleet) (s : State) : (s.onFleet f).jtag = s.jtag := rfl
@[simp] theorem State.onFleet_out (f : Fleet → Fleet) (s : State) : (s.onFleet f).out = s.out := rfl
@[simp] theorem State.onFleet_free (f : Fleet → Fleet) (s : State) : (s.onFleet f).free = s.free := rfl
@[simp] theorem State.onFleet_pending (f : Fleet → Fleet) (s : State) : (s.onFleet f).pending = s.pending := rfl

@[simp] theorem State.onNvm_ao (f : Nvm → Nvm) (s : State) : (s.onNvm f).ao = s.ao := rfl
@[simp] theorem State.onNvm_boot (f : Nvm → Nvm) (s : State) : (s.onNvm f).boot = s.boot := rfl
@[simp] theorem State.onNvm_host (f : Nvm → Nvm) (s : State) : (s.onNvm f).host = s.host := rfl
@[simp] theorem State.onNvm_hws (f : Nvm → Nvm) (s : State) : (s.onNvm f).hws = s.hws := rfl
@[simp] theorem State.onNvm_tw (f : Nvm → Nvm) (s : State) : (s.onNvm f).tw = s.tw := rfl
@[simp] theorem State.onNvm_time (f : Nvm → Nvm) (s : State) : (s.onNvm f).time = s.time := rfl
@[simp] theorem State.onNvm_pwr (f : Nvm → Nvm) (s : State) : (s.onNvm f).pwr = s.pwr := rfl
@[simp] theorem State.onNvm_q (f : Nvm → Nvm) (s : State) : (s.onNvm f).q = s.q := rfl
@[simp] theorem State.onNvm_part (f : Nvm → Nvm) (s : State) : (s.onNvm f).part = s.part := rfl
@[simp] theorem State.onNvm_obj (f : Nvm → Nvm) (s : State) : (s.onNvm f).obj = s.obj := rfl
@[simp] theorem State.onNvm_sync (f : Nvm → Nvm) (s : State) : (s.onNvm f).sync = s.sync := rfl
@[simp] theorem State.onNvm_red (f : Nvm → Nvm) (s : State) : (s.onNvm f).red = s.red := rfl
@[simp] theorem State.onNvm_core (f : Nvm → Nvm) (s : State) : (s.onNvm f).core = s.core := rfl
@[simp] theorem State.onNvm_work (f : Nvm → Nvm) (s : State) : (s.onNvm f).work = s.work := rfl
@[simp] theorem State.onNvm_mem (f : Nvm → Nvm) (s : State) : (s.onNvm f).mem = s.mem := rfl
@[simp] theorem State.onNvm_cim (f : Nvm → Nvm) (s : State) : (s.onNvm f).cim = s.cim := rfl
@[simp] theorem State.onNvm_fleet (f : Nvm → Nvm) (s : State) : (s.onNvm f).fleet = s.fleet := rfl
@[simp] theorem State.onNvm_nvm (f : Nvm → Nvm) (s : State) : (s.onNvm f).nvm = f s.nvm := rfl
@[simp] theorem State.onNvm_log (f : Nvm → Nvm) (s : State) : (s.onNvm f).log = s.log := rfl
@[simp] theorem State.onNvm_fence (f : Nvm → Nvm) (s : State) : (s.onNvm f).fence = s.fence := rfl
@[simp] theorem State.onNvm_mgmt (f : Nvm → Nvm) (s : State) : (s.onNvm f).mgmt = s.mgmt := rfl
@[simp] theorem State.onNvm_jtag (f : Nvm → Nvm) (s : State) : (s.onNvm f).jtag = s.jtag := rfl
@[simp] theorem State.onNvm_out (f : Nvm → Nvm) (s : State) : (s.onNvm f).out = s.out := rfl
@[simp] theorem State.onNvm_free (f : Nvm → Nvm) (s : State) : (s.onNvm f).free = s.free := rfl
@[simp] theorem State.onNvm_pending (f : Nvm → Nvm) (s : State) : (s.onNvm f).pending = s.pending := rfl

@[simp] theorem State.onLog_ao (f : LogBlk → LogBlk) (s : State) : (s.onLog f).ao = s.ao := rfl
@[simp] theorem State.onLog_boot (f : LogBlk → LogBlk) (s : State) : (s.onLog f).boot = s.boot := rfl
@[simp] theorem State.onLog_host (f : LogBlk → LogBlk) (s : State) : (s.onLog f).host = s.host := rfl
@[simp] theorem State.onLog_hws (f : LogBlk → LogBlk) (s : State) : (s.onLog f).hws = s.hws := rfl
@[simp] theorem State.onLog_tw (f : LogBlk → LogBlk) (s : State) : (s.onLog f).tw = s.tw := rfl
@[simp] theorem State.onLog_time (f : LogBlk → LogBlk) (s : State) : (s.onLog f).time = s.time := rfl
@[simp] theorem State.onLog_pwr (f : LogBlk → LogBlk) (s : State) : (s.onLog f).pwr = s.pwr := rfl
@[simp] theorem State.onLog_q (f : LogBlk → LogBlk) (s : State) : (s.onLog f).q = s.q := rfl
@[simp] theorem State.onLog_part (f : LogBlk → LogBlk) (s : State) : (s.onLog f).part = s.part := rfl
@[simp] theorem State.onLog_obj (f : LogBlk → LogBlk) (s : State) : (s.onLog f).obj = s.obj := rfl
@[simp] theorem State.onLog_sync (f : LogBlk → LogBlk) (s : State) : (s.onLog f).sync = s.sync := rfl
@[simp] theorem State.onLog_red (f : LogBlk → LogBlk) (s : State) : (s.onLog f).red = s.red := rfl
@[simp] theorem State.onLog_core (f : LogBlk → LogBlk) (s : State) : (s.onLog f).core = s.core := rfl
@[simp] theorem State.onLog_work (f : LogBlk → LogBlk) (s : State) : (s.onLog f).work = s.work := rfl
@[simp] theorem State.onLog_mem (f : LogBlk → LogBlk) (s : State) : (s.onLog f).mem = s.mem := rfl
@[simp] theorem State.onLog_cim (f : LogBlk → LogBlk) (s : State) : (s.onLog f).cim = s.cim := rfl
@[simp] theorem State.onLog_fleet (f : LogBlk → LogBlk) (s : State) : (s.onLog f).fleet = s.fleet := rfl
@[simp] theorem State.onLog_nvm (f : LogBlk → LogBlk) (s : State) : (s.onLog f).nvm = s.nvm := rfl
@[simp] theorem State.onLog_log (f : LogBlk → LogBlk) (s : State) : (s.onLog f).log = f s.log := rfl
@[simp] theorem State.onLog_fence (f : LogBlk → LogBlk) (s : State) : (s.onLog f).fence = s.fence := rfl
@[simp] theorem State.onLog_mgmt (f : LogBlk → LogBlk) (s : State) : (s.onLog f).mgmt = s.mgmt := rfl
@[simp] theorem State.onLog_jtag (f : LogBlk → LogBlk) (s : State) : (s.onLog f).jtag = s.jtag := rfl
@[simp] theorem State.onLog_out (f : LogBlk → LogBlk) (s : State) : (s.onLog f).out = s.out := rfl
@[simp] theorem State.onLog_free (f : LogBlk → LogBlk) (s : State) : (s.onLog f).free = s.free := rfl
@[simp] theorem State.onLog_pending (f : LogBlk → LogBlk) (s : State) : (s.onLog f).pending = s.pending := rfl

@[simp] theorem State.onFence_ao (f : Fence → Fence) (s : State) : (s.onFence f).ao = s.ao := rfl
@[simp] theorem State.onFence_boot (f : Fence → Fence) (s : State) : (s.onFence f).boot = s.boot := rfl
@[simp] theorem State.onFence_host (f : Fence → Fence) (s : State) : (s.onFence f).host = s.host := rfl
@[simp] theorem State.onFence_hws (f : Fence → Fence) (s : State) : (s.onFence f).hws = s.hws := rfl
@[simp] theorem State.onFence_tw (f : Fence → Fence) (s : State) : (s.onFence f).tw = s.tw := rfl
@[simp] theorem State.onFence_time (f : Fence → Fence) (s : State) : (s.onFence f).time = s.time := rfl
@[simp] theorem State.onFence_pwr (f : Fence → Fence) (s : State) : (s.onFence f).pwr = s.pwr := rfl
@[simp] theorem State.onFence_q (f : Fence → Fence) (s : State) : (s.onFence f).q = s.q := rfl
@[simp] theorem State.onFence_part (f : Fence → Fence) (s : State) : (s.onFence f).part = s.part := rfl
@[simp] theorem State.onFence_obj (f : Fence → Fence) (s : State) : (s.onFence f).obj = s.obj := rfl
@[simp] theorem State.onFence_sync (f : Fence → Fence) (s : State) : (s.onFence f).sync = s.sync := rfl
@[simp] theorem State.onFence_red (f : Fence → Fence) (s : State) : (s.onFence f).red = s.red := rfl
@[simp] theorem State.onFence_core (f : Fence → Fence) (s : State) : (s.onFence f).core = s.core := rfl
@[simp] theorem State.onFence_work (f : Fence → Fence) (s : State) : (s.onFence f).work = s.work := rfl
@[simp] theorem State.onFence_mem (f : Fence → Fence) (s : State) : (s.onFence f).mem = s.mem := rfl
@[simp] theorem State.onFence_cim (f : Fence → Fence) (s : State) : (s.onFence f).cim = s.cim := rfl
@[simp] theorem State.onFence_fleet (f : Fence → Fence) (s : State) : (s.onFence f).fleet = s.fleet := rfl
@[simp] theorem State.onFence_nvm (f : Fence → Fence) (s : State) : (s.onFence f).nvm = s.nvm := rfl
@[simp] theorem State.onFence_log (f : Fence → Fence) (s : State) : (s.onFence f).log = s.log := rfl
@[simp] theorem State.onFence_fence (f : Fence → Fence) (s : State) : (s.onFence f).fence = f s.fence := rfl
@[simp] theorem State.onFence_mgmt (f : Fence → Fence) (s : State) : (s.onFence f).mgmt = s.mgmt := rfl
@[simp] theorem State.onFence_jtag (f : Fence → Fence) (s : State) : (s.onFence f).jtag = s.jtag := rfl
@[simp] theorem State.onFence_out (f : Fence → Fence) (s : State) : (s.onFence f).out = s.out := rfl
@[simp] theorem State.onFence_free (f : Fence → Fence) (s : State) : (s.onFence f).free = s.free := rfl
@[simp] theorem State.onFence_pending (f : Fence → Fence) (s : State) : (s.onFence f).pending = s.pending := rfl

@[simp] theorem State.onMgmt_ao (f : Mgmt → Mgmt) (s : State) : (s.onMgmt f).ao = s.ao := rfl
@[simp] theorem State.onMgmt_boot (f : Mgmt → Mgmt) (s : State) : (s.onMgmt f).boot = s.boot := rfl
@[simp] theorem State.onMgmt_host (f : Mgmt → Mgmt) (s : State) : (s.onMgmt f).host = s.host := rfl
@[simp] theorem State.onMgmt_hws (f : Mgmt → Mgmt) (s : State) : (s.onMgmt f).hws = s.hws := rfl
@[simp] theorem State.onMgmt_tw (f : Mgmt → Mgmt) (s : State) : (s.onMgmt f).tw = s.tw := rfl
@[simp] theorem State.onMgmt_time (f : Mgmt → Mgmt) (s : State) : (s.onMgmt f).time = s.time := rfl
@[simp] theorem State.onMgmt_pwr (f : Mgmt → Mgmt) (s : State) : (s.onMgmt f).pwr = s.pwr := rfl
@[simp] theorem State.onMgmt_q (f : Mgmt → Mgmt) (s : State) : (s.onMgmt f).q = s.q := rfl
@[simp] theorem State.onMgmt_part (f : Mgmt → Mgmt) (s : State) : (s.onMgmt f).part = s.part := rfl
@[simp] theorem State.onMgmt_obj (f : Mgmt → Mgmt) (s : State) : (s.onMgmt f).obj = s.obj := rfl
@[simp] theorem State.onMgmt_sync (f : Mgmt → Mgmt) (s : State) : (s.onMgmt f).sync = s.sync := rfl
@[simp] theorem State.onMgmt_red (f : Mgmt → Mgmt) (s : State) : (s.onMgmt f).red = s.red := rfl
@[simp] theorem State.onMgmt_core (f : Mgmt → Mgmt) (s : State) : (s.onMgmt f).core = s.core := rfl
@[simp] theorem State.onMgmt_work (f : Mgmt → Mgmt) (s : State) : (s.onMgmt f).work = s.work := rfl
@[simp] theorem State.onMgmt_mem (f : Mgmt → Mgmt) (s : State) : (s.onMgmt f).mem = s.mem := rfl
@[simp] theorem State.onMgmt_cim (f : Mgmt → Mgmt) (s : State) : (s.onMgmt f).cim = s.cim := rfl
@[simp] theorem State.onMgmt_fleet (f : Mgmt → Mgmt) (s : State) : (s.onMgmt f).fleet = s.fleet := rfl
@[simp] theorem State.onMgmt_nvm (f : Mgmt → Mgmt) (s : State) : (s.onMgmt f).nvm = s.nvm := rfl
@[simp] theorem State.onMgmt_log (f : Mgmt → Mgmt) (s : State) : (s.onMgmt f).log = s.log := rfl
@[simp] theorem State.onMgmt_fence (f : Mgmt → Mgmt) (s : State) : (s.onMgmt f).fence = s.fence := rfl
@[simp] theorem State.onMgmt_mgmt (f : Mgmt → Mgmt) (s : State) : (s.onMgmt f).mgmt = f s.mgmt := rfl
@[simp] theorem State.onMgmt_jtag (f : Mgmt → Mgmt) (s : State) : (s.onMgmt f).jtag = s.jtag := rfl
@[simp] theorem State.onMgmt_out (f : Mgmt → Mgmt) (s : State) : (s.onMgmt f).out = s.out := rfl
@[simp] theorem State.onMgmt_free (f : Mgmt → Mgmt) (s : State) : (s.onMgmt f).free = s.free := rfl
@[simp] theorem State.onMgmt_pending (f : Mgmt → Mgmt) (s : State) : (s.onMgmt f).pending = s.pending := rfl

@[simp] theorem State.onJtag_ao (f : Jtag → Jtag) (s : State) : (s.onJtag f).ao = s.ao := rfl
@[simp] theorem State.onJtag_boot (f : Jtag → Jtag) (s : State) : (s.onJtag f).boot = s.boot := rfl
@[simp] theorem State.onJtag_host (f : Jtag → Jtag) (s : State) : (s.onJtag f).host = s.host := rfl
@[simp] theorem State.onJtag_hws (f : Jtag → Jtag) (s : State) : (s.onJtag f).hws = s.hws := rfl
@[simp] theorem State.onJtag_tw (f : Jtag → Jtag) (s : State) : (s.onJtag f).tw = s.tw := rfl
@[simp] theorem State.onJtag_time (f : Jtag → Jtag) (s : State) : (s.onJtag f).time = s.time := rfl
@[simp] theorem State.onJtag_pwr (f : Jtag → Jtag) (s : State) : (s.onJtag f).pwr = s.pwr := rfl
@[simp] theorem State.onJtag_q (f : Jtag → Jtag) (s : State) : (s.onJtag f).q = s.q := rfl
@[simp] theorem State.onJtag_part (f : Jtag → Jtag) (s : State) : (s.onJtag f).part = s.part := rfl
@[simp] theorem State.onJtag_obj (f : Jtag → Jtag) (s : State) : (s.onJtag f).obj = s.obj := rfl
@[simp] theorem State.onJtag_sync (f : Jtag → Jtag) (s : State) : (s.onJtag f).sync = s.sync := rfl
@[simp] theorem State.onJtag_red (f : Jtag → Jtag) (s : State) : (s.onJtag f).red = s.red := rfl
@[simp] theorem State.onJtag_core (f : Jtag → Jtag) (s : State) : (s.onJtag f).core = s.core := rfl
@[simp] theorem State.onJtag_work (f : Jtag → Jtag) (s : State) : (s.onJtag f).work = s.work := rfl
@[simp] theorem State.onJtag_mem (f : Jtag → Jtag) (s : State) : (s.onJtag f).mem = s.mem := rfl
@[simp] theorem State.onJtag_cim (f : Jtag → Jtag) (s : State) : (s.onJtag f).cim = s.cim := rfl
@[simp] theorem State.onJtag_fleet (f : Jtag → Jtag) (s : State) : (s.onJtag f).fleet = s.fleet := rfl
@[simp] theorem State.onJtag_nvm (f : Jtag → Jtag) (s : State) : (s.onJtag f).nvm = s.nvm := rfl
@[simp] theorem State.onJtag_log (f : Jtag → Jtag) (s : State) : (s.onJtag f).log = s.log := rfl
@[simp] theorem State.onJtag_fence (f : Jtag → Jtag) (s : State) : (s.onJtag f).fence = s.fence := rfl
@[simp] theorem State.onJtag_mgmt (f : Jtag → Jtag) (s : State) : (s.onJtag f).mgmt = s.mgmt := rfl
@[simp] theorem State.onJtag_jtag (f : Jtag → Jtag) (s : State) : (s.onJtag f).jtag = f s.jtag := rfl
@[simp] theorem State.onJtag_out (f : Jtag → Jtag) (s : State) : (s.onJtag f).out = s.out := rfl
@[simp] theorem State.onJtag_free (f : Jtag → Jtag) (s : State) : (s.onJtag f).free = s.free := rfl
@[simp] theorem State.onJtag_pending (f : Jtag → Jtag) (s : State) : (s.onJtag f).pending = s.pending := rfl

@[simp] theorem State.onOut_ao (f : (List Output) → List Output) (s : State) : (s.onOut f).ao = s.ao := rfl
@[simp] theorem State.onOut_boot (f : (List Output) → List Output) (s : State) : (s.onOut f).boot = s.boot := rfl
@[simp] theorem State.onOut_host (f : (List Output) → List Output) (s : State) : (s.onOut f).host = s.host := rfl
@[simp] theorem State.onOut_hws (f : (List Output) → List Output) (s : State) : (s.onOut f).hws = s.hws := rfl
@[simp] theorem State.onOut_tw (f : (List Output) → List Output) (s : State) : (s.onOut f).tw = s.tw := rfl
@[simp] theorem State.onOut_time (f : (List Output) → List Output) (s : State) : (s.onOut f).time = s.time := rfl
@[simp] theorem State.onOut_pwr (f : (List Output) → List Output) (s : State) : (s.onOut f).pwr = s.pwr := rfl
@[simp] theorem State.onOut_q (f : (List Output) → List Output) (s : State) : (s.onOut f).q = s.q := rfl
@[simp] theorem State.onOut_part (f : (List Output) → List Output) (s : State) : (s.onOut f).part = s.part := rfl
@[simp] theorem State.onOut_obj (f : (List Output) → List Output) (s : State) : (s.onOut f).obj = s.obj := rfl
@[simp] theorem State.onOut_sync (f : (List Output) → List Output) (s : State) : (s.onOut f).sync = s.sync := rfl
@[simp] theorem State.onOut_red (f : (List Output) → List Output) (s : State) : (s.onOut f).red = s.red := rfl
@[simp] theorem State.onOut_core (f : (List Output) → List Output) (s : State) : (s.onOut f).core = s.core := rfl
@[simp] theorem State.onOut_work (f : (List Output) → List Output) (s : State) : (s.onOut f).work = s.work := rfl
@[simp] theorem State.onOut_mem (f : (List Output) → List Output) (s : State) : (s.onOut f).mem = s.mem := rfl
@[simp] theorem State.onOut_cim (f : (List Output) → List Output) (s : State) : (s.onOut f).cim = s.cim := rfl
@[simp] theorem State.onOut_fleet (f : (List Output) → List Output) (s : State) : (s.onOut f).fleet = s.fleet := rfl
@[simp] theorem State.onOut_nvm (f : (List Output) → List Output) (s : State) : (s.onOut f).nvm = s.nvm := rfl
@[simp] theorem State.onOut_log (f : (List Output) → List Output) (s : State) : (s.onOut f).log = s.log := rfl
@[simp] theorem State.onOut_fence (f : (List Output) → List Output) (s : State) : (s.onOut f).fence = s.fence := rfl
@[simp] theorem State.onOut_mgmt (f : (List Output) → List Output) (s : State) : (s.onOut f).mgmt = s.mgmt := rfl
@[simp] theorem State.onOut_jtag (f : (List Output) → List Output) (s : State) : (s.onOut f).jtag = s.jtag := rfl
@[simp] theorem State.onOut_out (f : (List Output) → List Output) (s : State) : (s.onOut f).out = f s.out := rfl
@[simp] theorem State.onOut_free (f : (List Output) → List Output) (s : State) : (s.onOut f).free = s.free := rfl
@[simp] theorem State.onOut_pending (f : (List Output) → List Output) (s : State) : (s.onOut f).pending = s.pending := rfl

@[simp] theorem State.onFree_ao (f : Nat → Nat) (s : State) : (s.onFree f).ao = s.ao := rfl
@[simp] theorem State.onFree_boot (f : Nat → Nat) (s : State) : (s.onFree f).boot = s.boot := rfl
@[simp] theorem State.onFree_host (f : Nat → Nat) (s : State) : (s.onFree f).host = s.host := rfl
@[simp] theorem State.onFree_hws (f : Nat → Nat) (s : State) : (s.onFree f).hws = s.hws := rfl
@[simp] theorem State.onFree_tw (f : Nat → Nat) (s : State) : (s.onFree f).tw = s.tw := rfl
@[simp] theorem State.onFree_time (f : Nat → Nat) (s : State) : (s.onFree f).time = s.time := rfl
@[simp] theorem State.onFree_pwr (f : Nat → Nat) (s : State) : (s.onFree f).pwr = s.pwr := rfl
@[simp] theorem State.onFree_q (f : Nat → Nat) (s : State) : (s.onFree f).q = s.q := rfl
@[simp] theorem State.onFree_part (f : Nat → Nat) (s : State) : (s.onFree f).part = s.part := rfl
@[simp] theorem State.onFree_obj (f : Nat → Nat) (s : State) : (s.onFree f).obj = s.obj := rfl
@[simp] theorem State.onFree_sync (f : Nat → Nat) (s : State) : (s.onFree f).sync = s.sync := rfl
@[simp] theorem State.onFree_red (f : Nat → Nat) (s : State) : (s.onFree f).red = s.red := rfl
@[simp] theorem State.onFree_core (f : Nat → Nat) (s : State) : (s.onFree f).core = s.core := rfl
@[simp] theorem State.onFree_work (f : Nat → Nat) (s : State) : (s.onFree f).work = s.work := rfl
@[simp] theorem State.onFree_mem (f : Nat → Nat) (s : State) : (s.onFree f).mem = s.mem := rfl
@[simp] theorem State.onFree_cim (f : Nat → Nat) (s : State) : (s.onFree f).cim = s.cim := rfl
@[simp] theorem State.onFree_fleet (f : Nat → Nat) (s : State) : (s.onFree f).fleet = s.fleet := rfl
@[simp] theorem State.onFree_nvm (f : Nat → Nat) (s : State) : (s.onFree f).nvm = s.nvm := rfl
@[simp] theorem State.onFree_log (f : Nat → Nat) (s : State) : (s.onFree f).log = s.log := rfl
@[simp] theorem State.onFree_fence (f : Nat → Nat) (s : State) : (s.onFree f).fence = s.fence := rfl
@[simp] theorem State.onFree_mgmt (f : Nat → Nat) (s : State) : (s.onFree f).mgmt = s.mgmt := rfl
@[simp] theorem State.onFree_jtag (f : Nat → Nat) (s : State) : (s.onFree f).jtag = s.jtag := rfl
@[simp] theorem State.onFree_out (f : Nat → Nat) (s : State) : (s.onFree f).out = s.out := rfl
@[simp] theorem State.onFree_free (f : Nat → Nat) (s : State) : (s.onFree f).free = f s.free := rfl
@[simp] theorem State.onFree_pending (f : Nat → Nat) (s : State) : (s.onFree f).pending = s.pending := rfl

@[simp] theorem State.onPending_ao (f : (List Instr) → List Instr) (s : State) : (s.onPending f).ao = s.ao := rfl
@[simp] theorem State.onPending_boot (f : (List Instr) → List Instr) (s : State) : (s.onPending f).boot = s.boot := rfl
@[simp] theorem State.onPending_host (f : (List Instr) → List Instr) (s : State) : (s.onPending f).host = s.host := rfl
@[simp] theorem State.onPending_hws (f : (List Instr) → List Instr) (s : State) : (s.onPending f).hws = s.hws := rfl
@[simp] theorem State.onPending_tw (f : (List Instr) → List Instr) (s : State) : (s.onPending f).tw = s.tw := rfl
@[simp] theorem State.onPending_time (f : (List Instr) → List Instr) (s : State) : (s.onPending f).time = s.time := rfl
@[simp] theorem State.onPending_pwr (f : (List Instr) → List Instr) (s : State) : (s.onPending f).pwr = s.pwr := rfl
@[simp] theorem State.onPending_q (f : (List Instr) → List Instr) (s : State) : (s.onPending f).q = s.q := rfl
@[simp] theorem State.onPending_part (f : (List Instr) → List Instr) (s : State) : (s.onPending f).part = s.part := rfl
@[simp] theorem State.onPending_obj (f : (List Instr) → List Instr) (s : State) : (s.onPending f).obj = s.obj := rfl
@[simp] theorem State.onPending_sync (f : (List Instr) → List Instr) (s : State) : (s.onPending f).sync = s.sync := rfl
@[simp] theorem State.onPending_red (f : (List Instr) → List Instr) (s : State) : (s.onPending f).red = s.red := rfl
@[simp] theorem State.onPending_core (f : (List Instr) → List Instr) (s : State) : (s.onPending f).core = s.core := rfl
@[simp] theorem State.onPending_work (f : (List Instr) → List Instr) (s : State) : (s.onPending f).work = s.work := rfl
@[simp] theorem State.onPending_mem (f : (List Instr) → List Instr) (s : State) : (s.onPending f).mem = s.mem := rfl
@[simp] theorem State.onPending_cim (f : (List Instr) → List Instr) (s : State) : (s.onPending f).cim = s.cim := rfl
@[simp] theorem State.onPending_fleet (f : (List Instr) → List Instr) (s : State) : (s.onPending f).fleet = s.fleet := rfl
@[simp] theorem State.onPending_nvm (f : (List Instr) → List Instr) (s : State) : (s.onPending f).nvm = s.nvm := rfl
@[simp] theorem State.onPending_log (f : (List Instr) → List Instr) (s : State) : (s.onPending f).log = s.log := rfl
@[simp] theorem State.onPending_fence (f : (List Instr) → List Instr) (s : State) : (s.onPending f).fence = s.fence := rfl
@[simp] theorem State.onPending_mgmt (f : (List Instr) → List Instr) (s : State) : (s.onPending f).mgmt = s.mgmt := rfl
@[simp] theorem State.onPending_jtag (f : (List Instr) → List Instr) (s : State) : (s.onPending f).jtag = s.jtag := rfl
@[simp] theorem State.onPending_out (f : (List Instr) → List Instr) (s : State) : (s.onPending f).out = s.out := rfl
@[simp] theorem State.onPending_free (f : (List Instr) → List Instr) (s : State) : (s.onPending f).free = s.free := rfl
@[simp] theorem State.onPending_pending (f : (List Instr) → List Instr) (s : State) : (s.onPending f).pending = f s.pending := rfl

end Sys2Proof.Machine
end

