-- ==== Sys2Proof/Laws/Ops.lean ====
section
/-! SUPPORT. What each shared operation leaves alone: one lemma for every unit it does not touch. -/

namespace Sys2Proof.Machine

open Sys2Proof

/-- What every step of a fold keeps, the fold keeps. -/
theorem foldl_keeps {α β : Type} (g : State → β) (f : State → α → State) (h : ∀ t a, g (f t a) = g t) (l : List α)
    (s : State) : g (l.foldl f s) = g s := by
  induction l generalizing s with
  | nil => rfl
  | cons a r ih => simp [ih, h]

@[simp] theorem State.emit_frame (o : Output) (s : State) :
    (s.emit o).ao = s.ao ∧ (s.emit o).boot = s.boot ∧ (s.emit o).host = s.host ∧ (s.emit o).hws = s.hws ∧
    (s.emit o).tw = s.tw ∧ (s.emit o).time = s.time ∧ (s.emit o).pwr = s.pwr ∧ (s.emit o).q = s.q ∧
    (s.emit o).part = s.part ∧ (s.emit o).obj = s.obj ∧ (s.emit o).sync = s.sync ∧ (s.emit o).red = s.red ∧
    (s.emit o).core = s.core ∧ (s.emit o).work = s.work ∧ (s.emit o).mem = s.mem ∧ (s.emit o).cim = s.cim ∧
    (s.emit o).fleet = s.fleet ∧ (s.emit o).nvm = s.nvm ∧ (s.emit o).log = s.log ∧ (s.emit o).fence = s.fence ∧
    (s.emit o).mgmt = s.mgmt ∧ (s.emit o).jtag = s.jtag ∧ (s.emit o).free = s.free ∧
    (s.emit o).pending = s.pending := by
  refine ⟨?_, ?_, ?_, ?_, ?_, ?_, ?_, ?_, ?_, ?_, ?_, ?_, ?_, ?_, ?_, ?_, ?_, ?_, ?_, ?_, ?_, ?_, ?_, ?_⟩ <;> rfl

@[simp] theorem State.msixSend_frame (fn v : Nat) (s : State) :
    (s.msixSend fn v).ao = s.ao ∧ (s.msixSend fn v).boot = s.boot ∧ (s.msixSend fn v).hws = s.hws ∧
    (s.msixSend fn v).tw = s.tw ∧ (s.msixSend fn v).time = s.time ∧ (s.msixSend fn v).pwr = s.pwr ∧
    (s.msixSend fn v).q = s.q ∧ (s.msixSend fn v).part = s.part ∧ (s.msixSend fn v).obj = s.obj ∧
    (s.msixSend fn v).sync = s.sync ∧ (s.msixSend fn v).red = s.red ∧ (s.msixSend fn v).core = s.core ∧
    (s.msixSend fn v).work = s.work ∧ (s.msixSend fn v).mem = s.mem ∧ (s.msixSend fn v).cim = s.cim ∧
    (s.msixSend fn v).fleet = s.fleet ∧ (s.msixSend fn v).nvm = s.nvm ∧ (s.msixSend fn v).log = s.log ∧
    (s.msixSend fn v).fence = s.fence ∧ (s.msixSend fn v).mgmt = s.mgmt ∧ (s.msixSend fn v).jtag = s.jtag ∧
    (s.msixSend fn v).free = s.free ∧ (s.msixSend fn v).pending = s.pending := by
  unfold State.msixSend
  (try dsimp only)
  (repeat' (split <;> try dsimp only)) <;> simp

@[simp] theorem State.raise_frame (k : Nat) (s : State) :
    (s.raise k).ao = s.ao ∧ (s.raise k).boot = s.boot ∧ (s.raise k).hws = s.hws ∧ (s.raise k).tw = s.tw ∧
    (s.raise k).time = s.time ∧ (s.raise k).pwr = s.pwr ∧ (s.raise k).q = s.q ∧ (s.raise k).part = s.part ∧
    (s.raise k).obj = s.obj ∧ (s.raise k).sync = s.sync ∧ (s.raise k).red = s.red ∧ (s.raise k).core = s.core ∧
    (s.raise k).work = s.work ∧ (s.raise k).mem = s.mem ∧ (s.raise k).cim = s.cim ∧ (s.raise k).fleet = s.fleet
    ∧ (s.raise k).nvm = s.nvm ∧ (s.raise k).log = s.log ∧ (s.raise k).fence = s.fence ∧
    (s.raise k).mgmt = s.mgmt ∧ (s.raise k).jtag = s.jtag ∧ (s.raise k).free = s.free ∧
    (s.raise k).pending = s.pending := by
  unfold State.raise
  (try dsimp only)
  (repeat' (split <;> try dsimp only)) <;> simp

@[simp] theorem State.raiseVf_frame (n b : Nat) (s : State) :
    (s.raiseVf n b).ao = s.ao ∧ (s.raiseVf n b).boot = s.boot ∧ (s.raiseVf n b).hws = s.hws ∧
    (s.raiseVf n b).tw = s.tw ∧ (s.raiseVf n b).time = s.time ∧ (s.raiseVf n b).pwr = s.pwr ∧
    (s.raiseVf n b).q = s.q ∧ (s.raiseVf n b).part = s.part ∧ (s.raiseVf n b).obj = s.obj ∧
    (s.raiseVf n b).sync = s.sync ∧ (s.raiseVf n b).red = s.red ∧ (s.raiseVf n b).core = s.core ∧
    (s.raiseVf n b).work = s.work ∧ (s.raiseVf n b).mem = s.mem ∧ (s.raiseVf n b).cim = s.cim ∧
    (s.raiseVf n b).fleet = s.fleet ∧ (s.raiseVf n b).nvm = s.nvm ∧ (s.raiseVf n b).log = s.log ∧
    (s.raiseVf n b).fence = s.fence ∧ (s.raiseVf n b).mgmt = s.mgmt ∧ (s.raiseVf n b).jtag = s.jtag ∧
    (s.raiseVf n b).free = s.free ∧ (s.raiseVf n b).pending = s.pending := by
  unfold State.raiseVf
  (try dsimp only)
  (repeat' (split <;> try dsimp only)) <;> simp

@[simp] theorem State.logOcc_frame (o : Occ) (s : State) :
    (s.logOcc o).ao = s.ao ∧ (s.logOcc o).boot = s.boot ∧ (s.logOcc o).hws = s.hws ∧ (s.logOcc o).tw = s.tw ∧
    (s.logOcc o).time = s.time ∧ (s.logOcc o).pwr = s.pwr ∧ (s.logOcc o).q = s.q ∧ (s.logOcc o).part = s.part ∧
    (s.logOcc o).obj = s.obj ∧ (s.logOcc o).sync = s.sync ∧ (s.logOcc o).red = s.red ∧
    (s.logOcc o).core = s.core ∧ (s.logOcc o).work = s.work ∧ (s.logOcc o).mem = s.mem ∧
    (s.logOcc o).cim = s.cim ∧ (s.logOcc o).fleet = s.fleet ∧ (s.logOcc o).nvm = s.nvm ∧
    (s.logOcc o).fence = s.fence ∧ (s.logOcc o).mgmt = s.mgmt ∧ (s.logOcc o).jtag = s.jtag ∧
    (s.logOcc o).free = s.free ∧ (s.logOcc o).pending = s.pending := by
  unfold State.logOcc
  (try dsimp only)
  (repeat' (split <;> try dsimp only)) <;> simp

@[simp] theorem State.corrected_frame (u : Nat) (s : State) :
    (s.corrected u).ao = s.ao ∧ (s.corrected u).boot = s.boot ∧ (s.corrected u).hws = s.hws ∧
    (s.corrected u).tw = s.tw ∧ (s.corrected u).time = s.time ∧ (s.corrected u).pwr = s.pwr ∧
    (s.corrected u).q = s.q ∧ (s.corrected u).part = s.part ∧ (s.corrected u).obj = s.obj ∧
    (s.corrected u).sync = s.sync ∧ (s.corrected u).red = s.red ∧ (s.corrected u).core = s.core ∧
    (s.corrected u).work = s.work ∧ (s.corrected u).mem = s.mem ∧ (s.corrected u).cim = s.cim ∧
    (s.corrected u).fleet = s.fleet ∧ (s.corrected u).nvm = s.nvm ∧ (s.corrected u).fence = s.fence ∧
    (s.corrected u).mgmt = s.mgmt ∧ (s.corrected u).jtag = s.jtag ∧ (s.corrected u).free = s.free ∧
    (s.corrected u).pending = s.pending := by
  unfold State.corrected
  (try dsimp only)
  (repeat' (split <;> try dsimp only)) <;> simp

@[simp] theorem State.alert_frame (b : Nat) (s : State) :
    (s.alert b).ao = s.ao ∧ (s.alert b).boot = s.boot ∧ (s.alert b).host = s.host ∧ (s.alert b).hws = s.hws ∧
    (s.alert b).time = s.time ∧ (s.alert b).pwr = s.pwr ∧ (s.alert b).q = s.q ∧ (s.alert b).part = s.part ∧
    (s.alert b).obj = s.obj ∧ (s.alert b).sync = s.sync ∧ (s.alert b).red = s.red ∧ (s.alert b).core = s.core ∧
    (s.alert b).work = s.work ∧ (s.alert b).mem = s.mem ∧ (s.alert b).cim = s.cim ∧ (s.alert b).fleet = s.fleet
    ∧ (s.alert b).nvm = s.nvm ∧ (s.alert b).log = s.log ∧ (s.alert b).fence = s.fence ∧
    (s.alert b).mgmt = s.mgmt ∧ (s.alert b).jtag = s.jtag ∧ (s.alert b).out = s.out ∧ (s.alert b).free = s.free
    ∧ (s.alert b).pending = s.pending := by
  refine ⟨?_, ?_, ?_, ?_, ?_, ?_, ?_, ?_, ?_, ?_, ?_, ?_, ?_, ?_, ?_, ?_, ?_, ?_, ?_, ?_, ?_, ?_, ?_, ?_⟩ <;> rfl

@[simp] theorem State.mismatch_frame (e : Nat) (p : Option Nat) (a : DWord) (s : State) :
    (s.mismatch e p a).ao = s.ao ∧ (s.mismatch e p a).boot = s.boot ∧ (s.mismatch e p a).hws = s.hws ∧
    (s.mismatch e p a).time = s.time ∧ (s.mismatch e p a).pwr = s.pwr ∧ (s.mismatch e p a).q = s.q ∧
    (s.mismatch e p a).part = s.part ∧ (s.mismatch e p a).obj = s.obj ∧ (s.mismatch e p a).sync = s.sync ∧
    (s.mismatch e p a).red = s.red ∧ (s.mismatch e p a).core = s.core ∧ (s.mismatch e p a).work = s.work ∧
    (s.mismatch e p a).mem = s.mem ∧ (s.mismatch e p a).cim = s.cim ∧ (s.mismatch e p a).fleet = s.fleet ∧
    (s.mismatch e p a).nvm = s.nvm ∧ (s.mismatch e p a).fence = s.fence ∧ (s.mismatch e p a).mgmt = s.mgmt ∧
    (s.mismatch e p a).jtag = s.jtag ∧ (s.mismatch e p a).free = s.free ∧ (s.mismatch e p a).pending = s.pending := by simp [State.mismatch]

@[simp] theorem State.halt_frame (stage code : Nat) (detail : Word) (s : State) :
    (s.halt stage code detail).ao = s.ao ∧ (s.halt stage code detail).hws = s.hws ∧
    (s.halt stage code detail).tw = s.tw ∧ (s.halt stage code detail).time = s.time ∧
    (s.halt stage code detail).pwr = s.pwr ∧ (s.halt stage code detail).q = s.q ∧
    (s.halt stage code detail).part = s.part ∧ (s.halt stage code detail).obj = s.obj ∧
    (s.halt stage code detail).sync = s.sync ∧ (s.halt stage code detail).red = s.red ∧
    (s.halt stage code detail).core = s.core ∧ (s.halt stage code detail).work = s.work ∧
    (s.halt stage code detail).mem = s.mem ∧ (s.halt stage code detail).cim = s.cim ∧
    (s.halt stage code detail).fleet = s.fleet ∧ (s.halt stage code detail).nvm = s.nvm ∧
    (s.halt stage code detail).fence = s.fence ∧ (s.halt stage code detail).mgmt = s.mgmt ∧
    (s.halt stage code detail).jtag = s.jtag ∧ (s.halt stage code detail).free = s.free ∧
    (s.halt stage code detail).pending = s.pending := by simp [State.halt]

@[simp] theorem State.note_frame (code : Nat) (detail : Word) (s : State) :
    (s.note code detail).ao = s.ao ∧ (s.note code detail).hws = s.hws ∧ (s.note code detail).tw = s.tw ∧
    (s.note code detail).time = s.time ∧ (s.note code detail).pwr = s.pwr ∧ (s.note code detail).q = s.q ∧
    (s.note code detail).part = s.part ∧ (s.note code detail).obj = s.obj ∧ (s.note code detail).sync = s.sync ∧
    (s.note code detail).red = s.red ∧ (s.note code detail).core = s.core ∧ (s.note code detail).work = s.work ∧
    (s.note code detail).mem = s.mem ∧ (s.note code detail).cim = s.cim ∧ (s.note code detail).fleet = s.fleet ∧
    (s.note code detail).nvm = s.nvm ∧ (s.note code detail).fence = s.fence ∧ (s.note code detail).mgmt = s.mgmt
    ∧ (s.note code detail).jtag = s.jtag ∧ (s.note code detail).free = s.free ∧
    (s.note code detail).pending = s.pending := by simp [State.note]

@[simp] theorem State.wake_frame (src rule : Nat) (s : State) :
    (s.wake src rule).ao = s.ao ∧ (s.wake src rule).boot = s.boot ∧ (s.wake src rule).host = s.host ∧
    (s.wake src rule).hws = s.hws ∧ (s.wake src rule).tw = s.tw ∧ (s.wake src rule).time = s.time ∧
    (s.wake src rule).q = s.q ∧ (s.wake src rule).part = s.part ∧ (s.wake src rule).obj = s.obj ∧
    (s.wake src rule).sync = s.sync ∧ (s.wake src rule).red = s.red ∧ (s.wake src rule).core = s.core ∧
    (s.wake src rule).work = s.work ∧ (s.wake src rule).mem = s.mem ∧ (s.wake src rule).cim = s.cim ∧
    (s.wake src rule).fleet = s.fleet ∧ (s.wake src rule).nvm = s.nvm ∧ (s.wake src rule).log = s.log ∧
    (s.wake src rule).fence = s.fence ∧ (s.wake src rule).mgmt = s.mgmt ∧ (s.wake src rule).jtag = s.jtag ∧
    (s.wake src rule).out = s.out ∧ (s.wake src rule).free = s.free ∧ (s.wake src rule).pending = s.pending := by
  unfold State.wake
  (try dsimp only)
  (repeat' (split <;> try dsimp only)) <;> simp

@[simp] theorem State.hostWake_frame (s : State) :
    (s.hostWake).ao = s.ao ∧ (s.hostWake).boot = s.boot ∧ (s.hostWake).host = s.host ∧ (s.hostWake).hws = s.hws
    ∧ (s.hostWake).tw = s.tw ∧ (s.hostWake).time = s.time ∧ (s.hostWake).q = s.q ∧ (s.hostWake).part = s.part ∧
    (s.hostWake).obj = s.obj ∧ (s.hostWake).sync = s.sync ∧ (s.hostWake).red = s.red ∧
    (s.hostWake).core = s.core ∧ (s.hostWake).work = s.work ∧ (s.hostWake).mem = s.mem ∧
    (s.hostWake).cim = s.cim ∧ (s.hostWake).fleet = s.fleet ∧ (s.hostWake).nvm = s.nvm ∧
    (s.hostWake).log = s.log ∧ (s.hostWake).fence = s.fence ∧ (s.hostWake).mgmt = s.mgmt ∧
    (s.hostWake).jtag = s.jtag ∧ (s.hostWake).out = s.out ∧ (s.hostWake).free = s.free ∧
    (s.hostWake).pending = s.pending := by unfold State.hostWake; split <;> simp

@[simp] theorem State.onSlice_frame (n : Nat) (f : Slice → Slice) (s : State) :
    (s.onSlice n f).ao = s.ao ∧ (s.onSlice n f).boot = s.boot ∧ (s.onSlice n f).host = s.host ∧
    (s.onSlice n f).hws = s.hws ∧ (s.onSlice n f).tw = s.tw ∧ (s.onSlice n f).time = s.time ∧
    (s.onSlice n f).q = s.q ∧ (s.onSlice n f).part = s.part ∧ (s.onSlice n f).obj = s.obj ∧
    (s.onSlice n f).sync = s.sync ∧ (s.onSlice n f).red = s.red ∧ (s.onSlice n f).core = s.core ∧
    (s.onSlice n f).work = s.work ∧ (s.onSlice n f).mem = s.mem ∧ (s.onSlice n f).cim = s.cim ∧
    (s.onSlice n f).fleet = s.fleet ∧ (s.onSlice n f).nvm = s.nvm ∧ (s.onSlice n f).log = s.log ∧
    (s.onSlice n f).fence = s.fence ∧ (s.onSlice n f).mgmt = s.mgmt ∧ (s.onSlice n f).jtag = s.jtag ∧
    (s.onSlice n f).out = s.out ∧ (s.onSlice n f).free = s.free ∧ (s.onSlice n f).pending = s.pending := by
  refine ⟨?_, ?_, ?_, ?_, ?_, ?_, ?_, ?_, ?_, ?_, ?_, ?_, ?_, ?_, ?_, ?_, ?_, ?_, ?_, ?_, ?_, ?_, ?_, ?_⟩ <;> rfl

@[simp] theorem State.onDie_frame (d : Nat) (f : Die → Die) (s : State) :
    (s.onDie d f).ao = s.ao ∧ (s.onDie d f).boot = s.boot ∧ (s.onDie d f).host = s.host ∧
    (s.onDie d f).hws = s.hws ∧ (s.onDie d f).tw = s.tw ∧ (s.onDie d f).time = s.time ∧ (s.onDie d f).q = s.q ∧
    (s.onDie d f).part = s.part ∧ (s.onDie d f).obj = s.obj ∧ (s.onDie d f).sync = s.sync ∧
    (s.onDie d f).red = s.red ∧ (s.onDie d f).core = s.core ∧ (s.onDie d f).work = s.work ∧
    (s.onDie d f).mem = s.mem ∧ (s.onDie d f).cim = s.cim ∧ (s.onDie d f).fleet = s.fleet ∧
    (s.onDie d f).nvm = s.nvm ∧ (s.onDie d f).log = s.log ∧ (s.onDie d f).fence = s.fence ∧
    (s.onDie d f).mgmt = s.mgmt ∧ (s.onDie d f).jtag = s.jtag ∧ (s.onDie d f).out = s.out ∧
    (s.onDie d f).free = s.free ∧ (s.onDie d f).pending = s.pending := by
  refine ⟨?_, ?_, ?_, ?_, ?_, ?_, ?_, ?_, ?_, ?_, ?_, ?_, ?_, ?_, ?_, ?_, ?_, ?_, ?_, ?_, ?_, ?_, ?_, ?_⟩ <;> rfl

@[simp] theorem State.pmbSend_frame (d : Nat) (c : PmbCmd) (s : State) :
    (s.pmbSend d c).ao = s.ao ∧ (s.pmbSend d c).boot = s.boot ∧ (s.pmbSend d c).host = s.host ∧
    (s.pmbSend d c).hws = s.hws ∧ (s.pmbSend d c).tw = s.tw ∧ (s.pmbSend d c).time = s.time ∧
    (s.pmbSend d c).pwr = s.pwr ∧ (s.pmbSend d c).q = s.q ∧ (s.pmbSend d c).part = s.part ∧
    (s.pmbSend d c).obj = s.obj ∧ (s.pmbSend d c).sync = s.sync ∧ (s.pmbSend d c).red = s.red ∧
    (s.pmbSend d c).core = s.core ∧ (s.pmbSend d c).work = s.work ∧ (s.pmbSend d c).mem = s.mem ∧
    (s.pmbSend d c).cim = s.cim ∧ (s.pmbSend d c).fleet = s.fleet ∧ (s.pmbSend d c).nvm = s.nvm ∧
    (s.pmbSend d c).log = s.log ∧ (s.pmbSend d c).fence = s.fence ∧ (s.pmbSend d c).mgmt = s.mgmt ∧
    (s.pmbSend d c).jtag = s.jtag ∧ (s.pmbSend d c).free = s.free ∧ (s.pmbSend d c).pending = s.pending := by simp [State.pmbSend]

@[simp] theorem State.pmbAsk_frame (d : Nat) (s : State) :
    (s.pmbAsk d).ao = s.ao ∧ (s.pmbAsk d).boot = s.boot ∧ (s.pmbAsk d).host = s.host ∧ (s.pmbAsk d).hws = s.hws ∧
    (s.pmbAsk d).tw = s.tw ∧ (s.pmbAsk d).time = s.time ∧ (s.pmbAsk d).pwr = s.pwr ∧ (s.pmbAsk d).q = s.q ∧
    (s.pmbAsk d).part = s.part ∧ (s.pmbAsk d).obj = s.obj ∧ (s.pmbAsk d).sync = s.sync ∧ (s.pmbAsk d).red = s.red ∧
    (s.pmbAsk d).core = s.core ∧ (s.pmbAsk d).work = s.work ∧ (s.pmbAsk d).mem = s.mem ∧ (s.pmbAsk d).cim = s.cim ∧
    (s.pmbAsk d).fleet = s.fleet ∧ (s.pmbAsk d).nvm = s.nvm ∧ (s.pmbAsk d).log = s.log ∧
    (s.pmbAsk d).fence = s.fence ∧ (s.pmbAsk d).mgmt = s.mgmt ∧ (s.pmbAsk d).jtag = s.jtag ∧
    (s.pmbAsk d).free = s.free ∧ (s.pmbAsk d).pending = s.pending := by
  unfold State.pmbAsk
  dsimp only
  split <;> simp

@[simp] theorem State.askVolt_frame (d v : Nat) (s : State) :
    (s.askVolt d v).ao = s.ao ∧ (s.askVolt d v).boot = s.boot ∧ (s.askVolt d v).host = s.host ∧
    (s.askVolt d v).hws = s.hws ∧ (s.askVolt d v).tw = s.tw ∧ (s.askVolt d v).time = s.time ∧
    (s.askVolt d v).q = s.q ∧ (s.askVolt d v).part = s.part ∧ (s.askVolt d v).obj = s.obj ∧
    (s.askVolt d v).sync = s.sync ∧ (s.askVolt d v).red = s.red ∧ (s.askVolt d v).core = s.core ∧
    (s.askVolt d v).work = s.work ∧ (s.askVolt d v).mem = s.mem ∧ (s.askVolt d v).cim = s.cim ∧
    (s.askVolt d v).fleet = s.fleet ∧ (s.askVolt d v).nvm = s.nvm ∧ (s.askVolt d v).log = s.log ∧
    (s.askVolt d v).fence = s.fence ∧ (s.askVolt d v).mgmt = s.mgmt ∧ (s.askVolt d v).jtag = s.jtag ∧
    (s.askVolt d v).free = s.free ∧ (s.askVolt d v).pending = s.pending := by
  unfold State.askVolt
  dsimp only
  (repeat' split) <;> simp

@[simp] theorem State.retune_frame (d : Nat) (s : State) :
    (s.retune d).ao = s.ao ∧ (s.retune d).boot = s.boot ∧ (s.retune d).host = s.host ∧ (s.retune d).hws = s.hws ∧
    (s.retune d).tw = s.tw ∧ (s.retune d).time = s.time ∧ (s.retune d).q = s.q ∧ (s.retune d).part = s.part ∧
    (s.retune d).obj = s.obj ∧ (s.retune d).sync = s.sync ∧ (s.retune d).red = s.red ∧ (s.retune d).core = s.core ∧
    (s.retune d).work = s.work ∧ (s.retune d).mem = s.mem ∧ (s.retune d).cim = s.cim ∧
    (s.retune d).fleet = s.fleet ∧ (s.retune d).nvm = s.nvm ∧ (s.retune d).log = s.log ∧
    (s.retune d).fence = s.fence ∧ (s.retune d).mgmt = s.mgmt ∧ (s.retune d).jtag = s.jtag ∧
    (s.retune d).free = s.free ∧ (s.retune d).pending = s.pending := by
  unfold State.retune
  (try dsimp only)
  (repeat' (split <;> try dsimp only)) <;> simp

@[simp] theorem State.pllFollow_frame (d : Nat) (s : State) :
    (s.pllFollow d).ao = s.ao ∧ (s.pllFollow d).boot = s.boot ∧ (s.pllFollow d).host = s.host ∧
    (s.pllFollow d).hws = s.hws ∧ (s.pllFollow d).tw = s.tw ∧ (s.pllFollow d).time = s.time ∧
    (s.pllFollow d).q = s.q ∧ (s.pllFollow d).part = s.part ∧ (s.pllFollow d).obj = s.obj ∧
    (s.pllFollow d).sync = s.sync ∧ (s.pllFollow d).red = s.red ∧ (s.pllFollow d).core = s.core ∧
    (s.pllFollow d).work = s.work ∧ (s.pllFollow d).mem = s.mem ∧ (s.pllFollow d).cim = s.cim ∧
    (s.pllFollow d).fleet = s.fleet ∧ (s.pllFollow d).nvm = s.nvm ∧ (s.pllFollow d).log = s.log ∧
    (s.pllFollow d).fence = s.fence ∧ (s.pllFollow d).mgmt = s.mgmt ∧ (s.pllFollow d).jtag = s.jtag ∧
    (s.pllFollow d).free = s.free ∧ (s.pllFollow d).pending = s.pending := by
  unfold State.pllFollow
  (try dsimp only)
  (repeat' (split <;> try dsimp only)) <;> simp

@[simp] theorem State.setSlice_frame (n : Nat) (x : SliceSt) (s : State) :
    (s.setSlice n x).ao = s.ao ∧ (s.setSlice n x).boot = s.boot ∧ (s.setSlice n x).host = s.host ∧
    (s.setSlice n x).hws = s.hws ∧ (s.setSlice n x).tw = s.tw ∧ (s.setSlice n x).time = s.time ∧
    (s.setSlice n x).q = s.q ∧ (s.setSlice n x).part = s.part ∧ (s.setSlice n x).obj = s.obj ∧
    (s.setSlice n x).sync = s.sync ∧ (s.setSlice n x).red = s.red ∧ (s.setSlice n x).core = s.core ∧
    (s.setSlice n x).work = s.work ∧ (s.setSlice n x).mem = s.mem ∧ (s.setSlice n x).cim = s.cim ∧
    (s.setSlice n x).fleet = s.fleet ∧ (s.setSlice n x).nvm = s.nvm ∧ (s.setSlice n x).log = s.log ∧
    (s.setSlice n x).fence = s.fence ∧ (s.setSlice n x).mgmt = s.mgmt ∧ (s.setSlice n x).jtag = s.jtag ∧
    (s.setSlice n x).free = s.free ∧ (s.setSlice n x).pending = s.pending := by simp [State.setSlice]

@[simp] theorem State.wakeSlice_frame (n : Nat) (s : State) :
    (s.wakeSlice n).ao = s.ao ∧ (s.wakeSlice n).boot = s.boot ∧ (s.wakeSlice n).host = s.host ∧
    (s.wakeSlice n).hws = s.hws ∧ (s.wakeSlice n).tw = s.tw ∧ (s.wakeSlice n).time = s.time ∧
    (s.wakeSlice n).q = s.q ∧ (s.wakeSlice n).part = s.part ∧ (s.wakeSlice n).obj = s.obj ∧
    (s.wakeSlice n).sync = s.sync ∧ (s.wakeSlice n).red = s.red ∧ (s.wakeSlice n).core = s.core ∧
    (s.wakeSlice n).work = s.work ∧ (s.wakeSlice n).mem = s.mem ∧ (s.wakeSlice n).cim = s.cim ∧
    (s.wakeSlice n).fleet = s.fleet ∧ (s.wakeSlice n).nvm = s.nvm ∧ (s.wakeSlice n).log = s.log ∧
    (s.wakeSlice n).fence = s.fence ∧ (s.wakeSlice n).mgmt = s.mgmt ∧ (s.wakeSlice n).jtag = s.jtag ∧
    (s.wakeSlice n).free = s.free ∧ (s.wakeSlice n).pending = s.pending := by unfold State.wakeSlice; dsimp only; split <;> simp

@[simp] theorem State.prewake_frame (n : Nat) (pid : Option Nat) (s : State) :
    (s.prewake n pid).ao = s.ao ∧ (s.prewake n pid).boot = s.boot ∧ (s.prewake n pid).host = s.host ∧
    (s.prewake n pid).hws = s.hws ∧ (s.prewake n pid).tw = s.tw ∧ (s.prewake n pid).time = s.time ∧
    (s.prewake n pid).q = s.q ∧ (s.prewake n pid).part = s.part ∧ (s.prewake n pid).obj = s.obj ∧
    (s.prewake n pid).sync = s.sync ∧ (s.prewake n pid).red = s.red ∧ (s.prewake n pid).core = s.core ∧
    (s.prewake n pid).work = s.work ∧ (s.prewake n pid).mem = s.mem ∧ (s.prewake n pid).cim = s.cim ∧
    (s.prewake n pid).fleet = s.fleet ∧ (s.prewake n pid).nvm = s.nvm ∧ (s.prewake n pid).log = s.log ∧
    (s.prewake n pid).fence = s.fence ∧ (s.prewake n pid).mgmt = s.mgmt ∧ (s.prewake n pid).jtag = s.jtag ∧
    (s.prewake n pid).free = s.free ∧ (s.prewake n pid).pending = s.pending := by
  unfold State.prewake
  (try dsimp only)
  (repeat' (split <;> try dsimp only)) <;> simp

@[simp] theorem State.onQueue_frame (q : QueueId) (f : Queue → Queue) (s : State) :
    (s.onQueue q f).ao = s.ao ∧ (s.onQueue q f).boot = s.boot ∧ (s.onQueue q f).host = s.host ∧
    (s.onQueue q f).hws = s.hws ∧ (s.onQueue q f).tw = s.tw ∧ (s.onQueue q f).time = s.time ∧
    (s.onQueue q f).pwr = s.pwr ∧ (s.onQueue q f).part = s.part ∧ (s.onQueue q f).obj = s.obj ∧
    (s.onQueue q f).sync = s.sync ∧ (s.onQueue q f).red = s.red ∧ (s.onQueue q f).core = s.core ∧
    (s.onQueue q f).work = s.work ∧ (s.onQueue q f).mem = s.mem ∧ (s.onQueue q f).cim = s.cim ∧
    (s.onQueue q f).fleet = s.fleet ∧ (s.onQueue q f).nvm = s.nvm ∧ (s.onQueue q f).log = s.log ∧
    (s.onQueue q f).fence = s.fence ∧ (s.onQueue q f).mgmt = s.mgmt ∧ (s.onQueue q f).jtag = s.jtag ∧
    (s.onQueue q f).out = s.out ∧ (s.onQueue q f).free = s.free ∧ (s.onQueue q f).pending = s.pending := by
  refine ⟨?_, ?_, ?_, ?_, ?_, ?_, ?_, ?_, ?_, ?_, ?_, ?_, ?_, ?_, ?_, ?_, ?_, ?_, ?_, ?_, ?_, ?_, ?_, ?_⟩ <;> rfl

@[simp] theorem State.history_frame (part : Nat) (tag : Word) (st : Nat) (r : List Byte) (s : State) :
    (s.history part tag st r).ao = s.ao ∧ (s.history part tag st r).boot = s.boot ∧
    (s.history part tag st r).host = s.host ∧ (s.history part tag st r).hws = s.hws ∧
    (s.history part tag st r).tw = s.tw ∧ (s.history part tag st r).time = s.time ∧
    (s.history part tag st r).pwr = s.pwr ∧ (s.history part tag st r).q = s.q ∧
    (s.history part tag st r).part = s.part ∧ (s.history part tag st r).obj = s.obj ∧
    (s.history part tag st r).sync = s.sync ∧ (s.history part tag st r).red = s.red ∧
    (s.history part tag st r).core = s.core ∧ (s.history part tag st r).work = s.work ∧
    (s.history part tag st r).mem = s.mem ∧ (s.history part tag st r).cim = s.cim ∧
    (s.history part tag st r).fleet = s.fleet ∧ (s.history part tag st r).nvm = s.nvm ∧
    (s.history part tag st r).fence = s.fence ∧ (s.history part tag st r).mgmt = s.mgmt ∧
    (s.history part tag st r).jtag = s.jtag ∧ (s.history part tag st r).out = s.out ∧
    (s.history part tag st r).free = s.free ∧ (s.history part tag st r).pending = s.pending := by
  unfold State.history
  exact ⟨State.onLog_ao _ _,
    State.onLog_boot _ _,
    State.onLog_host _ _,
    State.onLog_hws _ _,
    State.onLog_tw _ _,
    State.onLog_time _ _,
    State.onLog_pwr _ _,
    State.onLog_q _ _,
    State.onLog_part _ _,
    State.onLog_obj _ _,
    State.onLog_sync _ _,
    State.onLog_red _ _,
    State.onLog_core _ _,
    State.onLog_work _ _,
    State.onLog_mem _ _,
    State.onLog_cim _ _,
    State.onLog_fleet _ _,
    State.onLog_nvm _ _,
    State.onLog_fence _ _,
    State.onLog_mgmt _ _,
    State.onLog_jtag _ _,
    State.onLog_out _ _,
    State.onLog_free _ _,
    State.onLog_pending _ _⟩ 

@[simp] theorem State.ringReply_frame (q : QueueId) (r : List Byte) (s : State) :
    (s.ringReply q r).ao = s.ao ∧ (s.ringReply q r).boot = s.boot ∧ (s.ringReply q r).host = s.host ∧
    (s.ringReply q r).hws = s.hws ∧ (s.ringReply q r).tw = s.tw ∧ (s.ringReply q r).time = s.time ∧
    (s.ringReply q r).pwr = s.pwr ∧ (s.ringReply q r).part = s.part ∧ (s.ringReply q r).obj = s.obj ∧
    (s.ringReply q r).sync = s.sync ∧ (s.ringReply q r).red = s.red ∧ (s.ringReply q r).core = s.core ∧
    (s.ringReply q r).work = s.work ∧ (s.ringReply q r).cim = s.cim ∧ (s.ringReply q r).fleet = s.fleet ∧
    (s.ringReply q r).nvm = s.nvm ∧ (s.ringReply q r).log = s.log ∧ (s.ringReply q r).fence = s.fence ∧
    (s.ringReply q r).mgmt = s.mgmt ∧ (s.ringReply q r).jtag = s.jtag ∧ (s.ringReply q r).free = s.free ∧
    (s.ringReply q r).pending = s.pending := by unfold State.ringReply; dsimp only; split <;> simp

@[simp] theorem State.putReply_frame (q : QueueId) (n : Bool) (r : List Byte) (s : State) :
    (s.putReply q n r).ao = s.ao ∧ (s.putReply q n r).boot = s.boot ∧ (s.putReply q n r).hws = s.hws ∧
    (s.putReply q n r).tw = s.tw ∧ (s.putReply q n r).time = s.time ∧ (s.putReply q n r).pwr = s.pwr ∧
    (s.putReply q n r).part = s.part ∧ (s.putReply q n r).obj = s.obj ∧ (s.putReply q n r).sync = s.sync ∧
    (s.putReply q n r).red = s.red ∧ (s.putReply q n r).core = s.core ∧ (s.putReply q n r).work = s.work ∧
    (s.putReply q n r).cim = s.cim ∧ (s.putReply q n r).fleet = s.fleet ∧ (s.putReply q n r).nvm = s.nvm ∧
    (s.putReply q n r).log = s.log ∧ (s.putReply q n r).fence = s.fence ∧ (s.putReply q n r).mgmt = s.mgmt ∧
    (s.putReply q n r).jtag = s.jtag ∧ (s.putReply q n r).free = s.free ∧ (s.putReply q n r).pending = s.pending := by unfold State.putReply; dsimp only; split <;> simp

@[simp] theorem State.giveReply_frame (q : QueueId) (n : Bool) (r : List Byte) (s : State) :
    (s.giveReply q n r).ao = s.ao ∧ (s.giveReply q n r).boot = s.boot ∧ (s.giveReply q n r).hws = s.hws ∧
    (s.giveReply q n r).tw = s.tw ∧ (s.giveReply q n r).time = s.time ∧ (s.giveReply q n r).pwr = s.pwr ∧
    (s.giveReply q n r).part = s.part ∧ (s.giveReply q n r).obj = s.obj ∧ (s.giveReply q n r).sync = s.sync ∧
    (s.giveReply q n r).red = s.red ∧ (s.giveReply q n r).core = s.core ∧ (s.giveReply q n r).work = s.work ∧
    (s.giveReply q n r).cim = s.cim ∧ (s.giveReply q n r).fleet = s.fleet ∧ (s.giveReply q n r).nvm = s.nvm ∧
    (s.giveReply q n r).log = s.log ∧ (s.giveReply q n r).fence = s.fence ∧ (s.giveReply q n r).mgmt = s.mgmt ∧
    (s.giveReply q n r).jtag = s.jtag ∧ (s.giveReply q n r).free = s.free ∧
    (s.giveReply q n r).pending = s.pending := by unfold State.giveReply; split <;> simp

@[simp] theorem State.take_frame (q : QueueId) (p : Packet) (s : State) :
    (s.take q p).ao = s.ao ∧ (s.take q p).boot = s.boot ∧ (s.take q p).host = s.host ∧ (s.take q p).hws = s.hws
    ∧ (s.take q p).tw = s.tw ∧ (s.take q p).time = s.time ∧ (s.take q p).obj = s.obj ∧
    (s.take q p).sync = s.sync ∧ (s.take q p).red = s.red ∧ (s.take q p).core = s.core ∧
    (s.take q p).work = s.work ∧ (s.take q p).mem = s.mem ∧ (s.take q p).cim = s.cim ∧
    (s.take q p).fleet = s.fleet ∧ (s.take q p).nvm = s.nvm ∧ (s.take q p).log = s.log ∧
    (s.take q p).fence = s.fence ∧ (s.take q p).mgmt = s.mgmt ∧ (s.take q p).jtag = s.jtag ∧
    (s.take q p).out = s.out ∧ (s.take q p).free = s.free ∧ (s.take q p).pending = s.pending := by unfold State.take; dsimp only; split <;> simp

@[simp] theorem State.onInflight_frame (pid : Nat) (f : Inflight → Inflight) (s : State) :
    (s.onInflight pid f).ao = s.ao ∧ (s.onInflight pid f).boot = s.boot ∧ (s.onInflight pid f).host = s.host ∧
    (s.onInflight pid f).hws = s.hws ∧ (s.onInflight pid f).tw = s.tw ∧ (s.onInflight pid f).time = s.time ∧
    (s.onInflight pid f).pwr = s.pwr ∧ (s.onInflight pid f).part = s.part ∧ (s.onInflight pid f).obj = s.obj ∧
    (s.onInflight pid f).sync = s.sync ∧ (s.onInflight pid f).red = s.red ∧ (s.onInflight pid f).core = s.core ∧
    (s.onInflight pid f).work = s.work ∧ (s.onInflight pid f).mem = s.mem ∧ (s.onInflight pid f).cim = s.cim ∧
    (s.onInflight pid f).fleet = s.fleet ∧ (s.onInflight pid f).nvm = s.nvm ∧ (s.onInflight pid f).log = s.log ∧
    (s.onInflight pid f).fence = s.fence ∧ (s.onInflight pid f).mgmt = s.mgmt ∧
    (s.onInflight pid f).jtag = s.jtag ∧ (s.onInflight pid f).out = s.out ∧ (s.onInflight pid f).free = s.free ∧
    (s.onInflight pid f).pending = s.pending := by
  refine ⟨?_, ?_, ?_, ?_, ?_, ?_, ?_, ?_, ?_, ?_, ?_, ?_, ?_, ?_, ?_, ?_, ?_, ?_, ?_, ?_, ?_, ?_, ?_, ?_⟩ <;> rfl

@[simp] theorem State.nvmInterrupt_frame (s : State) :
    (s.nvmInterrupt).ao = s.ao ∧ (s.nvmInterrupt).boot = s.boot ∧ (s.nvmInterrupt).hws = s.hws ∧
    (s.nvmInterrupt).tw = s.tw ∧ (s.nvmInterrupt).time = s.time ∧ (s.nvmInterrupt).pwr = s.pwr ∧
    (s.nvmInterrupt).q = s.q ∧ (s.nvmInterrupt).part = s.part ∧ (s.nvmInterrupt).obj = s.obj ∧
    (s.nvmInterrupt).sync = s.sync ∧ (s.nvmInterrupt).red = s.red ∧ (s.nvmInterrupt).core = s.core ∧
    (s.nvmInterrupt).work = s.work ∧ (s.nvmInterrupt).mem = s.mem ∧ (s.nvmInterrupt).cim = s.cim ∧
    (s.nvmInterrupt).fleet = s.fleet ∧ (s.nvmInterrupt).fence = s.fence ∧ (s.nvmInterrupt).mgmt = s.mgmt ∧
    (s.nvmInterrupt).jtag = s.jtag ∧ (s.nvmInterrupt).free = s.free ∧ (s.nvmInterrupt).pending = s.pending := by unfold State.nvmInterrupt; split <;> simp

@[simp] theorem State.nvmStart_frame (s : State) :
    (s.nvmStart).ao = s.ao ∧ (s.nvmStart).boot = s.boot ∧ (s.nvmStart).host = s.host ∧ (s.nvmStart).hws = s.hws
    ∧ (s.nvmStart).tw = s.tw ∧ (s.nvmStart).time = s.time ∧ (s.nvmStart).pwr = s.pwr ∧ (s.nvmStart).q = s.q ∧
    (s.nvmStart).part = s.part ∧ (s.nvmStart).obj = s.obj ∧ (s.nvmStart).sync = s.sync ∧
    (s.nvmStart).red = s.red ∧ (s.nvmStart).core = s.core ∧ (s.nvmStart).work = s.work ∧
    (s.nvmStart).mem = s.mem ∧ (s.nvmStart).cim = s.cim ∧ (s.nvmStart).fleet = s.fleet ∧
    (s.nvmStart).log = s.log ∧ (s.nvmStart).fence = s.fence ∧ (s.nvmStart).mgmt = s.mgmt ∧
    (s.nvmStart).jtag = s.jtag ∧ (s.nvmStart).out = s.out ∧ (s.nvmStart).free = s.free ∧
    (s.nvmStart).pending = s.pending := by unfold State.nvmStart; split <;> simp

@[simp] theorem State.nvmQueue_frame (w : NvmWrite) (s : State) :
    (s.nvmQueue w).ao = s.ao ∧ (s.nvmQueue w).boot = s.boot ∧ (s.nvmQueue w).host = s.host ∧
    (s.nvmQueue w).hws = s.hws ∧ (s.nvmQueue w).tw = s.tw ∧ (s.nvmQueue w).time = s.time ∧
    (s.nvmQueue w).pwr = s.pwr ∧ (s.nvmQueue w).q = s.q ∧ (s.nvmQueue w).part = s.part ∧
    (s.nvmQueue w).obj = s.obj ∧ (s.nvmQueue w).sync = s.sync ∧ (s.nvmQueue w).red = s.red ∧
    (s.nvmQueue w).core = s.core ∧ (s.nvmQueue w).work = s.work ∧ (s.nvmQueue w).mem = s.mem ∧
    (s.nvmQueue w).cim = s.cim ∧ (s.nvmQueue w).fleet = s.fleet ∧ (s.nvmQueue w).log = s.log ∧
    (s.nvmQueue w).fence = s.fence ∧ (s.nvmQueue w).mgmt = s.mgmt ∧ (s.nvmQueue w).jtag = s.jtag ∧
    (s.nvmQueue w).out = s.out ∧ (s.nvmQueue w).free = s.free ∧ (s.nvmQueue w).pending = s.pending := by simp [State.nvmQueue]

@[simp] theorem State.nvmPage_frame (w : NvmWrite) (j : Nat) (p : NvmPhase) (good : Bool) (s : State) :
    (s.nvmPage w j p good).ao = s.ao ∧ (s.nvmPage w j p good).boot = s.boot ∧ (s.nvmPage w j p good).host = s.host ∧
    (s.nvmPage w j p good).hws = s.hws ∧ (s.nvmPage w j p good).tw = s.tw ∧ (s.nvmPage w j p good).time = s.time ∧
    (s.nvmPage w j p good).pwr = s.pwr ∧ (s.nvmPage w j p good).q = s.q ∧ (s.nvmPage w j p good).part = s.part ∧
    (s.nvmPage w j p good).obj = s.obj ∧ (s.nvmPage w j p good).sync = s.sync ∧ (s.nvmPage w j p good).red = s.red ∧
    (s.nvmPage w j p good).core = s.core ∧ (s.nvmPage w j p good).work = s.work ∧
    (s.nvmPage w j p good).mem = s.mem ∧ (s.nvmPage w j p good).cim = s.cim ∧
    (s.nvmPage w j p good).fleet = s.fleet ∧ (s.nvmPage w j p good).log = s.log ∧
    (s.nvmPage w j p good).fence = s.fence ∧ (s.nvmPage w j p good).mgmt = s.mgmt ∧
    (s.nvmPage w j p good).jtag = s.jtag ∧ (s.nvmPage w j p good).out = s.out ∧
    (s.nvmPage w j p good).free = s.free ∧ (s.nvmPage w j p good).pending = s.pending := by unfold State.nvmPage; dsimp only; split <;> simp

@[simp] theorem State.nvmReset_frame (good : Bool) (s : State) :
    (s.nvmReset good).ao = s.ao ∧ (s.nvmReset good).boot = s.boot ∧ (s.nvmReset good).hws = s.hws ∧
    (s.nvmReset good).tw = s.tw ∧ (s.nvmReset good).time = s.time ∧ (s.nvmReset good).pwr = s.pwr ∧
    (s.nvmReset good).q = s.q ∧ (s.nvmReset good).part = s.part ∧ (s.nvmReset good).obj = s.obj ∧
    (s.nvmReset good).sync = s.sync ∧ (s.nvmReset good).red = s.red ∧ (s.nvmReset good).core = s.core ∧
    (s.nvmReset good).work = s.work ∧ (s.nvmReset good).mem = s.mem ∧ (s.nvmReset good).cim = s.cim ∧
    (s.nvmReset good).fleet = s.fleet ∧ (s.nvmReset good).fence = s.fence ∧ (s.nvmReset good).mgmt = s.mgmt ∧
    (s.nvmReset good).jtag = s.jtag ∧ (s.nvmReset good).free = s.free ∧ (s.nvmReset good).pending = s.pending := by
  unfold State.nvmReset
  dsimp only
  (repeat' split) <;> simp

@[simp] theorem State.nvmHold_frame (w : NvmWrite) (s : State) :
    (s.nvmHold w).ao = s.ao ∧ (s.nvmHold w).boot = s.boot ∧ (s.nvmHold w).host = s.host ∧
    (s.nvmHold w).hws = s.hws ∧ (s.nvmHold w).tw = s.tw ∧ (s.nvmHold w).time = s.time ∧ (s.nvmHold w).pwr = s.pwr ∧
    (s.nvmHold w).q = s.q ∧ (s.nvmHold w).part = s.part ∧ (s.nvmHold w).obj = s.obj ∧ (s.nvmHold w).sync = s.sync ∧
    (s.nvmHold w).red = s.red ∧ (s.nvmHold w).core = s.core ∧ (s.nvmHold w).work = s.work ∧
    (s.nvmHold w).mem = s.mem ∧ (s.nvmHold w).cim = s.cim ∧ (s.nvmHold w).fleet = s.fleet ∧
    (s.nvmHold w).log = s.log ∧ (s.nvmHold w).mgmt = s.mgmt ∧ (s.nvmHold w).jtag = s.jtag ∧
    (s.nvmHold w).out = s.out ∧ (s.nvmHold w).free = s.free ∧ (s.nvmHold w).pending = s.pending := by simp [State.nvmHold]

@[simp] theorem State.persist_frame (r : Nat) (d : List Byte) (s : State) :
    (s.persist r d).ao = s.ao ∧ (s.persist r d).boot = s.boot ∧ (s.persist r d).host = s.host ∧
    (s.persist r d).hws = s.hws ∧ (s.persist r d).tw = s.tw ∧ (s.persist r d).time = s.time ∧
    (s.persist r d).pwr = s.pwr ∧ (s.persist r d).q = s.q ∧ (s.persist r d).part = s.part ∧
    (s.persist r d).obj = s.obj ∧ (s.persist r d).sync = s.sync ∧ (s.persist r d).red = s.red ∧
    (s.persist r d).core = s.core ∧ (s.persist r d).work = s.work ∧ (s.persist r d).mem = s.mem ∧
    (s.persist r d).cim = s.cim ∧ (s.persist r d).fleet = s.fleet ∧ (s.persist r d).log = s.log ∧
    (s.persist r d).mgmt = s.mgmt ∧ (s.persist r d).jtag = s.jtag ∧ (s.persist r d).out = s.out ∧
    (s.persist r d).free = s.free ∧ (s.persist r d).pending = s.pending := by
  unfold State.persist
  dsimp only
  split <;> simp

@[simp] theorem State.endUpdate_frame (s : State) :
    (s.endUpdate).ao = s.ao ∧ (s.endUpdate).boot = s.boot ∧ (s.endUpdate).hws = s.hws ∧ (s.endUpdate).tw = s.tw
    ∧ (s.endUpdate).time = s.time ∧ (s.endUpdate).pwr = s.pwr ∧ (s.endUpdate).q = s.q ∧
    (s.endUpdate).part = s.part ∧ (s.endUpdate).obj = s.obj ∧ (s.endUpdate).sync = s.sync ∧
    (s.endUpdate).red = s.red ∧ (s.endUpdate).core = s.core ∧ (s.endUpdate).work = s.work ∧
    (s.endUpdate).mem = s.mem ∧ (s.endUpdate).cim = s.cim ∧ (s.endUpdate).fleet = s.fleet ∧
    (s.endUpdate).fence = s.fence ∧ (s.endUpdate).jtag = s.jtag ∧ (s.endUpdate).free = s.free ∧
    (s.endUpdate).pending = s.pending := by
  unfold State.endUpdate
  dsimp only
  (repeat' split) <;> simp

@[simp] theorem State.onPort_frame (p : Nat) (f : Port → Port) (s : State) :
    (s.onPort p f).ao = s.ao ∧ (s.onPort p f).boot = s.boot ∧ (s.onPort p f).host = s.host ∧
    (s.onPort p f).tw = s.tw ∧ (s.onPort p f).time = s.time ∧ (s.onPort p f).pwr = s.pwr ∧
    (s.onPort p f).q = s.q ∧ (s.onPort p f).part = s.part ∧ (s.onPort p f).obj = s.obj ∧
    (s.onPort p f).sync = s.sync ∧ (s.onPort p f).red = s.red ∧ (s.onPort p f).core = s.core ∧
    (s.onPort p f).work = s.work ∧ (s.onPort p f).mem = s.mem ∧ (s.onPort p f).cim = s.cim ∧
    (s.onPort p f).fleet = s.fleet ∧ (s.onPort p f).nvm = s.nvm ∧ (s.onPort p f).log = s.log ∧
    (s.onPort p f).fence = s.fence ∧ (s.onPort p f).mgmt = s.mgmt ∧ (s.onPort p f).jtag = s.jtag ∧
    (s.onPort p f).out = s.out ∧ (s.onPort p f).free = s.free ∧ (s.onPort p f).pending = s.pending := by
  refine ⟨?_, ?_, ?_, ?_, ?_, ?_, ?_, ?_, ?_, ?_, ?_, ?_, ?_, ?_, ?_, ?_, ?_, ?_, ?_, ?_, ?_, ?_, ?_, ?_⟩ <;> rfl

@[simp] theorem State.onGang_frame (g : Nat) (f : Gang → Gang) (s : State) :
    (s.onGang g f).ao = s.ao ∧ (s.onGang g f).boot = s.boot ∧ (s.onGang g f).host = s.host ∧
    (s.onGang g f).hws = s.hws ∧ (s.onGang g f).tw = s.tw ∧ (s.onGang g f).time = s.time ∧
    (s.onGang g f).pwr = s.pwr ∧ (s.onGang g f).q = s.q ∧ (s.onGang g f).part = s.part ∧
    (s.onGang g f).obj = s.obj ∧ (s.onGang g f).sync = s.sync ∧ (s.onGang g f).red = s.red ∧
    (s.onGang g f).work = s.work ∧ (s.onGang g f).mem = s.mem ∧ (s.onGang g f).cim = s.cim ∧
    (s.onGang g f).fleet = s.fleet ∧ (s.onGang g f).nvm = s.nvm ∧ (s.onGang g f).log = s.log ∧
    (s.onGang g f).fence = s.fence ∧ (s.onGang g f).mgmt = s.mgmt ∧ (s.onGang g f).jtag = s.jtag ∧
    (s.onGang g f).out = s.out ∧ (s.onGang g f).free = s.free ∧ (s.onGang g f).pending = s.pending := by
  refine ⟨?_, ?_, ?_, ?_, ?_, ?_, ?_, ?_, ?_, ?_, ?_, ?_, ?_, ?_, ?_, ?_, ?_, ?_, ?_, ?_, ?_, ?_, ?_, ?_⟩ <;> rfl

@[simp] theorem State.onBlk_frame (b : Nat) (f : Block → Block) (s : State) :
    (s.onBlk b f).ao = s.ao ∧ (s.onBlk b f).boot = s.boot ∧ (s.onBlk b f).host = s.host ∧
    (s.onBlk b f).hws = s.hws ∧ (s.onBlk b f).tw = s.tw ∧ (s.onBlk b f).time = s.time ∧
    (s.onBlk b f).pwr = s.pwr ∧ (s.onBlk b f).q = s.q ∧ (s.onBlk b f).part = s.part ∧ (s.onBlk b f).obj = s.obj
    ∧ (s.onBlk b f).sync = s.sync ∧ (s.onBlk b f).red = s.red ∧ (s.onBlk b f).work = s.work ∧
    (s.onBlk b f).mem = s.mem ∧ (s.onBlk b f).cim = s.cim ∧ (s.onBlk b f).fleet = s.fleet ∧
    (s.onBlk b f).nvm = s.nvm ∧ (s.onBlk b f).log = s.log ∧ (s.onBlk b f).fence = s.fence ∧
    (s.onBlk b f).mgmt = s.mgmt ∧ (s.onBlk b f).jtag = s.jtag ∧ (s.onBlk b f).out = s.out ∧
    (s.onBlk b f).free = s.free ∧ (s.onBlk b f).pending = s.pending := by
  refine ⟨?_, ?_, ?_, ?_, ?_, ?_, ?_, ?_, ?_, ?_, ?_, ?_, ?_, ?_, ?_, ?_, ?_, ?_, ?_, ?_, ?_, ?_, ?_, ?_⟩ <;> rfl

@[simp] theorem State.onCoreAt_frame (c : Nat) (f : Core → Core) (s : State) :
    (s.onCoreAt c f).ao = s.ao ∧ (s.onCoreAt c f).boot = s.boot ∧ (s.onCoreAt c f).host = s.host ∧
    (s.onCoreAt c f).hws = s.hws ∧ (s.onCoreAt c f).tw = s.tw ∧ (s.onCoreAt c f).time = s.time ∧
    (s.onCoreAt c f).pwr = s.pwr ∧ (s.onCoreAt c f).q = s.q ∧ (s.onCoreAt c f).part = s.part ∧
    (s.onCoreAt c f).obj = s.obj ∧ (s.onCoreAt c f).sync = s.sync ∧ (s.onCoreAt c f).red = s.red ∧
    (s.onCoreAt c f).work = s.work ∧ (s.onCoreAt c f).mem = s.mem ∧ (s.onCoreAt c f).cim = s.cim ∧
    (s.onCoreAt c f).fleet = s.fleet ∧ (s.onCoreAt c f).nvm = s.nvm ∧ (s.onCoreAt c f).log = s.log ∧
    (s.onCoreAt c f).fence = s.fence ∧ (s.onCoreAt c f).mgmt = s.mgmt ∧ (s.onCoreAt c f).jtag = s.jtag ∧
    (s.onCoreAt c f).out = s.out ∧ (s.onCoreAt c f).free = s.free ∧ (s.onCoreAt c f).pending = s.pending := by
  refine ⟨?_, ?_, ?_, ?_, ?_, ?_, ?_, ?_, ?_, ?_, ?_, ?_, ?_, ?_, ?_, ?_, ?_, ?_, ?_, ?_, ?_, ?_, ?_, ?_⟩ <;> rfl

@[simp] theorem State.onLaunch_frame (l : Nat) (f : Launch → Launch) (s : State) :
    (s.onLaunch l f).ao = s.ao ∧ (s.onLaunch l f).boot = s.boot ∧ (s.onLaunch l f).host = s.host ∧
    (s.onLaunch l f).hws = s.hws ∧ (s.onLaunch l f).tw = s.tw ∧ (s.onLaunch l f).time = s.time ∧
    (s.onLaunch l f).pwr = s.pwr ∧ (s.onLaunch l f).q = s.q ∧ (s.onLaunch l f).part = s.part ∧
    (s.onLaunch l f).obj = s.obj ∧ (s.onLaunch l f).sync = s.sync ∧ (s.onLaunch l f).red = s.red ∧
    (s.onLaunch l f).core = s.core ∧ (s.onLaunch l f).mem = s.mem ∧ (s.onLaunch l f).cim = s.cim ∧
    (s.onLaunch l f).fleet = s.fleet ∧ (s.onLaunch l f).nvm = s.nvm ∧ (s.onLaunch l f).log = s.log ∧
    (s.onLaunch l f).fence = s.fence ∧ (s.onLaunch l f).mgmt = s.mgmt ∧ (s.onLaunch l f).jtag = s.jtag ∧
    (s.onLaunch l f).out = s.out ∧ (s.onLaunch l f).free = s.free ∧ (s.onLaunch l f).pending = s.pending := by
  refine ⟨?_, ?_, ?_, ?_, ?_, ?_, ?_, ?_, ?_, ?_, ?_, ?_, ?_, ?_, ?_, ?_, ?_, ?_, ?_, ?_, ?_, ?_, ?_, ?_⟩ <;> rfl

@[simp] theorem State.onCtx_frame (c : Nat) (f : Ctx → Ctx) (s : State) :
    (s.onCtx c f).ao = s.ao ∧ (s.onCtx c f).boot = s.boot ∧ (s.onCtx c f).host = s.host ∧
    (s.onCtx c f).hws = s.hws ∧ (s.onCtx c f).tw = s.tw ∧ (s.onCtx c f).time = s.time ∧
    (s.onCtx c f).pwr = s.pwr ∧ (s.onCtx c f).q = s.q ∧ (s.onCtx c f).part = s.part ∧
    (s.onCtx c f).sync = s.sync ∧ (s.onCtx c f).red = s.red ∧ (s.onCtx c f).core = s.core ∧
    (s.onCtx c f).work = s.work ∧ (s.onCtx c f).mem = s.mem ∧ (s.onCtx c f).cim = s.cim ∧
    (s.onCtx c f).fleet = s.fleet ∧ (s.onCtx c f).nvm = s.nvm ∧ (s.onCtx c f).log = s.log ∧
    (s.onCtx c f).fence = s.fence ∧ (s.onCtx c f).mgmt = s.mgmt ∧ (s.onCtx c f).jtag = s.jtag ∧
    (s.onCtx c f).out = s.out ∧ (s.onCtx c f).free = s.free ∧ (s.onCtx c f).pending = s.pending := by
  refine ⟨?_, ?_, ?_, ?_, ?_, ?_, ?_, ?_, ?_, ?_, ?_, ?_, ?_, ?_, ?_, ?_, ?_, ?_, ?_, ?_, ?_, ?_, ?_, ?_⟩ <;> rfl

@[simp] theorem State.onObjAt_frame (k : Nat) (f : Obj → Obj) (s : State) :
    (s.onObjAt k f).ao = s.ao ∧ (s.onObjAt k f).boot = s.boot ∧ (s.onObjAt k f).host = s.host ∧
    (s.onObjAt k f).hws = s.hws ∧ (s.onObjAt k f).tw = s.tw ∧ (s.onObjAt k f).time = s.time ∧
    (s.onObjAt k f).pwr = s.pwr ∧ (s.onObjAt k f).q = s.q ∧ (s.onObjAt k f).part = s.part ∧
    (s.onObjAt k f).sync = s.sync ∧ (s.onObjAt k f).red = s.red ∧ (s.onObjAt k f).core = s.core ∧
    (s.onObjAt k f).work = s.work ∧ (s.onObjAt k f).mem = s.mem ∧ (s.onObjAt k f).cim = s.cim ∧
    (s.onObjAt k f).fleet = s.fleet ∧ (s.onObjAt k f).nvm = s.nvm ∧ (s.onObjAt k f).log = s.log ∧
    (s.onObjAt k f).fence = s.fence ∧ (s.onObjAt k f).mgmt = s.mgmt ∧ (s.onObjAt k f).jtag = s.jtag ∧
    (s.onObjAt k f).out = s.out ∧ (s.onObjAt k f).free = s.free ∧ (s.onObjAt k f).pending = s.pending := by
  refine ⟨?_, ?_, ?_, ?_, ?_, ?_, ?_, ?_, ?_, ?_, ?_, ?_, ?_, ?_, ?_, ?_, ?_, ?_, ?_, ?_, ?_, ?_, ?_, ?_⟩ <;> rfl

@[simp] theorem State.onDir_frame (l : Nat) (f : DirLine → DirLine) (s : State) :
    (s.onDir l f).ao = s.ao ∧ (s.onDir l f).boot = s.boot ∧ (s.onDir l f).host = s.host ∧
    (s.onDir l f).hws = s.hws ∧ (s.onDir l f).tw = s.tw ∧ (s.onDir l f).time = s.time ∧
    (s.onDir l f).pwr = s.pwr ∧ (s.onDir l f).q = s.q ∧ (s.onDir l f).part = s.part ∧ (s.onDir l f).obj = s.obj
    ∧ (s.onDir l f).sync = s.sync ∧ (s.onDir l f).red = s.red ∧ (s.onDir l f).core = s.core ∧
    (s.onDir l f).work = s.work ∧ (s.onDir l f).cim = s.cim ∧ (s.onDir l f).fleet = s.fleet ∧
    (s.onDir l f).nvm = s.nvm ∧ (s.onDir l f).log = s.log ∧ (s.onDir l f).fence = s.fence ∧
    (s.onDir l f).mgmt = s.mgmt ∧ (s.onDir l f).jtag = s.jtag ∧ (s.onDir l f).out = s.out ∧
    (s.onDir l f).free = s.free ∧ (s.onDir l f).pending = s.pending := by
  refine ⟨?_, ?_, ?_, ?_, ?_, ?_, ?_, ?_, ?_, ?_, ?_, ?_, ?_, ?_, ?_, ?_, ?_, ?_, ?_, ?_, ?_, ?_, ?_, ?_⟩ <;> rfl

@[simp] theorem State.onTally_frame (i : Nat) (f : Tally → Tally) (s : State) :
    (s.onTally i f).ao = s.ao ∧ (s.onTally i f).boot = s.boot ∧ (s.onTally i f).host = s.host ∧
    (s.onTally i f).hws = s.hws ∧ (s.onTally i f).tw = s.tw ∧ (s.onTally i f).time = s.time ∧
    (s.onTally i f).pwr = s.pwr ∧ (s.onTally i f).q = s.q ∧ (s.onTally i f).part = s.part ∧
    (s.onTally i f).obj = s.obj ∧ (s.onTally i f).red = s.red ∧ (s.onTally i f).core = s.core ∧
    (s.onTally i f).work = s.work ∧ (s.onTally i f).mem = s.mem ∧ (s.onTally i f).cim = s.cim ∧
    (s.onTally i f).fleet = s.fleet ∧ (s.onTally i f).nvm = s.nvm ∧ (s.onTally i f).log = s.log ∧
    (s.onTally i f).fence = s.fence ∧ (s.onTally i f).mgmt = s.mgmt ∧ (s.onTally i f).jtag = s.jtag ∧
    (s.onTally i f).out = s.out ∧ (s.onTally i f).free = s.free ∧ (s.onTally i f).pending = s.pending := by
  refine ⟨?_, ?_, ?_, ?_, ?_, ?_, ?_, ?_, ?_, ?_, ?_, ?_, ?_, ?_, ?_, ?_, ?_, ?_, ?_, ?_, ?_, ?_, ?_, ?_⟩ <;> rfl

@[simp] theorem State.onSem_frame (i : Nat) (f : Sem → Sem) (s : State) :
    (s.onSem i f).ao = s.ao ∧ (s.onSem i f).boot = s.boot ∧ (s.onSem i f).host = s.host ∧
    (s.onSem i f).hws = s.hws ∧ (s.onSem i f).tw = s.tw ∧ (s.onSem i f).time = s.time ∧
    (s.onSem i f).pwr = s.pwr ∧ (s.onSem i f).q = s.q ∧ (s.onSem i f).part = s.part ∧ (s.onSem i f).obj = s.obj
    ∧ (s.onSem i f).red = s.red ∧ (s.onSem i f).core = s.core ∧ (s.onSem i f).work = s.work ∧
    (s.onSem i f).mem = s.mem ∧ (s.onSem i f).cim = s.cim ∧ (s.onSem i f).fleet = s.fleet ∧
    (s.onSem i f).nvm = s.nvm ∧ (s.onSem i f).log = s.log ∧ (s.onSem i f).fence = s.fence ∧
    (s.onSem i f).mgmt = s.mgmt ∧ (s.onSem i f).jtag = s.jtag ∧ (s.onSem i f).out = s.out ∧
    (s.onSem i f).free = s.free ∧ (s.onSem i f).pending = s.pending := by
  refine ⟨?_, ?_, ?_, ?_, ?_, ?_, ?_, ?_, ?_, ?_, ?_, ?_, ?_, ?_, ?_, ?_, ?_, ?_, ?_, ?_, ?_, ?_, ?_, ?_⟩ <;> rfl

@[simp] theorem State.kill_frame (c code core : Nat) (l : Option Nat) (s : State) :
    (s.kill c code core l).ao = s.ao ∧ (s.kill c code core l).boot = s.boot ∧
    (s.kill c code core l).host = s.host ∧ (s.kill c code core l).hws = s.hws ∧ (s.kill c code core l).tw = s.tw
    ∧ (s.kill c code core l).time = s.time ∧ (s.kill c code core l).pwr = s.pwr ∧ (s.kill c code core l).q = s.q
    ∧ (s.kill c code core l).part = s.part ∧ (s.kill c code core l).sync = s.sync ∧
    (s.kill c code core l).red = s.red ∧ (s.kill c code core l).core = s.core ∧
    (s.kill c code core l).work = s.work ∧ (s.kill c code core l).mem = s.mem ∧
    (s.kill c code core l).cim = s.cim ∧ (s.kill c code core l).fleet = s.fleet ∧
    (s.kill c code core l).nvm = s.nvm ∧ (s.kill c code core l).log = s.log ∧
    (s.kill c code core l).fence = s.fence ∧ (s.kill c code core l).mgmt = s.mgmt ∧
    (s.kill c code core l).jtag = s.jtag ∧ (s.kill c code core l).out = s.out ∧
    (s.kill c code core l).free = s.free ∧ (s.kill c code core l).pending = s.pending := by unfold State.kill; dsimp only; (repeat' split) <;> simp

@[simp] theorem State.logFault_frame (g n code : Nat) (addr : DWord) (lanes : Word) (s : State) :
    (s.logFault g n code addr lanes).ao = s.ao ∧ (s.logFault g n code addr lanes).boot = s.boot ∧
    (s.logFault g n code addr lanes).hws = s.hws ∧ (s.logFault g n code addr lanes).tw = s.tw ∧
    (s.logFault g n code addr lanes).time = s.time ∧ (s.logFault g n code addr lanes).pwr = s.pwr ∧
    (s.logFault g n code addr lanes).q = s.q ∧ (s.logFault g n code addr lanes).part = s.part ∧
    (s.logFault g n code addr lanes).obj = s.obj ∧ (s.logFault g n code addr lanes).sync = s.sync ∧
    (s.logFault g n code addr lanes).red = s.red ∧ (s.logFault g n code addr lanes).core = s.core ∧
    (s.logFault g n code addr lanes).work = s.work ∧ (s.logFault g n code addr lanes).mem = s.mem ∧
    (s.logFault g n code addr lanes).cim = s.cim ∧ (s.logFault g n code addr lanes).fleet = s.fleet ∧
    (s.logFault g n code addr lanes).nvm = s.nvm ∧ (s.logFault g n code addr lanes).fence = s.fence ∧
    (s.logFault g n code addr lanes).mgmt = s.mgmt ∧ (s.logFault g n code addr lanes).jtag = s.jtag ∧
    (s.logFault g n code addr lanes).pending = s.pending := by simp [State.logFault, State.fresh]

@[simp] theorem State.gangFault_frame (g code : Nat) (addr : DWord) (s : State) :
    (s.gangFault g code addr).ao = s.ao ∧ (s.gangFault g code addr).boot = s.boot ∧
    (s.gangFault g code addr).hws = s.hws ∧ (s.gangFault g code addr).tw = s.tw ∧
    (s.gangFault g code addr).time = s.time ∧ (s.gangFault g code addr).pwr = s.pwr ∧
    (s.gangFault g code addr).q = s.q ∧ (s.gangFault g code addr).part = s.part ∧
    (s.gangFault g code addr).sync = s.sync ∧ (s.gangFault g code addr).red = s.red ∧
    (s.gangFault g code addr).work = s.work ∧ (s.gangFault g code addr).mem = s.mem ∧
    (s.gangFault g code addr).cim = s.cim ∧ (s.gangFault g code addr).fleet = s.fleet ∧
    (s.gangFault g code addr).nvm = s.nvm ∧ (s.gangFault g code addr).fence = s.fence ∧
    (s.gangFault g code addr).mgmt = s.mgmt ∧ (s.gangFault g code addr).jtag = s.jtag ∧
    (s.gangFault g code addr).pending = s.pending := by simp [State.gangFault]

@[simp] theorem State.nearDrop_frame (core c : Nat) (s : State) :
    (s.nearDrop core c).ao = s.ao ∧ (s.nearDrop core c).boot = s.boot ∧ (s.nearDrop core c).host = s.host ∧
    (s.nearDrop core c).hws = s.hws ∧ (s.nearDrop core c).tw = s.tw ∧ (s.nearDrop core c).time = s.time ∧
    (s.nearDrop core c).pwr = s.pwr ∧ (s.nearDrop core c).q = s.q ∧ (s.nearDrop core c).part = s.part ∧
    (s.nearDrop core c).obj = s.obj ∧ (s.nearDrop core c).sync = s.sync ∧ (s.nearDrop core c).red = s.red ∧
    (s.nearDrop core c).core = s.core ∧ (s.nearDrop core c).work = s.work ∧ (s.nearDrop core c).cim = s.cim ∧
    (s.nearDrop core c).fleet = s.fleet ∧ (s.nearDrop core c).nvm = s.nvm ∧ (s.nearDrop core c).log = s.log ∧
    (s.nearDrop core c).fence = s.fence ∧ (s.nearDrop core c).mgmt = s.mgmt ∧ (s.nearDrop core c).jtag = s.jtag
    ∧ (s.nearDrop core c).out = s.out ∧ (s.nearDrop core c).free = s.free ∧
    (s.nearDrop core c).pending = s.pending := by
  refine ⟨?_, ?_, ?_, ?_, ?_, ?_, ?_, ?_, ?_, ?_, ?_, ?_, ?_, ?_, ?_, ?_, ?_, ?_, ?_, ?_, ?_, ?_, ?_, ?_⟩ <;> rfl

@[simp] theorem State.acquire_frame (g : Nat) (s : State) :
    (s.acquire g).ao = s.ao ∧ (s.acquire g).boot = s.boot ∧ (s.acquire g).host = s.host ∧
    (s.acquire g).hws = s.hws ∧ (s.acquire g).tw = s.tw ∧ (s.acquire g).time = s.time ∧
    (s.acquire g).pwr = s.pwr ∧ (s.acquire g).q = s.q ∧ (s.acquire g).part = s.part ∧ (s.acquire g).obj = s.obj
    ∧ (s.acquire g).sync = s.sync ∧ (s.acquire g).red = s.red ∧ (s.acquire g).core = s.core ∧
    (s.acquire g).work = s.work ∧ (s.acquire g).cim = s.cim ∧ (s.acquire g).fleet = s.fleet ∧
    (s.acquire g).nvm = s.nvm ∧ (s.acquire g).log = s.log ∧ (s.acquire g).fence = s.fence ∧
    (s.acquire g).mgmt = s.mgmt ∧ (s.acquire g).jtag = s.jtag ∧ (s.acquire g).out = s.out ∧
    (s.acquire g).free = s.free ∧ (s.acquire g).pending = s.pending := by simp [State.acquire]

@[simp] theorem State.loseStatus_frame (g : Nat) (s : State) :
    (s.loseStatus g).ao = s.ao ∧ (s.loseStatus g).boot = s.boot ∧ (s.loseStatus g).host = s.host ∧
    (s.loseStatus g).hws = s.hws ∧ (s.loseStatus g).tw = s.tw ∧ (s.loseStatus g).time = s.time ∧
    (s.loseStatus g).pwr = s.pwr ∧ (s.loseStatus g).q = s.q ∧ (s.loseStatus g).part = s.part ∧
    (s.loseStatus g).obj = s.obj ∧ (s.loseStatus g).sync = s.sync ∧ (s.loseStatus g).red = s.red ∧
    (s.loseStatus g).core = s.core ∧ (s.loseStatus g).mem = s.mem ∧ (s.loseStatus g).cim = s.cim ∧
    (s.loseStatus g).fleet = s.fleet ∧ (s.loseStatus g).nvm = s.nvm ∧ (s.loseStatus g).log = s.log ∧
    (s.loseStatus g).fence = s.fence ∧ (s.loseStatus g).mgmt = s.mgmt ∧ (s.loseStatus g).jtag = s.jtag ∧
    (s.loseStatus g).out = s.out ∧ (s.loseStatus g).free = s.free ∧ (s.loseStatus g).pending = s.pending := by simp [State.loseStatus]

@[simp] theorem State.sendEvent_frame (s : State) :
    (s.sendEvent).ao = s.ao ∧ (s.sendEvent).boot = s.boot ∧ (s.sendEvent).host = s.host ∧
    (s.sendEvent).hws = s.hws ∧ (s.sendEvent).tw = s.tw ∧ (s.sendEvent).time = s.time ∧
    (s.sendEvent).pwr = s.pwr ∧ (s.sendEvent).q = s.q ∧ (s.sendEvent).part = s.part ∧ (s.sendEvent).obj = s.obj
    ∧ (s.sendEvent).sync = s.sync ∧ (s.sendEvent).red = s.red ∧ (s.sendEvent).core = s.core ∧
    (s.sendEvent).work = s.work ∧ (s.sendEvent).mem = s.mem ∧ (s.sendEvent).cim = s.cim ∧
    (s.sendEvent).fleet = s.fleet ∧ (s.sendEvent).nvm = s.nvm ∧ (s.sendEvent).log = s.log ∧
    (s.sendEvent).fence = s.fence ∧ (s.sendEvent).mgmt = s.mgmt ∧ (s.sendEvent).jtag = s.jtag ∧
    (s.sendEvent).free = s.free ∧ (s.sendEvent).pending = s.pending := by unfold State.sendEvent; split; split; all_goals simp

@[simp] theorem State.pldmEvent_frame (id v : Nat) (s : State) :
    (s.pldmEvent id v).ao = s.ao ∧ (s.pldmEvent id v).boot = s.boot ∧ (s.pldmEvent id v).hws = s.hws ∧
    (s.pldmEvent id v).tw = s.tw ∧ (s.pldmEvent id v).time = s.time ∧ (s.pldmEvent id v).pwr = s.pwr ∧
    (s.pldmEvent id v).q = s.q ∧ (s.pldmEvent id v).part = s.part ∧ (s.pldmEvent id v).obj = s.obj ∧
    (s.pldmEvent id v).sync = s.sync ∧ (s.pldmEvent id v).red = s.red ∧ (s.pldmEvent id v).core = s.core ∧
    (s.pldmEvent id v).work = s.work ∧ (s.pldmEvent id v).mem = s.mem ∧ (s.pldmEvent id v).cim = s.cim ∧
    (s.pldmEvent id v).fleet = s.fleet ∧ (s.pldmEvent id v).nvm = s.nvm ∧ (s.pldmEvent id v).fence = s.fence ∧
    (s.pldmEvent id v).jtag = s.jtag ∧ (s.pldmEvent id v).free = s.free ∧ (s.pldmEvent id v).pending = s.pending := by
  unfold State.pldmEvent
  (try dsimp only)
  (repeat' (split <;> try dsimp only)) <;> simp

@[simp] theorem State.pldmWatch_frame (s : State) :
    (s.pldmWatch).ao = s.ao ∧ (s.pldmWatch).boot = s.boot ∧ (s.pldmWatch).hws = s.hws ∧ (s.pldmWatch).tw = s.tw
    ∧ (s.pldmWatch).time = s.time ∧ (s.pldmWatch).pwr = s.pwr ∧ (s.pldmWatch).q = s.q ∧
    (s.pldmWatch).part = s.part ∧ (s.pldmWatch).obj = s.obj ∧ (s.pldmWatch).sync = s.sync ∧
    (s.pldmWatch).red = s.red ∧ (s.pldmWatch).core = s.core ∧ (s.pldmWatch).work = s.work ∧
    (s.pldmWatch).mem = s.mem ∧ (s.pldmWatch).cim = s.cim ∧ (s.pldmWatch).fleet = s.fleet ∧
    (s.pldmWatch).nvm = s.nvm ∧ (s.pldmWatch).fence = s.fence ∧ (s.pldmWatch).jtag = s.jtag ∧
    (s.pldmWatch).free = s.free ∧ (s.pldmWatch).pending = s.pending := by
  unfold State.pldmWatch
  split
  · simp
  refine ⟨foldl_keeps State.ao _ ?_ _ _,
    foldl_keeps State.boot _ ?_ _ _,
    foldl_keeps State.hws _ ?_ _ _,
    foldl_keeps State.tw _ ?_ _ _,
    foldl_keeps State.time _ ?_ _ _,
    foldl_keeps State.pwr _ ?_ _ _,
    foldl_keeps State.q _ ?_ _ _,
    foldl_keeps State.part _ ?_ _ _,
    foldl_keeps State.obj _ ?_ _ _,
    foldl_keeps State.sync _ ?_ _ _,
    foldl_keeps State.red _ ?_ _ _,
    foldl_keeps State.core _ ?_ _ _,
    foldl_keeps State.work _ ?_ _ _,
    foldl_keeps State.mem _ ?_ _ _,
    foldl_keeps State.cim _ ?_ _ _,
    foldl_keeps State.fleet _ ?_ _ _,
    foldl_keeps State.nvm _ ?_ _ _,
    foldl_keeps State.fence _ ?_ _ _,
    foldl_keeps State.jtag _ ?_ _ _,
    foldl_keeps State.free _ ?_ _ _,
    foldl_keeps State.pending _ ?_ _ _⟩ <;>
  · intro t a
    (repeat' split) <;> simp

@[simp] theorem State.dropSlices_frame (l : List Nat) (s : State) :
    (s.dropSlices l).ao = s.ao ∧ (s.dropSlices l).hws = s.hws ∧ (s.dropSlices l).tw = s.tw ∧
    (s.dropSlices l).time = s.time ∧ (s.dropSlices l).q = s.q ∧ (s.dropSlices l).part = s.part ∧
    (s.dropSlices l).obj = s.obj ∧ (s.dropSlices l).sync = s.sync ∧ (s.dropSlices l).red = s.red ∧
    (s.dropSlices l).core = s.core ∧ (s.dropSlices l).work = s.work ∧ (s.dropSlices l).mem = s.mem ∧
    (s.dropSlices l).cim = s.cim ∧ (s.dropSlices l).fleet = s.fleet ∧ (s.dropSlices l).nvm = s.nvm ∧
    (s.dropSlices l).fence = s.fence ∧ (s.dropSlices l).mgmt = s.mgmt ∧ (s.dropSlices l).jtag = s.jtag ∧
    (s.dropSlices l).free = s.free ∧ (s.dropSlices l).pending = s.pending := by
  unfold State.dropSlices
  refine ⟨foldl_keeps State.ao _ ?_ _ _,
    foldl_keeps State.hws _ ?_ _ _,
    foldl_keeps State.tw _ ?_ _ _,
    foldl_keeps State.time _ ?_ _ _,
    foldl_keeps State.q _ ?_ _ _,
    foldl_keeps State.part _ ?_ _ _,
    foldl_keeps State.obj _ ?_ _ _,
    foldl_keeps State.sync _ ?_ _ _,
    foldl_keeps State.red _ ?_ _ _,
    foldl_keeps State.core _ ?_ _ _,
    foldl_keeps State.work _ ?_ _ _,
    foldl_keeps State.mem _ ?_ _ _,
    foldl_keeps State.cim _ ?_ _ _,
    foldl_keeps State.fleet _ ?_ _ _,
    foldl_keeps State.nvm _ ?_ _ _,
    foldl_keeps State.fence _ ?_ _ _,
    foldl_keeps State.mgmt _ ?_ _ _,
    foldl_keeps State.jtag _ ?_ _ _,
    foldl_keeps State.free _ ?_ _ _,
    foldl_keeps State.pending _ ?_ _ _⟩ <;>
  · intro t a
    (repeat' split) <;> simp

@[simp] theorem State.sendFlit_frame (n : Nat) (f : HwsPayload) (s : State) :
    (s.sendFlit n f).ao = s.ao ∧ (s.sendFlit n f).boot = s.boot ∧ (s.sendFlit n f).host = s.host ∧
    (s.sendFlit n f).tw = s.tw ∧ (s.sendFlit n f).time = s.time ∧ (s.sendFlit n f).pwr = s.pwr ∧
    (s.sendFlit n f).q = s.q ∧ (s.sendFlit n f).part = s.part ∧ (s.sendFlit n f).obj = s.obj ∧
    (s.sendFlit n f).sync = s.sync ∧ (s.sendFlit n f).red = s.red ∧ (s.sendFlit n f).core = s.core ∧
    (s.sendFlit n f).work = s.work ∧ (s.sendFlit n f).mem = s.mem ∧ (s.sendFlit n f).cim = s.cim ∧
    (s.sendFlit n f).fleet = s.fleet ∧ (s.sendFlit n f).nvm = s.nvm ∧ (s.sendFlit n f).log = s.log ∧
    (s.sendFlit n f).fence = s.fence ∧ (s.sendFlit n f).mgmt = s.mgmt ∧ (s.sendFlit n f).jtag = s.jtag ∧
    (s.sendFlit n f).free = s.free ∧ (s.sendFlit n f).pending = s.pending := by simp [State.sendFlit]

@[simp] theorem State.pushFlit_frame (n : Nat) (f : HwsPayload) (s : State) :
    (s.pushFlit n f).ao = s.ao ∧ (s.pushFlit n f).boot = s.boot ∧ (s.pushFlit n f).host = s.host ∧
    (s.pushFlit n f).tw = s.tw ∧ (s.pushFlit n f).time = s.time ∧ (s.pushFlit n f).pwr = s.pwr ∧
    (s.pushFlit n f).q = s.q ∧ (s.pushFlit n f).part = s.part ∧ (s.pushFlit n f).obj = s.obj ∧
    (s.pushFlit n f).sync = s.sync ∧ (s.pushFlit n f).red = s.red ∧ (s.pushFlit n f).core = s.core ∧
    (s.pushFlit n f).work = s.work ∧ (s.pushFlit n f).mem = s.mem ∧ (s.pushFlit n f).cim = s.cim ∧
    (s.pushFlit n f).fleet = s.fleet ∧ (s.pushFlit n f).nvm = s.nvm ∧ (s.pushFlit n f).log = s.log ∧
    (s.pushFlit n f).fence = s.fence ∧ (s.pushFlit n f).mgmt = s.mgmt ∧ (s.pushFlit n f).jtag = s.jtag ∧
    (s.pushFlit n f).free = s.free ∧ (s.pushFlit n f).pending = s.pending := by
  unfold State.pushFlit
  (try dsimp only)
  (repeat' (split <;> try dsimp only)) <;> simp

@[simp] theorem State.sendOn_frame (n : Nat) (m : FleetMsg) (s : State) :
    (s.sendOn n m).ao = s.ao ∧ (s.sendOn n m).boot = s.boot ∧ (s.sendOn n m).host = s.host ∧
    (s.sendOn n m).tw = s.tw ∧ (s.sendOn n m).time = s.time ∧ (s.sendOn n m).pwr = s.pwr ∧
    (s.sendOn n m).q = s.q ∧ (s.sendOn n m).part = s.part ∧ (s.sendOn n m).obj = s.obj ∧
    (s.sendOn n m).sync = s.sync ∧ (s.sendOn n m).red = s.red ∧ (s.sendOn n m).core = s.core ∧
    (s.sendOn n m).work = s.work ∧ (s.sendOn n m).mem = s.mem ∧ (s.sendOn n m).cim = s.cim ∧
    (s.sendOn n m).fleet = s.fleet ∧ (s.sendOn n m).nvm = s.nvm ∧ (s.sendOn n m).log = s.log ∧
    (s.sendOn n m).fence = s.fence ∧ (s.sendOn n m).mgmt = s.mgmt ∧ (s.sendOn n m).jtag = s.jtag ∧
    (s.sendOn n m).free = s.free ∧ (s.sendOn n m).pending = s.pending := by
  unfold State.sendOn
  refine ⟨foldl_keeps State.ao _ ?_ _ _,
    foldl_keeps State.boot _ ?_ _ _,
    foldl_keeps State.host _ ?_ _ _,
    foldl_keeps State.tw _ ?_ _ _,
    foldl_keeps State.time _ ?_ _ _,
    foldl_keeps State.pwr _ ?_ _ _,
    foldl_keeps State.q _ ?_ _ _,
    foldl_keeps State.part _ ?_ _ _,
    foldl_keeps State.obj _ ?_ _ _,
    foldl_keeps State.sync _ ?_ _ _,
    foldl_keeps State.red _ ?_ _ _,
    foldl_keeps State.core _ ?_ _ _,
    foldl_keeps State.work _ ?_ _ _,
    foldl_keeps State.mem _ ?_ _ _,
    foldl_keeps State.cim _ ?_ _ _,
    foldl_keeps State.fleet _ ?_ _ _,
    foldl_keeps State.nvm _ ?_ _ _,
    foldl_keeps State.log _ ?_ _ _,
    foldl_keeps State.fence _ ?_ _ _,
    foldl_keeps State.mgmt _ ?_ _ _,
    foldl_keeps State.jtag _ ?_ _ _,
    foldl_keeps State.free _ ?_ _ _,
    foldl_keeps State.pending _ ?_ _ _⟩ <;>
  · intro t a
    (repeat' split) <;> simp

@[simp] theorem State.sendMsg_frame (m : FleetMsg) (s : State) :
    (s.sendMsg m).ao = s.ao ∧ (s.sendMsg m).boot = s.boot ∧ (s.sendMsg m).host = s.host ∧
    (s.sendMsg m).tw = s.tw ∧ (s.sendMsg m).time = s.time ∧ (s.sendMsg m).pwr = s.pwr ∧ (s.sendMsg m).q = s.q ∧
    (s.sendMsg m).part = s.part ∧ (s.sendMsg m).obj = s.obj ∧ (s.sendMsg m).sync = s.sync ∧
    (s.sendMsg m).red = s.red ∧ (s.sendMsg m).core = s.core ∧ (s.sendMsg m).work = s.work ∧
    (s.sendMsg m).mem = s.mem ∧ (s.sendMsg m).cim = s.cim ∧ (s.sendMsg m).nvm = s.nvm ∧
    (s.sendMsg m).log = s.log ∧ (s.sendMsg m).fence = s.fence ∧ (s.sendMsg m).mgmt = s.mgmt ∧
    (s.sendMsg m).jtag = s.jtag ∧ (s.sendMsg m).free = s.free ∧ (s.sendMsg m).pending = s.pending := by
  unfold State.sendMsg State.handOver
  (try dsimp only)
  (repeat' (split <;> try dsimp only)) <;> simp

@[simp] theorem State.sendAck_frame (d : Nat) (a : DWord) (o e : Nat) (s : State) :
    (s.sendAck d a o e).ao = s.ao ∧ (s.sendAck d a o e).boot = s.boot ∧ (s.sendAck d a o e).host = s.host ∧
    (s.sendAck d a o e).tw = s.tw ∧ (s.sendAck d a o e).time = s.time ∧ (s.sendAck d a o e).pwr = s.pwr ∧
    (s.sendAck d a o e).q = s.q ∧ (s.sendAck d a o e).part = s.part ∧ (s.sendAck d a o e).obj = s.obj ∧
    (s.sendAck d a o e).sync = s.sync ∧ (s.sendAck d a o e).red = s.red ∧ (s.sendAck d a o e).core = s.core ∧
    (s.sendAck d a o e).work = s.work ∧ (s.sendAck d a o e).mem = s.mem ∧ (s.sendAck d a o e).cim = s.cim ∧
    (s.sendAck d a o e).nvm = s.nvm ∧ (s.sendAck d a o e).log = s.log ∧ (s.sendAck d a o e).fence = s.fence ∧
    (s.sendAck d a o e).mgmt = s.mgmt ∧ (s.sendAck d a o e).jtag = s.jtag ∧ (s.sendAck d a o e).free = s.free ∧
    (s.sendAck d a o e).pending = s.pending := by simp [State.sendAck]

@[simp] theorem State.sendRefusal_frame (d a c : Nat) (s : State) :
    (s.sendRefusal d a c).ao = s.ao ∧ (s.sendRefusal d a c).boot = s.boot ∧ (s.sendRefusal d a c).host = s.host
    ∧ (s.sendRefusal d a c).tw = s.tw ∧ (s.sendRefusal d a c).time = s.time ∧ (s.sendRefusal d a c).pwr = s.pwr
    ∧ (s.sendRefusal d a c).q = s.q ∧ (s.sendRefusal d a c).part = s.part ∧ (s.sendRefusal d a c).obj = s.obj ∧
    (s.sendRefusal d a c).sync = s.sync ∧ (s.sendRefusal d a c).red = s.red ∧
    (s.sendRefusal d a c).core = s.core ∧ (s.sendRefusal d a c).work = s.work ∧
    (s.sendRefusal d a c).mem = s.mem ∧ (s.sendRefusal d a c).cim = s.cim ∧ (s.sendRefusal d a c).nvm = s.nvm ∧
    (s.sendRefusal d a c).log = s.log ∧ (s.sendRefusal d a c).fence = s.fence ∧
    (s.sendRefusal d a c).mgmt = s.mgmt ∧ (s.sendRefusal d a c).jtag = s.jtag ∧
    (s.sendRefusal d a c).free = s.free ∧ (s.sendRefusal d a c).pending = s.pending := by simp [State.sendRefusal]

@[simp] theorem State.discardMsg_frame (m : FleetMsg) (s : State) :
    (s.discardMsg m).ao = s.ao ∧ (s.discardMsg m).boot = s.boot ∧ (s.discardMsg m).hws = s.hws ∧
    (s.discardMsg m).tw = s.tw ∧ (s.discardMsg m).time = s.time ∧ (s.discardMsg m).pwr = s.pwr ∧
    (s.discardMsg m).q = s.q ∧ (s.discardMsg m).part = s.part ∧ (s.discardMsg m).obj = s.obj ∧
    (s.discardMsg m).sync = s.sync ∧ (s.discardMsg m).red = s.red ∧ (s.discardMsg m).core = s.core ∧
    (s.discardMsg m).work = s.work ∧ (s.discardMsg m).mem = s.mem ∧ (s.discardMsg m).cim = s.cim ∧
    (s.discardMsg m).fleet = s.fleet ∧ (s.discardMsg m).nvm = s.nvm ∧ (s.discardMsg m).fence = s.fence ∧
    (s.discardMsg m).mgmt = s.mgmt ∧ (s.discardMsg m).jtag = s.jtag ∧ (s.discardMsg m).free = s.free ∧
    (s.discardMsg m).pending = s.pending := by simp [State.discardMsg]

@[simp] theorem State.fwdReply_frame (pid part : Nat) (r : List Byte) (s : State) :
    (s.fwdReply pid part r).ao = s.ao ∧ (s.fwdReply pid part r).boot = s.boot ∧ (s.fwdReply pid part r).host = s.host ∧
    (s.fwdReply pid part r).tw = s.tw ∧ (s.fwdReply pid part r).time = s.time ∧ (s.fwdReply pid part r).pwr = s.pwr ∧
    (s.fwdReply pid part r).q = s.q ∧ (s.fwdReply pid part r).part = s.part ∧ (s.fwdReply pid part r).obj = s.obj ∧
    (s.fwdReply pid part r).sync = s.sync ∧ (s.fwdReply pid part r).red = s.red ∧ (s.fwdReply pid part r).core = s.core ∧
    (s.fwdReply pid part r).work = s.work ∧ (s.fwdReply pid part r).mem = s.mem ∧ (s.fwdReply pid part r).cim = s.cim ∧
    (s.fwdReply pid part r).nvm = s.nvm ∧ (s.fwdReply pid part r).log = s.log ∧ (s.fwdReply pid part r).fence = s.fence ∧
    (s.fwdReply pid part r).mgmt = s.mgmt ∧ (s.fwdReply pid part r).jtag = s.jtag ∧ (s.fwdReply pid part r).free = s.free ∧
    (s.fwdReply pid part r).pending = s.pending := by
  unfold State.fwdReply
  (try dsimp only)
  (repeat' (split <;> try dsimp only)) <;> simp

@[simp] theorem State.reply_frame (q : QueueId) (p : Packet) (st res det : Nat) (s : State) :
    (s.reply q p st res det).ao = s.ao ∧ (s.reply q p st res det).boot = s.boot ∧
    (s.reply q p st res det).tw = s.tw ∧ (s.reply q p st res det).time = s.time ∧
    (s.reply q p st res det).pwr = s.pwr ∧ (s.reply q p st res det).part = s.part ∧
    (s.reply q p st res det).obj = s.obj ∧ (s.reply q p st res det).sync = s.sync ∧
    (s.reply q p st res det).red = s.red ∧ (s.reply q p st res det).core = s.core ∧
    (s.reply q p st res det).work = s.work ∧ (s.reply q p st res det).cim = s.cim ∧
    (s.reply q p st res det).nvm = s.nvm ∧ (s.reply q p st res det).fence = s.fence ∧
    (s.reply q p st res det).mgmt = s.mgmt ∧ (s.reply q p st res det).jtag = s.jtag ∧
    (s.reply q p st res det).free = s.free ∧ (s.reply q p st res det).pending = s.pending := by
  unfold State.reply
  (try dsimp only)
  (repeat' (split <;> try dsimp only)) <;> simp

@[simp] theorem State.reserve_frame (q : QueueId) (s : State) :
    (s.reserve q).ao = s.ao ∧ (s.reserve q).boot = s.boot ∧ (s.reserve q).host = s.host ∧
    (s.reserve q).hws = s.hws ∧ (s.reserve q).tw = s.tw ∧ (s.reserve q).time = s.time ∧
    (s.reserve q).pwr = s.pwr ∧ (s.reserve q).part = s.part ∧ (s.reserve q).obj = s.obj ∧
    (s.reserve q).sync = s.sync ∧ (s.reserve q).red = s.red ∧ (s.reserve q).core = s.core ∧
    (s.reserve q).work = s.work ∧ (s.reserve q).mem = s.mem ∧ (s.reserve q).cim = s.cim ∧
    (s.reserve q).fleet = s.fleet ∧ (s.reserve q).nvm = s.nvm ∧ (s.reserve q).log = s.log ∧
    (s.reserve q).fence = s.fence ∧ (s.reserve q).mgmt = s.mgmt ∧ (s.reserve q).jtag = s.jtag ∧
    (s.reserve q).out = s.out ∧ (s.reserve q).free = s.free ∧ (s.reserve q).pending = s.pending := by
  refine ⟨?_, ?_, ?_, ?_, ?_, ?_, ?_, ?_, ?_, ?_, ?_, ?_, ?_, ?_, ?_, ?_, ?_, ?_, ?_, ?_, ?_, ?_, ?_, ?_⟩ <;> rfl

@[simp] theorem State.refuse_frame (q : QueueId) (p : Packet) (st res det : Nat) (s : State) :
    (s.refuse q p st res det).ao = s.ao ∧ (s.refuse q p st res det).boot = s.boot ∧
    (s.refuse q p st res det).tw = s.tw ∧ (s.refuse q p st res det).time = s.time ∧
    (s.refuse q p st res det).pwr = s.pwr ∧ (s.refuse q p st res det).part = s.part ∧
    (s.refuse q p st res det).obj = s.obj ∧ (s.refuse q p st res det).sync = s.sync ∧
    (s.refuse q p st res det).red = s.red ∧ (s.refuse q p st res det).core = s.core ∧
    (s.refuse q p st res det).work = s.work ∧ (s.refuse q p st res det).cim = s.cim ∧
    (s.refuse q p st res det).nvm = s.nvm ∧ (s.refuse q p st res det).fence = s.fence ∧
    (s.refuse q p st res det).mgmt = s.mgmt ∧ (s.refuse q p st res det).jtag = s.jtag ∧
    (s.refuse q p st res det).free = s.free ∧ (s.refuse q p st res det).pending = s.pending := by
  unfold State.refuse
  (try dsimp only)
  (repeat' (split <;> try dsimp only)) <;> simp

@[simp] theorem State.reject_frame (q : QueueId) (p : Packet) (st det : Nat) (s : State) :
    (s.reject q p st det).ao = s.ao ∧ (s.reject q p st det).boot = s.boot ∧ (s.reject q p st det).tw = s.tw ∧
    (s.reject q p st det).time = s.time ∧ (s.reject q p st det).pwr = s.pwr ∧
    (s.reject q p st det).part = s.part ∧ (s.reject q p st det).obj = s.obj ∧
    (s.reject q p st det).sync = s.sync ∧ (s.reject q p st det).red = s.red ∧
    (s.reject q p st det).core = s.core ∧ (s.reject q p st det).work = s.work ∧
    (s.reject q p st det).cim = s.cim ∧ (s.reject q p st det).nvm = s.nvm ∧
    (s.reject q p st det).fence = s.fence ∧ (s.reject q p st det).mgmt = s.mgmt ∧
    (s.reject q p st det).jtag = s.jtag ∧ (s.reject q p st det).free = s.free ∧
    (s.reject q p st det).pending = s.pending := by simp [State.reject]

@[simp] theorem State.finish_frame (pid st res det : Nat) (s : State) :
    (s.finish pid st res det).ao = s.ao ∧ (s.finish pid st res det).boot = s.boot ∧
    (s.finish pid st res det).tw = s.tw ∧ (s.finish pid st res det).time = s.time ∧
    (s.finish pid st res det).pwr = s.pwr ∧ (s.finish pid st res det).part = s.part ∧
    (s.finish pid st res det).obj = s.obj ∧ (s.finish pid st res det).sync = s.sync ∧
    (s.finish pid st res det).red = s.red ∧ (s.finish pid st res det).core = s.core ∧
    (s.finish pid st res det).work = s.work ∧ (s.finish pid st res det).cim = s.cim ∧
    (s.finish pid st res det).nvm = s.nvm ∧ (s.finish pid st res det).fence = s.fence ∧
    (s.finish pid st res det).mgmt = s.mgmt ∧ (s.finish pid st res det).jtag = s.jtag ∧
    (s.finish pid st res det).free = s.free ∧ (s.finish pid st res det).pending = s.pending := by
  unfold State.finish
  (try dsimp only)
  (repeat' (split <;> try dsimp only)) <;> simp

@[simp] theorem State.packetFault_frame (pid code : Nat) (addr : DWord) (s : State) :
    (s.packetFault pid code addr).ao = s.ao ∧ (s.packetFault pid code addr).boot = s.boot ∧
    (s.packetFault pid code addr).tw = s.tw ∧ (s.packetFault pid code addr).time = s.time ∧
    (s.packetFault pid code addr).pwr = s.pwr ∧ (s.packetFault pid code addr).part = s.part ∧
    (s.packetFault pid code addr).sync = s.sync ∧ (s.packetFault pid code addr).red = s.red ∧
    (s.packetFault pid code addr).core = s.core ∧ (s.packetFault pid code addr).work = s.work ∧
    (s.packetFault pid code addr).cim = s.cim ∧ (s.packetFault pid code addr).nvm = s.nvm ∧
    (s.packetFault pid code addr).fence = s.fence ∧ (s.packetFault pid code addr).mgmt = s.mgmt ∧
    (s.packetFault pid code addr).jtag = s.jtag ∧ (s.packetFault pid code addr).free = s.free ∧
    (s.packetFault pid code addr).pending = s.pending := by
  unfold State.packetFault
  (try dsimp only)
  (repeat' (split <;> try dsimp only)) <;> simp

@[simp] theorem State.mboxAnswer_frame (st : Nat) (s : State) :
    (s.mboxAnswer st).ao = s.ao ∧ (s.mboxAnswer st).host = s.host ∧ (s.mboxAnswer st).hws = s.hws ∧
    (s.mboxAnswer st).tw = s.tw ∧ (s.mboxAnswer st).time = s.time ∧ (s.mboxAnswer st).pwr = s.pwr ∧
    (s.mboxAnswer st).q = s.q ∧ (s.mboxAnswer st).part = s.part ∧ (s.mboxAnswer st).obj = s.obj ∧
    (s.mboxAnswer st).sync = s.sync ∧ (s.mboxAnswer st).red = s.red ∧ (s.mboxAnswer st).core = s.core ∧
    (s.mboxAnswer st).work = s.work ∧ (s.mboxAnswer st).mem = s.mem ∧ (s.mboxAnswer st).cim = s.cim ∧
    (s.mboxAnswer st).fleet = s.fleet ∧ (s.mboxAnswer st).nvm = s.nvm ∧ (s.mboxAnswer st).log = s.log ∧
    (s.mboxAnswer st).fence = s.fence ∧ (s.mboxAnswer st).mgmt = s.mgmt ∧ (s.mboxAnswer st).jtag = s.jtag ∧
    (s.mboxAnswer st).out = s.out ∧ (s.mboxAnswer st).free = s.free ∧ (s.mboxAnswer st).pending = s.pending := by simp [State.mboxAnswer]

@[simp] theorem State.nvmLeave_frame (w : NvmWrite) (s : State) :
    (s.nvmLeave w).ao = s.ao ∧ (s.nvmLeave w).tw = s.tw ∧ (s.nvmLeave w).time = s.time ∧
    (s.nvmLeave w).pwr = s.pwr ∧ (s.nvmLeave w).part = s.part ∧ (s.nvmLeave w).obj = s.obj ∧
    (s.nvmLeave w).sync = s.sync ∧ (s.nvmLeave w).red = s.red ∧ (s.nvmLeave w).core = s.core ∧
    (s.nvmLeave w).work = s.work ∧ (s.nvmLeave w).cim = s.cim ∧ (s.nvmLeave w).mgmt = s.mgmt ∧
    (s.nvmLeave w).jtag = s.jtag ∧ (s.nvmLeave w).free = s.free ∧ (s.nvmLeave w).pending = s.pending := by
  unfold State.nvmLeave
  split <;> simp

@[simp] theorem State.nvmStop_frame (s : State) :
    (s.nvmStop).ao = s.ao ∧ (s.nvmStop).tw = s.tw ∧ (s.nvmStop).time = s.time ∧ (s.nvmStop).pwr = s.pwr ∧
    (s.nvmStop).part = s.part ∧ (s.nvmStop).obj = s.obj ∧ (s.nvmStop).sync = s.sync ∧ (s.nvmStop).red = s.red ∧
    (s.nvmStop).core = s.core ∧ (s.nvmStop).work = s.work ∧ (s.nvmStop).cim = s.cim ∧ (s.nvmStop).mgmt = s.mgmt ∧
    (s.nvmStop).jtag = s.jtag ∧ (s.nvmStop).free = s.free ∧ (s.nvmStop).pending = s.pending := by
  unfold State.nvmStop
  (repeat' (split <;> try dsimp only)) <;> simp

@[simp] theorem State.nvmRefuse_frame (s : State) :
    (s.nvmRefuse).ao = s.ao ∧ (s.nvmRefuse).tw = s.tw ∧ (s.nvmRefuse).time = s.time ∧ (s.nvmRefuse).pwr = s.pwr ∧
    (s.nvmRefuse).part = s.part ∧ (s.nvmRefuse).obj = s.obj ∧ (s.nvmRefuse).sync = s.sync ∧
    (s.nvmRefuse).red = s.red ∧ (s.nvmRefuse).core = s.core ∧ (s.nvmRefuse).work = s.work ∧
    (s.nvmRefuse).cim = s.cim ∧ (s.nvmRefuse).mgmt = s.mgmt ∧ (s.nvmRefuse).jtag = s.jtag ∧
    (s.nvmRefuse).free = s.free ∧ (s.nvmRefuse).pending = s.pending := by
  unfold State.nvmRefuse
  dsimp only
  refine ⟨(foldl_keeps State.ao _ ?_ _ _).trans (by simp),
    (foldl_keeps State.tw _ ?_ _ _).trans (by simp),
    (foldl_keeps State.time _ ?_ _ _).trans (by simp),
    (foldl_keeps State.pwr _ ?_ _ _).trans (by simp),
    (foldl_keeps State.part _ ?_ _ _).trans (by simp),
    (foldl_keeps State.obj _ ?_ _ _).trans (by simp),
    (foldl_keeps State.sync _ ?_ _ _).trans (by simp),
    (foldl_keeps State.red _ ?_ _ _).trans (by simp),
    (foldl_keeps State.core _ ?_ _ _).trans (by simp),
    (foldl_keeps State.work _ ?_ _ _).trans (by simp),
    (foldl_keeps State.cim _ ?_ _ _).trans (by simp),
    (foldl_keeps State.mgmt _ ?_ _ _).trans (by simp),
    (foldl_keeps State.jtag _ ?_ _ _).trans (by simp),
    (foldl_keeps State.free _ ?_ _ _).trans (by simp),
    (foldl_keeps State.pending _ ?_ _ _).trans (by simp)⟩ <;>
  · intro t a
    (repeat' split) <;> simp

@[simp] theorem State.tripUpdate_frame (s : State) :
    (s.tripUpdate).ao = s.ao ∧ (s.tripUpdate).boot = s.boot ∧ (s.tripUpdate).hws = s.hws ∧
    (s.tripUpdate).tw = s.tw ∧ (s.tripUpdate).time = s.time ∧ (s.tripUpdate).pwr = s.pwr ∧
    (s.tripUpdate).q = s.q ∧ (s.tripUpdate).part = s.part ∧ (s.tripUpdate).obj = s.obj ∧
    (s.tripUpdate).sync = s.sync ∧ (s.tripUpdate).red = s.red ∧ (s.tripUpdate).core = s.core ∧
    (s.tripUpdate).work = s.work ∧ (s.tripUpdate).mem = s.mem ∧ (s.tripUpdate).cim = s.cim ∧
    (s.tripUpdate).fleet = s.fleet ∧ (s.tripUpdate).fence = s.fence ∧ (s.tripUpdate).jtag = s.jtag ∧
    (s.tripUpdate).free = s.free ∧ (s.tripUpdate).pending = s.pending := by unfold State.tripUpdate; dsimp only; split <;> simp

@[simp] theorem State.closeStream_frame (c a : Nat) (s : State) :
    (s.closeStream c a).ao = s.ao ∧ (s.closeStream c a).boot = s.boot ∧ (s.closeStream c a).host = s.host ∧
    (s.closeStream c a).hws = s.hws ∧ (s.closeStream c a).tw = s.tw ∧ (s.closeStream c a).time = s.time ∧
    (s.closeStream c a).pwr = s.pwr ∧ (s.closeStream c a).q = s.q ∧ (s.closeStream c a).part = s.part ∧
    (s.closeStream c a).sync = s.sync ∧ (s.closeStream c a).red = s.red ∧ (s.closeStream c a).core = s.core ∧
    (s.closeStream c a).work = s.work ∧ (s.closeStream c a).mem = s.mem ∧ (s.closeStream c a).cim = s.cim ∧
    (s.closeStream c a).fleet = s.fleet ∧ (s.closeStream c a).nvm = s.nvm ∧ (s.closeStream c a).log = s.log ∧
    (s.closeStream c a).fence = s.fence ∧ (s.closeStream c a).mgmt = s.mgmt ∧ (s.closeStream c a).jtag = s.jtag
    ∧ (s.closeStream c a).out = s.out ∧ (s.closeStream c a).free = s.free ∧
    (s.closeStream c a).pending = s.pending := by simp [State.closeStream]

@[simp] theorem State.dropWork_frame (pid : Nat) (s : State) :
    (s.dropWork pid).ao = s.ao ∧ (s.dropWork pid).boot = s.boot ∧ (s.dropWork pid).host = s.host ∧
    (s.dropWork pid).hws = s.hws ∧ (s.dropWork pid).tw = s.tw ∧ (s.dropWork pid).time = s.time ∧
    (s.dropWork pid).pwr = s.pwr ∧ (s.dropWork pid).q = s.q ∧ (s.dropWork pid).part = s.part ∧
    (s.dropWork pid).sync = s.sync ∧ (s.dropWork pid).red = s.red ∧ (s.dropWork pid).mem = s.mem ∧
    (s.dropWork pid).fleet = s.fleet ∧ (s.dropWork pid).nvm = s.nvm ∧ (s.dropWork pid).log = s.log ∧
    (s.dropWork pid).fence = s.fence ∧ (s.dropWork pid).mgmt = s.mgmt ∧ (s.dropWork pid).jtag = s.jtag ∧
    (s.dropWork pid).out = s.out ∧ (s.dropWork pid).free = s.free ∧ (s.dropWork pid).pending = s.pending := by
  unfold State.dropWork
  (try dsimp only)
  (repeat' (split <;> try dsimp only)) <;> simp

@[simp] theorem State.stopWork_frame (pid st : Nat) (s : State) :
    (s.stopWork pid st).ao = s.ao ∧ (s.stopWork pid st).boot = s.boot ∧ (s.stopWork pid st).tw = s.tw ∧
    (s.stopWork pid st).time = s.time ∧ (s.stopWork pid st).pwr = s.pwr ∧ (s.stopWork pid st).part = s.part ∧
    (s.stopWork pid st).sync = s.sync ∧ (s.stopWork pid st).red = s.red ∧ (s.stopWork pid st).nvm = s.nvm ∧
    (s.stopWork pid st).fence = s.fence ∧ (s.stopWork pid st).mgmt = s.mgmt ∧ (s.stopWork pid st).jtag = s.jtag
    ∧ (s.stopWork pid st).free = s.free ∧ (s.stopWork pid st).pending = s.pending := by simp [State.stopWork]

@[simp] theorem State.retuneAll_frame (s : State) :
    (s.retuneAll).ao = s.ao ∧ (s.retuneAll).boot = s.boot ∧ (s.retuneAll).host = s.host ∧
    (s.retuneAll).hws = s.hws ∧ (s.retuneAll).tw = s.tw ∧ (s.retuneAll).time = s.time ∧ (s.retuneAll).q = s.q ∧
    (s.retuneAll).part = s.part ∧ (s.retuneAll).obj = s.obj ∧ (s.retuneAll).sync = s.sync ∧
    (s.retuneAll).red = s.red ∧ (s.retuneAll).core = s.core ∧ (s.retuneAll).work = s.work ∧
    (s.retuneAll).mem = s.mem ∧ (s.retuneAll).cim = s.cim ∧ (s.retuneAll).fleet = s.fleet ∧
    (s.retuneAll).nvm = s.nvm ∧ (s.retuneAll).log = s.log ∧ (s.retuneAll).fence = s.fence ∧
    (s.retuneAll).mgmt = s.mgmt ∧ (s.retuneAll).jtag = s.jtag ∧
    (s.retuneAll).free = s.free ∧ (s.retuneAll).pending = s.pending := by
  unfold State.retuneAll
  refine ⟨foldl_keeps State.ao _ ?_ _ _,
    foldl_keeps State.boot _ ?_ _ _,
    foldl_keeps State.host _ ?_ _ _,
    foldl_keeps State.hws _ ?_ _ _,
    foldl_keeps State.tw _ ?_ _ _,
    foldl_keeps State.time _ ?_ _ _,
    foldl_keeps State.q _ ?_ _ _,
    foldl_keeps State.part _ ?_ _ _,
    foldl_keeps State.obj _ ?_ _ _,
    foldl_keeps State.sync _ ?_ _ _,
    foldl_keeps State.red _ ?_ _ _,
    foldl_keeps State.core _ ?_ _ _,
    foldl_keeps State.work _ ?_ _ _,
    foldl_keeps State.mem _ ?_ _ _,
    foldl_keeps State.cim _ ?_ _ _,
    foldl_keeps State.fleet _ ?_ _ _,
    foldl_keeps State.nvm _ ?_ _ _,
    foldl_keeps State.log _ ?_ _ _,
    foldl_keeps State.fence _ ?_ _ _,
    foldl_keeps State.mgmt _ ?_ _ _,
    foldl_keeps State.jtag _ ?_ _ _,
    foldl_keeps State.free _ ?_ _ _,
    foldl_keeps State.pending _ ?_ _ _⟩ <;>
  · intro t a
    (repeat' split) <;> simp

@[simp] theorem State.msixSend_host (fn v : Nat) (s : State) :
    (s.msixSend fn v).host.width = s.host.width ∧ (s.msixSend fn v).host.rate = s.host.rate ∧
    (s.msixSend fn v).host.flit256 = s.host.flit256 ∧ (s.msixSend fn v).host.cxlOn = s.host.cxlOn ∧
    (s.msixSend fn v).host.cxlDisabled = s.host.cxlDisabled ∧
    (s.msixSend fn v).host.memActive = s.host.memActive ∧ (s.msixSend fn v).host.hdm = s.host.hdm ∧
    (s.msixSend fn v).host.linkL12 = s.host.linkL12 ∧ (s.msixSend fn v).host.linkDown = s.host.linkDown ∧
    (s.msixSend fn v).host.bar2Log = s.host.bar2Log ∧ (s.msixSend fn v).host.vfEnable = s.host.vfEnable ∧
    (s.msixSend fn v).host.vfPending = s.host.vfPending ∧ (s.msixSend fn v).host.vfsReady = s.host.vfsReady ∧
    (s.msixSend fn v).host.intMask = s.host.intMask ∧ (s.msixSend fn v).host.intVec = s.host.intVec ∧
    (s.msixSend fn v).host.msixEnable = s.host.msixEnable ∧ (s.msixSend fn v).host.msixFmask = s.host.msixFmask
    ∧ (s.msixSend fn v).host.scratch = s.host.scratch ∧ (s.msixSend fn v).host.updateDis = s.host.updateDis ∧
    (s.msixSend fn v).host.latch = s.host.latch ∧ (s.msixSend fn v).host.ideLink = s.host.ideLink ∧
    (s.msixSend fn v).host.ideStreams = s.host.ideStreams ∧ (s.msixSend fn v).host.d3hot = s.host.d3hot := by
  unfold State.msixSend
  (try dsimp only)
  (repeat' (split <;> try dsimp only)) <;> simp

@[simp] theorem State.raise_host (k : Nat) (s : State) :
    (s.raise k).host.width = s.host.width ∧ (s.raise k).host.rate = s.host.rate ∧
    (s.raise k).host.flit256 = s.host.flit256 ∧ (s.raise k).host.cxlOn = s.host.cxlOn ∧
    (s.raise k).host.cxlDisabled = s.host.cxlDisabled ∧ (s.raise k).host.memActive = s.host.memActive ∧
    (s.raise k).host.hdm = s.host.hdm ∧ (s.raise k).host.linkL12 = s.host.linkL12 ∧
    (s.raise k).host.linkDown = s.host.linkDown ∧ (s.raise k).host.bar2Log = s.host.bar2Log ∧
    (s.raise k).host.vfEnable = s.host.vfEnable ∧ (s.raise k).host.vfPending = s.host.vfPending ∧
    (s.raise k).host.vfsReady = s.host.vfsReady ∧ (s.raise k).host.intMask = s.host.intMask ∧
    (s.raise k).host.intVec = s.host.intVec ∧ (s.raise k).host.msixEnable = s.host.msixEnable ∧
    (s.raise k).host.msixFmask = s.host.msixFmask ∧ (s.raise k).host.scratch = s.host.scratch ∧
    (s.raise k).host.updateDis = s.host.updateDis ∧ (s.raise k).host.latch = s.host.latch ∧
    (s.raise k).host.ideLink = s.host.ideLink ∧ (s.raise k).host.ideStreams = s.host.ideStreams ∧
    (s.raise k).host.d3hot = s.host.d3hot := by
  unfold State.raise
  (try dsimp only)
  (repeat' (split <;> try dsimp only)) <;> simp

@[simp] theorem State.raiseVf_host (n b : Nat) (s : State) :
    (s.raiseVf n b).host.width = s.host.width ∧ (s.raiseVf n b).host.rate = s.host.rate ∧
    (s.raiseVf n b).host.flit256 = s.host.flit256 ∧ (s.raiseVf n b).host.cxlOn = s.host.cxlOn ∧
    (s.raiseVf n b).host.cxlDisabled = s.host.cxlDisabled ∧ (s.raiseVf n b).host.memActive = s.host.memActive ∧
    (s.raiseVf n b).host.hdm = s.host.hdm ∧ (s.raiseVf n b).host.linkL12 = s.host.linkL12 ∧
    (s.raiseVf n b).host.linkDown = s.host.linkDown ∧ (s.raiseVf n b).host.bar2Log = s.host.bar2Log ∧
    (s.raiseVf n b).host.vfEnable = s.host.vfEnable ∧ (s.raiseVf n b).host.vfPending = s.host.vfPending ∧
    (s.raiseVf n b).host.vfsReady = s.host.vfsReady ∧ (s.raiseVf n b).host.intMask = s.host.intMask ∧
    (s.raiseVf n b).host.intVec = s.host.intVec ∧ (s.raiseVf n b).host.msixEnable = s.host.msixEnable ∧
    (s.raiseVf n b).host.msixFmask = s.host.msixFmask ∧ (s.raiseVf n b).host.scratch = s.host.scratch ∧
    (s.raiseVf n b).host.updateDis = s.host.updateDis ∧ (s.raiseVf n b).host.latch = s.host.latch ∧
    (s.raiseVf n b).host.ideLink = s.host.ideLink ∧ (s.raiseVf n b).host.ideStreams = s.host.ideStreams ∧
    (s.raiseVf n b).host.d3hot = s.host.d3hot := by
  unfold State.raiseVf
  (try dsimp only)
  (repeat' (split <;> try dsimp only)) <;> simp

@[simp] theorem State.logOcc_host (o : Occ) (s : State) :
    (s.logOcc o).host.width = s.host.width ∧ (s.logOcc o).host.rate = s.host.rate ∧
    (s.logOcc o).host.flit256 = s.host.flit256 ∧ (s.logOcc o).host.cxlOn = s.host.cxlOn ∧
    (s.logOcc o).host.cxlDisabled = s.host.cxlDisabled ∧ (s.logOcc o).host.memActive = s.host.memActive ∧
    (s.logOcc o).host.hdm = s.host.hdm ∧ (s.logOcc o).host.linkL12 = s.host.linkL12 ∧
    (s.logOcc o).host.linkDown = s.host.linkDown ∧ (s.logOcc o).host.bar2Log = s.host.bar2Log ∧
    (s.logOcc o).host.vfEnable = s.host.vfEnable ∧ (s.logOcc o).host.vfPending = s.host.vfPending ∧
    (s.logOcc o).host.vfsReady = s.host.vfsReady ∧ (s.logOcc o).host.intMask = s.host.intMask ∧
    (s.logOcc o).host.intVec = s.host.intVec ∧ (s.logOcc o).host.msixEnable = s.host.msixEnable ∧
    (s.logOcc o).host.msixFmask = s.host.msixFmask ∧ (s.logOcc o).host.scratch = s.host.scratch ∧
    (s.logOcc o).host.updateDis = s.host.updateDis ∧ (s.logOcc o).host.latch = s.host.latch ∧
    (s.logOcc o).host.ideLink = s.host.ideLink ∧ (s.logOcc o).host.ideStreams = s.host.ideStreams ∧
    (s.logOcc o).host.d3hot = s.host.d3hot := by
  unfold State.logOcc
  (try dsimp only)
  (repeat' (split <;> try dsimp only)) <;> simp

@[simp] theorem State.mismatch_host (e : Nat) (p : Option Nat) (a : DWord) (s : State) :
    (s.mismatch e p a).host.width = s.host.width ∧ (s.mismatch e p a).host.rate = s.host.rate ∧
    (s.mismatch e p a).host.flit256 = s.host.flit256 ∧ (s.mismatch e p a).host.cxlOn = s.host.cxlOn ∧
    (s.mismatch e p a).host.cxlDisabled = s.host.cxlDisabled ∧
    (s.mismatch e p a).host.memActive = s.host.memActive ∧ (s.mismatch e p a).host.hdm = s.host.hdm ∧
    (s.mismatch e p a).host.linkL12 = s.host.linkL12 ∧ (s.mismatch e p a).host.linkDown = s.host.linkDown ∧
    (s.mismatch e p a).host.bar2Log = s.host.bar2Log ∧ (s.mismatch e p a).host.vfEnable = s.host.vfEnable ∧
    (s.mismatch e p a).host.vfPending = s.host.vfPending ∧ (s.mismatch e p a).host.vfsReady = s.host.vfsReady ∧
    (s.mismatch e p a).host.intMask = s.host.intMask ∧ (s.mismatch e p a).host.intVec = s.host.intVec ∧
    (s.mismatch e p a).host.msixEnable = s.host.msixEnable ∧
    (s.mismatch e p a).host.msixFmask = s.host.msixFmask ∧ (s.mismatch e p a).host.scratch = s.host.scratch ∧
    (s.mismatch e p a).host.updateDis = s.host.updateDis ∧ (s.mismatch e p a).host.latch = s.host.latch ∧
    (s.mismatch e p a).host.ideLink = s.host.ideLink ∧ (s.mismatch e p a).host.ideStreams = s.host.ideStreams ∧
    (s.mismatch e p a).host.d3hot = s.host.d3hot := by simp [State.mismatch]

@[simp] theorem State.halt_host (stage code : Nat) (detail : Word) (s : State) :
    (s.halt stage code detail).host.width = s.host.width ∧ (s.halt stage code detail).host.rate = s.host.rate ∧
    (s.halt stage code detail).host.flit256 = s.host.flit256 ∧
    (s.halt stage code detail).host.cxlOn = s.host.cxlOn ∧
    (s.halt stage code detail).host.cxlDisabled = s.host.cxlDisabled ∧
    (s.halt stage code detail).host.memActive = s.host.memActive ∧
    (s.halt stage code detail).host.hdm = s.host.hdm ∧ (s.halt stage code detail).host.linkL12 = s.host.linkL12
    ∧ (s.halt stage code detail).host.linkDown = s.host.linkDown ∧
    (s.halt stage code detail).host.bar2Log = s.host.bar2Log ∧
    (s.halt stage code detail).host.vfEnable = s.host.vfEnable ∧
    (s.halt stage code detail).host.vfPending = s.host.vfPending ∧
    (s.halt stage code detail).host.vfsReady = s.host.vfsReady ∧
    (s.halt stage code detail).host.intMask = s.host.intMask ∧
    (s.halt stage code detail).host.intVec = s.host.intVec ∧
    (s.halt stage code detail).host.msixEnable = s.host.msixEnable ∧
    (s.halt stage code detail).host.msixFmask = s.host.msixFmask ∧
    (s.halt stage code detail).host.scratch = s.host.scratch ∧
    (s.halt stage code detail).host.updateDis = s.host.updateDis ∧
    (s.halt stage code detail).host.latch = s.host.latch ∧
    (s.halt stage code detail).host.ideLink = s.host.ideLink ∧
    (s.halt stage code detail).host.ideStreams = s.host.ideStreams ∧
    (s.halt stage code detail).host.d3hot = s.host.d3hot := by simp [State.halt]

@[simp] theorem State.note_host (code : Nat) (detail : Word) (s : State) :
    (s.note code detail).host.width = s.host.width ∧ (s.note code detail).host.rate = s.host.rate ∧
    (s.note code detail).host.flit256 = s.host.flit256 ∧ (s.note code detail).host.cxlOn = s.host.cxlOn ∧
    (s.note code detail).host.cxlDisabled = s.host.cxlDisabled ∧
    (s.note code detail).host.memActive = s.host.memActive ∧ (s.note code detail).host.hdm = s.host.hdm ∧
    (s.note code detail).host.linkL12 = s.host.linkL12 ∧ (s.note code detail).host.linkDown = s.host.linkDown ∧
    (s.note code detail).host.bar2Log = s.host.bar2Log ∧ (s.note code detail).host.vfEnable = s.host.vfEnable ∧
    (s.note code detail).host.vfPending = s.host.vfPending ∧
    (s.note code detail).host.vfsReady = s.host.vfsReady ∧ (s.note code detail).host.intMask = s.host.intMask ∧
    (s.note code detail).host.intVec = s.host.intVec ∧ (s.note code detail).host.msixEnable = s.host.msixEnable
    ∧ (s.note code detail).host.msixFmask = s.host.msixFmask ∧
    (s.note code detail).host.scratch = s.host.scratch ∧ (s.note code detail).host.updateDis = s.host.updateDis
    ∧ (s.note code detail).host.latch = s.host.latch ∧ (s.note code detail).host.ideLink = s.host.ideLink ∧
    (s.note code detail).host.ideStreams = s.host.ideStreams ∧ (s.note code detail).host.d3hot = s.host.d3hot := by simp [State.note]

@[simp] theorem State.pldmEvent_host (id v : Nat) (s : State) :
    (s.pldmEvent id v).host.width = s.host.width ∧ (s.pldmEvent id v).host.rate = s.host.rate ∧
    (s.pldmEvent id v).host.flit256 = s.host.flit256 ∧ (s.pldmEvent id v).host.cxlOn = s.host.cxlOn ∧
    (s.pldmEvent id v).host.cxlDisabled = s.host.cxlDisabled ∧
    (s.pldmEvent id v).host.memActive = s.host.memActive ∧ (s.pldmEvent id v).host.hdm = s.host.hdm ∧
    (s.pldmEvent id v).host.linkL12 = s.host.linkL12 ∧ (s.pldmEvent id v).host.linkDown = s.host.linkDown ∧
    (s.pldmEvent id v).host.bar2Log = s.host.bar2Log ∧ (s.pldmEvent id v).host.vfEnable = s.host.vfEnable ∧
    (s.pldmEvent id v).host.vfPending = s.host.vfPending ∧ (s.pldmEvent id v).host.vfsReady = s.host.vfsReady ∧
    (s.pldmEvent id v).host.intMask = s.host.intMask ∧ (s.pldmEvent id v).host.intVec = s.host.intVec ∧
    (s.pldmEvent id v).host.msixEnable = s.host.msixEnable ∧
    (s.pldmEvent id v).host.msixFmask = s.host.msixFmask ∧ (s.pldmEvent id v).host.scratch = s.host.scratch ∧
    (s.pldmEvent id v).host.updateDis = s.host.updateDis ∧ (s.pldmEvent id v).host.latch = s.host.latch ∧
    (s.pldmEvent id v).host.ideLink = s.host.ideLink ∧ (s.pldmEvent id v).host.ideStreams = s.host.ideStreams ∧
    (s.pldmEvent id v).host.d3hot = s.host.d3hot := by
  unfold State.pldmEvent
  (try dsimp only)
  (repeat' (split <;> try dsimp only)) <;> simp

@[simp] theorem State.pldmWatch_host  (s : State) :
    (s.pldmWatch).host.width = s.host.width ∧ (s.pldmWatch).host.rate = s.host.rate ∧
    (s.pldmWatch).host.flit256 = s.host.flit256 ∧ (s.pldmWatch).host.cxlOn = s.host.cxlOn ∧
    (s.pldmWatch).host.cxlDisabled = s.host.cxlDisabled ∧ (s.pldmWatch).host.memActive = s.host.memActive ∧
    (s.pldmWatch).host.hdm = s.host.hdm ∧ (s.pldmWatch).host.linkL12 = s.host.linkL12 ∧
    (s.pldmWatch).host.linkDown = s.host.linkDown ∧ (s.pldmWatch).host.bar2Log = s.host.bar2Log ∧
    (s.pldmWatch).host.vfEnable = s.host.vfEnable ∧ (s.pldmWatch).host.vfPending = s.host.vfPending ∧
    (s.pldmWatch).host.vfsReady = s.host.vfsReady ∧ (s.pldmWatch).host.intMask = s.host.intMask ∧
    (s.pldmWatch).host.intVec = s.host.intVec ∧ (s.pldmWatch).host.msixEnable = s.host.msixEnable ∧
    (s.pldmWatch).host.msixFmask = s.host.msixFmask ∧ (s.pldmWatch).host.scratch = s.host.scratch ∧
    (s.pldmWatch).host.updateDis = s.host.updateDis ∧ (s.pldmWatch).host.latch = s.host.latch ∧
    (s.pldmWatch).host.ideLink = s.host.ideLink ∧ (s.pldmWatch).host.ideStreams = s.host.ideStreams ∧
    (s.pldmWatch).host.d3hot = s.host.d3hot := by
  unfold State.pldmWatch
  split
  · simp
  refine ⟨foldl_keeps (fun s => s.host.width) _ ?_ _ _,
    foldl_keeps (fun s => s.host.rate) _ ?_ _ _,
    foldl_keeps (fun s => s.host.flit256) _ ?_ _ _,
    foldl_keeps (fun s => s.host.cxlOn) _ ?_ _ _,
    foldl_keeps (fun s => s.host.cxlDisabled) _ ?_ _ _,
    foldl_keeps (fun s => s.host.memActive) _ ?_ _ _,
    foldl_keeps (fun s => s.host.hdm) _ ?_ _ _,
    foldl_keeps (fun s => s.host.linkL12) _ ?_ _ _,
    foldl_keeps (fun s => s.host.linkDown) _ ?_ _ _,
    foldl_keeps (fun s => s.host.bar2Log) _ ?_ _ _,
    foldl_keeps (fun s => s.host.vfEnable) _ ?_ _ _,
    foldl_keeps (fun s => s.host.vfPending) _ ?_ _ _,
    foldl_keeps (fun s => s.host.vfsReady) _ ?_ _ _,
    foldl_keeps (fun s => s.host.intMask) _ ?_ _ _,
    foldl_keeps (fun s => s.host.intVec) _ ?_ _ _,
    foldl_keeps (fun s => s.host.msixEnable) _ ?_ _ _,
    foldl_keeps (fun s => s.host.msixFmask) _ ?_ _ _,
    foldl_keeps (fun s => s.host.scratch) _ ?_ _ _,
    foldl_keeps (fun s => s.host.updateDis) _ ?_ _ _,
    foldl_keeps (fun s => s.host.latch) _ ?_ _ _,
    foldl_keeps (fun s => s.host.ideLink) _ ?_ _ _,
    foldl_keeps (fun s => s.host.ideStreams) _ ?_ _ _,
    foldl_keeps (fun s => s.host.d3hot) _ ?_ _ _⟩ <;>
  · intro t a
    (repeat' split) <;> simp

@[simp] theorem State.giveUp_frame (l d : Nat) (s : State) :
    (s.giveUp l d).ao = s.ao ∧ (s.giveUp l d).boot = s.boot ∧ (s.giveUp l d).host = s.host ∧
    (s.giveUp l d).hws = s.hws ∧ (s.giveUp l d).tw = s.tw ∧ (s.giveUp l d).time = s.time ∧
    (s.giveUp l d).pwr = s.pwr ∧ (s.giveUp l d).q = s.q ∧ (s.giveUp l d).part = s.part ∧
    (s.giveUp l d).obj = s.obj ∧ (s.giveUp l d).sync = s.sync ∧ (s.giveUp l d).red = s.red ∧
    (s.giveUp l d).core = s.core ∧ (s.giveUp l d).work = s.work ∧ (s.giveUp l d).cim = s.cim ∧
    (s.giveUp l d).fleet = s.fleet ∧ (s.giveUp l d).nvm = s.nvm ∧ (s.giveUp l d).log = s.log ∧
    (s.giveUp l d).fence = s.fence ∧ (s.giveUp l d).mgmt = s.mgmt ∧ (s.giveUp l d).jtag = s.jtag ∧
    (s.giveUp l d).out = s.out ∧ (s.giveUp l d).free = s.free ∧ (s.giveUp l d).pending = s.pending := by
  unfold State.giveUp
  (try dsimp only)
  (repeat' (split <;> try dsimp only)) <;> simp

@[simp] theorem State.l2Empty_frame (d : Nat) (p : Nat → Nat → Bool) (s : State) :
    (s.l2Empty d p).ao = s.ao ∧ (s.l2Empty d p).boot = s.boot ∧ (s.l2Empty d p).host = s.host ∧
    (s.l2Empty d p).hws = s.hws ∧ (s.l2Empty d p).tw = s.tw ∧ (s.l2Empty d p).time = s.time ∧
    (s.l2Empty d p).pwr = s.pwr ∧ (s.l2Empty d p).q = s.q ∧ (s.l2Empty d p).part = s.part ∧
    (s.l2Empty d p).obj = s.obj ∧ (s.l2Empty d p).sync = s.sync ∧ (s.l2Empty d p).red = s.red ∧
    (s.l2Empty d p).core = s.core ∧ (s.l2Empty d p).work = s.work ∧ (s.l2Empty d p).cim = s.cim ∧
    (s.l2Empty d p).fleet = s.fleet ∧ (s.l2Empty d p).nvm = s.nvm ∧ (s.l2Empty d p).log = s.log ∧
    (s.l2Empty d p).fence = s.fence ∧ (s.l2Empty d p).mgmt = s.mgmt ∧ (s.l2Empty d p).jtag = s.jtag ∧
    (s.l2Empty d p).out = s.out ∧ (s.l2Empty d p).free = s.free ∧ (s.l2Empty d p).pending = s.pending := by
  unfold State.l2Empty
  refine ⟨foldl_keeps State.ao _ (fun t a => by simp) _ _,
    foldl_keeps State.boot _ (fun t a => by simp) _ _,
    foldl_keeps State.host _ (fun t a => by simp) _ _,
    foldl_keeps State.hws _ (fun t a => by simp) _ _,
    foldl_keeps State.tw _ (fun t a => by simp) _ _,
    foldl_keeps State.time _ (fun t a => by simp) _ _,
    foldl_keeps State.pwr _ (fun t a => by simp) _ _,
    foldl_keeps State.q _ (fun t a => by simp) _ _,
    foldl_keeps State.part _ (fun t a => by simp) _ _,
    foldl_keeps State.obj _ (fun t a => by simp) _ _,
    foldl_keeps State.sync _ (fun t a => by simp) _ _,
    foldl_keeps State.red _ (fun t a => by simp) _ _,
    foldl_keeps State.core _ (fun t a => by simp) _ _,
    foldl_keeps State.work _ (fun t a => by simp) _ _,
    foldl_keeps State.cim _ (fun t a => by simp) _ _,
    foldl_keeps State.fleet _ (fun t a => by simp) _ _,
    foldl_keeps State.nvm _ (fun t a => by simp) _ _,
    foldl_keeps State.log _ (fun t a => by simp) _ _,
    foldl_keeps State.fence _ (fun t a => by simp) _ _,
    foldl_keeps State.mgmt _ (fun t a => by simp) _ _,
    foldl_keeps State.jtag _ (fun t a => by simp) _ _,
    foldl_keeps State.out _ (fun t a => by simp) _ _,
    foldl_keeps State.free _ (fun t a => by simp) _ _,
    foldl_keeps State.pending _ (fun t a => by simp) _ _⟩

end Sys2Proof.Machine
end

