-- ==== Sys2Proof/Laws/Sync.lean ====
section
/-! SUPPORT. What the sync stores' and the reduction units' operations leave alone. -/

namespace Sys2Proof.Machine

open Sys2Proof

/-- An alert sets its bit of TW_ALERT. -/
@[simp] theorem State.alert_tw (b : Nat) (s : State) : (s.alert b).tw = { s.tw with alert := setBit s.tw.alert b } := rfl

/-- A wake request leaves the device state alone. -/
@[simp] theorem State.wake_dev (a b : Nat) (s : State) : (s.wake a b).pwr.dev = s.pwr.dev := by
  unfold State.wake
  dsimp only
  (repeat' split) <;> simp

@[simp] theorem State.notePeak_frame (sl : Nat) (s : State) :
    (s.notePeak sl).ao = s.ao ∧ (s.notePeak sl).boot = s.boot ∧ (s.notePeak sl).time = s.time ∧
    (s.notePeak sl).part = s.part ∧ (s.notePeak sl).cim = s.cim ∧ (s.notePeak sl).nvm = s.nvm ∧
    (s.notePeak sl).fence = s.fence ∧ (s.notePeak sl).mgmt = s.mgmt ∧ (s.notePeak sl).jtag = s.jtag ∧
    (s.notePeak sl).pending = s.pending ∧ (s.notePeak sl).red = s.red ∧
    (s.notePeak sl).tw.tripped = s.tw.tripped ∧ (s.notePeak sl).pwr.dev = s.pwr.dev := by
  simp [State.notePeak]

@[simp] theorem State.syncFinish_frame (pid : Nat) (r : SyncRes) (v : Nat) (s : State) :
    (s.syncFinish pid r v).ao = s.ao ∧ (s.syncFinish pid r v).boot = s.boot ∧
    (s.syncFinish pid r v).time = s.time ∧ (s.syncFinish pid r v).part = s.part ∧
    (s.syncFinish pid r v).cim = s.cim ∧ (s.syncFinish pid r v).nvm = s.nvm ∧
    (s.syncFinish pid r v).fence = s.fence ∧ (s.syncFinish pid r v).mgmt = s.mgmt ∧
    (s.syncFinish pid r v).jtag = s.jtag ∧ (s.syncFinish pid r v).pending = s.pending ∧
    (s.syncFinish pid r v).red = s.red ∧ (s.syncFinish pid r v).tw.tripped = s.tw.tripped ∧
    (s.syncFinish pid r v).pwr.dev = s.pwr.dev := by
  unfold State.syncFinish
  (try dsimp only)
  (repeat' (split <;> try dsimp only)) <;> simp

@[simp] theorem State.syncGang_frame (g : Nat) (ty : Bool) (u p : Nat) (r : SyncRes) (v : DWord) (s : State) :
    (s.syncGang g ty u p r v).ao = s.ao ∧ (s.syncGang g ty u p r v).boot = s.boot ∧
    (s.syncGang g ty u p r v).time = s.time ∧ (s.syncGang g ty u p r v).part = s.part ∧
    (s.syncGang g ty u p r v).cim = s.cim ∧ (s.syncGang g ty u p r v).nvm = s.nvm ∧
    (s.syncGang g ty u p r v).fence = s.fence ∧ (s.syncGang g ty u p r v).mgmt = s.mgmt ∧
    (s.syncGang g ty u p r v).jtag = s.jtag ∧ (s.syncGang g ty u p r v).pending = s.pending ∧
    (s.syncGang g ty u p r v).red = s.red ∧ (s.syncGang g ty u p r v).tw.tripped = s.tw.tripped ∧
    (s.syncGang g ty u p r v).pwr.dev = s.pwr.dev := by
  unfold State.syncGang
  (try dsimp only)
  (repeat' (split <;> try dsimp only)) <;> simp

@[simp] theorem State.gotIt_frame (g : Nat) (ty o : Bool) (r : SyncRes) (s : State) :
    (s.gotIt g ty o r).ao = s.ao ∧ (s.gotIt g ty o r).boot = s.boot ∧ (s.gotIt g ty o r).time = s.time ∧
    (s.gotIt g ty o r).part = s.part ∧ (s.gotIt g ty o r).cim = s.cim ∧ (s.gotIt g ty o r).nvm = s.nvm ∧
    (s.gotIt g ty o r).fence = s.fence ∧ (s.gotIt g ty o r).mgmt = s.mgmt ∧ (s.gotIt g ty o r).jtag = s.jtag ∧
    (s.gotIt g ty o r).pending = s.pending ∧ (s.gotIt g ty o r).red = s.red ∧
    (s.gotIt g ty o r).tw.tripped = s.tw.tripped ∧ (s.gotIt g ty o r).pwr.dev = s.pwr.dev := by
  unfold State.gotIt
  (try dsimp only)
  (repeat' (split <;> try dsimp only)) <;> simp

@[simp] theorem State.endWaiter_frame (ty : Bool) (w : WaitRec) (r : SyncRes) (v : DWord) (s : State) :
    (s.endWaiter ty w r v).ao = s.ao ∧ (s.endWaiter ty w r v).boot = s.boot ∧
    (s.endWaiter ty w r v).time = s.time ∧ (s.endWaiter ty w r v).part = s.part ∧
    (s.endWaiter ty w r v).cim = s.cim ∧ (s.endWaiter ty w r v).nvm = s.nvm ∧
    (s.endWaiter ty w r v).fence = s.fence ∧ (s.endWaiter ty w r v).mgmt = s.mgmt ∧
    (s.endWaiter ty w r v).jtag = s.jtag ∧ (s.endWaiter ty w r v).pending = s.pending ∧
    (s.endWaiter ty w r v).red = s.red ∧ (s.endWaiter ty w r v).tw.tripped = s.tw.tripped ∧
    (s.endWaiter ty w r v).pwr.dev = s.pwr.dev := by
  unfold State.endWaiter
  (try dsimp only)
  (repeat' (split <;> try dsimp only)) <;> simp

@[simp] theorem State.serveTally_frame (i : Nat) (s : State) :
    (s.serveTally i).ao = s.ao ∧ (s.serveTally i).boot = s.boot ∧ (s.serveTally i).time = s.time ∧
    (s.serveTally i).part = s.part ∧ (s.serveTally i).cim = s.cim ∧ (s.serveTally i).nvm = s.nvm ∧
    (s.serveTally i).fence = s.fence ∧ (s.serveTally i).mgmt = s.mgmt ∧ (s.serveTally i).jtag = s.jtag ∧
    (s.serveTally i).pending = s.pending ∧ (s.serveTally i).red = s.red ∧
    (s.serveTally i).tw.tripped = s.tw.tripped ∧ (s.serveTally i).pwr.dev = s.pwr.dev := by
  unfold State.serveTally
  (try dsimp only)
  refine ⟨(foldl_keeps (State.ao) _ ?_ _ _).trans (by simp),
    (foldl_keeps (State.boot) _ ?_ _ _).trans (by simp),
    (foldl_keeps (State.time) _ ?_ _ _).trans (by simp),
    (foldl_keeps (State.part) _ ?_ _ _).trans (by simp),
    (foldl_keeps (State.cim) _ ?_ _ _).trans (by simp),
    (foldl_keeps (State.nvm) _ ?_ _ _).trans (by simp),
    (foldl_keeps (State.fence) _ ?_ _ _).trans (by simp),
    (foldl_keeps (State.mgmt) _ ?_ _ _).trans (by simp),
    (foldl_keeps (State.jtag) _ ?_ _ _).trans (by simp),
    (foldl_keeps (State.pending) _ ?_ _ _).trans (by simp),
    (foldl_keeps (State.red) _ ?_ _ _).trans (by simp),
    (foldl_keeps (fun s => s.tw.tripped) _ ?_ _ _).trans (by simp),
    (foldl_keeps (fun s => s.pwr.dev) _ ?_ _ _).trans (by simp)⟩ <;>
  · intro t a
    (repeat' split) <;> simp

@[simp] theorem State.serveSemN_frame (i k : Nat) (s : State) :
    (s.serveSemN i k).ao = s.ao ∧ (s.serveSemN i k).boot = s.boot ∧ (s.serveSemN i k).time = s.time ∧
    (s.serveSemN i k).part = s.part ∧ (s.serveSemN i k).cim = s.cim ∧ (s.serveSemN i k).nvm = s.nvm ∧
    (s.serveSemN i k).fence = s.fence ∧ (s.serveSemN i k).mgmt = s.mgmt ∧ (s.serveSemN i k).jtag = s.jtag ∧
    (s.serveSemN i k).pending = s.pending ∧ (s.serveSemN i k).red = s.red ∧
    (s.serveSemN i k).tw.tripped = s.tw.tripped ∧ (s.serveSemN i k).pwr.dev = s.pwr.dev := by
  induction k generalizing s with
  | zero => simp [State.serveSemN]
  | succ k ih =>
    unfold State.serveSemN
    dsimp only
    split
    · simp
    · split
      · simp [ih]
      · simp

@[simp] theorem State.serveSem_frame (i : Nat) (s : State) :
    (s.serveSem i).ao = s.ao ∧ (s.serveSem i).boot = s.boot ∧ (s.serveSem i).time = s.time ∧
    (s.serveSem i).part = s.part ∧ (s.serveSem i).cim = s.cim ∧ (s.serveSem i).nvm = s.nvm ∧
    (s.serveSem i).fence = s.fence ∧ (s.serveSem i).mgmt = s.mgmt ∧ (s.serveSem i).jtag = s.jtag ∧
    (s.serveSem i).pending = s.pending ∧ (s.serveSem i).red = s.red ∧ (s.serveSem i).tw.tripped = s.tw.tripped ∧
    (s.serveSem i).pwr.dev = s.pwr.dev := by
  simp [State.serveSem]

@[simp] theorem State.syncLog_frame (e v : Nat) (p : Option Nat) (o : Nat) (s : State) (tag : Word) :
    (State.syncLog e v p o s tag).ao = s.ao ∧ (State.syncLog e v p o s tag).boot = s.boot ∧
    (State.syncLog e v p o s tag).time = s.time ∧
    (State.syncLog e v p o s tag).part = s.part ∧ (State.syncLog e v p o s tag).cim = s.cim ∧
    (State.syncLog e v p o s tag).nvm = s.nvm ∧
    (State.syncLog e v p o s tag).fence = s.fence ∧ (State.syncLog e v p o s tag).mgmt = s.mgmt ∧
    (State.syncLog e v p o s tag).jtag = s.jtag
    ∧ (State.syncLog e v p o s tag).pending = s.pending ∧ (State.syncLog e v p o s tag).red = s.red ∧
    (State.syncLog e v p o s tag).tw.tripped = s.tw.tripped ∧
    (State.syncLog e v p o s tag).pwr.dev = s.pwr.dev := by
  simp [State.syncLog]

@[simp] theorem State.markBad_frame (o : Nat) (s : State) (tag : Word) :
    (State.markBad o s tag).ao = s.ao ∧ (State.markBad o s tag).boot = s.boot ∧
    (State.markBad o s tag).time = s.time ∧
    (State.markBad o s tag).part = s.part ∧ (State.markBad o s tag).cim = s.cim ∧
    (State.markBad o s tag).nvm = s.nvm ∧
    (State.markBad o s tag).fence = s.fence ∧ (State.markBad o s tag).mgmt = s.mgmt ∧
    (State.markBad o s tag).jtag = s.jtag ∧
    (State.markBad o s tag).pending = s.pending ∧ (State.markBad o s tag).red = s.red ∧
    (State.markBad o s tag).tw.tripped = s.tw.tripped ∧
    (State.markBad o s tag).pwr.dev = s.pwr.dev := by
  unfold State.markBad
  dsimp only
  split <;>
  refine ⟨(foldl_keeps (State.ao) _ ?_ _ _).trans (by simp),
    (foldl_keeps (State.boot) _ ?_ _ _).trans (by simp),
    (foldl_keeps (State.time) _ ?_ _ _).trans (by simp),
    (foldl_keeps (State.part) _ ?_ _ _).trans (by simp),
    (foldl_keeps (State.cim) _ ?_ _ _).trans (by simp),
    (foldl_keeps (State.nvm) _ ?_ _ _).trans (by simp),
    (foldl_keeps (State.fence) _ ?_ _ _).trans (by simp),
    (foldl_keeps (State.mgmt) _ ?_ _ _).trans (by simp),
    (foldl_keeps (State.jtag) _ ?_ _ _).trans (by simp),
    (foldl_keeps (State.pending) _ ?_ _ _).trans (by simp),
    (foldl_keeps (State.red) _ ?_ _ _).trans (by simp),
    (foldl_keeps (fun s => s.tw.tripped) _ ?_ _ _).trans (by simp),
    (foldl_keeps (fun s => s.pwr.dev) _ ?_ _ _).trans (by simp)⟩ <;>
  · intro t a
    simp

@[simp] theorem State.mirrorLog_frame (op : SyncOp) (s : State) :
    (s.mirrorLog op).ao = s.ao ∧ (s.mirrorLog op).boot = s.boot ∧ (s.mirrorLog op).time = s.time ∧
    (s.mirrorLog op).part = s.part ∧ (s.mirrorLog op).cim = s.cim ∧ (s.mirrorLog op).nvm = s.nvm ∧
    (s.mirrorLog op).fence = s.fence ∧ (s.mirrorLog op).mgmt = s.mgmt ∧ (s.mirrorLog op).jtag = s.jtag ∧
    (s.mirrorLog op).pending = s.pending ∧ (s.mirrorLog op).red = s.red ∧
    (s.mirrorLog op).tw.tripped = s.tw.tripped ∧ (s.mirrorLog op).pwr.dev = s.pwr.dev := by
  unfold State.mirrorLog
  (try dsimp only)
  (repeat' (split <;> try dsimp only)) <;> simp

@[simp] theorem State.answer_frame (op : SyncOp) (r : SyncRes) (v : DWord) (s : State) :
    (s.answer op r v).ao = s.ao ∧ (s.answer op r v).boot = s.boot ∧ (s.answer op r v).time = s.time ∧
    (s.answer op r v).part = s.part ∧ (s.answer op r v).cim = s.cim ∧ (s.answer op r v).nvm = s.nvm ∧
    (s.answer op r v).fence = s.fence ∧ (s.answer op r v).mgmt = s.mgmt ∧ (s.answer op r v).jtag = s.jtag ∧
    (s.answer op r v).pending = s.pending ∧ (s.answer op r v).red = s.red ∧
    (s.answer op r v).tw.tripped = s.tw.tripped ∧ (s.answer op r v).pwr.dev = s.pwr.dev := by
  unfold State.answer
  (try dsimp only)
  (repeat' (split <;> try dsimp only)) <;> simp

@[simp] theorem State.acquired_frame (op : SyncOp) (r : SyncRes) (s : State) :
    (s.acquired op r).ao = s.ao ∧ (s.acquired op r).boot = s.boot ∧ (s.acquired op r).time = s.time ∧
    (s.acquired op r).part = s.part ∧ (s.acquired op r).cim = s.cim ∧ (s.acquired op r).nvm = s.nvm ∧
    (s.acquired op r).fence = s.fence ∧ (s.acquired op r).mgmt = s.mgmt ∧ (s.acquired op r).jtag = s.jtag ∧
    (s.acquired op r).pending = s.pending ∧ (s.acquired op r).red = s.red ∧
    (s.acquired op r).tw.tripped = s.tw.tripped ∧ (s.acquired op r).pwr.dev = s.pwr.dev := by
  unfold State.acquired
  (try dsimp only)
  (repeat' (split <;> try dsimp only)) <;> simp

@[simp] theorem State.park_frame (op : SyncOp) (s : State) :
    (s.park op).ao = s.ao ∧ (s.park op).boot = s.boot ∧ (s.park op).time = s.time ∧ (s.park op).part = s.part ∧
    (s.park op).cim = s.cim ∧ (s.park op).nvm = s.nvm ∧ (s.park op).fence = s.fence ∧ (s.park op).mgmt = s.mgmt
    ∧ (s.park op).jtag = s.jtag ∧ (s.park op).pending = s.pending ∧ (s.park op).red = s.red ∧
    (s.park op).tw.tripped = s.tw.tripped ∧ (s.park op).pwr.dev = s.pwr.dev := by
  unfold State.park
  (try dsimp only)
  (repeat' (split <;> try dsimp only)) <;> simp

@[simp] theorem State.expireTally_frame (i : Nat) (s : State) :
    (s.expireTally i).ao = s.ao ∧ (s.expireTally i).boot = s.boot ∧ (s.expireTally i).time = s.time ∧
    (s.expireTally i).part = s.part ∧ (s.expireTally i).cim = s.cim ∧ (s.expireTally i).nvm = s.nvm ∧
    (s.expireTally i).fence = s.fence ∧ (s.expireTally i).mgmt = s.mgmt ∧ (s.expireTally i).jtag = s.jtag ∧
    (s.expireTally i).pending = s.pending ∧ (s.expireTally i).red = s.red ∧
    (s.expireTally i).tw.tripped = s.tw.tripped ∧ (s.expireTally i).pwr.dev = s.pwr.dev := by
  unfold State.expireTally
  (try dsimp only)
  refine ⟨(foldl_keeps (State.ao) _ ?_ _ _).trans (by simp),
    (foldl_keeps (State.boot) _ ?_ _ _).trans (by simp),
    (foldl_keeps (State.time) _ ?_ _ _).trans (by simp),
    (foldl_keeps (State.part) _ ?_ _ _).trans (by simp),
    (foldl_keeps (State.cim) _ ?_ _ _).trans (by simp),
    (foldl_keeps (State.nvm) _ ?_ _ _).trans (by simp),
    (foldl_keeps (State.fence) _ ?_ _ _).trans (by simp),
    (foldl_keeps (State.mgmt) _ ?_ _ _).trans (by simp),
    (foldl_keeps (State.jtag) _ ?_ _ _).trans (by simp),
    (foldl_keeps (State.pending) _ ?_ _ _).trans (by simp),
    (foldl_keeps (State.red) _ ?_ _ _).trans (by simp),
    (foldl_keeps (fun s => s.tw.tripped) _ ?_ _ _).trans (by simp),
    (foldl_keeps (fun s => s.pwr.dev) _ ?_ _ _).trans (by simp)⟩ <;>
  · intro t a
    (repeat' split) <;> simp

@[simp] theorem State.applyTally_frame (op : SyncOp) (s : State) :
    (s.applyTally op).ao = s.ao ∧ (s.applyTally op).boot = s.boot ∧ (s.applyTally op).time = s.time ∧
    (s.applyTally op).part = s.part ∧ (s.applyTally op).cim = s.cim ∧ (s.applyTally op).nvm = s.nvm ∧
    (s.applyTally op).fence = s.fence ∧ (s.applyTally op).mgmt = s.mgmt ∧ (s.applyTally op).jtag = s.jtag ∧
    (s.applyTally op).pending = s.pending ∧ (s.applyTally op).red = s.red ∧
    (s.applyTally op).tw.tripped = s.tw.tripped ∧ (s.applyTally op).pwr.dev = s.pwr.dev := by
  unfold State.applyTally
  (try dsimp only)
  (repeat' (split <;> try dsimp only)) <;> simp

@[simp] theorem State.answerSemRead_frame (op : SyncOp) (t : Sem) (s : State) :
    (s.answerSemRead op t).ao = s.ao ∧ (s.answerSemRead op t).boot = s.boot ∧
    (s.answerSemRead op t).time = s.time ∧ (s.answerSemRead op t).part = s.part ∧
    (s.answerSemRead op t).cim = s.cim ∧ (s.answerSemRead op t).nvm = s.nvm ∧
    (s.answerSemRead op t).fence = s.fence ∧ (s.answerSemRead op t).mgmt = s.mgmt ∧
    (s.answerSemRead op t).jtag = s.jtag ∧ (s.answerSemRead op t).pending = s.pending ∧
    (s.answerSemRead op t).red = s.red ∧ (s.answerSemRead op t).tw.tripped = s.tw.tripped ∧
    (s.answerSemRead op t).pwr.dev = s.pwr.dev := by
  unfold State.answerSemRead
  (try dsimp only)
  (repeat' (split <;> try dsimp only)) <;> simp

@[simp] theorem State.applyPost_frame (op : SyncOp) (n : Nat) (s : State) :
    (s.applyPost op n).ao = s.ao ∧ (s.applyPost op n).boot = s.boot ∧ (s.applyPost op n).time = s.time ∧
    (s.applyPost op n).part = s.part ∧ (s.applyPost op n).cim = s.cim ∧ (s.applyPost op n).nvm = s.nvm ∧
    (s.applyPost op n).fence = s.fence ∧ (s.applyPost op n).mgmt = s.mgmt ∧ (s.applyPost op n).jtag = s.jtag ∧
    (s.applyPost op n).pending = s.pending ∧ (s.applyPost op n).red = s.red ∧
    (s.applyPost op n).tw.tripped = s.tw.tripped ∧ (s.applyPost op n).pwr.dev = s.pwr.dev := by
  unfold State.applyPost
  (try dsimp only)
  (repeat' (split <;> try dsimp only)) <;> simp

@[simp] theorem State.applySem_frame (op : SyncOp) (s : State) :
    (s.applySem op).ao = s.ao ∧ (s.applySem op).boot = s.boot ∧ (s.applySem op).time = s.time ∧
    (s.applySem op).part = s.part ∧ (s.applySem op).cim = s.cim ∧ (s.applySem op).nvm = s.nvm ∧
    (s.applySem op).fence = s.fence ∧ (s.applySem op).mgmt = s.mgmt ∧ (s.applySem op).jtag = s.jtag ∧
    (s.applySem op).pending = s.pending ∧ (s.applySem op).red = s.red ∧
    (s.applySem op).tw.tripped = s.tw.tripped ∧ (s.applySem op).pwr.dev = s.pwr.dev := by
  unfold State.applySem
  (try dsimp only)
  (repeat' (split <;> try dsimp only)) <;> simp

@[simp] theorem State.applyOp_frame (op : SyncOp) (s : State) :
    (s.applyOp op).ao = s.ao ∧ (s.applyOp op).boot = s.boot ∧ (s.applyOp op).time = s.time ∧
    (s.applyOp op).part = s.part ∧ (s.applyOp op).cim = s.cim ∧ (s.applyOp op).nvm = s.nvm ∧
    (s.applyOp op).fence = s.fence ∧ (s.applyOp op).mgmt = s.mgmt ∧ (s.applyOp op).jtag = s.jtag ∧
    (s.applyOp op).pending = s.pending ∧ (s.applyOp op).red = s.red ∧ (s.applyOp op).tw.tripped = s.tw.tripped ∧
    (s.applyOp op).pwr.dev = s.pwr.dev := by
  unfold State.applyOp
  (try dsimp only)
  (repeat' (split <;> try dsimp only)) <;> simp

@[simp] theorem State.submit_frame (op : SyncOp) (s : State) :
    (s.submit op).ao = s.ao ∧ (s.submit op).boot = s.boot ∧ (s.submit op).time = s.time ∧
    (s.submit op).part = s.part ∧ (s.submit op).cim = s.cim ∧ (s.submit op).nvm = s.nvm ∧
    (s.submit op).fence = s.fence ∧ (s.submit op).mgmt = s.mgmt ∧ (s.submit op).jtag = s.jtag ∧
    (s.submit op).pending = s.pending ∧ (s.submit op).red = s.red ∧ (s.submit op).tw.tripped = s.tw.tripped ∧
    (s.submit op).pwr.dev = s.pwr.dev := by
  unfold State.submit
  (try dsimp only)
  (repeat' (split <;> try dsimp only)) <;> simp

@[simp] theorem State.kernelRemote_frame (c p w n : Nat) (id : DWord) (s : State) (tag : Word) :
    (State.kernelRemote c p w n id s tag).ao = s.ao ∧ (State.kernelRemote c p w n id s tag).boot = s.boot ∧
    (State.kernelRemote c p w n id s tag).time = s.time ∧ (State.kernelRemote c p w n id s tag).part = s.part ∧
    (State.kernelRemote c p w n id s tag).cim = s.cim ∧ (State.kernelRemote c p w n id s tag).nvm = s.nvm ∧
    (State.kernelRemote c p w n id s tag).fence = s.fence ∧
    (State.kernelRemote c p w n id s tag).mgmt = s.mgmt ∧
    (State.kernelRemote c p w n id s tag).jtag = s.jtag ∧
    (State.kernelRemote c p w n id s tag).pending = s.pending ∧
    (State.kernelRemote c p w n id s tag).red = s.red ∧
    (State.kernelRemote c p w n id s tag).tw.tripped = s.tw.tripped ∧
    (State.kernelRemote c p w n id s tag).pwr.dev = s.pwr.dev := by
  unfold State.kernelRemote
  (try dsimp only)
  (repeat' (split <;> try dsimp only)) <;> simp

@[simp] theorem State.returnOwned_frame (c : Commit) (i g : Nat) (s : State) :
    (s.returnOwned c i g).ao = s.ao ∧ (s.returnOwned c i g).boot = s.boot ∧ (s.returnOwned c i g).time = s.time
    ∧ (s.returnOwned c i g).part = s.part ∧ (s.returnOwned c i g).cim = s.cim ∧
    (s.returnOwned c i g).nvm = s.nvm ∧ (s.returnOwned c i g).fence = s.fence ∧
    (s.returnOwned c i g).mgmt = s.mgmt ∧ (s.returnOwned c i g).jtag = s.jtag ∧
    (s.returnOwned c i g).pending = s.pending ∧ (s.returnOwned c i g).red = s.red ∧
    (s.returnOwned c i g).tw.tripped = s.tw.tripped ∧ (s.returnOwned c i g).pwr.dev = s.pwr.dev := by
  unfold State.returnOwned
  (try dsimp only)
  (repeat' (split <;> try dsimp only)) <;> simp

@[simp] theorem State.slotAdd_frame (i : Nat) (f : Slot → Slot) (s : State) :
    (s.slotAdd i f).ao = s.ao ∧ (s.slotAdd i f).boot = s.boot ∧ (s.slotAdd i f).time = s.time ∧
    (s.slotAdd i f).part = s.part ∧ (s.slotAdd i f).cim = s.cim ∧ (s.slotAdd i f).nvm = s.nvm ∧
    (s.slotAdd i f).fence = s.fence ∧ (s.slotAdd i f).mgmt = s.mgmt ∧ (s.slotAdd i f).jtag = s.jtag ∧
    (s.slotAdd i f).pending = s.pending ∧ (s.slotAdd i f).tw.tripped = s.tw.tripped ∧
    (s.slotAdd i f).pwr.dev = s.pwr.dev := by
  unfold State.slotAdd
  (try dsimp only)
  (repeat' (split <;> try dsimp only)) <;> simp

@[simp] theorem State.applyAdd_frame (f : RedFmt) (a : Nat) (v : DWord) (s : State) :
    (s.applyAdd f a v).ao = s.ao ∧ (s.applyAdd f a v).boot = s.boot ∧ (s.applyAdd f a v).time = s.time ∧
    (s.applyAdd f a v).part = s.part ∧ (s.applyAdd f a v).cim = s.cim ∧ (s.applyAdd f a v).nvm = s.nvm ∧
    (s.applyAdd f a v).fence = s.fence ∧ (s.applyAdd f a v).mgmt = s.mgmt ∧ (s.applyAdd f a v).jtag = s.jtag ∧
    (s.applyAdd f a v).pending = s.pending ∧ (s.applyAdd f a v).tw.tripped = s.tw.tripped ∧
    (s.applyAdd f a v).pwr.dev = s.pwr.dev := by
  unfold State.applyAdd
  (try dsimp only)
  (repeat' (split <;> try dsimp only)) <;> simp

@[simp] theorem State.commitAdds_frame (c : Commit) (s : State) :
    (s.commitAdds c).ao = s.ao ∧ (s.commitAdds c).boot = s.boot ∧ (s.commitAdds c).time = s.time ∧
    (s.commitAdds c).part = s.part ∧ (s.commitAdds c).cim = s.cim ∧ (s.commitAdds c).nvm = s.nvm ∧
    (s.commitAdds c).fence = s.fence ∧ (s.commitAdds c).mgmt = s.mgmt ∧ (s.commitAdds c).jtag = s.jtag ∧
    (s.commitAdds c).pending = s.pending ∧ (s.commitAdds c).tw.tripped = s.tw.tripped ∧
    (s.commitAdds c).pwr.dev = s.pwr.dev := by
  unfold State.commitAdds
  (try dsimp only)
  refine ⟨(foldl_keeps (State.ao) _ ?_ _ _).trans (by simp),
    (foldl_keeps (State.boot) _ ?_ _ _).trans (by simp),
    (foldl_keeps (State.time) _ ?_ _ _).trans (by simp),
    (foldl_keeps (State.part) _ ?_ _ _).trans (by simp),
    (foldl_keeps (State.cim) _ ?_ _ _).trans (by simp),
    (foldl_keeps (State.nvm) _ ?_ _ _).trans (by simp),
    (foldl_keeps (State.fence) _ ?_ _ _).trans (by simp),
    (foldl_keeps (State.mgmt) _ ?_ _ _).trans (by simp),
    (foldl_keeps (State.jtag) _ ?_ _ _).trans (by simp),
    (foldl_keeps (State.pending) _ ?_ _ _).trans (by simp),
    (foldl_keeps (fun s => s.tw.tripped) _ ?_ _ _).trans (by simp),
    (foldl_keeps (fun s => s.pwr.dev) _ ?_ _ _).trans (by simp)⟩ <;>
  · intro t a
    (repeat' split) <;> simp

@[simp] theorem State.commitSync_frame (c : Commit) (s : State) :
    (s.commitSync c).ao = s.ao ∧ (s.commitSync c).boot = s.boot ∧ (s.commitSync c).time = s.time ∧
    (s.commitSync c).part = s.part ∧ (s.commitSync c).cim = s.cim ∧ (s.commitSync c).nvm = s.nvm ∧
    (s.commitSync c).fence = s.fence ∧ (s.commitSync c).mgmt = s.mgmt ∧ (s.commitSync c).jtag = s.jtag ∧
    (s.commitSync c).pending = s.pending ∧ (s.commitSync c).tw.tripped = s.tw.tripped ∧
    (s.commitSync c).pwr.dev = s.pwr.dev := by
  unfold State.commitSync
  (try dsimp only)
  refine ⟨(foldl_keeps (State.ao) _ (fun t a => by simp) _ _).trans (foldl_keeps (State.ao) _ (fun t a =>
      (foldl_keeps (State.ao) _ (fun t a => by simp) _ _).trans (by split <;> simp)) _ _),
    (foldl_keeps (State.boot) _ (fun t a => by simp) _ _).trans (foldl_keeps (State.boot) _ (fun t a =>
      (foldl_keeps (State.boot) _ (fun t a => by simp) _ _).trans (by split <;> simp)) _ _),
    (foldl_keeps (State.time) _ (fun t a => by simp) _ _).trans (foldl_keeps (State.time) _ (fun t a =>
      (foldl_keeps (State.time) _ (fun t a => by simp) _ _).trans (by split <;> simp)) _ _),
    (foldl_keeps (State.part) _ (fun t a => by simp) _ _).trans (foldl_keeps (State.part) _ (fun t a =>
      (foldl_keeps (State.part) _ (fun t a => by simp) _ _).trans (by split <;> simp)) _ _),
    (foldl_keeps (State.cim) _ (fun t a => by simp) _ _).trans (foldl_keeps (State.cim) _ (fun t a =>
      (foldl_keeps (State.cim) _ (fun t a => by simp) _ _).trans (by split <;> simp)) _ _),
    (foldl_keeps (State.nvm) _ (fun t a => by simp) _ _).trans (foldl_keeps (State.nvm) _ (fun t a =>
      (foldl_keeps (State.nvm) _ (fun t a => by simp) _ _).trans (by split <;> simp)) _ _),
    (foldl_keeps (State.fence) _ (fun t a => by simp) _ _).trans (foldl_keeps (State.fence) _ (fun t a =>
      (foldl_keeps (State.fence) _ (fun t a => by simp) _ _).trans (by split <;> simp)) _ _),
    (foldl_keeps (State.mgmt) _ (fun t a => by simp) _ _).trans (foldl_keeps (State.mgmt) _ (fun t a =>
      (foldl_keeps (State.mgmt) _ (fun t a => by simp) _ _).trans (by split <;> simp)) _ _),
    (foldl_keeps (State.jtag) _ (fun t a => by simp) _ _).trans (foldl_keeps (State.jtag) _ (fun t a =>
      (foldl_keeps (State.jtag) _ (fun t a => by simp) _ _).trans (by split <;> simp)) _ _),
    (foldl_keeps (State.pending) _ (fun t a => by simp) _ _).trans (foldl_keeps (State.pending) _ (fun t a =>
      (foldl_keeps (State.pending) _ (fun t a => by simp) _ _).trans (by split <;> simp)) _ _),
    (foldl_keeps (fun s => s.tw.tripped) _ (fun t a => by simp) _ _).trans (foldl_keeps (fun s => s.tw.tripped) _ (fun t a =>
      (foldl_keeps (fun s => s.tw.tripped) _ (fun t a => by simp) _ _).trans (by split <;> simp)) _ _),
    (foldl_keeps (fun s => s.pwr.dev) _ (fun t a => by simp) _ _).trans (foldl_keeps (fun s => s.pwr.dev) _ (fun t a =>
      (foldl_keeps (fun s => s.pwr.dev) _ (fun t a => by simp) _ _).trans (by split <;> simp)) _ _)⟩

@[simp] theorem State.commitRemote_frame (c : Commit) (s : State) :
    (s.commitRemote c).ao = s.ao ∧ (s.commitRemote c).boot = s.boot ∧ (s.commitRemote c).time = s.time ∧
    (s.commitRemote c).part = s.part ∧ (s.commitRemote c).cim = s.cim ∧ (s.commitRemote c).nvm = s.nvm ∧
    (s.commitRemote c).fence = s.fence ∧ (s.commitRemote c).mgmt = s.mgmt ∧ (s.commitRemote c).jtag = s.jtag ∧
    (s.commitRemote c).pending = s.pending ∧ (s.commitRemote c).tw.tripped = s.tw.tripped ∧
    (s.commitRemote c).pwr.dev = s.pwr.dev := by
  unfold State.commitRemote
  (try dsimp only)
  refine ⟨(foldl_keeps (State.ao) _ ?_ _ _).trans (by simp),
    (foldl_keeps (State.boot) _ ?_ _ _).trans (by simp),
    (foldl_keeps (State.time) _ ?_ _ _).trans (by simp),
    (foldl_keeps (State.part) _ ?_ _ _).trans (by simp),
    (foldl_keeps (State.cim) _ ?_ _ _).trans (by simp),
    (foldl_keeps (State.nvm) _ ?_ _ _).trans (by simp),
    (foldl_keeps (State.fence) _ ?_ _ _).trans (by simp),
    (foldl_keeps (State.mgmt) _ ?_ _ _).trans (by simp),
    (foldl_keeps (State.jtag) _ ?_ _ _).trans (by simp),
    (foldl_keeps (State.pending) _ ?_ _ _).trans (by simp),
    (foldl_keeps (fun s => s.tw.tripped) _ ?_ _ _).trans (by simp),
    (foldl_keeps (fun s => s.pwr.dev) _ ?_ _ _).trans (by simp)⟩ <;>
  · intro t a
    (repeat' split) <;> simp

@[simp] theorem State.applyCommit_frame (c : Commit) (s : State) :
    (s.applyCommit c).ao = s.ao ∧ (s.applyCommit c).boot = s.boot ∧ (s.applyCommit c).time = s.time ∧
    (s.applyCommit c).part = s.part ∧ (s.applyCommit c).cim = s.cim ∧ (s.applyCommit c).nvm = s.nvm ∧
    (s.applyCommit c).fence = s.fence ∧ (s.applyCommit c).mgmt = s.mgmt ∧ (s.applyCommit c).jtag = s.jtag ∧
    (s.applyCommit c).pending = s.pending ∧ (s.applyCommit c).tw.tripped = s.tw.tripped ∧
    (s.applyCommit c).pwr.dev = s.pwr.dev := by
  unfold State.applyCommit
  (try dsimp only)
  (repeat' (split <;> try dsimp only)) <;> simp

@[simp] theorem State.applyHeld_frame (s : State) :
    (s.applyHeld).ao = s.ao ∧ (s.applyHeld).boot = s.boot ∧ (s.applyHeld).time = s.time ∧
    (s.applyHeld).part = s.part ∧ (s.applyHeld).cim = s.cim ∧ (s.applyHeld).nvm = s.nvm ∧
    (s.applyHeld).fence = s.fence ∧ (s.applyHeld).mgmt = s.mgmt ∧ (s.applyHeld).jtag = s.jtag ∧
    (s.applyHeld).pending = s.pending ∧ (s.applyHeld).tw.tripped = s.tw.tripped ∧
    (s.applyHeld).pwr.dev = s.pwr.dev := by
  unfold State.applyHeld
  (try dsimp only)
  refine ⟨(foldl_keeps (State.ao) _ ?_ _ _).trans (by simp),
    (foldl_keeps (State.boot) _ ?_ _ _).trans (by simp),
    (foldl_keeps (State.time) _ ?_ _ _).trans (by simp),
    (foldl_keeps (State.part) _ ?_ _ _).trans (by simp),
    (foldl_keeps (State.cim) _ ?_ _ _).trans (by simp),
    (foldl_keeps (State.nvm) _ ?_ _ _).trans (by simp),
    (foldl_keeps (State.fence) _ ?_ _ _).trans (by simp),
    (foldl_keeps (State.mgmt) _ ?_ _ _).trans (by simp),
    (foldl_keeps (State.jtag) _ ?_ _ _).trans (by simp),
    (foldl_keeps (State.pending) _ ?_ _ _).trans (by simp),
    (foldl_keeps (fun s => s.tw.tripped) _ ?_ _ _).trans (by simp),
    (foldl_keeps (fun s => s.pwr.dev) _ ?_ _ _).trans (by simp)⟩ <;>
  · intro t a
    (repeat' split) <;> simp

end Sys2Proof.Machine
end

