-- ==== Sys2Proof/Laws/Core.lean ====
section
/-! SUPPORT. What the operations on slices, blocks, launches and cores leave alone. -/

namespace Sys2Proof.Machine

open Sys2Proof

@[simp] theorem State.onSlice_dev (n : Nat) (f : Slice → Slice) (s : State) : (s.onSlice n f).pwr.dev = s.pwr.dev := rfl

@[simp] theorem State.onDie_dev (n : Nat) (f : Die → Die) (s : State) : (s.onDie n f).pwr.dev = s.pwr.dev := rfl

@[simp] theorem State.hostWake_dev (s : State) :
    (s.hostWake).pwr.dev = s.pwr.dev := by
  · unfold State.hostWake
    repeat' (first
      | with_reducible rfl
      | (with_reducible refine (foldl_keeps (fun s => s.pwr.dev) _ ?_ _ _).trans ?_)
      | intro t a
      | split
      | simp)

@[simp] theorem State.askVolt_dev (d mv : Nat) (s : State) :
    (s.askVolt d mv).pwr.dev = s.pwr.dev := by
  unfold State.askVolt
  (try dsimp only)
  (repeat' (split <;> try dsimp only)) <;> simp

@[simp] theorem State.retune_dev (d : Nat) (s : State) :
    (s.retune d).pwr.dev = s.pwr.dev := by
  · unfold State.retune
    repeat' (first
      | with_reducible rfl
      | (with_reducible refine (foldl_keeps (fun s => s.pwr.dev) _ ?_ _ _).trans ?_)
      | intro t a
      | split
      | simp)

@[simp] theorem State.pllFollow_dev (d : Nat) (s : State) :
    (s.pllFollow d).pwr.dev = s.pwr.dev := by
  · unfold State.pllFollow
    repeat' (first
      | with_reducible rfl
      | (with_reducible refine (foldl_keeps (fun s => s.pwr.dev) _ ?_ _ _).trans ?_)
      | intro t a
      | split
      | simp)

@[simp] theorem State.setSlice_dev (n : Nat) (x : SliceSt) (s : State) :
    (s.setSlice n x).pwr.dev = s.pwr.dev := by
  · unfold State.setSlice
    repeat' (first
      | with_reducible rfl
      | (with_reducible refine (foldl_keeps (fun s => s.pwr.dev) _ ?_ _ _).trans ?_)
      | intro t a
      | split
      | simp)

@[simp] theorem State.wakeSlice_dev (n : Nat) (s : State) :
    (s.wakeSlice n).pwr.dev = s.pwr.dev := by
  · unfold State.wakeSlice
    repeat' (first
      | with_reducible rfl
      | (with_reducible refine (foldl_keeps (fun s => s.pwr.dev) _ ?_ _ _).trans ?_)
      | intro t a
      | split
      | simp)

@[simp] theorem State.prewake_dev (n : Nat) (pid : Option Nat) (s : State) :
    (s.prewake n pid).pwr.dev = s.pwr.dev := by
  · unfold State.prewake
    repeat' (first
      | with_reducible rfl
      | (with_reducible refine (foldl_keeps (fun s => s.pwr.dev) _ ?_ _ _).trans ?_)
      | intro t a
      | split
      | simp)

@[simp] theorem State.retuneAll_dev (s : State) :
    (s.retuneAll).pwr.dev = s.pwr.dev := by
  · unfold State.retuneAll
    repeat' (first
      | with_reducible rfl
      | (with_reducible refine (foldl_keeps (fun s => s.pwr.dev) _ ?_ _ _).trans ?_)
      | intro t a
      | split
      | simp)

@[simp] theorem State.take_dev (q : QueueId) (p : Packet) (s : State) :
    (s.take q p).pwr.dev = s.pwr.dev := by
  · unfold State.take
    repeat' (first
      | with_reducible rfl
      | (with_reducible refine (foldl_keeps (fun s => s.pwr.dev) _ ?_ _ _).trans ?_)
      | intro t a
      | split
      | simp)

@[simp] theorem State.abandonAt_frame (i g : Nat) (s : State) :
    (s.abandonAt i g).ao = s.ao ∧ (s.abandonAt i g).time = s.time ∧ (s.abandonAt i g).part = s.part ∧
    (s.abandonAt i g).mgmt = s.mgmt ∧ (s.abandonAt i g).jtag = s.jtag ∧ (s.abandonAt i g).pending = s.pending ∧
    (s.abandonAt i g).tw.tripped = s.tw.tripped ∧ (s.abandonAt i g).pwr.dev = s.pwr.dev ∧
    (s.abandonAt i g).boot.ready = s.boot.ready ∧ (s.abandonAt i g).boot.halt = s.boot.halt := by
  refine ⟨?_, ?_, ?_, ?_, ?_, ?_, ?_, ?_, ?_, ?_⟩
  · unfold State.abandonAt
    repeat' (first
      | with_reducible rfl
      | (with_reducible refine (foldl_keeps (State.ao) _ ?_ _ _).trans ?_)
      | intro t a
      | split
      | simp)
  · unfold State.abandonAt
    repeat' (first
      | with_reducible rfl
      | (with_reducible refine (foldl_keeps (State.time) _ ?_ _ _).trans ?_)
      | intro t a
      | split
      | simp)
  · unfold State.abandonAt
    repeat' (first
      | with_reducible rfl
      | (with_reducible refine (foldl_keeps (State.part) _ ?_ _ _).trans ?_)
      | intro t a
      | split
      | simp)
  · unfold State.abandonAt
    repeat' (first
      | with_reducible rfl
      | (with_reducible refine (foldl_keeps (State.mgmt) _ ?_ _ _).trans ?_)
      | intro t a
      | split
      | simp)
  · unfold State.abandonAt
    repeat' (first
      | with_reducible rfl
      | (with_reducible refine (foldl_keeps (State.jtag) _ ?_ _ _).trans ?_)
      | intro t a
      | split
      | simp)
  · unfold State.abandonAt
    repeat' (first
      | with_reducible rfl
      | (with_reducible refine (foldl_keeps (State.pending) _ ?_ _ _).trans ?_)
      | intro t a
      | split
      | simp)
  · unfold State.abandonAt
    repeat' (first
      | with_reducible rfl
      | (with_reducible refine (foldl_keeps (fun s => s.tw.tripped) _ ?_ _ _).trans ?_)
      | intro t a
      | split
      | simp)
  · unfold State.abandonAt
    repeat' (first
      | with_reducible rfl
      | (with_reducible refine (foldl_keeps (fun s => s.pwr.dev) _ ?_ _ _).trans ?_)
      | intro t a
      | split
      | simp)
  · unfold State.abandonAt
    repeat' (first
      | with_reducible rfl
      | (with_reducible refine (foldl_keeps (fun s => s.boot.ready) _ ?_ _ _).trans ?_)
      | intro t a
      | split
      | simp)
  · unfold State.abandonAt
    repeat' (first
      | with_reducible rfl
      | (with_reducible refine (foldl_keeps (fun s => s.boot.halt) _ ?_ _ _).trans ?_)
      | intro t a
      | split
      | simp)

@[simp] theorem State.abandon_frame (g : Nat) (s : State) :
    (s.abandon g).ao = s.ao ∧ (s.abandon g).time = s.time ∧ (s.abandon g).part = s.part ∧
    (s.abandon g).mgmt = s.mgmt ∧ (s.abandon g).jtag = s.jtag ∧ (s.abandon g).pending = s.pending ∧
    (s.abandon g).tw.tripped = s.tw.tripped ∧ (s.abandon g).pwr.dev = s.pwr.dev ∧
    (s.abandon g).boot.ready = s.boot.ready ∧ (s.abandon g).boot.halt = s.boot.halt := by
  refine ⟨?_, ?_, ?_, ?_, ?_, ?_, ?_, ?_, ?_, ?_⟩
  · unfold State.abandon
    repeat' (first
      | with_reducible rfl
      | (with_reducible refine (foldl_keeps (State.ao) _ ?_ _ _).trans ?_)
      | intro t a
      | split
      | simp)
  · unfold State.abandon
    repeat' (first
      | with_reducible rfl
      | (with_reducible refine (foldl_keeps (State.time) _ ?_ _ _).trans ?_)
      | intro t a
      | split
      | simp)
  · unfold State.abandon
    repeat' (first
      | with_reducible rfl
      | (with_reducible refine (foldl_keeps (State.part) _ ?_ _ _).trans ?_)
      | intro t a
      | split
      | simp)
  · unfold State.abandon
    repeat' (first
      | with_reducible rfl
      | (with_reducible refine (foldl_keeps (State.mgmt) _ ?_ _ _).trans ?_)
      | intro t a
      | split
      | simp)
  · unfold State.abandon
    repeat' (first
      | with_reducible rfl
      | (with_reducible refine (foldl_keeps (State.jtag) _ ?_ _ _).trans ?_)
      | intro t a
      | split
      | simp)
  · unfold State.abandon
    repeat' (first
      | with_reducible rfl
      | (with_reducible refine (foldl_keeps (State.pending) _ ?_ _ _).trans ?_)
      | intro t a
      | split
      | simp)
  · unfold State.abandon
    repeat' (first
      | with_reducible rfl
      | (with_reducible refine (foldl_keeps (fun s => s.tw.tripped) _ ?_ _ _).trans ?_)
      | intro t a
      | split
      | simp)
  · unfold State.abandon
    repeat' (first
      | with_reducible rfl
      | (with_reducible refine (foldl_keeps (fun s => s.pwr.dev) _ ?_ _ _).trans ?_)
      | intro t a
      | split
      | simp)
  · unfold State.abandon
    repeat' (first
      | with_reducible rfl
      | (with_reducible refine (foldl_keeps (fun s => s.boot.ready) _ ?_ _ _).trans ?_)
      | intro t a
      | split
      | simp)
  · unfold State.abandon
    repeat' (first
      | with_reducible rfl
      | (with_reducible refine (foldl_keeps (fun s => s.boot.halt) _ ?_ _ _).trans ?_)
      | intro t a
      | split
      | simp)

@[simp] theorem State.dropWaiters_frame (g : Nat) (s : State) :
    (s.dropWaiters g).ao = s.ao ∧ (s.dropWaiters g).time = s.time ∧ (s.dropWaiters g).part = s.part ∧
    (s.dropWaiters g).mgmt = s.mgmt ∧ (s.dropWaiters g).jtag = s.jtag ∧ (s.dropWaiters g).pending = s.pending ∧
    (s.dropWaiters g).tw.tripped = s.tw.tripped ∧ (s.dropWaiters g).pwr.dev = s.pwr.dev ∧
    (s.dropWaiters g).boot.ready = s.boot.ready ∧ (s.dropWaiters g).boot.halt = s.boot.halt := by
  refine ⟨?_, ?_, ?_, ?_, ?_, ?_, ?_, ?_, ?_, ?_⟩
  · unfold State.dropWaiters
    repeat' (first
      | with_reducible rfl
      | (with_reducible refine (foldl_keeps (State.ao) _ ?_ _ _).trans ?_)
      | intro t a
      | split
      | simp)
  · unfold State.dropWaiters
    repeat' (first
      | with_reducible rfl
      | (with_reducible refine (foldl_keeps (State.time) _ ?_ _ _).trans ?_)
      | intro t a
      | split
      | simp)
  · unfold State.dropWaiters
    repeat' (first
      | with_reducible rfl
      | (with_reducible refine (foldl_keeps (State.part) _ ?_ _ _).trans ?_)
      | intro t a
      | split
      | simp)
  · unfold State.dropWaiters
    repeat' (first
      | with_reducible rfl
      | (with_reducible refine (foldl_keeps (State.mgmt) _ ?_ _ _).trans ?_)
      | intro t a
      | split
      | simp)
  · unfold State.dropWaiters
    repeat' (first
      | with_reducible rfl
      | (with_reducible refine (foldl_keeps (State.jtag) _ ?_ _ _).trans ?_)
      | intro t a
      | split
      | simp)
  · unfold State.dropWaiters
    repeat' (first
      | with_reducible rfl
      | (with_reducible refine (foldl_keeps (State.pending) _ ?_ _ _).trans ?_)
      | intro t a
      | split
      | simp)
  · unfold State.dropWaiters
    repeat' (first
      | with_reducible rfl
      | (with_reducible refine (foldl_keeps (fun s => s.tw.tripped) _ ?_ _ _).trans ?_)
      | intro t a
      | split
      | simp)
  · unfold State.dropWaiters
    repeat' (first
      | with_reducible rfl
      | (with_reducible refine (foldl_keeps (fun s => s.pwr.dev) _ ?_ _ _).trans ?_)
      | intro t a
      | split
      | simp)
  · unfold State.dropWaiters
    repeat' (first
      | with_reducible rfl
      | (with_reducible refine (foldl_keeps (fun s => s.boot.ready) _ ?_ _ _).trans ?_)
      | intro t a
      | split
      | simp)
  · unfold State.dropWaiters
    repeat' (first
      | with_reducible rfl
      | (with_reducible refine (foldl_keeps (fun s => s.boot.halt) _ ?_ _ _).trans ?_)
      | intro t a
      | split
      | simp)

@[simp] theorem State.dropPacketWaiter_frame (pid : Nat) (s : State) :
    (s.dropPacketWaiter pid).ao = s.ao ∧ (s.dropPacketWaiter pid).time = s.time ∧
    (s.dropPacketWaiter pid).part = s.part ∧ (s.dropPacketWaiter pid).mgmt = s.mgmt ∧
    (s.dropPacketWaiter pid).jtag = s.jtag ∧ (s.dropPacketWaiter pid).pending = s.pending ∧
    (s.dropPacketWaiter pid).tw.tripped = s.tw.tripped ∧ (s.dropPacketWaiter pid).pwr.dev = s.pwr.dev ∧
    (s.dropPacketWaiter pid).boot.ready = s.boot.ready ∧ (s.dropPacketWaiter pid).boot.halt = s.boot.halt := by
  refine ⟨?_, ?_, ?_, ?_, ?_, ?_, ?_, ?_, ?_, ?_⟩
  · unfold State.dropPacketWaiter
    repeat' (first
      | with_reducible rfl
      | (with_reducible refine (foldl_keeps (State.ao) _ ?_ _ _).trans ?_)
      | intro t a
      | split
      | simp)
  · unfold State.dropPacketWaiter
    repeat' (first
      | with_reducible rfl
      | (with_reducible refine (foldl_keeps (State.time) _ ?_ _ _).trans ?_)
      | intro t a
      | split
      | simp)
  · unfold State.dropPacketWaiter
    repeat' (first
      | with_reducible rfl
      | (with_reducible refine (foldl_keeps (State.part) _ ?_ _ _).trans ?_)
      | intro t a
      | split
      | simp)
  · unfold State.dropPacketWaiter
    repeat' (first
      | with_reducible rfl
      | (with_reducible refine (foldl_keeps (State.mgmt) _ ?_ _ _).trans ?_)
      | intro t a
      | split
      | simp)
  · unfold State.dropPacketWaiter
    repeat' (first
      | with_reducible rfl
      | (with_reducible refine (foldl_keeps (State.jtag) _ ?_ _ _).trans ?_)
      | intro t a
      | split
      | simp)
  · unfold State.dropPacketWaiter
    repeat' (first
      | with_reducible rfl
      | (with_reducible refine (foldl_keeps (State.pending) _ ?_ _ _).trans ?_)
      | intro t a
      | split
      | simp)
  · unfold State.dropPacketWaiter
    repeat' (first
      | with_reducible rfl
      | (with_reducible refine (foldl_keeps (fun s => s.tw.tripped) _ ?_ _ _).trans ?_)
      | intro t a
      | split
      | simp)
  · unfold State.dropPacketWaiter
    repeat' (first
      | with_reducible rfl
      | (with_reducible refine (foldl_keeps (fun s => s.pwr.dev) _ ?_ _ _).trans ?_)
      | intro t a
      | split
      | simp)
  · unfold State.dropPacketWaiter
    repeat' (first
      | with_reducible rfl
      | (with_reducible refine (foldl_keeps (fun s => s.boot.ready) _ ?_ _ _).trans ?_)
      | intro t a
      | split
      | simp)
  · unfold State.dropPacketWaiter
    repeat' (first
      | with_reducible rfl
      | (with_reducible refine (foldl_keeps (fun s => s.boot.halt) _ ?_ _ _).trans ?_)
      | intro t a
      | split
      | simp)

@[simp] theorem State.dropCaches_frame (c : Nat) (s : State) :
    (s.dropCaches c).ao = s.ao ∧ (s.dropCaches c).time = s.time ∧ (s.dropCaches c).part = s.part ∧
    (s.dropCaches c).mgmt = s.mgmt ∧ (s.dropCaches c).jtag = s.jtag ∧ (s.dropCaches c).pending = s.pending ∧
    (s.dropCaches c).tw.tripped = s.tw.tripped ∧ (s.dropCaches c).pwr.dev = s.pwr.dev ∧
    (s.dropCaches c).boot.ready = s.boot.ready ∧ (s.dropCaches c).boot.halt = s.boot.halt := by
  refine ⟨?_, ?_, ?_, ?_, ?_, ?_, ?_, ?_, ?_, ?_⟩
  · unfold State.dropCaches
    repeat' (first
      | with_reducible rfl
      | (with_reducible refine (foldl_keeps (State.ao) _ ?_ _ _).trans ?_)
      | intro t a
      | split
      | simp)
  · unfold State.dropCaches
    repeat' (first
      | with_reducible rfl
      | (with_reducible refine (foldl_keeps (State.time) _ ?_ _ _).trans ?_)
      | intro t a
      | split
      | simp)
  · unfold State.dropCaches
    repeat' (first
      | with_reducible rfl
      | (with_reducible refine (foldl_keeps (State.part) _ ?_ _ _).trans ?_)
      | intro t a
      | split
      | simp)
  · unfold State.dropCaches
    repeat' (first
      | with_reducible rfl
      | (with_reducible refine (foldl_keeps (State.mgmt) _ ?_ _ _).trans ?_)
      | intro t a
      | split
      | simp)
  · unfold State.dropCaches
    repeat' (first
      | with_reducible rfl
      | (with_reducible refine (foldl_keeps (State.jtag) _ ?_ _ _).trans ?_)
      | intro t a
      | split
      | simp)
  · unfold State.dropCaches
    repeat' (first
      | with_reducible rfl
      | (with_reducible refine (foldl_keeps (State.pending) _ ?_ _ _).trans ?_)
      | intro t a
      | split
      | simp)
  · unfold State.dropCaches
    repeat' (first
      | with_reducible rfl
      | (with_reducible refine (foldl_keeps (fun s => s.tw.tripped) _ ?_ _ _).trans ?_)
      | intro t a
      | split
      | simp)
  · unfold State.dropCaches
    repeat' (first
      | with_reducible rfl
      | (with_reducible refine (foldl_keeps (fun s => s.pwr.dev) _ ?_ _ _).trans ?_)
      | intro t a
      | split
      | simp)
  · unfold State.dropCaches
    repeat' (first
      | with_reducible rfl
      | (with_reducible refine (foldl_keeps (fun s => s.boot.ready) _ ?_ _ _).trans ?_)
      | intro t a
      | split
      | simp)
  · unfold State.dropCaches
    repeat' (first
      | with_reducible rfl
      | (with_reducible refine (foldl_keeps (fun s => s.boot.halt) _ ?_ _ _).trans ?_)
      | intro t a
      | split
      | simp)

@[simp] theorem State.removeGang_frame (g : Nat) (s : State) :
    (s.removeGang g).ao = s.ao ∧ (s.removeGang g).time = s.time ∧ (s.removeGang g).part = s.part ∧
    (s.removeGang g).mgmt = s.mgmt ∧ (s.removeGang g).jtag = s.jtag ∧ (s.removeGang g).pending = s.pending ∧
    (s.removeGang g).tw.tripped = s.tw.tripped ∧ (s.removeGang g).pwr.dev = s.pwr.dev ∧
    (s.removeGang g).boot.ready = s.boot.ready ∧ (s.removeGang g).boot.halt = s.boot.halt := by
  refine ⟨?_, ?_, ?_, ?_, ?_, ?_, ?_, ?_, ?_, ?_⟩
  · unfold State.removeGang
    repeat' (first
      | with_reducible rfl
      | (with_reducible refine (foldl_keeps (State.ao) _ ?_ _ _).trans ?_)
      | intro t a
      | split
      | simp)
  · unfold State.removeGang
    repeat' (first
      | with_reducible rfl
      | (with_reducible refine (foldl_keeps (State.time) _ ?_ _ _).trans ?_)
      | intro t a
      | split
      | simp)
  · unfold State.removeGang
    repeat' (first
      | with_reducible rfl
      | (with_reducible refine (foldl_keeps (State.part) _ ?_ _ _).trans ?_)
      | intro t a
      | split
      | simp)
  · unfold State.removeGang
    repeat' (first
      | with_reducible rfl
      | (with_reducible refine (foldl_keeps (State.mgmt) _ ?_ _ _).trans ?_)
      | intro t a
      | split
      | simp)
  · unfold State.removeGang
    repeat' (first
      | with_reducible rfl
      | (with_reducible refine (foldl_keeps (State.jtag) _ ?_ _ _).trans ?_)
      | intro t a
      | split
      | simp)
  · unfold State.removeGang
    repeat' (first
      | with_reducible rfl
      | (with_reducible refine (foldl_keeps (State.pending) _ ?_ _ _).trans ?_)
      | intro t a
      | split
      | simp)
  · unfold State.removeGang
    repeat' (first
      | with_reducible rfl
      | (with_reducible refine (foldl_keeps (fun s => s.tw.tripped) _ ?_ _ _).trans ?_)
      | intro t a
      | split
      | simp)
  · unfold State.removeGang
    repeat' (first
      | with_reducible rfl
      | (with_reducible refine (foldl_keeps (fun s => s.pwr.dev) _ ?_ _ _).trans ?_)
      | intro t a
      | split
      | simp)
  · unfold State.removeGang
    repeat' (first
      | with_reducible rfl
      | (with_reducible refine (foldl_keeps (fun s => s.boot.ready) _ ?_ _ _).trans ?_)
      | intro t a
      | split
      | simp)
  · unfold State.removeGang
    repeat' (first
      | with_reducible rfl
      | (with_reducible refine (foldl_keeps (fun s => s.boot.halt) _ ?_ _ _).trans ?_)
      | intro t a
      | split
      | simp)

@[simp] theorem State.removeBlock_frame (k : Nat) (s : State) :
    (s.removeBlock k).ao = s.ao ∧ (s.removeBlock k).time = s.time ∧ (s.removeBlock k).part = s.part ∧
    (s.removeBlock k).mgmt = s.mgmt ∧ (s.removeBlock k).jtag = s.jtag ∧ (s.removeBlock k).pending = s.pending ∧
    (s.removeBlock k).tw.tripped = s.tw.tripped ∧ (s.removeBlock k).pwr.dev = s.pwr.dev ∧
    (s.removeBlock k).boot.ready = s.boot.ready ∧ (s.removeBlock k).boot.halt = s.boot.halt := by
  refine ⟨?_, ?_, ?_, ?_, ?_, ?_, ?_, ?_, ?_, ?_⟩
  · unfold State.removeBlock
    repeat' (first
      | with_reducible rfl
      | (with_reducible refine (foldl_keeps (State.ao) _ ?_ _ _).trans ?_)
      | intro t a
      | split
      | simp)
  · unfold State.removeBlock
    repeat' (first
      | with_reducible rfl
      | (with_reducible refine (foldl_keeps (State.time) _ ?_ _ _).trans ?_)
      | intro t a
      | split
      | simp)
  · unfold State.removeBlock
    repeat' (first
      | with_reducible rfl
      | (with_reducible refine (foldl_keeps (State.part) _ ?_ _ _).trans ?_)
      | intro t a
      | split
      | simp)
  · unfold State.removeBlock
    repeat' (first
      | with_reducible rfl
      | (with_reducible refine (foldl_keeps (State.mgmt) _ ?_ _ _).trans ?_)
      | intro t a
      | split
      | simp)
  · unfold State.removeBlock
    repeat' (first
      | with_reducible rfl
      | (with_reducible refine (foldl_keeps (State.jtag) _ ?_ _ _).trans ?_)
      | intro t a
      | split
      | simp)
  · unfold State.removeBlock
    repeat' (first
      | with_reducible rfl
      | (with_reducible refine (foldl_keeps (State.pending) _ ?_ _ _).trans ?_)
      | intro t a
      | split
      | simp)
  · unfold State.removeBlock
    repeat' (first
      | with_reducible rfl
      | (with_reducible refine (foldl_keeps (fun s => s.tw.tripped) _ ?_ _ _).trans ?_)
      | intro t a
      | split
      | simp)
  · unfold State.removeBlock
    repeat' (first
      | with_reducible rfl
      | (with_reducible refine (foldl_keeps (fun s => s.pwr.dev) _ ?_ _ _).trans ?_)
      | intro t a
      | split
      | simp)
  · unfold State.removeBlock
    repeat' (first
      | with_reducible rfl
      | (with_reducible refine (foldl_keeps (fun s => s.boot.ready) _ ?_ _ _).trans ?_)
      | intro t a
      | split
      | simp)
  · unfold State.removeBlock
    repeat' (first
      | with_reducible rfl
      | (with_reducible refine (foldl_keeps (fun s => s.boot.halt) _ ?_ _ _).trans ?_)
      | intro t a
      | split
      | simp)

@[simp] theorem State.freeCluster_frame (n k : Nat) (s : State) :
    (s.freeCluster n k).ao = s.ao ∧ (s.freeCluster n k).time = s.time ∧ (s.freeCluster n k).part = s.part ∧
    (s.freeCluster n k).mgmt = s.mgmt ∧ (s.freeCluster n k).jtag = s.jtag ∧
    (s.freeCluster n k).pending = s.pending ∧ (s.freeCluster n k).tw.tripped = s.tw.tripped ∧
    (s.freeCluster n k).pwr.dev = s.pwr.dev ∧ (s.freeCluster n k).boot.ready = s.boot.ready ∧
    (s.freeCluster n k).boot.halt = s.boot.halt := by
  refine ⟨?_, ?_, ?_, ?_, ?_, ?_, ?_, ?_, ?_, ?_⟩
  · unfold State.freeCluster
    repeat' (first
      | with_reducible rfl
      | (with_reducible refine (foldl_keeps (State.ao) _ ?_ _ _).trans ?_)
      | intro t a
      | split
      | simp)
  · unfold State.freeCluster
    repeat' (first
      | with_reducible rfl
      | (with_reducible refine (foldl_keeps (State.time) _ ?_ _ _).trans ?_)
      | intro t a
      | split
      | simp)
  · unfold State.freeCluster
    repeat' (first
      | with_reducible rfl
      | (with_reducible refine (foldl_keeps (State.part) _ ?_ _ _).trans ?_)
      | intro t a
      | split
      | simp)
  · unfold State.freeCluster
    repeat' (first
      | with_reducible rfl
      | (with_reducible refine (foldl_keeps (State.mgmt) _ ?_ _ _).trans ?_)
      | intro t a
      | split
      | simp)
  · unfold State.freeCluster
    repeat' (first
      | with_reducible rfl
      | (with_reducible refine (foldl_keeps (State.jtag) _ ?_ _ _).trans ?_)
      | intro t a
      | split
      | simp)
  · unfold State.freeCluster
    repeat' (first
      | with_reducible rfl
      | (with_reducible refine (foldl_keeps (State.pending) _ ?_ _ _).trans ?_)
      | intro t a
      | split
      | simp)
  · unfold State.freeCluster
    repeat' (first
      | with_reducible rfl
      | (with_reducible refine (foldl_keeps (fun s => s.tw.tripped) _ ?_ _ _).trans ?_)
      | intro t a
      | split
      | simp)
  · unfold State.freeCluster
    repeat' (first
      | with_reducible rfl
      | (with_reducible refine (foldl_keeps (fun s => s.pwr.dev) _ ?_ _ _).trans ?_)
      | intro t a
      | split
      | simp)
  · unfold State.freeCluster
    repeat' (first
      | with_reducible rfl
      | (with_reducible refine (foldl_keeps (fun s => s.boot.ready) _ ?_ _ _).trans ?_)
      | intro t a
      | split
      | simp)
  · unfold State.freeCluster
    repeat' (first
      | with_reducible rfl
      | (with_reducible refine (foldl_keeps (fun s => s.boot.halt) _ ?_ _ _).trans ?_)
      | intro t a
      | split
      | simp)

@[simp] theorem State.closeAmax_frame (l : Launch) (s : State) :
    (s.closeAmax l).ao = s.ao ∧ (s.closeAmax l).time = s.time ∧ (s.closeAmax l).part = s.part ∧
    (s.closeAmax l).mgmt = s.mgmt ∧ (s.closeAmax l).jtag = s.jtag ∧ (s.closeAmax l).pending = s.pending ∧
    (s.closeAmax l).tw.tripped = s.tw.tripped ∧ (s.closeAmax l).pwr.dev = s.pwr.dev ∧
    (s.closeAmax l).boot.ready = s.boot.ready ∧ (s.closeAmax l).boot.halt = s.boot.halt := by
  refine ⟨?_, ?_, ?_, ?_, ?_, ?_, ?_, ?_, ?_, ?_⟩
  · unfold State.closeAmax
    repeat' (first
      | with_reducible rfl
      | (with_reducible refine (foldl_keeps (State.ao) _ ?_ _ _).trans ?_)
      | intro t a
      | split
      | simp)
  · unfold State.closeAmax
    repeat' (first
      | with_reducible rfl
      | (with_reducible refine (foldl_keeps (State.time) _ ?_ _ _).trans ?_)
      | intro t a
      | split
      | simp)
  · unfold State.closeAmax
    repeat' (first
      | with_reducible rfl
      | (with_reducible refine (foldl_keeps (State.part) _ ?_ _ _).trans ?_)
      | intro t a
      | split
      | simp)
  · unfold State.closeAmax
    repeat' (first
      | with_reducible rfl
      | (with_reducible refine (foldl_keeps (State.mgmt) _ ?_ _ _).trans ?_)
      | intro t a
      | split
      | simp)
  · unfold State.closeAmax
    repeat' (first
      | with_reducible rfl
      | (with_reducible refine (foldl_keeps (State.jtag) _ ?_ _ _).trans ?_)
      | intro t a
      | split
      | simp)
  · unfold State.closeAmax
    repeat' (first
      | with_reducible rfl
      | (with_reducible refine (foldl_keeps (State.pending) _ ?_ _ _).trans ?_)
      | intro t a
      | split
      | simp)
  · unfold State.closeAmax
    repeat' (first
      | with_reducible rfl
      | (with_reducible refine (foldl_keeps (fun s => s.tw.tripped) _ ?_ _ _).trans ?_)
      | intro t a
      | split
      | simp)
  · unfold State.closeAmax
    repeat' (first
      | with_reducible rfl
      | (with_reducible refine (foldl_keeps (fun s => s.pwr.dev) _ ?_ _ _).trans ?_)
      | intro t a
      | split
      | simp)
  · unfold State.closeAmax
    repeat' (first
      | with_reducible rfl
      | (with_reducible refine (foldl_keeps (fun s => s.boot.ready) _ ?_ _ _).trans ?_)
      | intro t a
      | split
      | simp)
  · unfold State.closeAmax
    repeat' (first
      | with_reducible rfl
      | (with_reducible refine (foldl_keeps (fun s => s.boot.halt) _ ?_ _ _).trans ?_)
      | intro t a
      | split
      | simp)

@[simp] theorem State.endLaunch_frame (n st result detail : Nat) (s : State) :
    (s.endLaunch n st result detail).ao = s.ao ∧ (s.endLaunch n st result detail).time = s.time ∧
    (s.endLaunch n st result detail).part = s.part ∧ (s.endLaunch n st result detail).mgmt = s.mgmt ∧
    (s.endLaunch n st result detail).jtag = s.jtag ∧ (s.endLaunch n st result detail).pending = s.pending ∧
    (s.endLaunch n st result detail).tw.tripped = s.tw.tripped ∧
    (s.endLaunch n st result detail).pwr.dev = s.pwr.dev ∧
    (s.endLaunch n st result detail).boot.ready = s.boot.ready ∧
    (s.endLaunch n st result detail).boot.halt = s.boot.halt := by
  refine ⟨?_, ?_, ?_, ?_, ?_, ?_, ?_, ?_, ?_, ?_⟩
  · unfold State.endLaunch
    repeat' (first
      | with_reducible rfl
      | (with_reducible refine (foldl_keeps (State.ao) _ ?_ _ _).trans ?_)
      | intro t a
      | split
      | simp)
  · unfold State.endLaunch
    repeat' (first
      | with_reducible rfl
      | (with_reducible refine (foldl_keeps (State.time) _ ?_ _ _).trans ?_)
      | intro t a
      | split
      | simp)
  · unfold State.endLaunch
    repeat' (first
      | with_reducible rfl
      | (with_reducible refine (foldl_keeps (State.part) _ ?_ _ _).trans ?_)
      | intro t a
      | split
      | simp)
  · unfold State.endLaunch
    repeat' (first
      | with_reducible rfl
      | (with_reducible refine (foldl_keeps (State.mgmt) _ ?_ _ _).trans ?_)
      | intro t a
      | split
      | simp)
  · unfold State.endLaunch
    repeat' (first
      | with_reducible rfl
      | (with_reducible refine (foldl_keeps (State.jtag) _ ?_ _ _).trans ?_)
      | intro t a
      | split
      | simp)
  · unfold State.endLaunch
    repeat' (first
      | with_reducible rfl
      | (with_reducible refine (foldl_keeps (State.pending) _ ?_ _ _).trans ?_)
      | intro t a
      | split
      | simp)
  · unfold State.endLaunch
    repeat' (first
      | with_reducible rfl
      | (with_reducible refine (foldl_keeps (fun s => s.tw.tripped) _ ?_ _ _).trans ?_)
      | intro t a
      | split
      | simp)
  · unfold State.endLaunch
    repeat' (first
      | with_reducible rfl
      | (with_reducible refine (foldl_keeps (fun s => s.pwr.dev) _ ?_ _ _).trans ?_)
      | intro t a
      | split
      | simp)
  · unfold State.endLaunch
    repeat' (first
      | with_reducible rfl
      | (with_reducible refine (foldl_keeps (fun s => s.boot.ready) _ ?_ _ _).trans ?_)
      | intro t a
      | split
      | simp)
  · unfold State.endLaunch
    repeat' (first
      | with_reducible rfl
      | (with_reducible refine (foldl_keeps (fun s => s.boot.halt) _ ?_ _ _).trans ?_)
      | intro t a
      | split
      | simp)

@[simp] theorem State.stopContext_frame (c : Nat) (s : State) :
    (s.stopContext c).ao = s.ao ∧ (s.stopContext c).time = s.time ∧ (s.stopContext c).part = s.part ∧
    (s.stopContext c).mgmt = s.mgmt ∧ (s.stopContext c).jtag = s.jtag ∧ (s.stopContext c).pending = s.pending ∧
    (s.stopContext c).tw.tripped = s.tw.tripped ∧ (s.stopContext c).pwr.dev = s.pwr.dev ∧
    (s.stopContext c).boot.ready = s.boot.ready ∧ (s.stopContext c).boot.halt = s.boot.halt := by
  refine ⟨?_, ?_, ?_, ?_, ?_, ?_, ?_, ?_, ?_, ?_⟩
  · unfold State.stopContext
    repeat' (first
      | with_reducible rfl
      | (with_reducible refine (foldl_keeps (State.ao) _ ?_ _ _).trans ?_)
      | intro t a
      | split
      | simp)
  · unfold State.stopContext
    repeat' (first
      | with_reducible rfl
      | (with_reducible refine (foldl_keeps (State.time) _ ?_ _ _).trans ?_)
      | intro t a
      | split
      | simp)
  · unfold State.stopContext
    repeat' (first
      | with_reducible rfl
      | (with_reducible refine (foldl_keeps (State.part) _ ?_ _ _).trans ?_)
      | intro t a
      | split
      | simp)
  · unfold State.stopContext
    repeat' (first
      | with_reducible rfl
      | (with_reducible refine (foldl_keeps (State.mgmt) _ ?_ _ _).trans ?_)
      | intro t a
      | split
      | simp)
  · unfold State.stopContext
    repeat' (first
      | with_reducible rfl
      | (with_reducible refine (foldl_keeps (State.jtag) _ ?_ _ _).trans ?_)
      | intro t a
      | split
      | simp)
  · unfold State.stopContext
    repeat' (first
      | with_reducible rfl
      | (with_reducible refine (foldl_keeps (State.pending) _ ?_ _ _).trans ?_)
      | intro t a
      | split
      | simp)
  · unfold State.stopContext
    repeat' (first
      | with_reducible rfl
      | (with_reducible refine (foldl_keeps (fun s => s.tw.tripped) _ ?_ _ _).trans ?_)
      | intro t a
      | split
      | simp)
  · unfold State.stopContext
    repeat' (first
      | with_reducible rfl
      | (with_reducible refine (foldl_keeps (fun s => s.pwr.dev) _ ?_ _ _).trans ?_)
      | intro t a
      | split
      | simp)
  · unfold State.stopContext
    repeat' (first
      | with_reducible rfl
      | (with_reducible refine (foldl_keeps (fun s => s.boot.ready) _ ?_ _ _).trans ?_)
      | intro t a
      | split
      | simp)
  · unfold State.stopContext
    repeat' (first
      | with_reducible rfl
      | (with_reducible refine (foldl_keeps (fun s => s.boot.halt) _ ?_ _ _).trans ?_)
      | intro t a
      | split
      | simp)

@[simp] theorem State.replaceBlock_frame (k : Nat) (s : State) :
    (s.replaceBlock k).ao = s.ao ∧ (s.replaceBlock k).time = s.time ∧ (s.replaceBlock k).part = s.part ∧
    (s.replaceBlock k).mgmt = s.mgmt ∧ (s.replaceBlock k).jtag = s.jtag ∧ (s.replaceBlock k).pending = s.pending
    ∧ (s.replaceBlock k).tw.tripped = s.tw.tripped ∧ (s.replaceBlock k).pwr.dev = s.pwr.dev ∧
    (s.replaceBlock k).boot.ready = s.boot.ready ∧ (s.replaceBlock k).boot.halt = s.boot.halt := by
  refine ⟨?_, ?_, ?_, ?_, ?_, ?_, ?_, ?_, ?_, ?_⟩
  · unfold State.replaceBlock
    repeat' (first
      | with_reducible rfl
      | (with_reducible refine (foldl_keeps (State.ao) _ ?_ _ _).trans ?_)
      | intro t a
      | split
      | simp)
  · unfold State.replaceBlock
    repeat' (first
      | with_reducible rfl
      | (with_reducible refine (foldl_keeps (State.time) _ ?_ _ _).trans ?_)
      | intro t a
      | split
      | simp)
  · unfold State.replaceBlock
    repeat' (first
      | with_reducible rfl
      | (with_reducible refine (foldl_keeps (State.part) _ ?_ _ _).trans ?_)
      | intro t a
      | split
      | simp)
  · unfold State.replaceBlock
    repeat' (first
      | with_reducible rfl
      | (with_reducible refine (foldl_keeps (State.mgmt) _ ?_ _ _).trans ?_)
      | intro t a
      | split
      | simp)
  · unfold State.replaceBlock
    repeat' (first
      | with_reducible rfl
      | (with_reducible refine (foldl_keeps (State.jtag) _ ?_ _ _).trans ?_)
      | intro t a
      | split
      | simp)
  · unfold State.replaceBlock
    repeat' (first
      | with_reducible rfl
      | (with_reducible refine (foldl_keeps (State.pending) _ ?_ _ _).trans ?_)
      | intro t a
      | split
      | simp)
  · unfold State.replaceBlock
    repeat' (first
      | with_reducible rfl
      | (with_reducible refine (foldl_keeps (fun s => s.tw.tripped) _ ?_ _ _).trans ?_)
      | intro t a
      | split
      | simp)
  · unfold State.replaceBlock
    repeat' (first
      | with_reducible rfl
      | (with_reducible refine (foldl_keeps (fun s => s.pwr.dev) _ ?_ _ _).trans ?_)
      | intro t a
      | split
      | simp)
  · unfold State.replaceBlock
    repeat' (first
      | with_reducible rfl
      | (with_reducible refine (foldl_keeps (fun s => s.boot.ready) _ ?_ _ _).trans ?_)
      | intro t a
      | split
      | simp)
  · unfold State.replaceBlock
    repeat' (first
      | with_reducible rfl
      | (with_reducible refine (foldl_keeps (fun s => s.boot.halt) _ ?_ _ _).trans ?_)
      | intro t a
      | split
      | simp)

@[simp] theorem State.rerunCluster_frame (n k : Nat) (s : State) :
    (s.rerunCluster n k).ao = s.ao ∧ (s.rerunCluster n k).time = s.time ∧ (s.rerunCluster n k).part = s.part ∧
    (s.rerunCluster n k).mgmt = s.mgmt ∧ (s.rerunCluster n k).jtag = s.jtag ∧
    (s.rerunCluster n k).pending = s.pending ∧ (s.rerunCluster n k).tw.tripped = s.tw.tripped ∧
    (s.rerunCluster n k).pwr.dev = s.pwr.dev ∧ (s.rerunCluster n k).boot.ready = s.boot.ready ∧
    (s.rerunCluster n k).boot.halt = s.boot.halt := by
  refine ⟨?_, ?_, ?_, ?_, ?_, ?_, ?_, ?_, ?_, ?_⟩
  · unfold State.rerunCluster
    repeat' (first
      | with_reducible rfl
      | (with_reducible refine (foldl_keeps (State.ao) _ ?_ _ _).trans ?_)
      | intro t a
      | split
      | simp)
  · unfold State.rerunCluster
    repeat' (first
      | with_reducible rfl
      | (with_reducible refine (foldl_keeps (State.time) _ ?_ _ _).trans ?_)
      | intro t a
      | split
      | simp)
  · unfold State.rerunCluster
    repeat' (first
      | with_reducible rfl
      | (with_reducible refine (foldl_keeps (State.part) _ ?_ _ _).trans ?_)
      | intro t a
      | split
      | simp)
  · unfold State.rerunCluster
    repeat' (first
      | with_reducible rfl
      | (with_reducible refine (foldl_keeps (State.mgmt) _ ?_ _ _).trans ?_)
      | intro t a
      | split
      | simp)
  · unfold State.rerunCluster
    repeat' (first
      | with_reducible rfl
      | (with_reducible refine (foldl_keeps (State.jtag) _ ?_ _ _).trans ?_)
      | intro t a
      | split
      | simp)
  · unfold State.rerunCluster
    repeat' (first
      | with_reducible rfl
      | (with_reducible refine (foldl_keeps (State.pending) _ ?_ _ _).trans ?_)
      | intro t a
      | split
      | simp)
  · unfold State.rerunCluster
    repeat' (first
      | with_reducible rfl
      | (with_reducible refine (foldl_keeps (fun s => s.tw.tripped) _ ?_ _ _).trans ?_)
      | intro t a
      | split
      | simp)
  · unfold State.rerunCluster
    repeat' (first
      | with_reducible rfl
      | (with_reducible refine (foldl_keeps (fun s => s.pwr.dev) _ ?_ _ _).trans ?_)
      | intro t a
      | split
      | simp)
  · unfold State.rerunCluster
    repeat' (first
      | with_reducible rfl
      | (with_reducible refine (foldl_keeps (fun s => s.boot.ready) _ ?_ _ _).trans ?_)
      | intro t a
      | split
      | simp)
  · unfold State.rerunCluster
    repeat' (first
      | with_reducible rfl
      | (with_reducible refine (foldl_keeps (fun s => s.boot.halt) _ ?_ _ _).trans ?_)
      | intro t a
      | split
      | simp)

@[simp] theorem State.loseBlock_frame (c k : Nat) (s : State) :
    (s.loseBlock c k).ao = s.ao ∧ (s.loseBlock c k).time = s.time ∧ (s.loseBlock c k).part = s.part ∧
    (s.loseBlock c k).mgmt = s.mgmt ∧ (s.loseBlock c k).jtag = s.jtag ∧ (s.loseBlock c k).pending = s.pending ∧
    (s.loseBlock c k).tw.tripped = s.tw.tripped ∧ (s.loseBlock c k).pwr.dev = s.pwr.dev ∧
    (s.loseBlock c k).boot.ready = s.boot.ready ∧ (s.loseBlock c k).boot.halt = s.boot.halt := by
  refine ⟨?_, ?_, ?_, ?_, ?_, ?_, ?_, ?_, ?_, ?_⟩
  · unfold State.loseBlock
    repeat' (first
      | with_reducible rfl
      | (with_reducible refine (foldl_keeps (State.ao) _ ?_ _ _).trans ?_)
      | intro t a
      | split
      | simp)
  · unfold State.loseBlock
    repeat' (first
      | with_reducible rfl
      | (with_reducible refine (foldl_keeps (State.time) _ ?_ _ _).trans ?_)
      | intro t a
      | split
      | simp)
  · unfold State.loseBlock
    repeat' (first
      | with_reducible rfl
      | (with_reducible refine (foldl_keeps (State.part) _ ?_ _ _).trans ?_)
      | intro t a
      | split
      | simp)
  · unfold State.loseBlock
    repeat' (first
      | with_reducible rfl
      | (with_reducible refine (foldl_keeps (State.mgmt) _ ?_ _ _).trans ?_)
      | intro t a
      | split
      | simp)
  · unfold State.loseBlock
    repeat' (first
      | with_reducible rfl
      | (with_reducible refine (foldl_keeps (State.jtag) _ ?_ _ _).trans ?_)
      | intro t a
      | split
      | simp)
  · unfold State.loseBlock
    repeat' (first
      | with_reducible rfl
      | (with_reducible refine (foldl_keeps (State.pending) _ ?_ _ _).trans ?_)
      | intro t a
      | split
      | simp)
  · unfold State.loseBlock
    repeat' (first
      | with_reducible rfl
      | (with_reducible refine (foldl_keeps (fun s => s.tw.tripped) _ ?_ _ _).trans ?_)
      | intro t a
      | split
      | simp)
  · unfold State.loseBlock
    repeat' (first
      | with_reducible rfl
      | (with_reducible refine (foldl_keeps (fun s => s.pwr.dev) _ ?_ _ _).trans ?_)
      | intro t a
      | split
      | simp)
  · unfold State.loseBlock
    repeat' (first
      | with_reducible rfl
      | (with_reducible refine (foldl_keeps (fun s => s.boot.ready) _ ?_ _ _).trans ?_)
      | intro t a
      | split
      | simp)
  · unfold State.loseBlock
    repeat' (first
      | with_reducible rfl
      | (with_reducible refine (foldl_keeps (fun s => s.boot.halt) _ ?_ _ _).trans ?_)
      | intro t a
      | split
      | simp)

@[simp] theorem State.givePiece_frame (p : Nat) (w : MovWork) (s : State) :
    (s.givePiece p w).ao = s.ao ∧ (s.givePiece p w).time = s.time ∧ (s.givePiece p w).part = s.part ∧
    (s.givePiece p w).mgmt = s.mgmt ∧ (s.givePiece p w).jtag = s.jtag ∧ (s.givePiece p w).pending = s.pending ∧
    (s.givePiece p w).tw.tripped = s.tw.tripped ∧ (s.givePiece p w).pwr.dev = s.pwr.dev ∧
    (s.givePiece p w).boot.ready = s.boot.ready ∧ (s.givePiece p w).boot.halt = s.boot.halt := by
  refine ⟨?_, ?_, ?_, ?_, ?_, ?_, ?_, ?_, ?_, ?_⟩
  · unfold State.givePiece
    repeat' (first
      | with_reducible rfl
      | (with_reducible refine (foldl_keeps (State.ao) _ ?_ _ _).trans ?_)
      | intro t a
      | split
      | simp)
  · unfold State.givePiece
    repeat' (first
      | with_reducible rfl
      | (with_reducible refine (foldl_keeps (State.time) _ ?_ _ _).trans ?_)
      | intro t a
      | split
      | simp)
  · unfold State.givePiece
    repeat' (first
      | with_reducible rfl
      | (with_reducible refine (foldl_keeps (State.part) _ ?_ _ _).trans ?_)
      | intro t a
      | split
      | simp)
  · unfold State.givePiece
    repeat' (first
      | with_reducible rfl
      | (with_reducible refine (foldl_keeps (State.mgmt) _ ?_ _ _).trans ?_)
      | intro t a
      | split
      | simp)
  · unfold State.givePiece
    repeat' (first
      | with_reducible rfl
      | (with_reducible refine (foldl_keeps (State.jtag) _ ?_ _ _).trans ?_)
      | intro t a
      | split
      | simp)
  · unfold State.givePiece
    repeat' (first
      | with_reducible rfl
      | (with_reducible refine (foldl_keeps (State.pending) _ ?_ _ _).trans ?_)
      | intro t a
      | split
      | simp)
  · unfold State.givePiece
    repeat' (first
      | with_reducible rfl
      | (with_reducible refine (foldl_keeps (fun s => s.tw.tripped) _ ?_ _ _).trans ?_)
      | intro t a
      | split
      | simp)
  · unfold State.givePiece
    repeat' (first
      | with_reducible rfl
      | (with_reducible refine (foldl_keeps (fun s => s.pwr.dev) _ ?_ _ _).trans ?_)
      | intro t a
      | split
      | simp)
  · unfold State.givePiece
    repeat' (first
      | with_reducible rfl
      | (with_reducible refine (foldl_keeps (fun s => s.boot.ready) _ ?_ _ _).trans ?_)
      | intro t a
      | split
      | simp)
  · unfold State.givePiece
    repeat' (first
      | with_reducible rfl
      | (with_reducible refine (foldl_keeps (fun s => s.boot.halt) _ ?_ _ _).trans ?_)
      | intro t a
      | split
      | simp)

@[simp] theorem State.loseCore_frame (c : Nat) (s : State) :
    (s.loseCore c).ao = s.ao ∧ (s.loseCore c).time = s.time ∧ (s.loseCore c).part = s.part ∧
    (s.loseCore c).mgmt = s.mgmt ∧ (s.loseCore c).jtag = s.jtag ∧ (s.loseCore c).pending = s.pending ∧
    (s.loseCore c).tw.tripped = s.tw.tripped ∧ (s.loseCore c).pwr.dev = s.pwr.dev ∧
    (s.loseCore c).boot.ready = s.boot.ready ∧ (s.loseCore c).boot.halt = s.boot.halt := by
  refine ⟨?_, ?_, ?_, ?_, ?_, ?_, ?_, ?_, ?_, ?_⟩
  · unfold State.loseCore
    repeat' (first
      | with_reducible rfl
      | (with_reducible refine (foldl_keeps (State.ao) _ ?_ _ _).trans ?_)
      | intro t a
      | split
      | simp)
  · unfold State.loseCore
    repeat' (first
      | with_reducible rfl
      | (with_reducible refine (foldl_keeps (State.time) _ ?_ _ _).trans ?_)
      | intro t a
      | split
      | simp)
  · unfold State.loseCore
    repeat' (first
      | with_reducible rfl
      | (with_reducible refine (foldl_keeps (State.part) _ ?_ _ _).trans ?_)
      | intro t a
      | split
      | simp)
  · unfold State.loseCore
    repeat' (first
      | with_reducible rfl
      | (with_reducible refine (foldl_keeps (State.mgmt) _ ?_ _ _).trans ?_)
      | intro t a
      | split
      | simp)
  · unfold State.loseCore
    repeat' (first
      | with_reducible rfl
      | (with_reducible refine (foldl_keeps (State.jtag) _ ?_ _ _).trans ?_)
      | intro t a
      | split
      | simp)
  · unfold State.loseCore
    repeat' (first
      | with_reducible rfl
      | (with_reducible refine (foldl_keeps (State.pending) _ ?_ _ _).trans ?_)
      | intro t a
      | split
      | simp)
  · unfold State.loseCore
    repeat' (first
      | with_reducible rfl
      | (with_reducible refine (foldl_keeps (fun s => s.tw.tripped) _ ?_ _ _).trans ?_)
      | intro t a
      | split
      | simp)
  · unfold State.loseCore
    repeat' (first
      | with_reducible rfl
      | (with_reducible refine (foldl_keeps (fun s => s.pwr.dev) _ ?_ _ _).trans ?_)
      | intro t a
      | split
      | simp)
  · unfold State.loseCore
    repeat' (first
      | with_reducible rfl
      | (with_reducible refine (foldl_keeps (fun s => s.boot.ready) _ ?_ _ _).trans ?_)
      | intro t a
      | split
      | simp)
  · unfold State.loseCore
    repeat' (first
      | with_reducible rfl
      | (with_reducible refine (foldl_keeps (fun s => s.boot.halt) _ ?_ _ _).trans ?_)
      | intro t a
      | split
      | simp)

@[simp] theorem State.napCores_frame (n : Nat) (s : State) :
    (s.napCores n).ao = s.ao ∧ (s.napCores n).time = s.time ∧ (s.napCores n).part = s.part ∧
    (s.napCores n).mgmt = s.mgmt ∧ (s.napCores n).jtag = s.jtag ∧ (s.napCores n).pending = s.pending ∧
    (s.napCores n).tw.tripped = s.tw.tripped ∧ (s.napCores n).pwr.dev = s.pwr.dev ∧
    (s.napCores n).boot.ready = s.boot.ready ∧ (s.napCores n).boot.halt = s.boot.halt := by
  refine ⟨?_, ?_, ?_, ?_, ?_, ?_, ?_, ?_, ?_, ?_⟩
  · unfold State.napCores
    repeat' (first
      | with_reducible rfl
      | (with_reducible refine (foldl_keeps (State.ao) _ ?_ _ _).trans ?_)
      | intro t a
      | split
      | simp)
  · unfold State.napCores
    repeat' (first
      | with_reducible rfl
      | (with_reducible refine (foldl_keeps (State.time) _ ?_ _ _).trans ?_)
      | intro t a
      | split
      | simp)
  · unfold State.napCores
    repeat' (first
      | with_reducible rfl
      | (with_reducible refine (foldl_keeps (State.part) _ ?_ _ _).trans ?_)
      | intro t a
      | split
      | simp)
  · unfold State.napCores
    repeat' (first
      | with_reducible rfl
      | (with_reducible refine (foldl_keeps (State.mgmt) _ ?_ _ _).trans ?_)
      | intro t a
      | split
      | simp)
  · unfold State.napCores
    repeat' (first
      | with_reducible rfl
      | (with_reducible refine (foldl_keeps (State.jtag) _ ?_ _ _).trans ?_)
      | intro t a
      | split
      | simp)
  · unfold State.napCores
    repeat' (first
      | with_reducible rfl
      | (with_reducible refine (foldl_keeps (State.pending) _ ?_ _ _).trans ?_)
      | intro t a
      | split
      | simp)
  · unfold State.napCores
    repeat' (first
      | with_reducible rfl
      | (with_reducible refine (foldl_keeps (fun s => s.tw.tripped) _ ?_ _ _).trans ?_)
      | intro t a
      | split
      | simp)
  · unfold State.napCores
    repeat' (first
      | with_reducible rfl
      | (with_reducible refine (foldl_keeps (fun s => s.pwr.dev) _ ?_ _ _).trans ?_)
      | intro t a
      | split
      | simp)
  · unfold State.napCores
    repeat' (first
      | with_reducible rfl
      | (with_reducible refine (foldl_keeps (fun s => s.boot.ready) _ ?_ _ _).trans ?_)
      | intro t a
      | split
      | simp)
  · unfold State.napCores
    repeat' (first
      | with_reducible rfl
      | (with_reducible refine (foldl_keeps (fun s => s.boot.halt) _ ?_ _ _).trans ?_)
      | intro t a
      | split
      | simp)

@[simp] theorem State.dropL2_frame (n : Nat) (s : State) :
    (s.dropL2 n).ao = s.ao ∧ (s.dropL2 n).time = s.time ∧ (s.dropL2 n).part = s.part ∧
    (s.dropL2 n).mgmt = s.mgmt ∧ (s.dropL2 n).jtag = s.jtag ∧ (s.dropL2 n).pending = s.pending ∧
    (s.dropL2 n).tw.tripped = s.tw.tripped ∧ (s.dropL2 n).pwr.dev = s.pwr.dev ∧
    (s.dropL2 n).boot.ready = s.boot.ready ∧ (s.dropL2 n).boot.halt = s.boot.halt := by
  refine ⟨?_, ?_, ?_, ?_, ?_, ?_, ?_, ?_, ?_, ?_⟩
  · unfold State.dropL2
    repeat' (first
      | with_reducible rfl
      | (with_reducible refine (foldl_keeps (State.ao) _ ?_ _ _).trans ?_)
      | intro t a
      | split
      | simp)
  · unfold State.dropL2
    repeat' (first
      | with_reducible rfl
      | (with_reducible refine (foldl_keeps (State.time) _ ?_ _ _).trans ?_)
      | intro t a
      | split
      | simp)
  · unfold State.dropL2
    repeat' (first
      | with_reducible rfl
      | (with_reducible refine (foldl_keeps (State.part) _ ?_ _ _).trans ?_)
      | intro t a
      | split
      | simp)
  · unfold State.dropL2
    repeat' (first
      | with_reducible rfl
      | (with_reducible refine (foldl_keeps (State.mgmt) _ ?_ _ _).trans ?_)
      | intro t a
      | split
      | simp)
  · unfold State.dropL2
    repeat' (first
      | with_reducible rfl
      | (with_reducible refine (foldl_keeps (State.jtag) _ ?_ _ _).trans ?_)
      | intro t a
      | split
      | simp)
  · unfold State.dropL2
    repeat' (first
      | with_reducible rfl
      | (with_reducible refine (foldl_keeps (State.pending) _ ?_ _ _).trans ?_)
      | intro t a
      | split
      | simp)
  · unfold State.dropL2
    repeat' (first
      | with_reducible rfl
      | (with_reducible refine (foldl_keeps (fun s => s.tw.tripped) _ ?_ _ _).trans ?_)
      | intro t a
      | split
      | simp)
  · unfold State.dropL2
    repeat' (first
      | with_reducible rfl
      | (with_reducible refine (foldl_keeps (fun s => s.pwr.dev) _ ?_ _ _).trans ?_)
      | intro t a
      | split
      | simp)
  · unfold State.dropL2
    repeat' (first
      | with_reducible rfl
      | (with_reducible refine (foldl_keeps (fun s => s.boot.ready) _ ?_ _ _).trans ?_)
      | intro t a
      | split
      | simp)
  · unfold State.dropL2
    repeat' (first
      | with_reducible rfl
      | (with_reducible refine (foldl_keeps (fun s => s.boot.halt) _ ?_ _ _).trans ?_)
      | intro t a
      | split
      | simp)

@[simp] theorem State.sliceDown_frame (n : Nat) (x : SliceSt) (s : State) :
    (s.sliceDown n x).ao = s.ao ∧ (s.sliceDown n x).time = s.time ∧ (s.sliceDown n x).part = s.part ∧
    (s.sliceDown n x).mgmt = s.mgmt ∧ (s.sliceDown n x).jtag = s.jtag ∧ (s.sliceDown n x).pending = s.pending ∧
    (s.sliceDown n x).tw.tripped = s.tw.tripped ∧ (s.sliceDown n x).pwr.dev = s.pwr.dev ∧
    (s.sliceDown n x).boot.ready = s.boot.ready ∧ (s.sliceDown n x).boot.halt = s.boot.halt := by
  refine ⟨?_, ?_, ?_, ?_, ?_, ?_, ?_, ?_, ?_, ?_⟩
  · unfold State.sliceDown
    repeat' (first
      | with_reducible rfl
      | (with_reducible refine (foldl_keeps (State.ao) _ ?_ _ _).trans ?_)
      | intro t a
      | split
      | simp)
  · unfold State.sliceDown
    repeat' (first
      | with_reducible rfl
      | (with_reducible refine (foldl_keeps (State.time) _ ?_ _ _).trans ?_)
      | intro t a
      | split
      | simp)
  · unfold State.sliceDown
    repeat' (first
      | with_reducible rfl
      | (with_reducible refine (foldl_keeps (State.part) _ ?_ _ _).trans ?_)
      | intro t a
      | split
      | simp)
  · unfold State.sliceDown
    repeat' (first
      | with_reducible rfl
      | (with_reducible refine (foldl_keeps (State.mgmt) _ ?_ _ _).trans ?_)
      | intro t a
      | split
      | simp)
  · unfold State.sliceDown
    repeat' (first
      | with_reducible rfl
      | (with_reducible refine (foldl_keeps (State.jtag) _ ?_ _ _).trans ?_)
      | intro t a
      | split
      | simp)
  · unfold State.sliceDown
    repeat' (first
      | with_reducible rfl
      | (with_reducible refine (foldl_keeps (State.pending) _ ?_ _ _).trans ?_)
      | intro t a
      | split
      | simp)
  · unfold State.sliceDown
    repeat' (first
      | with_reducible rfl
      | (with_reducible refine (foldl_keeps (fun s => s.tw.tripped) _ ?_ _ _).trans ?_)
      | intro t a
      | split
      | simp)
  · unfold State.sliceDown
    repeat' (first
      | with_reducible rfl
      | (with_reducible refine (foldl_keeps (fun s => s.pwr.dev) _ ?_ _ _).trans ?_)
      | intro t a
      | split
      | simp)
  · unfold State.sliceDown
    repeat' (first
      | with_reducible rfl
      | (with_reducible refine (foldl_keeps (fun s => s.boot.ready) _ ?_ _ _).trans ?_)
      | intro t a
      | split
      | simp)
  · unfold State.sliceDown
    repeat' (first
      | with_reducible rfl
      | (with_reducible refine (foldl_keeps (fun s => s.boot.halt) _ ?_ _ _).trans ?_)
      | intro t a
      | split
      | simp)

@[simp] theorem State.faultLost_frame (n : Nat) (s : State) :
    (s.faultLost n).ao = s.ao ∧ (s.faultLost n).time = s.time ∧ (s.faultLost n).part = s.part ∧
    (s.faultLost n).mgmt = s.mgmt ∧ (s.faultLost n).jtag = s.jtag ∧ (s.faultLost n).pending = s.pending ∧
    (s.faultLost n).tw.tripped = s.tw.tripped ∧ (s.faultLost n).pwr.dev = s.pwr.dev ∧
    (s.faultLost n).boot.ready = s.boot.ready ∧ (s.faultLost n).boot.halt = s.boot.halt := by
  refine ⟨?_, ?_, ?_, ?_, ?_, ?_, ?_, ?_, ?_, ?_⟩
  · unfold State.faultLost
    repeat' (first
      | with_reducible rfl
      | (with_reducible refine (foldl_keeps (State.ao) _ ?_ _ _).trans ?_)
      | intro t a
      | split
      | simp)
  · unfold State.faultLost
    repeat' (first
      | with_reducible rfl
      | (with_reducible refine (foldl_keeps (State.time) _ ?_ _ _).trans ?_)
      | intro t a
      | split
      | simp)
  · unfold State.faultLost
    repeat' (first
      | with_reducible rfl
      | (with_reducible refine (foldl_keeps (State.part) _ ?_ _ _).trans ?_)
      | intro t a
      | split
      | simp)
  · unfold State.faultLost
    repeat' (first
      | with_reducible rfl
      | (with_reducible refine (foldl_keeps (State.mgmt) _ ?_ _ _).trans ?_)
      | intro t a
      | split
      | simp)
  · unfold State.faultLost
    repeat' (first
      | with_reducible rfl
      | (with_reducible refine (foldl_keeps (State.jtag) _ ?_ _ _).trans ?_)
      | intro t a
      | split
      | simp)
  · unfold State.faultLost
    repeat' (first
      | with_reducible rfl
      | (with_reducible refine (foldl_keeps (State.pending) _ ?_ _ _).trans ?_)
      | intro t a
      | split
      | simp)
  · unfold State.faultLost
    repeat' (first
      | with_reducible rfl
      | (with_reducible refine (foldl_keeps (fun s => s.tw.tripped) _ ?_ _ _).trans ?_)
      | intro t a
      | split
      | simp)
  · unfold State.faultLost
    repeat' (first
      | with_reducible rfl
      | (with_reducible refine (foldl_keeps (fun s => s.pwr.dev) _ ?_ _ _).trans ?_)
      | intro t a
      | split
      | simp)
  · unfold State.faultLost
    repeat' (first
      | with_reducible rfl
      | (with_reducible refine (foldl_keeps (fun s => s.boot.ready) _ ?_ _ _).trans ?_)
      | intro t a
      | split
      | simp)
  · unfold State.faultLost
    repeat' (first
      | with_reducible rfl
      | (with_reducible refine (foldl_keeps (fun s => s.boot.halt) _ ?_ _ _).trans ?_)
      | intro t a
      | split
      | simp)

@[simp] theorem State.sliceLost_frame (n : Nat) (s : State) (tag : Word) :
    (State.sliceLost n s tag).ao = s.ao ∧ (State.sliceLost n s tag).time = s.time ∧
    (State.sliceLost n s tag).part = s.part ∧ (State.sliceLost n s tag).mgmt = s.mgmt ∧
    (State.sliceLost n s tag).jtag = s.jtag ∧ (State.sliceLost n s tag).pending = s.pending ∧
    (State.sliceLost n s tag).tw.tripped = s.tw.tripped ∧ (State.sliceLost n s tag).pwr.dev = s.pwr.dev ∧
    (State.sliceLost n s tag).boot.ready = s.boot.ready ∧
    (State.sliceLost n s tag).boot.halt = s.boot.halt := by
  refine ⟨?_, ?_, ?_, ?_, ?_, ?_, ?_, ?_, ?_, ?_⟩
  · unfold State.sliceLost
    repeat' (first
      | with_reducible rfl
      | (with_reducible refine (foldl_keeps (State.ao) _ ?_ _ _).trans ?_)
      | intro t a
      | split
      | simp)
  · unfold State.sliceLost
    repeat' (first
      | with_reducible rfl
      | (with_reducible refine (foldl_keeps (State.time) _ ?_ _ _).trans ?_)
      | intro t a
      | split
      | simp)
  · unfold State.sliceLost
    repeat' (first
      | with_reducible rfl
      | (with_reducible refine (foldl_keeps (State.part) _ ?_ _ _).trans ?_)
      | intro t a
      | split
      | simp)
  · unfold State.sliceLost
    repeat' (first
      | with_reducible rfl
      | (with_reducible refine (foldl_keeps (State.mgmt) _ ?_ _ _).trans ?_)
      | intro t a
      | split
      | simp)
  · unfold State.sliceLost
    repeat' (first
      | with_reducible rfl
      | (with_reducible refine (foldl_keeps (State.jtag) _ ?_ _ _).trans ?_)
      | intro t a
      | split
      | simp)
  · unfold State.sliceLost
    repeat' (first
      | with_reducible rfl
      | (with_reducible refine (foldl_keeps (State.pending) _ ?_ _ _).trans ?_)
      | intro t a
      | split
      | simp)
  · unfold State.sliceLost
    repeat' (first
      | with_reducible rfl
      | (with_reducible refine (foldl_keeps (fun s => s.tw.tripped) _ ?_ _ _).trans ?_)
      | intro t a
      | split
      | simp)
  · unfold State.sliceLost
    repeat' (first
      | with_reducible rfl
      | (with_reducible refine (foldl_keeps (fun s => s.pwr.dev) _ ?_ _ _).trans ?_)
      | intro t a
      | split
      | simp)
  · unfold State.sliceLost
    repeat' (first
      | with_reducible rfl
      | (with_reducible refine (foldl_keeps (fun s => s.boot.ready) _ ?_ _ _).trans ?_)
      | intro t a
      | split
      | simp)
  · unfold State.sliceLost
    repeat' (first
      | with_reducible rfl
      | (with_reducible refine (foldl_keeps (fun s => s.boot.halt) _ ?_ _ _).trans ?_)
      | intro t a
      | split
      | simp)

@[simp] theorem State.layUp_frame (c cause : Nat) (b : Bool) (s : State) (tag : Word) :
    (State.layUp c cause b s tag).ao = s.ao ∧ (State.layUp c cause b s tag).time = s.time ∧
    (State.layUp c cause b s tag).part = s.part ∧ (State.layUp c cause b s tag).mgmt = s.mgmt ∧
    (State.layUp c cause b s tag).jtag = s.jtag ∧ (State.layUp c cause b s tag).pending = s.pending ∧
    (State.layUp c cause b s tag).tw.tripped = s.tw.tripped ∧
    (State.layUp c cause b s tag).pwr.dev = s.pwr.dev ∧
    (State.layUp c cause b s tag).boot.ready = s.boot.ready ∧
    (State.layUp c cause b s tag).boot.halt = s.boot.halt := by
  refine ⟨?_, ?_, ?_, ?_, ?_, ?_, ?_, ?_, ?_, ?_⟩
  · unfold State.layUp
    repeat' (first
      | with_reducible rfl
      | (with_reducible refine (foldl_keeps (State.ao) _ ?_ _ _).trans ?_)
      | intro t a
      | split
      | simp)
  · unfold State.layUp
    repeat' (first
      | with_reducible rfl
      | (with_reducible refine (foldl_keeps (State.time) _ ?_ _ _).trans ?_)
      | intro t a
      | split
      | simp)
  · unfold State.layUp
    repeat' (first
      | with_reducible rfl
      | (with_reducible refine (foldl_keeps (State.part) _ ?_ _ _).trans ?_)
      | intro t a
      | split
      | simp)
  · unfold State.layUp
    repeat' (first
      | with_reducible rfl
      | (with_reducible refine (foldl_keeps (State.mgmt) _ ?_ _ _).trans ?_)
      | intro t a
      | split
      | simp)
  · unfold State.layUp
    repeat' (first
      | with_reducible rfl
      | (with_reducible refine (foldl_keeps (State.jtag) _ ?_ _ _).trans ?_)
      | intro t a
      | split
      | simp)
  · unfold State.layUp
    repeat' (first
      | with_reducible rfl
      | (with_reducible refine (foldl_keeps (State.pending) _ ?_ _ _).trans ?_)
      | intro t a
      | split
      | simp)
  · unfold State.layUp
    repeat' (first
      | with_reducible rfl
      | (with_reducible refine (foldl_keeps (fun s => s.tw.tripped) _ ?_ _ _).trans ?_)
      | intro t a
      | split
      | simp)
  · unfold State.layUp
    repeat' (first
      | with_reducible rfl
      | (with_reducible refine (foldl_keeps (fun s => s.pwr.dev) _ ?_ _ _).trans ?_)
      | intro t a
      | split
      | simp)
  · unfold State.layUp
    repeat' (first
      | with_reducible rfl
      | (with_reducible refine (foldl_keeps (fun s => s.boot.ready) _ ?_ _ _).trans ?_)
      | intro t a
      | split
      | simp)
  · unfold State.layUp
    repeat' (first
      | with_reducible rfl
      | (with_reducible refine (foldl_keeps (fun s => s.boot.halt) _ ?_ _ _).trans ?_)
      | intro t a
      | split
      | simp)

@[simp] theorem State.leavePrewake_frame (n : Nat) (s : State) :
    (s.leavePrewake n).ao = s.ao ∧ (s.leavePrewake n).time = s.time ∧ (s.leavePrewake n).part = s.part ∧
    (s.leavePrewake n).mgmt = s.mgmt ∧ (s.leavePrewake n).jtag = s.jtag ∧
    (s.leavePrewake n).pending = s.pending ∧ (s.leavePrewake n).tw.tripped = s.tw.tripped ∧
    (s.leavePrewake n).pwr.dev = s.pwr.dev ∧ (s.leavePrewake n).boot.ready = s.boot.ready ∧
    (s.leavePrewake n).boot.halt = s.boot.halt := by
  refine ⟨?_, ?_, ?_, ?_, ?_, ?_, ?_, ?_, ?_, ?_⟩
  · unfold State.leavePrewake
    repeat' (first
      | with_reducible rfl
      | (with_reducible refine (foldl_keeps (State.ao) _ ?_ _ _).trans ?_)
      | intro t a
      | split
      | simp)
  · unfold State.leavePrewake
    repeat' (first
      | with_reducible rfl
      | (with_reducible refine (foldl_keeps (State.time) _ ?_ _ _).trans ?_)
      | intro t a
      | split
      | simp)
  · unfold State.leavePrewake
    repeat' (first
      | with_reducible rfl
      | (with_reducible refine (foldl_keeps (State.part) _ ?_ _ _).trans ?_)
      | intro t a
      | split
      | simp)
  · unfold State.leavePrewake
    repeat' (first
      | with_reducible rfl
      | (with_reducible refine (foldl_keeps (State.mgmt) _ ?_ _ _).trans ?_)
      | intro t a
      | split
      | simp)
  · unfold State.leavePrewake
    repeat' (first
      | with_reducible rfl
      | (with_reducible refine (foldl_keeps (State.jtag) _ ?_ _ _).trans ?_)
      | intro t a
      | split
      | simp)
  · unfold State.leavePrewake
    repeat' (first
      | with_reducible rfl
      | (with_reducible refine (foldl_keeps (State.pending) _ ?_ _ _).trans ?_)
      | intro t a
      | split
      | simp)
  · unfold State.leavePrewake
    repeat' (first
      | with_reducible rfl
      | (with_reducible refine (foldl_keeps (fun s => s.tw.tripped) _ ?_ _ _).trans ?_)
      | intro t a
      | split
      | simp)
  · unfold State.leavePrewake
    repeat' (first
      | with_reducible rfl
      | (with_reducible refine (foldl_keeps (fun s => s.pwr.dev) _ ?_ _ _).trans ?_)
      | intro t a
      | split
      | simp)
  · unfold State.leavePrewake
    repeat' (first
      | with_reducible rfl
      | (with_reducible refine (foldl_keeps (fun s => s.boot.ready) _ ?_ _ _).trans ?_)
      | intro t a
      | split
      | simp)
  · unfold State.leavePrewake
    repeat' (first
      | with_reducible rfl
      | (with_reducible refine (foldl_keeps (fun s => s.boot.halt) _ ?_ _ _).trans ?_)
      | intro t a
      | split
      | simp)

@[simp] theorem State.endPrewake_dev (pid : Nat) (s : State) :
    (s.endPrewake pid).pwr.dev = s.pwr.dev := by
  · unfold State.endPrewake
    repeat' (first
      | with_reducible rfl
      | (with_reducible refine (foldl_keeps (fun s => s.pwr.dev) _ ?_ _ _).trans ?_)
      | intro t a
      | split
      | simp)

end Sys2Proof.Machine
end

