-- ==== Sys2Proof/Laws/Fleet.lean ====
section
/-! SUPPORT. A message that is taken from the inbox is acted on. -/

namespace Sys2Proof.Machine

theorem takeMsg_run (s x : State) (sel : FleetMsg → Bool) (f : Nat → FleetMsg → State → State) (port : Nat) (m : FleetMsg)
    (h : s.awake = true) (ht : s.Takes sel port m x) : takeMsg sel f s = f port m x := by
  obtain ⟨pool, r, h1, rfl, h3⟩ := ht
  simp [takeMsg, h, h1, h3]

theorem takeEarly_run (s x : State) (sel : FleetMsg → Bool) (f : Nat → FleetMsg → State → State) (port : Nat) (m : FleetMsg)
    (h : s.fleetUp = true) (ht : s.Takes sel port m x) : takeEarly sel f s = f port m x := by
  obtain ⟨pool, r, h1, rfl, h3⟩ := ht
  simp [takeEarly, h, h1, h3]

end Sys2Proof.Machine
end

