-- ==== Sys2Proof/Laws/Tab.lean ====
section
/-! SUPPORT. Laws of sparse tables and of device memory: a read after a write, the frame of a write, and the canonical form
that every memory operation keeps. -/

namespace Sys2Proof

theorem Tab.look_drop_self {α : Type} (t : Tab α) (k : Nat) (d : α) : (t.drop k).look k d = d := by
  induction t with
  | nil => rfl
  | cons e r ih =>
    obtain ⟨i, a⟩ := e
    by_cases h : i = k <;> simp [Tab.drop, Tab.look, h, ih]

theorem Tab.look_drop_ne {α : Type} (t : Tab α) (k j : Nat) (d : α) (h : j ≠ k) : (t.drop k).look j d = t.look j d := by
  induction t with
  | nil => rfl
  | cons e r ih =>
    obtain ⟨i, a⟩ := e
    by_cases hi : i = k
    · subst hi; simp [Tab.drop, Tab.look, ih, Ne.symm h]
    · by_cases hj : i = j
      · subst hj; simp [Tab.drop, Tab.look, hi]
      · simp [Tab.drop, Tab.look, hi, hj, ih]

theorem Tab.look_ins_self {α : Type} (t : Tab α) (k : Nat) (d v : α) : (t.ins k v).look k d = v := by
  induction t with
  | nil => simp [Tab.ins, Tab.look]
  | cons e r ih =>
    obtain ⟨i, a⟩ := e
    unfold Tab.ins
    split
    · simp [Tab.look]
    · split
      · simp [Tab.look]
      · rename_i h; simp [Tab.look, Ne.symm h, ih]

theorem Tab.look_ins_ne {α : Type} (t : Tab α) (k j : Nat) (d v : α) (h : j ≠ k) : (t.ins k v).look j d = t.look j d := by
  induction t with
  | nil => simp [Tab.ins, Tab.look, Ne.symm h]
  | cons e r ih =>
    obtain ⟨i, a⟩ := e
    unfold Tab.ins
    split
    · simp [Tab.look, Ne.symm h]
    · split
      · rename_i hk; subst hk; simp [Tab.look, Ne.symm h]
      · by_cases hj : i = j <;> simp [Tab.look, hj, ih]

/-- What was written is read. -/
@[simp] theorem Tab.look_put_self {α : Type} [DecidableEq α] (t : Tab α) (k : Nat) (d v : α) :
    (t.put k d v).look k d = v := by
  unfold Tab.put
  split
  · rename_i h; rw [Tab.look_drop_self, h]
  · exact Tab.look_ins_self t k d v

/-- Every other index reads as before. -/
theorem Tab.look_put_ne {α : Type} [DecidableEq α] (t : Tab α) (k j : Nat) (d e v : α) (h : j ≠ k) :
    (t.put k d v).look j e = t.look j e := by
  unfold Tab.put
  split
  · exact Tab.look_drop_ne t k j e h
  · exact Tab.look_ins_ne t k j e v h

@[simp] theorem Tab.look_upd_self {α : Type} [DecidableEq α] (t : Tab α) (k : Nat) (d : α) (f : α → α) :
    (t.upd k d f).look k d = f (t.look k d) := by simp [Tab.upd]

theorem Tab.look_upd_ne {α : Type} [DecidableEq α] (t : Tab α) (k j : Nat) (d e : α) (f : α → α) (h : j ≠ k) :
    (t.upd k d f).look j e = t.look j e := Tab.look_put_ne t k j d e _ h

/-- No index below `n` is listed. -/
def Tab.from {α : Type} (n : Nat) (t : Tab α) : Prop := ∀ e ∈ t, n ≤ e.1

/-- The canonical form, one entry at a time. -/
theorem Tab.wf_cons {α : Type} [DecidableEq α] (d : α) (i : Nat) (a : α) (r : Tab α) :
    Tab.wf d ((i, a) :: r) = true ↔ a ≠ d ∧ Tab.from (i + 1) r ∧ Tab.wf d r = true := by
  induction r generalizing i a with
  | nil => simp [Tab.wf, Tab.from]
  | cons e r ih =>
    obtain ⟨j, b⟩ := e
    have hw := ih j b
    constructor
    · intro h
      simp only [Tab.wf, Bool.and_eq_true, decide_eq_true_eq] at h
      obtain ⟨⟨ha, hij⟩, hr⟩ := h
      refine ⟨ha, ?_, hr⟩
      obtain ⟨_, hf, _⟩ := hw.mp hr
      intro x hx
      rcases List.mem_cons.mp hx with rfl | hx
      · exact hij
      · have := hf x hx; omega
    · rintro ⟨ha, hf, hr⟩
      have hij : i + 1 ≤ j := hf (j, b) (by simp)
      have hlt : i < j := hij
      simp [Tab.wf, ha, hlt, hr]

theorem Tab.from_drop {α : Type} (n k : Nat) (t : Tab α) (h : Tab.from n t) : Tab.from n (t.drop k) := by
  induction t with
  | nil => exact h
  | cons e r ih =>
    obtain ⟨i, a⟩ := e
    have hr : Tab.from n r := fun x hx => h x (List.mem_cons_of_mem _ hx)
    unfold Tab.drop
    split
    · exact ih hr
    · intro x hx
      rcases List.mem_cons.mp hx with rfl | hx
      · exact h _ (by simp)
      · exact ih hr x hx

theorem Tab.from_ins {α : Type} (n k : Nat) (v : α) (t : Tab α) (hk : n ≤ k) (h : Tab.from n t) : Tab.from n (t.ins k v) := by
  induction t with
  | nil => intro x hx; simp [Tab.ins] at hx; subst hx; exact hk
  | cons e r ih =>
    obtain ⟨i, a⟩ := e
    have hr : Tab.from n r := fun x hx => h x (List.mem_cons_of_mem _ hx)
    unfold Tab.ins
    split
    · intro x hx
      rcases List.mem_cons.mp hx with rfl | hx
      · exact hk
      · exact h x hx
    · split
      · intro x hx
        rcases List.mem_cons.mp hx with rfl | hx
        · exact hk
        · exact hr x hx
      · intro x hx
        rcases List.mem_cons.mp hx with rfl | hx
        · exact h _ (by simp)
        · exact ih hr x hx

theorem Tab.wf_drop {α : Type} [DecidableEq α] (d : α) (k : Nat) (t : Tab α) (h : Tab.wf d t = true) :
    Tab.wf d (t.drop k) = true := by
  induction t with
  | nil => rfl
  | cons e r ih =>
    obtain ⟨i, a⟩ := e
    obtain ⟨ha, hf, hr⟩ := (Tab.wf_cons d i a r).mp h
    unfold Tab.drop
    split
    · exact ih hr
    · exact (Tab.wf_cons d i a _).mpr ⟨ha, Tab.from_drop _ _ _ hf, ih hr⟩

theorem Tab.wf_ins {α : Type} [DecidableEq α] (d : α) (k : Nat) (v : α) (t : Tab α) (hv : v ≠ d) (h : Tab.wf d t = true) :
    Tab.wf d (t.ins k v) = true := by
  induction t with
  | nil => simp [Tab.ins, Tab.wf, hv]
  | cons e r ih =>
    obtain ⟨i, a⟩ := e
    obtain ⟨ha, hf, hr⟩ := (Tab.wf_cons d i a r).mp h
    unfold Tab.ins
    split
    · refine (Tab.wf_cons d k v _).mpr ⟨hv, ?_, h⟩
      intro x hx
      rcases List.mem_cons.mp hx with rfl | hx
      · assumption
      · have := hf x hx; omega
    · split
      · rename_i hk; subst hk
        exact (Tab.wf_cons d k v _).mpr ⟨hv, hf, hr⟩
      · exact (Tab.wf_cons d i a _).mpr ⟨ha, Tab.from_ins _ _ _ _ (by omega) hf, ih hr⟩

/-- A write keeps the canonical form. -/
theorem Tab.wf_put {α : Type} [DecidableEq α] (d : α) (k : Nat) (v : α) (t : Tab α) (h : Tab.wf d t = true) :
    Tab.wf d (t.put k d v) = true := by
  unfold Tab.put
  split
  · exact Tab.wf_drop d k t h
  · rename_i hv; exact Tab.wf_ins d k v t hv h

theorem Tab.from_filter {α : Type} (n : Nat) (p : Nat × α → Bool) (t : Tab α) (h : Tab.from n t) :
    Tab.from n (t.filter p) := fun x hx => h x (List.mem_of_mem_filter hx)

theorem Tab.wf_filter {α : Type} [DecidableEq α] (d : α) (p : Nat × α → Bool) (t : Tab α) (h : Tab.wf d t = true) :
    Tab.wf d (t.filter p) = true := by
  induction t with
  | nil => rfl
  | cons e r ih =>
    obtain ⟨i, a⟩ := e
    obtain ⟨ha, hf, hr⟩ := (Tab.wf_cons d i a r).mp h
    by_cases hp : p (i, a) = true
    · simp only [List.filter_cons, hp, if_true]
      exact (Tab.wf_cons d i a _).mpr ⟨ha, Tab.from_filter _ _ _ hf, ih hr⟩
    · simp only [List.filter_cons, hp]
      exact ih hr

namespace Machine

theorem Memory.wf_reset : Memory.wf State.reset = true := rfl

theorem memWrite_wf (m : List Host.Cell) (a : Nat) (bs : List Byte) (h : Tab.wf (α := Byte) 0 m = true) :
    Tab.wf (α := Byte) 0 (memWrite m a bs) = true := by
  induction bs generalizing m a with
  | nil => exact h
  | cons b r ih => exact ih _ _ (Tab.wf_put 0 a b m h)

theorem Mem.store_wf (m : Mem) (a : Nat) (bs : List Byte) (h : Tab.wf (α := Byte) 0 m.bytes = true) :
    Tab.wf (α := Byte) 0 (m.store a bs).bytes = true := memWrite_wf m.bytes a bs h

theorem Mem.zero_wf (m : Mem) (a n : Nat) (h : Tab.wf (α := Byte) 0 m.bytes = true) :
    Tab.wf (α := Byte) 0 (m.zero a n).bytes = true := Tab.wf_filter 0 _ m.bytes h

theorem Mem.poisonAt_wf (m : Mem) (a n : Nat) (h : Tab.wf (α := Byte) 0 m.bytes = true) :
    Tab.wf (α := Byte) 0 (m.poisonAt a n).bytes = true := h

theorem Mem.clearWhole_wf (m : Mem) (a n : Nat) (h : Tab.wf (α := Byte) 0 m.bytes = true) :
    Tab.wf (α := Byte) 0 (m.clearWhole a n).bytes = true := h

/-- A byte outside the written ones reads as before. -/
theorem memWrite_frame (m : List Host.Cell) (a : Nat) (bs : List Byte) (x : Nat) (h : x < a ∨ a + bs.length ≤ x) :
    Tab.look (α := Byte) (memWrite m a bs) x 0 = Tab.look (α := Byte) m x 0 := by
  induction bs generalizing m a with
  | nil => rfl
  | cons b r ih =>
    simp only [List.length_cons] at h
    rw [memWrite, ih _ _ (by omega)]
    exact Tab.look_put_ne m a x 0 0 b (by omega)

/-- A written byte is read back. -/
theorem memWrite_read (m : List Host.Cell) (a : Nat) (bs : List Byte) (i : Nat) (h : i < bs.length) :
    Tab.look (α := Byte) (memWrite m a bs) (a + i) 0 = bs[i] := by
  induction bs generalizing m a i with
  | nil => simp at h
  | cons b r ih =>
    cases i with
    | zero =>
      rw [memWrite, memWrite_frame _ _ _ _ (by omega)]
      simp
    | succ j =>
      have hj : j < r.length := by simpa using h
      have e : a + (j + 1) = a + 1 + j := by omega
      rw [memWrite, e, ih _ _ _ hj]
      simp

end Machine

end Sys2Proof
end

