-- ==== Sys2Proof/Laws/Units.lean ====
section
/-! SUPPORT. Laws of the numbered units: an update is read back at its number and leaves every other number alone. -/

namespace Sys2Proof.Machine

open Sys2Proof

@[simp] theorem State.port_onPort_self (n : Nat) (f : Port → Port) (s : State) :
    (s.onPort n f).port n = f (s.port n) := by simp [State.port, State.onPort]

theorem State.port_onPort_ne (n m : Nat) (f : Port → Port) (s : State) (h : m ≠ n) :
    (s.onPort n f).port m = s.port m := by
  simp [State.port, State.onPort, Tab.look_upd_ne _ _ _ _ _ _ h]

@[simp] theorem State.gang_onGang_self (n : Nat) (f : Gang → Gang) (s : State) :
    (s.onGang n f).gang n = f (s.gang n) := by simp [State.gang, State.onGang]

theorem State.gang_onGang_ne (n m : Nat) (f : Gang → Gang) (s : State) (h : m ≠ n) :
    (s.onGang n f).gang m = s.gang m := by
  simp [State.gang, State.onGang, Tab.look_upd_ne _ _ _ _ _ _ h]

@[simp] theorem State.blk_onBlk_self (n : Nat) (f : Block → Block) (s : State) :
    (s.onBlk n f).blk n = f (s.blk n) := by simp [State.blk, State.onBlk]

theorem State.blk_onBlk_ne (n m : Nat) (f : Block → Block) (s : State) (h : m ≠ n) :
    (s.onBlk n f).blk m = s.blk m := by
  simp [State.blk, State.onBlk, Tab.look_upd_ne _ _ _ _ _ _ h]

@[simp] theorem State.coreAt_onCoreAt_self (n : Nat) (f : Core → Core) (s : State) :
    (s.onCoreAt n f).coreAt n = f (s.coreAt n) := by simp [State.coreAt, State.onCoreAt]

theorem State.coreAt_onCoreAt_ne (n m : Nat) (f : Core → Core) (s : State) (h : m ≠ n) :
    (s.onCoreAt n f).coreAt m = s.coreAt m := by
  simp [State.coreAt, State.onCoreAt, Tab.look_upd_ne _ _ _ _ _ _ h]

@[simp] theorem State.launch_onLaunch_self (n : Nat) (f : Launch → Launch) (s : State) :
    (s.onLaunch n f).launch n = f (s.launch n) := by simp [State.launch, State.onLaunch]

theorem State.launch_onLaunch_ne (n m : Nat) (f : Launch → Launch) (s : State) (h : m ≠ n) :
    (s.onLaunch n f).launch m = s.launch m := by
  simp [State.launch, State.onLaunch, Tab.look_upd_ne _ _ _ _ _ _ h]

@[simp] theorem State.ctx_onCtx_self (n : Nat) (f : Ctx → Ctx) (s : State) :
    (s.onCtx n f).ctx n = f (s.ctx n) := by simp [State.ctx, State.onCtx]

theorem State.ctx_onCtx_ne (n m : Nat) (f : Ctx → Ctx) (s : State) (h : m ≠ n) :
    (s.onCtx n f).ctx m = s.ctx m := by
  simp [State.ctx, State.onCtx, Tab.look_upd_ne _ _ _ _ _ _ h]

@[simp] theorem State.slice_onSlice_self (n : Nat) (f : Slice → Slice) (s : State) :
    (s.onSlice n f).slice n = f (s.slice n) := by simp [State.slice, State.onSlice]

theorem State.slice_onSlice_ne (n m : Nat) (f : Slice → Slice) (s : State) (h : m ≠ n) :
    (s.onSlice n f).slice m = s.slice m := by
  simp [State.slice, State.onSlice, Tab.look_upd_ne _ _ _ _ _ _ h]

@[simp] theorem State.dirAt_onDir_self (n : Nat) (f : DirLine → DirLine) (s : State) :
    (s.onDir n f).dirAt n = f (s.dirAt n) := by simp [State.dirAt, State.onDir]

theorem State.dirAt_onDir_ne (n m : Nat) (f : DirLine → DirLine) (s : State) (h : m ≠ n) :
    (s.onDir n f).dirAt m = s.dirAt m := by
  simp [State.dirAt, State.onDir, Tab.look_upd_ne _ _ _ _ _ _ h]

@[simp] theorem State.tally_onTally_self (n : Nat) (f : Tally → Tally) (s : State) :
    (s.onTally n f).tally n = f (s.tally n) := by simp [State.tally, State.onTally]

theorem State.tally_onTally_ne (n m : Nat) (f : Tally → Tally) (s : State) (h : m ≠ n) :
    (s.onTally n f).tally m = s.tally m := by
  simp [State.tally, State.onTally, Tab.look_upd_ne _ _ _ _ _ _ h]

@[simp] theorem State.sem_onSem_self (n : Nat) (f : Sem → Sem) (s : State) :
    (s.onSem n f).sem n = f (s.sem n) := by simp [State.sem, State.onSem]

theorem State.sem_onSem_ne (n m : Nat) (f : Sem → Sem) (s : State) (h : m ≠ n) :
    (s.onSem n f).sem m = s.sem m := by
  simp [State.sem, State.onSem, Tab.look_upd_ne _ _ _ _ _ _ h]

@[simp] theorem State.objAt_onObjAt_self (n : Nat) (f : Obj → Obj) (s : State) :
    (s.onObjAt n f).objAt n = f (s.objAt n) := by simp [State.objAt, State.onObjAt]

theorem State.objAt_onObjAt_ne (n m : Nat) (f : Obj → Obj) (s : State) (h : m ≠ n) :
    (s.onObjAt n f).objAt m = s.objAt m := by
  simp [State.objAt, State.onObjAt, Tab.look_upd_ne _ _ _ _ _ _ h]

@[simp] theorem State.die_onDie_self (d : Nat) (f : Die → Die) (s : State) :
    (s.onDie d f).pwr.die.look d {} = f (s.pwr.die.look d {}) := by simp [State.onDie]

theorem State.die_onDie_ne (d m : Nat) (f : Die → Die) (s : State) (h : m ≠ d) :
    (s.onDie d f).pwr.die.look m {} = s.pwr.die.look m {} := by simp [State.onDie, Tab.look_upd_ne _ _ _ _ _ _ h]

@[simp] theorem State.queue_onQueue_self (q : QueueId) (f : Queue → Queue) (s : State) :
    (s.onQueue q f).queue q = f (s.queue q) := by simp [State.queue, State.onQueue]

theorem State.queue_onQueue_ne (q r : QueueId) (f : Queue → Queue) (s : State) (h : r.code ≠ q.code) :
    (s.onQueue q f).queue r = s.queue r := by simp [State.queue, State.onQueue, Tab.look_upd_ne _ _ _ _ _ _ h]

@[simp] theorem State.onQueue_inflight (q : QueueId) (f : Queue → Queue) (s : State) :
    (s.onQueue q f).q.inflight = s.q.inflight := rfl

end Sys2Proof.Machine
end

