-- ==== Sys2Proof/Laws/Kernel.lean ====
section
/-! SUPPORT. What an instruction that issues can do: its effect in the issued state, or the first fault of its checks. -/

namespace Sys2Proof.Machine

@[simp] theorem State.issued_gang (s : State) (g : Nat) : (s.issued g).gang g = { s.gang g with issued := true } := by
  have h : ∀ (k : Nat) (f : Block → Block) (t : State), (t.onBlk k f).gang g = t.gang g := fun _ _ _ => rfl
  simp [State.issued, h]

theorem State.issued_gang_ne (s : State) (g k : Nat) (hk : k ≠ g) : (s.issued g).gang k = s.gang k := by
  have h : ∀ (n : Nat) (f : Block → Block) (t : State), (t.onBlk n f).gang k = t.gang k := fun _ _ _ => rfl
  simp [State.issued, h, State.gang_onGang_ne _ _ _ _ hk]

@[simp] theorem State.issued_work (s : State) (g : Nat) : (s.issued g).work = s.work := rfl
@[simp] theorem State.issued_mem (s : State) (g : Nat) : (s.issued g).mem = s.mem := rfl
@[simp] theorem State.issued_red (s : State) (g : Nat) : (s.issued g).red = s.red := rfl
@[simp] theorem State.issued_sync (s : State) (g : Nat) : (s.issued g).sync = s.sync := rfl
@[simp] theorem State.issued_obj (s : State) (g : Nat) : (s.issued g).obj = s.obj := rfl
@[simp] theorem State.issued_cim (s : State) (g : Nat) : (s.issued g).cim = s.cim := rfl
@[simp] theorem State.issued_pwr (s : State) (g : Nat) : (s.issued g).pwr = s.pwr := rfl
@[simp] theorem State.issued_part (s : State) (g : Nat) : (s.issued g).part = s.part := rfl
@[simp] theorem State.issued_q (s : State) (g : Nat) : (s.issued g).q = s.q := rfl
@[simp] theorem State.issued_boot (s : State) (g : Nat) : (s.issued g).boot = s.boot := rfl
@[simp] theorem State.issued_tw (s : State) (g : Nat) : (s.issued g).tw = s.tw := rfl

theorem State.issued_blk (s : State) (g k : Nat) :
    (s.issued g).blk k = if k = (s.gang g).block then { s.blk k with started := true } else s.blk k := by
  have h : ∀ (n : Nat) (f : Gang → Gang) (t : State), (t.onGang n f).blk k = t.blk k := fun _ _ _ => rfl
  by_cases e : k = (s.gang g).block
  · subst e; simp [State.issued, h]
  · simp [State.issued, h, e, State.blk_onBlk_ne _ _ _ _ e]

@[simp] theorem State.issued_core (s : State) (g c : Nat) : (s.issued g).coreAt c = s.coreAt c := rfl

@[simp] theorem State.issued_launchOf (s : State) (g k : Nat) : (s.issued g).launchOf k = s.launchOf k := by
  have e : ((s.issued g).gang k).block = (s.gang k).block := by
    by_cases h : k = g
    · subst h; simp
    · rw [State.issued_gang_ne _ _ _ h]
  have l : ((s.issued g).blk (s.gang k).block).launch = (s.blk (s.gang k).block).launch := by
    rw [State.issued_blk]; split <;> rfl
  unfold State.launchOf State.launch
  rw [e, l, State.issued_work]

@[simp] theorem State.issued_localAt (s : State) (g b off : Nat) : (s.issued g).localAt b off = s.localAt b off := by
  have l : ((s.issued g).blk b).core = (s.blk b).core := by rw [State.issued_blk]; split <;> rfl
  unfold State.localAt
  rw [l, State.issued_core]

@[simp] theorem State.issued_localRead (s : State) (g b off n : Nat) : (s.issued g).localRead b off n = s.localRead b off n := by
  simp [State.localRead]

/-- An instruction that may issue. -/
theorem State.issue_run (s : State) (g : Nat) (f : State → State) (h : s.canIssue g = true) : s.issue g f = f (s.issued g) := by
  have e : ((s.onGang g fun x => { x with issued := true }).gang g).block = (s.gang g).block := by simp
  simp only [State.issue, h, if_true, e]
  rfl

/-- An instruction that may not issue has no effect. -/
theorem State.issue_not (s : State) (g : Nat) (f : State → State) (h : s.canIssue g = false) : s.issue g f = s := by
  simp [State.issue, h]

/-- An instruction whose checks pass has its effect. -/
theorem State.instr_run (s : State) (g : Nat) (c : State → List Check) (f : State → State) (h : s.canIssue g = true)
    (hc : firstFault (c (s.issued g)) = none) : s.instr g c f = f (s.issued g) := by
  rw [State.instr, State.issue_run _ _ _ h]
  simp [hc]

/-- An instruction whose checks fail meets the first fault. -/
theorem State.instr_fault (s : State) (g : Nat) (c : State → List Check) (f : State → State) (code a : Nat)
    (h : s.canIssue g = true) (hc : firstFault (c (s.issued g)) = some (code, a)) :
    s.instr g c f = ((s.issued g).noteRefusal (s.launchOf g).ctx code a (some (gCore g))
      ((s.issued g).gangTag g)).gangFault g code (BitVec.ofNat 64 a) := by
  rw [State.instr, State.issue_run _ _ _ h]
  simp [hc]

@[simp] theorem firstFault_nil : firstFault [] = none := rfl
@[simp] theorem firstFault_cons (e : Nat × Nat) (b : Bool) (l : List Check) :
    firstFault ((b, e) :: l) = if b then firstFault l else some e := rfl

/-- No allocation lies at the null VA. -/
theorem State.chdAt_null (s : State) (p : Nat) : s.chdAt p 0 = none := by
  unfold State.chdAt
  exact if_pos (Or.inl (Nat.lt_of_lt_of_le Nat.one_pos (by unfold chdBase; norm_num)))

end Sys2Proof.Machine
end

