-- ==== Sys2Proof/Laws/PageTable.lean ====
section
/-! SUPPORT. The page-table walk reads the mapping list: on mappings of whole aligned pages of which at most one covers the VA,
the walk from the root finds what the machine's own look-up finds. -/

namespace Sys2Proof.Machine

open Sys2Proof

/-- A mapping of whole pages of 64 KiB, 2 MiB or 1 GiB (R289). -/
def Mapping.Paged (m : Mapping) : Prop :=
  (m.page = 2 ^ 16 ∨ m.page = 2 ^ 21 ∨ m.page = 2 ^ 30) ∧ m.va % m.page = 0 ∧ m.len % m.page = 0

/-- A mapping of pages of a level's size covers a VA exactly when it touches the index range in which the VA lies. -/
theorem Mapping.Paged.touches {m : Mapping} (h : m.Paged) {n : Nat} (hn : m.page = n) (va : Nat) :
    (m.va < (va / n + 1) * n ∧ va / n * n < m.va + m.len) ↔ m.covers va = true := by
  obtain ⟨hp, ha, hl⟩ := h
  subst hn
  have h0 : 0 < m.page := by rcases hp with h | h | h <;> rw [h] <;> decide
  obtain ⟨a, ha⟩ := Nat.dvd_of_mod_eq_zero ha
  obtain ⟨b, hb⟩ := Nat.dvd_of_mod_eq_zero hl
  have e := Nat.div_add_mod va m.page
  have r := Nat.mod_lt va h0
  simp only [Mapping.covers, Bool.and_eq_true, decide_eq_true_eq]
  rw [ha, hb]
  generalize hq : va / m.page = q at *
  generalize m.page = p at *
  have x : a < q + 1 ↔ p * a < (q + 1) * p := by rw [Nat.mul_comm p a]; exact (Nat.mul_lt_mul_right h0).symm
  have y : q < a + b ↔ q * p < p * a + p * b := by
    rw [← Nat.mul_add, Nat.mul_comm p]; exact (Nat.mul_lt_mul_right h0).symm
  rw [← x, ← y]
  constructor
  · rintro ⟨u, v⟩
    have u' : p * a ≤ p * q := Nat.mul_le_mul_left p (Nat.le_of_lt_succ u)
    have v' : p * (q + 1) ≤ p * (a + b) := Nat.mul_le_mul_left p v
    rw [Nat.mul_add, Nat.mul_add, Nat.mul_one] at v'
    omega
  · rintro ⟨u, v⟩
    constructor
    · apply Nat.lt_of_not_le; intro w
      have := Nat.mul_le_mul_left p w
      rw [Nat.mul_add, Nat.mul_one] at this; omega
    · apply Nat.lt_of_not_le; intro w
      have := Nat.mul_le_mul_left p w
      rw [Nat.mul_add] at this; omega

/-- The leaf that an entry holds is the mapping of that page size which covers the VA. -/
theorem State.pte_leaf {s : State} {c : Nat} (h : ∀ m ∈ s.mapsOf c, m.Paged) (lvl va : Nat) :
    ((s.mapsOf c).filter fun m => decide (m.va < (va / 2 ^ levelShift lvl + 1) * 2 ^ levelShift lvl)
        && decide (va / 2 ^ levelShift lvl * 2 ^ levelShift lvl < m.va + m.len)).find? (fun m => m.page == 2 ^ levelShift lvl) =
      (s.mapsOf c).find? fun m => m.covers va && m.page == 2 ^ levelShift lvl := by
  rw [List.find?_filter]
  generalize s.mapsOf c = l at h
  induction l with
  | nil => rfl
  | cons m l ih =>
    have hm := h m (by simp)
    have : ((decide (m.va < (va / 2 ^ levelShift lvl + 1) * 2 ^ levelShift lvl)
        && decide (va / 2 ^ levelShift lvl * 2 ^ levelShift lvl < m.va + m.len)) && m.page == 2 ^ levelShift lvl) =
        (m.covers va && m.page == 2 ^ levelShift lvl) := by
      by_cases k : m.page = 2 ^ levelShift lvl
      · have := hm.touches k va
        rw [k, beq_self_eq_true, Bool.and_true, Bool.and_true]
        rw [Bool.eq_iff_iff, Bool.and_eq_true, decide_eq_true_eq, decide_eq_true_eq]
        exact this
      · rw [beq_eq_false_iff_ne.mpr k, Bool.and_false, Bool.and_false]
    simp only [List.find?_cons, Bool.decide_and, Bool.decide_eq_true] at ih ⊢
    rw [this, ih fun x hx => h x (by simp [hx])]

/-- Index ranges hold a mapping that covers the VA they hold. -/
theorem State.pte_table {s : State} {c : Nat} (h : ∀ m ∈ s.mapsOf c, m.Paged) {lvl va : Nat} {m : Mapping} (hm : m ∈ s.mapsOf c)
    (hc : m.covers va = true) (hn : (s.mapsOf c).find? (fun m => m.covers va && m.page == 2 ^ levelShift lvl) = none) :
    s.pte c lvl (va / 2 ^ levelShift lvl) = .table (s.tableAddr c (lvl - 1) (va / 2 ^ levelShift lvl)) := by
  have n0 : 0 < 2 ^ levelShift lvl := Nat.two_pow_pos _
  have e := Nat.div_add_mod va (2 ^ levelShift lvl)
  have r := Nat.mod_lt va n0
  simp only [Mapping.covers, Bool.and_eq_true, decide_eq_true_eq] at hc
  simp only [State.pte, State.pte_leaf h, hn]
  rw [if_neg]
  simp only [List.isEmpty_iff, List.filter_eq_nil_iff, not_forall]
  refine ⟨m, hm, ?_⟩
  generalize 2 ^ levelShift lvl = n at *
  rw [Nat.mul_comm] at e
  simp only [Bool.and_eq_true, decide_eq_true_eq, Nat.add_mul, Nat.one_mul, not_not]
  omega

/-- The walk from the root finds the mapping that the machine's look-up finds, and the VA's place in it, where the mappings are
of whole aligned pages and at most one of them covers the VA. -/
theorem State.walk_eq_mapAt {s : State} {c va : Nat} (h : ∀ m ∈ s.mapsOf c, m.Paged)
    (one : ∀ m ∈ s.mapsOf c, ∀ k ∈ s.mapsOf c, m.covers va = true → k.covers va = true → m = k) :
    s.walk c va = (s.mapAt c va).map fun m => (m, va - m.va) := by
  cases hm : s.mapAt c va with
  | none =>
    have no : ∀ lvl, (s.mapsOf c).find? (fun m => m.covers va && m.page == 2 ^ levelShift lvl) = none := by
      intro lvl
      rw [List.find?_eq_none]
      intro m hm'
      have := List.find?_eq_none.mp hm m hm'
      simp [Bool.not_eq_true _ ▸ this]
    have all : ∀ n, s.walkFrom c va n = none := by
      intro n
      induction n with
      | zero => rfl
      | succ n ih =>
        simp only [State.walkFrom, State.pte, State.pte_leaf h, no]
        generalize List.isEmpty _ = b
        cases b <;> simp [ih]
    exact all 4
  | some m =>
    have mem := List.mem_of_find?_eq_some hm
    have hc : m.covers va = true := by simpa using List.find?_some hm
    have down : ∀ lvl, m.page ≠ 2 ^ levelShift (lvl + 1) → s.walkFrom c va (lvl + 1) = s.walkFrom c va lvl := by
      intro lvl ne
      have no : (s.mapsOf c).find? (fun m => m.covers va && m.page == 2 ^ levelShift (lvl + 1)) = none := by
        rw [List.find?_eq_none]
        intro k hk e
        simp only [Bool.and_eq_true, beq_iff_eq] at e
        exact ne (one m mem k hk hc e.1 ▸ e.2)
      simp only [State.walkFrom, State.pte_table h mem hc no]
    have leaf : ∀ lvl, m.page = 2 ^ levelShift (lvl + 1) → s.walkFrom c va (lvl + 1) = some (m, va - m.va) := by
      intro lvl eq
      have found : (s.mapsOf c).find? (fun m => m.covers va && m.page == 2 ^ levelShift (lvl + 1)) = some m := by
        cases hf : (s.mapsOf c).find? (fun m => m.covers va && m.page == 2 ^ levelShift (lvl + 1)) with
        | none =>
          have := List.find?_eq_none.mp hf m mem
          simp [hc, eq] at this
        | some k =>
          have e := List.find?_some hf
          simp only [Bool.and_eq_true, beq_iff_eq] at e
          rw [one m mem k (List.mem_of_find?_eq_some hf) hc e.1]
      have e := Nat.div_add_mod va (2 ^ levelShift (lvl + 1))
      have l := ((h m mem).touches eq va).mpr hc
      have a := (h m mem).2.1
      have n0 : 0 < 2 ^ levelShift (lvl + 1) := Nat.two_pow_pos _
      simp only [State.walkFrom, State.pte, State.pte_leaf h, found]
      rw [eq] at a
      generalize 2 ^ levelShift (lvl + 1) = n at *
      obtain ⟨b, hb⟩ := Nat.dvd_of_mod_eq_zero a
      have : m.va ≤ va / n * n := by
        rw [hb, Nat.mul_comm (va / n)]
        apply Nat.mul_le_mul_left
        have := l.1
        rw [hb, Nat.mul_comm] at this
        exact Nat.le_of_lt_succ (Nat.lt_of_mul_lt_mul_right this)
      rw [Nat.mul_comm n] at e
      simp only [Option.some.injEq, Prod.mk.injEq, true_and]
      omega
    simp only [State.walk, Option.map_some]
    rcases (h m mem).1 with p | p | p
    · rw [down 3 (by rw [p]; decide), down 2 (by rw [p]; decide), down 1 (by rw [p]; decide), leaf 0 p]
    · rw [down 3 (by rw [p]; decide), down 2 (by rw [p]; decide), leaf 1 p]
    · rw [down 3 (by rw [p]; decide), leaf 2 p]

end Sys2Proof.Machine
end

