-- ==== Sys2Proof/Tests/Slice0.lean ====
section
/-! SUPPORT. The model's own tests: ill-formed terms that the well-formedness check refuses, small tests whose expected values
are the spec's, and for every clause of a statement with hypotheses a state and operands that meet them all. -/

open Sys2Proof Sys2Proof.Machine

set_option linter.unusedVariables false
set_option maxRecDepth 100000

namespace Sys2Proof.Tests

/-- The device at reset. -/
abbrev Z : State := State.reset

/-- A device in boot stage `n`. -/
def st (n : Nat) : State :=
  { Z with ao := { porReleased := true, hubOut := true, perstReleased := true, role := some 2 }, boot := { stage := n } }

/-- A standalone device that is READY and AWAKE, its host link trained, all slices available. -/
def up : State :=
  { st 15 with
    boot := { stage := 15, ready := true, hubPll := true, cfgAnswers := true, linkTrained := true, avail := 0xFFFFFFFF }
    pwr := { dev := .awake }, host := { width := 16, rate := 6 } }

/-- The same with partition 0 on slice 0, which runs. -/
def upP : State :=
  { up with
    part := { map := [(0, mkPair 0x80000000)], slices := [(0, mkPair 1)] }
    pwr := { dev := .awake, slice := [(0, { st := .run })], die := [(0, { pllOn := true, code := 36 })] } }

/-- A packet of `n` slots' bytes from its first bytes. -/
def mkP (pid : Nat) (l : List Byte) : Packet := { bytes := l ++ List.replicate (64 - l.length) 0, arrival := 0, pid := pid, granted := true }

/-- The header of a packet with opcode `op` on partition 0, then its bytes 16 on. -/
def pk (op : Byte) (l : List Byte) : Packet := mkP 7 ([op, ~~~op, 0, 1, 0, 0xFF, 0, 0, 0, 0, 0, 0, 0, 0, 0, 0] ++ l)

/-- `upP` with packet `p` at the head of admin queue 0, granted where it is arbitrated. -/
def qs (p : Packet) : State :=
  { upP with q := { tab := [(0, { enabled := true, sqLog := 4, cqLog := 4, buffer := [p] })], nextPid := 8 } }

/-- A context of partition 0, live, with 2 MiB of device memory mapped at VA 0x200000, and its entry. -/
def withCtx (s : State) : State :=
  s.onObj fun o => { o with
    tab := [(objKey 0 1, { kind := .context, live := true, gen := 1, count := 1, ncount := 0xFFFFFFFE, creation := true
                           body := .context 1 })]
    ctx := [(objKey 0 1, { st := .live, maps := [{ va := 0x200000, len := 0x200000, page := 0, target := .dev 0x10000000, obj := none
                                                   attr := 0, prot := false, lighter := false, rd := true, wr := true, ex := true }] })] }

/-- One gang of a launch that may issue: gang 0 of block 1 on core 0. -/
def kst : State :=
  let s := withCtx upP
  { s with
    core := { block := [(1, { live := true, launch := 1, gangs := [0], started := true })], nextBlock := 2
              gang := [(0, { live := true, block := 1, active := 0xFFFFFFFF })] }
    work := { launch := [(1, { live := true, pid := 3, ctx := objKey 0 1, regs := 8, locSize := 65536, slices := 1, acc := 4
                               amaxMask := 0xFFFF, nextCluster := 1, number := 1 })], nextLaunch := 1 } }

/-- An image that the ROM accepts. -/
def goodImg : ImageInfo :=
  { readable := true, magic := 0x50435349, hdrVer := 1, bodyLen := 4096, svn := 0, version := 9, reservedZero := true, keyOk := true
    sigOk := true, digestOk := true, digest := 5 }

/-- Stage-5 means at the low end of every window. -/
def rails : List (BitVec 16) :=
  (List.range 15).map fun i => BitVec.ofNat 16 (match Z.window (s5Channel i).1 with | some (lo, _) => lo | none => 0)

/-- A manager that is READY and AWAKE, with its fleet ID, and port `n` as given. -/
def mgr : State := { upP with ao := { porReleased := true, hubOut := true, perstReleased := true, role := some 1 }
                              fleet := { own := .joined, devNum := some 0, id := 9 } }

/-- A joined worker with device number 1. -/
def wkr : State := { upP with ao := { porReleased := true, hubOut := true, perstReleased := true, role := some 0 }
                              fleet := { own := .joined, devNum := some 1, id := 9, epoch := 4, mgrBeat := 0 } }

/-- A manager with port 0 as given. -/
def pt (p : Port) : State := { mgr with hws := [(0, p)] }

/-- A message from worker 1 to the manager. -/
def msg (cls sub src dst : Nat) (body : List Byte) : FleetMsg :=
  { cls := cls, sub := sub, src := src, dst := dst, hops := 0, epoch := 5, msgId := 77, body := body }

/-- `s` with message `m` arrived at port 0. -/
def got (s : State) (m : FleetMsg) : State := { s with fleet := { s.fleet with inbox := [(0, 1, m)] } }

/-- `s` once the message has left. -/
def left (s : State) (m : FleetMsg) : State := s.giveCredit 0 1 m

/-- A HAIL of another device. -/
def hail : HailRec :=
  { magic := 0x48, version := 1, role := 0, port := 0, serial := Config.serial + 1, fleetId := 0, session := 1, caps := 7, proto := 1
    reservedZero := true }
/-- A flit that carries half a message. -/
def flit : HwsFlit :=
  { fecCorrected := false, fecBad := false, crcOk := true, seq := 0, ack := 0xFFF, nak := false, crPool := 0, crCount := 0
    body := some { pool := 1, idx := 0, cnt := 2, msg := msg 8 0 1 0 [] } }
/-- A payload. -/
def load : HwsPayload := { pool := 1, idx := 0, cnt := 2, msg := msg 8 0 1 0 [] }
/-- A grant without STRICT partitions. -/
def grant : CreditGrant := { strict := 0, ctrl := 64, sync := 256, req := 1024, rsp := 704 }

/-- `up` with Tidewatch sampling as given. -/
def tw (t : Tw) : State := { up with tw := t }

/-- Every sensor of every die reads 40 °C. -/
def cool : Tw := { tripped := true, safeValid := 0xFFFFFFFF, safeTemp := (List.range 32).map fun n => (n, (2560 : BitVec 16)) }

/-- `upP` with the state of slice `n`. -/
def sl (n : Nat) (x : Slice) : State := { upP with pwr := { dev := .awake, slice := [(n, x)] } }

/-- `up` with the state of die 0. -/
def die0 (d : Die) : State := { up with pwr := { dev := .awake, die := [(0, d)] } }

/-- The handle of that context. -/
def hc : List Byte := [1, 0, 0, 0, 1, 0, 0, 4]

/-- `qs` with that context. -/
def qc (p : Packet) : State := withCtx (qs p)

/-- `qs` with the object `o` as entry `i` of partition 0. -/
def qo (i : Nat) (o : Obj) (p : Packet) : State := { qs p with obj := { tab := [(objKey 0 i, o)] } }

/-- `upP` with admin queue 0 as given. -/
def q0 (x : Queue) : State := { upP with q := { tab := [(0, x)], nextPid := 8 } }

/-- `s` with packet `i` dispatched. -/
def disp (s : State) (i : Inflight) : State := { s with q := { s.q with inflight := [i] } }

/-- `upP` with launch 1 as given. -/
def lc (l : Launch) : State := { withCtx upP with work := { launch := [(1, l)], nextLaunch := 1 } }

/-- A launch of one block that is not placed yet. -/
def l0 : Launch := { live := true, pid := 3, ctx := objKey 0 1, regs := 8, locSize := 1024, acc := 1, number := 1 }

/-- The handle of event 5 of the run in entry 2. -/
def he : List Byte := [5, 0, 4, 0, 1, 0, 0, 0x0C]

/-- The handle of the memory object in entry 32768. -/
def hm : List Byte := [0, 0x80, 0, 0, 1, 0, 0, 0x08]

/-- An open run of counters 5 and 6. -/
def run : Obj :=
  { kind := .run, live := true, gen := 1, count := 2, ncount := 0xFFFFFFFD, creation := true, body := .run 5 2 true (objKey 0 1) [] none }

/-- `qc` with that run, a bound word and an importer. -/
def qe (p : Packet) : State :=
  (qc p).onObj fun o => { o with
    tab := [(objKey 0 1, { kind := .context, live := true, gen := 1, count := 1, ncount := 0xFFFFFFFE, creation := true, body := .context 1 }),
            (objKey 0 2, run)]
    exports := [(0, [(0x40005, 1)])] }

/-- A memory object of 64 KiB. -/
def mo : Obj :=
  { kind := .memory, live := true, gen := 1, count := 1, ncount := 0xFFFFFFFE, creation := true, body := .memory 0 0x10000000 0x10000 0 false 0 }

/-- Reading back the bytes of a number. -/
theorem ofLe_toLe : ∀ (n w : Nat), ofLe (toLe n w) = w % 256 ^ n
  | 0, w => by simp [toLe, ofLe, Nat.mod_one]
  | n + 1, w => by
    simp only [toLe, ofLe, ofLe_toLe n, BitVec.toNat_ofNat]
    rw [show 256 ^ (n + 1) = 256 * 256 ^ n by rw [Nat.pow_succ, Nat.mul_comm], Nat.mod_mul]

/-- `mgr` with the run, that imports its own token. -/
def qt : State :=
  let q : Queue := { enabled := true, sqLog := 4, cqLog := 4, buffer := [pk 0x16 (hc ++ mgr.token 0 1 0x40005)] }
  let s := qe (pk 0x16 [])
  { s with q := { tab := [(0, q)], nextPid := 8 }, ao := mgr.ao, fleet := mgr.fleet }

/-! The expected values of the tests below: each expected value is the spec's own (a worked example, a table or a rule), or a hand calculation from it. -/

/-- The smoke test of the well-formedness check: each of its ranges refuses the first value past its end. -/
theorem smoke_queues :
    (Instr.nop (.admin 32)).wf = false ∧ (Instr.nop (.part 32 0)).wf = false ∧ (Instr.nop (.part 0 4080)).wf = false ∧
    (Instr.nop (.fwd 32)).wf = false ∧ (Instr.nop (.part 31 4079)).wf = true ∧ (Instr.admqDisable 32 0).wf = false := by decide

theorem smoke_registers :
    (Instr.registerWrite (.vf 32) 0 (toLe 4 0)).wf = false ∧ (Instr.registerWrite (.msixCtl 33) 0 (toLe 2 0)).wf = false ∧
    (Instr.registerWrite .pf 0 (toLe 4 0)).wf = true ∧ (Instr.vfsMaskWrite 32 0).wf = false := by decide

theorem smoke_kernels :
    (Instr.trap 49152).wf = false ∧ (Instr.stC 0 256 0 0).wf = false ∧ (Instr.flgRd 0 64).wf = false ∧
    (Instr.barBlk 0 9 0).wf = false ∧ (Instr.barBlk 49151 8 63).wf = true ∧ (Instr.combiningDrain ⟨768, 0⟩).wf = false := by decide

theorem smoke_units :
    (Instr.hwsReplayTimeout 8).wf = false ∧ (Instr.twTimerExpiry 8).wf = false ∧ (Instr.channelStale 48).wf = false ∧
    (Instr.sliceNapDwellExpiry 32).wf = false ∧ (Instr.hardCut 8).wf = false ∧ (Instr.twRuleWrite 64 0 0).wf = false ∧
    (Instr.twStepWrite 0 32 0).wf = false ∧ (Instr.homeNackRetry 0 10).wf = false ∧ (Instr.workerLost 64).wf = false ∧
    (Instr.cimOpStart 8).wf = false ∧ (Instr.partScrubComplete 32).wf = false := by decide

theorem smoke_messages :
    (Instr.getVersion 35 0).wf = false ∧ (Instr.getTid 2 0).wf = false ∧ (Instr.getTid 0 256).wf = false ∧
    (MctpPacket.wf { binding := 0, source := 8, som := true, eom := true, seq := 0, payload := List.replicate 65 0, pecOk := true }) = false :=
  by decide

/-- Chapter 2, worked example: PILOT_BOOT_STAT of a worker that booted from slot B with a warning. -/
theorem test_boot_stat :
    State.pilotRead { st 15 with
      ao := { porReleased := true, role := some 0 }, boot := { stage := 15, ready := true, source := 1, warn := true, noteCode := 0x701 } } 0
      = 0x520F0701 := by decide

/-- R473: the blocks that respond before READY and from it on. -/
theorem test_blocks : (st 9).glbRead 4 = 0x7 ∧ up.glbRead 4 = 0x13FFF := by decide

/-- Chapter 3, worked example: HWS_PORT_STAT[2] and HWS_CREDIT[2]. -/
theorem test_port_stat :
    Port.stat { st := .active, width := 4, groups := 1, attempts := 1, peerPort := 3, laneFail := 0x20 } = 0x74001620 := by decide

theorem test_port_credit : Port.creditReg { peerGrant := some grant } = 0x10408058 := by decide

/-- Chapter 4, worked example: the first valid record of channel 40, and rule 0, which adds to counter 0x9000. -/
theorem test_sample_record :
    sampleRec 0x0A3D7C0 0x101F false false false false 0 true 1 40 0 = 0x0A3D7C0101F02680 := by decide

theorem test_rule_pair : pairOk 0x5FAFEFFFA0501000 = true ∧ pairOk 0x5FAFEFFFA0501001 = false := by decide

theorem test_rule_fires :
    (((tw { rule := [(0, { src := 0x5FAFEFFFA0501000, act := mkPair 0x44400000, aux := mkPair 0x9000 })] }).fire 0).tally 0x9000).value
      = 1 := by decide

/-- Chapter 5, worked example: 0.580 V and 0.665 V at 0.90 GHz and 1.20 GHz, before the die's offset; and PWR_DIE_CLK[0]
of a die that runs at code 0x24 uncapped, with no request above it. -/
theorem test_voltage : vOfCode 36 = 580 ∧ vOfCode 48 = 665 := by decide

/-- Chapter 6, worked example: the header of the first packet, the INTEGRITY reply, and PHASE of entry 320 of 64. -/
theorem test_header :
    let p := mkP 0 [0x10, 0xEF, 0, 1, 3, 0xFC, 5, 0, 0x21, 1, 0, 0, 0x21, 1, 0xA0, 0xD1]
    p.op = 0x10 ∧ p.part = 3 ∧ p.seq = 0x121 ∧ p.tag = 0xD1A00121 := by decide

theorem test_reply :
    replyBytes 0x121 0x0102 36000000000140 0 0x01000001 5 5 0 =
      [0x21, 0x01, 0x00, 0x00, 0x02, 0x01, 0xFD, 0xFE, 0x8C, 0x40, 0x36, 0xE7, 0xBD, 0x20, 0x00, 0x00, 0x00, 0x00, 0x00, 0x00, 0x00,
       0x00, 0x00, 0x00, 0x01, 0x00, 0x00, 0x01, 0x05, 0x00, 0x05, 0x00] ∧ phaseOf 320 64 = 0 ∧
    QueueId.source (.part 3 5) = 5 ∧ QueueId.number (.part 3 5) = 5 := by decide

theorem test_bad_complement :
    Packet.reservedBad (mkP 0 [0x10, 0xEF, 0, 1, 3, 0xFC, 5, 0, 0x21, 1, 0, 0, 0x21, 1, 0xA0, 0xD1]) = none ∧
    reason 1 1 = 0x01000001 := by decide

/-- Chapter 7, worked example: what the launch's reply carries. -/
theorem test_launch_result :
    Launch.result { ran := 278784, reran := 11 } = 0x000441000000000B ∧ Launch.total { grid := (88, 88, 36) } = 278784 := by decide

/-- Chapter 8, worked example: the RUN handle, the event handle and the mirror's handle. -/
theorem test_handles :
    mkHandle 5 1 0xA1 0x312 = 0x142000A100000312 ∧ mkHandle 3 1 0xA1 (0x312 * 2 ^ 17 + 0x9001) = 0x0C2000A106249001 ∧
    mkHandle 3 3 2 (5 * 2 ^ 17 + 0x10000) = 0x0C600002000B0000 := by decide

/-- Chapter 9, worked example: slice 9 with core 3 laid up, two blocks to a core, and cluster 0 on cores 0, 1, 2 and 4. -/
def nine : State :=
  { up with part := { map := [(1, mkPair 0x80000000)], slices := [(1, mkPair 0x200)] }, core := { core := [(219, { laid := .factory })] } }

def nineLaunch : Launch := { part := 1, grid := (64, 1, 36), block := 512, cluster := 4, regs := 4, locSize := 98304, acc := 2 }

theorem test_core_mask : nine.coreMask 9 = 0xFFFFF7 := by decide

theorem test_residency : nine.places nineLaunch 216 = 2 ∧ nineLaunch.clusters = 576 := by decide

theorem test_first_cluster : nine.chooseCores nineLaunch 4 9 = some [216, 217, 218, 220] := by decide

/-- Chapter 10, Table 10-7: the elements of one block, and its scale. -/
theorem test_e4m3 :
    elemCode 5 .even 1 (fB32.decode 0x44610000) = (0x7E, 0, false) ∧ elemCode 5 .even 1 (fB32.decode 0x40400000) = (0x3C, 0, false) ∧
    elemCode 5 .even 1 (fB32.decode 0xBE99999A) = (0xA2, 0, false) ∧ elemCode 5 .even 1 (fB32.decode 0x3B449BA6) = (0x01, 0, false) ∧
    elemCode 5 .even 1 (fB32.decode 0x44960000) = (0x7F, 1, false) := by decide

theorem test_auto_scale : autoExp 5 0x447A0000 = 1 := by decide

theorem test_convert_pieces : pieceUnits (mkP 0 ([5, 0xFA] ++ List.replicate 46 0 ++ [2, 5])) = 524288 := by decide

/-- Chapter 11, Table 11-5: codes 578, 579 and 580 lie within 22 of 1,000, and 579 reads 1,005; macro addresses. -/
theorem test_time_mode :
    decodeSegment false 1000 1 = 1005 ∧ decodeSegment false (-220) 1 = -225 ∧ decodeSegment false 6720 1 = 6720 := by decide

/-- Chapter 12, worked example: slice 16's share, and the home of the progress line. -/
theorem test_share : hbmBase 16 + 0x123456700 = 0x2523456700 ∧ shareOf 0x2523456700 = some (16, 0) := by decide

/-- Chapter 13, Table 13-3: the block with E = 136. -/
def ltBlock : List Byte := [0x7A, 0x44, 0x48, 0xC1, 0xF8, 0x40, 0x00, 0xBF, 0x96, 0x43] ++ (List.replicate 27 [0x80, 0x42]).flatten

theorem test_lighter_encode :
    (ltEncode ltBlock).take 46 =
      [0x88, 0x77, 0xF0, 0x9F, 0x6D, 0xDB, 0xB6, 0x6D, 0xDB, 0xB6, 0x6D, 0xDB, 0xB6, 0x6D, 0x7A, 0xC8, 0x00, 0x80, 0x16]
        ++ List.replicate 27 0 ∧ ltFlushed ltBlock = 2 := by decide

theorem test_lighter_decode :
    (ltDecode (ltEncode ltBlock)).map (·.take 10) = some [0x7A, 0x44, 0x48, 0xC1, 0x00, 0x00, 0x00, 0x80, 0x96, 0x43] := by decide

/-- Chapter 15, Table 15-4: an exact slot sums 2^24, 1 and 1 to 16,777,218, and `.even` reads it. -/
theorem test_exact_slot :
    let t := (((({} : Slot).add (fB32.decode 0x4B800000)).add (fB32.decode 0x3F800000)).add (fB32.decode 0x3F800000))
    t.s = 0x0100000200000000 ∧ t.inexact = false ∧ (t.read .even).1 = 0x4B800001 := by decide

/-- Chapter 17, worked example: PART_MAP[2] and PART_SLICES[2] of the strict partition, the dies that are strict, and the
address of slice 10. -/
def strictPart : State :=
  { up with part := { map := [(2, mkPair (mapEntry true 1 36 4))], slices := [(2, mkPair 0xC00)] } }

theorem test_part_map : mkPair (mapEntry true 1 36 4) = 0x2DBFDFFFD2402000 ∧ mkPair 0xC00 = 0xFFFFF3FF00000C00 := by decide

theorem test_strict_dies : strictPart.partRead 4 = 4 ∧ hbmBase 10 = 0x1680000000 := by decide

theorem test_refused_write :
    ((strictPart.bwRefusal 0x40 1 0x1680001000).part.bwLast, (strictPart.bwRefusal 0x40 1 0x1680001000).part.bwRefuse)
      = (0x4011001680001000, 1) := by decide

/-- Chapter 18, worked example: core 402's entry of the fence map is 02 FD, at byte 804. -/
theorem test_fence_map :
    ((State.fenceMap { up with core := { core := [(402, { laid := .field, persist := true })] } }).drop 804).take 2 = [0x02, 0xFD] := by
  decide

/-- Chapter 6, Table 6-12: the first packet of partition 3's queue 5, its byte 1 turned into 0xFF, is answered in entry 320 of
a ring of 64 with the INTEGRITY reply of the example, and its slot is consumed (R144). -/
def worker7 : State :=
  { up with
    time := { harbour := 36000000000140 * 2 ^ 24 }
    part := { map := [(3, mkPair 0x80000000)], slices := [(3, mkPair 0xF0000)] }
    q := { tab := [(QueueId.code (.part 3 5), { enabled := true, sqLog := 8, cqLog := 6, sqPut := 0xF02, sqGet := 0xF00, seqExp := 0x121
                                                cqPut := 320, cqGet := 320, reserved := 320 })] } }

def badPacket : List Byte := [0x10, 0xFF, 0, 1, 3, 0xFC, 5, 0, 0x21, 1, 0, 0, 0x21, 1, 0xA0, 0xD1] ++ List.replicate 48 0

theorem test_bad_packet :
    (match execPacketFetch (.part 3 5) badPacket worker7 with
      | .next t => some ((t.queue (.part 3 5)).sqGet, (t.queue (.part 3 5)).seqExp, t.out)
      | _ => none) =
    some (0xF01, 0x122, [.hostWrite 4 0
      [0x21, 0x01, 0x00, 0x00, 0x02, 0x01, 0xFD, 0xFE, 0x8C, 0x40, 0x36, 0xE7, 0xBD, 0x20, 0x00, 0x00, 0x00, 0x00, 0x00, 0x00, 0x00,
       0x00, 0x00, 0x00, 0x01, 0x00, 0x00, 0x01, 0x05, 0x00, 0x05, 0x00] false]) := by decide

/-- The token verifies. -/
theorem wit_token : (qt.take (.admin 0) (pk 0x16 (hc ++ mgr.token 0 1 0x40005))).verifyToken
    (((pk 0x16 (hc ++ mgr.token 0 1 0x40005)).bytes.drop 24).take 16) = some 0 := by
  have h : ofLe (toLe 4 (Config.exportCode 0 (tokenBody 9 0 0 1 0x40005)).toNat) =
      (Config.exportCode 0 (tokenBody 9 0 0 1 0x40005)).toNat := by
    rw [ofLe_toLe, Nat.mod_eq_of_lt (Nat.lt_of_lt_of_le (BitVec.isLt _) (by decide))]
  have e : field (((pk 0x16 (hc ++ mgr.token 0 1 0x40005)).bytes.drop 24).take 16) 4 12 = tokenBody 9 0 0 1 0x40005 := by decide
  have f : field (((pk 0x16 (hc ++ mgr.token 0 1 0x40005)).bytes.drop 24).take 16) 0 4 =
      ofLe (toLe 4 (Config.exportCode 0 (tokenBody 9 0 0 1 0x40005)).toNat) := rfl
  have k : (qt.take (.admin 0) (pk 0x16 (hc ++ mgr.token 0 1 0x40005))).part.exportKey = 0 := by decide
  unfold State.verifyToken tokenParts
  rw [e, f, h, k]
  exact (if_pos ⟨by decide, rfl, by decide⟩).trans (congrArg some (by decide))

/-- `pk` of partition 1. -/
def p1 (op : Byte) (l : List Byte) : Packet := mkP 7 ([op, ~~~op, 0, 1, 1, 0xFF, 0, 0, 0, 0, 0, 0, 0, 0, 0, 0] ++ l)

/-- `qs` on a manager with devices joined. -/
def qm (p : Packet) : State :=
  { qs p with ao := mgr.ao, fleet := { own := .joined, devNum := some 0, id := 9, dev := [(1, { st := .joined }), (2, { st := .lost })] } }

/-- The loaded macros' packet in progress. -/
def ifl (p : Packet) (x : Cim) : State := (disp (withCtx upP) { q := .admin 0, pkt := p, ctx := some (objKey 0 1) }).onCim fun _ => x

/-- An operation of one vector on die 0. -/
def cop (o : CimOwner) (inVa outVa : Nat) : CimOp :=
  { owner := o, die := 0, slice := 0, ctx := objKey 0 1, part := 0, inVa := inVa, outVa := outVa, macro_ := 0, count := 1, rowgrp := 1
    time := false, behind := [], stale := false }

/-- A FLEET_FORWARD of one slot to device `d`. -/
def fwd (d : Byte) : Packet :=
  { bytes := [0x60, 0x9F, 0, 2, 0, 0xFF, 0, 0, 0, 0, 0, 0, 0, 0, 0, 0, d] ++ List.replicate 47 0 ++ [0x01, 0xFE, 0, 1, 0, 0xFF] ++
      List.replicate 58 0, arrival := 0, pid := 7, granted := true }

/-- A CIM_LOAD of one macro, in progress. -/
def cl : State := ifl (pk 0x08 (hc ++ [0, 0, 0x20, 0, 0, 0, 0, 0, 0, 0, 1])) { loads := [{ pid := 7, die := 0, first := 0, count := 1 }] }

/-- Its source holds no poison. -/
theorem wit_clean : firstPoison ((cl.settleLighter (objKey 0 1) 0x200000 65536).readVa (objKey 0 1) 0x200000 65536 []) = none := by
  have h : ((cl.settleLighter (objKey 0 1) 0x200000 65536).pieces (objKey 0 1) 0x200000 65536).1 =
      [{ m := { va := 0x200000, len := 0x200000, page := 0, target := .dev 0x10000000, obj := none
                attr := 0, prot := false, lighter := false, rd := true, wr := true, ex := true }, va := 0x200000, len := 65536 }] := rfl
  have k : (cl.settleLighter (objKey 0 1) 0x200000 65536).mem.poison = [] := by decide
  have q : (cl.settleLighter (objKey 0 1) 0x200000 65536).cim.poisoned = [] := by decide
  have u : ∀ v, (cl.settleLighter (objKey 0 1) 0x200000 65536).unitMarked v = false := by
    intro v
    simp only [State.unitMarked, k, q, Tab.look]
    split <;> rfl
  unfold State.readVa
  rw [h]
  simp only [List.map_cons, List.map_nil, List.flatten_cons, List.flatten_nil, List.append_nil, State.readPiece, State.devRead,
    State.unitBad, firstPoison, u]
  simp [List.mem_zipIdx_iff_getElem?]

/-- A `cim.mvm` descriptor of macro 0, one row group, input at 0 and output at 1024, at local offset 0 of block 1. -/
def desc : List Host.Cell := [(262144, 0), (262145, 0), (262146, 1), (262147, 0), (262148, 1), (262149, 0), (262150, 0), (262151, 0), (262152, 0), (262153, 0), (262154, 0), (262155, 0), (262156, 0), (262157, 4), (262158, 0), (262159, 0)]

/-- `kst` with gang 0 as given; only its first two lanes are active. -/
def kg (f : Gang → Gang) : State := kst.onGang 0 fun x => f { x with active := 3 }

/-- An `mma` in flight on tile 1. -/
def pm : PendMma :=
  { fa := 2, fb := 2, tile := 1, a := List.replicate 512 0x3F800000, b := List.replicate 512 0x40000000, scales := [], retried := false }

/-- A second gang of the block, and a block of rank 1 in its cluster. -/
def two (x y : Gang) : State :=
  let l := { (kst.work.launch.look 1 {}) with cluster := 2, grid := (2, 1, 1) }
  let s := { kst with work := { launch := [(1, l)], nextLaunch := 2 } }
  { s with core := { block := [(1, { live := true, launch := 1, gangs := [0, 1], started := true }), (2, { live := true, launch := 1, rank := 1, index := 1, core := 1, started := true })], nextBlock := 3
                     gang := [(0, { x with live := true, block := 1 }), (1, { y with live := true, block := 1 })] } }

/-- A near line's miss of gang 0. -/
def mr : Miss := { ctx := objKey 0 1, line := 4096, mask := 1, lds := [{ gang := 0, lane := 1, va := 0x200000, len := 4, dst := .reg 5 false }] }

/-- A killed or live context's host access. -/
def hm0 : HostMem := { bytes := [], refused := false }

/-- `kg` with a chandler allocation of 256 B, whose VA is in u4 and u5. -/
def chd (creation : Bool) : State :=
  (kg fun x => { x with u := [(4, 0), (5, 0x18000)] }).onObj fun o => { o with
    pool := [(0, (0, 65536))]
    tab := o.tab ++ [(objKey 0 32768, { kind := .memory, live := true, count := 1, ncount := 0xFFFFFFFE, creation := creation, body := .memory 0 (hbmBase 0) 256 0 true (objKey 0 1) })] }

/-- Local memory without poison reads without poison. -/
theorem wit_local (s : State) (b off n : Nat) (h : (s.coreAt (s.blk b).core).locPoison = []) :
    ∀ x ∈ s.localRead b off n, x.2 = false := by
  intro x hx
  simp only [State.localRead, List.mem_map] at hx
  obtain ⟨i, -, rfl⟩ := hx
  simp [State.localAt, h, Tab.look]

/-- An add of 5 to counter 9 from gang 0. -/
def ta : SyncOp :=
  { kind := .add, obj := 9, amount := 5, src := .gang 0, part := 0, owned := false, deadline := none, uReg := 4, pReg := 3 }

/-- Gang 0 waits for `n` until time 0. -/
def wr (n : DWord) : WaitRec := { who := .gang 0, amount := n, deadline := some 0, owned := false, uReg := 4, pReg := 3, part := 0 }

/-- `kg` with semaphore 9, its object word in u0 and `n` in u1. -/
def ks (n : Word) (x : Sem) : State := (kg fun g => { g with u := [(0, 131081), (1, n)] }).onSync fun y => { y with sem := [(9, x)] }

/-- An `f32` add in flight. -/
def ra (f : RedFmt) : RedAdd := { fmt := f, dpa := 0x100, value := 0x3F800000, part := 0, gang := 0 }

/-- `kg` whose launch is REPLAYABLE. -/
def kr (f : Gang → Gang) : State := (kg f).onLaunch 1 fun l => { l with replayable := true, status := true }

/-- A commit of block 1. -/
def cm : Commit := { launch := 1, part := 0, ctx := objKey 0 1, core := 0, block := 1, index := 0, entries := [], early := false, flags := 0 }

/-- A deferral entry of slot `i`. -/
def de (i : Nat) : DfrEntry := { block := 1, kind := .xs, key := i, value := 0, slot := {}, gangs := [] }

/-- A line that agent 7 owns and agent 2 shares is coherent. -/
theorem wit_coherent : DirLine.coherent { agents := [(2, .s), (7, .o)] } := by
  intro a b h
  have k : ∀ x, DirLine.at_ { agents := [(2, .s), (7, .o)] } x = if x = 2 then .s else if x = 7 then .o else .i := by
    intro x; simp only [DirLine.at_, Tab.look]
    by_cases h2 : x = 2
    · subst h2; rfl
    · by_cases h7 : x = 7
      · subst h7; rfl
      · simp [Ne.symm h2, Ne.symm h7, h2, h7]
  rw [k, k]
  by_cases h2 : a = 2
  · subst h2; simp
  · by_cases h7 : a = 7
    · subst h7; simp only [if_neg (Ne.symm h), show ¬ (7 = 2) by decide, if_false, if_true]
      by_cases hb : b = 2
      · subst hb; decide
      · simp [hb, Moesi.owns]
    · simp [h2, h7]

/-- ANNOUNCE of serial number 5, over one relay. -/
def mAnn : FleetMsg := msg 8 1 0x3F 0xFF [5, 0, 0, 0, 0, 0, 0, 0, 0, 0, 0, 0, 1, 2]
/-- ASSIGN of number 7 to this device. -/
def mAsg : FleetMsg := msg 8 2 0 0xFF (toLe 8 Config.serial.toNat ++ [7, 0, 0, 0, 9, 0, 0, 0, 1] ++ List.replicate 7 0 ++ [0, 0xFF])
/-- ROUTES: devices 0 and 1 by ports 3 and 4. -/
def mRts : FleetMsg := msg 8 3 0 1 [3, 4]
/-- A FORWARD of one slot for forward queue 31, and its packet. -/
def mFwd : FleetMsg := msg 1 0 0 1 ([0x01, 0xFE, 0, 1, 0, 0xFF, 31] ++ List.replicate 57 0)
/-- STATUS of the message 77. -/
def mSt (sub : Nat) : FleetMsg := msg 2 sub 1 0 ([77, 0, 0, 0, 0, 0, 0, 0, 0, 0, 0, 0, 3] ++ List.replicate 27 9)
/-- A sync message of counter 5. -/
def mSy (cls sub : Nat) : FleetMsg := msg cls sub 0 1 [5, 0, 0, 0, 0, 1, 0, 0, 4, 0, 0, 0, 0, 0, 0, 0, 0]
/-- A WRITE of 64 B at `a`. -/
def mWr (a : Byte) : FleetMsg := msg 5 0 0 1 ([0, 0, 0, 0x10, a, 0, 0, 0, 0] ++ List.replicate 71 4)
/-- A READ of 64 B. -/
def mRd : FleetMsg := msg 6 0 0 1 [0, 0, 0, 0x10, 0, 0, 0, 0, 0, 0, 0, 0, 64]
/-- The same for partition 1. -/
def mRe : FleetMsg := msg 6 0 0 1 [0, 0, 0, 0x10, 0, 0, 0, 0, 1, 0, 0, 0, 64]
/-- A slack-water message of the manager. -/
def mBar (sub : Nat) : FleetMsg := msg 7 sub 0 1 [4, 0, 0, 0, 1, 0, 0, 0, 2]
/-- A slack-water message of worker 1. -/
def mRep (sub : Nat) : FleetMsg := msg 7 sub 1 0 [4, 0, 0, 0, 0, 0, 1, 0, 0]
/-- A manager with worker 1 joined and barrier 4 as given. -/
def mb (b : Barrier) : State := mgr.onFleet fun f => { f with dev := [(1, { st := .joined })], bar := b }
/-- A worker whose partition 0 its pilot controls. -/
def wk1 : State := { wkr with part := { map := [(0, mkPair 0x90000000)], slices := [(0, mkPair 1)] } }
/-- A worker on which message 77 is noted as accepted. -/
def wks : State := wkr.onFleet fun f => { f with accepted := [(0, [(77, [])])] }
/-- `wkr` whose exported run has the token of event 5. -/
def wke : State := { (wkr.onObj fun o => { o with tab := [(objKey 0 2, run)] }) with ao := wkr.ao }
/-- A request for that token. -/
def mTok : FleetMsg := msg 6 2 0 1 (wke.token 0 1 0x40005 ++ [3, 0, 0, 0, 0, 0, 0, 0])
/-- A mirror of device 0's event, whose counter is 9. -/
def wkm (n : Nat) : State :=
  wkr.onObj fun o => { o with tab := [(objKey 0 2, { run with body := .run 9 1 true (objKey 0 1) [] (some { token := [], dev := 0, part := 0, event := n, gen := 1 }) })] }
/-- Its update to 4. -/
def mUp : FleetMsg := msg 3 1 0 1 [5, 0, 4, 0, 0, 1, 0, 0, 4, 0, 0, 0, 0, 0, 0, 0, 0]

/-- The ASSIGN names this device's serial number. -/
theorem wit_serial : BitVec.ofNat 64 (mf mAsg 0 8) = Config.serial := by
  have f : mf mAsg 0 8 = ofLe (toLe 8 Config.serial.toNat) := rfl
  rw [f, ofLe_toLe, Nat.mod_eq_of_lt (Nat.lt_of_lt_of_le (BitVec.isLt _) (by decide))]
  simp

/-- The requested token verifies. -/
theorem wit_token2 : (left wke mTok).verifyToken (mTok.body.take 16) = some 0 := by
  have h : ofLe (toLe 4 (Config.exportCode 0 (tokenBody 9 1 0 1 0x40005)).toNat) =
      (Config.exportCode 0 (tokenBody 9 1 0 1 0x40005)).toNat := by
    rw [ofLe_toLe, Nat.mod_eq_of_lt (Nat.lt_of_lt_of_le (BitVec.isLt _) (by decide))]
  have e : field (mTok.body.take 16) 4 12 = tokenBody 9 1 0 1 0x40005 := by decide
  have f : field (mTok.body.take 16) 0 4 = ofLe (toLe 4 (Config.exportCode 0 (tokenBody 9 1 0 1 0x40005)).toNat) := rfl
  have k : (left wke mTok).part.exportKey = 0 := by decide
  unfold State.verifyToken tokenParts
  rw [e, f, h, k]
  exact (if_pos ⟨by decide, rfl, by decide⟩).trans (congrArg some (by decide))

/-- `up` as its management functions see it. -/
def mg (m : Mgmt) : State := { up with mgmt := m }
/-- A message of type `t` waits from endpoint 8 of the SMBus. -/
def mw (t : Byte) (m : Mgmt) : State := mg { m with inbox := [(8, [t])], eid := [(0, 9)] }
/-- An MCTP packet. -/
def mp (som eom : Bool) (seq : Nat) : MctpPacket :=
  { binding := 1, source := 255, som := som, eom := eom, seq := seq, payload := [1, 2], pecOk := true }
/-- `up` with its slot 0 certificate in the store. -/
def cert : State :=
  { mg { spdm := [(2, 3)] } with nvm := { slot := [(8, { hdr := true, data := [1, 2], dataOk := true, marker := true })] } }
/-- A mirror's run over counter 9, and its counter. -/
def kmi (s : State) : State :=
  (s.onObj fun o => { o with tab := o.tab ++ [(objKey 0 2, { run with body := .run 9 1 true (objKey 0 1) [] none })] }).onSync
    fun y => { y with tally := [(9, { value := 3, nvalue := ~~~3, mirror := true })] }
/-- Window channel 3 with a length of 128 B. -/
def rw3 : State := (mb {}).onFleet fun f => { f with route := [(1, 2)], rw := [(3, { len := 128, dpa := 64 })] }

/-- Every mirror counter lies in an open run. -/
theorem wit_mirror : ∀ i, ((kmi (qc (pk 0x34 (hc ++ [9, 0, 0, 0, 2])))).tally i).mirror = true →
    (kmi (qc (pk 0x34 (hc ++ [9, 0, 0, 0, 2])))).inOpenRun i = true := by
  intro i h
  by_cases e : i = 9
  · subst e; decide
  · have : (kmi (qc (pk 0x34 (hc ++ [9, 0, 0, 0, 2])))).tally i = {} := by
      simp only [kmi, State.tally, State.onSync, Tab.look]
      rw [if_neg (Ne.symm e)]
    rw [this] at h; cases h

/-- The certificate chain is not empty. -/
theorem wit_cert (l : List Byte) : 0 + 1 ≤ ((cert.nvmSlot 4 0).data ++ l).length := by
  rw [List.length_append]
  exact Nat.le_trans (by decide) (Nat.le_add_right _ _)

/-- The hypotheses of each clause of AlwaysOnStages are met. -/
theorem wit_alwaysOnStages :
    (∃ s : State, s.ao.porReleased = false) ∧
    (∃ s : State, s.boot.stage = 3 ∧ s.boot.halt = false ∧ s.ao.porReleased = true) ∧
    (∃ s : State, s.boot.stage = 3 ∧ s.boot.halt = false ∧ s.ao.porReleased = true ∧ s.ao.twRomFails = 0) ∧
    (∃ s : State, s.boot.stage = 3 ∧ s.boot.halt = false ∧ s.ao.porReleased = true ∧ s.ao.twRomFails ≠ 0) ∧
    (∃ (s : State) (v : BitVec 2), s.boot.stage = 4 ∧ s.boot.halt = false ∧ s.ao.roleSamples.length < 2) ∧
    (∃ (s : State) (v : BitVec 2), s.boot.stage = 4 ∧ s.boot.halt = false ∧ s.ao.roleSamples = [v, v] ∧ v ≠ 3) ∧
    (∃ s : State, s.boot.stage = 4 ∧ s.boot.halt = false ∧ s.ao.roleSamples = [3, 3]) :=
  ⟨⟨Z, by decide⟩,
   ⟨{ Z with ao := { porReleased := true }, boot := { stage := 3 } }, by decide⟩,
   ⟨{ Z with ao := { porReleased := true }, boot := { stage := 3 } }, by decide⟩,
   ⟨{ Z with ao := { porReleased := true, twRomFails := 1 }, boot := { stage := 3 } }, by decide⟩,
   ⟨{ Z with ao := { roleSamples := [1] }, boot := { stage := 4 } }, 1, by decide⟩,
   ⟨{ Z with ao := { roleSamples := [2, 2] }, boot := { stage := 4 } }, 2, by decide⟩,
   ⟨{ Z with ao := { roleSamples := [3, 3] }, boot := { stage := 4 } }, by decide⟩⟩

/-- The hypotheses of each clause of Resets are met. -/
theorem wit_resets :
    (∃ s : State, s.nvm.cur = none) ∧
    (∃ (s : State) (ns : Nat) (b : Bool), ns < 9000) ∧
    (∃ (s : State) (ns : Nat) (b : Bool), 10000 ≤ ns ∧ 5 ≤ s.boot.stage) ∧
    (∃ (s : State) (ns : Nat) (b : Bool), 10000 ≤ ns ∧ 5 ≤ s.boot.stage ∧ s.nvm.cur = none) ∧
    (∃ s : State, s.ao.hubOut = true ∧ s.pwr.dev ≠ .deep ∧ 5 ≤ s.boot.stage) ∧
    (∃ s : State, s.ao.hubOut = true ∧ s.pwr.dev ≠ .deep ∧ 5 ≤ s.boot.stage ∧ s.nvm.cur = none) ∧
    (∃ (s : State) (sel : BitVec 2), 5 ≤ s.boot.stage) ∧
    (∃ s : State, 5 ≤ s.boot.stage ∧ s.ao.hubOut = true ∧ s.pwr.dev ≠ .deep) ∧
    (∃ s : State, 8 ≤ s.boot.stage ∧ s.ao.hubOut = true ∧ s.boot.halt = false ∧ s.pwr.dev ≠ .sleep ∧ s.pwr.dev ≠ .deep) ∧
    (∃ (s : State) (rng : Bool) (n : Nat), n < 32 ∧ s.boot.cfgAnswers = true ∧ s.host.linkDown = false ∧ s.boot.ready = true
      ∧ s.host.vfEnable = true ∧ s.pwr.dev ≠ .sleep ∧ s.partExists n = false) :=
  ⟨⟨up, rfl⟩,
   ⟨up, 8999, true, by decide⟩,
   ⟨st 5, 10000, false, by decide⟩,
   ⟨st 5, 10000, false, by decide⟩,
   ⟨up, by decide⟩,
   ⟨up, by decide⟩,
   ⟨st 5, 3, by decide⟩,
   ⟨st 7, by decide⟩,
   ⟨up, by decide⟩,
   ⟨{ up with host := { vfEnable := true } }, false, 31, by decide⟩⟩

/-- The hypotheses of each clause of StagesFiveToEight are met. -/
theorem wit_stagesFiveToEight :
    (∃ (s : State) (means : List (BitVec 16)), s.boot.stage = 5 ∧ s.boot.halt = false ∧ s.ao.hubOut = true ∧ (∀ i, i < 15 →
      s.s5Ok i (means.getD i 0).toNat = true) ∧ s.boot.hubPll = false) ∧
    (∃ s : State, s.ao.hubOut = true ∧ s.boot.hubPll = false ∧ s.boot.halt = false ∧ s.boot.stage = 5) ∧
    (∃ s : State, s.ao.hubOut = true ∧ s.boot.hubPll = false ∧ s.boot.halt = false ∧ s.boot.stage = 6) ∧
    (∃ s : State, s.ao.hubOut = true ∧ s.boot.hubPll = false ∧ s.boot.halt = false) ∧
    (∃ (s : State) (img : ImageInfo) (src : BitVec 2) (r : List (BitVec 2)), s.boot.stage = 7 ∧ s.boot.halt = false ∧
      s.boot.selWrite = false ∧ s.boot.sources = src :: r ∧ rejectReason s.ao.minSvn img = none) ∧
    (∃ (s : State) (img : ImageInfo) (src x : BitVec 2) (r : List (BitVec 2)), s.boot.stage = 7 ∧ s.boot.halt = false ∧
      s.boot.selWrite = false ∧ s.boot.sources = src :: x :: r ∧ rejectReason s.ao.minSvn img ≠ none) ∧
    (∃ s : State, s.boot.stage = 8 ∧ s.boot.halt = false) ∧
    (∃ s : State, s.boot.stage = 8 ∧ s.boot.halt = false ∧ s.isManager = true) ∧
    (∃ s : State, s.boot.stage = 8 ∧ s.boot.halt = false ∧ s.isManager = false) ∧
    (∃ (s : State) (src x : BitVec 2) (r : List (BitVec 2)), s.boot.stage = 8 ∧ s.boot.halt = false ∧ s.boot.sources = src
      :: x :: r) :=
  ⟨⟨st 5, rails, by decide⟩,
   ⟨st 5, by decide⟩,
   ⟨st 6, by decide⟩,
   ⟨st 5, by decide⟩,
   ⟨{ st 7 with boot := { stage := 7, sources := [0, 2] } }, goodImg, 0, [2], by decide⟩,
   ⟨{ st 7 with boot := { stage := 7, sources := [0, 2] } }, { goodImg with readable := false }, 0, 2, [], by decide⟩,
   ⟨st 8, by decide⟩,
   ⟨{ st 8 with ao := { role := some 1 } }, by decide⟩,
   ⟨st 8, by decide⟩,
   ⟨{ st 8 with boot := { stage := 8, sources := [0, 2] } }, 0, 2, [], by decide⟩⟩

/-- The hypotheses of each clause of StagesNineToReady are met. -/
theorem wit_stagesNineToReady :
    (∃ (s : State) (d : List Byte), s.boot.stage = 9 ∧ s.boot.halt = false ∧ s.record 1 = some d) ∧
    (∃ s : State, s.boot.stage = 9 ∧ s.boot.halt = false ∧ s.record 1 = none) ∧
    (∃ s : State, s.boot.stage = 10 ∧ s.boot.halt = false ∧ s.hotDie = none ∧ s.ao.pwrCut = false ∧ s.core.core = [] ∧
      s.mem.wayOff = []) ∧
    (∃ s : State, s.boot.stage = 11 ∧ s.boot.halt = false ∧ s.boot.avail ≠ 0) ∧
    (∃ (s : State) (w r : Nat) (f : Bool), s.ao.hubOut = true ∧ s.pwr.dev ≠ .deep ∧ linkOk w r f = true ∧ s.host.memActive =
      false) ∧
    (∃ s : State, s.boot.stage = 12 ∧ s.boot.halt = false ∧ s.boot.linkTrained = true ∧ s.isStandalone = true ∧ 16 ≤
      s.host.width ∧ 6 ≤ s.host.rate) ∧
    (∃ s : State, s.boot.stage = 14 ∧ s.boot.halt = false ∧ s.isManager = true ∧ s.fleet.expect = 0) ∧
    (∃ (s : State) (m : Word), s.boot.stage = 9 ∧ s.boot.halt = false) :=
  ⟨⟨st 9, fenceMapShipped, by decide⟩,
   ⟨{ st 9 with nvm := { slot := [] } }, by decide⟩,
   ⟨st 10, by decide⟩,
   ⟨{ st 11 with boot := { stage := 11, avail := 1 } }, by decide⟩,
   ⟨st 7, 16, 6, true, by decide⟩,
   ⟨{ st 12 with boot := { stage := 12, linkTrained := true }, host := { width := 16, rate := 6 } }, by decide⟩,
   ⟨{ st 14 with ao := { role := some 1 } }, by decide⟩,
   ⟨st 9, 0, by decide⟩⟩

/-- The hypotheses of each clause of MailboxCommands are met. -/
theorem wit_mailboxCommands :
    (∃ s : State, s.ao.hubOut = true ∧ s.boot.mboxBusy = false ∧ s.boot.halt = false ∧ s.asleep = false) ∧
    (∃ (s : State) (c : Byte), s.ao.hubOut = true ∧ s.boot.mboxBusy = false ∧ s.asleep = false ∧ c ≠ 0xFE) ∧
    (∃ (s : State) (c : Byte), s.ao.hubOut = true ∧ s.boot.mboxBusy = true ∧ s.asleep = false) ∧
    (∃ (s : State) (img : ImageInfo), s.ao.hubOut = true ∧ s.boot.mboxBusy = false ∧ s.boot.halt = true ∧ s.boot.failCode =
      0x0702 ∧ s.asleep = false ∧ s.loadArgsOk = true ∧ rejectReason s.ao.minSvn img = none) ∧
    (∃ s : State, s.ao.hubOut = true ∧ s.boot.mboxBusy = false ∧ s.boot.ready = true ∧ 7 ≤ s.boot.stage ∧
      s.boot.mboxArg.look 0 0 = 0 ∧ s.asleep = false) ∧
    (∃ s : State, s.ao.hubOut = true ∧ s.boot.mboxBusy = false ∧ s.asleep = false ∧ s.boot.ready = true ∧ s.boot.trial =
      false) ∧
    (∃ s : State, s.ao.hubOut = true ∧ s.boot.mboxBusy = false ∧ s.asleep = false ∧ s.boot.ready = true ∧ s.boot.trial =
      true ∧ s.nvm.refusing = false ∧ s.nvm.cur ≠ none) ∧
    (∃ s : State, s.pwr.dev ≠ .deep) :=
  ⟨⟨up, by decide⟩,
   ⟨up, 0xFF, by decide⟩,
   ⟨{ up with boot := { mboxBusy := true } }, 0xFE, by decide⟩,
   ⟨{ st 7 with boot := { stage := 7, halt := true, failCode := 0x0702, mboxArg := [(2, 4608)] } }, goodImg, by decide⟩,
   ⟨up, by decide⟩,
   ⟨up, by decide⟩,
   ⟨{ up with boot := { ready := true, trial := true }, nvm := { cur := some ({ rec_ := 1, data := [], why := .internal }, 0, .erase, false) } },
     by decide⟩,
   ⟨up, by decide⟩⟩

/-- The hypotheses of each clause of HostAccesses are met. -/
theorem wit_hostAccesses :
    (∃ (s : State) (on : Bool), s.boot.cfgAnswers = true ∧ s.host.linkDown = false ∧ s.boot.ready = true ∧ s.pwr.dev ≠
      .sleep) ∧
    (∃ (s : State) (on : Bool), s.boot.cfgAnswers = true ∧ s.host.linkDown = false ∧ s.boot.ready = false) ∧
    (∃ (s : State) (off n : Nat), s.boot.cfgAnswers = true ∧ s.boot.ready = true ∧ s.host.linkDown = false ∧ s.pwr.dev ≠
      .sleep ∧ 0 < n ∧ off + n ≤ 2 ^ s.host.bar2Log ∧ s.hostAdmits off n = true) ∧
    (∃ (s : State) (off : Nat) (b : List Byte), s.boot.cfgAnswers = true ∧ s.boot.ready = true ∧ s.host.linkDown = false ∧
      s.pwr.dev ≠ .sleep ∧ b ≠ [] ∧ off + b.length ≤ 2 ^ s.host.bar2Log ∧ s.hostAdmits off b.length = true ∧ s.deckHeld off
      b.length = false) ∧
    (∃ (s : State) (off n : Nat), s.boot.cfgAnswers = true ∧ s.boot.ready = true ∧ s.host.linkDown = false ∧ s.pwr.dev ≠
      .sleep ∧ 0 < n ∧ off + n ≤ 2 ^ s.host.bar2Log ∧ s.hostAdmits off n = false) ∧
    (∃ (s : State) (log : Nat), s.boot.cfgAnswers = true ∧ s.host.linkDown = false ∧ s.pwr.dev ≠ .sleep ∧ 30 ≤ log ∧ log ≤
      39) ∧
    (∃ (s : State) (m : DWord), s.boot.cfgAnswers = true ∧ s.host.linkDown = false) ∧
    (∃ (s : State) (dpa : Nat) (own : Bool), s.host.linkDown = false ∧ s.boot.linkTrained = true ∧ s.host.memActive = false) ∧
    (∃ (s : State) (dpa : Nat) (own : Bool), s.host.linkDown = false ∧ s.boot.linkTrained = true ∧ s.host.memActive = true ∧
      s.host.cxlOn = true ∧ s.host.hdm = true ∧ s.pwr.dev ≠ .sleep ∧ hbmLine (dpa / 256) = true ∧ s.hostAdmits (dpa / 256 *
      256) 256 = true ∧ s.dirAt (dpa / 256) = {} ∧ s.mem.resv.look (dpa / 256 * 256 / 0x900000000) [] = []) ∧
    (∃ (s : State) (l : Nat) (inv : Bool), s.host.cxlOn = true ∧ s.host.linkDown = false ∧ (s.dirAt (hostLine +
      l)).snoopFree inv = true) ∧
    (∃ (s : State) (l : Nat) (inv : Bool), s.host.cxlOn = true ∧ s.host.linkDown = false ∧ (s.dirAt (hostLine +
      l)).snoopFree inv = true ∧ inv = true) ∧
    (∃ (s : State) (bus len : Nat) (p : Option Nat), s.boot.cfgAnswers = true ∧ s.host.linkDown = false) ∧
    (∃ s : State, s.pwr.dev = .sleep) ∧
    (∃ s : State, s.boot.ready = true ∧ (s.pwr.dev = .ready ∨ s.pwr.dev = .awake)) :=
  ⟨⟨up, true, by decide⟩,
   ⟨{ st 8 with boot := { stage := 8, cfgAnswers := true } }, true, by decide⟩,
   ⟨upP, 2 ^ 30 - 4, 4, by decide⟩,
   ⟨upP, 2 ^ 29, [1, 2], by decide⟩,
   ⟨up, 0x4000, 4, by decide⟩,
   ⟨up, 39, by decide⟩,
   ⟨up, 5, by decide⟩,
   ⟨up, 0, true, by decide⟩,
   ⟨{ upP with host := { memActive := true, cxlOn := true, hdm := true } }, 2 ^ 29, true, by decide⟩,
   ⟨{ up with host := { cxlOn := true } }, 3, true, by decide⟩,
   ⟨{ up with host := { cxlOn := true } }, 3, true, by decide⟩,
   ⟨up, 0, 4096, none, by decide⟩,
   ⟨{ up with pwr := { dev := .sleep } }, by decide⟩,
   ⟨{ up with pwr := { dev := .ready } }, by decide⟩⟩

/-- The hypotheses of each clause of HawserPorts are met. -/
theorem wit_hawserPorts :
    (∃ (s : State) (n : Nat) (f : HwsFlit), n < 8 ∧ s.pwr.dev ≠ .deep ∧ (s.port n).st = .active ∧ (s.port n).recovering =
      false ∧ (f.fecBad = true ∨ f.crcOk = false)) ∧
    (∃ (s : State) (n : Nat) (f : HwsFlit) (b : HwsPayload), n < 8 ∧ s.pwr.dev ≠ .deep ∧ (s.port n).st = .active ∧ (s.port
      n).recovering = false ∧ (s.port n).replay = [] ∧ (s.port n).sendQ = [] ∧ f.fecBad = false ∧ f.crcOk = true ∧ f.nak =
      false ∧ f.body = some b ∧ f.seq = (s.port n).rxNext ∧ b.idx + 1 ≠ b.cnt) ∧
    (∃ (s : State) (n : Nat), n < 8 ∧ s.pwr.dev ≠ .deep ∧ (s.port n).st = .active ∧ (s.port n).recovering = false ∧ (s.port
      n).replay ≠ [] ∧ (s.port n).replayFrom + 32 ≤ s.time.tick) ∧
    (∃ (s : State) (n : Nat), n < 8 ∧ s.pwr.dev ≠ .deep ∧ (s.port n).st = .active ∧ (s.port n).recovering = false ∧ (s.port
      n).replay ≠ [] ∧ 4 ≤ (s.port n).resends) ∧
    (∃ (s : State) (n : Nat), n < 8 ∧ s.pwr.dev ≠ .deep ∧ (s.port n).st = .active ∧ (s.port n).recovering = false) ∧
    (∃ (s : State) (n : Nat), n < 8 ∧ s.pwr.dev ≠ .deep ∧ (s.port n).st = .active) ∧
    (∃ (s : State) (n : Nat), n < 8 ∧ s.pwr.dev ≠ .deep ∧ (s.port n).st = .down) ∧
    (∃ (s : State) (n : Nat) (l : BitVec 8), n < 8 ∧ s.pwr.dev ≠ .deep ∧ (s.port n).st = .detect ∧ (s.port n).gap = false ∧
      wholeGroups l &&& (s.port n).mayUse ≠ 0) ∧
    (∃ (s : State) (n : Nat) (l : BitVec 8), n < 8 ∧ s.pwr.dev ≠ .deep ∧ (s.port n).st = .lock ∧ (s.port n).gap = false ∧
      wholeGroups (l &&& (s.port n).goodLanes) ≠ 0) ∧
    (∃ (s : State) (n : Nat) (r : CoeffReq), n < 8 ∧ s.pwr.dev ≠ .deep ∧ (s.port n).st = .equalize ∧ (s.port n).gap = false
      ∧ r.lane < 8 ∧ r.tap < 5 ∧ r.req = 0 ∧ wholeGroups (s.port n).goodLanes ≠ 0 ∧ (∀ l ∈ ones (s.port n).goodLanes, 50 ≤
      ((s.port n).laneBer.look l 0).toNat)) ∧
    (∃ (s : State) (n : Nat) (r : LaneMask), n < 8 ∧ s.pwr.dev ≠ .deep ∧ (s.port n).st = .deskew ∧ (s.port n).gap = false ∧
      (s.port n).recovering = false ∧ ((s.port n).masks 3).groups &&& r.groups ≠ 0 ∧ r.cwLock = 3) ∧
    (∃ (s : State) (n : Nat) (r : HailRec), n < 8 ∧ s.pwr.dev ≠ .deep ∧ (s.port n).st = .hail ∧ (s.port n).gap = false ∧
      (s.port n).recovering = false ∧ s.hailReject r = none) ∧
    (∃ (s : State) (n : Nat) (r : HailRec) (why : Nat), n < 8 ∧ s.pwr.dev ≠ .deep ∧ (s.port n).st = .hail ∧ (s.port n).gap =
      false ∧ (s.port n).recovering = false ∧ s.hailReject r = some why) ∧
    (∃ (s : State) (n : Nat) (g : CreditGrant), n < 8 ∧ s.pwr.dev ≠ .deep ∧ (s.port n).st = .moor ∧ (s.port n).gap = false ∧
      (s.port n).grantAcked = false ∧ grantOk g = true) ∧
    (∃ (s : State) (n : Nat) (g : CreditGrant), n < 8 ∧ s.pwr.dev ≠ .deep ∧ (s.port n).st = .moor ∧ (s.port n).gap = false ∧
      (s.port n).ownGrant = some g ∧ (s.port n).peerGrant = none) ∧
    (∃ (s : State) (n : Nat) (r : HwsRecord), n < 8 ∧ s.pwr.dev ≠ .deep ∧ (s.port n).training = true ∧ (s.port n).gap =
      false ∧ (s.port n).record = some r) :=
  ⟨⟨pt { st := .active }, 0, { flit with fecBad := true }, by decide⟩,
   ⟨pt { st := .active }, 0, flit, load, by decide⟩,
   ⟨{ pt { st := .active, replay := [(0, load)] } with time := { tick := 32 } }, 0, by decide⟩,
   ⟨pt { st := .active, replay := [(0, load)], resends := 4 }, 0, by decide⟩,
   ⟨pt { st := .active }, 0, by decide⟩,
   ⟨pt { st := .active }, 0, by decide⟩,
   ⟨pt { st := .down }, 0, by decide⟩,
   ⟨pt { st := .detect }, 0, 0x0F, by decide⟩,
   ⟨pt { st := .lock, goodLanes := 0xFF }, 0, 0xF0, by decide⟩,
   ⟨pt { st := .equalize, goodLanes := 0x0F, laneBer := [(0, 50), (1, 50), (2, 50), (3, 50)] }, 0,
     { lane := 7, req := 0, tap := 4, preset := 0, resp := 0, status := 0, ber := 50 }, by decide⟩,
   ⟨pt { st := .deskew, goodLanes := 0xFF }, 0, { rxMask := 0x0F, groups := 1, cwLock := 3 }, by decide⟩,
   ⟨pt { st := .hail }, 0, hail, by refine ⟨by decide, by decide, by decide, by decide, by decide, ?_⟩; simp [State.hailReject,
     hail]⟩,
   ⟨pt { st := .hail }, 0, { hail with magic := 0 }, 5, by decide⟩,
   ⟨pt { st := .moor }, 0, grant, by decide⟩,
   ⟨pt { st := .moor, ownGrant := some grant }, 0, grant, by decide⟩,
   ⟨pt { st := .moor, record := some (.grant grant) }, 0, .grant grant, by decide⟩⟩

/-- The hypotheses of each clause of HawserSeries are met. -/
theorem wit_hawserSeries :
    (∃ (s : State) (n : Nat), n < 8 ∧ s.pwr.dev ≠ .deep ∧ (s.port n).training = true ∧ (s.port n).gap = false ∧ (s.port
      n).recovering = false ∧ (s.port n).counted + 1 < 8) ∧
    (∃ (s : State) (n : Nat), n < 8 ∧ s.pwr.dev ≠ .deep ∧ (s.port n).training = true ∧ (s.port n).gap = true) ∧
    (∃ (s : State) (n : Nat), n < 8 ∧ s.pwr.dev ≠ .deep ∧ (s.port n).training = true ∧ (s.port n).recovering = false ∧
      (s.port n).seriesTick + 4480000 ≤ s.time.tick ∧ s.isManager = false ∧ s.boot.stage ≠ 13) ∧
    (∃ (s : State) (n r : Nat), n < 8 ∧ s.pwr.dev ≠ .deep ∧ ((s.port n).st = .hail ∨ (s.port n).st = .moor) ∧ (s.port n).gap
      = false ∧ (s.port n).recovering = false ∧ 2 ≤ r ∧ r ≤ 5) ∧
    (∃ (s : State) (n : Nat), n < 8 ∧ s.pwr.dev ≠ .deep ∧ (s.port n).training = true ∧ (s.port n).st ≠ .detect ∧ (s.port
      n).recovering = false) ∧
    (∃ (s : State) (n : Nat), n < 8 ∧ s.pwr.dev ≠ .deep ∧ (s.port n).st = .down ∧ (s.port n).enable = true ∧ s.isStandalone
      = false ∧ ((s.port n).downReason = 1 ∨ (s.port n).sawLoss = true)) ∧
    (∃ (s : State) (n : Nat) (v : Word), n < 8 ∧ s.pwr.dev ≠ .deep ∧ s.isStandalone = false ∧ v.getLsbD 8 = true ∧ v.getLsbD
      31 = true ∧ (s.port n).st ≠ .active ∧ (s.port n).recovering = false) ∧
    (∃ (s : State) (n : Nat), n < 8 ∧ s.pwr.dev ≠ .deep ∧ (s.port n).st = .active ∧ (s.port n).recovering = false ∧ (s.port
      n).lpiEn = true ∧ (s.port n).peerCaps.getLsbD 0 = true ∧ (s.port n).replay = [] ∧ (s.port n).sendQ = []) ∧
    (∃ (s : State) (n : Nat), n < 8 ∧ s.pwr.dev ≠ .deep ∧ (s.port n).lpi = true ∧ (s.port n).sendQ = []) :=
  ⟨⟨pt { st := .detect, counted := 6 }, 0, by decide⟩,
   ⟨pt { st := .detect, gap := true }, 0, by decide⟩,
   ⟨{ wkr with hws := [(0, { st := .detect })], time := { tick := 4480000 } }, 0, by decide⟩,
   ⟨pt { st := .moor }, 0, 2, by decide⟩,
   ⟨pt { st := .lock }, 0, by decide⟩,
   ⟨pt { st := .down, downReason := 1 }, 0, by decide⟩,
   ⟨pt { st := .down }, 0, 0x80000100, by decide⟩,
   ⟨pt { st := .active, peerCaps := 1 }, 0, by decide⟩,
   ⟨pt { st := .active, lpi := true }, 0, by decide⟩⟩

/-- The hypotheses of each clause of TidewatchInputsAndSequences are met. -/
theorem wit_tidewatchInputsAndSequences :
    (∃ (s : State) (q code : Nat), s.tw.seqRunning = some q ∧ s.tw.stepBegun = true ∧ s.tw.settleLeft = 0 ∧ 0 < code ∧ code
      < 4095) ∧
    (∃ (s : State) (q code : Nat), s.tw.seqRunning = some q ∧ s.tw.stepBegun = true ∧ s.tw.settleLeft = 0 ∧ 0 < code ∧ code
      < 4095 ∧ s.tw.seqConv + 1 < stCount (s.runStep s.tw.seqStep)) ∧
    (∃ (s : State) (q : Nat), s.tw.sampling = true ∧ s.tw.seqRunning = none ∧ q < 8 ∧ s.tw.seqTrig.look q 0 ≠ 0 ∧ (∀ r, r <
      q → s.tw.seqTrig.look r 0 = 0)) ∧
    (∃ (s : State) (n : Nat) (v : Word), n < 8 ∧ s.boot.ready = true ∧ v.getLsbD 31 = true ∧ v.getLsbD 30 = true ∧ bits v 26
      4 ≤ 13 ∧ s.tw.seqTrig.look n 0 = 0 ∧ s.tw.seqRunning ≠ some n) ∧
    (∃ (s : State) (n : Nat), n < 8 ∧ s.tw.sampling = true ∧ (s.timer n).getLsbD 63 = true ∧ (s.timer n).getLsbD 62 = false
      ∧ bits (s.timer n) 0 32 ≠ 0) ∧
    (∃ s : State, s.tw.sampling = true ∧ s.tw.watchLast < s.watchNow) ∧
    (∃ s : State, s.watchNow ≤ s.tw.watchLast) ∧
    (∃ (s : State) (ch : Nat), ch < 48 ∧ s.tw.sampling = true ∧ pairOk (s.chRoc ch) = true ∧ bits (s.chRoc ch) 16 16 ≠ 0 ∧
      (s.tw.chLast.look ch {}).stale = false ∧ (s.tw.chLast.look ch {}).silentFrom + bits (s.chRoc ch) 16 16 * 8000 ≤
      s.time.tick ∧ s.tw.sampleFifo.length < 256) ∧
    (∃ (s : State) (temps : List (Option (BitVec 16))) (vref gnd n : Nat) (v : BitVec 16), s.tw.sampling = true ∧
      s.tw.stepBegun = false ∧ n < 32 ∧ temps.getD n none = some v) ∧
    (∃ (s : State) (ns : Nat), s.tw.sampling = true ∧ (s.tw.din.look 6 (dinReset 6)).level = true) ∧
    (∃ (s : State) (n : Nat), s.time.ppsTick = some n ∧ n + 12000000 ≤ s.time.tick ∧ s.time.disc = .locked) ∧
    (∃ s : State, s.time.timeOutEn = true ∧ s.time.harbour % (1000000000 * 2 ^ 24) < s.time.rate.toNat) ∧
    (∃ (s : State) (v : Word), s.boot.ready = true ∧ s.pwr.dev ≠ .sleep) ∧
    (∃ (s : State) (d : Nat), s.ao.porReleased = true) ∧
    (∃ s : State, s.boot.ready = true ∧ s.tw.tripped = true ∧ s.allCool = true ∧ s.ao.pwrCut = false) :=
  ⟨⟨tw
     { sampling := true, seqRunning := some 0, stepBegun := true, seqCtrl := [(0, 0x40000000)], runSteps := [(0, 0xC00)] },
     0, 2048, by decide⟩,
   ⟨tw
     { sampling := true, seqRunning := some 0, stepBegun := true, seqCtrl := [(0, 0x40000000)], runSteps := [(0, 0x20C00)] },
     0, 2048, by decide⟩,
   ⟨tw { sampling := true, seqTrig := [(7, 1)] }, 7, by decide⟩,
   ⟨tw { sampling := true }, 7, 0xC0000000, by decide⟩,
   ⟨tw { sampling := true, timer := [(7, 0x8000000000000001)] }, 7, by decide⟩,
   ⟨{ tw { sampling := true } with time := { tick := 8000 } }, by decide⟩,
   ⟨tw { sampling := true }, by decide⟩,
   ⟨{ tw { sampling := true, chRoc := [(47, mkPair 0x10000)] } with time := { tick := 8000 } }, 47, by decide⟩,
   ⟨tw { sampling := true }, List.replicate 32 (some 2560), 2048, 0, 31, 2560, by decide⟩,
   ⟨tw { sampling := true, din := [(6, { level := true })] }, 1000, by decide⟩,
   ⟨{ up with time := { ppsTick := some 0, disc := .locked, tick := 12000000 } }, 0, by decide⟩,
   ⟨{ up with time := { timeOutEn := true, rate := 0x7D000000 } }, by decide⟩,
   ⟨up, 0xC0000000, by decide⟩,
   ⟨up, 7, by decide⟩,
   ⟨tw cool, by decide⟩⟩

/-- The hypotheses of each clause of TidewatchConfiguration are met. -/
theorem wit_tidewatchConfiguration :
    (∃ (s : State) (r : DWord) (l : List DWord), s.ao.hubOut = true ∧ s.boot.ready = true ∧ s.pwr.dev ≠ .sleep ∧
      s.tw.sampleFifo = r :: l) ∧
    (∃ s : State, s.ao.hubOut = true ∧ s.boot.ready = true ∧ s.pwr.dev ≠ .sleep ∧ s.tw.sampleFifo = []) ∧
    (∃ (s : State) (e : Word) (x : DWord) (l : List (Word × DWord)), s.ao.hubOut = true ∧ s.boot.ready = true ∧ s.pwr.dev ≠
      .sleep ∧ s.tw.trigFifo = (e, x) :: l) ∧
    (∃ (s : State) (n : Nat) (v : Word), n < 64 ∧ s.boot.ready = true) ∧
    (∃ (s : State) (n : Nat) (v : Word), n < 64 ∧ s.boot.ready = true ∧ s.pwr.dev ≠ .sleep ∧ v.getLsbD 31 = true ∧ ruleSrcOk
      v = false) ∧
    (∃ (s : State) (v : Word), s.boot.ready = true ∧ s.pwr.dev ≠ .sleep ∧ thermLimOk v = true) ∧
    (∃ (s : State) (v : Word), s.boot.ready = true ∧ s.pwr.dev ≠ .sleep ∧ thermLimOk v = false) ∧
    (∃ (s : State) (n k : Nat) (v : Word), n < 8 ∧ k < 32 ∧ s.boot.ready = true ∧ s.pwr.dev ≠ .sleep ∧ stCh v ≤ 47 ∧
      stFilter v < 6 ∧ stRecord v ≠ 3) ∧
    (∃ (s : State) (v : Word), s.boot.ready = true ∧ s.pwr.dev ≠ .sleep ∧ 10 ≤ v.toNat ∧ v.toNat ≤ 10000000) ∧
    (∃ (s : State) (q : QueueId) (p : Packet) (st i : Nat), s.Runs q 0x48 p ∧ (p.twValues.findSome? fun e => (twValueBad
      e.2.1 e.2.2).map fun st => (st, e.1)) = some (st, i)) ∧
    (∃ (s : State) (q : QueueId) (p : Packet), s.Runs q 0x48 p ∧ (∀ e ∈ p.twValues, twValueBad e.2.1 e.2.2 = none)) ∧
    (∃ (s : State) (q : QueueId) (p : Packet), s.Runs q 0x49 p ∧ p.f 20 1 = 0 ∧ p.f 16 2 ≠ 0x80 ∧ p.f 16 2 ≠ 0x90) :=
  ⟨⟨tw { sampleFifo := [5, 6] }, 5, [6], by decide⟩,
   ⟨up, by decide⟩,
   ⟨tw { trigFifo := [(5, 6)] }, 5, 6, [], by decide⟩,
   ⟨up, 63, 1, by decide⟩,
   ⟨up, 63, 0xFFFFFFFF, by decide⟩,
   ⟨up, 0x6C645F, by decide⟩,
   ⟨up, 0x6C6460, by decide⟩,
   ⟨up, 7, 31, 0xBC000000, by decide⟩,
   ⟨up, 10000000, by decide⟩,
   ⟨qs (pk 0x48 [4, 0, 1, 0, 0, 0, 0, 0, 9]), .admin 0, pk 0x48 [4, 0, 1, 0, 0, 0, 0, 0, 9], stBadParam, 0, ⟨by decide, by
     decide⟩, by decide⟩,
   ⟨qs (pk 0x48 [4, 0, 1, 0, 0, 0, 0, 0, 10]), .admin 0, pk 0x48 [4, 0, 1, 0, 0, 0, 0, 0, 10], ⟨by decide, by decide⟩, by
     decide⟩,
   ⟨qs (pk 0x49 [4, 0]), .admin 0, pk 0x49 [4, 0], ⟨by decide, by decide⟩, by decide⟩⟩

/-- The hypotheses of each clause of SleepAndSlices are met. -/
theorem wit_sleepAndSlices :
    (∃ s : State, s.awake = true ∧ s.idle = true ∧ (∀ n, n < 32 → s.partExists n = true → s.strict n = false)) ∧
    (∃ s : State, s.awake = true ∧ s.idle = true ∧ s.pwr.sleepPending ≠ []) ∧
    (∃ (s : State) (us : Nat) (failed : BitVec 8), s.pwr.dev = .sleep ∧ s.pwr.wakePending = true) ∧
    (∃ (s : State) (r : Option Retrain), s.pwr.dev = .deep ∧ s.pwr.wakePending = true) ∧
    (∃ (s : State) (failed : BitVec 8), s.awake = true ∧ s.pwr.hbmFail ≠ 0 ∧ s.pwr.hbmTries < 2) ∧
    (∃ (s : State) (n : Nat), n < 32 ∧ s.awake = true ∧ (s.slice n).st = .run ∧ s.allDoze n = true ∧ s.engineWork n = false
      ∧ s.keptUp n = false) ∧
    (∃ (s : State) (n : Nat), n < 32 ∧ s.awake = true ∧ (s.slice n).st = .doze ∧ (s.slice n).floor ≠ .doze ∧ s.resident n =
      false ∧ s.engineWork n = false ∧ s.targeted n = false ∧ s.keptUp n = false) ∧
    (∃ (s : State) (n : Nat), n < 32 ∧ s.awake = true ∧ (s.slice n).st = .nap ∧ ((s.slice n).floor = .off ∨ s.owner n =
      none) ∧ s.keptUp n = false ∧ (s.slice n).waking = false ∧ s.resident n = false ∧ s.engineWork n = false) ∧
    (∃ (s : State) (n : Nat), n < 32 ∧ s.awake = true ∧ (s.slice n).unavail = false ∧ s.owner n ≠ none ∧ (s.slice n).st ≠
      .run ∧ (s.slice n).waking = true) ∧
    (∃ (s : State) (n : Nat) (f : SliceSt), (s.slice n).prewoken = some f ∧ s.engineWork n = false ∧ s.resident n = false ∧
      s.held n = false) :=
  ⟨⟨up, by decide⟩,
   ⟨{ up with pwr := { dev := .awake, sleepPending := [4] } }, by decide⟩,
   ⟨{ up with pwr := { dev := .sleep, wakePending := true } }, 100, 0, by decide⟩,
   ⟨{ up with pwr := { dev := .deep, wakePending := true } }, none, by decide⟩,
   ⟨{ up with pwr := { dev := .awake, hbmFail := 1 } }, 0, by decide⟩,
   ⟨sl 31 { st := .run }, 31, by decide⟩,
   ⟨sl 31 { st := .doze }, 31, by decide⟩,
   ⟨sl 31 { st := .nap }, 31, by decide⟩,
   ⟨sl 0 { st := .nap, waking := true }, 0, by decide⟩,
   ⟨sl 31 { st := .run, prewoken := some .nap }, 31, .nap, by decide⟩⟩

/-- No code needs more than the highest voltage. -/
theorem wit_volts (s : State) (d : Nat) : s.codeUnder d 850 = 64 := by
  have h : ∀ c, s.voltage d c ≤ 850 := by intro c; simp only [State.voltage]; omega
  simp only [State.codeUnder, h, decide_true]
  decide

/-- The hypotheses of each clause of ClocksAndVoltages are met. -/
theorem wit_clocksAndVoltages :
    (∃ (s : State) (d c : Nat), d < 8 ∧ (s.die d).pllOn = true ∧ (s.die d).relocking = true ∧ (s.die d).back = false ∧
      (s.die d).change = some c ∧ c = s.allowed d ∧ c ≤ s.supported d ∧ c < (s.die d).code ∧ s.pmbOn d = true ∧ (s.die
      d).pmbFault = false) ∧
    (∃ (s : State) (d : Nat), d < 8 ∧ (s.die d).pllOn = true ∧ (s.die d).relocking = true ∧ (s.die d).relockFails < 2) ∧
    (∃ (s : State) (d : Nat), d < 8 ∧ (s.die d).pmbBusy = true ∧ (s.die d).pmbTries < 2) ∧
    (∃ (s : State) (d vout c : Nat), d < 8 ∧ (s.die d).pmbBusy = true ∧ (s.die d).pmbMode = true ∧ (s.die d).target ≤ vout +
      10 ∧ vout ≤ (s.die d).target + 10 ∧ (s.die d).pllOn = true ∧ (s.die d).relocking = false ∧ c = s.allowed d ∧ (s.die
      d).code < c ∧ c ≤ s.codeUnder d (s.die d).target) ∧
    (∃ (s : State) (d : Nat), d < 8 ∧ (s.die d).pmbBusy = true ∧ (s.die d).pmbTries = 2) ∧
    (∃ (s : State) (m : BitVec 8), 9 ≤ s.boot.stage ∧ s.asleep = false) ∧
    (∃ (s : State) (power d : Nat), s.awake = true ∧ s.pwr.limit.toNat * 10 < power ∧ bestBy (fun d => if (s.die d).pllOn
      then (s.die d).code else 0) (List.range 8) = some d ∧ (s.die d).pllOn = true ∧ (s.die d).code ≠ 0) ∧
    (∃ (s : State) (power : Nat), s.awake = true ∧ power ≤ s.pwr.limit.toNat * 10 ∧ s.pwr.limit.toNat * 10 * 95 ≤ power *
      100) :=
  ⟨⟨die0 { pllOn := true, code := 40, relocking := true, change := some 36, volt := 850, pmbCfg := 0x80000000 }, 0, 36, by decide, rfl,
     rfl, rfl, rfl, by decide, by rw [State.supported]; exact (wit_volts _ _).symm ▸ (by decide), by decide, by decide, rfl⟩,
   ⟨die0 { pllOn := true, code := 36, relocking := true }, 0, by decide⟩,
   ⟨die0 { pmbBusy := true, pmbTries := 1 }, 0, by decide⟩,
   ⟨die0 { pllOn := true, code := 20, pmbBusy := true, pmbMode := true, target := 850, change := some 36 }, 0, 860, 36, by decide, rfl,
     rfl, by decide, by decide, rfl, rfl, by decide, by decide, (wit_volts _ _).symm ▸ (by decide)⟩,
   ⟨die0 { pllOn := true, code := 36, pmbBusy := true, pmbTries := 2 }, 0, by decide⟩,
   ⟨up, 0xFF, by decide⟩,
   ⟨die0 { pllOn := true, code := 36 }, 7501, 0, by decide⟩,
   ⟨die0 { pllOn := true, code := 36 }, 7500, by decide⟩⟩

/-- The hypotheses of each clause of PowerPackets are met. -/
theorem wit_powerPackets :
    (∃ (s : State) (q : QueueId) (p : Packet), s.Runs q 0x40 p ∧ p.f 18 1 = 0 ∧ p.f 16 1 = 1) ∧
    (∃ (s : State) (q : QueueId) (p : Packet), s.Runs q 0x40 p ∧ p.f 18 1 = 0 ∧ p.f 16 1 = 2) ∧
    (∃ (s : State) (q : QueueId) (p : Packet), s.Runs q 0x40 p ∧ p.f 18 1 = 0 ∧ p.f 16 1 = 3 ∧ s.anyContext = false ∧
      s.mgmt.upd = .idle ∧ (∀ h ∈ s.pwr.holds, h.slices ≠ none)) ∧
    (∃ (s : State) (q : QueueId) (p : Packet), s.Runs q 0x40 p ∧ p.f 18 1 = 1 ∧ p.f 16 1 = 0x12) ∧
    (∃ (s : State) (q : QueueId) (p : Packet), s.Runs q 0x41 p) :=
  ⟨⟨qs (pk 0x40 [1, 0, 0]), .admin 0, pk 0x40 [1, 0, 0], ⟨by decide, by decide⟩, by decide⟩,
   ⟨qs (pk 0x40 [2, 0, 0]), .admin 0, pk 0x40 [2, 0, 0], ⟨by decide, by decide⟩, by decide⟩,
   ⟨qs (pk 0x40 [3, 0, 0]), .admin 0, pk 0x40 [3, 0, 0], ⟨by decide, by decide⟩, by decide⟩,
   ⟨qs (pk 0x40 [0x12, 0, 1]), .admin 0, pk 0x40 [0x12, 0, 1], ⟨by decide, by decide⟩, by decide⟩,
   ⟨qs (pk 0x41 []), .admin 0, pk 0x41 [], ⟨by decide, by decide⟩⟩⟩

/-- The hypotheses of each clause of QueueDoorbells are met. -/
theorem wit_queueDoorbells :
    (∃ (s : State) (q : QueueId) (put : Word), s.host.linkDown = false ∧ s.boot.ready = true ∧ (s.queue q).there = true ∧
      (put - (s.queue q).sqGet).toNat ≤ 2 ^ (s.queue q).sqLog ∧ (put - (s.queue q).sqPut).toNat ≤ 2 ^ (s.queue q).sqLog) ∧
    (∃ (s : State) (q : QueueId) (put : Word), s.host.linkDown = false ∧ s.boot.ready = true ∧ (s.queue q).there = true ∧ 2
      ^ (s.queue q).sqLog < (put - (s.queue q).sqGet).toNat) ∧
    (∃ (s : State) (q : QueueId) (get : Word), s.host.linkDown = false ∧ s.boot.ready = true ∧ (s.queue q).there = true ∧
      (get - (s.queue q).cqGet).toNat ≤ ((s.queue q).cqPut - (s.queue q).cqGet).toNat ∧ (s.queue q).late = []) ∧
    (∃ (s : State) (q : QueueId) (get : Word), s.host.linkDown = false ∧ s.boot.ready = true ∧ (s.queue q).there = true ∧
      ((s.queue q).cqPut - (s.queue q).cqGet).toNat < (get - (s.queue q).cqGet).toNat) :=
  ⟨⟨q0 { enabled := true, sqLog := 6, sqGet := 0xFFFFFFFF, sqPut := 0xFFFFFFFF }, .admin 0, 0x3F, by decide⟩,
   ⟨q0 { enabled := true, sqLog := 6 }, .admin 0, 65, by decide⟩,
   ⟨q0 { enabled := true, cqLog := 6, cqPut := 3, reserved := 3 }, .admin 0, 3, by decide⟩,
   ⟨q0 { enabled := true, cqLog := 6, cqPut := 3, reserved := 3 }, .admin 0, 4, by decide⟩⟩

/-- The hypotheses of each clause of QueueFetching are met. -/
theorem wit_queueFetching :
    (∃ (s : State) (a n : Nat) (slots : List Byte), s.pwr.dev = .awake ∧ (s.queue (.admin a)).mayFetch = true ∧ 1 ≤ n ∧ n ≤
      8 ∧ n ≤ ((s.queue (.admin a)).sqPut - (s.queue (.admin a)).sqGet).toNat ∧ field (s.slotBytes (s.queue (.admin a))
      (s.queue (.admin a)).sqGet 0 slots) 3 1 = n ∧ (∀ k, k < n → s.slotPoisoned (s.queue (.admin a)) ((s.queue (.admin
      a)).sqGet + BitVec.ofNat 32 k) = false)) ∧
    (∃ (s : State) (q : QueueId) (p : Packet), s.frontCheck q (s.queue q).seqExp p = none ∧ s.pwr.deepAccepted = false) ∧
    (∃ (s : State) (q : QueueId), (s.queue q).there = true ∧ (s.queue q).fetchErr = false ∧ s.awake = true) ∧
    (∃ (s : State) (q : QueueId) (p : Packet), s.orders = [(q, p)] ∧ p.arrival / 1000 < s.nowNs / 1000 ∧ s.q.own = [] ∧
      s.unfetched (p.arrival / 1000) = false) ∧
    (∃ (s : State) (a b : Order), s.orders = [a, b] ∧ a.2.arrival / 1000 = b.2.arrival / 1000 ∧ a.2.arrival / 1000 < s.nowNs
      / 1000 ∧ s.q.own = [] ∧ s.unfetched (a.2.arrival / 1000) = false ∧ beats b a = false ∧ a.2.pid ≠ b.2.pid ∧ conflicts
      a.2 b.2 = true) ∧
    (∃ (s : State) (p : Nat), p < 32 ∧ s.partExists p = true ∧ s.strict p = true ∧ s.nowNs / 1000 % 32 = p ∧ s.awake = true
      ∧ s.part.slot = none) :=
  ⟨⟨q0 { enabled := true, sqLog := 6, cqLog := 6, sqPut := 8 }, 0, 8, [1, 0xFE, 0, 8, 0, 0xFF], by decide⟩,
   ⟨q0 { enabled := true, sqLog := 6, cqLog := 6 }, .admin 0, pk 0x01 [], by decide⟩,
   ⟨q0 { enabled := true, sqLog := 6, cqLog := 6 }, .admin 0, by decide⟩,
   ⟨{ q0 { enabled := true, cqLog := 6, buffer := [{ pk 0x48 [] with granted := false }] } with time := { harbour := 1000 * 2 ^ 24 } },
     .admin 0, { pk 0x48 [] with granted := false }, by decide⟩,
   ⟨{ q0 { enabled := true, cqLog := 6, buffer := [{ pk 0x40 [1, 0, 0] with granted := false }, { pk 0x40 [2, 0, 0] with granted := false, pid := 8 }] } with time := { harbour := 1000 * 2 ^ 24 } },
     (.admin 0, { pk 0x40 [1, 0, 0] with granted := false }), (.admin 0,
     { pk 0x40 [2, 0, 0] with granted := false, pid := 8 }), by decide⟩,
   ⟨{ upP with part := { map := [(31, mkPair 0xC0000000)], slices := [(31, mkPair 1)] }, time := { harbour := 31000 * 2 ^ 24 } },
     31, by decide⟩⟩

/-- The hypotheses of each clause of QueuePackets are met. -/
theorem wit_queuePackets :
    (∃ (s : State) (a : Nat) (cfg : Word), s.boot.ready = true ∧ a < 32 ∧ (s.queue (.admin a)).enabled = false ∧ ringOk
      (bits cfg 0 5) = true ∧ ringOk (bits cfg 16 5) = true) ∧
    (∃ (s : State) (a : Nat) (cfg : Word), s.boot.ready = true ∧ a < 32 ∧ (s.queue (.admin a)).enabled = true ∧ ringOk (bits
      cfg 0 5) = true ∧ ringOk (bits cfg 16 5) = true) ∧
    (∃ (s : State) (q : QueueId) (p : Packet), s.Runs q 0x01 p) ∧
    (∃ (s : State) (q : QueueId) (p : Packet), s.Runs q 0x14 p ∧ p.f 16 1 = 0) ∧
    (∃ (s : State) (q : QueueId) (p : Packet) (k : Nat), s.Runs q 0x30 p ∧ p.f 40 2 = k ∧ k < 4080 ∧ ((s.take q p).objAt
      (queueEntry p.part k)).isFree = true ∧ (s.take q p).queueCount p.part < (s.take q p).queueLimit p.part) ∧
    (∃ (s : State) (q : QueueId) (p : Packet), s.Runs q 0x31 p ∧ ((s.take q p).objAt (handleKey (p.f 16 8))).ended = false ∧
      (s.take q p).badCounts [handleKey (p.f 16 8)] = []) ∧
    (∃ (s : State) (pid d : Nat) (i : Inflight), s.inflight pid = some i ∧ i.deadline = some d ∧ d ≤ s.nowNs ∧ i.answer =
      none ∧ i.pkt.op = 0x13) ∧
    (∃ (s : State) (pid d : Nat) (i : Inflight), s.inflight pid = some i ∧ i.deadline = some d ∧ d ≤ s.nowNs ∧ i.answer =
      none ∧ i.pkt.op = 0x40) :=
  ⟨⟨upP, 31, 0x100006, by decide⟩,
   ⟨q0 { enabled := true }, 0, 0x100006, by decide⟩,
   ⟨qs (pk 0x01 []), .admin 0, pk 0x01 [], ⟨by decide, by decide⟩⟩,
   ⟨qs (pk 0x14 [0]), .admin 0, pk 0x14 [0], ⟨by decide, by decide⟩, by decide⟩,
   ⟨qs (pk 0x30 (List.replicate 24 0 ++ [0xEF, 0x0F])), .admin 0, pk 0x30 (List.replicate 24 0 ++ [0xEF, 0x0F]), 4079, ⟨by
     decide, by decide⟩, by decide⟩,
   ⟨qo 0xFF000 { kind := .queue, live := true, gen := 1, body := .queue 0 } (pk 0x31 [0, 0xF0, 0x0F, 0, 1, 0, 0, 0x10]),
     .admin 0, pk 0x31 [0, 0xF0, 0x0F, 0, 1, 0, 0, 0x10], ⟨by decide, by decide⟩, by decide⟩,
   ⟨disp upP { q := .admin 0, pkt := pk 0x13 [], deadline := some 0 }, 7, 0,
     { q := .admin 0, pkt := pk 0x13 [], deadline := some 0 }, by decide⟩,
   ⟨disp upP { q := .admin 0, pkt := pk 0x40 [2], deadline := some 0 }, 7, 0,
     { q := .admin 0, pkt := pk 0x40 [2], deadline := some 0 }, by decide⟩⟩

/-- The hypotheses of each clause of Launches are met. -/
theorem wit_launches :
    (∃ (s x : State) (q : QueueId) (p : Packet) (host : HostMem) (c e : Nat), s.Runs q 0x02 p ∧ p.ctxKey.getD 0 = c ∧ p.f 24
      8 = e ∧ 64 ≤ e ∧ (s.take q p).accessFault c (e - 64) 64 .read host.refused = none ∧ ((s.take q p).settleLighter c (e -
      64) 64).meetEccVa c (e - 64) 64 host.ecc = x ∧ (x.readVa c (e - 64) 64 host.bytes).any Prod.snd = false) ∧
    (∃ (s : State) (p : Packet) (d : List Byte), descBad p d = none ∧ (mkLaunch p d (s.work.nextLaunch + 1)).ledgerNeed ≤
      0x800000 ∧ s.usableFor (mkLaunch p d (s.work.nextLaunch + 1)) ≠ []) ∧
    (∃ (s : State) (p : Packet) (d : List Byte) (off : Nat), descBad p d = some off) ∧
    (∃ (s : State) (n : Nat), (s.launch n).live = true ∧ (s.launch n).waitLedger = true ∧ (∀ e ∈ s.work.launch, e.2.part =
      (s.launch n).part → e.2.waitLedger = true → n ≤ e.1) ∧ s.ledgerFits (s.launch n) = true ∧ s.awake = true) ∧
    (∃ (s : State) (n sl : Nat) (cs : List Nat), (s.launch n).live = true ∧ (s.launch n).waitLedger = false ∧ s.awake = true
      ∧ s.tw.tripped = false ∧ (s.ctx (s.launch n).ctx).st = .live ∧ s.isFrozen (s.launch n).part = false ∧ (s.launch
      n).rerun = [] ∧ (s.launch n).replace = [] ∧ (s.launch n).nextCluster < (s.launch n).clusters ∧ s.chooseSlice (s.launch
      n) ((s.launch n).members (s.launch n).nextCluster).length = some (sl, cs)) ∧
    (∃ (s : State) (n : Nat), s.awake = true ∧ s.launchOver n = true ∧ (s.ctx (s.launch n).ctx).st = .live) :=
  ⟨⟨qc (pk 0x02 (hc ++ [0x40, 0, 0x20])), _, .admin 0, pk 0x02 (hc ++ [0x40, 0, 0x20]), hm0, _, _,
     ⟨by decide, by decide⟩, rfl, rfl, by decide, by decide, rfl, by decide⟩,
   ⟨withCtx upP, pk 0x02 (hc ++ [0x40, 0, 0x20, 0, 0, 0, 0, 0, 0, 0, 0, 0, 0, 0, 0, 0, 1, 0, 0, 0, 1, 0, 0, 0, 1, 0, 0, 0,
     32, 0, 1, 2, 0, 4, 0, 0]), [0x44, 0x53, 0x4B, 0x44, 1, 0, 1, 0, 0, 0, 1, 0, 2, 0, 0, 0, 0, 4] ++ List.replicate 46 0,
     by decide⟩,
   ⟨withCtx upP, pk 0x02 hc, [], 24, by decide⟩,
   ⟨lc { l0 with waitLedger := true }, 1, by decide⟩,
   ⟨lc l0, 1, 0, [0], by decide⟩,
   ⟨lc { l0 with nextCluster := 1 }, 1, by decide⟩⟩

/-- The hypotheses of each clause of MoverPackets are met. -/
theorem wit_moverPackets :
    (∃ (s : State) (q : QueueId) (p : Packet), s.Runs q 0x03 p ∧ (s.take q p).copyBad p = none ∧ (s.take q p).noMover p.part
      = false) ∧
    (∃ (s : State) (q : QueueId) (p : Packet) (off : Nat), s.Runs q 0x03 p ∧ (s.take q p).copyBad p = some off) ∧
    (∃ (s : State) (q : QueueId) (p : Packet), s.Runs q 0x04 p ∧ (s.take q p).noMover p.part = false) ∧
    (∃ (s : State) (q : QueueId) (p : Packet), s.Runs q 0x05 p ∧ convertBad p = none ∧ (s.take q p).noMover p.part = false) ∧
    (∃ (s : State) (q : QueueId) (p : Packet), s.Runs q 0x06 p ∧ (s.take q p).anyMap (p.ctxKey.getD 0) (p.f 32 8) (p.f 40 8
      / 32 * 48) Mapping.prot = false ∧ (s.take q p).noMover p.part = false) ∧
    (∃ (s : State) (q : QueueId) (p : Packet), s.Runs q 0x06 p ∧ (s.take q p).anyMap (p.ctxKey.getD 0) (p.f 32 8) (p.f 40 8
      / 32 * 48) Mapping.prot = true) ∧
    (∃ (s : State) (q : QueueId) (p : Packet), s.Runs q 0x07 p ∧ (s.take q p).noMover p.part = false) ∧
    (∃ (s : State) (q : QueueId) (p : Packet) (c : Instr), ((c = .fill q ∧ s.Runs q 0x04 p) ∨ (c = .unpack q ∧ s.Runs q 0x07
      p)) ∧ (s.take q p).noMover p.part = true) ∧
    (∃ (s : State) (core pid off n : Nat) (r : List MovWork) (host : HostMem), (s.coreAt core).mover = .piece pid off n :: r
      ∧ s.moverRuns core = true ∧ s.inflight pid = none) ∧
    (∃ (s : State) (core pid off n : Nat) (r : List MovWork) (host : HostMem) (i : Inflight), (s.coreAt core).mover = .piece
      pid off n :: r ∧ s.moverRuns core = true ∧ s.inflight pid = some i ∧ (∀ x ∈ pieceRanges i.pkt off n, s.vaKept
      (i.pkt.ctxKey.getD 0) x.1 x.2.1 (x.2.2 == .write) = false)) :=
  ⟨⟨qc (pk 0x03 (hc ++ [0, 0, 0x20, 0, 0, 0, 0, 0, 0, 0, 0x30, 0, 0, 0, 0, 0, 64])), .admin 0, pk 0x03 (hc ++ [0, 0, 0x20,
     0, 0, 0, 0, 0, 0, 0, 0x30, 0, 0, 0, 0, 0, 64]), ⟨by decide, by decide⟩, by decide⟩,
   ⟨qc (pk 0x03 (hc ++ [0, 0, 0x20, 0, 0, 0, 0, 0, 4, 0, 0x20, 0, 0, 0, 0, 0, 64])), .admin 0, pk 0x03 (hc ++ [0, 0, 0x20,
     0, 0, 0, 0, 0, 4, 0, 0x20, 0, 0, 0, 0, 0, 64]), 32, ⟨by decide, by decide⟩, by decide⟩,
   ⟨qc (pk 0x04 (hc ++ [0, 0, 0x20, 0, 0, 0, 0, 0, 1, 0, 0, 0, 0, 0, 0, 0, 64])), .admin 0, pk 0x04 (hc ++ [0, 0, 0x20, 0,
     0, 0, 0, 0, 1, 0, 0, 0, 0, 0, 0, 0, 64]), ⟨by decide, by decide⟩, by decide⟩,
   ⟨qc (pk 0x05 (hc ++ [0, 0, 0x20, 0, 0, 0, 0, 0, 0, 0, 0x30, 0, 0, 0, 0, 0, 64])), .admin 0, pk 0x05 (hc ++ [0, 0, 0x20,
     0, 0, 0, 0, 0, 0, 0, 0x30, 0, 0, 0, 0, 0, 64]), ⟨by decide, by decide⟩, by decide⟩,
   ⟨qc (pk 0x06 (hc ++ [0, 0, 0x20, 0, 0, 0, 0, 0, 0, 0, 0x30, 0, 0, 0, 0, 0, 64])), .admin 0, pk 0x06 (hc ++ [0, 0, 0x20,
     0, 0, 0, 0, 0, 0, 0, 0x30, 0, 0, 0, 0, 0, 64]), ⟨by decide, by decide⟩, by decide⟩,
   ⟨(qc (pk 0x06 (hc ++ [0, 0, 0x20, 0, 0, 0, 0, 0, 0, 0, 0x30, 0, 0, 0, 0, 0, 64]))).onObj fun o =>
     { o with ctx := [(objKey 0 1, { st := .live, maps := [{ va := 0x200000, len := 0x200000, page := 0, target := .dev 0x10000000, obj := none, attr := 0, prot := true, lighter := false, rd := true, wr := true, ex := true }] })] },
     .admin 0, pk 0x06 (hc ++ [0, 0, 0x20, 0, 0, 0, 0, 0, 0, 0, 0x30, 0, 0, 0, 0, 0, 64]), ⟨by decide, by decide⟩, by
     decide⟩,
   ⟨qc (pk 0x07 (hc ++ [0, 0, 0x20, 0, 0, 0, 0, 0, 0, 0, 0x30, 0, 0, 0, 0, 0, 64])), .admin 0, pk 0x07 (hc ++ [0, 0, 0x20,
     0, 0, 0, 0, 0, 0, 0, 0x30, 0, 0, 0, 0, 0, 64]), ⟨by decide, by decide⟩, by decide⟩,
   ⟨{ qc (pk 0x04 (hc ++ [0, 0, 0x20, 0, 0, 0, 0, 0, 1, 0, 0, 0, 0, 0, 0, 0, 64])) with core := { core := (List.range 24).map fun c => (c, { laid := .factory }) } },
     .admin 0, pk 0x04 (hc ++ [0, 0, 0x20, 0, 0, 0, 0, 0, 1, 0, 0, 0, 0, 0, 0, 0, 64]), .fill (.admin 0), .inl ⟨rfl, by decide, by decide⟩,
     by decide⟩,
   ⟨{ upP with core := { core := [(0, { mover := [.piece 7 0 64] })] } }, 0, 7, 0, 64, [],
     { refused := false, bytes := [] }, by decide⟩,
   ⟨{ disp (withCtx upP) { q := .admin 0, pkt := pk 0x04 (hc ++ [0, 0, 0x20]) } with core := { core := [(0, { mover := [.piece 7 0 64] })] } },
     0, 7, 0, 64, [], { refused := false, bytes := [] }, { q := .admin 0, pkt := pk 0x04 (hc ++ [0, 0, 0x20]) }, by
     decide⟩⟩

/-- The hypotheses of each clause of SyncAndEventPackets are met. -/
theorem wit_syncAndEventPackets :
    (∃ (s : State) (q : QueueId) (p : Packet), s.Runs q 0x10 p ∧ (s.take q p).isLocal (p.f 20 1) = true ∧ (s.take q p).owns
      p.part (objSlice (p.f 16 4 % 2 ^ 18)) = true) ∧
    (∃ (s : State) (q : QueueId) (p : Packet), s.Runs q 0x10 p ∧ (s.take q p).isLocal (p.f 20 1) = true ∧ (s.take q p).owns
      p.part (objSlice (p.f 16 4 % 2 ^ 18)) = false) ∧
    (∃ (s : State) (q : QueueId) (p : Packet), s.Runs q 0x11 p) ∧
    (∃ (s : State) (q : QueueId) (p : Packet), s.Runs q 0x12 p ∧ (s.take q p).isLocal (p.f 20 1) = true ∧ (s.take q p).owns
      p.part (objSlice (p.f 16 4 % 2 ^ 18)) = true) ∧
    (∃ (s : State) (q : QueueId) (p : Packet) (st : Nat), s.Runs q 0x12 p ∧ (s.take q p).isLocal (p.f 20 1) = false ∧
      (s.take q p).unreachable (p.f 20 1) = some st) ∧
    (∃ (s : State) (q : QueueId) (p : Packet), s.Runs q 0x13 p) ∧
    (∃ (s : State) (q : QueueId) (p : Packet), s.Runs q 0x15 p ∧ ((s.take q p).exportsOf p.part).any (fun x => x.1 ==
      p.event.2.2 && x.2 == hGen (p.f 24 8)) = true) ∧
    (∃ (s : State) (q : QueueId) (p : Packet), s.Runs q 0x16 p ∧ (tokenParts ((p.bytes.drop 24).take 16)).1 ≠ (s.take q
      p).tokenId.1) ∧
    (∃ (s : State) (q : QueueId) (p : Packet) (v : DWord), s.Runs q 0x16 p ∧ (tokenParts ((p.bytes.drop 24).take 16)).1 =
      (s.take q p).tokenId.1 ∧ (tokenParts ((p.bytes.drop 24).take 16)).2.1 = (s.take q p).tokenId.2 ∧ (s.take q
      p).verifyToken ((p.bytes.drop 24).take 16) = some v) ∧
    (∃ (s : State) (q : QueueId) (p : Packet), s.Runs q 0x17 p ∧ p.f 40 1 = 0) ∧
    (∃ (s : State) (q : QueueId) (p : Packet), s.Runs q 0x17 p ∧ p.f 40 1 = 1 ∧ (∀ b ∈ (s.take q p).obj.bindings, b.part ≠
      p.part)) ∧
    (∃ (s : State) (q : QueueId) (p : Packet) (b : Binding), s.Runs q 0x17 p ∧ p.f 40 1 = 2 ∧ (s.take q p).obj.bindings =
      [b] ∧ b.part = p.part ∧ b.event = p.event.2.2 ∧ b.word = p.f 32 8) ∧
    (∃ (s : State) (i : Importer) (v : DWord), s.awake = true ∧ s.obj.importers = [i] ∧ i.dev ≠ 0xFF ∧ s.eventValue (objKey
      i.part (i.event / 2 ^ 17)) (i.event % 2 ^ 17) = v ∧ i.last.toNat < v.toNat) ∧
    (∃ (s : State) (b : Binding) (v : DWord), s.awake = true ∧ s.obj.bindings = [b] ∧ s.eventValue (objKey b.part (b.event /
      2 ^ 17)) (b.event % 2 ^ 17) = v ∧ b.last.toNat < v.toNat) :=
  ⟨⟨qs (pk 0x10 [9, 0, 0, 0, 0xFF, 0, 0, 0, 1]), .admin 0, pk 0x10 [9, 0, 0, 0, 0xFF, 0, 0, 0, 1], ⟨by decide, by decide⟩,
     by decide⟩,
   ⟨qs (pk 0x10 [0, 0x10, 0, 0, 0xFF, 0, 0, 0, 1]), .admin 0, pk 0x10 [0, 0x10, 0, 0, 0xFF, 0, 0, 0, 1], ⟨by decide, by
     decide⟩, by decide⟩,
   ⟨qs (pk 0x11 [9, 0, 0, 0, 0, 0, 0, 0, 1]), .admin 0, pk 0x11 [9, 0, 0, 0, 0, 0, 0, 0, 1], ⟨by decide, by decide⟩⟩,
   ⟨qs (pk 0x12 [9, 0, 2, 0, 0xFF, 0, 0, 0, 1]), .admin 0, pk 0x12 [9, 0, 2, 0, 0xFF, 0, 0, 0, 1], ⟨by decide, by decide⟩,
     by decide⟩,
   ⟨(let s := qs (pk 0x12 [9, 0, 2, 0, 5, 0, 0, 0, 1]);
     { s with fleet := { own := .joined, devNum := some 0, dev := [(5, { st := .lost })] } }), .admin 0, pk 0x12 [9, 0, 2,
     0, 5, 0, 0, 0, 1], stPeerLost, ⟨by decide, by decide⟩, by decide⟩,
   ⟨qs (pk 0x13 [9, 0, 2, 0, 0, 0, 0, 0, 1]), .admin 0, pk 0x13 [9, 0, 2, 0, 0, 0, 0, 0, 1], ⟨by decide, by decide⟩⟩,
   ⟨qe (pk 0x15 (hc ++ he)), .admin 0, pk 0x15 (hc ++ he), ⟨by decide, by decide⟩, by decide⟩,
   ⟨qe (pk 0x16 (hc ++ [0, 0, 0, 0, 0, 0, 0, 0, 0, 0, 0, 0, 1])), .admin 0, pk 0x16 (hc ++ [0, 0, 0, 0, 0, 0, 0, 0, 0, 0,
     0, 0, 1]), ⟨by decide, by decide⟩, by decide⟩,
   ⟨qt, .admin 0, pk 0x16 (hc ++ mgr.token 0 1 0x40005), 0, ⟨rfl, by decide⟩, by decide, by decide, wit_token⟩,
   ⟨qe (pk 0x17 (hc ++ he)), .admin 0, pk 0x17 (hc ++ he), ⟨by decide, by decide⟩, by decide⟩,
   ⟨qe (pk 0x17 (hc ++ he ++ [0, 0x10, 0, 0, 0, 0, 0, 0, 1])), .admin 0, pk 0x17 (hc ++ he ++ [0, 0x10, 0, 0, 0, 0, 0, 0,
     1]), ⟨by decide, by decide⟩, by decide⟩,
   ⟨(qe (pk 0x17 (hc ++ he ++ [0, 0x10, 0, 0, 0, 0, 0, 0, 2]))).onObj fun o =>
     { o with bindings := [{ part := 0, event := 0x40005, word := 0x1000, fn := 0, last := 0 }] }, .admin 0, pk 0x17 (hc
     ++ he ++ [0, 0x10, 0, 0, 0, 0, 0, 0, 2]), { part := 0, event := 0x40005, word := 0x1000, fn := 0, last := 0 }, ⟨by
     decide, by decide⟩, by decide⟩,
   ⟨{ (mgr.onObj fun o => { o with tab := [(objKey 0 2, run)], importers := [{ part := 0, event := 0x40005, gen := 1, dev := 1, last := 0 }] }) with sync := { tally := [(5, { value := 3, nvalue := ~~~3 })] } },
     { part := 0, event := 0x40005, gen := 1, dev := 1, last := 0 }, 3, by decide⟩,
   ⟨{ (upP.onObj fun o => { o with tab := [(objKey 0 2, run)], bindings := [{ part := 0, event := 0x40005, word := 0x1000, fn := 0, last := 0 }] }) with sync := { tally := [(5, { value := 3, nvalue := ~~~3 })] } },
     { part := 0, event := 0x40005, word := 0x1000, fn := 0, last := 0 }, 3, by decide⟩⟩

/-- The hypotheses of each clause of MemoryAndObjectPackets are met. -/
theorem wit_memoryAndObjectPackets :
    (∃ (s : State) (q : QueueId) (p : Packet) (sl d i : Nat), s.Runs q 0x20 p ∧ (s.take q p).findPlace p.part (p.f 32 1) (2
      ^ p.f 33 1) (p.f 24 8) ((ones ((s.take q p).slicesOf p.part)).filter fun k => p.f 36 4 == 0 || (p.f 36 4).testBit k) =
      some (sl, d) ∧ (s.take q p).freeOther p.part = some i) ∧
    (∃ (s : State) (q : QueueId) (p : Packet), s.Runs q 0x20 p ∧ (s.take q p).findPlace p.part (p.f 32 1) (2 ^ p.f 33 1)
      (p.f 24 8) ((ones ((s.take q p).slicesOf p.part)).filter fun k => p.f 36 4 == 0 || (p.f 36 4).testBit k) = none) ∧
    (∃ (s : State) (q : QueueId) (p : Packet) (a b c d e : Nat), s.Runs q 0x21 p ∧ ((s.take q p).objAt (handleKey (p.f 16
      8))).body = .memory a b c d false e ∧ ((s.take q p).objAt (handleKey (p.f 16 8))).creation = true) ∧
    (∃ (s : State) (q : QueueId) (p : Packet), s.Runs q 0x21 p ∧ ((s.take q p).objAt (handleKey (p.f 16 8))).creation =
      false) ∧
    (∃ (s : State) (q : QueueId) (p : Packet), s.Runs q 0x24 p ∧ ((s.take q p).objAt (handleKey (p.f 16 8))).ended = false ∧
      (s.take q p).killedCtx (p.f 16 8) = false ∧ ((s.take q p).objAt (handleKey (p.f 16 8))).pairOk = true ∧ ((s.take q
      p).objAt (handleKey (p.f 16 8))).count ≠ 0 ∧ ((s.take q p).objAt (handleKey (p.f 16 8))).count ≠ 0xFFFFFFFF) ∧
    (∃ (s : State) (q : QueueId) (p : Packet), s.Runs q 0x24 p ∧ ((s.take q p).objAt (handleKey (p.f 16 8))).pairOk = false) ∧
    (∃ (s : State) (q : QueueId) (p : Packet), s.Runs q 0x25 p ∧ (s.take q p).killedCtx (p.f 16 8) = false ∧ (((s.take q
      p).objAt (handleKey (p.f 16 8))).pairOk = true → ((s.take q p).objAt (handleKey (p.f 16 8))).releasable = true)) ∧
    (∃ (s : State) (q : QueueId) (p : Packet), s.Runs q 0x25 p ∧ (s.take q p).killedCtx (p.f 16 8) = false ∧ ((s.take q
      p).objAt (handleKey (p.f 16 8))).pairOk = true ∧ ((s.take q p).objAt (handleKey (p.f 16 8))).releasable = false) ∧
    (∃ (s : State) (q : QueueId) (p : Packet), s.Runs q 0x26 p ∧ 0x240000000 < p.f 24 8 + p.f 32 8) ∧
    (∃ (s : State) (q : QueueId) (p : Packet), s.Runs q 0x26 p ∧ p.f 24 8 + p.f 32 8 ≤ 0x240000000 ∧ (∀ u ∈ (s.take q
      p).claimed p.part (p.f 16 1) 0, overlap (hbmBase (p.f 16 1) + p.f 24 8) (p.f 32 8) u.1 u.2 = false) ∧ (s.take q
      p).chandlerObjs (p.f 16 1) = []) ∧
    (∃ (s : State) (q : QueueId) (p : Packet) (u : Nat × Nat), s.Runs q 0x26 p ∧ p.f 24 8 + p.f 32 8 ≤ 0x240000000 ∧ u ∈
      (s.take q p).claimed p.part (p.f 16 1) 0 ∧ overlap (hbmBase (p.f 16 1) + p.f 24 8) (p.f 32 8) u.1 u.2 = true) :=
  ⟨⟨qc (pk 0x20 (hc ++ [0, 0, 1, 0, 0, 0, 0, 0, 0, 16])), .admin 0, pk 0x20 (hc ++ [0, 0, 1, 0, 0, 0, 0, 0, 0, 16]), 0,
     0x8000000, 32768, ⟨by decide, by decide⟩, by decide⟩,
   ⟨qc (pk 0x20 (hc ++ [0, 0, 0, 0x40, 2, 0, 0, 0, 0, 16])), .admin 0, pk 0x20 (hc ++ [0, 0, 0, 0x40, 2, 0, 0, 0, 0, 16]),
     ⟨by decide, by decide⟩, by decide⟩,
   ⟨qo 0x8000 mo (pk 0x21 hm), .admin 0, pk 0x21 hm, 0, 0x10000000, 0x10000, 0, 0, ⟨by decide, by decide⟩, by decide⟩,
   ⟨qo 0x8000 { mo with creation := false } (pk 0x21 hm), .admin 0, pk 0x21 hm, ⟨by decide, by decide⟩, by decide⟩,
   ⟨qo 0x8000 mo (pk 0x24 hm), .admin 0, pk 0x24 hm, ⟨by decide, by decide⟩, by decide⟩,
   ⟨qo 0x8000 { mo with ncount := 0 } (pk 0x24 hm), .admin 0, pk 0x24 hm, ⟨by decide, by decide⟩, by decide⟩,
   ⟨qo 0x8000 mo (pk 0x25 hm), .admin 0, pk 0x25 hm, ⟨by decide, by decide⟩, by decide⟩,
   ⟨qo 0x8000 { mo with creation := false } (pk 0x25 hm), .admin 0, pk 0x25 hm, ⟨by decide, by decide⟩, by decide⟩,
   ⟨qs (pk 0x26 [0, 0, 0, 0, 0, 0, 0, 0, 0, 0, 1, 0, 0, 0, 0, 0, 0, 0, 0, 0x40, 2]), .admin 0, pk 0x26 [0, 0, 0, 0, 0, 0,
     0, 0, 0, 0, 1, 0, 0, 0, 0, 0, 0, 0, 0, 0x40, 2], ⟨by decide, by decide⟩, by decide⟩,
   ⟨qs (pk 0x26 [0, 0, 0, 0, 0, 0, 0, 0, 0, 0, 0, 0x20, 0, 0, 0, 0, 0, 0, 1]), .admin 0, pk 0x26 [0, 0, 0, 0, 0, 0, 0, 0,
     0, 0, 0, 0x20, 0, 0, 0, 0, 0, 0, 1], ⟨by decide, by decide⟩, by decide⟩,
   ⟨qo 0x8000 mo (pk 0x26 [0, 0, 0, 0, 0, 0, 0, 0, 0, 0, 0, 0x10, 0, 0, 0, 0, 0, 0, 0x20]), .admin 0, pk 0x26 [0, 0, 0, 0, 0, 0, 0,
     0, 0, 0, 0, 0x10, 0, 0, 0, 0, 0, 0, 0x20], (0x10000000, 0x10000), ⟨by decide, by decide⟩, by decide⟩⟩

/-- The hypotheses of each clause of ContextPackets are met. -/
theorem wit_contextPackets :
    (∃ (s : State) (q : QueueId) (p : Packet) (off : Nat), s.Runs q 0x22 p ∧ (s.take q p).mapBad p = some off) ∧
    (∃ (s : State) (q : QueueId) (p : Packet), s.Runs q 0x22 p ∧ (s.take q p).mapBad p = none ∧ p.f 32 8 = 0 ∧ (p.f 57
      1).testBit 3 = false ∧ (s.take q p).tablesUsed p.part - tableCount ((s.take q p).mapsOf (objKey p.part (hIdx (p.f 16
      8)))) + tableCount ((s.take q p).mapsOf (objKey p.part (hIdx (p.f 16 8))) ++ [p.mapping (.host (p.f 40 8)) none]) ≤
      16384) ∧
    (∃ (s : State) (q : QueueId) (p : Packet), s.Runs q 0x23 p) ∧
    (∃ (s : State) (q : QueueId) (p : Packet) (i : Nat), s.Runs q 0x32 p ∧ (s.take q p).freeOther p.part = some i ∧ (s.take
      q p).ctxRoom p.part = true ∧ (s.take q p).tablesUsed p.part + tableCount ((s.take q p).windows (objKey p.part i)) ≤
      16384) ∧
    (∃ (s : State) (q : QueueId) (p : Packet), s.Runs q 0x32 p ∧ (s.take q p).ctxRoom p.part = false) ∧
    (∃ (s : State) (q : QueueId) (p : Packet), s.Runs q 0x33 p ∧ ((s.take q p).objAt (handleKey (p.f 16 8))).ended = false) ∧
    (∃ (s : State) (q : QueueId) (p : Packet), s.Runs q 0x33 p ∧ ((s.take q p).objAt (handleKey (p.f 16 8))).ended = true) ∧
    (∃ (s : State) (q : QueueId) (p : Packet) (i : Nat), s.Runs q 0x34 p ∧ (s.take q p).freeRun p.part = some i ∧ (∀ c, p.f
      24 4 ≤ c → c < p.f 24 4 + p.f 28 4 → (s.take q p).inOpenRun c = false ∧ ((s.take q p).tally c).waiters = [])) ∧
    (∃ (s : State) (q : QueueId) (p : Packet) (f n a : Nat) (l : List DWord) (e : Option MirrorOf), s.Runs q 0x35 p ∧
      ((s.take q p).objAt (handleKey (p.f 16 8))).body = .run f n true a l e ∧ (∀ c, f ≤ c → c < f + n → ((s.take q p).tally
      c).waiters = []) ∧ ((s.take q p).objAt (handleKey (p.f 16 8))).pairOk = true) :=
  ⟨⟨qc (pk 0x22 hc), .admin 0, pk 0x22 hc, 24, ⟨by decide, by decide⟩, by decide⟩,
   ⟨qc (pk 0x22 (hc ++ [0, 0, 0x80, 0, 0, 0, 0, 0, 0, 0, 0, 0, 0, 0, 0, 0, 0, 0, 1, 0, 0, 0, 0, 0, 0, 0, 1])), .admin 0,
     pk 0x22 (hc ++ [0, 0, 0x80, 0, 0, 0, 0, 0, 0, 0, 0, 0, 0, 0, 0, 0, 0, 0, 1, 0, 0, 0, 0, 0, 0, 0, 1]), ⟨by decide, by
     decide⟩, by decide⟩,
   ⟨qc (pk 0x23 (hc ++ [0, 0, 0x20, 0, 0, 0, 0, 0, 0, 0, 0x20])), .admin 0, pk 0x23 (hc ++ [0, 0, 0x20, 0, 0, 0, 0, 0, 0,
     0, 0x20]), ⟨by decide, by decide⟩⟩,
   ⟨{ qs (pk 0x32 [1]) with part := { map := [(0, mkPair 0x80000800)], slices := [(0, mkPair 1)] } }, .admin 0, pk 0x32
     [1], 32768, ⟨by decide, by decide⟩, by decide⟩,
   ⟨qs (pk 0x32 [1]), .admin 0, pk 0x32 [1], ⟨by decide, by decide⟩, by decide⟩,
   ⟨qc (pk 0x33 hc), .admin 0, pk 0x33 hc, ⟨by decide, by decide⟩, by decide⟩,
   ⟨qo 1 { kind := .context, live := true, gen := 1, ended := true } (pk 0x33 hc), .admin 0, pk 0x33 hc, ⟨by decide, by
     decide⟩, by decide⟩,
   ⟨qc (pk 0x34 (hc ++ [5, 0, 0, 0, 2])), .admin 0, pk 0x34 (hc ++ [5, 0, 0, 0, 2]), 0, ⟨by decide, by decide⟩, by decide⟩,
   ⟨qe (pk 0x35 [2, 0, 0, 0, 1, 0, 0, 0x14]), .admin 0, pk 0x35 [2, 0, 0, 0, 1, 0, 0, 0x14], 5, 2, objKey 0 1, [], none,
     ⟨by decide, by decide⟩, by decide⟩⟩

/-- The hypotheses of each clause of QueriesAndLog are met. -/
theorem wit_queriesAndLog :
    (∃ (s : State) (q : QueueId) (p : Packet), s.Runs q 0x70 p) ∧
    (∃ (s : State) (q : QueueId) (p : Packet), s.Runs q 0x70 p ∧ p.f 16 1 = 0) ∧
    (∃ (s : State) (q : QueueId) (p : Packet), s.Runs q 0x70 p ∧ p.f 16 1 = 1) ∧
    (∃ (s : State) (q : QueueId) (p : Packet), s.Runs q 0x70 p ∧ p.f 16 1 = 2) ∧
    (∃ (s : State) (q : QueueId) (p : Packet), s.Runs q 0x70 p ∧ p.f 16 1 = 3) ∧
    (∃ (s : State) (q : QueueId) (p : Packet), s.Runs q 0x70 p ∧ p.f 16 1 = 4) ∧
    (∃ (s : State) (q : QueueId) (p : Packet), s.Runs q 0x70 p ∧ p.f 16 1 = 5) ∧
    (∃ (s : State) (q : QueueId) (p : Packet), s.Runs q 0x70 p ∧ p.f 16 1 = 6) ∧
    (∃ (s : State) (q : QueueId) (p : Packet), s.Runs q 0x70 p ∧ p.f 16 1 = 7) ∧
    (∃ (s : State) (q : QueueId) (p : Packet) (l : List LogEntry) (e : LogEntry), s.Runs q 0x71 p ∧ p.f 24 4 < 2 ^ 31 ∧
      (s.take q p).logPick q (p.f 24 4) (p.f 28 2) = l ∧ l.getLast? = some e) ∧
    (∃ (s : State) (q : QueueId) (p : Packet), s.Runs q 0x71 p ∧ p.f 24 4 < 2 ^ 31 ∧ (s.take q p).logPick q (p.f 24 4) (p.f
      28 2) = []) ∧
    (∃ (s : State) (v : Word), s.boot.ready = true ∧ s.asleep = false ∧ precedes s.log.next v.toNat = false) ∧
    (∃ (s : State) (v : Word), s.boot.ready = true ∧ precedes s.hostWake.log.next v.toNat = true) ∧
    (∃ (s : State) (v : Word), s.ao.hubOut = true ∧ s.asleep = false) ∧
    (∃ (s : State) (n : Nat) (v : BitVec 3), n < 32 ∧ s.boot.ready = true ∧ s.host.vfEnable = true ∧ s.asleep = false) :=
  ⟨⟨qs (pk 0x70 [0]), .admin 0, pk 0x70 [0], ⟨by decide, by decide⟩⟩,
   ⟨qs (pk 0x70 [0]), .admin 0, pk 0x70 [0], ⟨by decide, by decide⟩, by decide⟩,
   ⟨qs (pk 0x70 [1]), .admin 0, pk 0x70 [1], ⟨by decide, by decide⟩, by decide⟩,
   ⟨qs (pk 0x70 [2]), .admin 0, pk 0x70 [2], ⟨by decide, by decide⟩, by decide⟩,
   ⟨qs (pk 0x70 [3]), .admin 0, pk 0x70 [3], ⟨by decide, by decide⟩, by decide⟩,
   ⟨qs (pk 0x70 [4]), .admin 0, pk 0x70 [4], ⟨by decide, by decide⟩, by decide⟩,
   ⟨qs (pk 0x70 [5]), .admin 0, pk 0x70 [5], ⟨by decide, by decide⟩, by decide⟩,
   ⟨qs (pk 0x70 [6]), .admin 0, pk 0x70 [6], ⟨by decide, by decide⟩, by decide⟩,
   ⟨qs (pk 0x70 [7]), .admin 0, pk 0x70 [7], ⟨by decide, by decide⟩, by decide⟩,
   ⟨{ qs (pk 0x71 [0, 0, 1, 0, 0, 0, 0, 0, 0, 0, 0, 0, 4]) with log := { entries := [{ seq := 0, time := 0, event := 0x102, gap := false, sev := 2, part := some 0, tag := 0, unit := 0xFFF, code := 0, addr := 0, payload := [] }], next := 1 } },
     .admin 0, pk 0x71 [0, 0, 1, 0, 0, 0, 0, 0, 0, 0, 0, 0, 4],
     [{ seq := 0, time := 0, event := 0x102, gap := false, sev := 2, part := some 0, tag := 0, unit := 0xFFF, code := 0, addr := 0, payload := [] }],
     { seq := 0, time := 0, event := 0x102, gap := false, sev := 2, part := some 0, tag := 0, unit := 0xFFF, code := 0, addr := 0, payload := [] },
     ⟨by decide, by decide⟩, by decide⟩,
   ⟨qs (pk 0x71 [0, 0, 1, 0, 0, 0, 0, 0, 0, 0, 0, 0, 4]), .admin 0, pk 0x71 [0, 0, 1, 0, 0, 0, 0, 0, 0, 0, 0, 0, 4],
     ⟨by decide, by decide⟩, by decide⟩,
   ⟨up, 0, by decide⟩,
   ⟨up, 1, by decide⟩,
   ⟨up, 3, by decide⟩,
   ⟨{ up with host := { vfEnable := true } }, 31, 5, by decide⟩⟩

/-- An NVM_WRITE of one byte to record 0x100. -/
def nw : Packet := pk 0x69 ([0, 1] ++ List.replicate 14 0 ++ [1])

/-- The hypotheses of each clause of RecordStore are met. -/
theorem wit_recordStore :
    (∃ (s : State) (q : QueueId) (p : Packet) (j : Nat), s.Runs q 0x68 p ∧ (s.take q p).newest (p.f 16 4) = some j) ∧
    (∃ (s : State) (q : QueueId) (p : Packet), s.Runs q 0x68 p ∧ (s.take q p).newest (p.f 16 4) = none) ∧
    (∃ (s : State) (q : QueueId) (p : Packet) (d : List (Option Byte)) (l : List Byte), s.Runs q 0x69 p ∧ s.nvm.queue.length
      < 16 ∧ s.nvm.refusing = false ∧ ((List.range (p.f 32 4)).map fun i => d.getD i none) = l.map some) ∧
    (∃ (s : State) (q : QueueId) (p : Packet) (d : List (Option Byte)) (k : Nat), s.Runs q 0x69 p ∧ s.nvm.queue.length < 16
      ∧ s.nvm.refusing = false ∧ k < p.f 32 4 ∧ d.getD k none = none ∧ (∀ i, i < k → (d.getD i none).isSome = true)) ∧
    (∃ (s : State) (q : QueueId) (p : Packet) (d : List (Option Byte)), s.Runs q 0x69 p ∧ s.nvm.queue.length < 16 ∧
      s.nvm.refusing = true) ∧
    (∃ (s : State) (w : NvmWrite) (j : Nat) (r : Bool), s.nvm.slotBusy = none ∧ s.nvm.slotJobs = [] ∧ s.nvm.cur = some (w,
      j, .erase, r)) ∧
    (∃ (s : State) (b : Bool) (w : NvmWrite) (j n : Nat) (r : Bool), s.nvm.slotBusy = none ∧ s.nvm.slotJobs = [] ∧
      s.nvm.stop = false ∧ s.nvm.cur = some (w, j, .page n, r)) ∧
    (∃ (s : State) (b : Bool) (w : NvmWrite) (j : Nat) (r : Bool), s.nvm.slotBusy = none ∧ s.nvm.slotJobs = [] ∧ s.nvm.stop
      = false ∧ s.nvm.cur = some (w, j, .hdr, r)) ∧
    (∃ (s : State) (w : NvmWrite) (j pid : Nat) (r : Bool), s.nvm.slotBusy = none ∧ s.nvm.slotJobs = [] ∧ s.nvm.stop = false
      ∧ s.nvm.cur = some (w, j, .marker, r) ∧ w.why = .packet pid) ∧
    (∃ (s : State) (w : NvmWrite) (j : Nat), s.nvm.slotBusy = none ∧ s.nvm.slotJobs = [] ∧ s.nvm.stop = false ∧ s.nvm.cur =
      some (w, j, .marker, false)) ∧
    (∃ (s : State) (w : NvmWrite) (j pid : Nat), s.nvm.slotBusy = none ∧ s.nvm.slotJobs = [] ∧ s.nvm.stop = false ∧
      s.nvm.cur = some (w, j, .marker, true) ∧ w.why = .packet pid) :=
  ⟨⟨qs (pk 0x68 [0]), .admin 0, pk 0x68 [0], 0, ⟨by decide, by decide⟩, by decide⟩,
   ⟨qs (pk 0x68 [5]), .admin 0, pk 0x68 [5], ⟨by decide, by decide⟩, by decide⟩,
   ⟨qs nw, .admin 0, nw, [some 7], [7], ⟨by decide, by decide⟩, by decide⟩,
   ⟨qs nw, .admin 0, nw, [], 0, ⟨by decide, by decide⟩, by decide, by decide, by decide, rfl, fun _ h => absurd h (Nat.not_lt_zero _)⟩,
   ⟨{ qs nw with nvm := { refusing := true } }, .admin 0, nw, [some 7], ⟨by decide, by decide⟩, by decide⟩,
   ⟨{ up with nvm := { cur := some ({ rec_ := 1, data := [1, 2], why := .internal }, 1, .erase, false) } },
     { rec_ := 1, data := [1, 2], why := .internal }, 1, false, by decide⟩,
   ⟨{ up with nvm := { cur := some ({ rec_ := 1, data := [1, 2], why := .internal }, 1, .page 1, false) } }, true,
     { rec_ := 1, data := [1, 2], why := .internal }, 1, 1, false, by decide⟩,
   ⟨{ up with nvm := { cur := some ({ rec_ := 1, data := [1, 2], why := .internal }, 1, .hdr, false) } }, true,
     { rec_ := 1, data := [1, 2], why := .internal }, 1, false, by decide⟩,
   ⟨{ up with nvm := { cur := some ({ rec_ := 1, data := [1, 2], why := .packet 7 }, 1, .marker, false) } },
     { rec_ := 1, data := [1, 2], why := .packet 7 }, 1, 7, false, by decide⟩,
   ⟨{ up with nvm := { cur := some ({ rec_ := 1, data := [1, 2], why := .internal }, 1, .marker, false) } },
     { rec_ := 1, data := [1, 2], why := .internal }, 1, by decide⟩,
   ⟨{ up with nvm := { cur := some ({ rec_ := 1, data := [1, 2], why := .packet 7 }, 1, .marker, true) } },
     { rec_ := 1, data := [1, 2], why := .packet 7 }, 1, 7, by decide⟩⟩

/-- The hypotheses of each clause of PartitionPackets are met. -/
theorem wit_partitionPackets :
    (∃ (s : State) (q : QueueId) (p : Packet), s.Runs q 0x50 p ∧ (s.take q p).partExists p.part = true) ∧
    (∃ (s : State) (q : QueueId) (p : Packet), s.Runs q 0x50 p ∧ (s.take q p).partExists p.part = false ∧ (∀ k, k < 32 →
      (BitVec.ofNat 32 (p.f 16 4)).getLsbD k = true → (s.take q p).owner k = none ∧ s.boot.avail.getLsbD k = true ∧ ((s.take
      q p).slice k).unavail = false ∧ s.part.scrub.getLsbD k = false) ∧ p.f 20 1 = 0) ∧
    (∃ (s : State) (q : QueueId) (p : Packet), s.Runs q 0x51 p ∧ (s.take q p).partExists p.part = false) ∧
    (∃ (s : State) (q : QueueId) (p : Packet), s.Runs q 0x51 p ∧ (s.take q p).partExists p.part = true) ∧
    (∃ (s : State) (n pid : Nat) (m : Word), s.awake = true ∧ s.part.scrubbing = [(n, pid, m)]) ∧
    (∃ (s : State) (q : QueueId) (p : Packet), s.Runs q 0x52 p) :=
  ⟨⟨qs (pk 0x50 [1]), .admin 0, pk 0x50 [1], ⟨by decide, by decide⟩, by decide⟩,
   ⟨qs (p1 0x50 [2]), .admin 0, p1 0x50 [2], ⟨by decide, by decide⟩, by decide⟩,
   ⟨qs (p1 0x51 []), .admin 0, p1 0x51 [], ⟨by decide, by decide⟩, by decide⟩,
   ⟨qs (pk 0x51 []), .admin 0, pk 0x51 [], ⟨by decide, by decide⟩, by decide⟩,
   ⟨{ upP with part := { scrub := 6, scrubbing := [(1, 7, 2)] } }, 1, 7, 2, by decide⟩,
   ⟨qs (pk 0x52 []), .admin 0, pk 0x52 [], ⟨by decide, by decide⟩⟩⟩

/-- The hypotheses of each clause of CoreAndFleetPackets are met. -/
theorem wit_coreAndFleetPackets :
    (∃ (s : State) (q : QueueId) (p : Packet), s.Runs q 0x58 p ∧ p.f 18 1 = 0 ∧ ((s.take q p).coreAt (p.f 16 2)).laid = .no) ∧
    (∃ (s : State) (q : QueueId) (p : Packet), s.Runs q 0x58 p ∧ p.f 18 1 = 0 ∧ ((s.take q p).coreAt (p.f 16 2)).laid ≠ .no) ∧
    (∃ (s : State) (q : QueueId) (p : Packet), s.Runs q 0x59 p ∧ (s.coreAt (p.f 16 2)).laid = .field ∧ (s.coreAt (p.f 16
      2)).persist = false) ∧
    (∃ (s : State) (q : QueueId) (p : Packet) (b : Bool), s.Runs q 0x59 p ∧ (s.coreAt (p.f 16 2)).laid ≠ .field) ∧
    (∃ (s : State) (c : Nat), c < 768 ∧ s.coreOn c = true ∧ 10 ≤ s.boot.stage) ∧
    (∃ (s : State) (c : Nat), c < 768 ∧ s.coreOn c = true ∧ 10 ≤ s.boot.stage ∧ (s.coreAt c).corrected ≠ 0 ∧ (s.coreAt
      c).corrected < 255 ∧ s.nowNs - (s.coreAt c).corrFrom < dayNs) ∧
    (∃ (s : State) (q : QueueId) (p : Packet), s.Runs q 0x60 p ∧ (s.take q p).unreachable (p.f 16 1) = none) ∧
    (∃ (s : State) (q : QueueId) (p : Packet) (st : Nat), s.Runs q 0x60 p ∧ (s.take q p).unreachable (p.f 16 1) = some st) ∧
    (∃ (s : State) (q : QueueId) (p : Packet), s.Runs q 0x61 p ∧ s.fleet.bar.phase ≠ .idle) ∧
    (∃ (s : State) (q : QueueId) (p : Packet), s.Runs q 0x61 p ∧ s.fleet.bar.phase = .idle) ∧
    (∃ (s : State) (q : QueueId) (p : Packet), s.Runs q 0x62 p) :=
  ⟨⟨qs (pk 0x58 [5]), .admin 0, pk 0x58 [5], ⟨by decide, by decide⟩, by decide⟩,
   ⟨(qs (pk 0x58 [5])).onCoreAt 5 (fun c => { c with laid := .field }), .admin 0, pk 0x58 [5], ⟨by decide, by decide⟩, by
     decide⟩,
   ⟨(qs (pk 0x59 [5])).onCoreAt 5 (fun c => { c with laid := .field, cause := 1 }), .admin 0, pk 0x59 [5], ⟨by decide, by
     decide⟩, by decide⟩,
   ⟨qs (pk 0x59 [5]), .admin 0, pk 0x59 [5], true, ⟨by decide, by decide⟩, by decide⟩,
   ⟨upP, 767, by decide⟩,
   ⟨upP.onCoreAt 767 (fun c => { c with corrected := 254 }), 767, by decide⟩,
   ⟨(qm (fwd 1)).onFleet fun f => { f with route := [(1, 0)] }, .admin 0, fwd 1, ⟨by decide, by decide⟩, by decide⟩,
   ⟨qm (fwd 2), .admin 0, fwd 2, stPeerLost, ⟨by decide, by decide⟩, by decide⟩,
   ⟨(qm (pk 0x61 [9])).onFleet fun f => { f with bar := { phase := .open_ } }, .admin 0, pk 0x61 [9], ⟨by decide, by
     decide⟩, by decide⟩,
   ⟨qm (pk 0x61 [9]), .admin 0, pk 0x61 [9], ⟨by decide, by decide⟩, by decide⟩,
   ⟨qm (pk 0x62 []), .admin 0, pk 0x62 [], ⟨by decide, by decide⟩⟩⟩

/-- `qc` without slice 0. -/
def gone (p : Packet) : State := { qc p with pwr := { dev := .awake, slice := [(0, { unavail := true })] } }
/-- A CIM_EXEC of one vector and one macro. -/
def ce : Packet := pk 0x09 (hc ++ [0, 0, 0x20, 0, 0, 0, 0, 0, 0, 0, 0x30, 0, 0, 0, 0, 0, 0, 0, 1, 0, 0, 0, 1, 0, 1])

/-- The hypotheses of each clause of CimPackets are met. -/
theorem wit_cimPackets :
    (∃ (s : State) (q : QueueId) (p : Packet), s.Runs q 0x08 p ∧ ((s.take q p).slice (p.f 36 1 * 4 + p.f 32 2 /
      2048)).unavail = true) ∧
    (∃ (s : State) (q : QueueId) (p : Packet), s.Runs q 0x08 p ∧ ((s.take q p).slice (p.f 36 1 * 4 + p.f 32 2 /
      2048)).unavail = false) ∧
    (∃ (s x : State) (pid c va n : Nat) (host : HostMem) (l : CimLoad) (i : Inflight) (d : List (Byte × Bool)),
      s.cim.loads.find? (fun l => l.pid == pid) = some l ∧ s.inflight pid = some i ∧ s.awake = true ∧ s.tw.tripped = false ∧
      s.loadWaits l = false ∧ i.pkt.ctxKey.getD 0 = c ∧ i.pkt.f 24 8 = va ∧ l.count * 65536 = n ∧ s.vaKept c va n false =
      false ∧ s.accessFault c va n .read host.refused = none ∧ (s.settleLighter c va n).meetEccVa c va n host.ecc = x ∧
      x.readVa c va n host.bytes = d ∧ firstPoison d = none) ∧
    (∃ (s : State) (pid code a : Nat) (host : HostMem) (l : CimLoad) (i : Inflight), s.cim.loads.find? (fun l => l.pid ==
      pid) = some l ∧ s.inflight pid = some i ∧ s.awake = true ∧ s.tw.tripped = false ∧ s.loadWaits l = false ∧ s.vaKept
      (i.pkt.ctxKey.getD 0) (i.pkt.f 24 8) (l.count * 65536) false = false ∧ s.accessFault (i.pkt.ctxKey.getD 0) (i.pkt.f 24
      8) (l.count * 65536) .read host.refused = some (code, a)) ∧
    (∃ (s : State) (q : QueueId) (p : Packet), s.Runs q 0x09 p ∧ ((s.take q p).slice (4 * p.f 44 1 + p.f 40 2 /
      2048)).unavail = true) ∧
    (∃ (s : State) (q : QueueId) (p : Packet), s.Runs q 0x09 p ∧ ((s.take q p).slice (4 * p.f 44 1 + p.f 40 2 /
      2048)).unavail = false) ∧
    (∃ (s : State) (q : QueueId) (p : Packet), s.Runs q 0x0A p ∧ p.f 17 1 = 0 ∧ p.f 16 1 < 8) ∧
    (∃ (s : State) (q : QueueId) (p : Packet), s.Runs q 0x0A p ∧ p.f 17 1 = 1 ∧ (s.take q p).slicesOf p.part = 0) :=
  ⟨⟨gone (pk 0x08 (hc ++ [0, 0, 0x20, 0, 0, 0, 0, 0, 0, 0, 2])), .admin 0, pk 0x08 (hc ++ [0, 0, 0x20, 0, 0, 0, 0, 0, 0, 0,
     2]), ⟨by decide, by decide⟩, by decide⟩,
   ⟨qc (pk 0x08 (hc ++ [0, 0, 0x20, 0, 0, 0, 0, 0, 0, 0, 2])), .admin 0, pk 0x08 (hc ++ [0, 0, 0x20, 0, 0, 0, 0, 0, 0, 0,
     2]), ⟨by decide, by decide⟩, by decide⟩,
   ⟨cl, cl.settleLighter (objKey 0 1) 0x200000 65536, 7, objKey 0 1, 0x200000, 65536, { bytes := [], refused := false },
     { pid := 7, die := 0, first := 0, count := 1 },
     { q := .admin 0, pkt := pk 0x08 (hc ++ [0, 0, 0x20, 0, 0, 0, 0, 0, 0, 0, 1]), ctx := some (objKey 0 1) },
     (cl.settleLighter (objKey 0 1) 0x200000 65536).readVa (objKey 0 1) 0x200000 65536 [], by decide, by decide, by
     decide, by decide, by decide, by decide, by decide, rfl, by decide, by decide, rfl, rfl, wit_clean⟩,
   ⟨ifl (pk 0x08 (hc ++ [0, 0, 0x90])) { loads := [{ pid := 7, die := 0, first := 0, count := 2 }] }, 7, 4, 0x900000,
     { bytes := [], refused := false }, { pid := 7, die := 0, first := 0, count := 2 },
     { q := .admin 0, pkt := pk 0x08 (hc ++ [0, 0, 0x90]), ctx := some (objKey 0 1) }, by decide⟩,
   ⟨gone ce, .admin 0, ce, ⟨by decide, by decide⟩, by decide⟩,
   ⟨qc ce, .admin 0, ce, ⟨by decide, by decide⟩, by decide⟩,
   ⟨qs (pk 0x0A [0]), .admin 0, pk 0x0A [0], ⟨by decide, by decide⟩, by decide⟩,
   ⟨(qs (pk 0x0A [0, 1])).onPart fun x => { x with slices := [(0, mkPair 0)] }, .admin 0, pk 0x0A [0, 1], ⟨by decide, by
     decide⟩, by decide⟩⟩

/-- The hypotheses of each clause of CimOperations are met. -/
theorem wit_cimOperations :
    (∃ (s : State) (d : Nat) (o : CimOp), d < 8 ∧ s.awake = true ∧ s.tw.tripped = false ∧ s.cimGrant d (s.cimRound d) = some
      o ∧ o.npart = ~~~(BitVec.ofNat 8 o.part) ∧ s.owns o.part o.slice = true ∧ s.isFrozen o.part = false) ∧
    (∃ (s : State) (d : Nat) (o : CimOp), d < 8 ∧ s.awake = true ∧ s.tw.tripped = false ∧ s.cimGrant d (s.cimRound d) = some
      o ∧ (o.npart ≠ ~~~(BitVec.ofNat 8 o.part) ∨ s.owns o.part o.slice = false ∨ s.isFrozen o.part = true)) ∧
    (∃ (s : State) (g ud us : Nat), s.canIssue g = true ∧ firstFault ((s.issued g).mvmChecks g ud us) = none ∧
      (s.cim.queue.look (4 * dieOf (sliceOf (gCore g)) + field (s.localBytes g ((s.gang g).uReg us).toNat 16) 0 2 / 2048)
      []).length < 32) ∧
    (∃ (s x : State) (sl g b ud : Nat) (host : HostMem) (o : CimOp), s.cim.running.find sl = some o ∧ s.awake = true ∧
      s.tw.tripped = false ∧ o.owner = .gang g b ud ∧ o.time = false ∧ s.meetEcc host.ecc [(macroBase o.die o.macro_,
      o.count * 65536)] = x ∧ x.mvmWaits o = true) ∧
    (∃ (s x : State) (sl g b ud : Nat) (host : HostMem) (o : CimOp), s.cim.running.find sl = some o ∧ s.awake = true ∧
      s.tw.tripped = false ∧ o.owner = .gang g b ud ∧ s.meetEcc host.ecc [(macroBase o.die o.macro_, o.count * 65536)] = x ∧
      x.mvmWaits o = false) ∧
    (∃ (s w x : State) (sl pid : Nat) (host : HostMem) (o : CimOp), s.cim.running.find sl = some o ∧ s.awake = true ∧
      s.tw.tripped = false ∧ o.owner = .packet pid ∧ s.vaKept o.ctx o.inVa (256 * o.rowgrp) false = false ∧ s.vaKept o.ctx
      o.outVa (o.groups * 1024) true sl = false ∧ s.meetEcc host.ecc [(macroBase o.die o.macro_, o.count * 65536)] = w ∧
      w.accessFault o.ctx o.inVa (256 * o.rowgrp) .read host.refused = none ∧ w.accessFault o.ctx o.outVa (o.groups * 1024)
      .write host.refused = none ∧ (w.settleLighter o.ctx o.inVa (256 * o.rowgrp)).meetEccVa o.ctx o.inVa (256 * o.rowgrp)
      host.ecc = x ∧ firstPoison (x.readVa o.ctx o.inVa (256 * o.rowgrp) host.bytes) = none ∧ x.macroBad o = false) :=
  ⟨⟨upP.onCim fun c => { c with queue := [(0, [cop (.gang 0 1 5) 0 256])] }, 0, cop (.gang 0 1 5) 0 256, by decide⟩,
   ⟨upP.onCim fun c => { c with queue := [(0, [{ cop (.gang 0 1 5) 0 256 with npart := 0 }])] }, 0,
     { cop (.gang 0 1 5) 0 256 with npart := 0 }, by decide⟩,
   ⟨(kst.onCoreAt 0 fun c => { c with loc := desc }), 0, 5, 6, by decide⟩,
   ⟨(kg fun g => { g with wait := .cim }).onCim fun c => { c with running := [(0, cop (.gang 0 1 5) 0 256)], active := [(0, 1)] }, _, 0, 0, 1, 5,
     hm0, cop (.gang 0 1 5) 0 256, by decide, by decide, by decide, rfl, rfl, rfl, by decide⟩,
   ⟨kst.onCim fun c => { c with running := [(0, cop (.gang 0 1 5) 0 256)], active := [(0, 1)] }, _, 0, 0, 1, 5,
     hm0, cop (.gang 0 1 5) 0 256, by decide, by decide, by decide, rfl, rfl, by decide⟩,
   ⟨ifl ce { running := [(0, cop (.packet 7) 0x200000 0x300000)], active := [(0, 1)], execs := [{ pid := 7, behind := [], left := 0, ops := 0, stale := false, lost := none }] },
     _, _, 0, 7, hm0, cop (.packet 7) 0x200000 0x300000, by decide, by decide, by decide, rfl, by decide, by decide, rfl, by decide, by decide,
     rfl, by decide, by decide⟩⟩

/-- The hypotheses of each clause of CalibrationAndScrub are met. -/
theorem wit_calibrationAndScrub :
    (∃ (s : State) (d : Nat), d < 8 ∧ s.pwr.dev = .awake ∧ s.tw.tripped = false ∧ s.cim.calReq.getLsbD d = true ∧
      s.cim.calBusy.getLsbD d = false ∧ s.cim.autoRecal = true ∧ (s.cim.running.any fun e => e.2.die == d && e.2.time) =
      false) ∧
    (∃ (s : State) (d : Nat) (trim : Word), d < 8 ∧ s.cim.calBusy.getLsbD d = true ∧ s.awake = true ∧ s.tw.tripped = false) ∧
    (∃ (s : State) (d : Nat) (trim : Word), d < 8 ∧ s.cim.calBusy.getLsbD d = true ∧ s.awake = true ∧ s.tw.tripped = false ∧
      s.cim.calTry.look d 0 = 0) ∧
    (∃ (s : State) (d : Nat) (trim : Word), d < 8 ∧ s.cim.calBusy.getLsbD d = true ∧ s.awake = true ∧ s.tw.tripped = false ∧
      s.cim.calTry.look d 0 = 1) ∧
    (∃ (s : State) (d : Nat), d < 8 ∧ s.awake = true ∧ s.pwr.hbmSr = false) ∧
    (∃ (s : State) (d : Nat), d < 8 ∧ s.awake = true) :=
  ⟨⟨upP.onCim fun c => { c with calReq := 0x80 }, 7, by decide⟩,
   ⟨upP.onCim fun c => { c with calBusy := 0x80 }, 7, 0xFFFFFFFF, by decide⟩,
   ⟨upP.onCim fun c => { c with calBusy := 0x80 }, 7, 0, by decide⟩,
   ⟨upP.onCim fun c => { c with calBusy := 0x80, calTry := [(7, 1)] }, 7, 0, by decide⟩,
   ⟨upP.onMem fun m => { m with scrubHbm := [(7, 150994943)] }, 7, by decide⟩,
   ⟨upP.onMem fun m => { m with scrubDeck := [(15, 8191)] }, 7, by decide⟩⟩

/-- The hypotheses of each clause of TimeModeBound are met. -/
theorem wit_timeModeBound :
    ∃ (s : State) (o : CimOp) (x : Nat → Byte) (j c : Nat), o.stale = false :=
  ⟨up, cop (.gang 0 1 5) 0 256, fun _ => 1, 0, 0, by decide⟩

/-- The hypotheses of each clause of TileInstructions are met. -/
theorem wit_tileInstructions :
    (∃ (s : State) (g fa fb t va ub us w : Nat), s.canIssue g = true ∧ s.datapathBusy g = false ∧ mmaWidth fa fb = some w ∧
      isMx fa = false ∧ ub < 64 ∧ t < (s.launchOf g).acc ∧ va + w / 2 ≤ 8 * (s.launchOf g).regs ∧ ((s.gang g).uReg ub).toNat
      % 64 = 0 ∧ ((s.gang g).uReg ub).toNat + w * 64 ≤ (s.launchOf g).locSize ∧ (∀ b ∈ s.localRead (s.gang g).block ((s.gang
      g).uReg ub).toNat (w * 64), b.2 = false)) ∧
    (∃ (s : State) (g : Nat) (m : PendMma), (s.gang g).mma = some m ∧ s.coreRuns (gCore g) = true) ∧
    (∃ (s : State) (g : Nat) (m : PendMma), (s.gang g).mma = some m ∧ s.coreRuns (gCore g) = true ∧ m.retried = false) ∧
    (∃ (s : State) (g t : Nat), s.canIssue g = true ∧ s.tileBusy g t = false ∧ t < (s.launchOf g).acc) ∧
    (∃ (s : State) (g vd t : Nat), s.canIssue g = true ∧ s.tileBusy g t = false ∧ t < (s.launchOf g).acc ∧ vd + 8 ≤ 8 *
      (s.launchOf g).regs) ∧
    (∃ (s : State) (g t vs : Nat), s.canIssue g = true ∧ s.tileBusy g t = false ∧ t < (s.launchOf g).acc ∧ vs + 8 ≤ 8 *
      (s.launchOf g).regs) ∧
    (∃ (s : State) (g us t : Nat), s.canIssue g = true ∧ s.tileBusy g t = false ∧ us < 64 ∧ t < (s.launchOf g).acc ∧
      ((s.gang g).uReg us).toNat % 64 = 0 ∧ ((s.gang g).uReg us).toNat + 1024 ≤ (s.launchOf g).locSize) ∧
    (∃ (s : State) (g vd t : Nat), s.canIssue g = true ∧ s.tileBusy g t = false ∧ (s.launchOf g).acc ≤ t) :=
  ⟨⟨kst, 0, 2, 2, 3, 0, 1, 2, 32, by decide, by decide, by decide, by decide, by decide, by decide, by decide, by decide,
     by decide, wit_local _ _ _ _ (by decide)⟩,
   ⟨kg fun x => { x with mma := some pm }, 0, pm, by decide⟩,
   ⟨kg fun x => { x with mma := some pm }, 0, pm, by decide⟩,
   ⟨kg fun x => { x with tile := [(768, 5)] }, 0, 3, by decide⟩,
   ⟨kg fun x => { x with tile := [(768, 5), (784, 7)] }, 0, 56, 3, by decide⟩,
   ⟨kg fun x => { x with v := [(1792, 6), (1794, 9)] }, 0, 3, 56, by decide⟩,
   ⟨kg fun x => { x with tile := [(768, 5)], u := [(63, 64512)] }, 0, 63, 3, by decide⟩,
   ⟨kg id, 0, 0, 4, by decide⟩⟩

/-- The hypotheses of each clause of NumberInstructions are met. -/
theorem wit_numberInstructions :
    (∃ (s : State) (g f : Nat) (fm : Fmt) (op : VecOp) (r : RMode) (vd va vb vc l : Nat), s.canIssue g = true ∧ f ≤ 2 ∧
      fmtOf f = some fm ∧ r ≠ .stoch ∧ vd + 1 ≤ 8 * (s.launchOf g).regs ∧ va + 1 ≤ 8 * (s.launchOf g).regs ∧ vb + 1 ≤ 8 *
      (s.launchOf g).regs ∧ (op = .fma → vc + 1 ≤ 8 * (s.launchOf g).regs) ∧ l < 32) ∧
    (∃ (s : State) (g f : Nat) (fm : Fmt) (op : VecOp) (r : RMode) (vd va vb vc l : Nat), s.canIssue g = true ∧ f ≤ 2 ∧
      fmtOf f = some fm ∧ r ≠ .stoch ∧ vd + 1 ≤ 8 * (s.launchOf g).regs ∧ va + 1 ≤ 8 * (s.launchOf g).regs ∧ vb + 1 ≤ 8 *
      (s.launchOf g).regs ∧ (op = .fma → vc + 1 ≤ 8 * (s.launchOf g).regs) ∧ l < 32 ∧ (s.gang g).active.getLsbD l = true) ∧
    (∃ (s : State) (g f : Nat) (fm : Fmt) (op : VecOp) (r : RMode) (vd va vb vc l : Nat), s.canIssue g = true ∧ f ≤ 2 ∧
      fmtOf f = some fm ∧ r ≠ .stoch ∧ vd + 1 ≤ 8 * (s.launchOf g).regs ∧ va + 1 ≤ 8 * (s.launchOf g).regs ∧ vb + 1 ≤ 8 *
      (s.launchOf g).regs ∧ (op = .fma → vc + 1 ≤ 8 * (s.launchOf g).regs) ∧ l < 32 ∧ (s.gang g).active.getLsbD l = false) ∧
    (∃ (s : State) (g : Nat) (fn : SfuFn) (vd vs l : Nat), s.canIssue g = true ∧ vd + 1 ≤ 8 * (s.launchOf g).regs ∧ vs + 1 ≤
      8 * (s.launchOf g).regs ∧ l < 32) ∧
    (∃ (s : State) (g fs fd : Nat) (r : RMode) (vd vs a : Nat), s.canIssue g = true ∧ fs < 8 ∧ fd < 8 ∧ a < 64 ∧ (s.launchOf
      g).amaxMask.getLsbD a = true ∧ vd + 1 ≤ 8 * (s.launchOf g).regs ∧ vs + 1 ≤ 8 * (s.launchOf g).regs) ∧
    (∃ (s : State) (g fs fd : Nat) (r : RMode) (vd vs ud a us : Nat), s.canIssue g = true ∧ fs < 8 ∧ isMx fd = true ∧ ud <
      64 ∧ us < 64 ∧ ((s.gang g).uReg us).toNat % 256 ≠ 255 ∧ a < 64 ∧ (s.launchOf g).amaxMask.getLsbD a = true ∧ vd + 1 ≤ 8
      * (s.launchOf g).regs ∧ vs + 1 ≤ 8 * (s.launchOf g).regs ∧ fd ≠ 7) ∧
    (∃ (s : State) (g ud a : Nat), s.canIssue g = true ∧ ud < 64 ∧ a < 64) ∧
    (∃ (s : State) (g ud a fd : Nat), s.canIssue g = true ∧ ud < 64 ∧ a < 64 ∧ isMx fd = true) ∧
    (∃ (s : State) (g ud : Nat), s.canIssue g = true ∧ ud < 64) ∧
    (∃ (s : State) (g : Nat), s.canIssue g = true) :=
  ⟨⟨kg fun x => { x with v := [(32, 0x3F80), (33, 0x4000), (64, 0x4040), (65, 0xC000)] }, 0, 0, fD16, .fma, .zero, 63, 1,
     2, 1, 1, by decide, by decide, rfl, by decide, by decide, by decide, by decide, by decide, by decide⟩,
   ⟨kg fun x => { x with v := [(32, 0x3F80), (33, 0x4000), (64, 0x4040), (65, 0xC000)] }, 0, 0, fD16, .fma, .zero, 63, 1,
     2, 1, 1, by decide, by decide, rfl, by decide, by decide, by decide, by decide, by decide, by decide, by decide⟩,
   ⟨kg fun x => { x with v := [(32, 0x3F80), (33, 0x4000), (64, 0x4040), (65, 0xC000)] }, 0, 0, fD16, .fma, .zero, 63, 1,
     2, 1, 31, by decide, by decide, rfl, by decide, by decide, by decide, by decide, by decide, by decide, by decide⟩,
   ⟨kg fun x => { x with v := [(32, 0x3F800000), (33, 0x40000000)] }, 0, .exp2, 63, 1, 31, by decide⟩,
   ⟨kg fun x => { x with v := [(32, 0x3F800000), (33, 0x40000000)] }, 0, 2, 0, .even, 63, 1, 15, by decide⟩,
   ⟨kg fun x => { x with v := [(32, 0x3F800000), (33, 0x40000000)], u := [(4, 127)] }, 0, 2, 5, .even, 63, 1, 9, 15, 4, by
     decide⟩,
   ⟨(kg id).onObj fun o => { o with ctx := o.ctx.upd (objKey 0 1) {} fun c => { c with amax := [(3, { value := 9 })] } },
     0, 63, 3, by decide⟩,
   ⟨(kg id).onObj fun o =>
     { o with ctx := o.ctx.upd (objKey 0 1) {} fun c => { c with amax := [(3, { snap := 0x40000000 })] } }, 0, 63, 3, 6,
     by decide⟩,
   ⟨kg fun x => { x with ovf := true, inv := true }, 0, 63, by decide⟩,
   ⟨kg fun x => { x with ovf := true, staleCal := true }, 0, by decide⟩⟩

/-- The hypotheses of each clause of MemoryInstructions are met. -/
theorem wit_memoryInstructions :
    (∃ (s : State) (g vd va n : Nat) (sg : Bool) (host : HostMem) (xs : List MissLoad), s.canIssue g = true ∧ s.laneLoads g
      va n (fun _ => .reg vd sg) = xs ∧ (n = 1 ∨ n = 2 ∨ n = 4 ∨ n = 8) ∧ va + 2 ≤ 8 * (s.launchOf g).regs ∧ vd + regsFor n
      ≤ 8 * (s.launchOf g).regs ∧ (∀ x ∈ xs, x.va % n = 0 ∧ s.coreFault (gCore g) (s.launchOf g).ctx x.va n .read
      host.refused = none)) ∧
    (∃ (s : State) (g vd va n : Nat) (sg : Bool) (host : HostMem) (xs : List MissLoad), s.canIssue g = true ∧ s.laneLoads g
      va n (fun _ => .reg vd sg) = xs ∧ (n = 1 ∨ n = 2 ∨ n = 4 ∨ n = 8) ∧ va + 2 ≤ 8 * (s.launchOf g).regs ∧ vd + regsFor n
      ≤ 8 * (s.launchOf g).regs ∧ (∀ x ∈ xs, x.va % n = 0 ∧ s.coreFault (gCore g) (s.launchOf g).ctx x.va n .read
      host.refused = none) ∧ s.loadHeld g ((s.launchOf g).ncMask.getD 0 0) xs = false) ∧
    (∃ (s : State) (g vd va n : Nat) (sg : Bool) (host : HostMem) (xs : List MissLoad), s.canIssue g = true ∧ s.laneLoads g
      va n (fun _ => .reg vd sg) = xs ∧ (n = 1 ∨ n = 2 ∨ n = 4 ∨ n = 8) ∧ va + 2 ≤ 8 * (s.launchOf g).regs ∧ vd + regsFor n
      ≤ 8 * (s.launchOf g).regs ∧ (∀ x ∈ xs, x.va % n = 0 ∧ s.coreFault (gCore g) (s.launchOf g).ctx x.va n .read
      host.refused = none) ∧ s.loadHeld g ((s.launchOf g).ncMask.getD 1 0) xs = false ∧ sg = false) ∧
    (∃ (s : State) (g vd va n : Nat) (sg : Bool) (host : HostMem) (xs : List MissLoad), s.canIssue g = true ∧ s.laneLoads g
      va n (fun _ => .reg vd sg) = xs ∧ (n = 1 ∨ n = 2 ∨ n = 4 ∨ n = 8) ∧ va + 2 ≤ 8 * (s.launchOf g).regs ∧ vd + regsFor n
      ≤ 8 * (s.launchOf g).regs ∧ (∀ x ∈ xs, x.va % n = 0 ∧ s.coreFault (gCore g) (s.launchOf g).ctx x.va n .read
      host.refused = none) ∧ s.loadHeld g ((s.launchOf g).ncMask.getD 2 0) xs = false) ∧
    (∃ (s : State) (g r va n : Nat) (host : HostMem) (xs : List MissLoad), s.canIssue g = true ∧ s.laneLoads g va n (fun l
      => .loc ((s.gang g).vReg r l).toNat) = xs ∧ (n = 1 ∨ n = 2 ∨ n = 4 ∨ n = 8) ∧ va + 2 ≤ 8 * (s.launchOf g).regs ∧ r + 1
      ≤ 8 * (s.launchOf g).regs ∧ (∀ l ∈ (s.gang g).lanes, ((s.gang g).vReg r l).toNat % n = 0 ∧ ((s.gang g).vReg r l).toNat
      + n ≤ (s.launchOf g).locSize) ∧ (∀ x ∈ xs, x.va % n = 0 ∧ s.coreFault (gCore g) (s.launchOf g).ctx x.va n .read
      host.refused = none) ∧ s.loadHeld g ((s.launchOf g).ncMask.getD 1 0) xs = false) ∧
    (∃ (s : State) (g vd ua a : Nat) (host : HostMem), s.canIssue g = true ∧ ua + 2 ≤ 64 ∧ vd + 1 ≤ 8 * (s.launchOf g).regs
      ∧ ((s.gang g).uPair ua).toNat = a ∧ a % 16 = 0 ∧ s.coreFault (gCore g) (s.launchOf g).ctx a 48 .read host.refused =
      none ∧ s.loadHeld g ((s.launchOf g).ncMask.getD 0 0) (ltParts g a vd) = false) ∧
    (∃ (s : State) (x : MissLoad) (r : Nat) (sg : Bool) (l : List (Byte × Bool)), x.dst = .reg r sg ∧ x.len ≤ 4 ∧ (∀ b ∈ l,
      b.2 = false)) ∧
    (∃ (s : State) (c r : Nat) (m : Miss) (host : HostMem), r < 32 ∧ s.mem.miss.find (c * 32 + r) = some m ∧ s.awake = true
      ∧ s.tw.tripped = false ∧ s.vaKept m.ctx (m.line * 512) 512 false = false ∧ s.coreFault c m.ctx (m.line * 512) 512
      .read host.refused = none) ∧
    (∃ (s : State) (g va vs n : Nat) (ecc : EccErrs), s.canIssue g = true ∧ (n = 1 ∨ n = 2 ∨ n = 4 ∨ n = 8) ∧ va + 2 ≤ 8 *
      (s.launchOf g).regs ∧ vs + regsFor n ≤ 8 * (s.launchOf g).regs ∧ (∀ l ∈ (s.gang g).lanes, (s.gang g).va va l % n = 0 ∧
      s.coreFault (gCore g) (s.launchOf g).ctx ((s.gang g).va va l) n .write false = none ∧ s.vaKept (s.launchOf g).ctx
      ((s.gang g).va va l) n true = false)) ∧
    (∃ (s : State) (g ua vs a : Nat) (b : List Byte), s.canIssue g = true ∧ ua + 2 ≤ 64 ∧ vs + 1 ≤ 8 * (s.launchOf g).regs ∧
      ((s.gang g).uPair ua).toNat = a ∧ a % 16 = 0 ∧ s.coreFault (gCore g) (s.launchOf g).ctx a 48 .write false = none ∧
      s.anyMap (s.launchOf g).ctx a 48 Mapping.prot = false ∧ s.vaKept (s.launchOf g).ctx a 48 true = false ∧ ltEncode
      ((List.range 32).map fun l => toLe 2 (if (s.gang g).active.getLsbD l then (s.gang g).low vs l 16 else 0)).flatten = b) ∧
    (∃ (s : State) (g va vs n l : Nat) (r : List Nat) (ecc : EccErrs), s.canIssue g = true ∧ (n = 1 ∨ n = 2 ∨ n = 4 ∨ n = 8)
      ∧ va + 2 ≤ 8 * (s.launchOf g).regs ∧ vs + regsFor n ≤ 8 * (s.launchOf g).regs ∧ (s.gang g).lanes = l :: r ∧ (s.gang
      g).va va l % n ≠ 0) ∧
    (∃ (s : State) (g : Nat), s.canIssue g = true) ∧
    (∃ (s : State) (g : Nat) (c : Instr), s.canIssue g = true ∧ (c = .fenceDev g ∨ c = .fenceSys g)) ∧
    (∃ (s : State) (g : Nat) (c : Instr), s.canIssue g = true ∧ (c = .fenceDev g ∨ c = .fenceSys g) ∧ c = .fenceDev g) :=
  ⟨⟨kg fun x => { x with v := [(32, 0x200000), (33, 0x200008)] }, 0, 62, 1, 8, false, hm0,
     [{ gang := 0, lane := 0, va := 0x200000, len := 8, dst := .reg 62 false },
     { gang := 0, lane := 1, va := 0x200008, len := 8, dst := .reg 62 false }], by decide⟩,
   ⟨kg fun x => { x with v := [(32, 0x200000), (33, 0x200008)] }, 0, 62, 1, 8, false, hm0,
     [{ gang := 0, lane := 0, va := 0x200000, len := 8, dst := .reg 62 false },
     { gang := 0, lane := 1, va := 0x200008, len := 8, dst := .reg 62 false }], by decide⟩,
   ⟨kg fun x => { x with v := [(32, 0x200000), (33, 0x200008)] }, 0, 62, 1, 8, false, hm0,
     [{ gang := 0, lane := 0, va := 0x200000, len := 8, dst := .reg 62 false },
     { gang := 0, lane := 1, va := 0x200008, len := 8, dst := .reg 62 false }], by decide⟩,
   ⟨kg fun x => { x with v := [(32, 0x200000), (33, 0x200008)] }, 0, 62, 1, 8, false, hm0,
     [{ gang := 0, lane := 0, va := 0x200000, len := 8, dst := .reg 62 false },
     { gang := 0, lane := 1, va := 0x200008, len := 8, dst := .reg 62 false }], by decide⟩,
   ⟨kg fun x => { x with v := [(32, 0x200000), (33, 0x200008), (128, 0), (129, 65528)] }, 0, 4, 1, 8, hm0,
     [{ gang := 0, lane := 0, va := 0x200000, len := 8, dst := .loc 0 },
     { gang := 0, lane := 1, va := 0x200008, len := 8, dst := .loc 65528 }], by decide⟩,
   ⟨kg fun x => { x with u := [(62, 0x200030)] }, 0, 63, 62, 0x200030, hm0, by decide⟩,
   ⟨kg id, { gang := 0, lane := 1, va := 0x200000, len := 2, dst := .reg 5 true }, 5, true, [(0xFE, false), (0xFF,
     false)], by decide⟩,
   ⟨(kg fun x => { x with wait := .mem }).onMem fun m => { m with miss := [(31, mr)] }, 0, 31, mr, hm0, by decide⟩,
   ⟨kg fun x => { x with v := [(32, 0x200000), (33, 0x200008), (128, 7), (129, 9)] }, 0, 1, 4, 8, [], by decide⟩,
   ⟨kg fun x => { x with u := [(62, 0x200030)], v := [(128, 0x3F80), (129, 0x4000)] }, 0, 62, 4, 0x200030, ltEncode
     ([0x80, 0x3F, 0, 0x40] ++ List.replicate 60 0), by decide⟩,
   ⟨kg fun x => { x with v := [(32, 0x200001)] }, 0, 1, 4, 8, 0, [1], [], by decide⟩,
   ⟨kg id, 0, by decide⟩,
   ⟨(kg id).onMem fun m =>
     { m with near := [(5, { ctx := objKey 0 1, line := 4096, bytes := [], poison := 0, lighter := false })] }, 0,
     .fenceSys 0, by decide⟩,
   ⟨(kg id).onMem fun m =>
     { m with near := [(5, { ctx := objKey 0 1, line := 4096, bytes := [], poison := 0, lighter := false })] }, 0,
     .fenceDev 0, by decide⟩⟩

/-- The hypotheses of each clause of ClusterInstructions are met. -/
theorem wit_clusterInstructions :
    (∃ (s : State) (g vd va n : Nat) (sg : Bool), s.canIssue g = true ∧ (n = 1 ∨ n = 2 ∨ n = 4 ∨ n = 8) ∧ va + 1 ≤ 8 *
      (s.launchOf g).regs ∧ vd + regsFor n ≤ 8 * (s.launchOf g).regs ∧ firstFault ((s.issued g).clusterChecks g va n) = none
      ∧ firstFault ((s.issued g).clusterClean g va n) = none ∧ s.peerGone g va = false) ∧
    (∃ (s : State) (g va vs n : Nat), s.canIssue g = true ∧ (n = 1 ∨ n = 2 ∨ n = 4 ∨ n = 8) ∧ va + 1 ≤ 8 * (s.launchOf
      g).regs ∧ vs + regsFor n ≤ 8 * (s.launchOf g).regs ∧ firstFault ((s.issued g).clusterChecks g va n) = none ∧
      s.peerGone g va = false) ∧
    (∃ (s : State) (g : Nat) (op : AtomOp) (vd va vs vt l b : Nat) (r : List Nat), s.canIssue g = true ∧ va + 1 ≤ 8 *
      (s.launchOf g).regs ∧ vd + 1 ≤ 8 * (s.launchOf g).regs ∧ vs + 1 ≤ 8 * (s.launchOf g).regs ∧ vt + 1 ≤ 8 * (s.launchOf
      g).regs ∧ firstFault ((s.issued g).clusterChecks g va 4) = none ∧ firstFault ((s.issued g).clusterClean g va 4) = none
      ∧ s.peerGone g va = false ∧ (s.gang g).lanes = [l] ∧ s.peer g (((s.gang g).vReg va l).toNat / 2 ^ 18) = some b) ∧
    (∃ (s : State) (g vd va n l : Nat) (sg : Bool) (r : List Nat), s.canIssue g = true ∧ (n = 1 ∨ n = 2 ∨ n = 4 ∨ n = 8) ∧
      va + 1 ≤ 8 * (s.launchOf g).regs ∧ vd + regsFor n ≤ 8 * (s.launchOf g).regs ∧ (s.gang g).lanes = l :: r ∧ ((s.gang
      g).vReg va l).toNat % n = 0 ∧ ((s.launchOf g).members (s.blk (s.gang g).block).cluster).length ≤ ((s.gang g).vReg va
      l).toNat / 2 ^ 18) :=
  ⟨⟨two { active := 3, v := [(32, 262144), (33, 262148)] } {}, 0, 5, 1, 4, false, by decide⟩,
   ⟨two { active := 3, v := [(32, 262144), (33, 262148), (160, 3), (161, 4)] } {}, 0, 1, 5, 4, by decide⟩,
   ⟨two { active := 2, v := [(32, 262144), (33, 262148), (160, 3), (161, 4)] } {}, 0, .add, 6, 1, 5, 5, 1, 2, [], by
     decide⟩,
   ⟨two { active := 2, v := [(33, 524288)] } {}, 0, 5, 1, 4, 1, false, [], by decide⟩⟩

/-- The hypotheses of each clause of LighterCodec are met. -/
theorem wit_lighterCodec :
    (∃ bs : List Byte, bs.length = 64) ∧
    (∃ bs : List Byte, bs.length = 64 ∧ ∃ i, i < 32 ∧ d16Exp (d16At bs i) = 255) ∧
    (∃ bs : List Byte, bs.length = 64 ∧ ∃ i, ltBase bs = 255 ∧ i < 32) ∧
    (∃ bs : List Byte, bs.length = 64 ∧ ∃ i, ltBase bs ≤ 6 ∧ i < 32 ∧ d16Exp (d16At bs i) = 0) ∧
    (∃ bs : List Byte, bs.length = 64 ∧ ltBase bs = 0) :=
  ⟨⟨List.replicate 64 0x3F, by decide⟩,
   ⟨List.replicate 62 0 ++ [0x80, 0x7F], by decide, 31, by decide⟩,
   ⟨List.replicate 62 0 ++ [0x80, 0x7F], by decide, 31, by decide⟩,
   ⟨List.replicate 62 0 ++ [0x80, 0x00], by decide, 30, by decide⟩,
   ⟨List.replicate 64 0, by decide⟩⟩

/-- The hypotheses of each clause of ControlInstructions are met. -/
theorem wit_controlInstructions :
    (∃ (s : State) (g p lb : Nat), s.canIssue g = true ∧ p < 8 ∧ ((s.gang g).pReg p &&& (s.gang g).active = 0 ∨ (s.gang
      g).pReg p &&& (s.gang g).active = (s.gang g).active)) ∧
    (∃ (s : State) (g p lb : Nat) (w : Word), s.canIssue g = true ∧ p < 8 ∧ (s.gang g).pReg p &&& (s.gang g).active = w ∧ w
      ≠ 0 ∧ w ≠ (s.gang g).active ∧ (s.gang g).stack.length < 32) ∧
    (∃ (s : State) (g p lb : Nat) (w : Word), s.canIssue g = true ∧ p < 8 ∧ (s.gang g).pReg p &&& (s.gang g).active = w ∧ w
      ≠ 0 ∧ w ≠ (s.gang g).active ∧ 32 ≤ (s.gang g).stack.length) ∧
    (∃ (s : State) (g lb : Nat) (r : Reconv) (l : List Reconv), s.canIssue g = true ∧ (s.gang g).stack = r :: l ∧ r.label =
      lb) ∧
    (∃ (s : State) (g lb : Nat) (r : Reconv) (l : List Reconv), s.canIssue g = true ∧ (s.gang g).stack = r :: l ∧ r.label =
      lb ∧ r.rest ≠ 0) ∧
    (∃ (s : State) (g lb : Nat) (r : Reconv) (l : List Reconv), s.canIssue g = true ∧ (s.gang g).stack = r :: l ∧ r.label =
      lb ∧ r.rest = 0) ∧
    (∃ (s : State) (g : Nat) (a : Word) (l : List Reconv), s.canIssue g = true ∧ (s.gang g).mma = none ∧ popLanes ((s.gang
      g).exited ||| (s.gang g).active) 0 (s.gang g).stack = (a, l) ∧ a ≠ 0) ∧
    (∃ (s : State) (g : Nat), s.canIssue g = true ∧ (s.ctx (s.launchOf g).ctx).st = .live) ∧
    (∃ (s : State) (c : Nat), (s.ctx c).st = .killed ∧ (s.ctx c).stopped = false) ∧
    (∃ (s : State) (b : Nat), (s.core.block.find b).isSome = true ∧ (s.blk b).exited = true ∧ (s.launch (s.blk
      b).launch).replayable = false ∧ (s.launch (s.blk b).launch).live = true) :=
  ⟨⟨kg fun x => { x with p := [(7, 3)] }, 0, 7, 12, by decide⟩,
   ⟨kg fun x => { x with p := [(7, 1)], stack := List.replicate 31 { label := 0, all := 0, rest := 0 } }, 0, 7, 12, 1, by
     decide⟩,
   ⟨kg fun x => { x with p := [(7, 1)], stack := List.replicate 32 { label := 0, all := 0, rest := 0 } }, 0, 7, 12, 1, by
     decide⟩,
   ⟨kg fun x => { x with stack := [{ label := 4, all := 7, rest := 4 }] }, 0, 4, { label := 4, all := 7, rest := 4 }, [],
     by decide⟩,
   ⟨kg fun x => { x with stack := [{ label := 4, all := 7, rest := 4 }] }, 0, 4, { label := 4, all := 7, rest := 4 }, [],
     by decide⟩,
   ⟨kg fun x => { x with stack := [{ label := 4, all := 7, rest := 0 }] }, 0, 4, { label := 4, all := 7, rest := 0 }, [],
     by decide⟩,
   ⟨kg fun x => { x with stack := [{ label := 4, all := 7, rest := 4 }] }, 0, 4, [{ label := 4, all := 7, rest := 0 }], by
     decide⟩,
   ⟨kg id, 0, by decide⟩,
   ⟨(kg id).onObj fun o => { o with ctx := o.ctx.upd (objKey 0 1) {} fun c => { c with st := .killed } }, objKey 0 1, by
     decide⟩,
   ⟨(kg id).onBlk 1 fun b => { b with exited := true, flags := 5 }, 1, by decide⟩⟩

/-- A transfer of two elements of 16 B from local memory to VA 0x200000. -/
def md : MoverDesc := { ok := true, srcLocal := true, dstLocal := false, src := 0, dst := 0x200000, dims := [(2, 16, 16)], elem := 16 }

/-- The hypotheses of each clause of BarrierAndMoverInstructions are met. -/
theorem wit_barrierAndMoverInstructions :
    (∃ (s t : State) (g p ut : Nat), s.canIssue g = true ∧ p < 8 ∧ ut < 64 ∧ (((s.issued g).fenceOps g).onGang g fun x => {
      x with wait := .barBlk ((s.issued g).barDeadline g ut) p }) = t) ∧
    (∃ (s t : State) (g p ut : Nat), s.canIssue g = true ∧ p < 8 ∧ ut < 64 ∧ (((s.issued g).fenceOps g).onGang g fun x => {
      x with wait := .barClu ((s.issued g).barDeadline g ut) p }) = t) ∧
    (∃ (s : State) (g h d p : Nat), (s.gangsOf (s.blockOf g)) = [g, h] ∧ g ≠ h ∧ (s.gang g).wait = .barBlk d p ∧ (s.gang
      h).wait = .ready ∧ (s.gang h).ended = false) ∧
    (∃ (s : State) (g h d e p r : Nat), (s.gangsOf (s.blockOf g)) = [g, h] ∧ g ≠ h ∧ (s.gang g).wait = .barBlk d p ∧ (s.gang
      h).wait = .barBlk e r) ∧
    (∃ (s : State) (g d p : Nat), (s.gang g).wait = .barBlk d p ∧ d ≤ s.nowNs ∧ (s.gang g).live = true ∧ p < 8) ∧
    (∃ (s : State) (g ud us : Nat) (d : MoverDesc), s.canIssue g = true ∧ ud < 64 ∧ us < 64 ∧ ((s.gang g).uReg us).toNat +
      32 ≤ (s.launchOf g).locSize ∧ (∀ b ∈ s.localRead (s.gang g).block ((s.gang g).uReg us).toNat 32, b.2 = false) ∧
      Config.moverDesc (s.localBytes g ((s.gang g).uReg us).toNat 32) = d ∧ ((s.coreAt (gCore g)).mover.filter
      MovWork.isDesc).length < 16) ∧
    (∃ (s : State) (g p us ut : Nat), s.canIssue g = true ∧ p < 8 ∧ us < 64 ∧ ut < 64) ∧
    (∃ (s : State) (g p us ut : Nat), s.canIssue g = true ∧ p < 8 ∧ us < 64 ∧ ut < 64 ∧ s.ticketDone (gCore g) ((s.gang
      g).uReg us) = true) ∧
    (∃ (s : State) (g p us ut : Nat), s.canIssue g = true ∧ p < 8 ∧ us < 64 ∧ ut < 64 ∧ s.ticketDone (gCore g) ((s.gang
      g).uReg us) = false) ∧
    (∃ (s t y : State) (c g b n : Nat) (k : Word) (d : MoverDesc) (r : List MovWork) (l : Launch) (host : HostMem),
      (s.coreAt c).mover = .desc g b n k d :: r ∧ s.launch n = l ∧ s.moverRuns c = true ∧ s.ctxRuns l.ctx = true ∧
      s.transferKept l d = false ∧ (s.onCoreAt c fun x => { x with mover := r }) = t ∧ s.transferFault c l d host.refused =
      none ∧ (if d.srcLocal then t else (moverElems d).foldl (fun t e => t.meetEccVa l.ctx e.1 d.elem host.ecc) t) = y) ∧
    (∃ (s t : State) (c g b n code a : Nat) (k : Word) (d : MoverDesc) (r : List MovWork) (l : Launch) (host : HostMem),
      (s.coreAt c).mover = .desc g b n k d :: r ∧ s.launch n = l ∧ s.moverRuns c = true ∧ s.ctxRuns l.ctx = true ∧
      s.transferKept l d = false ∧ (s.onCoreAt c fun x => { x with mover := r }) = t ∧ s.transferFault c l d host.refused =
      some (code, a)) :=
  ⟨⟨kg id, (((kg id).issued 0).fenceOps 0).onGang 0 fun x =>
     { x with wait := .barBlk (((kg id).issued 0).barDeadline 0 63) 7 }, 0, 7, 63, by decide, by decide, by decide, rfl⟩,
   ⟨kg id, (((kg id).issued 0).fenceOps 0).onGang 0 fun x =>
     { x with wait := .barClu (((kg id).issued 0).barDeadline 0 63) 7 }, 0, 7, 63, by decide, by decide, by decide, rfl⟩,
   ⟨two { active := 3, wait := .barBlk 99 7 } { active := 1 }, 0, 1, 99, 7, by decide⟩,
   ⟨two { active := 3, wait := .barBlk 99 7 } { active := 1, wait := .barBlk 98 6 }, 0, 1, 99, 98, 7, 6, by decide⟩,
   ⟨kg fun x => { x with wait := .barBlk 0 7, p := [(7, 5)] }, 0, 0, 7, by decide⟩,
   ⟨kg fun x => { x with u := [(63, 65504)] }, 0, 5, 63, Config.moverDesc ((kg fun x =>
     { x with u := [(63, 65504)] }).localBytes 0 65504 32), by decide, by decide, by decide, by decide, wit_local _ _ _ _
     (by decide), rfl, by decide⟩,
   ⟨kg id, 0, 7, 4, 5, by decide⟩,
   ⟨kg id, 0, 7, 4, 5, by decide⟩,
   ⟨(kg id).onCoreAt 0 fun c =>
     { c with mover := [.desc 0 1 1 0 md] },
     0, 7, 4, 5, by decide⟩,
   ⟨(kg id).onCoreAt 0 fun c => { c with mover := [.desc 0 1 1 0 md] }, _, _, 0, 0, 1, 1, 0, md, [], _, hm0, rfl, rfl, by decide, by decide,
     by decide, rfl, by decide, rfl⟩,
   ⟨(kg id).onCoreAt 0 fun c => { c with mover := [.desc 0 1 1 0 { md with dst := 0x900000 }] }, _, 0, 0, 1, 1, 4, 0x900000, 0,
     { md with dst := 0x900000 }, [], _, hm0, rfl, rfl, by decide, by decide, by decide, rfl, by decide⟩⟩

/-- The hypotheses of each clause of ChandlerInstructions are met. -/
theorem wit_chandlerInstructions :
    (∃ (s : State) (g ud us d i n : Nat), s.canIssue g = true ∧ ud + 2 ≤ 64 ∧ us < 64 ∧ ((s.gang g).uReg us).toNat = n ∧ 256
      ≤ n ∧ n ≤ 0x4000000 ∧ ((s.issued g).loseStatus g).chdPlace (sliceOf (gCore g)) ((n + 255) / 256 * 256) = some d ∧
      ((s.issued g).loseStatus g).freeOther (s.launchOf g).part = some i) ∧
    (∃ (s : State) (g ud us : Nat), s.canIssue g = true ∧ ud + 2 ≤ 64 ∧ us < 64 ∧ ((s.gang g).uReg us).toNat < 256) ∧
    (∃ (s : State) (g us : Nat), s.canIssue g = true ∧ us + 2 ≤ 64 ∧ (s.gang g).uPair us = 0) ∧
    (∃ (s : State) (g us k t d n sl : Nat) (b : Bool), s.canIssue g = true ∧ us + 2 ≤ 64 ∧ s.chdAt (s.launchOf g).part
      ((s.gang g).uPair us).toNat = some (k, ((s.gang g).uPair us).toNat) ∧ (s.objAt k).body = .memory t d n sl b
      (s.launchOf g).ctx ∧ (s.objAt k).creation = true ∧ (s.objAt k).frozen = false ∧ (s.objAt k).pairOk = true ∧ (s.objAt
      k).count ≠ 0) ∧
    (∃ (s : State) (g us k f : Nat), s.canIssue g = true ∧ us + 2 ≤ 64 ∧ (s.gang g).uPair us ≠ 0 ∧ s.chdAt (s.launchOf
      g).part ((s.gang g).uPair us).toNat = some (k, f) ∧ (s.objAt k).creation = false) ∧
    (∃ (s : State) (g ud us k f : Nat), s.canIssue g = true ∧ ud + 2 ≤ 64 ∧ us + 2 ≤ 64 ∧ s.chdAt (s.launchOf g).part
      ((s.gang g).uPair us).toNat = some (k, f)) ∧
    (∃ (s : State) (g ud us : Nat), s.canIssue g = true ∧ ud + 2 ≤ 64 ∧ us + 2 ≤ 64 ∧ s.chdAt (s.launchOf g).part ((s.gang
      g).uPair us).toNat = none) :=
  ⟨⟨(kg fun x => { x with u := [(3, 256)] }).onObj fun o => { o with pool := [(0, (0, 65536))] }, 0, 4, 3, 0, 32768, 256,
     by decide⟩,
   ⟨(kg fun x => { x with u := [(3, 255)] }).onObj fun o => { o with pool := [(0, (0, 65536))] }, 0, 4, 3, by decide⟩,
   ⟨kg id, 0, 62, by decide⟩,
   ⟨chd true, 0, 4, objKey 0 32768, 0, hbmBase 0, 256, 0, true, by decide⟩,
   ⟨chd false, 0, 4, objKey 0 32768, 0x1800000000000, by decide⟩,
   ⟨chd true, 0, 6, 4, objKey 0 32768, 0x1800000000000, by decide⟩,
   ⟨kg id, 0, 6, 4, by decide⟩⟩

/-- The hypotheses of each clause of CounterInstructions are met. -/
theorem wit_counterInstructions :
    (∃ (s : State) (g p ud uo un w : Nat) (v : DWord), s.canIssue g = true ∧ p < 8 ∧ evenU ud = true ∧ uo < 64 ∧ un < 64 ∧
      s.objWord g uo = w ∧ (s.wordOk g false true w).1 = true ∧ wordRemote w = false ∧ s.defers g = false ∧ 0 < ((s.gang
      g).uReg un).toNat ∧ (∀ e ∈ s.sync.inbox, e.1 ≠ objDie (wordObj w)) ∧ (s.tally (wordObj w)).ok = true ∧ (s.tally
      (wordObj w)).mirror = false ∧ (s.tally (wordObj w)).waiters = [] ∧ (s.tally (wordObj w)).value.toNat + ((s.gang
      g).uReg un).toNat < 2 ^ 64 ∧ (s.tally (wordObj w)).value + ((s.gang g).uReg un).setWidth 64 = v) ∧
    (∃ (s : State) (g ud uo w : Nat), s.canIssue g = true ∧ evenU ud = true ∧ uo < 64 ∧ s.objWord g uo = w ∧ (s.wordOk g
      false false w).1 = true ∧ (∀ e ∈ s.sync.inbox, e.1 ≠ objDie (wordObj w)) ∧ (s.tally (wordObj w)).ok = true) ∧
    (∃ (s : State) (g ud uo w : Nat), s.canIssue g = true ∧ evenU ud = true ∧ uo < 64 ∧ s.objWord g uo = w ∧ (s.wordOk g
      false false w).1 = false) ∧
    (∃ (s : State) (g p ud uo ue ut w : Nat), s.canIssue g = true ∧ p < 8 ∧ evenU ud = true ∧ evenU ue = true ∧ uo < 64 ∧ ut
      < 64 ∧ s.objWord g uo = w ∧ (s.wordOk g false false w).1 = true ∧ (∀ e ∈ s.sync.inbox, e.1 ≠ objDie (wordObj w)) ∧
      (s.tally (wordObj w)).ok = true) ∧
    (∃ (s : State) (g p ud uo ue ut w : Nat), s.canIssue g = true ∧ p < 8 ∧ evenU ud = true ∧ evenU ue = true ∧ uo < 64 ∧ ut
      < 64 ∧ s.objWord g uo = w ∧ (s.wordOk g false false w).1 = true ∧ (∀ e ∈ s.sync.inbox, e.1 ≠ objDie (wordObj w)) ∧
      (s.tally (wordObj w)).ok = true ∧ ((s.gang g).uPair ue).toNat ≤ (s.tally (wordObj w)).value.toNat) ∧
    (∃ (s : State) (g p ud uo ue ut w : Nat), s.canIssue g = true ∧ p < 8 ∧ evenU ud = true ∧ evenU ue = true ∧ uo < 64 ∧ ut
      < 64 ∧ s.objWord g uo = w ∧ (s.wordOk g false false w).1 = true ∧ (∀ e ∈ s.sync.inbox, e.1 ≠ objDie (wordObj w)) ∧
      (s.tally (wordObj w)).ok = true ∧ (s.tally (wordObj w)).value.toNat < ((s.gang g).uPair ue).toNat ∧ s.recUse (objSlice
      (wordObj w)) < 1024) ∧
    (∃ (s t : State) (d : Nat) (op : SyncOp) (r : List (Nat × SyncOp)), takeOp d s.sync.inbox = some (op, r) ∧ (s.onSync fun
      x => { x with inbox := r }) = t) ∧
    (∃ (s t : State) (d : Nat) (op : SyncOp) (r : List (Nat × SyncOp)), takeOp d s.sync.inbox = some (op, r) ∧ (s.onSync fun
      x => { x with inbox := r }) = t ∧ op.npart = ~~~(BitVec.ofNat 8 op.part) ∧ t.opAdmitted op = true) ∧
    (∃ (s t : State) (d : Nat) (op : SyncOp) (r : List (Nat × SyncOp)), takeOp d s.sync.inbox = some (op, r) ∧ (s.onSync fun
      x => { x with inbox := r }) = t ∧ op.npart = ~~~(BitVec.ofNat 8 op.part) ∧ t.opAdmitted op = false) ∧
    (∃ (s t : State) (d : Nat) (op : SyncOp) (r : List (Nat × SyncOp)), takeOp d s.sync.inbox = some (op, r) ∧ (s.onSync fun
      x => { x with inbox := r }) = t ∧ op.npart ≠ ~~~(BitVec.ofNat 8 op.part)) ∧
    (∃ (s : State) (i : Nat) (t : Tally) (w : WaitRec), s.sync.tally = [(i, t)] ∧ s.sync.sem = [] ∧ t.ok = true ∧ t.waiters
      = [w] ∧ w.amount.toNat ≤ t.value.toNat) ∧
    (∃ (s : State) (op : SyncOp), op.obj < 2 ^ 17 ∧ (s.tally op.obj).nvalue ≠ ~~~(s.tally op.obj).value) ∧
    (∃ (s : State) (v : DWord) (i : Nat), s.boot.ready = true ∧ s.hostWake.sync = s.sync ∧ bits s.sync.dbgSel 0 18 = i ∧ i <
      2 ^ 17 ∧ (s.tally i).bad = true) ∧
    (∃ (s : State) (v : DWord), s.boot.ready = true ∧ s.hostWake.selBad = false) :=
  ⟨⟨(kg fun x => { x with u := [(0, 4095), (1, 7)] }).onSync fun y =>
     { y with tally := [(4095, { value := 0xFFFFFFFFFFFFFFF8, nvalue := 7 })] }, 0, 7, 62, 0, 1, 4095, 0xFFFFFFFFFFFFFFFF,
     by decide⟩,
   ⟨(kg fun x => { x with u := [(0, 4095)] }).onSync fun y =>
     { y with tally := [(4095, { value := 3, nvalue := ~~~3 })] }, 0, 62, 0, 4095, by decide⟩,
   ⟨kg fun x => { x with u := [(0, 4096)] }, 0, 62, 0, 4096, by decide⟩,
   ⟨(kg fun x => { x with u := [(0, 4095), (2, 3)] }).onSync fun y =>
     { y with tally := [(4095, { value := 3, nvalue := ~~~3 })] }, 0, 7, 62, 0, 2, 5, 4095, by decide⟩,
   ⟨(kg fun x => { x with u := [(0, 4095), (2, 3)] }).onSync fun y =>
     { y with tally := [(4095, { value := 3, nvalue := ~~~3 })] }, 0, 7, 62, 0, 2, 5, 4095, by decide⟩,
   ⟨(kg fun x => { x with u := [(0, 4095), (2, 4)] }).onSync fun y =>
     { y with tally := [(4095, { value := 3, nvalue := ~~~3 })] }, 0, 7, 62, 0, 2, 5, 4095, by decide⟩,
   ⟨(kg id).onSync fun y => { y with inbox := [(1, ta), (0, ta)] }, _, 0, ta, [(1, ta)], by decide, rfl⟩,
   ⟨(kg id).onSync fun y => { y with inbox := [(1, ta), (0, ta)] }, _, 0, ta, [(1, ta)], by decide, rfl, by decide, by decide⟩,
   ⟨(kg id).onSync fun y => { y with inbox := [(0, { ta with obj := 4096 })] }, _, 0, { ta with obj := 4096 }, [], by decide, rfl,
     by decide, by decide⟩,
   ⟨(kg id).onSync fun y => { y with inbox := [(0, { ta with npart := 0 })] }, _, 0, { ta with npart := 0 }, [], by decide, rfl,
     by decide⟩,
   ⟨(kg fun x => { x with wait := .sync 9 }).onSync fun y =>
     { y with tally := [(9, { value := 3, nvalue := ~~~3, waiters := [wr 3] })] }, 9,
     { value := 3, nvalue := ~~~3, waiters := [wr 3] }, wr 3, by decide⟩,
   ⟨(kg id).onSync fun y => { y with tally := [(9, { value := 3 })] }, ta, by decide⟩,
   ⟨upP.onSync fun y => { y with tally := [(9, { value := 3, bad := true })], dbgSel := 9 }, 5, 9, by decide⟩,
   ⟨upP, 5, by decide⟩⟩

/-- The hypotheses of each clause of SemaphoreInstructions are met. -/
theorem wit_semaphoreInstructions :
    (∃ (s : State) (g p ud uo un ut w i : Nat) (own : Bool), s.canIssue g = true ∧ p < 8 ∧ ud < 64 ∧ uo < 64 ∧ un < 64 ∧ ut
      < 64 ∧ s.objWord g uo = w ∧ wordObj w % 2 ^ 17 = i ∧ (s.wordOk g true false w).1 = true ∧ (s.gang g).uReg un ≠ 0 ∧ (∀
      e ∈ s.sync.inbox, e.1 ≠ objDie (wordObj w)) ∧ (s.sem i).ok = true) ∧
    (∃ (s : State) (g p ud uo un ut w i : Nat) (own : Bool), s.canIssue g = true ∧ p < 8 ∧ ud < 64 ∧ uo < 64 ∧ un < 64 ∧ ut
      < 64 ∧ s.objWord g uo = w ∧ wordObj w % 2 ^ 17 = i ∧ (s.wordOk g true false w).1 = true ∧ (s.gang g).uReg un ≠ 0 ∧ (∀
      e ∈ s.sync.inbox, e.1 ≠ objDie (wordObj w)) ∧ (s.sem i).ok = true ∧ (s.sem i).waiters = [] ∧ ((s.gang g).uReg
      un).toNat ≤ (s.sem i).count.toNat ∧ (own = true → s.recUse (objSlice (wordObj w)) < 1024) ∧ (s.sem i).abandoned =
      false) ∧
    (∃ (s : State) (g p ud uo un ut w i : Nat) (own : Bool), s.canIssue g = true ∧ p < 8 ∧ ud < 64 ∧ uo < 64 ∧ un < 64 ∧ ut
      < 64 ∧ s.objWord g uo = w ∧ wordObj w % 2 ^ 17 = i ∧ (s.wordOk g true false w).1 = true ∧ (s.gang g).uReg un ≠ 0 ∧ (∀
      e ∈ s.sync.inbox, e.1 ≠ objDie (wordObj w)) ∧ (s.sem i).ok = true ∧ (s.sem i).count.toNat < ((s.gang g).uReg
      un).toNat) ∧
    (∃ (s : State) (g p ud uo un w i : Nat), s.canIssue g = true ∧ p < 8 ∧ ud < 64 ∧ uo < 64 ∧ un < 64 ∧ s.objWord g uo = w
      ∧ wordObj w % 2 ^ 17 = i ∧ (s.wordOk g true true w).1 = true ∧ wordRemote w = false ∧ s.defers g = false ∧ (s.gang
      g).uReg un ≠ 0 ∧ (∀ e ∈ s.sync.inbox, e.1 ≠ objDie (wordObj w)) ∧ (s.sem i).ok = true ∧ (s.sem i).waiters = [] ∧
      (s.sem i).count.toNat + ((s.gang g).uReg un).toNat < 2 ^ 32) ∧
    (∃ (s : State) (g p ud uo w i : Nat), s.canIssue g = true ∧ p < 8 ∧ ud < 64 ∧ uo < 64 ∧ s.objWord g uo = w ∧ wordObj w %
      2 ^ 17 = i ∧ (s.wordOk g true false w).1 = true ∧ s.defers g = false ∧ (∀ e ∈ s.sync.inbox, e.1 ≠ objDie (wordObj w))
      ∧ (s.sem i).ok = true ∧ (∀ h ∈ (s.sem i).holders, h.gang ≠ g)) ∧
    (∃ (s : State) (g p ud uo w i : Nat) (h : HoldRec), s.canIssue g = true ∧ p < 8 ∧ ud < 64 ∧ uo < 64 ∧ s.objWord g uo = w
      ∧ wordObj w % 2 ^ 17 = i ∧ (s.wordOk g true false w).1 = true ∧ s.defers g = false ∧ (∀ e ∈ s.sync.inbox, e.1 ≠ objDie
      (wordObj w)) ∧ (s.sem i).ok = true ∧ (s.sem i).holders = [h] ∧ h.gang = g ∧ (s.sem i).waiters = [] ∧ (s.sem
      i).count.toNat + h.units < 2 ^ 32) ∧
    (∃ (s : State) (g ud uo w i : Nat), s.canIssue g = true ∧ evenU ud = true ∧ uo < 64 ∧ s.objWord g uo = w ∧ wordObj w % 2
      ^ 17 = i ∧ (s.wordOk g true false w).1 = true ∧ (∀ e ∈ s.sync.inbox, e.1 ≠ objDie (wordObj w)) ∧ (s.sem i).ok = true) ∧
    (∃ (s : State) (g i d : Nat) (w : WaitRec), i < 2 ^ 17 ∧ (s.gang g).wait = .sync i ∧ gangRec g (s.tally i).waiters =
      some w ∧ w.deadline = some d ∧ d ≤ s.nowNs ∧ w.who = .gang g ∧ w.pReg < 8) :=
  ⟨⟨ks 2 { count := 2, ncount := ~~~2 }, 0, 7, 8, 0, 1, 2, 131081, 9, true, by decide⟩,
   ⟨ks 2 { count := 2, ncount := ~~~2 }, 0, 7, 8, 0, 1, 2, 131081, 9, true, by decide⟩,
   ⟨ks 3 { count := 2, ncount := ~~~2 }, 0, 7, 8, 0, 1, 2, 131081, 9, true, by decide⟩,
   ⟨ks 1 { count := 0xFFFFFFFE, ncount := 1 }, 0, 7, 8, 0, 1, 131081, 9, by decide⟩,
   ⟨ks 1 { count := 2, ncount := ~~~2, holders := [{ gang := 3, units := 1 }] }, 0, 7, 8, 0, 131081, 9, by decide⟩,
   ⟨ks 1 { count := 2, ncount := ~~~2, holders := [{ gang := 0, units := 1 }] }, 0, 7, 8, 0, 131081, 9, { gang := 0, units := 1 },
     by decide⟩,
   ⟨ks 1 { count := 2, ncount := ~~~2, abandoned := true }, 0, 62, 0, 131081, 9, by decide⟩,
   ⟨(kg fun x => { x with wait := .sync 9 }).onSync fun y =>
     { y with tally := [(9, { value := 3, nvalue := ~~~3, waiters := [wr 4] })] }, 0, 9, 0, wr 4, by decide⟩⟩

/-- The hypotheses of each clause of ReductionInstructions are met. -/
theorem wit_reductionInstructions :
    (∃ (s : State) (g : Nat) (ty : AddTy) (va vs : Nat), s.canIssue g = true ∧ firstFault ((s.issued g).addChecks g ty va
      vs) = none ∧ s.addKept g ty va = false) ∧
    (∃ (s : State) (a : RedAdd) (r : List RedAdd), s.red.inflight = a :: r ∧ s.awake = true ∧ s.tw.tripped = false ∧ a.npart
      = ~~~(BitVec.ofNat 8 a.part) ∧ s.addAdmitted a = true ∧ a.fmt ≠ .xs ∧ s.hostKeeps a.dpa a.fmt.bytes true = false ∧
      s.deckHeld a.dpa a.fmt.bytes = false ∧ s.mem.poisoned a.dpa a.fmt.bytes = false) ∧
    (∃ (s : State) (a : RedAdd) (r : List RedAdd) (b : Bool), s.red.inflight = a :: r ∧ s.awake = true ∧ s.tw.tripped =
      false ∧ a.fmt = .xs) ∧
    (∃ (s : State) (a : RedAdd) (r : List RedAdd) (b : Bool), s.red.inflight = a :: r ∧ s.awake = true ∧ s.tw.tripped =
      false ∧ a.fmt = .xs ∧ a.npart = ~~~(BitVec.ofNat 8 a.part) ∧ s.addAdmitted a = false) ∧
    (∃ (s : State) (a : RedAdd) (r : List RedAdd) (b : Bool), s.red.inflight = a :: r ∧ s.awake = true ∧ s.tw.tripped =
      false ∧ a.fmt = .xs ∧ a.npart ≠ ~~~(BitVec.ofNat 8 a.part)) ∧
    (∃ (s : State) (g us uw i : Nat) (w : Int), s.canIssue g = true ∧ us < 64 ∧ uw < 64 ∧ ((s.gang g).uReg us).toNat = i ∧
      (s.slotOk g i).1 = true ∧ ((s.gang g).uReg uw).toInt = w ∧ -149 ≤ w ∧ w ≤ -32) ∧
    (∃ (s : State) (g us uw i : Nat), s.canIssue g = true ∧ us < 64 ∧ uw < 64 ∧ ((s.gang g).uReg us).toNat = i ∧ (s.slotOk g
      i).1 = false) ∧
    (∃ (s : State) (g ud us i : Nat) (r : RMode), s.canIssue g = true ∧ r ≠ .stoch ∧ ud < 64 ∧ us < 64 ∧ ((s.gang g).uReg
      us).toNat = i ∧ (s.slotOk g i).1 = true ∧ (s.slotAt i).poisoned = false) ∧
    (∃ (s : State) (g ud us i k : Nat), s.canIssue g = true ∧ ud ≤ 58 ∧ ud % 2 = 0 ∧ us < 64 ∧ ((s.gang g).uReg us).toNat =
      i ∧ (s.slotOk g i).1 = true ∧ (s.slotAt i).poisoned = false ∧ k < 6) :=
  ⟨⟨kg fun x => { x with v := [(32, 0x200000), (33, 0x200000), (128, 3), (129, 4)] }, 0, .u32, 1, 4, by decide⟩,
   ⟨(kg id).onRed fun r => { r with inflight := [ra .f32] }, ra .f32, [], by decide⟩,
   ⟨(kg id).onRed fun r => { r with inflight := [ra .xs] }, ra .xs, [], true, by decide⟩,
   ⟨(kg id).onRed fun r => { r with inflight := [{ ra .xs with dpa := 8192 }] }, { ra .xs with dpa := 8192 }, [], true, by decide⟩,
   ⟨(kg id).onRed fun r => { r with inflight := [{ ra .xs with npart := 0 }] }, { ra .xs with npart := 0 }, [], true, by decide⟩,
   ⟨(kg fun x => { x with u := [(0, 8191), (1, 0xFFFFFF6B)] }).onRed fun r =>
     { r with slot := [(8191, { s := 4, nan := true })] }, 0, 0, 1, 8191, -149, by decide⟩,
   ⟨kg fun x => { x with u := [(0, 8192)] }, 0, 0, 1, 8192, by decide⟩,
   ⟨(kg fun x => { x with u := [(0, 8191)] }).onRed fun r => { r with slot := [(8191, { s := 4 })] }, 0, 63, 0, 8191,
     .zero, by decide⟩,
   ⟨(kg fun x => { x with u := [(0, 8191)] }).onRed fun r => { r with slot := [(8191, { s := 4, nan := true })] }, 0, 58,
     0, 8191, 5, by decide⟩⟩

/-- The hypotheses of each clause of ReductionOrder are met. -/
theorem wit_reductionOrder :
    (∃ (s : State) (a : RedAdd) (r : List RedAdd), s.red.inflight = a :: r ∧ s.awake = true ∧ s.tw.tripped = false ∧ a.npart
      = ~~~(BitVec.ofNat 8 a.part) ∧ s.addAdmitted a = true ∧ a.fmt = .xs ∧ (s.slotAt a.dpa).poisoned = false) ∧
    (∃ (s : State) (g vi vx : Nat), s.canIssue g = true ∧ firstFault ((s.issued g).xsChecks g vi vx) = none) ∧
    (∃ (t : Slot) (neg : Bool) (m : Nat) (e : Int), 2 ^ (t.w + 175 - e).toNat ≤ m * 2 ^ (e - (t.w + 175)).toNat) ∧
    (∃ (t : Slot) (neg : Bool) (m : Nat) (e : Int), m * 2 ^ (e - (t.w + 175)).toNat < 2 ^ (t.w + 175 - e).toNat) ∧
    (∃ (t : Slot) (l m : List Sys2Proof.Num), l.Perm m) ∧
    (∃ (t : Slot) (l : List (Bool × Nat × Nat)), (∀ x ∈ l, x.2.1 * 2 ^ x.2.2 < 2 ^ 175)) :=
  ⟨⟨(kg id).onRed fun r => { r with inflight := [ra .xs] }, ra .xs, [], by decide⟩,
   ⟨kg fun x => { x with v := [(32, 5), (33, 8191), (128, 0x3F800000), (129, 0x40000000)] }, 0, 1, 4, by decide⟩,
   ⟨{ w := -32 }, true, 1, 143, by decide⟩,
   ⟨{ w := -32 }, true, 3, -33, by decide⟩,
   ⟨{ w := -32 }, [.nan, .fin true 3 (-33)], [.fin true 3 (-33), .nan], .swap _ _ _⟩,
   ⟨{ w := -32 }, [(true, 3, 0), (false, 1, 174)], by decide⟩⟩

/-- The hypotheses of each clause of DeferredAndCommits are met. -/
theorem wit_deferredAndCommits :
    (∃ (s : State) (g : Nat) (ty : AddTy) (va vs : Nat), s.canIssue g = true ∧ firstFault ((s.issued g).addChecks g ty va
      vs) = none) ∧
    (∃ (s : State) (g vi vx : Nat), s.canIssue g = true ∧ firstFault ((s.issued g).xsChecks g vi vx) = none) ∧
    (∃ (s : State) (g key : Nat) (k : DfrKind) (f : DfrEntry → DfrEntry) (now : State → State), (s.blk (s.blockOf g)).early
      = false ∧ s.newKey g k key = true ∧ (s.coreAt (gCore g)).dfr.length < 256) ∧
    (∃ (s : State) (g key : Nat) (k : DfrKind) (f : DfrEntry → DfrEntry) (now : State → State), (s.blk (s.blockOf g)).early
      = false ∧ s.newKey g k key = true ∧ 256 ≤ (s.coreAt (gCore g)).dfr.length) ∧
    (∃ (s : State) (b : Nat), (s.core.block.find b).isSome = true ∧ (s.blk b).exited = true ∧ (s.blk b).commitSent = false ∧
      (∀ w ∈ s.mem.rmw, w.block ≠ b) ∧ s.mem.comb.look (s.blk b).core [] = [] ∧ (s.coreAt (s.blk b).core).mover = [] ∧
      s.awake = true ∧ s.tw.tripped = false ∧ (s.ctx (s.launch (s.blk b).launch).ctx).st = .live) ∧
    (∃ (s : State) (b : Nat), (s.core.block.find b).isSome = true ∧ (s.blk b).exited = true ∧ (s.blk b).commitSent = false ∧
      (∀ w ∈ s.mem.rmw, w.block ≠ b) ∧ s.mem.comb.look (s.blk b).core [] = [] ∧ (s.coreAt (s.blk b).core).mover = [] ∧
      s.awake = true ∧ s.tw.tripped = false ∧ (s.ctx (s.launch (s.blk b).launch).ctx).st = .live ∧ (s.blk b).early = false) ∧
    (∃ (s : State) (i : Nat) (c : Commit) (l : Launch), s.red.commits[i]? = some c ∧ s.launch c.launch = l ∧ s.awake = true
      ∧ (∀ e ∈ c.entries, ∀ ty, e.kind = .memAdd ty → s.deckHeld e.key (addFmt ty).bytes = false) ∧ l.live = true ∧ (s.ctx
      c.ctx).st = .live ∧ l.replayable = true ∧ l.status = true ∧ c.early = false ∧ l.ledger.look c.index false = false ∧
      s.tw.tripped = false) ∧
    (∃ (s : State) (i : Nat) (c : Commit) (l : Launch), s.red.commits[i]? = some c ∧ s.launch c.launch = l ∧ s.awake = true
      ∧ (∀ e ∈ c.entries, ∀ ty, e.kind = .memAdd ty → s.deckHeld e.key (addFmt ty).bytes = false) ∧ l.live = true ∧ (s.ctx
      c.ctx).st = .live ∧ l.replayable = true ∧ l.status = true ∧ c.early = false ∧ l.ledger.look c.index false = true) :=
  ⟨⟨kr fun x => { x with v := [(32, 0x200000), (33, 0x200000), (128, 3), (129, 4)] }, 0, .u32, 1, 4, by decide⟩,
   ⟨kr fun x => { x with v := [(32, 5), (33, 8191), (128, 0x3F800000), (129, 0x40000000)] }, 0, 1, 4, by decide⟩,
   ⟨kr id, 0, 5, .xs, id, id, by decide⟩,
   ⟨(kr id).onCoreAt 0 fun c => { c with dfr := List.replicate 256 (de 6) }, 0, 5, .xs, id, id, by decide⟩,
   ⟨(kr id).onBlk 1 fun b => { b with exited := true }, 1, by decide⟩,
   ⟨(kr id).onBlk 1 fun b => { b with exited := true }, 1, by decide⟩,
   ⟨(kr id).onRed fun r => { r with commits := [cm] }, 0, cm, _, by decide, rfl, by decide, fun _ h => absurd h List.not_mem_nil,
     by decide⟩,
   ⟨((kr id).onLaunch 1 fun l => { l with ledger := [(0, true)] }).onRed fun r => { r with commits := [cm] }, 0, cm, _,
     by decide, rfl, by decide, fun _ h => absurd h List.not_mem_nil, by decide⟩⟩

/-- The hypotheses of each clause of HomesAndStores are met. -/
theorem wit_homesAndStores :
    (∃ (s : State) (l x w p : Nat) (k : ReqKind) (b : List Byte), hbmLine l = true ∧ s.awake = true ∧ x < 8 ∧ s.owner (4 * x
      + w / 4) = some p ∧ s.homeRefuses l x p = none ∧ (s.fillWay x w l).isSome = true ∧ s.dirAt l = {} ∧ (∀ e ∈
      s.mem.resv.look (l * 256 / 0x900000000) [], e.1 ≠ l) ∧ k ≠ .writeBack ∧ k ≠ .evict) ∧
    (∃ (s : State) (l x w p : Nat) (k : ReqKind) (b : List Byte), hbmLine l = true ∧ s.awake = true ∧ x < 8 ∧ s.owner (4 * x
      + w / 4) = some p ∧ s.homeRefuses l x p = none ∧ 16 ≤ (s.dirAt l).queue.length ∧ k ≠ .writeBack ∧ k ≠ .evict) ∧
    (∃ (s : State) (l x w p d : Nat) (k : ReqKind) (b : List Byte), hbmLine l = true ∧ s.awake = true ∧ x < 8 ∧ s.owner (4 *
      x + w / 4) = some p ∧ s.homeRefuses l x p = some d ∧ k ≠ .writeBack ∧ k ≠ .evict) ∧
    (∃ (s : State) (l x w : Nat) (b : List Byte), hbmLine l = true ∧ s.awake = true ∧ x < 8 ∧ ((s.dirAt l).at_ x = .m ∨
      (s.dirAt l).at_ x = .o)) ∧
    (∃ (d : DirLine) (x : Nat) (k : ReqKind), d.coherent) ∧
    (∃ (s : State) (l x : Nat) (r : HomeReq), s.mem.nacked.find? (fun e => e.1 == l && e.2.agent == x) = some (l, r) ∧ r.due
      ≤ s.nowNs ∧ (s.dirAt l).queue.length < 16) ∧
    (∃ (s : State) (l y : Nat), (s.dirAt l).fwdTo = some y ∧ (l, y) ∉ s.mem.fwdWait ∧ y ∈ (s.dirAt l).tenure) ∧
    (∃ (s : State) (l y : Nat), (s.dirAt l).fwdTo = some y ∧ (l, y) ∉ s.mem.fwdWait ∧ y ∉ (s.dirAt l).tenure) ∧
    (∃ (s : State) (l x : Nat), x ∈ (s.dirAt l).tenure ∧ (l, x) ∉ s.mem.fwdWait ∧ (s.dirAt l).snoop = none) ∧
    (∃ (s : State) (l : Nat) (r : HomeReq) (q : List HomeReq), (s.dirAt l).busy = true ∧ (s.dirAt l).fwdTo = none ∧ (s.dirAt
      l).queue = r :: q ∧ (s.dirAt l).at_ 9 = .s) ∧
    (∃ (s : State) (c : Nat) (bad : Byte) (e : Comb) (r : List Comb), s.mem.comb.look c [] = e :: r ∧ s.awake = true ∧
      s.tw.tripped = false) ∧
    (∃ (s : State) (w : LighterStore) (r : List LighterStore), s.mem.rmw = w :: r ∧ s.awake = true ∧ s.tw.tripped = false ∧
      s.deckHeld w.dpa 48 = false) :=
  ⟨⟨upP, 5, 0, 3, 0, .readShared, [], by decide⟩,
   ⟨upP.onDir 5 fun d => { d with queue := List.replicate 16 { agent := 1, kind := .readOwn, nacks := 0 }, busy := true },
     5, 0, 3, 0, .readOwn, [], by decide⟩,
   ⟨upP, 0x2400000, 0, 3, 0, 1, .readOwn, [], by decide⟩,
   ⟨upP.onDir 5 fun d => { d with agents := [(2, .s), (7, .o)] }, 5, 7, 0, [], by decide⟩,
   ⟨{ agents := [(2, .s), (7, .o)] }, 3, .readShared, wit_coherent⟩,
   ⟨upP.onMem fun m => { m with nacked := [(5, { agent := 7, kind := .readOwn, nacks := 1 })] }, 5, 7,
     { agent := 7, kind := .readOwn, nacks := 1 }, by decide⟩,
   ⟨upP.onDir 5 fun d =>
     { d with agents := [(7, .m)], queue := [{ agent := 1, kind := .readOwn, nacks := 0 }], busy := true, fwdTo := some 7, tenure := [7] },
     5, 7, by decide⟩,
   ⟨upP.onDir 5 fun d =>
     { d with agents := [(7, .m)], queue := [{ agent := 1, kind := .readOwn, nacks := 0 }], busy := true, fwdTo := some 7 },
     5, 7, by decide⟩,
   ⟨upP.onDir 5 fun d => { d with agents := [(7, .m)], tenure := [3, 7] }, 5, 7, by decide⟩,
   ⟨upP.onDir 5 fun d =>
     { d with agents := [(9, .s)], busy := true, queue := [{ agent := 1, kind := .readShared, nacks := 0 }] }, 5,
     { agent := 1, kind := .readShared, nacks := 0 }, [], by decide⟩,
   ⟨upP.onMem fun m => { m with comb := [(3, [{ ctx := objKey 0 1, va := 0x200000, data := [some 3], block := 1 }])] }, 3, 0,
     { ctx := objKey 0 1, va := 0x200000, data := [some 3], block := 1 }, [], by decide⟩,
   ⟨upP.onMem fun m =>
     { m with rmw := [{ ctx := objKey 0 1, block := 1, part := 0, dpa := 0x10000000, off := 4, bytes := [1, 2], whole := false }] },
     { ctx := objKey 0 1, block := 1, part := 0, dpa := 0x10000000, off := 4, bytes := [1, 2], whole := false }, [], by
     decide⟩⟩

/-- The hypotheses of each clause of FleetMembership are met. -/
theorem wit_fleetMembership :
    (∃ s : State, s.awake = true ∧ s.isWorker = true ∧ s.fleet.devNum = none) ∧
    (∃ (s x : State) (port : Nat) (m : FleetMsg), s.fleetUp = true ∧ s.Takes (isMsg 8 1) port m x ∧ x.isManager = true ∧ mf
      m 12 1 ≤ 2 ∧ mf m 8 4 = 0) ∧
    (∃ (s t : State) (sn : DWord) (n : Nat) (path : List Nat) (peers : List DWord), s.fleetUp = true ∧ s.isManager = true ∧
      s.fleet.roundOpen = true ∧ s.fleet.roundTick + 160000 ≤ s.time.tick ∧ s.fleet.round = [(sn, 0, path, peers)] ∧
      (s.onFleet fun f => { f with round := [], roundOpen := false }) = t ∧ t.oldNumber sn = none ∧ t.newNumber sn = some n) ∧
    (∃ s : State, s.time.tick < s.fleet.roundTick + 160000) ∧
    (∃ (s x : State) (port : Nat) (m : FleetMsg) (b : Bool), s.fleetUp = true ∧ s.Takes (isMsg 8 2) port m x ∧ m.dst = 0xFF
      ∧ x.isWorker = true ∧ BitVec.ofNat 64 (mf m 0 8) = Config.serial ∧ x.fleet.id = BitVec.ofNat 32 (mf m 12 4) ∧
      x.fleet.id ≠ 0 ∧ x.fleet.own ≠ .adrift) ∧
    (∃ (s x t : State) (port : Nat) (m : FleetMsg), s.fleetUp = true ∧ s.Takes (isMsg 8 3) port m x ∧ x.installRoutes
      (m.body.map BitVec.toNat) = t ∧ t.isManager = false) ∧
    (∃ s : State, s.fleetUp = true ∧ s.isManager = true) ∧
    (∃ (s x : State) (port : Nat) (m : FleetMsg), s.fleetUp = true ∧ s.Takes (isMsg 8 0) port m x ∧ x.isManager = true ∧
      (x.fdev m.src).returning = false ∧ (x.fdev m.src).st = .joined) ∧
    (∃ (s : State) (d : Nat), s.awake = true ∧ s.isManager = true ∧ d ≠ 0 ∧ (s.fdev d).st = .joined ∧ (s.fdev d).lastBeat +
      64000 ≤ s.time.tick) ∧
    (∃ (s : State) (d c : Nat), s.awake = true ∧ s.isManager = true ∧ d ≠ 0 ∧ (s.fdev d).st = .asleep ∧ s.egressUp d = none
      ∧ (s.fdev d).cutFrom = some c ∧ c + 64000 ≤ s.time.tick) ∧
    (∃ (s : State) (d : Nat), (s.fdev d).st = .joined ∧ s.time.tick < (s.fdev d).lastBeat + 64000) ∧
    (∃ s : State, s.awake = true ∧ s.isWorker = true ∧ s.fleet.own = .joined ∧ (s.fdev 0).st ≠ .asleep ∧ s.fleet.mgrBeat +
      64000 ≤ s.time.tick) ∧
    (∃ (s x : State) (port : Nat) (m : FleetMsg), s.awake = true ∧ s.Takes (isMsg 8 4) port m x ∧ x.isManager = false ∧
      m.src = 0) ∧
    (∃ (s x : State) (port : Nat) (m : FleetMsg), s.awake = true ∧ s.Takes (isMsg 9 0) port m x ∧ x.isManager = true ∧ mf m
      1 1 = 0xFF - mf m 0 1 ∧ mf m 0 1 = 2 ∧ (x.fdev m.src).st = .joined) ∧
    (∃ (s x : State) (port : Nat) (m : FleetMsg), s.awake = true ∧ s.Takes (isMsg 9 0) port m x ∧ x.isManager = true ∧ mf m
      1 1 = 0xFF - mf m 0 1 ∧ mf m 0 1 = 3 ∧ (x.fdev m.src).st = .joined) ∧
    (∃ (s : State) (v : Word), s.boot.ready = true ∧ v.getLsbD 29 = false ∧ v.getLsbD 30 = false ∧ s.hostWake.isStandalone =
      false) ∧
    (∃ (s : State) (v : Word), s.boot.ready = true ∧ v.getLsbD 29 = false ∧ v.getLsbD 31 = false ∧ s.hostWake.isManager =
      true ∧ (s.hostWake.fdev (bits v 0 6)).st = .lost) ∧
    (∃ (s : State) (v : Word), s.boot.ready = true ∧ v.getLsbD 30 = false ∧ v.getLsbD 31 = false ∧ s.hostWake.isWorker =
      true ∧ s.hostWake.fleet.devNum = none) :=
  ⟨⟨{ wkr with fleet := { own := .unjoined }, hws := [(3, { st := .active })] }, by decide⟩,
   ⟨got mgr mAnn, left mgr mAnn, 0, mAnn, by decide, ⟨_, _, rfl, rfl, by decide⟩, by decide⟩,
   ⟨(mgr.onFleet fun f => { f with round := [(5, 0, [1], [])], roundOpen := true }).onTime fun t => { t with tick := 160000 }, _, 5, 1,
     [1], [], by decide, by decide, by decide, by decide, by decide, rfl, by decide⟩,
   ⟨mgr, by decide⟩,
   ⟨got wkr mAsg, left wkr mAsg, 0, mAsg, true, by decide, ⟨_, _, rfl, rfl, by decide⟩, by decide, by decide, wit_serial,
     by decide, by decide, by decide⟩,
   ⟨got wkr mRts, left wkr mRts, (left wkr mRts).installRoutes [3, 4], 0, mRts, by decide, ⟨_, _, rfl, rfl, by decide⟩,
     rfl, by decide⟩,
   ⟨mb {}, by decide⟩,
   ⟨got (mb {}) (msg 8 0 1 0 (List.replicate 8 0)), left (mb {}) (msg 8 0 1 0 (List.replicate 8 0)), 0, msg 8 0 1 0
     (List.replicate 8 0), by decide, ⟨_, _, rfl, rfl, by decide⟩, by decide⟩,
   ⟨(mb {}).onTime fun t => { t with tick := 64000 }, 1, by decide⟩,
   ⟨(mgr.onFleet fun f => { f with dev := [(1, { st := .asleep, cutFrom := some 0 })] }).onTime fun t => { t with tick := 64000 }, 1, 0,
     by decide⟩,
   ⟨(mb {}).onTime fun t => { t with tick := 63999 }, 1, by decide⟩,
   ⟨wkr.onTime fun t => { t with tick := 64000 }, by decide⟩,
   ⟨got wkr (msg 8 4 0 1 [2]), left wkr (msg 8 4 0 1 [2]), 0, msg 8 4 0 1 [2], by decide, ⟨_, _, rfl, rfl, by decide⟩, by
     decide⟩,
   ⟨got (mb {}) (msg 9 0 1 0 [2, 0xFD]), left (mb {}) (msg 9 0 1 0 [2, 0xFD]), 0, msg 9 0 1 0 [2, 0xFD], by decide, ⟨_, _,
     rfl, rfl, by decide⟩, by decide⟩,
   ⟨got (mb {}) (msg 9 0 1 0 [3, 0xFC]), left (mb {}) (msg 9 0 1 0 [3, 0xFC]), 0, msg 9 0 1 0 [3, 0xFC], by decide, ⟨_, _,
     rfl, rfl, by decide⟩, by decide⟩,
   ⟨wkr, 0x90000000, by decide⟩,
   ⟨(mb {}).onFleet fun f => { f with dev := [(63, { st := .lost, sn := 4 })] }, 0x4000003F, by decide⟩,
   ⟨{ wkr with fleet := { id := 9 } }, 0x20000000, by decide⟩⟩

/-- The hypotheses of each clause of FleetMessages are met. -/
theorem wit_fleetMessages :
    (∃ (s x : State) (port : Nat) (m : FleetMsg), s.awake = true ∧ s.Takes (fun m => isMsg 1 0 m && s.fwdRoom m) port m x ∧
      x.isManager = false ∧ m.src = 0 ∧ x.seen m = some []) ∧
    (∃ (s x t u : State) (port k : Nat) (m : FleetMsg) (p : Packet), s.awake = true ∧ s.Takes (fun m => isMsg 1 0 m &&
      s.fwdRoom m) port m x ∧ x.isManager = false ∧ m.src = 0 ∧ x.seen m = none ∧ mf m 6 2 % 4096 = k ∧ k < 32 ∧ 
      ({ bytes := m.body, arrival := x.nowNs, pid := x.q.nextPid } : Packet) = p ∧ p.f 3 1 * 64 = m.body.length ∧ (((((x.accept m).onQ
      fun y => { y with nextPid := y.nextPid + 1 }).onFleet fun f => { f with fwdIn := f.fwdIn ++ [(p.pid, m.msgId, m.src)]
      }).onQueue (.fwd k) fun y => { y with enabled := true })) = t ∧ (if t.pwr.dev = .ready then (t.onPwr fun w => { w with
      dev := .awake }).raise 5 else t) = u) ∧
    (∃ (s x : State) (port pid d : Nat) (m : FleetMsg) (id i : DWord), s.awake = true ∧ s.Takes (isMsg 2 0) port m x ∧
      BitVec.ofNat 64 (mf m 0 8) = id ∧ (x.freed id m.src).fleet.fwdOut.find? (fun e => e.2.1 == id && e.2.2 == m.src) =
      some (pid, i, d)) ∧
    (∃ (s x t : State) (port pid d : Nat) (m : FleetMsg) (h : HeldMsg) (id i : DWord), s.awake = true ∧ s.Takes (isMsg 2 1)
      port m x ∧ BitVec.ofNat 64 (mf m 0 8) = id ∧ x.fleet.held.find? (fun h => h.msg.msgId == id && h.msg.dst == m.src) =
      some h ∧ isMsg 3 2 h.msg = false ∧ (x.freed id m.src).rwAnswered id = t ∧ t.fleet.syncOut.find? (fun e => e.2.1 == id
      && e.2.2 == m.src) = some (pid, i, d)) ∧
    (∃ (s x : State) (port pid d : Nat) (m : FleetMsg) (t : DWord) (i : Inflight), s.awake = true ∧ s.Takes (isMsg 2 2) port
      m x ∧ x.fleet.importOut.find? (fun e => e.2.1 == BitVec.ofNat 64 (mf m 0 8) && e.2.2 == m.src) = some (pid, t, d) ∧
      x.inflight pid = some i) ∧
    (∃ (s x : State) (port pid d : Nat) (m : FleetMsg) (t : DWord), s.awake = true ∧ s.Takes (isMsg 2 3) port m x ∧
      x.fleet.importOut.find? (fun e => e.2.1 == BitVec.ofNat 64 (mf m 0 8) && e.2.2 == m.src) = some (pid, t, d)) ∧
    (∃ (s x : State) (port : Nat) (m : FleetMsg), s.awake = true ∧ s.remoteWaits 5 = false ∧ s.Takes (fun m => m.cls == 5)
      port m x ∧ x.seen m = none ∧ m.sub = 0 ∧ (x.accept m).remoteOk m.src (mf m 8 1) (mf m 0 8) (m.body.drop 16).length =
      true) ∧
    (∃ (s x : State) (port : Nat) (m : FleetMsg), s.awake = true ∧ s.remoteWaits 5 = false ∧ s.Takes (fun m => m.cls == 5)
      port m x ∧ x.seen m = none ∧ m.sub = 0 ∧ (x.accept m).remoteOk m.src (mf m 8 1) (mf m 0 8) (m.body.drop 16).length =
      false) ∧
    (∃ (s x : State) (port n : Nat) (m : FleetMsg), s.awake = true ∧ s.remoteWaits 6 = false ∧ s.Takes (fun m => m.cls == 6
      && decide (m.sub < 2)) port m x ∧ mf m 12 4 = n ∧ 1 ≤ n ∧ n ≤ 4096 ∧ n % 64 = 0 ∧ mf m 0 8 % 64 = 0 ∧ m.sub = 0) ∧
    (∃ (s x : State) (port n : Nat) (m : FleetMsg), s.awake = true ∧ s.remoteWaits 6 = false ∧ s.Takes (fun m => m.cls == 6
      && decide (m.sub < 2)) port m x ∧ mf m 12 4 = n ∧ 1 ≤ n ∧ n ≤ 4096 ∧ n % 64 = 0 ∧ mf m 0 8 % 64 = 0 ∧ m.sub = 0 ∧
      x.remoteOk m.src (mf m 8 1) (mf m 0 8) n = true ∧ (∀ v ∈ unitsOf (mf m 0 8) n, x.unitMarked v = false)) ∧
    (∃ (s x : State) (port n : Nat) (m : FleetMsg), s.awake = true ∧ s.remoteWaits 6 = false ∧ s.Takes (fun m => m.cls == 6
      && decide (m.sub < 2)) port m x ∧ mf m 12 4 = n ∧ 1 ≤ n ∧ n ≤ 4096 ∧ n % 64 = 0 ∧ mf m 0 8 % 64 = 0 ∧ m.sub = 0 ∧
      x.remoteOk m.src (mf m 8 1) (mf m 0 8) n = false) ∧
    (∃ (s x : State) (port : Nat) (m : FleetMsg), s.awake = true ∧ s.Takes (isMsg 6 2) port m x ∧ x.verifyToken (m.body.take
      16) = none) ∧
    (∃ (s x : State) (port : Nat) (m : FleetMsg) (v : DWord), s.awake = true ∧ s.Takes (isMsg 6 2) port m x ∧ x.verifyToken
      (m.body.take 16) = some v) ∧
    (∃ (s x : State) (port : Nat) (m : FleetMsg) (c : Instr), s.awake = true ∧ ((c = .tallyAddRemoteReceive ∧ s.Takes (isMsg
      3 0) port m x) ∨ (c = .semRemoteReceive ∧ s.Takes (isMsg 4 0) port m x) ∨ (c = .mirrorUpdateReceive ∧ s.Takes (isMsg 3
      1) port m x)) ∧ (x.seen m).isSome = true) ∧
    (∃ (s x : State) (port : Nat) (m : FleetMsg), s.awake = true ∧ s.Takes (isMsg 3 0) port m x ∧ x.seen m = none ∧
      x.fleet.closed = none) ∧
    (∃ (s x : State) (port : Nat) (m : FleetMsg), s.awake = true ∧ s.Takes (isMsg 4 0) port m x ∧ x.seen m = none ∧
      x.fleet.closed = none) ∧
    (∃ (s x : State) (port : Nat) (m : FleetMsg), s.awake = true ∧ s.Takes (isMsg 3 1) port m x ∧ x.seen m = none ∧
      x.fleet.closed = none ∧ (x.accept m).mirrorsOf m.src (fun y => y.event == mf m 0 4 && y.part == mf m 4 1 && y.gen ==
      mf m 5 3) = []) ∧
    (∃ (s x : State) (port k c : Nat) (m : FleetMsg), s.awake = true ∧ s.Takes (isMsg 3 1) port m x ∧ x.seen m = none ∧
      x.fleet.closed = none ∧ (x.accept m).mirrorsOf m.src (fun y => y.event == mf m 0 4 && y.part == mf m 4 1 && y.gen ==
      mf m 5 3) = [(k, c)] ∧ ((x.accept m).tally c).orphaned = false ∧ mf m 16 1 = 0) ∧
    (∃ (s x : State) (port e : Nat) (m : FleetMsg), s.awake = true ∧ s.Takes (isMsg 3 2) port m x ∧ x.seen m = none ∧
      x.fleet.consFor m.src (mf m 6 2) (mf m 0 4) = some e) ∧
    (∃ (s : State) (v : Word) (e : Nat), s.boot.ready = true ∧ s.hostWake.fleet.pairAt = (false, e) ∧
      (s.hostWake.fleet.prod.look e {}).byManager = false ∧ v.getLsbD 31 = false) ∧
    (∃ (s x : State) (port : Nat) (m : FleetMsg) (c : Instr), s.awake = true ∧ ((c = .tallyAddRemoteReceive ∧ s.Takes (isMsg
      3 0) port m x) ∨ (c = .semRemoteReceive ∧ s.Takes (isMsg 4 0) port m x) ∨ (c = .mirrorUpdateReceive ∧ s.Takes (isMsg 3
      1) port m x)) ∧ (x.seen m).isSome = true ∧ c = .semRemoteReceive) ∧
    (∃ (s x : State) (port : Nat) (m : FleetMsg) (c : Instr), s.awake = true ∧ ((c = .tallyAddRemoteReceive ∧ s.Takes (isMsg
      3 0) port m x) ∨ (c = .semRemoteReceive ∧ s.Takes (isMsg 4 0) port m x) ∨ (c = .mirrorUpdateReceive ∧ s.Takes (isMsg 3
      1) port m x)) ∧ (x.seen m).isSome = true ∧ c = .mirrorUpdateReceive) :=
  ⟨⟨got wks { mFwd with msgId := 77 }, left wks { mFwd with msgId := 77 }, 0, { mFwd with msgId := 77 }, by decide, ⟨_, _,
     rfl, rfl, by decide⟩, by decide⟩,
   ⟨got wkr mFwd, left wkr mFwd, (((((left wkr mFwd).accept mFwd).onQ fun y =>
     { y with nextPid := y.nextPid + 1 }).onFleet fun f =>
     { f with fwdIn := f.fwdIn ++ [(0, mFwd.msgId, mFwd.src)] }).onQueue (.fwd 31) fun y => { y with enabled := true }),
     _, 0, 31, mFwd, { bytes := mFwd.body, arrival := 0, pid := 0 }, by decide, ⟨_, _, rfl, rfl, by decide⟩, by decide, by
     decide, by decide, by decide, by decide, by decide, by decide, rfl, rfl⟩,
   ⟨got ((mb {}).onFleet fun f => { f with fwdOut := [(7, 77, 1)] }) (mSt 0), left ((mb {}).onFleet fun f =>
     { f with fwdOut := [(7, 77, 1)] }) (mSt 0), 0, 7, 1, mSt 0, 77, 77, by decide, ⟨_, _, rfl, rfl, by decide⟩, by
     decide⟩,
   ⟨got ((mb {}).onFleet fun f =>
     { f with held := [{ msg := msg 3 0 0 1 [], sent := true, stamped := true }], syncOut := [(7, 77, 1)] }) (mSt 1), left
     ((mb {}).onFleet fun f =>
     { f with held := [{ msg := msg 3 0 0 1 [], sent := true, stamped := true }], syncOut := [(7, 77, 1)] }) (mSt 1),
     ((left ((mb {}).onFleet fun f =>
     { f with held := [{ msg := msg 3 0 0 1 [], sent := true, stamped := true }], syncOut := [(7, 77, 1)] }) (mSt
     1)).freed 77 1).rwAnswered 77, 0, 7, 1, mSt 1, { msg := msg 3 0 0 1 [], sent := true, stamped := true }, 77, 77, by
     decide, ⟨_, _, rfl, rfl, by decide⟩, by decide, by decide, by decide, rfl, by decide⟩,
   ⟨got (disp ((mb {}).onFleet fun f => { f with importOut := [(7, 77, 1)] }) { q := .admin 0, pkt := pk 0x16 hc }) (mSt
     2), left (disp ((mb {}).onFleet fun f => { f with importOut := [(7, 77, 1)] }) { q := .admin 0, pkt := pk 0x16 hc })
     (mSt 2), 0, 7, 1, mSt 2, 77, { q := .admin 0, pkt := pk 0x16 hc }, by decide, ⟨_, _, rfl, rfl, by decide⟩, by decide⟩,
   ⟨got ((mb {}).onFleet fun f => { f with importOut := [(7, 77, 1)] }) (mSt 3), left ((mb {}).onFleet fun f =>
     { f with importOut := [(7, 77, 1)] }) (mSt 3), 0, 7, 1, mSt 3, 77, by decide, ⟨_, _, rfl, rfl, by decide⟩, by decide⟩,
   ⟨got wk1 (mWr 0), left wk1 (mWr 0), 0, mWr 0, by decide, by decide, ⟨_, _, rfl, rfl, by decide⟩, by decide⟩,
   ⟨got wk1 (mWr 9), left wk1 (mWr 9), 0, mWr 9, by decide, by decide, ⟨_, _, rfl, rfl, by decide⟩, by decide⟩,
   ⟨got wk1 mRd, left wk1 mRd, 0, 64, mRd, by decide, by decide, ⟨_, _, rfl, rfl, by decide⟩, by decide⟩,
   ⟨got wk1 mRd, left wk1 mRd, 0, 64, mRd, by decide, by decide, ⟨_, _, rfl, rfl, by decide⟩, by decide⟩,
   ⟨got wk1 mRe, left wk1 mRe, 0, 64, mRe, by decide, by decide, ⟨_, _, rfl, rfl, by decide⟩, by decide⟩,
   ⟨got wk1 (msg 6 2 0 1 []), left wk1 (msg 6 2 0 1 []), 0, msg 6 2 0 1 [], by decide, ⟨_, _, rfl, rfl, by decide⟩, by
     decide⟩,
   ⟨got wke mTok, left wke mTok, 0, mTok, 0, by decide, ⟨_, _, rfl, rfl, by decide⟩, wit_token2⟩,
   ⟨got wks (mSy 3 0), left wks (mSy 3 0), 0, mSy 3 0, .tallyAddRemoteReceive, by decide, .inl ⟨by decide, _, _, rfl, rfl,
     by decide⟩, by decide⟩,
   ⟨got wkr (mSy 3 0), left wkr (mSy 3 0), 0, mSy 3 0, by decide, ⟨_, _, rfl, rfl, by decide⟩, by decide⟩,
   ⟨got wkr (mSy 4 0), left wkr (mSy 4 0), 0, mSy 4 0, by decide, ⟨_, _, rfl, rfl, by decide⟩, by decide⟩,
   ⟨got (wkm 0x40006) mUp, left (wkm 0x40006) mUp, 0, mUp, by decide, ⟨_, _, rfl, rfl, by decide⟩, by decide⟩,
   ⟨got (wkm 0x40005) mUp, left (wkm 0x40005) mUp, 0, objKey 0 2, 9, mUp, by decide, ⟨_, _, rfl, rfl, by decide⟩, by
     decide⟩,
   ⟨got wkr (mSy 3 2), left wkr (mSy 3 2), 0, 0, mSy 3 2, by decide, ⟨_, _, rfl, rfl, by decide⟩, by decide⟩,
   ⟨(mb {}).onFleet fun f => { f with pairSel := 4095, prod := [(4095, { valid := true, peer := 1 })] }, 0, 4095, by
     decide⟩,
   ⟨got wks (mSy 4 0), left wks (mSy 4 0), 0, mSy 4 0, .semRemoteReceive, by decide, .inr (.inl ⟨by decide, _, _, rfl,
     rfl, by decide⟩), by decide, by decide⟩,
   ⟨got wks mUp, left wks mUp, 0, mUp, .mirrorUpdateReceive, by decide, .inr (.inr ⟨by decide, _, _, rfl, rfl, by
     decide⟩), by decide, by decide⟩⟩

/-- The hypotheses of each clause of SlackWaterBarrier are met. -/
theorem wit_slackWaterBarrier :
    (∃ s : State, s.awake = true ∧ s.isManager = true ∧ s.fleet.barrierEn = true ∧ s.fleet.bar.phase = .idle ∧
      s.fleet.lastBarrier + s.fleet.period.toNat * 8000 ≤ s.time.tick) ∧
    (∃ (s x : State) (port : Nat) (m : FleetMsg), s.awake = true ∧ s.Takes (isMsg 7 0) port m x ∧ x.isManager = false ∧
      m.src = 0) ∧
    (∃ s : State, s.awake = true ∧ s.fleet.bar.owesDrained = true ∧ s.drainedOf s.fleet.bar.k = false) ∧
    (∃ s t : State, s.awake = true ∧ s.fleet.bar.owesDrained = true ∧ s.drainedOf s.fleet.bar.k = true ∧ s.isManager = false
      ∧ ((s.onFleet fun f => { f with prod := f.prod.map fun e => (e.1, e.2.fold s.fleet.bar.k) }).onBar fun b => { b with
      owesDrained := false }) = t) ∧
    (∃ (s x : State) (port : Nat) (m : FleetMsg), s.awake = true ∧ s.Takes (isMsg 7 1) port m x ∧ x.isManager = true ∧ mf m
      0 4 = x.fleet.bar.k ∧ m.src ∈ x.fleet.bar.parts ∧ x.fleet.bar.phase = .open_) ∧
    (∃ s : State, s.awake = true ∧ s.isManager = true ∧ s.fleet.bar.phase = .open_ ∧ s.fleet.bar.openTick +
      s.fleet.bar.drainUs * 8 ≤ s.time.tick) ∧
    (∃ (s x : State) (port : Nat) (m : FleetMsg), s.awake = true ∧ s.Takes (isMsg 7 2) port m x ∧ x.isManager = false ∧
      m.src = 0) ∧
    (∃ (s x : State) (port : Nat) (m : FleetMsg), s.awake = true ∧ s.Takes (isMsg 7 3) port m x ∧ x.isManager = true ∧ mf m
      0 4 = x.fleet.bar.k ∧ m.src ∈ x.fleet.bar.parts ∧ x.fleet.bar.phase = .close) ∧
    (∃ (s x : State) (port : Nat) (m : FleetMsg), s.awake = true ∧ s.Takes (isMsg 7 4) port m x ∧ x.isManager = false ∧
      m.src = 0 ∧ mf m 8 4 ∈ x.fleet.advSeen) ∧
    (∃ (s x : State) (port : Nat) (m : FleetMsg), s.awake = true ∧ s.Takes (isMsg 7 4) port m x ∧ x.isManager = false ∧
      m.src = 0 ∧ mf m 8 4 ∉ x.fleet.advSeen ∧ mf m 4 2 = 1) ∧
    (∃ (s x : State) (port : Nat) (m : FleetMsg), s.awake = true ∧ s.Takes (isMsg 7 5) port m x ∧ x.isManager = false ∧
      m.src = 0) :=
  ⟨⟨(mb {}).onTime fun t => { t with tick := 800000 }, by decide⟩,
   ⟨got wkr (mBar 0), left wkr (mBar 0), 0, mBar 0, by decide, ⟨_, _, rfl, rfl, by decide⟩, by decide⟩,
   ⟨wkr.onFleet fun f =>
     { f with bar := { k := 4, owesDrained := true }, held := [{ msg := { msg 3 0 1 0 [] with epoch := 4 }, sent := true, stamped := true }] },
     by decide⟩,
   ⟨wkr.onFleet fun f =>
     { f with bar := { k := 4, owesDrained := true }, prod := [(1, { valid := true, total := 5, byEpoch := [(4, 2)] })] },
     (let s := wkr.onFleet fun f =>
     { f with bar := { k := 4, owesDrained := true }, prod := [(1, { valid := true, total := 5, byEpoch := [(4, 2)] })] };
     ((s.onFleet fun f => { f with prod := f.prod.map fun e => (e.1, e.2.fold s.fleet.bar.k) }).onBar fun b =>
     { b with owesDrained := false })), by decide, by decide, by decide, by decide, rfl⟩,
   ⟨got (mb { phase := .open_, k := 4, parts := [1, 2] }) (mRep 1), left (mb { phase := .open_, k := 4, parts := [1, 2] })
     (mRep 1), 0, mRep 1, by decide, ⟨_, _, rfl, rfl, by decide⟩, by decide⟩,
   ⟨(mb { phase := .open_, k := 4, parts := [1, 2] }).onTime fun t => { t with tick := 80000 }, by decide⟩,
   ⟨got wkr (mBar 2), left wkr (mBar 2), 0, mBar 2, by decide, ⟨_, _, rfl, rfl, by decide⟩, by decide⟩,
   ⟨got (mb { phase := .close, k := 4, parts := [1, 2] }) (mRep 3), left (mb { phase := .close, k := 4, parts := [1, 2] })
     (mRep 3), 0, mRep 3, by decide, ⟨_, _, rfl, rfl, by decide⟩, by decide⟩,
   ⟨got (wkr.onFleet fun f => { f with advSeen := [2] }) (mBar 4), left (wkr.onFleet fun f => { f with advSeen := [2] })
     (mBar 4), 0, mBar 4, by decide, ⟨_, _, rfl, rfl, by decide⟩, by decide⟩,
   ⟨got wkr (mBar 4), left wkr (mBar 4), 0, mBar 4, by decide, ⟨_, _, rfl, rfl, by decide⟩, by decide⟩,
   ⟨got wkr (mBar 5), left wkr (mBar 5), 0, mBar 5, by decide, ⟨_, _, rfl, rfl, by decide⟩, by decide⟩⟩

/-- The hypotheses of each clause of SpdmRequests are met. -/
theorem wit_spdmRequests :
    (∃ (s : State) (tp src : Nat), 2 ≤ tp ∧ s.doe tp = true ∧ s.pwr.dev ≠ .sleep) ∧
    (∃ (s : State) (tp src : Nat), 2 ≤ tp ∧ s.doe tp = true ∧ s.pwr.dev ≠ .sleep ∧ s.phase tp = 1) ∧
    (∃ (s : State) (tp src : Nat), 2 ≤ tp ∧ s.doe tp = true ∧ s.pwr.dev ≠ .sleep ∧ s.phase tp ≠ 1) ∧
    (∃ (s : State) (tp src : Nat), 2 ≤ tp ∧ s.doe tp = true ∧ s.pwr.dev ≠ .sleep ∧ s.phase tp = 2) ∧
    (∃ (s : State) (tp src : Nat), 2 ≤ tp ∧ s.doe tp = true ∧ s.pwr.dev ≠ .sleep ∧ 3 ≤ s.phase tp) ∧
    (∃ (s : State) (tp src : Nat), 2 ≤ tp ∧ s.doe tp = true ∧ s.pwr.dev ≠ .sleep ∧ ∃ (c : List Byte) (off n : Nat), 3 ≤
      s.phase tp ∧ s.chain = some c ∧ off + n ≤ c.length ∧ 1 ≤ n) ∧
    (∃ (s : State) (tp src : Nat), 2 ≤ tp ∧ s.doe tp = true ∧ s.pwr.dev ≠ .sleep ∧ ∃ i d, (i, d) ∈ s.visible tp) ∧
    (∃ (s : State) (tp src : Nat), 2 ≤ tp ∧ s.doe tp = true ∧ s.pwr.dev ≠ .sleep ∧ 3 ≤ s.phase tp ∧ s.sessionsFull tp =
      false ∧ s.freeSession = 1) ∧
    (∃ (s : State) (tp src : Nat), 2 ≤ tp ∧ s.doe tp = true ∧ s.pwr.dev ≠ .sleep ∧ 3 ≤ s.phase tp ∧ s.sessionsFull tp =
      true) ∧
    (∃ (s : State) (tp src : Nat), 2 ≤ tp ∧ s.doe tp = true ∧ s.pwr.dev ≠ .sleep ∧ ∃ n : Nat, s.session tp n false = true) ∧
    (∃ (s : State) (tp src : Nat), 2 ≤ tp ∧ s.doe tp = true ∧ s.pwr.dev ≠ .sleep ∧ ∃ n : Nat, s.session tp n true = true) ∧
    (∃ (s : State) (tp src : Nat), 2 ≤ tp ∧ s.doe tp = true ∧ s.pwr.dev ≠ .sleep ∧ ∃ n : Nat, tp = 2 ∧ s.session tp n true =
      true) :=
  ⟨⟨mg {}, 2, 0, by decide⟩,
   ⟨mg { spdm := [(2, 1)] }, 2, 0, by decide⟩,
   ⟨{ mg {} with host := { vfEnable := true } }, 34, 0, by decide⟩,
   ⟨mg { spdm := [(2, 2)] }, 2, 0, by decide⟩,
   ⟨mg { spdm := [(2, 3)] }, 2, 0, by decide⟩,
   ⟨cert, 2, 0, by decide, by decide, by decide, _, 0, 1, by decide, rfl, wit_cert _, by decide⟩,
   ⟨mg {}, 2, 0, by decide, by decide, by decide, 3, _, List.mem_filterMap.mpr ⟨3, by decide, rfl⟩⟩,
   ⟨mg { spdm := [(2, 3)], sessions := [(2, 0, true)] }, 2, 0, by decide⟩,
   ⟨mg { spdm := [(2, 3)], sessions := (List.range 4).map fun i => (2, i, true) }, 2, 0, by decide⟩,
   ⟨mg { spdm := [(2, 3)], sessions := [(2, 1, false), (2, 2, true)] }, 2, 0, by decide, by decide, by decide, 1, by decide⟩,
   ⟨mg { spdm := [(2, 3)], sessions := [(2, 1, false), (2, 2, true)] }, 2, 0, by decide, by decide, by decide, 2, by decide⟩,
   ⟨mg { spdm := [(2, 3)], sessions := [(2, 1, false), (2, 2, true)] }, 2, 0, by decide, by decide, by decide, 2, by decide⟩⟩

/-- The hypotheses of each clause of ManagementRequests are met. -/
theorem wit_managementRequests :
    (∃ (s : State) (p : MctpPacket), s.pilotRuns = true ∧ p.binding < 2 ∧ p.source < 256 ∧ p.pecOk = true ∧ p.payload.length
      ≤ 64 ∧ p.som = true ∧ p.eom = false ∧ p.seq < 4) ∧
    (∃ (s : State) (p : MctpPacket) (n : Nat) (l : List Byte), s.pilotRuns = true ∧ p.binding < 2 ∧ p.source < 256 ∧ p.pecOk
      = true ∧ p.payload.length ≤ 64 ∧ p.som = false ∧ s.mgmt.reasm.find (mctpKey p.binding p.source) = some (n, l) ∧ n ≠
      p.seq % 4) ∧
    (∃ s : State, s.pilotRuns = true) ∧
    (∃ s : State, s.pilotRuns = true ∧ s.smbAlert = true) ∧
    (∃ (s : State) (b src : Nat), s.waits b src 0 = true) ∧
    (∃ (s : State) (b src : Nat), s.waits b src 1 = true) ∧
    (∃ (s : State) (b src : Nat), s.waits b src 1 = true ∧ ∃ i v, s.sensor i = some v) ∧
    (∃ (s : State) (i v n : Nat) (r : List (Nat × Nat × Nat)), s.pilotRuns = true ∧ s.mgmt.events = (i, v, n) :: r) ∧
    (∃ (s : State) (i v n : Nat) (r : List (Nat × Nat × Nat)), s.pilotRuns = true ∧ s.mgmt.events = (i, v, n) :: r ∧ n < 3) ∧
    (∃ (s : State) (i v n : Nat) (r : List (Nat × Nat × Nat)), s.pilotRuns = true ∧ s.mgmt.events = (i, v, n) :: r ∧ 3 ≤ n) :=
  ⟨⟨mg {}, mp true false 3, by decide⟩,
   ⟨mg { reasm := [(511, (2, [0]))] }, mp false true 3, 2, [0], by decide⟩,
   ⟨mg {}, by decide⟩,
   ⟨mg { events := [(64, 1, 0)] }, by decide⟩,
   ⟨mw 0 {}, 0, 8, by decide⟩,
   ⟨mw 1 {}, 0, 8, by decide⟩,
   ⟨mw 1 {}, 0, 8, by decide, 1, _, rfl⟩,
   ⟨mg { events := [(64, 1, 2)] }, 64, 1, 2, [], by decide⟩,
   ⟨mg { events := [(64, 1, 2)] }, 64, 1, 2, [], by decide⟩,
   ⟨mg { events := [(64, 1, 3)] }, 64, 1, 3, [], by decide⟩⟩

/-- The hypotheses of each clause of FirmwareUpdate are met. -/
theorem wit_firmwareUpdate :
    (∃ (s : State) (b src n : Nat), s.waits b src 1 = true ∧ s.mgmt.upd = .idle ∧ (s.boot.trial = true ∨ s.host.updateDis =
      true ∨ s.tw.tripped = true)) ∧
    (∃ (s : State) (b src n : Nat), s.waits b src 1 = true ∧ s.mgmt.upd = .idle ∧ s.boot.trial = false ∧ s.host.updateDis =
      false ∧ s.tw.tripped = false ∧ s.boot.source.toNat < 2 ∧ s.selector = (s.boot.source.toNat, 0)) ∧
    (∃ (s : State) (b src : Nat), s.waits b src 1 = true ∧ s.mgmt.upd = .idle) ∧
    (∃ (s : State) (b src : Nat), s.waits b src 1 = true ∧ s.mgmt.updBind = b ∧ s.mgmt.updSource = src) ∧
    (∃ (s : State) (b src : Nat), s.waits b src 1 = true ∧ s.mgmt.updBind = b ∧ s.mgmt.updSource = src ∧ s.mgmt.upd =
      .learn) ∧
    (∃ (s : State) (b src : Nat), s.waits b src 1 = true ∧ s.mgmt.updBind = b ∧ s.mgmt.updSource = src ∧ ∃ n, s.mgmt.upd =
      .ready ∧ 4608 ≤ n ∧ n ≤ 2097664) ∧
    (∃ (s : State) (b src : Nat), s.waits b src 1 = true ∧ s.mgmt.updBind = b ∧ s.mgmt.updSource = src ∧ ∃ n, s.mgmt.upd =
      .ready ∧ (n < 4608 ∨ 2097664 < n)) ∧
    (∃ (s : State) (b src : Nat), s.waits b src 1 = true ∧ s.mgmt.updBind = b ∧ s.mgmt.updSource = src ∧ ∃ l : List Byte, s.mgmt.upd =
      .download ∧ s.slotErasing = false ∧ l.length = s.chunk ∧ s.mgmt.updOff + l.length < s.mgmt.updSize) ∧
    (∃ (s : State) (b src : Nat), s.waits b src 1 = true ∧ s.mgmt.updBind = b ∧ s.mgmt.updSource = src ∧ ∃ l : List Byte, s.mgmt.upd =
      .download ∧ s.slotErasing = false ∧ l.length = s.chunk ∧ s.mgmt.updSize ≤ s.mgmt.updOff + l.length) ∧
    (∃ (s : State) (b src : Nat), s.waits b src 1 = true ∧ s.mgmt.updBind = b ∧ s.mgmt.updSource = src ∧ s.mgmt.upd =
      .download ∧ s.slotErasing = true) ∧
    (∃ (s : State) (b src : Nat), s.waits b src 1 = true ∧ s.mgmt.updBind = b ∧ s.mgmt.updSource = src ∧ s.mgmt.upd =
      .apply) ∧
    (∃ (s : State) (b src : Nat), s.waits b src 1 = true ∧ s.mgmt.updBind = b ∧ s.mgmt.updSource = src ∧ s.mgmt.upd =
      .verify) ∧
    (∃ (s : State) (b src : Nat), s.waits b src 1 = true ∧ s.mgmt.updBind = b ∧ s.mgmt.updSource = src ∧ s.mgmt.upd ≠ .idle) ∧
    (∃ (s : State) (a b : Nat), s.nvm.slotBusy = some (.erase a b)) ∧
    (∃ (s : State) (a o : Nat) (l : List Byte) (r : Bool), s.nvm.slotBusy = some (.page a o l)) ∧
    (∃ (s : State) (img : ImageInfo), s.mgmt.upd = .verify ∧ s.pilotRuns = true ∧ s.nvm.slotJobs = [] ∧ s.nvm.slotBusy =
      none) ∧
    (∃ (s : State) (img : ImageInfo), s.mgmt.upd = .verify ∧ s.pilotRuns = true ∧ s.nvm.slotJobs = [] ∧ s.nvm.slotBusy =
      none ∧ rejectReason s.ao.minSvn img = none) ∧
    (∃ (s : State) (img : ImageInfo), s.mgmt.upd = .verify ∧ s.pilotRuns = true ∧ s.nvm.slotJobs = [] ∧ s.nvm.slotBusy =
      none ∧ ∃ r, rejectReason s.ao.minSvn img = some r) ∧
    (∃ s : State, s.pilotRuns = true) :=
  ⟨⟨{ mw 1 {} with host := { updateDis := true } }, 0, 8, 64, by decide⟩,
   ⟨mw 1 {}, 0, 8, 64, by decide⟩,
   ⟨mw 1 {}, 0, 8, by decide⟩,
   ⟨mw 1 { upd := .learn, updSource := 8 }, 0, 8, by decide⟩,
   ⟨mw 1 { upd := .learn, updSource := 8 }, 0, 8, by decide⟩,
   ⟨mw 1 { upd := .ready, updSource := 8 }, 0, 8, by decide, by decide, by decide, 4608, by decide⟩,
   ⟨mw 1 { upd := .ready, updSource := 8 }, 0, 8, by decide, by decide, by decide, 2097665, by decide⟩,
   ⟨mw 1 { upd := .download, updSource := 8, updMax := 32, updSize := 4608 }, 0, 8, by decide, by decide, by decide,
     List.replicate 32 1, by decide⟩,
   ⟨mw 1 { upd := .download, updSource := 8, updMax := 32, updSize := 4608, updOff := 4576 }, 0, 8, by decide, by decide,
     by decide, List.replicate 32 1, by decide⟩,
   ⟨{ mw 1 { upd := .download, updSource := 8, updMax := 32, updSize := 4608 } with nvm := { slotBusy := some (.erase 1 0) } }, 0, 8,
     by decide⟩,
   ⟨mw 1 { upd := .apply, updSource := 8 }, 0, 8, by decide⟩,
   ⟨mw 1 { upd := .verify, updSource := 8 }, 0, 8, by decide⟩,
   ⟨mw 1 { upd := .verify, updSource := 8 }, 0, 8, by decide⟩,
   ⟨{ up with nvm := { slotBusy := some (.erase 1 0) } }, 1, 0, by decide⟩,
   ⟨{ up with nvm := { slotBusy := some (.page 1 0 [5]) } }, 1, 0, [5], true, by decide⟩,
   ⟨mg { upd := .verify }, goodImg, by decide⟩,
   ⟨mg { upd := .verify }, goodImg, by decide⟩,
   ⟨mg { upd := .verify }, { goodImg with digestOk := false }, by decide, by decide, by decide, by decide, 2, by decide⟩,
   ⟨mg { upd := .verify }, by decide⟩⟩

/-- The hypotheses of each clause of JtagInstructions are met. -/
theorem wit_jtagInstructions :
    (∃ (s : State) (tdi : List Bool), s.jtag.testMode = false) ∧
    (∃ (s : State) (pins tdi : List Bool), s.jtag.testMode = false) ∧
    (∃ (s : State) (pins tdi : List Bool) (c : Instr) (i : TapIr), s.jtag.testMode = false ∧ ((c = .extest pins tdi ∧ i =
      .extest) ∨ (c = .extestPulse pins tdi ∧ i = .extestPulse) ∨ (c = .extestTrain pins tdi ∧ i = .extestTrain) ∨
      (s.ao.perstReleased = true ∧ ((c = .clamp pins tdi ∧ i = .clamp) ∨ (c = .highz pins tdi ∧ i = .highz))))) ∧
    (∃ (s : State) (pins tdi : List Bool) (c : Instr) (i : TapIr), s.jtag.testMode = false ∧ s.ao.perstReleased = false ∧
      ((c = .clamp pins tdi ∧ i = .clamp) ∨ (c = .highz pins tdi ∧ i = .highz))) ∧
    (∃ (s : State) (pins tdi : List Bool) (c : Instr), s.jtag.testMode = true ∧ c ∈ [.bypass tdi, .idcode tdi,
      .samplePreload pins tdi, .extest pins tdi, .clamp pins tdi, .highz pins tdi, .extestPulse pins tdi, .extestTrain pins
      tdi]) ∧
    (∃ (s : State) (pins tdi : List Bool) (c : Instr) (i : TapIr), s.jtag.testMode = false ∧ ((c = .extest pins tdi ∧ i =
      .extest) ∨ (c = .extestPulse pins tdi ∧ i = .extestPulse) ∨ (c = .extestTrain pins tdi ∧ i = .extestTrain) ∨
      (s.ao.perstReleased = true ∧ ((c = .clamp pins tdi ∧ i = .clamp) ∨ (c = .highz pins tdi ∧ i = .highz)))) ∧
      s.ao.perstReleased = true ∧ i = .clamp) :=
  ⟨⟨up, [true], by decide⟩,
   ⟨up, [true, false], [true], by decide⟩,
   ⟨up, [true, false], [true], .extest [true, false] [true], .extest, by decide⟩,
   ⟨Z, [true, false], [true], .highz [true, false] [true], .highz, by decide⟩,
   ⟨up.onJtag fun j => { j with testMode := true }, [], [true], .bypass [true], by decide⟩,
   ⟨up, [true, false], [true], .clamp [true, false] [true], .clamp, by decide⟩⟩

/-- The hypotheses of each clause of RegisterAccesses are met. -/
theorem wit_registerAccesses :
    (∃ (s : State) (sp : RegSpace) (off : Nat) (l : List Byte), l.length ≠ 2 ∧ l.length ≠ 4 ∧ l.length ≠ 8) ∧
    (∃ (s : State) (sp : RegSpace) (off : Nat) (l : List Byte), off % l.length ≠ 0) ∧
    (∃ (s : State) (off : Nat) (l : List Byte), s.ao.hubOut = true ∧ s.host.linkDown = false ∧ s.boot.ready = true ∧
      l.length = 4 ∧ off % 4 = 0 ∧ off < 0x400000) ∧
    (∃ (s : State) (n off : Nat) (l : List Byte), s.ao.hubOut = true ∧ s.host.linkDown = false ∧ s.boot.ready = true ∧
      s.host.vfEnable = true ∧ n < 32 ∧ l.length = 4 ∧ off % 4 = 0 ∧ off < 0x1000000) ∧
    (∃ (s : State) (off : Nat) (l : List Byte), s.ao.hubOut = true ∧ s.host.linkDown = false ∧ s.boot.ready = false ∧
      l.length = 4 ∧ off % 4 = 0 ∧ 0x30000 ≤ off ∧ off < 0x400000) ∧
    (∃ (s : State) (sp : RegSpace) (off : Nat) (l : List Byte), s.ao.hubOut = true ∧ s.host.linkDown = false ∧ s.answers sp
      off = true ∧ l.length = 8 ∧ off % 8 = 0 ∧ (∀ fn, sp ≠ .msixCtl fn)) ∧
    (∃ (s : State) (fn off : Nat) (l : List Byte), s.ao.hubOut = true ∧ s.host.linkDown = false ∧ s.boot.cfgAnswers = true ∧
      fn ≤ 32 ∧ (fn = 0 ∨ s.vfThere = true) ∧ l.length = 2 ∧ off % 2 = 0) ∧
    (∃ (s : State) (w : Word), ¬(100 ≤ w.toNat ∧ w.toNat ≤ 750)) ∧
    (∃ (s : State) (w : Word), 100 ≤ w.toNat ∧ w.toNat ≤ 750) ∧
    (∃ (s : State) (sp : RegSpace) (off n : Nat), s.ao.hubOut = true ∧ s.host.linkDown = false ∧ 0 < n ∧ off % n ≠ 0) ∧
    (∃ (s : State) (off : Nat) (v : Word), s.ao.hubOut = true ∧ s.host.linkDown = false ∧ s.boot.ready = true ∧ s.pwr.dev ≠
      .sleep ∧ off < 0x400000 ∧ off % 8 = 4 ∧ pfWideRo (off - 4) = true ∧ s.host.latch.look (off / 65536) (0, 0) = (off + 1,
      v)) ∧
    (∃ (s : State) (off : Nat), s.ao.hubOut = true ∧ s.host.linkDown = false ∧ s.boot.ready = true ∧ s.pwr.dev ≠ .sleep ∧
      off < 0x400000 ∧ off ≠ 0x40080 ∧ pfWideRo off = true ∧ s.pfRead off < 2 ^ 32) :=
  ⟨⟨up, .pf, 0, [1, 2, 3], by decide⟩,
   ⟨up, .pf, 2, [1, 2, 3, 4], by decide⟩,
   ⟨up, 0x30024, [100, 0, 0, 0], by decide⟩,
   ⟨{ up with host := { vfEnable := true } }, 31, 0x800000, [1, 2, 3, 4], by decide⟩,
   ⟨{ up with boot := { stage := 9 } }, 0x30024, [100, 0, 0, 0], by decide⟩,
   ⟨up, .pf, 0x30020, [1, 2, 3, 4, 5, 6, 7, 8], by decide, by decide, by decide, by decide, by decide, nofun⟩,
   ⟨{ up with host := { vfEnable := true } }, 32, 2, [1, 2], by decide⟩,
   ⟨up, 751, by decide⟩,
   ⟨up, 750, by decide⟩,
   ⟨up, .pf, 2, 4, by decide⟩,
   ⟨{ up with host := { latch := [(4, (0x4009D, 5))] } }, 0x4009C, 5, by decide⟩,
   ⟨up, 0x40098, by decide⟩⟩

/-- The hypotheses of each clause of StepTakesFront are met. -/
theorem wit_stepTakesFront :
    (∃ (c : Instr) (s : State) (l : List Instr), s.pending = c :: l) ∧
    (∃ s : State, s.pending = []) :=
  ⟨⟨.beatSend, { up with pending := [.beatSend, .announceSend] }, [.announceSend], by decide⟩,
   ⟨up, by decide⟩⟩

/-- The hypotheses of each clause of StepKeepsMemoryForm are met. -/
theorem wit_stepKeepsMemoryForm :
    ∃ s t : State, Memory.wf s = true ∧ step s = .next t :=
  ⟨{ up with mem := { bytes := [(3, 4), (9, 1)] } }, State.tick { up with mem := { bytes := [(3, 4), (9, 1)] } }, by
    decide, rfl⟩

/-- The hypotheses of each clause of Replies are met. -/
theorem wit_replies :
    (∃ (s : State) (i : Inflight) (pid status result detail k : Nat), s.inflight pid = some i ∧ i.q = .admin k ∧ (s.queue
      i.q).enabled = true ∧ (s.queue i.q).fetchErr = false ∧ (s.queue i.q).cqDev = false ∧ i.pkt.notify = false) ∧
    (∃ (s : State) (q : QueueId) (op : Nat), (∀ n, q ≠ .fwd n) ∧ (s.queue q).canReserve = false) :=
  ⟨⟨disp (q0 { enabled := true, sqLog := 6, cqLog := 6, cqPut := 63 }) { q := .admin 0, pkt := pk 0x01 [] },
     { q := .admin 0, pkt := pk 0x01 [] }, 7, 0, 5, 0, 0, by decide⟩,
   ⟨q0 { enabled := true, cqLog := 6, reserved := 64 }, .admin 0, 1, nofun, by decide⟩⟩

/-- The hypotheses of each clause of RejectedSlots are met. -/
theorem wit_rejectedSlots :
    (∃ (s : State) (q : QueueId) (m n : Nat) (slots : List Byte), (∀ k, q ≠ .fwd k) ∧ (∀ p k, q = .part p k → s.strict p =
      false ∨ s.nowNs / 1000 % 32 = p) ∧ s.awake = true ∧ (s.queue q).mayFetch = true ∧ field (s.slotBytes (s.queue q)
      (s.queue q).sqGet 0 slots) 3 1 = m ∧ n = (if 1 ≤ m ∧ m ≤ 8 then m else 1) ∧ n ≤ ((s.queue q).sqPut - (s.queue
      q).sqGet).toNat ∧ (∀ k, k < n → s.slotPoisoned (s.queue q) ((s.queue q).sqGet + BitVec.ofNat 32 k) = false)) ∧
    (∃ (s : State) (q : QueueId) (m n : Nat) (slots : List Byte), (∀ k, q ≠ .fwd k) ∧ (∀ p k, q = .part p k → s.strict p =
      false ∨ s.nowNs / 1000 % 32 = p) ∧ s.awake = true ∧ (s.queue q).mayFetch = true ∧ field (s.slotBytes (s.queue q)
      (s.queue q).sqGet 0 slots) 3 1 = m ∧ n = (if 1 ≤ m ∧ m ≤ 8 then m else 1) ∧ n ≤ ((s.queue q).sqPut - (s.queue
      q).sqGet).toNat ∧ (∀ k, k < n → s.slotPoisoned (s.queue q) ((s.queue q).sqGet + BitVec.ofNat 32 k) = false) ∧ m = 8) ∧
    (∃ (s : State) (q : QueueId) (m n : Nat) (slots : List Byte), (∀ k, q ≠ .fwd k) ∧ (∀ p k, q = .part p k → s.strict p =
      false ∨ s.nowNs / 1000 % 32 = p) ∧ s.awake = true ∧ (s.queue q).mayFetch = true ∧ field (s.slotBytes (s.queue q)
      (s.queue q).sqGet 0 slots) 3 1 = m ∧ n = (if 1 ≤ m ∧ m ≤ 8 then m else 1) ∧ n ≤ ((s.queue q).sqPut - (s.queue
      q).sqGet).toNat ∧ (∀ k, k < n → s.slotPoisoned (s.queue q) ((s.queue q).sqGet + BitVec.ofNat 32 k) = false) ∧ m = 9) :=
  ⟨⟨{ upP with part := { map := [(0, mkPair 0xC0000000)], slices := [(0, mkPair 1)] }, q := { tab := [(QueueId.code (.part 0 0), { enabled := true, sqLog := 6, cqLog := 6, sqPut := 8 })], nextPid := 8 } },
     .part 0 0, 0, 1, [0x01, 0xFE, 0, 0], (by simp), (fun p k h => by cases h; exact Or.inr (by decide)), by decide⟩,
   ⟨q0 { enabled := true, sqLog := 6, cqLog := 6, sqPut := 8 }, .admin 0, 8, 8, [0x01, 0xFE, 0, 8], (by simp), (by simp),
     by decide⟩,
   ⟨q0 { enabled := true, sqLog := 6, cqLog := 6, sqPut := 8 }, .admin 0, 9, 1, [0x01, 0xFE, 0, 9], (by simp), (by simp),
     by decide⟩⟩

/-- The hypotheses of each clause of MirrorCounters are met. -/
theorem wit_mirrorCounters :
    (∃ (s : State) (q : QueueId) (p : Packet) (i : Nat), s.Runs q 0x10 p ∧ (s.take q p).isLocal (p.f 20 1) = true ∧ p.f 16 4
      = i ∧ i < 131072 ∧ (s.take q p).owns p.part (objSlice i) = true ∧ (∀ e ∈ (s.take q p).sync.inbox, e.1 ≠ objDie i) ∧
      ((s.take q p).tally i).ok = true ∧ ((s.take q p).tally i).mirror = true) ∧
    (∃ (s : State) (g p ud uo un w : Nat), s.canIssue g = true ∧ p < 8 ∧ evenU ud = true ∧ uo < 64 ∧ un < 64 ∧ s.objWord g
      uo = w ∧ (s.wordOk g false true w).1 = true ∧ wordRemote w = false ∧ s.defers g = false ∧ 0 < ((s.gang g).uReg
      un).toNat ∧ (∀ e ∈ s.sync.inbox, e.1 ≠ objDie (wordObj w)) ∧ (s.tally (wordObj w)).ok = true ∧ (s.tally (wordObj
      w)).mirror = true) ∧
    (∃ (s : State) (op : SyncOp), op.kind = .add ∧ (∀ pid, op.src ≠ .packet pid) ∧ (s.tally op.obj).mirror = true) ∧
    (∃ (s : State) (q : QueueId) (p : Packet) (c : Nat), s.Runs q 0x34 p ∧ (∀ i, (s.tally i).mirror = true → s.inOpenRun i =
      true) ∧ p.f 24 4 ≤ c ∧ c < p.f 24 4 + p.f 28 4 ∧ (s.tally c).mirror = true) :=
  ⟨⟨(qs (pk 0x10 [9, 0, 0, 0, 0xFF, 0, 0, 0, 1])).onSync fun y => { y with tally := [(9, { mirror := true })] }, .admin 0,
     pk 0x10 [9, 0, 0, 0, 0xFF, 0, 0, 0, 1], 9, ⟨by decide, by decide⟩, by decide⟩,
   ⟨(kg fun x => { x with u := [(0, 9), (1, 7)] }).onSync fun y => { y with tally := [(9, { mirror := true })] }, 0, 7,
     62, 0, 1, 9, by decide⟩,
   ⟨(kg id).onSync fun y => { y with tally := [(9, { mirror := true })] }, { ta with src := .pilot }, by decide, nofun, by
     decide⟩,
   ⟨kmi (qc (pk 0x34 (hc ++ [9, 0, 0, 0, 2]))), .admin 0, pk 0x34 (hc ++ [9, 0, 0, 0, 2]), 9, ⟨by decide, by decide⟩,
     wit_mirror, by decide, by decide, by decide⟩⟩

/-- The hypotheses of each clause of RemoteWindows are met. -/
theorem wit_remoteWindows :
    (∃ (s x t : State) (c : Nat) (v : Word) (d : List Byte) (unit : Nat), s.boot.ready = true ∧ s.hostWake = x ∧ c < 4 ∧
      x.isManager = true ∧ (x.fleet.rw.look c {}).busy = false ∧ unit = (if v.getLsbD 29 then 8 else 64) ∧ (x.fleet.rw.look
      c {}).len ≠ 0 ∧ (x.fleet.rw.look c {}).len.toNat % unit = 0 ∧ (x.fleet.rw.look c {}).dpa.toNat % unit = 0 ∧ (x.onRw c
      fun y => { y with ctrl := v &&& rwCtrlMask, done := false, busy := true, status := 0, acked := 0, ids := [] }) = t ∧
      t.unreachable (bits (v &&& rwCtrlMask) 16 6) = none) ∧
    (∃ (s x : State) (c : Nat) (v : Word) (d : List Byte), s.boot.ready = true ∧ s.hostWake = x ∧ c < 4 ∧ x.isManager =
      false ∧ (x.fleet.rw.look c {}).busy = false) ∧
    (∃ (s : State) (c : Nat) (v : Word), c < 4 ∧ s.isManager = false ∧ v.getLsbD 31 = true) :=
  ⟨⟨rw3, rw3, rw3.onRw 3 (fun y =>
     { y with ctrl := 0x80010000 &&& rwCtrlMask, done := false, busy := true, status := 0, acked := 0, ids := [] }), 3,
     0x80010000, [], 64, by decide, rfl, by decide, by decide, by decide, by decide, by decide, by decide, by decide, rfl,
     by decide⟩,
   ⟨wkr, wkr, 3, 0x80010000, [], by decide⟩,
   ⟨wkr, 3, 0x80010000, by decide⟩⟩

/-- The hypotheses of each clause of BlocksThatRespond are met. -/
theorem wit_blocksThatRespond :
    (∃ s : State, s.ao.hubOut = true ∧ s.host.linkDown = false ∧ s.boot.ready = false ∧ s.pwr.dev ≠ .sleep) ∧
    (∃ s : State, s.ao.hubOut = true ∧ s.host.linkDown = false ∧ s.boot.ready = true ∧ s.pwr.dev ≠ .sleep) ∧
    (∃ (s : State) (off : Nat), s.ao.hubOut = true ∧ s.host.linkDown = false ∧ s.boot.ready = false ∧ off < 0x400000) ∧
    (∃ (s : State) (off : Nat), s.ao.hubOut = true ∧ s.host.linkDown = false ∧ s.boot.ready = true ∧ off < 0x400000 ∧
      Nat.testBit (s.pfRead 4) (off / 65536) = true) :=
  ⟨⟨{ up with boot := { stage := 9 } }, by decide⟩,
   ⟨up, by decide⟩,
   ⟨{ up with boot := { stage := 9 } }, 0x3FFFFF, by decide⟩,
   ⟨up, 0x10FFFF, by decide⟩⟩


end Sys2Proof.Tests
end

section
/-! PROOFS. The fetch of a packet: what it moves in its queue, and the slots that a rejected packet consumes (R134, R142 to
R144). -/

namespace Sys2Proof.Machine

open Sys2Proof

/-! ### The submission side of a queue, which no reply touches -/

/-- What a fetch moves in its queue: the submission GET, the expected SEQ and the packets that wait for dispatch. -/
def Queue.submission (x : Queue) : Word × Word × List Packet := (x.sqGet, x.seqExp, x.buffer)

theorem Queue.submission_eq_iff {x : Queue} {g e : Word} {b : List Packet} :
    x.submission = (g, e, b) ↔ x.sqGet = g ∧ x.seqExp = e ∧ x.buffer = b := by
  simp [Queue.submission]

/-- A queue is read from the queue block alone. -/
theorem State.queue_of_q {s t : State} (h : t.q = s.q) (q : QueueId) : t.queue q = s.queue q := by
  simp [State.queue, h]

theorem State.onQueue_submission (q : QueueId) (f : Queue → Queue) (s : State)
    (h : ∀ x, (f x).submission = x.submission) :
    ((s.onQueue q f).queue q).submission = (s.queue q).submission := by
  rw [State.queue_onQueue_self, h]

@[simp] theorem State.ringReply_submission (q : QueueId) (r : List Byte) (s : State) :
    ((s.ringReply q r).queue q).submission = (s.queue q).submission := by
  unfold State.ringReply
  dsimp only
  refine (State.onQueue_submission _ _ _ (by intro; rfl)).trans (congrArg _ (State.queue_of_q ?_ q))
  split <;> simp

@[simp] theorem State.putReply_submission (q : QueueId) (notify : Bool) (r : List Byte) (s : State) :
    ((s.putReply q notify r).queue q).submission = (s.queue q).submission := by
  unfold State.putReply
  dsimp only
  split
  · rw [State.queue_of_q (s := s.ringReply q r) (by simp), State.ringReply_submission]
  · exact State.ringReply_submission q r s

@[simp] theorem State.giveReply_submission (q : QueueId) (notify : Bool) (r : List Byte) (s : State) :
    ((s.giveReply q notify r).queue q).submission = (s.queue q).submission := by
  unfold State.giveReply
  split
  · exact State.onQueue_submission _ _ _ (by intro; rfl)
  · exact State.putReply_submission q notify r s

@[simp] theorem State.history_queue (part : Nat) (tag : Word) (status : Nat) (r : List Byte) (s : State) (q : QueueId) :
    (s.history part tag status r).queue q = s.queue q :=
  State.queue_of_q (by simp) q

@[simp] theorem State.reply_submission (q : QueueId) (p : Packet) (status result detail : Nat) (s : State) :
    ((s.reply q p status result detail).queue q).submission = (s.queue q).submission := by
  unfold State.reply
  dsimp only
  split
  · rw [State.queue_of_q (s := s) (by simp)]
  · split
    · rw [State.giveReply_submission, State.history_queue]
    · rfl

@[simp] theorem State.refuse_submission (q : QueueId) (p : Packet) (status result detail : Nat) (s : State) :
    ((s.refuse q p status result detail).queue q).submission = (s.queue q).submission := by
  unfold State.refuse
  split_ifs
  · exact (State.reply_submission ..).trans (State.onQueue_submission _ _ _ (by intro; rfl))
  · exact (State.onQueue_submission _ _ _ (by intro; rfl)).trans (congrArg _ (State.history_queue ..))

@[simp] theorem State.reject_submission (q : QueueId) (p : Packet) (status detail : Nat) (s : State) :
    ((s.reject q p status detail).queue q).submission = (s.queue q).submission := by
  unfold State.reject
  rw [State.refuse_submission, State.queue_of_q (s := s) (by simp)]

/-! ### A packet that has been read meets the checks -/

@[simp] theorem State.prewakeFor_q (p : Packet) (s : State) : (s.prewakeFor p).q = s.q := by
  unfold State.prewakeFor
  split
  · rfl
  · exact foldl_keeps State.q _ (by simp) _ s

/-- A packet that fails a check moves the expected SEQ and nothing else of the submission side (R142, R143). -/
theorem State.intake_submission_of_rejected {s : State} {q : QueueId} {p : Packet}
    (h : s.frontCheck q (s.queue q).seqExp p ≠ none) :
    ((s.intake q p).queue q).submission = ((s.queue q).sqGet, p.seq + 1, (s.queue q).buffer) := by
  unfold State.intake
  dsimp only
  split
  · rw [State.reject_submission, State.queue_onQueue_self]
    rfl
  · contradiction

/-- A packet that passes the checks joins the buffer, unless an order for DEEP has been accepted (R124, R142). -/
theorem State.intake_submission_of_passed {s : State} {q : QueueId} {p : Packet}
    (h : s.frontCheck q (s.queue q).seqExp p = none) :
    ((s.intake q p).queue q).submission = ((s.queue q).sqGet, p.seq + 1,
      if s.pwr.deepAccepted then (s.queue q).buffer else (s.queue q).buffer ++ [p]) := by
  unfold State.intake
  dsimp only
  rw [h]
  dsimp only
  split
  · rw [State.refuse_submission, State.queue_onQueue_self]
    rfl
  · rw [State.queue_of_q (State.prewakeFor_q _ _), State.queue_onQueue_self, State.queue_onQueue_self]
    rfl

/-- Whatever the checks say of a packet, the submission GET stays and the expected SEQ follows the packet (R142). -/
theorem State.intake_sqGet_seqExp (q : QueueId) (p : Packet) (s : State) :
    ((s.intake q p).queue q).sqGet = (s.queue q).sqGet ∧ ((s.intake q p).queue q).seqExp = p.seq + 1 := by
  by_cases h : s.frontCheck q (s.queue q).seqExp p = none
  · obtain ⟨hget, hseq, -⟩ := Queue.submission_eq_iff.mp (State.intake_submission_of_passed h)
    exact ⟨hget, hseq⟩
  · obtain ⟨hget, hseq, -⟩ := Queue.submission_eq_iff.mp (State.intake_submission_of_rejected h)
    exact ⟨hget, hseq⟩

/-! ### The read of a packet from its ring -/

/-- The slots that a packet takes, by its SLOTS field (R144). -/
def slotCount (m : Nat) : Nat := if 1 ≤ m ∧ m ≤ 8 then m else 1

theorem slotCount_pos (m : Nat) : 0 < slotCount m := by
  unfold slotCount
  split <;> omega

/-- The packet that a fetch of `n` slots reads. -/
def State.ringPacket (s : State) (q : QueueId) (slots : List Byte) (n : Nat) : Packet :=
  let x := s.queue q
  { bytes := ((List.range n).map fun k => s.slotBytes x (x.sqGet + BitVec.ofNat 32 k) k slots).flatten,
    arrival := x.arrival (x.sqGet + BitVec.ofNat 32 n) s.nowNs, pid := s.q.nextPid }

/-- The first packet fetched since the boot takes the device from READY to AWAKE (R118). -/
def State.wakeByFetch (s : State) : State :=
  if s.pwr.dev = .ready then (s.onPwr fun w => { w with dev := .awake }).raise 5 else s

@[simp] theorem State.wakeByFetch_q (s : State) : s.wakeByFetch.q = s.q := by
  unfold State.wakeByFetch
  split <;> simp

/-- The state once `n` slots of a queue have been read: their packet has its number, and GET has moved past them (R134). -/
def State.advanceGet (q : QueueId) (n : Nat) (s : State) : State :=
  let get := (s.queue q).sqGet + BitVec.ofNat 32 n
  (s.onQ fun y => { y with nextPid := y.nextPid + 1 }).onQueue q fun x =>
    { x with sqGet := get, puts := x.puts.filter fun e => decide (0 < (e.1 - get).toNat) && decide ((e.1 - get).toNat ≤ 2 ^ x.sqLog) }

/-- A fetch moves GET past the slots and nothing else of the submission side (R134). -/
theorem State.advanceGet_submission (q : QueueId) (n : Nat) (s : State) :
    ((s.advanceGet q n).wakeByFetch.queue q).submission =
      ((s.queue q).sqGet + BitVec.ofNat 32 n, (s.queue q).seqExp, (s.queue q).buffer) := by
  rw [State.queue_of_q (State.wakeByFetch_q _)]
  unfold State.advanceGet
  dsimp only
  rw [State.queue_onQueue_self]
  rfl

/-- The pilot serves the queue now: it has a ring, and a STRICT partition's slot of time is open (R134, R422). -/
def State.servesRing (s : State) (q : QueueId) : Prop :=
  (∀ k, q ≠ .fwd k) ∧ ∀ p k, q = .part p k → s.strict p = false ∨ s.nowNs / 1000 % 32 = p

/-- A fetch from a queue that is served, whose packet's slots lie below PUT and are sound, reads the packet and gives it to
the checks (R134). -/
theorem exec_packetFetch_of_ready {s : State} {q : QueueId} {slots : List Byte} {n : Nat} (hserve : s.servesRing q)
    (hawake : s.awake = true) (hfetch : (s.queue q).mayFetch = true)
    (hn : slotCount (field (s.slotBytes (s.queue q) (s.queue q).sqGet 0 slots) 3 1) = n)
    (havail : n ≤ ((s.queue q).sqPut - (s.queue q).sqGet).toNat)
    (hsound : ∀ k, k < n → s.slotPoisoned (s.queue q) ((s.queue q).sqGet + BitVec.ofNat 32 k) = false) :
    exec (.packetFetch q slots) s = .next ((s.advanceGet q n).wakeByFetch.intake q (s.ringPacket q slots n)).settle := by
  subst hn
  obtain ⟨hring, hstrict⟩ := hserve
  have hpos := slotCount_pos (field (s.slotBytes (s.queue q) (s.queue q).sqGet 0 slots) 3 1)
  -- one refutation for each test on which the model stops before the read
  show done _ = done _
  refine congrArg done ((if_neg ?ready).trans ((if_neg ?first).trans ((if_neg ?below).trans ((if_neg ?sound).trans rfl))))
  case ready =>
    have hsome : ((s.queue q).sqPut - (s.queue q).sqGet).toNat ≠ 0 := by omega
    cases q with
    | fwd k => exact absurd rfl (hring k)
    | admin a => simp [hawake, hfetch, hsome, -BitVec.toNat_sub]
    | part p k =>
      have hslot : (!s.strict p || s.nowNs / 1000 % 32 == p) = true := by simpa using hstrict p k rfl
      simp [hawake, hfetch, hsome, hslot, -BitVec.toNat_sub]
  case first => simpa using hsound 0 hpos
  case below => exact Nat.not_lt.mpr havail
  case sound => simpa [slotCount] using hsound

/-- Settles O57: a fetch moves GET past the packet's slots, and the checks move neither GET nor, where one fails, the buffer. -/
theorem rejectedSlots : Obligations.RejectedSlots := by
  unfold Obligations.RejectedSlots
  intro s q m n slots hring hstrict hawake hfetch hm hn havail hsound
  subst hm
  obtain ⟨hget, hseq, hbuf⟩ := Queue.submission_eq_iff.mp (State.advanceGet_submission q n s)
  obtain ⟨hkeep, hnext⟩ := State.intake_sqGet_seqExp q (s.ringPacket q slots n) (s.advanceGet q n).wakeByFetch
  have hrun := exec_packetFetch_of_ready ⟨hring, hstrict⟩ hawake hfetch hn.symm havail hsound
  refine ⟨_, _, hrun, rfl, hbuf, hkeep.trans hget, hnext, fun hfail => ?_⟩
  rw [← hseq] at hfail
  obtain ⟨-, -, hsame⟩ := Queue.submission_eq_iff.mp (State.intake_submission_of_rejected hfail)
  exact hsame.trans hbuf

end Sys2Proof.Machine
end

section
/-! PROOFS. An add to a mirror counter, from a packet and from a kernel, and a run over one (R201, R340). -/

namespace Sys2Proof.Machine

open Sys2Proof

/-! ### What a release leaves alone -/

/-- The state but for device memory and the reduction units, where the stores and adds that a release waits for land
(R309, R357). -/
def State.outsideMemory (s : State) : State := { s with red := {}, mem := {} }

theorem State.applyAdd_outsideMemory (f : RedFmt) (key : Nat) (v : DWord) (s : State) :
    (s.applyAdd f key v).outsideMemory = s.outsideMemory := by
  unfold State.applyAdd State.slotAdd
  dsimp only
  split_ifs <;> rfl

theorem State.applyUntil_outsideMemory (sel : RedAdd → Bool) (k : Nat) (s : State) :
    (s.applyUntil sel k).outsideMemory = s.outsideMemory := by
  induction k generalizing s with
  | zero => rfl
  | succ k ih =>
    unfold State.applyUntil
    split
    · split
      · rfl
      · exact (ih _).trans (State.applyAdd_outsideMemory ..)
    · rfl

theorem State.ltMerge_outsideMemory (d off : Nat) (l : List (Byte × Bool)) (s : State) :
    (s.ltMerge d off l).outsideMemory = s.outsideMemory := by
  unfold State.ltMerge
  dsimp only
  generalize ite (off = 0 ∧ 64 ≤ l.length) _ _ = old
  cases old <;> rfl

theorem State.flushBlock_outsideMemory (d : Nat) (s : State) :
    (s.flushBlock d).outsideMemory = s.outsideMemory := by
  unfold State.flushBlock
  exact foldl_keeps State.outsideMemory _ (fun _ _ => State.ltMerge_outsideMemory ..) _ _

/-- A release moves nothing but memory and the reduction units. -/
theorem State.release_outsideMemory (g : Nat) (s : State) : (s.release g).outsideMemory = s.outsideMemory := by
  unfold State.release State.flushStores State.flushAdds
  exact (foldl_keeps State.outsideMemory _ (fun _ _ => State.flushBlock_outsideMemory ..) _ _).trans
    (State.applyUntil_outsideMemory ..)

@[simp] theorem State.release_sync (g : Nat) (s : State) : (s.release g).sync = s.sync := by
  have h := congrArg State.sync (State.release_outsideMemory g s)
  exact h

@[simp] theorem State.release_gangTag (g k : Nat) (s : State) : (s.release g).gangTag k = s.gangTag k := by
  have h := congrArg (State.gangTag · k) (State.release_outsideMemory g s)
  exact h

/-! ### The judgements on an instruction do not see that it has been issued -/

@[simp] theorem State.issued_objWord (s : State) (g uo : Nat) : (s.issued g).objWord g uo = s.objWord g uo := by
  unfold State.objWord
  rw [State.issued_gang]
  rfl

@[simp] theorem State.issued_gangOp (s : State) (g : Nat) (kind : SyncKind) (uo : Nat) (n : DWord) (owned : Bool)
    (deadline : Option Nat) (ud p : Nat) :
    (s.issued g).gangOp g kind uo n owned deadline ud p = s.gangOp g kind uo n owned deadline ud p := by
  unfold State.gangOp
  rw [State.issued_objWord, State.issued_launchOf]

@[simp] theorem State.issued_wordOk (s : State) (g k : Nat) (sem remote : Bool) (w : Nat) :
    (s.issued g).wordOk k sem remote w = s.wordOk k sem remote w := by
  unfold State.wordOk
  rw [State.issued_launchOf]
  rfl

@[simp] theorem State.issued_defers (s : State) (g : Nat) : (s.issued g).defers g = s.defers g := by
  unfold State.defers State.blockOf
  rw [State.issued_launchOf, State.issued_gang, State.issued_blk]
  split <;> rfl

@[simp] theorem State.issued_gangTag (s : State) (g k : Nat) : (s.issued g).gangTag k = s.gangTag k := by
  unfold State.gangTag
  rw [State.issued_launchOf]
  rfl

/-- An object word that passes the checks of an instruction on a counter names a counter (R338). -/
theorem State.wordObj_lt_of_wordOk {s : State} {g w : Nat} {remote : Bool} (h : (s.wordOk g false remote w).1 = true) :
    wordObj w < 2 ^ 17 := by
  have hbit : w.testBit 17 = false := by
    simp only [State.wordOk, Bool.and_eq_true, beq_iff_eq] at h
    obtain ⟨⟨-, htype⟩, -⟩ := h
    exact htype
  unfold wordObj
  have hmod := Nat.testBit_eq_decide_div_mod_eq (x := w) (i := 17)
  simp [hbit] at hmod
  omega

/-! ### What the issuer of an operation learns -/

@[simp] theorem State.syncLog_sync (e v : Nat) (p : Option Nat) (o : Nat) (s : State) (tag : Word) :
    (s.syncLog e v p o tag).sync = s.sync := by
  simp [State.syncLog]

/-- What an occurrence does to the log depends on the log and on the time alone (R460 to R462). -/
theorem State.logOcc_log (o : Occ) (s : State) :
    (s.logOcc o).log = if s.log.drops o.sev then s.log.dropOne else s.log.accept o s.now := by
  unfold State.logOcc
  dsimp only
  (repeat' split) <;> simp_all

theorem State.syncLog_log_congr {s t : State} (hlog : t.log = s.log) (htime : t.time = s.time) (e v : Nat)
    (p : Option Nat) (o : Nat) (tag : Word) : (t.syncLog e v p o tag).log = (s.syncLog e v p o tag).log := by
  simp [State.syncLog, State.logOcc_log, State.now, State.nowNs, hlog, htime]

@[simp] theorem State.syncFinish_sync (pid : Nat) (r : SyncRes) (v : Nat) (s : State) :
    (s.syncFinish pid r v).sync = s.sync := by
  unfold State.syncFinish
  dsimp only
  split_ifs <;> simp

@[simp] theorem State.syncGang_sync (g : Nat) (tally : Bool) (u p : Nat) (r : SyncRes) (v : DWord) (s : State) :
    (s.syncGang g tally u p r v).sync = s.sync := by
  unfold State.syncGang
  dsimp only
  split_ifs <;> simp

/-- No answer touches a sync store. -/
@[simp] theorem State.answer_sync (op : SyncOp) (r : SyncRes) (v : DWord) (s : State) :
    (s.answer op r v).sync = s.sync := by
  unfold State.answer
  split <;> simp

/-- A packet that adds to a mirror counter completes DENIED, reason 0x0A, on a device that does not sleep (R201). -/
theorem State.syncFinish_mirror {s : State} (h : s.asleep = false) (pid v : Nat) :
    s.syncFinish pid .mirror v = s.finish pid stDenied v (reason 0x0A 16) := by
  unfold State.syncFinish
  rw [h]
  rfl

/-- A gang that adds to a mirror counter finds its predicate clear, and its answer is not logged (R340). -/
theorem State.answer_mirror_of_gang {op : SyncOp} {g : Nat} (hsrc : op.src = .gang g) (hp : op.pReg < 8) (v : DWord)
    (s : State) : (s.answer op .mirror v).log = s.log ∧ ((s.answer op .mirror v).gang g).pReg op.pReg = 0 := by
  unfold State.answer State.syncGang
  rw [hsrc]
  cases decide (op.obj < 2 ^ 17) <;>
    simp [Gang.setResult, hp, SyncRes.good, Gang.setFlag, Gang.setP, Gang.pReg]

/-! ### An add to a mirror counter -/

/-- The state once the sync store has counted an operation. -/
def State.countOp (op : SyncOp) (s : State) : State :=
  s.onSync fun x => { x with ops := x.ops.upd (objDie (op.obj % 2 ^ 17)) 0 (· + 1) }

/-- An operation that finds none waiting at its sync store is applied at once (R336). -/
theorem State.submit_of_idle {s : State} {op : SyncOp} (h : ∀ e ∈ s.sync.inbox, e.1 ≠ objDie op.obj) :
    s.submit op = s.applyOp op := by
  unfold State.submit
  exact if_neg fun hany => by
    obtain ⟨e, hmem, hdie⟩ := List.any_eq_true.mp hany
    exact h e hmem (beq_iff_eq.mp hdie)

/-- Only a packet's add to a mirror counter goes unlogged (R201). -/
theorem State.mirrorLog_of_not_packet {op : SyncOp} (h : ∀ pid, op.src ≠ .packet pid) (s : State) :
    s.mirrorLog op = s.syncLog 0xA02 2 (some op.part) op.obj (s.opTag op) := by
  unfold State.mirrorLog
  split
  · next pid hsrc => exact absurd hsrc (h pid)
  · rfl

/-- An add to a mirror counter ends with its log entry and its answer (R201). -/
theorem State.applyTally_mirror {s : State} {op : SyncOp} (hadd : op.kind = .add)
    (hmirror : (s.tally op.obj).mirror = true) :
    s.applyTally op = (s.mirrorLog op).answer op .mirror (s.tally op.obj).value := by
  unfold State.applyTally
  dsimp only
  rw [hadd]
  exact if_pos hmirror

/-- An add to a sound mirror counter at whose sync store nothing waits. -/
theorem State.submit_mirror {s : State} {op : SyncOp} (hadd : op.kind = .add) (htally : op.obj < 2 ^ 17)
    (hidle : ∀ e ∈ s.sync.inbox, e.1 ≠ objDie op.obj) (hok : (s.tally op.obj).ok = true)
    (hmirror : (s.tally op.obj).mirror = true) :
    s.submit op = ((s.countOp op).mirrorLog op).answer op .mirror (s.tally op.obj).value := by
  rw [State.submit_of_idle hidle]
  have happly : s.applyOp op = (s.countOp op).applyTally op := by
    have hok' : ((s.countOp op).tally (op.obj % 2 ^ 17)).ok = true := by rwa [Nat.mod_eq_of_lt htally]
    exact (if_pos htally).trans (if_pos hok')
  exact happly.trans (State.applyTally_mirror hadd hmirror)

/-- A gang's add to a mirror counter changes no counter; it is logged, and its predicate is clear (R201, R340). -/
theorem State.submit_mirror_of_gang {s : State} {op : SyncOp} {g : Nat} (hsrc : op.src = .gang g) (hp : op.pReg < 8)
    (hadd : op.kind = .add) (htally : op.obj < 2 ^ 17) (hidle : ∀ e ∈ s.sync.inbox, e.1 ≠ objDie op.obj)
    (hok : (s.tally op.obj).ok = true) (hmirror : (s.tally op.obj).mirror = true) :
    (s.submit op).sync.tally = s.sync.tally ∧
      (s.submit op).log = (s.syncLog 0xA02 2 (some op.part) op.obj (s.gangTag g)).log ∧
      ((s.submit op).gang g).pReg op.pReg = 0 := by
  have hgang : ∀ pid, op.src ≠ .packet pid := by simp [hsrc]
  have htag : (s.countOp op).opTag op = s.gangTag g := by
    unfold State.opTag
    rw [hsrc]
    rfl
  rw [State.submit_mirror hadd htally hidle hok hmirror, State.mirrorLog_of_not_packet hgang, htag]
  obtain ⟨hlog, hpred⟩ := State.answer_mirror_of_gang hsrc hp (s.tally op.obj).value
    ((s.countOp op).syncLog 0xA02 2 (some op.part) op.obj (s.gangTag g))
  refine ⟨?_, hlog.trans (State.syncLog_log_congr (s := s) (t := s.countOp op) rfl rfl ..), hpred⟩
  simp [State.countOp]

/-! ### Dispatch -/

/-- A packet that runs, and that its command selects, has its effect. -/
theorem State.dispatch_of_runs {s : State} {q : QueueId} {op : Nat} {p : Packet} {sel : Packet → Bool}
    (hruns : s.Runs q op p) (hsel : sel p = true) (f : Packet → State → State) :
    s.dispatch q op sel f = f p (s.take q p) := by
  obtain ⟨hhead, hcommon⟩ := hruns
  simp [State.dispatch, hhead, hsel, hcommon]

/-- The packet that a command finds at the head of its queue may be dispatched (R146). -/
theorem State.mayStart_of_head {s : State} {q : QueueId} {op : Nat} {p : Packet} (h : s.head q op = some p) :
    s.mayStart q p = true := by
  unfold State.head at h
  dsimp only at h
  split at h
  · cases h
  · split at h
    · next hstart =>
      cases h
      simp only [Bool.and_eq_true] at hstart
      obtain ⟨⟨-, hmay⟩, -⟩ := hstart
      exact hmay
    · cases h

/-- A device that dispatches a packet does not sleep (R146). -/
theorem State.asleep_of_runs {s : State} {q : QueueId} {op : Nat} {p : Packet} (hruns : s.Runs q op p) :
    s.asleep = false := by
  obtain ⟨hhead, -⟩ := hruns
  have hawake : s.awake = true := by
    have hmay := State.mayStart_of_head hhead
    simp only [State.mayStart, Bool.and_eq_true] at hmay
    tauto
  unfold State.awake at hawake
  unfold State.asleep
  cases hdev : s.pwr.dev <;> simp_all

/-! ### The three commands -/

/-- A TALLY_ADD packet to a mirror counter of its partition is counted by the sync store and completes DENIED (R201). -/
theorem exec_tallyAdd_mirror {s : State} {q : QueueId} {p : Packet} (hruns : s.Runs q 0x10 p)
    (hlocal : (s.take q p).isLocal (p.f 20 1) = true) (hcounter : p.f 16 4 < 2 ^ 17)
    (howns : (s.take q p).owns p.part (objSlice (p.f 16 4)) = true)
    (hidle : ∀ e ∈ (s.take q p).sync.inbox, e.1 ≠ objDie (p.f 16 4))
    (hok : ((s.take q p).tally (p.f 16 4)).ok = true) (hmirror : ((s.take q p).tally (p.f 16 4)).mirror = true) :
    exec (.tallyAdd q) s = .next (((s.take q p).countOp (p.syncOp .add (p.f 24 8) none)).finish p.pid stDenied
      ((s.take q p).tally (p.f 16 4)).value.toNat (reason 0x0A 16)).settle := by
  have hobj : (p.syncOp .add (p.f 24 8) none).obj = p.f 16 4 := Nat.mod_eq_of_lt (by omega)
  have hadd : (s.take q p).addPacket p .add (p.f 24 8) = (s.take q p).submit (p.syncOp .add (p.f 24 8) none) := by
    have howns' : (s.take q p).owns p.part (objSlice (p.syncOp .add (p.f 24 8) none).obj) = true := by rwa [hobj]
    exact (if_pos hlocal).trans (if_pos howns')
  have hawake : ((s.take q p).countOp (p.syncOp .add (p.f 24 8) none)).asleep = false := by
    simpa [State.asleep, State.countOp] using State.asleep_of_runs hruns
  show done _ = _
  rw [State.dispatch_of_runs hruns rfl, hadd,
    State.submit_mirror rfl (by rwa [hobj]) (by rwa [hobj]) (by rwa [hobj]) (by rwa [hobj]), hobj]
  exact congrArg done (State.syncFinish_mirror hawake _ _)

/-- The operation of a `tally.add` that is applied at once. -/
def State.tallyAddOp (s : State) (g p ud uo un : Nat) : SyncOp :=
  s.gangOp g .add uo (BitVec.ofNat 64 ((s.gang g).uReg un).toNat) false none ud p

/-- A `tally.add` that passes its checks, on a counter of this device and outside a replayable launch, is a release and an
operation of the sync store (R338, R340). -/
theorem exec_tallyAddInstr_of_now {s : State} {g p ud uo un : Nat} (hissue : s.canIssue g = true) (hp : p < 8)
    (hud : evenU ud = true) (huo : uo < 64) (hun : un < 64) (hn : ((s.gang g).uReg un).toNat ≠ 0)
    (hword : (s.wordOk g false true (s.objWord g uo)).1 = true) (hlocal : wordRemote (s.objWord g uo) = false)
    (hnow : s.defers g = false) :
    exec (.tallyAddInstr g p ud uo un) s =
      .next (((s.issued g).release g).submit (s.tallyAddOp g p ud uo un)).settle := by
  have hamount : (((s.gang g).uReg un).toNat != 0) = true := bne_iff_ne.mpr hn
  show done _ = done _
  refine congrArg done ((State.instr_run s g _ _ hissue ?checks).trans ?effect)
  case checks =>
    have hpre : firstFault [pOk p, pairUOk ud, uOk uo 1, uOk un 1, s.wordOk g false true (s.objWord g uo)] = none := by
      simp [firstFault, pOk, pairUOk, uOk, hp, hud, hword, Nat.succ_le_of_lt huo, Nat.succ_le_of_lt hun]
    simpa [hamount] using hpre
  case effect =>
    have hnow' : ¬ (s.issued g).defers g = true := by simp [hnow]
    have hlocal' : ¬ wordRemote ((s.issued g).objWord g uo) = true := by simp [hlocal]
    refine (if_neg hn).trans ((if_neg hnow').trans ((if_neg hlocal').trans ?_))
    rw [State.issued_gangOp]
    rfl

/-- A kernel's add to a mirror counter changes no counter; it is logged, and its predicate is clear (R201, R340). -/
theorem exec_tallyAddInstr_mirror {s : State} {g p ud uo un : Nat} (hissue : s.canIssue g = true) (hp : p < 8)
    (hud : evenU ud = true) (huo : uo < 64) (hun : un < 64) (hn : ((s.gang g).uReg un).toNat ≠ 0)
    (hword : (s.wordOk g false true (s.objWord g uo)).1 = true) (hlocal : wordRemote (s.objWord g uo) = false)
    (hnow : s.defers g = false) (hidle : ∀ e ∈ s.sync.inbox, e.1 ≠ objDie (wordObj (s.objWord g uo)))
    (hok : (s.tally (wordObj (s.objWord g uo))).ok = true)
    (hmirror : (s.tally (wordObj (s.objWord g uo))).mirror = true) :
    ∃ u : State, exec (.tallyAddInstr g p ud uo un) s = .next u.settle ∧ u.sync.tally = s.sync.tally ∧
      u.log = (((s.issued g).release g).syncLog 0xA02 2 (some (s.launchOf g).part) (wordObj (s.objWord g uo))
        (s.gangTag g)).log ∧
      (u.gang g).pReg p = 0 := by
  have hsync : ((s.issued g).release g).sync = s.sync := State.release_sync g _
  have hcounter : ((s.issued g).release g).tally = s.tally := by
    funext i
    rw [State.tally, hsync, State.tally]
  have hrun := exec_tallyAddInstr_of_now hissue hp hud huo hun hn hword hlocal hnow
  obtain ⟨hsame, hlog, hpred⟩ := State.submit_mirror_of_gang (s := (s.issued g).release g)
    (op := s.tallyAddOp g p ud uo un) rfl hp rfl (State.wordObj_lt_of_wordOk hword) (by rwa [hsync])
    (by rwa [hcounter]) (by rwa [hcounter])
  rw [State.release_gangTag, State.issued_gangTag] at hlog
  exact ⟨_, hrun, hsame.trans (congrArg Sync.tally hsync), hlog, hpred⟩

/-- A run cannot have the counter: it lies in an open run, or records wait there (R196). -/
def State.runTaken (s : State) (c : Nat) : Bool := s.inOpenRun c || !(s.tally c).waiters.isEmpty

/-- RUN_BEGIN that names a counter of an open run completes NOT_READY, with the first counter that it cannot have
(R196). -/
theorem exec_runBegin_of_open {s : State} {q : QueueId} {p : Packet} {c : Nat} (hruns : s.Runs q 0x34 p)
    (hge : p.f 24 4 ≤ c) (hlt : c < p.f 24 4 + p.f 28 4) (hopen : s.inOpenRun c = true) :
    ∃ c', p.f 24 4 ≤ c' ∧ c' ≤ c ∧ exec (.runBegin q) s = .next ((s.take q p).finish p.pid stNotReady 0 c').settle := by
  have hbusy : (s.take q p).runTaken c = true := by
    have h : (s.take q p).inOpenRun c = true := by simpa [State.inOpenRun] using hopen
    simp [State.runTaken, h]
  have hsome : ((List.range' (p.f 24 4) (p.f 28 4)).find? (s.take q p).runTaken).isSome = true :=
    List.find?_isSome.mpr ⟨c, List.mem_range'_1.mpr ⟨hge, hlt⟩, hbusy⟩
  obtain ⟨c', hfirst⟩ := Option.isSome_iff_exists.mp hsome
  obtain ⟨-, hmem, hleast⟩ := List.find?_range'_eq_some.mp hfirst
  refine ⟨c', (List.mem_range'_1.mp hmem).1, ?_, ?_⟩
  · by_contra hafter
    simpa [hbusy] using hleast c hge (by omega)
  · rw [List.range'_eq_map_range] at hfirst
    show done _ = done _
    rw [State.dispatch_of_runs hruns rfl]
    unfold State.runTaken at hfirst
    dsimp only
    rw [hfirst]

/-! ### The statement -/

/-- Settles O58: the sync store answers an add to a mirror counter without applying it, and a mirror's run is open. -/
theorem mirrorCounters : Obligations.MirrorCounters := by
  unfold Obligations.MirrorCounters
  refine ⟨?packet, ?kernel, ?store, ?run⟩
  case packet =>
    rintro s q p _ hruns hlocal rfl hcounter howns hidle hok hmirror
    refine ⟨_, exec_tallyAdd_mirror hruns hlocal hcounter howns hidle hok hmirror, ?_⟩
    simp [State.countOp]
  case kernel =>
    rintro s g p ud uo un _ hissue hp hud huo hun rfl hword hlocal hnow hn hidle hok hmirror
    exact exec_tallyAddInstr_mirror hissue hp hud huo hun hn.ne' hword hlocal hnow hidle hok hmirror
  case store =>
    intro s op hadd hsrc hmirror
    rw [State.applyTally_mirror hadd hmirror, State.mirrorLog_of_not_packet hsrc]
    exact ⟨rfl, by simp⟩
  case run =>
    intro s q p c hruns hopen hge hlt hmirror
    exact exec_runBegin_of_open hruns hge hlt (hopen c hmirror)

end Sys2Proof.Machine
end

section
/-! PROOFS. What encoding and decoding a lighter block keeps (R322 to R324). -/

namespace Sys2Proof.Machine

open Sys2Proof

/-! ### Bytes of a number and fields of a list -/

@[simp] theorem length_toLe (n w : Nat) : (toLe n w).length = n := by
  induction n generalizing w with
  | zero => rfl
  | succ n ih => simp [toLe, ih]

/-- The bytes of a number that they can hold spell it. -/
theorem ofLe_toLe_of_lt {n w : Nat} (h : w < 256 ^ n) : ofLe (toLe n w) = w := by
  induction n generalizing w with
  | zero => simp [toLe, ofLe]; omega
  | succ n ih =>
    have hrest : ofLe (toLe n (w / 256)) = w / 256 := ih (by rw [Nat.pow_succ] at h; omega)
    simp only [toLe, ofLe, hrest, BitVec.toNat_ofNat]
    omega

/-- A field that spans the middle part of a list. -/
theorem field_append {l a b c : List Byte} {o n : Nat} (hl : l = a ++ (b ++ c)) (ho : a.length = o) (hn : b.length = n) :
    field l o n = ofLe b := by
  subst hl ho hn
  simp [field]

theorem field_one {l : List Byte} {o : Nat} (h : o < l.length) : field l o 1 = l[o].toNat := by
  rw [field, List.drop_eq_getElem_cons h]
  simp only [List.take_succ_cons, List.take_zero, ofLe, Nat.mul_zero, Nat.add_zero]

/-- A field of a list of equal parts that spans one part. -/
theorem field_flatten {n i : Nat} {l : List (List Byte)} (hlen : ∀ x ∈ l, x.length = n) (hi : i < l.length) :
    field l.flatten (n * i) n = ofLe l[i] := by
  induction l generalizing i with
  | nil => cases hi
  | cons x xs ih =>
    have hx : x.length = n := hlen x (by simp)
    cases i with
    | zero => exact field_append (a := []) (c := xs.flatten) rfl rfl hx
    | succ i =>
      have hoff : n * (i + 1) = x.length + n * i := by rw [hx]; ring
      rw [hoff, field, List.flatten_cons, List.drop_length_add_append]
      exact ih (fun y hy => hlen y (by simp [hy])) (by simpa using hi)

/-! ### The digits of a packed number -/

/-- `n` digits of three bits, the first lowest. -/
def packOctal (d : Nat → Nat) (n : Nat) : Nat := (List.range n).foldl (fun a i => a + d i * 2 ^ (3 * i)) 0

theorem packOctal_succ (d : Nat → Nat) (n : Nat) : packOctal d (n + 1) = packOctal d n + d n * 2 ^ (3 * n) := by
  simp [packOctal, List.range_succ]

theorem packOctal_lt {d : Nat → Nat} (hd : ∀ i, d i < 8) (n : Nat) : packOctal d n < 2 ^ (3 * n) := by
  induction n with
  | zero => simp [packOctal]
  | succ n ih =>
    calc packOctal d (n + 1) = packOctal d n + d n * 2 ^ (3 * n) := packOctal_succ d n
      _ < 2 ^ (3 * n) + 7 * 2 ^ (3 * n) := add_lt_add_of_lt_of_le ih (Nat.mul_le_mul_right _ (Nat.le_of_lt_succ (hd n)))
      _ = 2 ^ (3 * (n + 1)) := by ring

theorem packOctal_digit {d : Nat → Nat} (hd : ∀ i, d i < 8) {i n : Nat} (hi : i < n) :
    packOctal d n / 2 ^ (3 * i) % 8 = d i := by
  induction n with
  | zero => cases hi
  | succ n ih =>
    rw [packOctal_succ]
    obtain hlow | rfl := Nat.lt_succ_iff_lt_or_eq.mp hi
    · obtain ⟨k, rfl⟩ := Nat.exists_eq_add_of_lt hlow
      have hhigh : d (i + k + 1) * 2 ^ (3 * (i + k + 1)) = 2 ^ (3 * i) * (8 * (d (i + k + 1) * 2 ^ (3 * k))) := by ring
      rw [hhigh, Nat.add_mul_div_left _ _ (by positivity), Nat.add_mul_mod_self_left]
      exact ih hlow
    · rw [Nat.add_mul_div_right _ _ (by positivity), Nat.div_eq_of_lt (packOctal_lt hd i), Nat.zero_add,
        Nat.mod_eq_of_lt (hd i)]

/-! ### The values of a block -/

theorem d16At_lt (bs : List Byte) (i : Nat) : d16At bs i < 2 ^ 16 := field_lt bs (2 * i) 2

/-- A D16 value is its sign, its exponent field and its fraction (Table 10-2). -/
theorem d16_parts (x : Nat) : x = x / 2 ^ 15 * 2 ^ 15 + (d16Exp x * 128 + x % 128) := by
  unfold d16Exp
  omega

theorem d16Exp_le (x : Nat) : d16Exp x ≤ 255 := Nat.le_of_lt_succ (Nat.mod_lt _ (by decide))

@[simp] theorem d16Exp_signedZero (x : Nat) : d16Exp (x / 2 ^ 15 * 2 ^ 15) = 0 := by
  unfold d16Exp
  omega

theorem d16At_eq {bs : List Byte} {i : Nat} (h : 2 * i + 1 < bs.length) :
    d16At bs i = bs[2 * i].toNat + 256 * bs[2 * i + 1].toNat := by
  rw [d16At, field, List.drop_eq_getElem_cons (by omega), List.drop_eq_getElem_cons h]
  simp only [List.take_succ_cons, List.take_zero, ofLe, Nat.mul_zero, Nat.add_zero]

/-- The 32 values determine the 64 expanded bytes. -/
theorem eq_of_d16At_eq {a b : List Byte} (ha : a.length = 64) (hb : b.length = 64)
    (h : ∀ i, i < 32 → d16At a i = d16At b i) : a = b := by
  refine List.ext_getElem (ha.trans hb.symm) fun k hka hkb => BitVec.eq_of_toNat_eq ?_
  have hval := h (k / 2) (by omega)
  rw [d16At_eq (by omega), d16At_eq (by omega)] at hval
  have hlowA := a[2 * (k / 2)].isLt
  have hlowB := b[2 * (k / 2)].isLt
  obtain heven | hodd : k = 2 * (k / 2) ∨ k = 2 * (k / 2) + 1 := by omega
  · simp only [← heven] at hval hlowA hlowB
    omega
  · simp only [← hodd] at hval
    omega

/-! ### The base exponent and the deltas -/

/-- The base exponent is the largest exponent field of the block (Table 13-1). -/
theorem ltBase_eq_iff {bs : List Byte} {e : Nat} :
    ltBase bs = e ↔ (∀ i, i < 32 → d16Exp (d16At bs i) ≤ e) ∧ ∃ i, i < 32 ∧ d16Exp (d16At bs i) = e := by
  have hmax : (0 :: (List.range 32).map fun i => d16Exp (d16At bs i)).max? = some (ltBase bs) := by
    rw [List.max?_cons', List.foldl_map, ltBase]
  rw [← Option.some_inj, ← hmax, List.max?_eq_some_iff]
  simp only [List.mem_cons, List.mem_map, List.mem_range, forall_eq_or_imp, forall_exists_index, and_imp,
    forall_apply_eq_imp_iff₂, Nat.zero_le, true_and]
  constructor
  · rintro ⟨rfl | hattained, hle⟩
    · exact ⟨hle, 0, by decide, Nat.le_zero.mp (hle 0 (by decide))⟩
    · exact ⟨hle, hattained⟩
  · rintro ⟨hle, hattained⟩
    exact ⟨.inr hattained, hle⟩

theorem d16Exp_le_ltBase (bs : List Byte) {i : Nat} (hi : i < 32) : d16Exp (d16At bs i) ≤ ltBase bs :=
  (ltBase_eq_iff.mp rfl).1 i hi

theorem exists_d16Exp_eq_ltBase (bs : List Byte) : ∃ i, i < 32 ∧ d16Exp (d16At bs i) = ltBase bs :=
  (ltBase_eq_iff.mp rfl).2

theorem ltBase_le (bs : List Byte) : ltBase bs ≤ 255 := by
  obtain ⟨i, -, hi⟩ := exists_d16Exp_eq_ltBase bs
  exact hi ▸ d16Exp_le _

/-- Encoding keeps element `i`: its exponent field is at least E − 6 (R324). -/
abbrev LtKept (bs : List Byte) (i : Nat) : Prop := ltBase bs ≤ d16Exp (d16At bs i) + 6

theorem ltDelta_of_kept {bs : List Byte} {i : Nat} (h : LtKept bs i) :
    ltDelta bs i = ltBase bs - d16Exp (d16At bs i) := if_neg (by unfold LtKept at h; omega)

theorem ltDelta_of_not_kept {bs : List Byte} {i : Nat} (h : ¬ LtKept bs i) : ltDelta bs i = 7 :=
  if_pos (by unfold LtKept at h; omega)

theorem ltDelta_eq_seven_iff {bs : List Byte} {i : Nat} : ltDelta bs i = 7 ↔ ¬ LtKept bs i := by
  constructor
  · intro hdelta hkept
    rw [ltDelta_of_kept hkept] at hdelta
    unfold LtKept at hkept
    omega
  · exact ltDelta_of_not_kept

theorem ltDelta_lt (bs : List Byte) (i : Nat) : ltDelta bs i < 8 := by
  by_cases h : LtKept bs i
  · rw [ltDelta_of_kept h]
    unfold LtKept at h
    omega
  · rw [ltDelta_of_not_kept h]
    decide

/-! ### The fields of an encoded block -/

/-- Sign and fraction of element `i` as the encoding stores them (R322). -/
def ltSf (bs : List Byte) (i : Nat) : Nat :=
  d16At bs i / 2 ^ 15 % 2 * 128 + (if ltDelta bs i = 7 then 0 else d16At bs i % 128)

theorem ltSf_lt (bs : List Byte) (i : Nat) : ltSf bs i < 256 := by
  unfold ltSf
  split <;> omega

/-- The 32 bytes SF of a block (Table 13-1). -/
def ltSfs (bs : List Byte) : List Byte := (List.range 32).map fun i => BitVec.ofNat 8 (ltSf bs i)

/-- Bytes 0 to 13 of a block: E, its complement and DELTA (Table 13-1). -/
def ltHead (bs : List Byte) : List Byte :=
  toLe 1 (ltBase bs) ++ toLe 1 (0xFF - ltBase bs) ++ toLe 12 (packOctal (ltDelta bs) 32)

@[simp] theorem length_ltSfs (bs : List Byte) : (ltSfs bs).length = 32 := by simp [ltSfs]

@[simp] theorem length_ltHead (bs : List Byte) : (ltHead bs).length = 14 := by simp [ltHead]

theorem ltEncode_eq (bs : List Byte) :
    ltEncode bs = ltHead bs ++ ltSfs bs ++ toLe 2 (crc16 (ltHead bs ++ ltSfs bs)).toNat := rfl

theorem length_ltEncode (bs : List Byte) : (ltEncode bs).length = 48 := by simp [ltEncode_eq]

/-- The layout of an encoded block (Table 13-1). -/
theorem ltEncode_layout (bs : List Byte) :
    ltEncode bs = toLe 1 (ltBase bs) ++ (toLe 1 (0xFF - ltBase bs) ++ (toLe 12 (packOctal (ltDelta bs) 32) ++
      (ltSfs bs ++ toLe 2 (crc16 (ltHead bs ++ ltSfs bs)).toNat))) := by
  simp only [ltEncode_eq, ltHead, List.append_assoc]

theorem field_ltEncode_base (bs : List Byte) : field (ltEncode bs) 0 1 = ltBase bs := by
  have hle := ltBase_le bs
  rw [field_append ((ltEncode_layout bs).trans (List.nil_append _).symm) List.length_nil (length_toLe ..)]
  exact ofLe_toLe_of_lt (by omega)

theorem field_ltEncode_complement (bs : List Byte) : field (ltEncode bs) 1 1 = 0xFF - ltBase bs := by
  rw [field_append (ltEncode_layout bs) (length_toLe ..) (length_toLe ..)]
  exact ofLe_toLe_of_lt (by omega)

theorem field_ltEncode_delta (bs : List Byte) : field (ltEncode bs) 2 12 = packOctal (ltDelta bs) 32 := by
  rw [field_append ((ltEncode_layout bs).trans (List.append_assoc ..).symm) (by simp) (length_toLe ..)]
  exact ofLe_toLe_of_lt (packOctal_lt (ltDelta_lt bs) 32)

theorem field_ltEncode_sf (bs : List Byte) {i : Nat} (hi : i < 32) : field (ltEncode bs) (14 + i) 1 = ltSf bs i := by
  rw [field_one (by rw [length_ltEncode]; omega)]
  have hbyte : (ltEncode bs)[14 + i]'(by rw [length_ltEncode]; omega) = BitVec.ofNat 8 (ltSf bs i) := by
    simp [ltEncode_eq, ltSfs, hi]
  rw [hbyte, BitVec.toNat_ofNat, Nat.mod_eq_of_lt (ltSf_lt bs i)]

theorem take_ltEncode (bs : List Byte) : (ltEncode bs).take 46 = ltHead bs ++ ltSfs bs :=
  List.take_left' (by simp)

theorem field_ltEncode_crc (bs : List Byte) :
    field (ltEncode bs) 46 2 = (crc16 ((ltEncode bs).take 46)).toNat := by
  rw [take_ltEncode, field_append (a := ltHead bs ++ ltSfs bs) (c := []) (by rw [List.append_nil]; exact ltEncode_eq bs)
    (by simp) (length_toLe ..)]
  exact ofLe_toLe_of_lt (BitVec.isLt _)

/-- An encoded block is well-formed (R322, R323). -/
theorem ltOk_ltEncode (bs : List Byte) : ltOk (ltEncode bs) = true := by
  simp only [ltOk, field_ltEncode_base, field_ltEncode_complement, field_ltEncode_delta, field_ltEncode_crc, beq_self_eq_true,
    Bool.true_and, List.all_eq_true, List.mem_range]
  intro i hi
  rw [packOctal_digit (ltDelta_lt bs) hi, field_ltEncode_sf bs hi]
  split
  · next hflushed => simp [ltSf, hflushed]
  · next hkept =>
    rw [ltDelta_of_kept (not_not.mp (mt ltDelta_eq_seven_iff.mpr hkept))]
    simp

/-! ### What decoding an encoded block returns -/

/-- What element `i` is after encoding and decoding: itself, or a zero with its sign (R324). -/
def ltElem (bs : List Byte) (i : Nat) : Nat := if LtKept bs i then d16At bs i else d16At bs i / 2 ^ 15 * 2 ^ 15

/-- The expanded bytes after encoding and decoding. -/
def ltRound (bs : List Byte) : List Byte := ((List.range 32).map fun i => toLe 2 (ltElem bs i)).flatten

theorem ltElem_of_kept {bs : List Byte} {i : Nat} (h : LtKept bs i) : ltElem bs i = d16At bs i := if_pos h

theorem ltElem_of_not_kept {bs : List Byte} {i : Nat} (h : ¬ LtKept bs i) :
    ltElem bs i = d16At bs i / 2 ^ 15 * 2 ^ 15 := if_neg h

theorem ltElem_lt (bs : List Byte) (i : Nat) : ltElem bs i < 2 ^ 16 := by
  have := d16At_lt bs i
  unfold ltElem
  split <;> omega

/-- Element `i` is decoded from its delta and its byte SF (R323). -/
theorem ltSf_decode (bs : List Byte) {i : Nat} (hi : i < 32) :
    ltSf bs i / 128 * 2 ^ 15 + (if ltDelta bs i = 7 then 0 else (ltBase bs - ltDelta bs i) * 128 + ltSf bs i % 128) =
      ltElem bs i := by
  have hlt := d16At_lt bs i
  by_cases hkept : LtKept bs i
  · have hseven : ltDelta bs i ≠ 7 := fun h => ltDelta_eq_seven_iff.mp h hkept
    have hexp : ltBase bs - ltDelta bs i = d16Exp (d16At bs i) := by
      rw [ltDelta_of_kept hkept, Nat.sub_sub_self (d16Exp_le_ltBase bs hi)]
    rw [if_neg hseven, hexp, ltElem_of_kept hkept, ltSf, if_neg hseven]
    have hparts := d16_parts (d16At bs i)
    omega
  · have hseven : ltDelta bs i = 7 := ltDelta_of_not_kept hkept
    rw [if_pos hseven, ltElem_of_not_kept hkept, ltSf, if_pos hseven]
    omega

theorem ltDecode_ltEncode (bs : List Byte) : ltDecode (ltEncode bs) = some (ltRound bs) := by
  rw [ltDecode, if_pos (ltOk_ltEncode bs), ltRound]
  refine congrArg (fun l => some (List.flatten l)) (List.map_congr_left fun i hi => congrArg (toLe 2) ?_)
  have hi : i < 32 := List.mem_range.mp hi
  simp only [field_ltEncode_base, field_ltEncode_delta, packOctal_digit (ltDelta_lt bs) hi, field_ltEncode_sf bs hi]
  exact ltSf_decode bs hi

theorem length_ltRound (bs : List Byte) : (ltRound bs).length = 64 := by
  simp [ltRound, List.length_flatten, Function.comp_def]

theorem d16At_ltRound (bs : List Byte) {i : Nat} (hi : i < 32) : d16At (ltRound bs) i = ltElem bs i := by
  rw [d16At, ltRound, field_flatten (by simp) (by simpa using hi)]
  simpa using ofLe_toLe_of_lt (ltElem_lt bs i)

theorem d16At_ltRound_of_kept {bs : List Byte} {i : Nat} (hi : i < 32) (h : LtKept bs i) :
    d16At (ltRound bs) i = d16At bs i := (d16At_ltRound bs hi).trans (ltElem_of_kept h)

theorem d16At_ltRound_of_not_kept {bs : List Byte} {i : Nat} (hi : i < 32) (h : ¬ LtKept bs i) :
    d16At (ltRound bs) i = d16At bs i / 2 ^ 15 * 2 ^ 15 := (d16At_ltRound bs hi).trans (ltElem_of_not_kept h)

/-- A block whose elements are all kept is kept whole. -/
theorem ltRound_eq_self {bs : List Byte} (hlen : bs.length = 64) (h : ∀ i, i < 32 → LtKept bs i) : ltRound bs = bs :=
  eq_of_d16At_eq (length_ltRound bs) hlen fun i hi => d16At_ltRound_of_kept hi (h i hi)

/-! ### Encoding again -/

/-- The encoding sees its block through the base exponent, the deltas and the bytes SF. -/
theorem ltEncode_congr {a b : List Byte} (hbase : ltBase a = ltBase b) (hdelta : ∀ i, i < 32 → ltDelta a i = ltDelta b i)
    (hsf : ∀ i, i < 32 → ltSf a i = ltSf b i) : ltEncode a = ltEncode b := by
  have hdeltas : packOctal (ltDelta a) 32 = packOctal (ltDelta b) 32 :=
    List.foldl_ext _ _ _ fun n i hi => by rw [hdelta i (List.mem_range.mp hi)]
  have hhead : ltHead a = ltHead b := by rw [ltHead, ltHead, hbase, hdeltas]
  have hsfs : ltSfs a = ltSfs b :=
    List.map_congr_left fun i hi => congrArg (BitVec.ofNat 8) (hsf i (List.mem_range.mp hi))
  rw [ltEncode_eq, ltEncode_eq, hhead, hsfs]

theorem ltBase_ltRound (bs : List Byte) : ltBase (ltRound bs) = ltBase bs := by
  refine ltBase_eq_iff.mpr ⟨fun i hi => ?_, ?_⟩
  · by_cases h : LtKept bs i
    · rw [d16At_ltRound_of_kept hi h]
      exact d16Exp_le_ltBase bs hi
    · rw [d16At_ltRound_of_not_kept hi h, d16Exp_signedZero]
      exact Nat.zero_le _
  · obtain ⟨i, hi, htop⟩ := exists_d16Exp_eq_ltBase bs
    have hkept : LtKept bs i := htop.ge.trans (Nat.le_add_right _ 6)
    exact ⟨i, hi, by rw [d16At_ltRound_of_kept hi hkept, htop]⟩

/-- Encoding again keeps what the first encoding kept, and no more. -/
theorem ltKept_ltRound {bs : List Byte} {i : Nat} (hi : i < 32) : LtKept (ltRound bs) i ↔ LtKept bs i := by
  unfold LtKept
  rw [ltBase_ltRound]
  by_cases h : LtKept bs i
  · rw [d16At_ltRound_of_kept hi h]
  · rw [d16At_ltRound_of_not_kept hi h, d16Exp_signedZero]
    unfold LtKept at h
    omega

theorem ltDelta_ltRound {bs : List Byte} {i : Nat} (hi : i < 32) : ltDelta (ltRound bs) i = ltDelta bs i := by
  by_cases h : LtKept bs i
  · rw [ltDelta_of_kept ((ltKept_ltRound hi).mpr h), ltDelta_of_kept h, ltBase_ltRound, d16At_ltRound_of_kept hi h]
  · rw [ltDelta_of_not_kept (mt (ltKept_ltRound hi).mp h), ltDelta_of_not_kept h]

theorem ltSf_ltRound {bs : List Byte} {i : Nat} (hi : i < 32) : ltSf (ltRound bs) i = ltSf bs i := by
  unfold ltSf
  rw [ltDelta_ltRound hi]
  by_cases h : LtKept bs i
  · rw [d16At_ltRound_of_kept hi h]
  · rw [d16At_ltRound_of_not_kept hi h, if_pos (ltDelta_of_not_kept h), if_pos (ltDelta_of_not_kept h)]
    omega

theorem ltEncode_ltRound (bs : List Byte) : ltEncode (ltRound bs) = ltEncode bs :=
  ltEncode_congr (ltBase_ltRound bs) (fun _ => ltDelta_ltRound) (fun _ => ltSf_ltRound)

/-! ### The magnitude of what is flushed -/

/-- Magnitude of a finite D16 value in units of 2^−134 (Table 10-2). -/
def d16Mag (x : Nat) : Nat := if d16Exp x = 0 then x % 128 * 2 else (128 + x % 128) * 2 ^ d16Exp x

/-- Seven exponent fields below E the magnitude lies below 2^(E − 133) (R324). -/
theorem d16Mag_lt {x e : Nat} (h : d16Exp x + 7 ≤ e) : d16Mag x < 2 ^ (e + 1) := by
  have hpow : 2 ^ (d16Exp x + 8) ≤ 2 ^ (e + 1) := Nat.pow_le_pow_right (by decide) (by omega)
  refine Nat.lt_of_lt_of_le ?_ hpow
  rw [Nat.pow_add, d16Mag]
  split
  · next hsub =>
    rw [hsub]
    omega
  · calc (128 + x % 128) * 2 ^ d16Exp x < 2 ^ 8 * 2 ^ d16Exp x :=
          Nat.mul_lt_mul_of_pos_right (by omega) (by positivity)
      _ = 2 ^ d16Exp x * 2 ^ 8 := Nat.mul_comm _ _

/-- A normal value is at least 2^(E − 127), which is 64 times 2^(E − 133) (R324). -/
theorem le_d16Mag {x : Nat} (h : d16Exp x ≠ 0) : 64 * 2 ^ (d16Exp x + 1) ≤ d16Mag x := by
  rw [d16Mag, if_neg h]
  calc 64 * 2 ^ (d16Exp x + 1) = 128 * 2 ^ d16Exp x := by ring
    _ ≤ (128 + x % 128) * 2 ^ d16Exp x := Nat.mul_le_mul_right _ (Nat.le_add_right _ _)

/-- Where E is not 0, the largest magnitude of a block is at least 2^(E − 127). -/
theorem exists_max_d16Mag {bs : List Byte} (h : ltBase bs ≠ 0) :
    ∃ k, k < 32 ∧ (∀ j, j < 32 → d16Mag (d16At bs j) ≤ d16Mag (d16At bs k)) ∧
      64 * 2 ^ (ltBase bs + 1) ≤ d16Mag (d16At bs k) := by
  obtain ⟨k, hk, hmax⟩ :=
    Finset.exists_max_image (Finset.range 32) (fun i => d16Mag (d16At bs i)) ⟨0, by decide⟩
  simp only [Finset.mem_range] at hk hmax
  obtain ⟨i, hi, htop⟩ := exists_d16Exp_eq_ltBase bs
  refine ⟨k, hk, hmax, ?_⟩
  rw [← htop] at h ⊢
  exact (le_d16Mag h).trans (hmax i hi)

/-- An element that encoding changes lies below 2^(E − 133). -/
theorem d16Mag_lt_of_changed {bs : List Byte} {i : Nat} (hi : i < 32) (h : d16At (ltRound bs) i ≠ d16At bs i) :
    d16Mag (d16At bs i) < 2 ^ (ltBase bs + 1) := by
  have hflushed : ¬ LtKept bs i := fun hkept => h (d16At_ltRound_of_kept hi hkept)
  exact d16Mag_lt (by unfold LtKept at hflushed; omega)

/-! ### The statement -/

/-- Settles O34: decoding an encoded block returns `ltRound`, which keeps the elements within six exponent fields of E. -/
theorem lighterCodec : Obligations.LighterCodec := by
  unfold Obligations.LighterCodec
  intro bs hlen
  refine ⟨ltRound bs, length_ltEncode bs, ltDecode_ltEncode bs, length_ltRound bs, fun i hi => d16At_ltRound bs hi,
    ?special, ?top, ?small, ?zero, ?error, ltEncode_ltRound bs⟩
  case special =>
    intro i hi hexp
    have htop : ltBase bs = 255 := le_antisymm (ltBase_le bs) (hexp ▸ d16Exp_le_ltBase bs hi)
    exact ⟨htop, d16At_ltRound_of_kept hi (by unfold LtKept; omega)⟩
  case top =>
    intro htop i hi
    refine ⟨fun hge => d16At_ltRound_of_kept hi (by unfold LtKept; omega), fun hlt => ?_⟩
    rw [d16At_ltRound_of_not_kept hi (by unfold LtKept; omega)]
    exact Nat.mul_mod_left _ _
  case small => exact fun hle i hi _ => d16At_ltRound_of_kept hi (hle.trans (Nat.le_add_left 6 _))
  case zero => exact fun hbase => ltRound_eq_self hlen fun i _ => hbase.le.trans (Nat.zero_le _)
  case error =>
    intro hge _
    obtain ⟨k, hk, hmax, hlarge⟩ := exists_max_d16Mag (bs := bs) (by omega)
    exact ⟨k, hk, hmax, hlarge, fun i hi => d16Mag_lt_of_changed hi⟩

end Sys2Proof.Machine
end

section
/-! PROOFS. Adds to exact slots: what `xs.add` sends, what an add that arrives does to its slot, and that the order of the
addends does not matter (R359, R360). -/

namespace Sys2Proof

/-- `.zero` keeps the integer part of m × 2^(e − u), on either side of the rounding point. -/
theorem roundAt_zero (m : Nat) (e u : Int) : roundAt .zero m e u = m * 2 ^ (e - u).toNat / 2 ^ (u - e).toNat := by
  unfold roundAt
  split
  next h => simp [Int.toNat_of_nonpos (Int.sub_nonpos_of_le h)]
  next h => simp [Int.toNat_of_nonpos (show e - u ≤ 0 by omega)]

theorem roundAt_zero_mul_le (m : Nat) (e u : Int) :
    roundAt .zero m e u * 2 ^ (u - e).toNat ≤ m * 2 ^ (e - u).toNat := by
  rw [roundAt_zero]
  exact Nat.div_mul_le_self _ _

theorem lt_succ_roundAt_zero_mul (m : Nat) (e u : Int) :
    m * 2 ^ (e - u).toNat < (roundAt .zero m e u + 1) * 2 ^ (u - e).toNat := by
  rw [roundAt_zero]
  exact Nat.lt_mul_of_div_lt (Nat.lt_succ_self _) (Nat.two_pow_pos _)

/-- A value whose exponent is not below the rounding point is kept whole. -/
theorem roundAt_of_le {u e : Int} (h : u ≤ e) (r : Rnd) (m : Nat) : roundAt r m e u = m * 2 ^ (e - u).toNat := if_pos h

/-- m × 2^e reaches 2^u when its leading bit does. -/
theorem le_log2_add_iff {m : Nat} (hm : m ≠ 0) (e u : Int) :
    u ≤ (log2 m : Int) + e ↔ 2 ^ (u - e).toNat ≤ m * 2 ^ (e - u).toNat := by
  obtain h | h := le_total u e
  · have hpos : 0 < m * 2 ^ (e - u).toNat := Nat.mul_pos (Nat.pos_of_ne_zero hm) (Nat.two_pow_pos _)
    rw [Int.toNat_of_nonpos (Int.sub_nonpos_of_le h), pow_zero]
    exact iff_of_true (by omega) hpos
  · rw [Int.toNat_of_nonpos (Int.sub_nonpos_of_le h), pow_zero, mul_one, ← Nat.le_log2 hm]
    unfold log2
    omega

end Sys2Proof

namespace Sys2Proof.Machine

open Sys2Proof

/-! ### One addend -/

/-- A finite value that reaches 2^(W + 175) sets RANGE and is not added. -/
theorem Slot.add_fin_of_ge {t : Slot} {m : Nat} {e : Int}
    (h : 2 ^ (t.w + 175 - e).toNat ≤ m * 2 ^ (e - (t.w + 175)).toNat) (neg : Bool) :
    t.add (.fin neg m e) = { t with range := true } := by
  have hm : m ≠ 0 := by
    rintro rfl
    exact absurd h (by simp)
  simp only [Slot.add, if_neg hm, if_pos ((le_log2_add_iff hm e _).mpr h)]

/-- A finite value below 2^(W + 175) joins the sum, truncated to a multiple of 2^W. -/
theorem Slot.add_fin_of_lt {t : Slot} {m : Nat} {e : Int}
    (h : m * 2 ^ (e - (t.w + 175)).toNat < 2 ^ (t.w + 175 - e).toNat) (neg : Bool) :
    t.add (.fin neg m e) = { t with
      s := t.s + BitVec.ofInt 176 (Num.signed neg (roundAt .zero m e t.w))
      inexact := t.inexact || decide (roundAt .zero m e t.w * 2 ^ (t.w - e).toNat ≠ m * 2 ^ (e - t.w).toNat) } := by
  by_cases hm : m = 0
  · subst hm
    simp [Slot.add, roundAt_zero, Num.signed]
  · have hexact : (decide (t.w ≤ e) || roundAt .zero m e t.w * 2 ^ (t.w - e).toNat == m) =
        decide (roundAt .zero m e t.w * 2 ^ (t.w - e).toNat = m * 2 ^ (e - t.w).toNat) := by
      by_cases hw : t.w ≤ e
      · simp [roundAt_of_le hw, hw, Int.toNat_of_nonpos (Int.sub_nonpos_of_le hw)]
      · simp [hw, Int.toNat_of_nonpos (show e - t.w ≤ 0 by omega), beq_eq_decide]
    have hbelow : ¬ t.w + 175 ≤ (log2 m : Int) + e := (le_log2_add_iff hm e _).not.mpr (not_le.mpr h)
    simp only [Slot.add, if_neg hm, if_neg hbelow, hexact, Num.signed, decide_not]

/-- A multiple of 2^W within the window joins the sum exactly. -/
theorem Slot.add_multiple {m k : Nat} (h : m * 2 ^ k < 2 ^ 175) (t : Slot) (neg : Bool) :
    t.add (.fin neg m (t.w + k)) = { t with s := t.s + BitVec.ofInt 176 (Num.signed neg (m * 2 ^ k)) } := by
  have hwindow : m * 2 ^ (k - 175) < 2 ^ (175 - k) := by
    refine Nat.lt_of_mul_lt_mul_right (a := 2 ^ min k 175) ?_
    rw [mul_assoc, ← pow_add, ← pow_add, Nat.sub_add_min_cancel, min_comm, Nat.sub_add_min_cancel]
    exact h
  have hover : (t.w + k - (t.w + 175)).toNat = k - 175 := by omega
  have hunder : (t.w + 175 - (t.w + k)).toNat = 175 - k := by omega
  rw [Slot.add_fin_of_lt (by rwa [hover, hunder])]
  simp [roundAt_of_le (show t.w ≤ t.w + k by omega)]

/-! ### A list of addends -/

/-- The slot `t` with the sum and the flags of `a` as well. -/
def Slot.plus (a t : Slot) : Slot :=
  { t with s := t.s + a.s, inexact := t.inexact || a.inexact, pinf := t.pinf || a.pinf, ninf := t.ninf || a.ninf
           nan := t.nan || a.nan, range := t.range || a.range }

/-- An addend does to a slot what it does to an empty slot of the same window. -/
theorem Slot.add_eq_plus (x : Num) (t : Slot) : t.add x = (Slot.add x { w := t.w }).plus t := by
  match x with
  | .nan => simp [Slot.add, Slot.plus]
  | .inf true => simp [Slot.add, Slot.plus]
  | .inf false => simp [Slot.add, Slot.plus]
  | .fin neg m e =>
    simp only [Slot.add]
    split_ifs <;> simp [Slot.plus]

theorem Slot.plus_right_comm (a b t : Slot) : b.plus (a.plus t) = a.plus (b.plus t) := by
  simp [Slot.plus, add_right_comm, Bool.or_right_comm]

theorem Slot.add_right_comm (x y : Num) (t : Slot) : (t.add x).add y = (t.add y).add x := by
  have hw (z : Num) : (t.add z).w = t.w := by rw [Slot.add_eq_plus]; rfl
  rw [Slot.add_eq_plus y, Slot.add_eq_plus x (t.add y), hw, hw, Slot.add_eq_plus x t, Slot.add_eq_plus y t,
    Slot.plus_right_comm]

/-- A list of multiples of 2^W within the window joins the sum exactly. -/
theorem Slot.foldl_add_multiples {l : List (Bool × Nat × Nat)} (h : ∀ x ∈ l, x.2.1 * 2 ^ x.2.2 < 2 ^ 175) (t : Slot) :
    (l.map fun x => Num.fin x.1 x.2.1 (t.w + x.2.2)).foldl (fun t x => t.add x) t =
      { t with s := t.s + BitVec.ofInt 176 (l.map fun x => Num.signed x.1 (x.2.1 * 2 ^ x.2.2)).sum } := by
  induction l generalizing t with
  | nil => simp
  | cons x l ih =>
    obtain ⟨hx, hl⟩ := List.forall_mem_cons.mp h
    rw [List.map_cons, List.foldl_cons, Slot.add_multiple hx, List.map_cons, List.sum_cons, BitVec.ofInt_add, ← add_assoc]
    exact ih hl _

/-! ### From the lanes to the slot -/

theorem State.slotAt_slotAdd_self {s : State} {i : Nat} (h : (s.slotAt i).poisoned = false) (f : Slot → Slot) :
    (s.slotAdd i f).slotAt i = f (s.slotAt i) := by
  rw [State.slotAdd, if_neg (by simp [h])]
  exact Tab.look_upd_self ..

theorem State.slotAt_slotAdd_ne {i k : Nat} (h : k ≠ i) (f : Slot → Slot) (s : State) :
    (s.slotAdd i f).slotAt k = s.slotAt k := by
  unfold State.slotAdd
  split
  · rfl
  · exact Tab.look_upd_ne _ _ _ _ _ _ h

@[simp] theorem State.slotAdd_mem (i : Nat) (f : Slot → Slot) (s : State) : (s.slotAdd i f).mem = s.mem := by
  unfold State.slotAdd
  split <;> rfl

@[simp] theorem State.slotAdd_inflight (i : Nat) (f : Slot → Slot) (s : State) :
    (s.slotAdd i f).red.inflight = s.red.inflight := by
  unfold State.slotAdd
  split <;> rfl

/-- The oldest add in flight, an admitted one to an exact slot, joins its slot. -/
theorem exec_reductionApply_of_xs {s : State} {a : RedAdd} {r : List RedAdd} (hin : s.red.inflight = a :: r)
    (hawake : s.awake = true) (htrip : s.tw.tripped = false) (htag : a.npart = ~~~(BitVec.ofNat 8 a.part))
    (hadm : s.addAdmitted a = true) (hxs : a.fmt = .xs) :
    exec (.reductionApply false) s = .next (State.settle
      ((s.onRed fun x => { x with inflight := r }).slotAdd a.dpa fun t => t.add (fB32.decode (a.value.toNat % 2 ^ 32)))) := by
  change execReductionApply false s = _
  simp [execReductionApply, done, State.applyAdd, hin, hawake, htrip, htag, hadm, hxs]

@[simp] theorem State.xsNow_slot (g i : Nat) (v : Word) (s : State) : (s.xsNow g i v).red.slot = s.red.slot := by
  simp [State.xsNow, State.sendAdd]

@[simp] theorem State.xsNow_mem (g i : Nat) (v : Word) (s : State) : (s.xsNow g i v).mem = s.mem := by
  simp [State.xsNow, State.sendAdd]

@[simp] theorem State.xsNow_inflight (g i : Nat) (v : Word) (s : State) :
    (s.xsNow g i v).red.inflight = s.red.inflight ++
      [{ fmt := .xs, dpa := i, value := v.setWidth 64, part := (s.launchOf g).part, gang := g }] := by
  simp [State.xsNow, State.sendAdd]

/-- The lanes' adds leave behind those in flight, in the order of the lanes. -/
theorem State.foldl_xsNow_inflight (g : Nat) (i : Nat → Nat) (v : Nat → Word) (lanes : List Nat) (s : State) :
    (lanes.foldl (fun t l => t.xsNow g (i l) (v l)) s).red.inflight.map (fun a => (a.fmt, a.dpa, a.value)) =
      s.red.inflight.map (fun a => (a.fmt, a.dpa, a.value)) ++ lanes.map fun l => (.xs, i l, (v l).setWidth 64) := by
  induction lanes generalizing s with
  | nil => simp
  | cons l lanes ih =>
    rw [List.foldl_cons, ih]
    simp

theorem exec_xsAdd_of_passed {s : State} {g vi vx : Nat} (hissue : s.canIssue g = true)
    (hpass : firstFault ((s.issued g).xsChecks g vi vx) = none) :
    exec (.xsAdd g vi vx) s = .next (State.settle ((s.gang g).lanes.foldl (fun t l =>
      t.xsNow g ((s.gang g).vReg vi l).toNat ((s.gang g).vReg vx l)) (s.issued g))) := by
  change execXsAdd g vi vx s = _
  simp only [execXsAdd, done, State.instr_run s g (fun t => t.xsChecks g vi vx) _ hissue hpass]

/-! ### The statement -/

/-- Settles O41: an addend does to every slot of a window what it does to an empty one, and such effects commute. -/
theorem reductionOrder : Obligations.ReductionOrder := by
  unfold Obligations.ReductionOrder
  refine ⟨?arrive, ?send, fun t => ⟨rfl, rfl, rfl⟩, fun t neg m e h => Slot.add_fin_of_ge h neg, ?trunc, ?perm, ?exact⟩
  case arrive =>
    intro s a r hin hawake htrip htag hadm hxs hclean
    exact ⟨_, exec_reductionApply_of_xs hin hawake htrip htag hadm hxs, State.slotAdd_inflight ..,
      State.slotAt_slotAdd_self (s := s.onRed fun x => { x with inflight := r }) hclean _,
      fun k hk => State.slotAt_slotAdd_ne hk _ _, State.slotAdd_mem ..⟩
  case send =>
    intro s g vi vx hissue hpass
    refine ⟨_, exec_xsAdd_of_passed hissue hpass, ?_, ?_, State.foldl_xsNow_inflight ..⟩
    · exact foldl_keeps (fun t => t.red.slot) _ (fun _ _ => by simp) _ _
    · exact foldl_keeps State.mem _ (fun _ _ => by simp) _ _
  case trunc =>
    exact fun t neg m e h => ⟨roundAt .zero m e t.w, roundAt_zero_mul_le m e t.w, lt_succ_roundAt_zero_mul m e t.w,
      Slot.add_fin_of_lt h neg⟩
  case perm => exact fun t l m h => h.foldl_eq' (fun x _ y _ t => Slot.add_right_comm x y t) t
  case exact =>
    intro t l h
    rw [Slot.foldl_add_multiples h t]
    exact ⟨rfl, rfl⟩

end Sys2Proof.Machine
end

section
/-! PROOFS. What a read of GLB_BLOCKS returns, and the blocks of PF BAR0 that answer (R30, R473). -/

namespace Sys2Proof.Machine

open Sys2Proof

/-! ### Bytes of the upper half of a word -/

theorem drop_toLe (m n w : Nat) : (toLe (m + n) w).drop m = toLe n (w / 256 ^ m) := by
  induction m generalizing w with
  | zero => simp
  | succ m ih =>
    rw [Nat.succ_add, toLe, List.drop_succ_cons, ih, Nat.div_div_eq_div_mul, Nat.pow_succ']

/-- The bytes past the low half of a word spell its upper half. -/
theorem drop_toLe_add_mul {m a : Nat} (h : a < 256 ^ m) (n b : Nat) :
    (toLe (m + n) (a + b * 256 ^ m)).drop m = toLe n b := by
  rw [drop_toLe, Nat.add_mul_div_right _ _ (by positivity), Nat.div_eq_of_lt h, Nat.zero_add]

/-! ### Reads of PF BAR0 -/

/-- A host access finds an awake device as it is (R14). -/
theorem State.hostWake_of_ne_sleep {s : State} (h : s.pwr.dev ≠ .sleep) : s.hostWake = s := by
  simp [State.hostWake, h]

/-- With the link up, PF BAR0 answers at every offset from READY on, and in its first three blocks before (R30). -/
theorem State.answers_pf {s : State} (hhub : s.ao.hubOut = true) (hlink : s.host.linkDown = false) (off : Nat) :
    s.answers .pf off = (decide (off < 0x400000) && (s.boot.ready || decide (off < 0x30000))) := by
  simp [State.answers, hhub, hlink]

@[simp] theorem State.emit_out (o : Output) (s : State) : (s.emit o).out = o :: s.out := rfl

/-- GLB_BLOCKS (R473). -/
theorem State.pfRead_blocks (s : State) : s.pfRead 4 = if s.boot.ready then 0x13FFF else 7 := by
  simp [State.pfRead, State.glbRead]

/-- GLB_ID (Table 19-9), the word below GLB_BLOCKS. -/
theorem State.pfRead_id (s : State) : s.pfRead 0 = 0x6400B101 := by
  simp [State.pfRead, State.glbRead]

/-- Taking the 8 bytes that hold GLB_BLOCKS pops nothing. -/
theorem State.regPop_blocks (s : State) : s.regPop .pf 4 = (s.pfRead 0 + s.pfRead 4 * 0x100000000, s) := by
  simp [State.regPop, State.regRead4]

/-- A read of GLB_BLOCKS restarts no peak. -/
theorem State.afterRead_blocks (s : State) : s.afterRead .pf 4 4 = s := by
  simp [State.afterRead, inArr]

/-- A 32-bit read of GLB_BLOCKS sends the register's four bytes and leaves the rest to the settling, the latch as it was:
neither GLB_BLOCKS nor the word below it is the low half of a 64-bit register. -/
theorem exec_read_blocks {s : State} (hhub : s.ao.hubOut = true) (hlink : s.host.linkDown = false)
    (hawake : s.pwr.dev ≠ .sleep) :
    exec (.lowHalfReadLatch .pf 4 4) s = .next (s.emit (.readData (toLe 4 (s.pfRead 4)) false)).settle := by
  have hanswers : s.answers .pf 4 = true := by simp [State.answers_pf hhub hlink]
  have hbytes : (toLe 8 (s.pfRead 0 + s.pfRead 4 * 0x100000000)).drop 4 = toLe 4 (s.pfRead 4) :=
    drop_toLe_add_mul (m := 4) (by rw [State.pfRead_id]; decide) 4 _
  change execLowHalfReadLatch .pf 4 4 s = _
  simp [execLowHalfReadLatch, done, hhub, hlink, hanswers, State.hostWake_of_ne_sleep hawake, pfWideRo,
    State.regPop_blocks, State.afterRead_blocks, hbytes, List.take_of_length_le]

/-! ### The statement -/

/-- Settles O60: GLB_BLOCKS reads one of two constants by READY, whose bits are those of the blocks that answer. -/
theorem blocksThatRespond : Obligations.BlocksThatRespond := by
  unfold Obligations.BlocksThatRespond
  refine ⟨?readBefore, ?readReady, ?before, ?ready⟩
  case readBefore =>
    intro s hhub hlink hready hawake
    refine ⟨_, exec_read_blocks hhub hlink hawake, ?_⟩
    simp [State.pfRead_blocks, hready, toLe]
  case readReady =>
    intro s hhub hlink hready hawake
    refine ⟨_, exec_read_blocks hhub hlink hawake, ?_⟩
    simp [State.pfRead_blocks, hready, toLe]
  case before =>
    intro s off hhub hlink hready hoff
    have hblock : off / 65536 < 3 ↔ off < 0x30000 := Nat.div_lt_iff_lt_mul (by decide)
    have hbit : Nat.testBit 7 (off / 65536) = decide (off / 65536 < 3) := Nat.testBit_two_pow_sub_one 3 _
    simp [State.answers_pf hhub hlink, State.pfRead_blocks, hready, hoff, hbit, hblock]
  case ready =>
    -- From READY on every offset of the BAR answers (R468), a reserved one too, whatever its bit shows.
    intro s off hhub hlink hready hoff _
    simp [State.answers_pf hhub hlink, hready, hoff]

end Sys2Proof.Machine
end

section
/-! PROOFS. What every operation keeps: the queue of commands, and the canonical form of device memory (log 3). One lemma for each
operation of the model, its proof shaped as the operation's definition; they end in one theorem about every command and one
about the tick. -/

namespace Sys2Proof.Machine

open Sys2Proof

-- One proof after another: hundreds that wait for each other in threads of their own need more memory than the check gives.
set_option Elab.async false

/-- From `s` to `t` the queue of commands is as it was, and device memory in canonical form stays in it. -/
def Keeps (s t : State) : Prop := t.pending = s.pending ∧ (Memory.wf s = true → Memory.wf t = true)

/-- The bytes of device memory are in canonical form. -/
def Mem.Canon (m : Mem) : Prop := Tab.wf (α := Byte) 0 m.bytes = true

theorem Mem.Canon.store {m : Mem} {a : Nat} {bs : List Byte} (hm : m.Canon) : (m.store a bs).Canon := m.store_wf a bs hm
theorem Mem.Canon.zero {m : Mem} {a n : Nat} (hm : m.Canon) : (m.zero a n).Canon := m.zero_wf a n hm
theorem Mem.Canon.poisonAt {m : Mem} {a n : Nat} (hm : m.Canon) : (m.poisonAt a n).Canon := m.poisonAt_wf a n hm
theorem Mem.Canon.clearWhole {m : Mem} {a n : Nat} (hm : m.Canon) : (m.clearWhole a n).Canon := m.clearWhole_wf a n hm

variable {s₀ s : State}

theorem Keeps.refl (s : State) : Keeps s s := ⟨rfl, id⟩

theorem Keeps.trans {s t u : State} (h : Keeps s t) (h' : Keeps t u) : Keeps s u := ⟨h'.1.trans h.1, h'.2 ∘ h.2⟩

theorem Keeps.onAo (h : Keeps s₀ s) {f : Ao → Ao} : Keeps s₀ (s.onAo f) := h
theorem Keeps.onBoot (h : Keeps s₀ s) {f : Boot → Boot} : Keeps s₀ (s.onBoot f) := h
theorem Keeps.onHost (h : Keeps s₀ s) {f : HostPort → HostPort} : Keeps s₀ (s.onHost f) := h
theorem Keeps.onHws (h : Keeps s₀ s) {f : Tab Port → Tab Port} : Keeps s₀ (s.onHws f) := h
theorem Keeps.onTw (h : Keeps s₀ s) {f : Tw → Tw} : Keeps s₀ (s.onTw f) := h
theorem Keeps.onTime (h : Keeps s₀ s) {f : TimeBlk → TimeBlk} : Keeps s₀ (s.onTime f) := h
theorem Keeps.onPwr (h : Keeps s₀ s) {f : Pwr → Pwr} : Keeps s₀ (s.onPwr f) := h
theorem Keeps.onQ (h : Keeps s₀ s) {f : Queues → Queues} : Keeps s₀ (s.onQ f) := h
theorem Keeps.onPart (h : Keeps s₀ s) {f : Parts → Parts} : Keeps s₀ (s.onPart f) := h
theorem Keeps.onObj (h : Keeps s₀ s) {f : Objs → Objs} : Keeps s₀ (s.onObj f) := h
theorem Keeps.onSync (h : Keeps s₀ s) {f : Sync → Sync} : Keeps s₀ (s.onSync f) := h
theorem Keeps.onRed (h : Keeps s₀ s) {f : Red → Red} : Keeps s₀ (s.onRed f) := h
theorem Keeps.onCore (h : Keeps s₀ s) {f : Cores → Cores} : Keeps s₀ (s.onCore f) := h
theorem Keeps.onWork (h : Keeps s₀ s) {f : Work → Work} : Keeps s₀ (s.onWork f) := h
theorem Keeps.onMem (h : Keeps s₀ s) {f : Mem → Mem} (hf : ∀ m : Mem, m.Canon → (f m).Canon) : Keeps s₀ (s.onMem f) :=
  ⟨h.1, fun hs => hf s.mem (h.2 hs)⟩
theorem Keeps.onMemRest (h : Keeps s₀ s) {f : Mem → Mem} (hf : ∀ m : Mem, (f m).bytes = m.bytes := by exact fun _ => rfl) :
    Keeps s₀ (s.onMem f) :=
  h.onMem fun m hm => by rwa [Mem.Canon, hf m]
theorem Keeps.onCim (h : Keeps s₀ s) {f : Cim → Cim} : Keeps s₀ (s.onCim f) := h
theorem Keeps.onFleet (h : Keeps s₀ s) {f : Fleet → Fleet} : Keeps s₀ (s.onFleet f) := h
theorem Keeps.onNvm (h : Keeps s₀ s) {f : Nvm → Nvm} : Keeps s₀ (s.onNvm f) := h
theorem Keeps.onLog (h : Keeps s₀ s) {f : LogBlk → LogBlk} : Keeps s₀ (s.onLog f) := h
theorem Keeps.onFence (h : Keeps s₀ s) {f : Fence → Fence} : Keeps s₀ (s.onFence f) := h
theorem Keeps.onMgmt (h : Keeps s₀ s) {f : Mgmt → Mgmt} : Keeps s₀ (s.onMgmt f) := h
theorem Keeps.onJtag (h : Keeps s₀ s) {f : Jtag → Jtag} : Keeps s₀ (s.onJtag f) := h
theorem Keeps.onOut (h : Keeps s₀ s) {f : List Output → List Output} : Keeps s₀ (s.onOut f) := h
theorem Keeps.onFree (h : Keeps s₀ s) {f : Nat → Nat} : Keeps s₀ (s.onFree f) := h

/-- What every step of a fold keeps, the fold keeps. -/
theorem Keeps.foldl (h : Keeps s₀ s) {α : Type} {f : State → α → State} {l : List α}
    (hf : ∀ t a, Keeps s₀ t → Keeps s₀ (f t a)) : Keeps s₀ (l.foldl f s) := by
  induction l generalizing s with
  | nil => exact h
  | cons a l ih => exact ih (hf _ a h)

/-- A fold that carries a state and a value keeps what each of its steps keeps. -/
theorem Keeps.foldl_fst {α β : Type} {f : State × β → α → State × β} {l : List α} {x : State × β} (h : Keeps s₀ x.1)
    (hf : ∀ x a, Keeps s₀ x.1 → Keeps s₀ (f x a).1) : Keeps s₀ (l.foldl f x).1 := by
  induction l generalizing x with
  | nil => exact h
  | cons a l ih => exact ih (hf x a h)

theorem Keeps.foldl_snd {α β : Type} {f : β × State → α → β × State} {l : List α} {x : β × State} (h : Keeps s₀ x.2)
    (hf : ∀ x a, Keeps s₀ x.2 → Keeps s₀ (f x a).2) : Keeps s₀ (l.foldl f x).2 := by
  induction l generalizing x with
  | nil => exact h
  | cons a l ih => exact ih (hf x a h)

theorem Keeps.ite {t : State} {c : Prop} [Decidable c] (h : Keeps s₀ s) (ht : Keeps s₀ t) : Keeps s₀ (if c then s else t) := by
  split
  · exact h
  · exact ht

/-- The command answers a next state that keeps the queue and the form of memory. -/
def Answers (s : State) (r : Result) : Prop := ∃ t, r = .next t ∧ Keeps s t

theorem Answers.next (h : Keeps s₀ s) : Answers s₀ (.next s) := ⟨s, rfl, h⟩

/-! ### Operations of Ops -/

theorem Keeps.emit (h : Keeps s₀ s) {o : Output} : Keeps s₀ (s.emit o) := h.onOut

theorem Keeps.fresh_snd (h : Keeps s₀ s) : Keeps s₀ (s.fresh).2 := h.onFree

theorem Keeps.msixSend (h : Keeps s₀ s) {fn v : Nat} : Keeps s₀ (s.msixSend fn v) := by
  unfold State.msixSend
  split
  · extract_lets e
    exact .ite h.emit h.onHost
  · extract_lets f e
    exact .ite h.emit h.onHost

theorem Keeps.raise (h : Keeps s₀ s) {k : Nat} : Keeps s₀ (s.raise k) := by
  unfold State.raise
  refine .ite h ?_
  extract_lets t
  have ht : Keeps s₀ t := h.onHost
  exact .ite ht.onHost (.ite ht ht.msixSend)

theorem Keeps.raiseVf (h : Keeps s₀ s) {n b : Nat} : Keeps s₀ (s.raiseVf n b) := by
  unfold State.raiseVf
  extract_lets f t
  have ht : Keeps s₀ t := h.onHost
  exact .ite h (.ite ht.onHost (.ite ht ht.msixSend))

theorem Keeps.logOcc (h : Keeps s₀ s) {o : Occ} : Keeps s₀ (s.logOcc o) := by
  unfold State.logOcc
  split
  · extract_lets t
    have ht : Keeps s₀ t := h.onLog
    exact .ite ht ht.raise
  · extract_lets t t₁
    have ht : Keeps s₀ t := h.onLog
    have ht₁ : Keeps s₀ t₁ := .ite ht.raise ht
    split
    · exact ht₁
    · exact .ite ht₁.raiseVf ht₁

theorem Keeps.corrected (h : Keeps s₀ s) {unit : Nat} : Keeps s₀ (s.corrected unit) := by
  unfold State.corrected
  extract_lets sec
  split
  · exact h.onLog
  · exact .ite h.onLog h.logOcc.onLog

theorem Keeps.alert (h : Keeps s₀ s) {b : Nat} : Keeps s₀ (s.alert b) := h.onTw

theorem Keeps.mismatch (h : Keeps s₀ s) {event : Nat} {part : Option Nat} {addr : DWord} {tag : Word} : Keeps s₀
    (s.mismatch event part addr tag) := by
  unfold State.mismatch
  exact h.logOcc.alert

theorem Keeps.onSlice (h : Keeps s₀ s) {n : Nat} {f : Slice → Slice} : Keeps s₀ (s.onSlice n f) := h.onPwr

theorem Keeps.onDie (h : Keeps s₀ s) {d : Nat} {f : Die → Die} : Keeps s₀ (s.onDie d f) := h.onPwr

theorem Keeps.onDir (h : Keeps s₀ s) {l : Nat} {f : DirLine → DirLine} : Keeps s₀ (s.onDir l f) := h.onMemRest

theorem Keeps.giveUp (h : Keeps s₀ s) {l x : Nat} : Keeps s₀ (s.giveUp l x) := h.onDir

theorem Keeps.l2Empty (h : Keeps s₀ s) {d : Nat} {p : Nat → Nat → Bool} : Keeps s₀ (s.l2Empty d p) :=
  (h.foldl (fun _ _ ht => ht.giveUp)).onMemRest

/-! ### Operations of Link -/

theorem Keeps.onPort (h : Keeps s₀ s) {p : Nat} {f : Port → Port} : Keeps s₀ (s.onPort p f) := h.onHws

theorem Keeps.sendFlit (h : Keeps s₀ s) {n : Nat} {f : HwsPayload} : Keeps s₀ (s.sendFlit n f) := by
  unfold State.sendFlit
  extract_lets p
  exact h.emit.onPort

theorem Keeps.pushFlit (h : Keeps s₀ s) {n : Nat} {f : HwsPayload} : Keeps s₀ (s.pushFlit n f) := by
  unfold State.pushFlit
  extract_lets p
  exact .ite h.sendFlit h.onPort

theorem Keeps.drainPort (h : Keeps s₀ s) {n k : Nat} : Keeps s₀ (State.drainPort n k s) := by
  induction k generalizing s with
  | zero => exact h
  | succ k ih =>
    unfold State.drainPort
    split
    · exact h
    · split
      · exact ih h.onPort.sendFlit
      · exact h

theorem Keeps.drain (h : Keeps s₀ s) {n : Nat} : Keeps s₀ (s.drain n) := h.drainPort

theorem Keeps.sendOn (h : Keeps s₀ s) {n : Nat} {m : FleetMsg} : Keeps s₀ (s.sendOn n m) :=
  h.foldl (fun _ _ ht => ht.pushFlit)

theorem Keeps.handOver_fst (h : Keeps s₀ s) {n : Nat} {m : HeldMsg} : Keeps s₀ (s.handOver n m).1 := by
  unfold State.handOver
  split
  · exact h.sendOn
  · exact h.sendOn.onFleet

theorem Keeps.sendMsg (h : Keeps s₀ s) {m : FleetMsg} : Keeps s₀ (s.sendMsg m) := by
  unfold State.sendMsg
  extract_lets m₁ behind
  split
  next p _ =>
    have hgiven : Keeps s₀ (s.handOver p m₁).1 := h.handOver_fst
    refine .ite h.sendOn (.ite h.onFleet ?_)
    exact hgiven.onFleet
  · exact .ite h.onFleet (.ite h h.onFleet)

theorem Keeps.sendHeld (h : Keeps s₀ s) : Keeps s₀ s.sendHeld := by
  unfold State.sendHeld
  dsimp only
  refine .foldl (.onFleet (.onFleet (.foldl_fst h ?_))) ?_
  · intro x m hx
    split
    · exact hx
    · split
      · exact hx.handOver_fst
      · exact hx
  · intro t m ht
    split
    · exact ht.sendOn
    · exact ht.onFleet

theorem Keeps.nextMsgId_snd (h : Keeps s₀ s) : Keeps s₀ (s.nextMsgId).2 := h.onFleet

theorem Keeps.startSeries (h : Keeps s₀ s) {n : Nat} : Keeps s₀ (s.startSeries n) := by
  unfold State.startSeries
  extract_lets p
  exact .ite h.onPort h

theorem Keeps.sendAck (h : Keeps s₀ s) {dst : Nat} {ack : DWord} {outcome entry : Nat} {forPart : Option Nat} : Keeps
    s₀ (s.sendAck dst ack outcome entry forPart) := by
  unfold State.sendAck
  exact h.sendMsg

theorem Keeps.sendRefusal (h : Keeps s₀ s) {dst ack code : Nat} {forPart : Option Nat} : Keeps s₀ (s.sendRefusal dst
    ack code forPart) := by
  unfold State.sendRefusal
  exact h.sendMsg

theorem Keeps.discardMsg (h : Keeps s₀ s) {m : FleetMsg} : Keeps s₀ (s.discardMsg m) := h.logOcc

/-! ### Operations of QueueOps -/

theorem Keeps.onQueue (h : Keeps s₀ s) {q : QueueId} {f : Queue → Queue} : Keeps s₀ (s.onQueue q f) := h.onQ

theorem Keeps.history (h : Keeps s₀ s) {part : Nat} {tag : Word} {status : Nat} {r : List Byte} : Keeps s₀ (s.history
    part tag status r) := by
  unfold State.history
  extract_lets e
  exact h.onLog

theorem Keeps.ringReply (h : Keeps s₀ s) {q : QueueId} {r : List Byte} : Keeps s₀ (s.ringReply q r) := by
  unfold State.ringReply
  extract_lets x size i bytes a t
  have ht : Keeps s₀ t := .ite (h.onMem (fun _ hm => hm.store)) h.emit
  exact ht.onQueue

theorem Keeps.fwdReply (h : Keeps s₀ s) {pid part : Nat} {r : List Byte} : Keeps s₀ (s.fwdReply pid part r) := by
  unfold State.fwdReply
  split
  · exact h
  · extract_lets t
    have ht : Keeps s₀ t := h.onFleet
    exact ht.sendMsg

theorem Keeps.putReply (h : Keeps s₀ s) {q : QueueId} {notify : Bool} {r : List Byte} : Keeps s₀ (s.putReply q notify
    r) := by
  unfold State.putReply
  extract_lets t
  have ht : Keeps s₀ t := h.ringReply
  exact .ite ht.msixSend ht

theorem Keeps.flushHeld (h : Keeps s₀ s) {q : QueueId} : Keeps s₀ (s.flushHeld q) := by
  unfold State.flushHeld
  extract_lets l
  exact h.onQueue.foldl (fun _ _ ht => ht.putReply)

theorem Keeps.clearErr (h : Keeps s₀ s) {q : QueueId} {ends : Bool} : Keeps s₀ (s.clearErr q ends) := by
  unfold State.clearErr
  extract_lets x
  exact .ite h (.ite h.onQueue (.ite h.fresh_snd.onQueue.flushHeld (.ite h.fresh_snd.onQueue h.fresh_snd)))

theorem Keeps.giveReply (h : Keeps s₀ s) {q : QueueId} {notify : Bool} {r : List Byte} : Keeps s₀ (s.giveReply q
    notify r) := by
  unfold State.giveReply
  exact .ite h.onQueue h.putReply

theorem Keeps.reply (h : Keeps s₀ s) {q : QueueId} {p : Packet} {status result detail : Nat} : Keeps s₀ (s.reply q p
    status result detail) := by
  unfold State.reply
  extract_lets r
  split
  · exact h.history.fwdReply
  · exact .ite h.history.giveReply h

theorem Keeps.reserve (h : Keeps s₀ s) {q : QueueId} : Keeps s₀ (s.reserve q) := h.onQueue

theorem Keeps.refuse (h : Keeps s₀ s) {q : QueueId} {p : Packet} {status result detail : Nat} :
    Keeps s₀ (s.refuse q p status result detail) := by
  unfold State.refuse
  extract_lets r
  exact .ite h.reserve.reply h.history.onQueue

theorem Keeps.flushLate (h : Keeps s₀ s) {q : QueueId} : Keeps s₀ (s.flushLate q) :=
  h.foldl (fun _ _ ht => .ite ht.reserve.onQueue.giveReply ht)

theorem Keeps.reject (h : Keeps s₀ s) {q : QueueId} {p : Packet} {status detail : Nat} : Keeps s₀ (s.reject q p status
    detail) := by
  unfold State.reject
  exact h.logOcc.refuse

theorem Keeps.finish (h : Keeps s₀ s) {pid status result detail : Nat} : Keeps s₀ (s.finish pid status result detail)
    := by
  unfold State.finish
  split
  · exact h
  · exact h.onQ.reply

theorem Keeps.take (h : Keeps s₀ s) {q : QueueId} {p : Packet} : Keeps s₀ (s.take q p) := by
  unfold State.take
  extract_lets t t₁ t₂
  have ht : Keeps s₀ t := h.onQueue
  have ht₁ : Keeps s₀ t₁ := .ite ht.onPart ht
  have ht₂ : Keeps s₀ t₂ := ht₁.onPwr
  exact ht₂.onQ

theorem Keeps.onInflight (h : Keeps s₀ s) {pid : Nat} {f : Inflight → Inflight} : Keeps s₀ (s.onInflight pid f) :=
  h.onQ

theorem Keeps.dispatch (h : Keeps s₀ s) {q : QueueId} {op : Nat} {sel : Packet → Bool} {f : Packet → State → State}
    (hf : ∀ a t, Keeps s₀ t → Keeps s₀ (f a t)) : Keeps s₀ (s.dispatch q op sel f) := by
  unfold State.dispatch
  split
  · exact h
  · refine .ite h ?_
    split
    · exact h.take.finish
    · exact hf _ _ h.take

theorem Keeps.cancelQueue (h : Keeps s₀ s) {q : QueueId} : Keeps s₀ (s.cancelQueue q) := by
  unfold State.cancelQueue
  extract_lets l t
  have ht : Keeps s₀ t := h.foldl (fun _ _ ht => ht.refuse)
  exact ht.onQueue

theorem Keeps.leaveQueue (h : Keeps s₀ s) {q : QueueId} : Keeps s₀ (s.leaveQueue q) := h.onQ

theorem Keeps.cancelWhere (h : Keeps s₀ s) {qs : List QueueId} {sel : Packet → Bool} : Keeps s₀ (s.cancelWhere qs sel)
    := by
  unfold State.cancelWhere
  refine .foldl h ?_
  intro _ _ ht
  extract_lets l u
  have hu : Keeps s₀ u := ht.foldl (fun _ _ ht1 => ht1.refuse)
  exact hu.onQueue

/-! ### Operations of StoreOps -/

theorem Keeps.nvmStart (h : Keeps s₀ s) : Keeps s₀ s.nvmStart := by
  unfold State.nvmStart
  split
  · extract_lets j e w'
    exact h.onNvm
  · exact h

theorem Keeps.slotStart (h : Keeps s₀ s) : Keeps s₀ s.slotStart := by
  unfold State.slotStart
  split
  · exact h.onNvm
  · exact h

theorem Keeps.nvmTurn (h : Keeps s₀ s) : Keeps s₀ s.nvmTurn := .ite h.nvmStart h.slotStart

theorem Keeps.slotTurn (h : Keeps s₀ s) : Keeps s₀ s.slotTurn := by
  unfold State.slotTurn
  extract_lets t
  have ht : Keeps s₀ t := h.onNvm.nvmStart
  exact .ite ht ht.slotStart

theorem Keeps.slotQueue (h : Keeps s₀ s) {l : List SlotJob} : Keeps s₀ (s.slotQueue l) := by
  unfold State.slotQueue
  extract_lets t
  have ht : Keeps s₀ t := h.onNvm
  exact .ite ht ht.slotStart

theorem Keeps.askChunk (h : Keeps s₀ s) : Keeps s₀ s.askChunk := h.emit

theorem Keeps.askFirst (h : Keeps s₀ s) : Keeps s₀ s.askFirst := .ite h.askChunk h

theorem Keeps.nvmQueue (h : Keeps s₀ s) {w : NvmWrite} : Keeps s₀ (s.nvmQueue w) := h.onNvm.nvmStart

theorem Keeps.nvmHold (h : Keeps s₀ s) {w : NvmWrite} : Keeps s₀ (s.nvmHold w) := h.onNvm.onFence

theorem Keeps.persist (h : Keeps s₀ s) {r : Nat} {data : List Byte} : Keeps s₀ (s.persist r data) := by
  unfold State.persist
  extract_lets w
  exact .ite h.nvmHold h.onFence.nvmQueue

theorem Keeps.romSelect (h : Keeps s₀ s) {data : List Byte} : Keeps s₀ (s.romSelect data) :=
  .ite h.nvmHold h.onBoot.nvmQueue

theorem Keeps.nvmAccept (h : Keeps s₀ s) : Keeps s₀ s.nvmAccept := h.onNvm.foldl (fun _ _ ht => ht.nvmQueue)

theorem Keeps.mboxAnswer (h : Keeps s₀ s) {st : Nat} : Keeps s₀ (s.mboxAnswer st) := h.onBoot

theorem Keeps.nvmInterrupt (h : Keeps s₀ s) : Keeps s₀ s.nvmInterrupt := by
  unfold State.nvmInterrupt
  split
  · exact h
  · exact h.onNvm.logOcc

theorem Keeps.nvmLeave (h : Keeps s₀ s) {w : NvmWrite} : Keeps s₀ (s.nvmLeave w) := by
  unfold State.nvmLeave
  split
  · exact h.finish
  · exact h.mboxAnswer
  · exact h
  · exact h.nvmHold
  · exact h.onBoot.nvmHold

theorem Keeps.nvmPage (h : Keeps s₀ s) {w : NvmWrite} {j : Nat} {p : NvmPhase} {good : Bool} : Keeps s₀ (s.nvmPage w j
    p good) := by
  unfold State.nvmPage
  extract_lets old x
  split
  · exact h.onNvm
  · exact h.onNvm
  · exact h

theorem Keeps.nvmStop (h : Keeps s₀ s) : Keeps s₀ s.nvmStop := by
  unfold State.nvmStop
  split
  · exact h
  · exact .ite h.nvmInterrupt.nvmLeave h.onNvm

theorem Keeps.nvmRefuse (h : Keeps s₀ s) : Keeps s₀ s.nvmRefuse := by
  unfold State.nvmRefuse
  extract_lets ws t t₁
  have ht : Keeps s₀ t := h.onNvm.nvmStop
  have ht₁ : Keeps s₀ t₁ := ht.onNvm
  exact ht₁.foldl (fun _ _ ht1 => ht1.nvmLeave)

theorem Keeps.nvmReset (h : Keeps s₀ s) {good : Bool} : Keeps s₀ (s.nvmReset good) := by
  unfold State.nvmReset
  extract_lets t
  have ht : Keeps s₀ t := by
    unfold t
    split
    · exact h.nvmPage
    · exact h.onNvm
    · exact h
  exact ht.nvmInterrupt.onNvm

/-! ### Operations of PowerOps -/

theorem Keeps.pmbSend (h : Keeps s₀ s) {d : Nat} {c : PmbCmd} : Keeps s₀ (s.pmbSend d c) := h.emit

theorem Keeps.pmbAsk (h : Keeps s₀ s) {d : Nat} : Keeps s₀ (s.pmbAsk d) := by
  unfold State.pmbAsk
  extract_lets x t
  have ht : Keeps s₀ t := h.pmbSend
  exact .ite ht.pmbSend.pmbSend ht.pmbSend

theorem Keeps.askVolt (h : Keeps s₀ s) {d mv : Nat} : Keeps s₀ (s.askVolt d mv) := by
  unfold State.askVolt
  extract_lets x
  exact .ite h (.ite h h.onDie.pmbAsk)

theorem Keeps.retune (h : Keeps s₀ s) {d : Nat} : Keeps s₀ (s.retune d) := by
  unfold State.retune
  extract_lets x want c
  exact .ite h (.ite (.ite h h.onDie) (.ite h.onDie (.ite h.onDie.askVolt (.ite h.onDie (.ite h.onDie.askVolt (.ite
      h.onDie h.onDie))))))

theorem Keeps.retuneAll (h : Keeps s₀ s) : Keeps s₀ s.retuneAll := h.foldl (fun _ _ ht => ht.retune)

theorem Keeps.pllFollow (h : Keeps s₀ s) {d : Nat} : Keeps s₀ (s.pllFollow d) := by
  unfold State.pllFollow
  extract_lets x
  exact .ite (.ite h h.onDie.retune) (.ite h.onDie h)

theorem Keeps.setSlice (h : Keeps s₀ s) {n : Nat} {st : SliceSt} : Keeps s₀ (s.setSlice n st) := h.onSlice.pllFollow

theorem Keeps.wakeSlice (h : Keeps s₀ s) {n : Nat} : Keeps s₀ (s.wakeSlice n) := by
  unfold State.wakeSlice
  extract_lets x
  exact .ite h h.onSlice

theorem Keeps.prewake (h : Keeps s₀ s) {n : Nat} {pid : Option Nat} : Keeps s₀ (s.prewake n pid) := by
  unfold State.prewake
  extract_lets x
  exact .ite h (.ite h.onSlice (.ite h.onSlice h))

theorem Keeps.wake (h : Keeps s₀ s) {src rule : Nat} : Keeps s₀ (s.wake src rule) := by
  unfold State.wake
  dsimp only
  exact .ite h.onPwr.onPwr (.ite h.onPwr.onPwr (.ite h.onPwr h))

theorem Keeps.discarded (h : Keeps s₀ s) {off : Nat} : Keeps s₀ (s.discarded off) := .ite h h.onBoot.logOcc

theorem Keeps.hostWake (h : Keeps s₀ s) : Keeps s₀ s.hostWake := .ite h.wake h

/-! ### Operations of Sensors -/

theorem Keeps.sendEvent (h : Keeps s₀ s) : Keeps s₀ s.sendEvent := by
  unfold State.sendEvent
  split
  · exact .ite h.emit h
  · exact h

theorem Keeps.pldmEvent (h : Keeps s₀ s) {id v : Nat} : Keeps s₀ (s.pldmEvent id v) := by
  unfold State.pldmEvent
  refine .ite h.logOcc ?_
  extract_lets t
  have ht : Keeps s₀ t := h.onMgmt
  exact .ite ht.sendEvent ht

theorem Keeps.pldmWatch (h : Keeps s₀ s) : Keeps s₀ s.pldmWatch := by
  unfold State.pldmWatch
  split
  · exact h
  · refine .foldl h ?_
    intro _ _ ht
    split
    · exact ht
    · exact .ite ht ht.onMgmt.pldmEvent

theorem Keeps.endUpdate (h : Keeps s₀ s) : Keeps s₀ s.endUpdate := by
  unfold State.endUpdate
  refine .ite h ?_
  extract_lets mine t t₁
  have ht : Keeps s₀ t := h.onNvm
  have ht₁ : Keeps s₀ t₁ := by
    unfold t₁
    split
    · exact .ite ht (.ite ht.nvmInterrupt.nvmStart ht.onNvm)
    · exact ht
  exact ht₁.onMgmt.logOcc

theorem Keeps.tripUpdate (h : Keeps s₀ s) : Keeps s₀ s.tripUpdate := by
  unfold State.tripUpdate
  extract_lets t
  have ht : Keeps s₀ t := .ite h.emit h
  exact ht.endUpdate

/-! ### Operations of BootOps -/

theorem Keeps.halt (h : Keeps s₀ s) {stage code : Nat} {detail : Word} : Keeps s₀ (s.halt stage code detail) := by
  unfold State.halt
  extract_lets t
  have ht : Keeps s₀ t := h.onBoot
  exact ht.logOcc.raise

theorem Keeps.note (h : Keeps s₀ s) {code : Nat} {detail : Word} : Keeps s₀ (s.note code detail) := by
  unfold State.note
  extract_lets t
  have ht : Keeps s₀ t := h.onBoot
  exact ht.logOcc

theorem Keeps.reachReady (h : Keeps s₀ s) : Keeps s₀ s.reachReady := by
  unfold State.reachReady
  extract_lets t t₁ t₂
  have ht : Keeps s₀ t := h.onBoot
  have ht₁ : Keeps s₀ t₁ := ht.onPwr
  have ht₂ : Keeps s₀ t₂ := ht₁.onHost
  exact ht₂.raise.raise.pldmWatch

theorem Keeps.stage14 (h : Keeps s₀ s) : Keeps s₀ s.stage14 :=
  .ite h (.ite (.ite h.reachReady h) (.ite h.reachReady h))

theorem Keeps.enter14 (h : Keeps s₀ s) : Keeps s₀ s.enter14 := h.onBoot.stage14

theorem Keeps.stage13 (h : Keeps s₀ s) : Keeps s₀ s.stage13 := by
  unfold State.stage13
  extract_lets on down
  exact .ite (.enter14 (.ite h h.note)) h

theorem Keeps.stage13Over (h : Keeps s₀ s) : Keeps s₀ s.stage13Over :=
  (h.foldl (fun _ _ ht => ht.onPort.logOcc)).stage13

theorem Keeps.enter13 (h : Keeps s₀ s) : Keeps s₀ s.enter13 := (h.onBoot.foldl (fun _ _ ht => ht.startSeries)).stage13

theorem Keeps.after12 (h : Keeps s₀ s) : Keeps s₀ s.after12 := .ite h.reachReady h.enter13

theorem Keeps.enter7 (h : Keeps s₀ s) : Keeps s₀ s.enter7 :=
  .ite (.romSelect (.onBoot (.onPart (.ite h h.logOcc)))) (.ite (.romSelect (.onBoot (.onPart (.ite h h.logOcc))))
      (.onBoot (.onPart (.ite h h.logOcc))))

theorem Keeps.startPilot (h : Keeps s₀ s) {src : BitVec 2} {i : ImageInfo} : Keeps s₀ (s.startPilot src i) := h.onBoot

theorem Keeps.nextSource (h : Keeps s₀ s) : Keeps s₀ s.nextSource := by
  unfold State.nextSource
  extract_lets t
  have ht : Keeps s₀ t := h.onBoot
  exact .ite ht.halt ht

theorem Keeps.fleetInit (h : Keeps s₀ s) : Keeps s₀ s.fleetInit := by
  unfold State.fleetInit
  extract_lets d s₁ id sn id₁
  have hs₁ : Keeps s₀ s₁ := .ite h h.logOcc
  exact hs₁.onFleet

theorem Keeps.dropSlices (h : Keeps s₀ s) {l : List Nat} : Keeps s₀ (s.dropSlices l) :=
  h.foldl (fun _ _ ht => ht.onSlice.onBoot.logOcc)

theorem Keeps.clearFast (h : Keeps s₀ s) : Keeps s₀ s.clearFast := by
  unfold State.clearFast
  exact ⟨h.nvmReset.endUpdate.1, fun _ => (rfl : Tab.wf (α := Byte) 0 [] = true)⟩

theorem Keeps.clearHalted (h : Keeps s₀ s) : Keeps s₀ s.clearHalted := h.onBoot

theorem Keeps.warmReset (h : Keeps s₀ s) : Keeps s₀ s.warmReset := by
  unfold State.warmReset
  refine .ite h.clearHalted.onBoot.onHost ?_
  extract_lets set t t₁
  have ht : Keeps s₀ t := h.clearFast.onHost
  have ht₁ : Keeps s₀ t₁ := ht.onAo
  exact ht₁.onBoot.onPwr

theorem Keeps.pfFlr (h : Keeps s₀ s) {inner : Bool} : Keeps s₀ (s.pfFlr inner) := by
  unfold State.pfFlr
  refine .ite h ?_
  refine .ite h.clearHalted.onHost ?_
  extract_lets set t t₁ t₂
  have ht : Keeps s₀ t := h.clearFast.onHost
  have ht₁ : Keeps s₀ t₁ := ht.onBoot
  have ht₂ : Keeps s₀ t₂ := .ite ht₁.enter7 ht₁
  exact .ite ht₂.msixSend ht₂

theorem Keeps.coldReset (h : Keeps s₀ s) : Keeps s₀ s.coldReset := by
  unfold State.coldReset
  exact ⟨h.1, fun _ => (rfl : Tab.wf (α := Byte) 0 [] = true)⟩

/-! ### Operations of GangOps -/

theorem Keeps.onGang (h : Keeps s₀ s) {g : Nat} {f : Gang → Gang} : Keeps s₀ (s.onGang g f) := h.onCore

theorem Keeps.onBlk (h : Keeps s₀ s) {b : Nat} {f : Block → Block} : Keeps s₀ (s.onBlk b f) := h.onCore

theorem Keeps.onCoreAt (h : Keeps s₀ s) {c : Nat} {f : Core → Core} : Keeps s₀ (s.onCoreAt c f) := h.onCore

theorem Keeps.onLaunch (h : Keeps s₀ s) {l : Nat} {f : Launch → Launch} : Keeps s₀ (s.onLaunch l f) := h.onWork

theorem Keeps.onCtx (h : Keeps s₀ s) {c : Nat} {f : Ctx → Ctx} : Keeps s₀ (s.onCtx c f) := h.onObj

theorem Keeps.kill (h : Keeps s₀ s) {c code g : Nat} {l : Option Nat} : Keeps s₀ (s.kill c code g l) := by
  unfold State.kill
  extract_lets x
  exact .ite h.onCtx (.ite h.onCtx h)

theorem Keeps.logFault (h : Keeps s₀ s) {g n code : Nat} {addr : DWord} {lanes : Word} : Keeps s₀ (s.logFault g n code
    addr lanes) := by
  unfold State.logFault
  extract_lets l
  exact h.fresh_snd.logOcc

theorem Keeps.gangFault (h : Keeps s₀ s) {g code : Nat} {addr : DWord} : Keeps s₀ (s.gangFault g code addr) := by
  unfold State.gangFault
  extract_lets x n
  exact h.logFault.kill.onGang

theorem Keeps.packetFault (h : Keeps s₀ s) {pid code : Nat} {addr : DWord} : Keeps s₀ (s.packetFault pid code addr) :=
    by
  unfold State.packetFault
  split
  · exact h
  · extract_lets t t₁
    have ht : Keeps s₀ t := h.logOcc
    have ht₁ : Keeps s₀ t₁ := by
      unfold t₁
      split
      · exact ht.kill
      · exact ht
    exact ht₁.finish

theorem Keeps.nearDrop (h : Keeps s₀ s) {core c : Nat} : Keeps s₀ (s.nearDrop core c) := h.onMemRest

theorem Keeps.acquire (h : Keeps s₀ s) {g : Nat} : Keeps s₀ (s.acquire g) := h.nearDrop

theorem Keeps.loseStatus (h : Keeps s₀ s) {g : Nat} : Keeps s₀ (s.loseStatus g) := h.onLaunch

theorem Keeps.issue (h : Keeps s₀ s) {g : Nat} {f : State → State} (hf : ∀ t, Keeps s₀ t → Keeps s₀ (f t)) : Keeps s₀
    (s.issue g f) := by
  unfold State.issue
  refine .ite ?_ h
  extract_lets t
  have ht : Keeps s₀ t := h.onGang
  exact hf _ ht.onBlk

/-! ### Operations of SyncOps -/

theorem Keeps.onTally (h : Keeps s₀ s) {i : Nat} {f : Tally → Tally} : Keeps s₀ (s.onTally i f) := h.onSync

theorem Keeps.onSem (h : Keeps s₀ s) {i : Nat} {f : Sem → Sem} : Keeps s₀ (s.onSem i f) := h.onSync

theorem Keeps.notePeak (h : Keeps s₀ s) {sl : Nat} : Keeps s₀ (s.notePeak sl) := h.onSync

theorem Keeps.syncFinish (h : Keeps s₀ s) {pid : Nat} {r : SyncRes} {v : Nat} : Keeps s₀ (s.syncFinish pid r v) := by
  unfold State.syncFinish
  extract_lets detail t
  have ht : Keeps s₀ t := h.onInflight
  exact .ite (.ite ht.wake ht) h.finish

theorem Keeps.syncGang (h : Keeps s₀ s) {g : Nat} {tally : Bool} {u p : Nat} {r : SyncRes} {v : DWord} : Keeps s₀
    (s.syncGang g tally u p r v) := by
  unfold State.syncGang
  extract_lets t
  have ht : Keeps s₀ t := h.onGang
  exact .ite ht.gangFault (.ite ht.onGang ht.onGang)

theorem Keeps.gotIt (h : Keeps s₀ s) {g : Nat} {tally owned : Bool} {r : SyncRes} : Keeps s₀ (s.gotIt g tally owned r)
    := by
  unfold State.gotIt
  exact .ite (.acquire (.ite h h.loseStatus)) h

theorem Keeps.endWaiter (h : Keeps s₀ s) {tally : Bool} {w : WaitRec} {r : SyncRes} {v : DWord} : Keeps s₀
    (s.endWaiter tally w r v) := by
  unfold State.endWaiter
  split
  · exact h.gotIt.syncGang
  · exact h.syncFinish

theorem Keeps.serveTally (h : Keeps s₀ s) {i : Nat} : Keeps s₀ (s.serveTally i) := by
  unfold State.serveTally
  extract_lets t go s₁
  have hs₁ : Keeps s₀ s₁ := h.onTally
  exact hs₁.foldl (fun _ _ ht => ht.endWaiter)

theorem Keeps.serveSemN (h : Keeps s₀ s) {i k : Nat} : Keeps s₀ (State.serveSemN i k s) := by
  induction k generalizing s with
  | zero => exact h
  | succ k ih =>
    unfold State.serveSemN
    dsimp only
    split
    · exact h
    · split
      · exact ih h.onSem.endWaiter
      · exact h

theorem Keeps.serveSem (h : Keeps s₀ s) {i : Nat} : Keeps s₀ (s.serveSem i) := h.serveSemN

theorem Keeps.syncLog (h : Keeps s₀ s) {event sev : Nat} {part : Option Nat} {obj : Nat} {tag : Word} : Keeps s₀
    (s.syncLog event sev part obj tag) := by
  unfold State.syncLog
  exact h.logOcc

theorem Keeps.mirrorLog (h : Keeps s₀ s) {op : SyncOp} : Keeps s₀ (s.mirrorLog op) := by
  unfold State.mirrorLog
  split
  · exact h
  · exact h.syncLog

theorem Keeps.markBad (h : Keeps s₀ s) {obj : Nat} {tag : Word} : Keeps s₀ (s.markBad obj tag) := by
  unfold State.markBad
  extract_lets i part s₁ t t₁
  have hs₁ : Keeps s₀ s₁ := h.syncLog.alert
  exact .ite (hs₁.onTally.foldl (fun _ _ ht => ht.endWaiter)) (hs₁.onSem.foldl (fun _ _ ht => ht.endWaiter))

theorem Keeps.answer (h : Keeps s₀ s) {op : SyncOp} {r : SyncRes} {v : DWord} : Keeps s₀ (s.answer op r v) := by
  unfold State.answer
  split
  · exact h.syncGang
  · exact h.syncFinish
  · exact h.sendAck
  · exact h

theorem Keeps.acquired (h : Keeps s₀ s) {op : SyncOp} {r : SyncRes} : Keeps s₀ (s.acquired op r) := by
  unfold State.acquired
  split
  · exact h.gotIt
  · exact h

theorem Keeps.park (h : Keeps s₀ s) {op : SyncOp} : Keeps s₀ (s.park op) := by
  unfold State.park
  split
  · exact h
  · extract_lets i t t₁
    have ht : Keeps s₀ t := .ite h.onTally h.onSem
    have ht₁ : Keeps s₀ t₁ := ht.notePeak
    split
    · exact ht₁.onGang
    · exact ht₁

theorem Keeps.expireTally (h : Keeps s₀ s) {i : Nat} : Keeps s₀ (s.expireTally i) := by
  unfold State.expireTally
  extract_lets t late s₁
  have hs₁ : Keeps s₀ s₁ := h.onTally
  exact hs₁.foldl (fun _ _ ht => ht.endWaiter)

theorem Keeps.applyTally (h : Keeps s₀ s) {op : SyncOp} : Keeps s₀ (s.applyTally op) := by
  unfold State.applyTally
  extract_lets i t v
  split
  · exact .ite h.mirrorLog.answer (.ite h.syncLog.answer h.expireTally.onTally.answer.serveTally)
  · exact .ite h.acquired.answer (.ite h.park h.answer)
  · exact h.answer

theorem Keeps.answerSemRead (h : Keeps s₀ s) {op : SyncOp} {t : Sem} : Keeps s₀ (s.answerSemRead op t) := by
  unfold State.answerSemRead
  split
  · exact h.onGang
  · exact h

theorem Keeps.applyPost (h : Keeps s₀ s) {op : SyncOp} {n : Nat} : Keeps s₀ (s.applyPost op n) := by
  unfold State.applyPost
  extract_lets i t v
  exact .ite h.syncLog.answer h.onSem.answer.serveSem

theorem Keeps.applySem (h : Keeps s₀ s) {op : SyncOp} : Keeps s₀ (s.applySem op) := by
  unfold State.applySem
  dsimp only
  split
  · exact h.applyPost
  · split
    · exact h
    · split
      · exact h.answer
      · exact .ite h.applyPost h.onSem.applyPost
  · exact h.answerSemRead
  · exact .ite h.answer (.ite h.answer h.onSem.notePeak.acquired.answer)
  · exact .ite (.ite h.answer h.onSem.notePeak.acquired.answer) (.ite h.park h.answer)
  · exact h

theorem Keeps.applyOp (h : Keeps s₀ s) {op : SyncOp} : Keeps s₀ (s.applyOp op) := by
  unfold State.applyOp
  extract_lets i s₁ t t₁
  have hs₁ : Keeps s₀ s₁ := h.onSync
  exact .ite (.ite hs₁.applyTally (.answer (.ite hs₁ hs₁.markBad))) (.ite hs₁.applySem (.answer (.ite hs₁ hs₁.markBad)))

theorem Keeps.submit (h : Keeps s₀ s) {op : SyncOp} : Keeps s₀ (s.submit op) := by
  unfold State.submit
  refine .ite ?_ h.applyOp
  extract_lets t
  have ht : Keeps s₀ t := h.onSync
  split
  · exact ht.onGang
  · exact ht

theorem Keeps.abandonAt (h : Keeps s₀ s) {i g : Nat} : Keeps s₀ (s.abandonAt i g) := by
  unfold State.abandonAt
  extract_lets t drop
  split
  · exact h
  · extract_lets sum s₁
    have hs₁ : Keeps s₀ s₁ := .ite h.syncLog h
    exact .ite h.onSem hs₁.onSem.serveSem

theorem Keeps.abandon (h : Keeps s₀ s) {g : Nat} : Keeps s₀ (s.abandon g) := h.foldl (fun _ _ ht => ht.abandonAt)

theorem Keeps.dropWaiters (h : Keeps s₀ s) {g : Nat} : Keeps s₀ (s.dropWaiters g) := by
  unfold State.dropWaiters
  extract_lets keep t
  have ht : Keeps s₀ t := h.onSync
  exact ht.foldl (fun _ _ ht1 => ht1.serveSem)

theorem Keeps.dropPacketWaiter (h : Keeps s₀ s) {pid : Nat} : Keeps s₀ (s.dropPacketWaiter pid) := by
  unfold State.dropPacketWaiter
  extract_lets keep t
  have ht : Keeps s₀ t := h.onSync
  exact ht.foldl (fun _ _ ht1 => ht1.serveSem)

theorem Keeps.zeroSync (h : Keeps s₀ s) {sl : Nat} : Keeps s₀ (s.zeroSync sl) := h.onSync

theorem Keeps.ruleAdd (h : Keeps s₀ s) {counter : Nat} : Keeps s₀ (s.ruleAdd counter) := h.applyOp

/-! ### Operations of TwOps -/

theorem Keeps.pushSample (h : Keeps s₀ s) {r : Nat} : Keeps s₀ (s.pushSample r) := h.onTw

theorem Keeps.chPair (h : Keeps s₀ s) {ch : Nat} : Keeps s₀ (s.chPair ch) := .ite h (.ite h h.mismatch.onTw)

theorem Keeps.validOut (h : Keeps s₀ s) {ch seq sub : Nat} {v : BitVec 16} : Keeps s₀ (s.validOut ch seq sub v) := by
  unfold State.validOut
  extract_lets s₁
  have hs₁ : Keeps s₀ s₁ := h.chPair
  exact hs₁.onTw

theorem Keeps.railLost (h : Keeps s₀ s) {ch seq v : Nat} : Keeps s₀ (s.railLost ch seq v) := by
  unfold State.railLost
  extract_lets railScan
  split
  · exact .ite h.halt h
  · exact h

theorem Keeps.deliver (h : Keeps s₀ s) {q sub : Nat} {w : Word} {v : BitVec 16} {valid : Bool} {settle : Nat} {last :
    Bool} : Keeps s₀ (s.deliver q sub w v valid settle last) := by
  unfold State.deliver
  extract_lets ch sub₁ ok t x rec_
  have ht : Keeps s₀ t := .ite h.validOut.railLost h
  exact .ite ht.pushSample ht

theorem Keeps.trigSeq_snd (h : Keeps s₀ s) {q : Nat} : Keeps s₀ (s.trigSeq q).2 := by
  unfold State.trigSeq
  extract_lets n run
  split
  · exact h
  · exact h.onTw

theorem Keeps.trigRule_snd (h : Keeps s₀ s) {n : Nat} : Keeps s₀ (s.trigRule n).2 := by
  unfold State.trigRule
  extract_lets r
  split
  · exact h
  · exact h.onTw

theorem Keeps.trigAll_snd (h : Keeps s₀ s) {rules seqs : List Nat} : Keeps s₀ (s.trigAll rules seqs).2.2 := by
  unfold State.trigAll
  exact .foldl_snd (.foldl_snd h fun x n hx => hx.trigRule_snd) fun x q hx => hx.trigSeq_snd

theorem Keeps.closeStream (h : Keeps s₀ s) {c a : Nat} : Keeps s₀ (s.closeStream c a) := h.onCtx

theorem Keeps.dropWork (h : Keeps s₀ s) {pid : Nat} : Keeps s₀ (s.dropWork pid) := by
  unfold State.dropWork
  extract_lets t t₁ t₂ mine
  have ht : Keeps s₀ t := by
    unfold t
    split
    · exact .ite h.closeStream h
    · exact h
  have ht₁ : Keeps s₀ t₁ := ht.onCore
  have ht₂ : Keeps s₀ t₂ := ht₁.onWork
  exact ht₂.onCim

theorem Keeps.stopWork (h : Keeps s₀ s) {pid st : Nat} : Keeps s₀ (s.stopWork pid st) := by
  unfold State.stopWork
  extract_lets n
  exact h.dropWork.finish

theorem Keeps.ownOrder (h : Keeps s₀ s) {source outcome : Nat} : Keeps s₀ (s.ownOrder source outcome) := by
  unfold State.ownOrder
  extract_lets waits
  exact h.onQ

theorem Keeps.tripBoot (h : Keeps s₀ s) {die : Nat} : Keeps s₀ (s.tripBoot die) := .ite h.halt h

theorem Keeps.stopMvm (h : Keeps s₀ s) : Keeps s₀ s.stopMvm := by
  unfold State.stopMvm
  extract_lets again
  exact h.onCim

theorem Keeps.trip (h : Keeps s₀ s) {die : Nat} : Keeps s₀ (s.trip die) := by
  unfold State.trip
  refine .ite h.tripBoot ?_
  extract_lets t t₁ t₂ l
  have ht : Keeps s₀ t := h.ownOrder.onTw.alert
  have ht₁ : Keeps s₀ t₁ := ht.logOcc.nvmRefuse.tripUpdate
  have ht₂ : Keeps s₀ t₂ := ht₁.onPwr
  exact (ht₂.foldl (fun _ _ ht1 => ht1.stopWork)).stopMvm.tripBoot

theorem Keeps.pwrCut (h : Keeps s₀ s) {die : Nat} : Keeps s₀ (s.pwrCut die) := by
  unfold State.pwrCut
  extract_lets t
  have ht : Keeps s₀ t := h.ownOrder.onAo
  exact .ite ht ht.trip

theorem Keeps.calRequest (h : Keeps s₀ s) {dies : BitVec 8} : Keeps s₀ (s.calRequest dies) := h.onCim

theorem Keeps.fire (h : Keeps s₀ s) {n : Nat} : Keeps s₀ (s.fire n) := by
  unfold State.fire
  extract_lets r w a has target value t₀ t₁ t₂ t₃ t₄ t₅ t₆ t₇ t₈ t₉
  have h₁ : Keeps s₀ t₁ := .ite h.onTw.logOcc h.onTw
  have h₂ : Keeps s₀ t₂ := .ite h₁.onTw.raise h₁
  have h₃ : Keeps s₀ t₃ := .ite h₂.alert h₂
  have h₄ : Keeps s₀ t₄ := .ite (.ite h₃.logOcc h₃.ruleAdd) h₃
  have h₅ : Keeps s₀ t₅ := .ite h₄.onTw.retuneAll h₄
  have h₆ : Keeps s₀ t₆ := .ite h₅.calRequest h₅
  have h₇ : Keeps s₀ t₇ := .ite h₆.trip h₆
  have h₈ : Keeps s₀ t₈ := .ite h₇.pwrCut h₇
  exact .ite (.ite h₈.ownOrder.wake.prewake h₈.ownOrder.wake) h₈

theorem Keeps.shiftTime (h : Keeps s₀ s) {d : Int} : Keeps s₀ (s.shiftTime d) := by
  unfold State.shiftTime
  extract_lets f
  exact h.onTw

theorem Keeps.setTime (h : Keeps s₀ s) {at_ goal : Nat} : Keeps s₀ (s.setTime at_ goal) := by
  unfold State.setTime
  extract_lets d t
  have ht : Keeps s₀ t := h.shiftTime.onTime
  exact ht.logOcc

theorem Keeps.loadSet (h : Keeps s₀ s) : Keeps s₀ s.loadSet := by
  unfold State.loadSet
  extract_lets t
  have ht : Keeps s₀ t := h.setTime
  exact ht.onTime

/-! ### Operations of Boot -/

theorem Answers.vddAoPorRelease (h : Keeps s₀ s) : Answers s₀ (execVddAoPorRelease s) :=
  .next (.ite h h.onAo.onBoot.onTime)

theorem Answers.vddAoDrop (h : Keeps s₀ s) : Answers s₀ (execVddAoDrop s) := .next h.coldReset

theorem Keeps.haltEarly (h : Keeps s₀ s) {stage code : Nat} {detail : Word} : Keeps s₀ (s.haltEarly stage code detail)
    := by
  unfold State.haltEarly
  exact h.halt.onAo

theorem Answers.twRomCheckDone (h : Keeps s₀ s) {pass : Bool} : Answers s₀ (execTwRomCheckDone pass s) :=
  .next (.ite (.ite h.onAo.onTw.onBoot (.ite h.onAo h.onAo.haltEarly)) h)

theorem Keeps.after4 (h : Keeps s₀ s) : Keeps s₀ s.after4 := by
  unfold State.after4
  extract_lets t
  have ht : Keeps s₀ t := h.onBoot
  exact ht.onAo

theorem Answers.roleSelSample (h : Keeps s₀ s) {v : BitVec 2} : Answers s₀ (execRoleSelSample v s) := by
  unfold execRoleSelSample
  refine .next ?_
  refine .ite ?_ h
  extract_lets l t t₁
  have ht : Keeps s₀ t := h.onAo
  have ht₁ : Keeps s₀ t₁ := h.onAo
  exact .ite h.onAo (.ite (.ite ht.haltEarly ht.after4) (.ite ht₁.haltEarly ht₁))

theorem Keeps.after5 (h : Keeps s₀ s) : Keeps s₀ s.after5 := by
  unfold State.after5
  extract_lets t
  have ht : Keeps s₀ t := h.onBoot
  exact .ite ht.enter7 ht

theorem Answers.stage5RailPass (h : Keeps s₀ s) {means : List (BitVec 16)} : Answers s₀ (execStage5RailPass means s)
    := by
  unfold execStage5RailPass
  refine .next ?_
  refine .ite ?_ h
  split
  · exact h.after5
  · exact h.onBoot

theorem Keeps.noSlice (h : Keeps s₀ s) {stage : Nat} {next : State → State} (hnext : ∀ t, Keeps s₀ t → Keeps s₀ (next
    t)) : Keeps s₀ (s.noSlice stage next) := by
  unfold State.noSlice
  exact .ite h.halt (hnext _ h)

theorem Keeps.enter11 (h : Keeps s₀ s) : Keeps s₀ s.enter11 := h.onBoot.onPwr.calRequest.pldmWatch

theorem Keeps.dropEmpty (h : Keeps s₀ s) : Keeps s₀ s.dropEmpty := h.dropSlices

theorem Keeps.hbmOutcome (h : Keeps s₀ s) {failed : BitVec 8} : Keeps s₀ (s.hbmOutcome failed) := by
  unfold State.hbmOutcome
  extract_lets bad
  exact .ite h h.note.dropSlices

theorem Keeps.hbmDone (h : Keeps s₀ s) {failed : BitVec 8} : Keeps s₀ (s.hbmDone failed) :=
  h.hbmOutcome.noSlice (fun _ ht => ht.onBoot)

theorem Keeps.sourceLate (h : Keeps s₀ s) {stage : Nat} : Keeps s₀ (s.sourceLate stage) := by
  unfold State.sourceLate
  refine .ite ?_ h.note.nextSource
  split
  · exact h
  · exact h.note.nextSource

theorem Keeps.stage10Late (h : Keeps s₀ s) {mask : BitVec 8} : Keeps s₀ (s.stage10Late mask) := by
  unfold State.stage10Late
  split
  · exact h.halt
  · refine .ite h.halt ?_
    extract_lets t
    have ht : Keeps s₀ t := h.onBoot
    exact ht.note.dropSlices.dropEmpty.noSlice (fun _ ht1 => ht1.enter11)

theorem Answers.bootStageTimeout (h : Keeps s₀ s) {mask : Word} : Answers s₀ (execBootStageTimeout mask s) := by
  unfold execBootStageTimeout
  refine .next ?_
  refine .ite h ?_
  split
  · exact h.haltEarly
  · exact h.haltEarly
  · exact .ite h.halt h
  · exact h.sourceLate
  · exact h.sourceLate
  · exact h.halt
  · exact h.stage10Late
  · exact h.hbmDone
  · exact h.note.after12
  · exact h.stage13Over
  · exact .ite h.note.reachReady h.note.onFleet.reachReady
  · exact h

theorem Answers.perstNAssert (h : Keeps s₀ s) {ns : Nat} {accept : Bool} : Answers s₀ (execPerstNAssert ns accept s)
    := by
  unfold execPerstNAssert
  exact .next (.ite h h.onAo.warmReset)

theorem Answers.perstNRelease (h : Keeps s₀ s) {sel : BitVec 2} : Answers s₀ (execPerstNRelease sel s) := by
  unfold execPerstNRelease
  refine .next ?_
  extract_lets t
  have ht : Keeps s₀ t := h.onAo
  exact .ite ht.onAo.onBoot ht

theorem Answers.hostLinkReset (h : Keeps s₀ s) : Answers s₀ (execHostLinkReset s) := .next (.ite h.warmReset h)

theorem Answers.pfFlr (h : Keeps s₀ s) : Answers s₀ (execPfFlr s) := .next h.pfFlr

theorem Answers.pilotWatchdogExpiry (h : Keeps s₀ s) : Answers s₀ (execPilotWatchdogExpiry s) :=
  .next (.ite h.logOcc.pfFlr h)

theorem Answers.hubPllLock (h : Keeps s₀ s) : Answers s₀ (execHubPllLock s) := by
  unfold execHubPllLock
  refine .next ?_
  refine .ite ?_ h
  extract_lets t
  have ht : Keeps s₀ t := h.onBoot.onAo
  exact .ite ht.enter7 ht

theorem Answers.hubPllLockTimeout (h : Keeps s₀ s) : Answers s₀ (execHubPllLockTimeout s) := .next (.ite h.halt h)

theorem Answers.imageVerifyDone (h : Keeps s₀ s) {img : ImageInfo} : Answers s₀ (execImageVerifyDone img s) := by
  unfold execImageVerifyDone
  refine .next ?_
  split
  · extract_lets s₁
    have hs₁ : Keeps s₀ s₁ := .ite h.onAo h
    split
    · exact hs₁.startPilot
    · exact hs₁.note.nextSource
  · exact h

theorem Answers.pilotCheckIn (h : Keeps s₀ s) : Answers s₀ (execPilotCheckIn s) := .next (.ite h.onBoot.fleetInit h)

theorem Answers.pilotStartTimeout (h : Keeps s₀ s) : Answers s₀ (execPilotStartTimeout s) :=
  .next (.ite h.sourceLate h)

theorem Keeps.applyFence (h : Keeps s₀ s) {d : List Byte} : Keeps s₀ (s.applyFence d) := by
  unfold State.applyFence
  extract_lets bad t t₁ t₂
  have ht : Keeps s₀ t := h.onCore
  have ht₁ : Keeps s₀ t₁ := ht.onMemRest
  have ht₂ : Keeps s₀ t₂ := ht₁.onFence
  exact .ite ht₂.logOcc ht₂

theorem Answers.fenceMapLoad (h : Keeps s₀ s) : Answers s₀ (execFenceMapLoad s) := by
  unfold execFenceMapLoad
  refine .next ?_
  refine .ite ?_ h
  split
  · exact h.logOcc.halt
  · extract_lets t t₁
    have ht : Keeps s₀ t := h.applyFence
    have ht₁ : Keeps s₀ t₁ := .ite ht ht.logOcc
    exact ht₁.onMemRest.onBoot

theorem Keeps.bistCore (h : Keeps s₀ s) {c : Nat} : Keeps s₀ (s.bistCore c) := h.onCore.logOcc

theorem Keeps.bistOutcome (h : Keeps s₀ s) {pllFail : BitVec 8} {badCores : List Nat} {badUncore : BitVec 8} : Keeps
    s₀ (s.bistOutcome pllFail badCores badUncore) := by
  unfold State.bistOutcome
  extract_lets t new t₁ t₂
  have ht : Keeps s₀ t := .ite h h.note.dropSlices
  have ht₁ : Keeps s₀ t₁ := .ite ht (ht.foldl (fun _ _ ht1 => ht1.bistCore)).note.persist
  have ht₂ : Keeps s₀ t₂ := .ite ht₁ ht₁.note.dropSlices
  exact ht₂.dropEmpty

theorem Answers.bistComplete (h : Keeps s₀ s) {pllFail : BitVec 8} {badCores : List Nat} {badUncore : BitVec 8} :
    Answers s₀ (execBistComplete pllFail badCores badUncore s) := by
  unfold execBistComplete
  exact .next (.ite (h.onBoot.bistOutcome.noSlice (fun _ ht => ht.enter11)) h)

theorem Answers.hbmTrainComplete (h : Keeps s₀ s) {failed : BitVec 8} : Answers s₀ (execHbmTrainComplete failed s) :=
    by
  unfold execHbmTrainComplete
  exact .next (.ite h.hbmDone h)

theorem Answers.hostLinkTrained (h : Keeps s₀ s) {width rate : Nat} {flit256 : Bool} : Answers s₀ (execHostLinkTrained
    width rate flit256 s) := by
  unfold execHostLinkTrained
  refine .next ?_
  refine .ite ?_ h
  extract_lets t
  have ht : Keeps s₀ t := h.onHost.onBoot
  exact .ite ht.onHost ht

theorem Answers.hostLinkStageDone (h : Keeps s₀ s) : Answers s₀ (execHostLinkStageDone s) := by
  unfold execHostLinkStageDone
  refine .next ?_
  refine .ite ?_ h
  extract_lets t h₁ t₁
  have ht : Keeps s₀ t := h.onHost
  have ht₁ : Keeps s₀ t₁ := .ite ht.logOcc.note ht
  exact ht₁.after12

theorem Answers.fleetHailQuiet (h : Keeps s₀ s) : Answers s₀ (execFleetHailQuiet s) := .next (.ite h.reachReady h)

theorem Keeps.mbox (h : Keeps s₀ s) {cmd : Nat} {compl : Byte} {f : State → State} (hf : ∀ t, Keeps s₀ t → Keeps s₀ (f
    t)) : Keeps s₀ (s.mbox cmd compl f) := by
  unfold State.mbox
  refine .ite h ?_
  extract_lets s₁ t
  have hs₁ : Keeps s₀ s₁ := h.hostWake
  have ht : Keeps s₀ t := hs₁.onBoot
  exact .ite hs₁.onBoot (.ite ht.onBoot.mismatch (hf _ ht))

theorem Answers.mboxNop (h : Keeps s₀ s) {compl : Byte} : Answers s₀ (execMboxNop compl s) :=
  .next (h.mbox (fun _ ht => ht.mboxAnswer))

theorem Answers.mboxLoadImage (h : Keeps s₀ s) {compl : Byte} {img : ImageInfo} : Answers s₀ (execMboxLoadImage compl
    img s) := by
  unfold execMboxLoadImage
  refine .next ?_
  refine .mbox h ?_
  intro _ ht
  refine .ite ht.mboxAnswer ?_
  refine .ite ht.mboxAnswer ?_
  split
  · exact ht.onBoot.startPilot.mboxAnswer
  · exact ht.onBoot.logOcc.mboxAnswer

theorem Answers.mboxReboot (h : Keeps s₀ s) {compl : Byte} : Answers s₀ (execMboxReboot compl s) :=
  .next (h.mbox (fun _ ht => .ite ht.mboxAnswer (.ite ht.mboxAnswer ht.pfFlr)))

theorem Answers.mboxConfirm (h : Keeps s₀ s) {compl : Byte} : Answers s₀ (execMboxConfirm compl s) :=
  .next (h.mbox (fun _ ht => .ite ht.mboxAnswer (.ite ht.onBoot.nvmQueue ht.mboxAnswer)))

theorem Answers.sysRefclkStop (h : Keeps s₀ s) : Answers s₀ (execSysRefclkStop s) := by
  unfold execSysRefclkStop
  refine .next ?_
  extract_lets t
  have ht : Keeps s₀ t := h.onAo
  exact .ite ht ht.onBoot.onPwr

/-! ### Operations of CoreOps -/

theorem Keeps.placeGang (h : Keeps s₀ s) {l : Launch} {key csize i : Nat} : Keeps s₀ (s.placeGang l key csize i) := by
  unfold State.placeGang
  extract_lets b g
  exact h.onCore.onBlk

theorem Keeps.placeBlock (h : Keeps s₀ s) {n idx core : Nat} : Keeps s₀ (s.placeBlock n idx core) := by
  unfold State.placeBlock
  extract_lets l key k b t t₁ t₂
  have ht : Keeps s₀ t := h.onCore
  have ht₁ : Keeps s₀ t₁ := ht.foldl (fun _ _ ht1 => ht1.placeGang)
  have ht₂ : Keeps s₀ t₂ := ht₁.onCoreAt
  exact ht₂.onSlice

theorem Keeps.placeCluster (h : Keeps s₀ s) {n k : Nat} {cores : List Nat} : Keeps s₀ (s.placeCluster n k cores) :=
  h.foldl (fun _ _ ht => ht.placeBlock)

theorem Keeps.dropCaches (h : Keeps s₀ s) {c : Nat} : Keeps s₀ (s.dropCaches c) := h.onMemRest

theorem Keeps.removeGang (h : Keeps s₀ s) {g : Nat} : Keeps s₀ (s.removeGang g) := by
  unfold State.removeGang
  extract_lets t t₁ t₂ t₃
  have ht : Keeps s₀ t := h.dropWaiters.abandon
  have ht₁ : Keeps s₀ t₁ := ht.onCim
  have ht₂ : Keeps s₀ t₂ := ht₁.onCoreAt
  have ht₃ : Keeps s₀ t₃ := ht₂.onMemRest
  exact ht₃.onCore

theorem Keeps.removeBlock (h : Keeps s₀ s) {key : Nat} : Keeps s₀ (s.removeBlock key) := by
  unfold State.removeBlock
  extract_lets b t t₁
  have ht : Keeps s₀ t := h.foldl (fun _ _ ht => .ite ht.removeGang ht)
  have ht₁ : Keeps s₀ t₁ := ht.onCoreAt
  exact ht₁.onCore

theorem Keeps.freeCluster (h : Keeps s₀ s) {n k : Nat} : Keeps s₀ (s.freeCluster n k) := by
  unfold State.freeCluster
  extract_lets mine
  refine .ite ?_ h
  refine .foldl h ?_
  intro _ _ ht
  extract_lets t₁ t₂
  have ht₁ : Keeps s₀ t₁ := ht.foldl (fun _ _ ht1 => ht1.onCore)
  have ht₂ : Keeps s₀ t₂ := ht₁.onCoreAt
  exact .ite ht₂.onCore ht₂.onBlk

theorem Keeps.closeAmax (h : Keeps s₀ s) {l : Launch} : Keeps s₀ (s.closeAmax l) :=
  h.foldl (fun _ _ ht => ht.closeStream)

theorem Keeps.endLaunch (h : Keeps s₀ s) {n st result detail : Nat} : Keeps s₀ (s.endLaunch n st result detail) := by
  unfold State.endLaunch
  extract_lets l t
  have ht : Keeps s₀ t := h.closeAmax.onWork
  exact ht.finish

theorem Keeps.stopContext (h : Keeps s₀ s) {c : Nat} : Keeps s₀ (s.stopContext c) := by
  unfold State.stopContext
  extract_lets x ls s₁ s₂ s₃ ps s₄ s₅
  have hs₁ : Keeps s₀ s₁ := h.foldl (fun _ _ ht => ht.foldl (fun _ _ ht1 => ht1.removeBlock))
  have hs₂ : Keeps s₀ s₂ := hs₁.onCore
  have hs₃ : Keeps s₀ s₃ := by
    unfold s₃
    refine .foldl hs₂ ?_
    intro _ _ ht
    extract_lets d
    exact ht.endLaunch
  have hs₄ : Keeps s₀ s₄ := hs₃.foldl (fun _ _ ht => ht.dropWork.dropPacketWaiter.finish)
  have hs₅ : Keeps s₀ s₅ := hs₄.onMemRest
  exact hs₅.onCtx

theorem Keeps.replaceBlock (h : Keeps s₀ s) {key : Nat} : Keeps s₀ (s.replaceBlock key) := by
  unfold State.replaceBlock
  extract_lets b l peers sl gone
  exact .ite (h.foldl (fun _ _ ht => ht.removeBlock)).onLaunch h.removeBlock.onLaunch

theorem Keeps.rerunCluster (h : Keeps s₀ s) {n k : Nat} : Keeps s₀ (s.rerunCluster n k) := by
  unfold State.rerunCluster
  refine .ite h ?_
  extract_lets again peers t
  have ht : Keeps s₀ t := h.foldl (fun _ _ ht => ht.removeBlock)
  exact ht.onLaunch

theorem Keeps.loseBlock (h : Keeps s₀ s) {c key : Nat} : Keeps s₀ (s.loseBlock c key) := by
  unfold State.loseBlock
  extract_lets b l g
  exact .ite h.replaceBlock (.ite (.ite h h.rerunCluster) (.ite h.logFault.kill h))

theorem Keeps.givePiece (h : Keeps s₀ s) {p : Nat} {w : MovWork} : Keeps s₀ (s.givePiece p w) := by
  unfold State.givePiece
  extract_lets cores
  split
  · exact h
  · extract_lets t
    have ht : Keeps s₀ t := h.onCoreAt
    exact .ite ht ht.wakeSlice

theorem Keeps.loseCore (h : Keeps s₀ s) {c : Nat} : Keeps s₀ (s.loseCore c) := by
  unfold State.loseCore
  extract_lets keys t gs t₁ ps t₂
  have ht : Keeps s₀ t := h.foldl (fun _ _ ht => .ite ht.loseBlock ht)
  have ht₁ : Keeps s₀ t₁ := ht.foldl (fun _ _ ht1 => ht1.removeGang)
  have ht₂ : Keeps s₀ t₂ := ht₁.dropCaches.onCoreAt
  refine .foldl ht₂ ?_
  intro _ _ ht1
  split
  · split
    · exact ht1.givePiece
    · exact ht1
  · exact ht1

theorem Keeps.napCores (h : Keeps s₀ s) {n : Nat} : Keeps s₀ (s.napCores n) := h.foldl (fun _ _ ht => ht.dropCaches)

theorem Keeps.dropL2 (h : Keeps s₀ s) {n : Nat} : Keeps s₀ (s.dropL2 n) := by
  unfold State.dropL2
  extract_lets d t
  have ht : Keeps s₀ t := h.l2Empty
  exact .ite ht.onMemRest ht

theorem Keeps.sliceDown (h : Keeps s₀ s) {n : Nat} {st : SliceSt} : Keeps s₀ (s.sliceDown n st) := by
  unfold State.sliceDown
  extract_lets t
  have ht : Keeps s₀ t := h.napCores
  exact .setSlice (.ite ht.dropL2 ht)

theorem Keeps.leavePrewake (h : Keeps s₀ s) {n : Nat} : Keeps s₀ (s.leavePrewake n) := by
  unfold State.leavePrewake
  split
  · exact h
  · extract_lets t
    have ht : Keeps s₀ t := h.onSlice
    exact .ite ht ht.sliceDown

theorem Keeps.endPrewake (h : Keeps s₀ s) {pid : Nat} : Keeps s₀ (s.endPrewake pid) :=
  h.foldl (fun _ _ ht => .ite ht.leavePrewake ht)

theorem Keeps.faultLost (h : Keeps s₀ s) {n : Nat} : Keeps s₀ (s.faultLost n) := by
  unfold State.faultLost
  extract_lets t gone
  have ht : Keeps s₀ t := h.foldl (fun _ _ ht => (ht.foldl (fun _ _ ht1 => ht1.removeBlock)).endLaunch)
  exact ht.foldl (fun _ _ ht1 => ht1.dropWork.finish)

theorem Keeps.sliceLost (h : Keeps s₀ s) {n : Nat} {tag : Word} : Keeps s₀ (s.sliceLost n tag) := by
  unfold State.sliceLost
  refine .ite h ?_
  extract_lets t t₁ t₂
  have ht : Keeps s₀ t := h.onSlice
  have ht₁ : Keeps s₀ t₁ := ht.foldl (fun _ _ ht1 => ht1.loseCore)
  have ht₂ : Keeps s₀ t₂ := ht₁.sliceDown.onSlice.faultLost
  exact ht₂.onBoot.logOcc

theorem Keeps.layUp (h : Keeps s₀ s) {c cause : Nat} {persist : Bool} {tag : Word} : Keeps s₀ (s.layUp c cause persist
    tag) := by
  unfold State.layUp
  refine .ite h ?_
  extract_lets t t₁ t₂
  have ht : Keeps s₀ t := h.onCoreAt
  have ht₁ : Keeps s₀ t₁ := ht.loseCore.logOcc
  have ht₂ : Keeps s₀ t₂ := .ite ht₁.persist ht₁
  exact .ite ht₂.sliceLost ht₂

theorem Keeps.layUpHw (h : Keeps s₀ s) {c cause : Nat} : Keeps s₀ (s.layUpHw c cause) := h.layUp

/-! ### Operations of MemOps -/

theorem Keeps.bwRefuse (h : Keeps s₀ s) {tag : Nat} {sl : Option Nat} {dst addr : Nat} {pkt : Word} : Keeps s₀
    (s.bwRefuse tag sl dst addr pkt) := by
  unfold State.bwRefuse
  extract_lets o t
  have ht : Keeps s₀ t := h.onPart
  exact ht.logOcc

theorem Keeps.bwRefusal (h : Keeps s₀ s) {tag dst addr : Nat} {pkt : Word} : Keeps s₀ (s.bwRefusal tag dst addr pkt)
    := by
  unfold State.bwRefusal
  exact h.bwRefuse

theorem Keeps.noteRefusal (h : Keeps s₀ s) {c code a : Nat} {core : Option Nat} {pkt : Word} : Keeps s₀ (s.noteRefusal
    c code a core pkt) := by
  unfold State.noteRefusal
  extract_lets p d dst
  exact .ite h (.ite h.bwRefuse h.bwRefusal)

theorem Keeps.accessPacketFault (h : Keeps s₀ s) {pid c code a : Nat} : Keeps s₀ (s.accessPacketFault pid c code a) :=
    by
  unfold State.accessPacketFault
  exact h.noteRefusal.packetFault

theorem Keeps.granuleError (h : Keeps s₀ s) {g : Nat} {unc : Bool} : Keeps s₀ (s.granuleError g unc) := by
  unfold State.granuleError
  refine .ite ?_ h.onMemRest
  extract_lets t
  have ht : Keeps s₀ t := h.onMemRest.onMemRest.logOcc
  exact .ite ht.persist ht

theorem Keeps.unitLost (h : Keeps s₀ s) {u unit : Nat} : Keeps s₀ (s.unitLost u unit) :=
  (h.onMem (fun _ hm => hm.poisonAt)).logOcc

theorem Keeps.macroLost (h : Keeps s₀ s) {d m : Nat} : Keeps s₀ (s.macroLost d m) := h.onCim.logOcc

theorem Keeps.unitError (h : Keeps s₀ s) {u : Nat} {unc : Bool} : Keeps s₀ (s.unitError u unc) := by
  unfold State.unitError
  extract_lets a
  split
  · exact h
  · extract_lets unit
    refine .ite (.ite h.unitLost.granuleError h.corrected.granuleError) ?_
    refine .ite h.corrected ?_
    split
    · exact h.macroLost
    · exact h.unitLost

theorem Keeps.meetEcc (h : Keeps s₀ s) {ecc : EccErrs} {spans : List (Nat × Nat)} : Keeps s₀ (s.meetEcc ecc spans) :=
    by
  unfold State.meetEcc
  exact h.foldl (fun _ _ ht => ht.unitError)

theorem Keeps.meetEccVa (h : Keeps s₀ s) {c va n : Nat} {ecc : EccErrs} : Keeps s₀ (s.meetEccVa c va n ecc) :=
  .ite h h.meetEcc

/-- Bytes that are poisoned one by one leave the form as it is. -/
theorem Mem.Canon.foldl_poisonAt {α : Type} {c : α → Bool} {a n : α → Nat} {l : List α} {m : Mem} (hm : m.Canon) :
    (l.foldl (fun m e => if c e then m.poisonAt (a e) (n e) else m) m).Canon := by
  induction l generalizing m with
  | nil => exact hm
  | cons e l ih =>
    rw [List.foldl_cons]
    split
    · exact ih hm.poisonAt
    · exact ih hm

theorem Keeps.devWrite (h : Keeps s₀ s) {prot : Bool} {p d : Nat} {l : List (Byte × Bool)} :
    Keeps s₀ (s.devWrite prot p d l) := by
  unfold State.devWrite
  refine .onMem h fun m hm => ?_
  dsimp only
  split
  · exact hm.store.foldl_poisonAt
  · exact hm.store.foldl_poisonAt

theorem Keeps.ltMerge (h : Keeps s₀ s) {d off : Nat} {l : List (Byte × Bool)} : Keeps s₀ (s.ltMerge d off l) := by
  unfold State.ltMerge
  dsimp only
  split
  · exact h
  · refine .onMem h ?_
    intro _ hm
    split
    · exact hm.store.poisonAt
    · exact hm.store

theorem Keeps.flushBlock (h : Keeps s₀ s) {d : Nat} : Keeps s₀ (s.flushBlock d) := by
  unfold State.flushBlock
  extract_lets t
  have ht : Keeps s₀ t := h.onMemRest
  exact ht.foldl (fun _ _ ht1 => ht1.ltMerge)

theorem Keeps.ltStore (h : Keeps s₀ s) {d k a : Nat} {l : List (Byte × Bool)} : Keeps s₀ (State.ltStore d k a l s) := by
  induction k generalizing s a l with
  | zero => exact h
  | succ k ih =>
    unfold State.ltStore
    split
    · exact h
    · exact ih h.flushBlock.ltMerge

theorem Keeps.writePiece (h : Keeps s₀ s) {p : Nat} {x : Piece} {l : List (Byte × Bool)} : Keeps s₀ (s.writePiece p x
    l) := by
  unfold State.writePiece
  extract_lets a
  split
  · exact h.emit
  · exact .ite h.ltStore h.devWrite

theorem Keeps.writeVa (h : Keeps s₀ s) {c va : Nat} {l : List (Byte × Bool)} : Keeps s₀ (s.writeVa c va l) :=
  h.foldl (fun _ _ ht => ht.writePiece)

theorem Keeps.settleLighter (h : Keeps s₀ s) {c va n : Nat} : Keeps s₀ (s.settleLighter c va n) := by
  unfold State.settleLighter
  refine .foldl h ?_
  intro _ _ ht
  split
  · exact ht.foldl (fun _ _ ht1 => ht1.flushBlock)
  · exact ht

theorem Keeps.logMalformed (h : Keeps s₀ s) {c va n : Nat} {tag : Word} : Keeps s₀ (s.logMalformed c va n tag) := by
  unfold State.logMalformed
  refine .foldl h ?_
  intro _ _ ht
  split
  · exact ht.foldl (fun _ _ ht1 => .ite ht1 ht1.logOcc)
  · exact ht

theorem Keeps.meetLighter (h : Keeps s₀ s) {c va n : Nat} {tag : Word} : Keeps s₀ (s.meetLighter c va n tag) :=
  h.settleLighter.logMalformed

theorem Keeps.plruTouch (h : Keeps s₀ s) {core i : Nat} : Keeps s₀ (s.plruTouch core i) := by
  unfold State.plruTouch
  extract_lets turn
  exact h.onMemRest

theorem Keeps.nearFill (h : Keeps s₀ s) {core : Nat} {mask : DWord} {e : NearLine} : Keeps s₀ (s.nearFill core mask e)
    := by
  unfold State.nearFill
  refine .ite h ?_
  extract_lets i
  exact h.onMemRest.plruTouch

theorem Keeps.nearStore (h : Keeps s₀ s) {core c va : Nat} {l : List Byte} {lighter : Bool} : Keeps s₀ (s.nearStore
    core c va l lighter) := by
  unfold State.nearStore
  extract_lets hits one
  exact h.onMemRest

theorem Keeps.nearDropRange (h : Keeps s₀ s) {c va n : Nat} : Keeps s₀ (s.nearDropRange c va n) := h.onMemRest

theorem Keeps.uncache (h : Keeps s₀ s) {d n : Nat} : Keeps s₀ (s.uncache d n) := h.onMemRest

theorem Keeps.drainEntry (h : Keeps s₀ s) {e : Comb} {bad : Byte} : Keeps s₀ (s.drainEntry e bad) := by
  unfold State.drainEntry
  extract_lets t
  have ht : Keeps s₀ t := by
    unfold t
    refine .foldl h ?_
    intro _ _ ht
    split
    · exact ht.uncache
    · exact ht
  exact ht.foldl (fun _ _ ht1 => ht1.writeVa)

theorem Keeps.drainComb (h : Keeps s₀ s) {core : Nat} {p : Comb → Bool} : Keeps s₀ (s.drainComb core p) := by
  unfold State.drainComb
  extract_lets l t
  have ht : Keeps s₀ t := h.onMemRest
  exact ht.foldl (fun _ _ ht1 => ht1.drainEntry)

theorem Keeps.combStore (h : Keeps s₀ s) {core c block va : Nat} {l : List Byte} : Keeps s₀ (s.combStore core c block
    va l) := by
  unfold State.combStore
  dsimp only
  refine .drainComb ?_
  refine .ite h.onMemRest ?_
  refine .onMemRest ?_
  split
  · exact .ite h h.onMemRest.drainEntry
  · exact h

theorem Keeps.drainFor (h : Keeps s₀ s) {core c va n : Nat} : Keeps s₀ (s.drainFor core c va n) := h.drainComb

theorem Keeps.coreStore (h : Keeps s₀ s) {core c block va : Nat} {l : List Byte} : Keeps s₀ (s.coreStore core c block
    va l) := by
  unfold State.coreStore
  split
  · exact h
  · refine .ite h.writeVa ?_
    extract_lets t a
    have ht : Keeps s₀ t := h.nearStore
    refine .ite ht.combStore ?_
    split
    · exact ht.onMemRest
    · exact ht.writeVa

/-! ### Operations of ObjOps -/

theorem Keeps.onObjAt (h : Keeps s₀ s) {k : Nat} {f : Obj → Obj} : Keeps s₀ (s.onObjAt k f) := h.onObj

theorem Keeps.newObj (h : Keeps s₀ s) {k : Nat} {kind : ObjKind} {body : ObjBody} {n : Word} : Keeps s₀ (s.newObj k
    kind body n) := by
  unfold State.newObj
  exact h.onObjAt

theorem Keeps.dropLines (h : Keeps s₀ s) {d n : Nat} : Keeps s₀ (s.dropLines d n) := h.onMemRest

theorem Keeps.finalUpdate (h : Keeps s₀ s) {k : Nat} : Keeps s₀ (s.finalUpdate k) := by
  unfold State.finalUpdate
  extract_lets o mine t
  have ht : Keeps s₀ t := h.onObj
  refine .foldl ht ?_
  intro _ _ ht1
  extract_lets v
  refine .ite ?_ ht1.nextMsgId_snd.sendMsg
  refine .foldl ht1 ?_
  intro _ _ ht2
  split
  · exact .ite ht2.onTally.serveTally.logOcc ht2
  · exact ht2

theorem Keeps.lastWord (h : Keeps s₀ s) {part fn word : Nat} {v : DWord} : Keeps s₀ (s.lastWord part fn word v) :=
  h.onObj.emit

theorem Keeps.endBindings (h : Keeps s₀ s) {k : Nat} : Keeps s₀ (s.endBindings k) := by
  unfold State.endBindings
  extract_lets o mine t
  have ht : Keeps s₀ t := h.onObj
  exact ht.foldl (fun _ _ ht1 => ht1.lastWord)

theorem Keeps.destroyObj (h : Keeps s₀ s) {k : Nat} : Keeps s₀ (s.destroyObj k) := by
  unfold State.destroyObj
  extract_lets o t t₁
  have ht : Keeps s₀ t := h.finalUpdate.endBindings
  have ht₁ : Keeps s₀ t₁ := by
    unfold t₁
    split
    · extract_lets t₂ t₃
      have ht₂ : Keeps s₀ t₂ := h.dropLines
      have ht₃ : Keeps s₀ t₃ := ht₂.onPart
      exact .ite ht₂ (ht₃.onMem (fun _ hm => hm.zero))
    · exact .ite ht.onTally ht
    · exact h
  exact ht₁.onObjAt

theorem Keeps.closeRun (h : Keeps s₀ s) {k : Nat} : Keeps s₀ (s.closeRun k) := by
  unfold State.closeRun
  extract_lets o
  split
  · exact h.onObjAt
  · exact h

theorem Keeps.freezeObj (h : Keeps s₀ s) {k : Nat} {tag : Word} : Keeps s₀ (s.freezeObj k tag) := h.onObjAt.mismatch

theorem Keeps.freezeBad (h : Keeps s₀ s) {ks : List Nat} {tag : Word} : Keeps s₀ (s.freezeBad ks tag) :=
  h.foldl (fun _ _ ht => ht.freezeObj)

theorem Keeps.releaseRef_fst (h : Keeps s₀ s) {k : Nat} {f : Obj → Obj} {tag : Word} : Keeps s₀ (s.releaseRef k f
    tag).1 := by
  unfold State.releaseRef
  extract_lets o
  split
  · exact h
  · split
    · exact h.freezeObj
    · split
      · exact h
      · exact h.onObjAt

theorem Keeps.releaseCreation (h : Keeps s₀ s) {k : Nat} : Keeps s₀ (s.releaseCreation k) := .ite h.releaseRef_fst h

theorem Keeps.releaseMapping (h : Keeps s₀ s) {m : Mapping} {p : Nat} : Keeps s₀ (s.releaseMapping m p) := by
  unfold State.releaseMapping
  split
  · exact h.releaseRef_fst
  · exact h

theorem Keeps.unmapRange (h : Keeps s₀ s) {c va n : Nat} : Keeps s₀ (s.unmapRange c va n) := by
  unfold State.unmapRange
  extract_lets gone t t₁
  have ht : Keeps s₀ t := h.onCtx.nearDropRange
  have ht₁ : Keeps s₀ t₁ := ht.onMemRest
  refine .foldl ht₁ ?_
  intro _ _ ht1
  extract_lets t₂
  have ht₂ : Keeps s₀ t₂ := by
    unfold t₂
    split
    · exact .ite ht1.dropLines ht1.dropLines
    · exact ht1
  exact ht₂.releaseMapping

theorem Keeps.endContext (h : Keeps s₀ s) {c : Nat} : Keeps s₀ (s.endContext c) := by
  unfold State.endContext
  extract_lets names t runs t₁ t₂ mine t₃ t₄ t₅
  have ht : Keeps s₀ t := h.cancelWhere.stopContext
  have ht₁ : Keeps s₀ t₁ := ht.foldl (fun _ _ ht1 => ht1.closeRun)
  have ht₂ : Keeps s₀ t₂ := ht₁.unmapRange
  have ht₃ : Keeps s₀ t₃ := ht₂.foldl (fun _ _ ht1 => ht1.releaseCreation)
  have ht₄ : Keeps s₀ t₄ := ht₃.onMemRest
  have ht₅ : Keeps s₀ t₅ := ht₄.onCtx
  exact ht₅.onObjAt.releaseCreation

theorem Keeps.endQueue (h : Keeps s₀ s) {q : QueueId} : Keeps s₀ (s.endQueue q) := by
  unfold State.endQueue
  extract_lets t k t₁
  have ht : Keeps s₀ t := h.clearErr.cancelQueue
  have ht₁ : Keeps s₀ t₁ := ht.onQueue
  exact ht₁.onObjAt.releaseCreation

theorem Keeps.freezePart (h : Keeps s₀ s) {p : Nat} : Keeps s₀ (s.freezePart p) := .ite h h.onPart.logOcc.raiseVf

theorem Keeps.freezeMaps (h : Keeps s₀ s) : Keeps s₀ s.freezeMaps := h.foldl (fun _ _ ht => ht.freezePart)

theorem Keeps.endPartition (h : Keeps s₀ s) {p : Nat} {keep : Bool} : Keeps s₀ (s.endPartition p keep) := by
  unfold State.endPartition
  extract_lets ctxs t qs t₁ mine t₂ t₃ ks t₄ t₅
  have ht : Keeps s₀ t := h.foldl (fun _ _ ht => ht.endContext)
  have ht₁ : Keeps s₀ t₁ := (ht.foldl (fun _ _ ht1 => ht1.cancelQueue)).cancelWhere
  have ht₂ : Keeps s₀ t₂ := ht₁.foldl (fun _ _ ht1 => ht1.dropWork.dropPacketWaiter.finish)
  have ht₃ : Keeps s₀ t₃ := ht₂.onObj
  have ht₄ : Keeps s₀ t₄ := ht₃.foldl (fun _ _ ht1 => ht1.closeRun.destroyObj)
  have ht₅ : Keeps s₀ t₅ := ht₄.foldl (fun _ _ ht1 => ht1.onQ)
  exact ht₅.onObj

/-! ### Operations of Settle -/

theorem Keeps.runUnmap (h : Keeps s₀ s) {p : Packet} : Keeps s₀ (s.runUnmap p) := by
  unfold State.runUnmap
  extract_lets c va n k
  exact .ite h.finish (.ite h.freezeBad.finish (.ite h.unmapRange.finish h.finish))

theorem Keeps.startPacket (h : Keeps s₀ s) {i : Inflight} : Keeps s₀ (s.startPacket i) := by
  unfold State.startPacket
  extract_lets t touched
  have ht : Keeps s₀ t := h.onInflight
  split
  · exact ht.finish
  · exact ht.runUnmap
  · exact .ite ht.finish (.ite ht.freezeBad.finish ht.endContext.finish)
  · exact ht

theorem Keeps.startAll (h : Keeps s₀ s) {k : Nat} : Keeps s₀ (State.startAll k s) := by
  induction k generalizing s with
  | zero => exact h
  | succ k ih =>
    unfold State.startAll
    split
    · exact h
    · exact ih h.startPacket

theorem Keeps.dropPrewakes (h : Keeps s₀ s) : Keeps s₀ s.dropPrewakes := by
  unfold State.dropPrewakes
  extract_lets held
  exact h.foldl (fun _ _ ht => .ite ht ht.endPrewake)

theorem Keeps.settle (h : Keeps s₀ s) : Keeps s₀ s.settle := by
  unfold State.settle
  extract_lets t
  have ht : Keeps s₀ t := h.startAll
  exact (ht.foldl (fun _ _ ht1 => ht1.destroyObj)).dropPrewakes.freezeMaps.pldmWatch

theorem Answers.done (h : Keeps s₀ s) : Answers s₀ (Machine.done s) := .next h.settle

theorem Keeps.waitOn (h : Keeps s₀ s) {pid : Nat} {sel : Inflight → Bool} : Keeps s₀ (s.waitOn pid sel) := by
  unfold State.waitOn
  extract_lets l
  exact h.onInflight

/-! ### Operations of CimOps -/

theorem Keeps.localWrite (h : Keeps s₀ s) {b off : Nat} {l : List (Byte × Bool)} : Keeps s₀ (s.localWrite b off l) :=
    by
  unfold State.localWrite
  exact h.onCoreAt

theorem Keeps.cimOutput_snd (h : Keeps s₀ s) {o : CimOp} {x : List Byte} : Keeps s₀ (s.cimOutput o x).2 := by
  unfold State.cimOutput
  extract_lets at_ out
  exact .ite h.onFree h

theorem Keeps.feedOne (h : Keeps s₀ s) {e : CimExecSt} : Keeps s₀ (s.feedOne e) := by
  unfold State.feedOne
  split
  · exact h
  · extract_lets p o t
    have ht : Keeps s₀ t := h.onCim
    exact .ite h (.ite h.dropWork.finish (.ite ht ht.wakeSlice))

theorem Keeps.feed (h : Keeps s₀ s) : Keeps s₀ s.feed := h.foldl (fun _ _ ht => ht.feedOne)

theorem Keeps.cimFree (h : Keeps s₀ s) {o : CimOp} : Keeps s₀ (s.cimFree o) := h.onCim

/-! ### Operations of Store -/

theorem Keeps.nvmPhase (h : Keeps s₀ s) {w : NvmWrite} {j : Nat} {p : NvmPhase} {retried : Bool} : Keeps s₀
    (s.nvmPhase w j p retried) := by
  unfold State.nvmPhase
  exact h.onNvm

theorem Answers.nvmEraseDone (h : Keeps s₀ s) : Answers s₀ (execNvmEraseDone s) := by
  unfold execNvmEraseDone
  refine .done ?_
  split
  · exact h.onNvm.slotTurn.askFirst
  · exact h.nvmPhase.nvmTurn
  · exact h

theorem Keeps.nvmTell (h : Keeps s₀ s) {w : NvmWrite} {ok : Bool} {seq : Word} : Keeps s₀ (s.nvmTell w ok seq) := by
  unfold State.nvmTell
  split
  · exact .ite h.finish h.finish
  · exact .ite h h.nvmHold
  · extract_lets t
    have ht : Keeps s₀ t := h.onBoot
    exact .ite ht ht.nvmHold
  · exact h.onMgmt.emit
  · extract_lets t
    have ht : Keeps s₀ t := h.mboxAnswer.onBoot
    exact .ite ht.onAo ht

theorem Keeps.fenceFollow (h : Keeps s₀ s) {r : Nat} : Keeps s₀ (s.fenceFollow r) := by
  unfold State.fenceFollow
  extract_lets more
  exact h.onFence

theorem Keeps.nvmCommit (h : Keeps s₀ s) {w : NvmWrite} {j : Nat} : Keeps s₀ (s.nvmCommit w j) := by
  unfold State.nvmCommit
  extract_lets x t
  have ht : Keeps s₀ t := h.onNvm
  exact ht.fenceFollow.nvmTell.nvmTurn

theorem Keeps.nvmFail (h : Keeps s₀ s) {w : NvmWrite} {j : Nat} {retried : Bool} : Keeps s₀ (s.nvmFail w j retried) :=
    by
  unfold State.nvmFail
  extract_lets e t
  have ht : Keeps s₀ t := h.onNvm
  exact .ite ht.logOcc.nvmTell.nvmTurn h.onNvm.nvmPhase.nvmTurn

theorem Keeps.nvmPaged (h : Keeps s₀ s) {w : NvmWrite} {j : Nat} {p : NvmPhase} {r readback : Bool} : Keeps s₀
    (s.nvmPaged w j p r readback) := by
  unfold State.nvmPaged
  split
  · exact h.nvmPhase.nvmTurn
  · exact h.nvmPage.nvmPhase.nvmTurn
  · exact .ite h.nvmCommit h.nvmFail
  · exact h

theorem Answers.nvmPageDone (h : Keeps s₀ s) {readback : Bool} : Answers s₀ (execNvmPageDone readback s) := by
  unfold execNvmPageDone
  refine .done ?_
  split
  · exact h.onNvm.slotTurn
  · exact .ite h (.ite h.nvmPage.nvmInterrupt.nvmLeave.fenceFollow.nvmTurn h.nvmPaged)
  · exact h

theorem Answers.nvmRead (h : Keeps s₀ s) {q : QueueId} : Answers s₀ (execNvmRead q s) := by
  unfold execNvmRead
  refine .done ?_
  refine .dispatch h ?_
  intro _ _ ht
  extract_lets r
  split
  · exact ht.logOcc.finish
  · extract_lets x₁
    exact ht.emit.finish

theorem Answers.nvmWrite (h : Keeps s₀ s) {q : QueueId} {data : List (Option Byte)} : Answers s₀ (execNvmWrite q data
    s) := by
  unfold execNvmWrite
  refine .done ?_
  refine .ite h ?_
  refine .dispatch h ?_
  intro _ _ ht
  refine .ite ht.logOcc.finish ?_
  extract_lets l
  split
  · exact ht.finish
  · exact ht.nvmQueue

theorem Answers.logRead (h : Keeps s₀ s) {q : QueueId} : Answers s₀ (execLogRead q s) := by
  unfold execLogRead
  refine .done ?_
  refine .dispatch h ?_
  intro _ _ ht
  extract_lets first hist l top after
  exact ht.emit.finish

theorem Keeps.logRelease (h : Keeps s₀ s) {v : Word} : Keeps s₀ (s.logRelease v) := .ite h h.onLog

theorem Answers.logRelease (h : Keeps s₀ s) {v : Word} : Answers s₀ (execLogRelease v s) :=
  .done (.ite h.discarded h.hostWake.logRelease)

theorem Keeps.sendCauses (h : Keeps s₀ s) {m : Word} : Keeps s₀ (s.sendCauses m) :=
  h.foldl (fun _ _ ht => ht.msixSend)

theorem Keeps.setIntMask (h : Keeps s₀ s) {v : Word} : Keeps s₀ (s.setIntMask v) := by
  unfold State.setIntMask
  extract_lets new t
  have ht : Keeps s₀ t := h.onHost
  exact .ite ht.onHost.hostWake ht.sendCauses

theorem Answers.intMaskWrite (h : Keeps s₀ s) {v : Word} : Answers s₀ (execIntMaskWrite v s) :=
  .done (.ite h h.setIntMask)

theorem Keeps.sendVfCauses (h : Keeps s₀ s) {n : Nat} {m : BitVec 3} : Keeps s₀ (s.sendVfCauses n m) :=
  h.foldl (fun _ _ ht => ht.msixSend)

theorem Keeps.setVfsMask (h : Keeps s₀ s) {n : Nat} {v : BitVec 3} : Keeps s₀ (s.setVfsMask n v) := by
  unfold State.setVfsMask
  extract_lets f new t
  have ht : Keeps s₀ t := h.onHost
  exact .ite ht.onHost.hostWake ht.sendVfCauses

theorem Answers.vfsMaskWrite (h : Keeps s₀ s) {n : Nat} {v : BitVec 3} : Answers s₀ (execVfsMaskWrite n v s) :=
  .done (.ite h.discarded h.setVfsMask)

theorem Keeps.query (h : Keeps s₀ s) {q : QueueId} {item : Nat} {f : State → Packet → Nat} : Keeps s₀ (s.query q item
    f) := by
  unfold State.query
  exact h.dispatch (fun _ _ ht => ht.finish)

theorem Answers.querySerial (h : Keeps s₀ s) {q : QueueId} : Answers s₀ (execQuerySerial q s) := .done h.query

theorem Answers.queryCores (h : Keeps s₀ s) {q : QueueId} : Answers s₀ (execQueryCores q s) := .done h.query

theorem Answers.querySliceCores (h : Keeps s₀ s) {q : QueueId} : Answers s₀ (execQuerySliceCores q s) := .done h.query

theorem Answers.queryTime (h : Keeps s₀ s) {q : QueueId} : Answers s₀ (execQueryTime q s) := .done h.query

theorem Answers.queryFwVer (h : Keeps s₀ s) {q : QueueId} : Answers s₀ (execQueryFwVer q s) := .done h.query

/-! ### Operations of FleetOps -/

theorem Keeps.sendSync_snd (h : Keeps s₀ s) {dst obj part n : Nat} : Keeps s₀ (s.sendSync dst obj part n).2 :=
  h.nextMsgId_snd.sendMsg

theorem Keeps.addImporter (h : Keeps s₀ s) {t : List Byte} {dev : Nat} {v : DWord} : Keeps s₀ (s.addImporter t dev v)
    := by
  unfold State.addImporter
  exact .ite h h.onObj

theorem Keeps.openMirror (h : Keeps s₀ s) {pid : Nat} {p : Packet} {t : List Byte} {dev : Nat} {v : DWord} :
    Keeps s₀ (s.openMirror pid p t dev v) := by
  unfold State.openMirror
  rcases tokenParts t with ⟨_, _, ep, g, e⟩
  dsimp only
  split
  · exact h.newObj.onTally.finish
  · exact h.finish

theorem Keeps.orphan (h : Keeps s₀ s) {k c : Nat} : Keeps s₀ (s.orphan k c) := .ite h h.onTally.logOcc

theorem Keeps.raiseMirror (h : Keeps s₀ s) {c : Nat} {v : DWord} : Keeps s₀ (s.raiseMirror c v) :=
  .ite h.onTally.serveTally h

/-! ### Operations of MoverOps -/

theorem Keeps.nearStoreAll (h : Keeps s₀ s) {core c va : Nat} {l : List (Byte × Bool)} {lighter : Bool} : Keeps s₀
    (s.nearStoreAll core c va l lighter) := by
  unfold State.nearStoreAll
  exact h.onMemRest

theorem Keeps.moverWrite (h : Keeps s₀ s) {core c va : Nat} {l : List (Byte × Bool)} : Keeps s₀ (s.moverWrite core c
    va l) := by
  unfold State.moverWrite
  refine .foldl h ?_
  intro _ _ ht
  extract_lets part
  exact ht.nearStoreAll.writePiece

theorem Keeps.openStream (h : Keeps s₀ s) {c a : Nat} : Keeps s₀ (s.openStream c a) := h.onCtx

theorem Keeps.raiseAmax (h : Keeps s₀ s) {c a : Nat} {m : Option Nat} : Keeps s₀ (s.raiseAmax c a m) := by
  unfold State.raiseAmax
  split
  · exact h.onCtx
  · exact h.fresh_snd.onCtx

theorem Keeps.onMov (h : Keeps s₀ s) {pid : Nat} {f : MovPkt → MovPkt} : Keeps s₀ (s.onMov pid f) := h.onWork

theorem Keeps.splitPacket (h : Keeps s₀ s) {p : Packet} {scale : Nat} : Keeps s₀ (s.splitPacket p scale) := by
  unfold State.splitPacket
  extract_lets total u n t
  have ht : Keeps s₀ t := h.onWork
  exact ht.foldl (fun _ _ ht1 => ht1.givePiece)

theorem Keeps.pieceDone (h : Keeps s₀ s) {pid work flushed flags : Nat} {lost failed : Option Nat} : Keeps s₀
    (s.pieceDone pid work flushed flags lost failed) := by
  unfold State.pieceDone
  exact h.onMov

theorem Keeps.copyPiece (h : Keeps s₀ s) {core : Nat} {p : Packet} {off n : Nat} {host : HostMem} : Keeps s₀
    (s.copyPiece core p off n host) := by
  unfold State.copyPiece
  extract_lets c src s₁ data
  have hs₁ : Keeps s₀ s₁ := h.meetLighter
  exact hs₁.moverWrite.pieceDone

theorem Keeps.fillPiece (h : Keeps s₀ s) {core : Nat} {p : Packet} {off n : Nat} : Keeps s₀ (s.fillPiece core p off n)
    := by
  unfold State.fillPiece
  extract_lets c sz data
  exact h.moverWrite.pieceDone

theorem Keeps.convertPiece (h : Keeps s₀ s) {core : Nat} {p : Packet} {scale off n : Nat} {host : HostMem} :
    Keeps s₀ (s.convertPiece core p scale off n host) := by
  unfold State.convertPiece
  extract_lets c r ws wd sa sn ss da ds s₁ bytes scales es old good eltLost sclLost
  have hs₁ : Keeps s₀ s₁ := h.meetLighter
  have hfresh : Keeps s₀ (if es.any ConvElem.spoil then s₁.fresh else (0, s₁)).2 := by
    split
    · exact hs₁.fresh_snd
    · exact hs₁
  refine Keeps.pieceDone (.foldl ?_ fun _ _ ht => ht.raiseAmax)
  exact .ite hfresh.moverWrite.moverWrite hfresh.moverWrite

theorem Keeps.packPiece (h : Keeps s₀ s) {core : Nat} {p : Packet} {off n : Nat} {host : HostMem} : Keeps s₀
    (s.packPiece core p off n host) := by
  unfold State.packPiece
  extract_lets c src s₁ data blocks out flushed
  have hs₁ : Keeps s₀ s₁ := h.meetLighter
  exact hs₁.moverWrite.pieceDone

theorem Keeps.unpackPiece (h : Keeps s₀ s) {core : Nat} {p : Packet} {off n : Nat} {host : HostMem} : Keeps s₀
    (s.unpackPiece core p off n host) := by
  unfold State.unpackPiece
  extract_lets c src s₁ data blocks dec out s₂ bad
  have hs₁ : Keeps s₀ s₁ := h.settleLighter
  have hs₂ : Keeps s₀ s₂ := hs₁.foldl (fun _ _ ht => ht.logOcc)
  exact hs₂.moverWrite.pieceDone

theorem Keeps.moverEnd (h : Keeps s₀ s) {p : Packet} : Keeps s₀ (s.moverEnd p) := by
  unfold State.moverEnd
  split
  · exact h
  · refine .ite h ?_
    extract_lets r t
    have ht : Keeps s₀ t := h.dropWork
    split <;> exact ht.finish

theorem Keeps.runPiece (h : Keeps s₀ s) {core pid off n : Nat} {host : HostMem} : Keeps s₀ (s.runPiece core pid off n
    host) := by
  unfold State.runPiece
  split
  · extract_lets p s₁ t
    have hs₁ : Keeps s₀ s₁ := h.foldl (fun _ _ ht => ht.meetEccVa)
    have ht : Keeps s₀ t := by
      unfold t
      split
      · exact hs₁.copyPiece
      · exact hs₁.fillPiece
      · exact hs₁.convertPiece
      · exact hs₁.packPiece
      · exact hs₁.unpackPiece
    split
    · exact h.dropWork.accessPacketFault
    · exact ht.moverEnd
  · exact h

/-! ### Operations of KernelOps -/

theorem Keeps.instr (h : Keeps s₀ s) {g : Nat} {checks : State → List Check} {f : State → State} (hf : ∀ t, Keeps s₀ t
    → Keeps s₀ (f t)) : Keeps s₀ (s.instr g checks f) := by
  unfold State.instr
  refine .issue h ?_
  intro _ ht
  split
  · exact ht.noteRefusal.gangFault
  · exact hf _ ht

theorem Keeps.putNarrow (h : Keeps s₀ s) {g r lane w code : Nat} : Keeps s₀ (s.putNarrow g r lane w code) :=
  .ite h.onGang h.fresh_snd.onGang

theorem Keeps.drew (h : Keeps s₀ s) {g lane : Nat} {r : RMode} {finite : Bool} : Keeps s₀ (s.drew g lane r finite) :=
    by
  unfold State.drew
  exact .ite h.onGang h

theorem Keeps.slotAdd (h : Keeps s₀ s) {i : Nat} {f : Slot → Slot} : Keeps s₀ (s.slotAdd i f) := .ite h h.onRed

theorem Keeps.applyAdd (h : Keeps s₀ s) {f : RedFmt} {key : Nat} {v : DWord} : Keeps s₀ (s.applyAdd f key v) := by
  unfold State.applyAdd
  dsimp only
  split
  · exact h.slotAdd
  · split
    · exact h
    · exact h.onMem fun m hm => memWrite_wf _ _ _ hm

theorem Keeps.applyUntil (h : Keeps s₀ s) {p : RedAdd → Bool} {k : Nat} : Keeps s₀ (State.applyUntil p k s) := by
  induction k generalizing s with
  | zero => exact h
  | succ k ih =>
    unfold State.applyUntil
    split
    · split
      · exact h
      · exact ih h.onRed.applyAdd
    · exact h

theorem Keeps.flushAdds (h : Keeps s₀ s) {g : Nat} : Keeps s₀ (s.flushAdds g) := h.applyUntil

theorem Keeps.flushStores (h : Keeps s₀ s) {c : Nat} : Keeps s₀ (s.flushStores c) := by
  unfold State.flushStores
  extract_lets mine
  exact h.foldl (fun _ _ ht => ht.flushBlock)

theorem Keeps.release (h : Keeps s₀ s) {g : Nat} : Keeps s₀ (s.release g) := h.flushAdds.flushStores

/-! ### Operations of ReduceOps -/

theorem Keeps.sendAdd (h : Keeps s₀ s) {g : Nat} {f : RedFmt} {key : Nat} {v : DWord} : Keeps s₀ (s.sendAdd g f key v)
    := by
  unfold State.sendAdd
  exact h.onRed

theorem Keeps.nearDropAt (h : Keeps s₀ s) {core c va : Nat} : Keeps s₀ (s.nearDropAt core c va) := h.onMemRest

theorem Keeps.addNow (h : Keeps s₀ s) {g : Nat} {f : RedFmt} {va : Nat} {v : DWord} : Keeps s₀ (s.addNow g f va v) :=
    by
  unfold State.addNow
  extract_lets c
  exact h.nearDropAt.sendAdd.loseStatus

theorem Keeps.xsNow (h : Keeps s₀ s) {g i : Nat} {v : Word} : Keeps s₀ (s.xsNow g i v) := h.sendAdd.loseStatus

theorem Keeps.commitEarly (h : Keeps s₀ s) {g : Nat} : Keeps s₀ (s.commitEarly g) := by
  unfold State.commitEarly
  extract_lets key b l e c t
  have ht : Keeps s₀ t := h.onRed
  exact ht.onBlk.loseStatus

/-- The entry that an operation joins or takes in the deferral buffer is a change of the core alone. -/
theorem Keeps.deferEntry {t : State} (h : Keeps s₀ s) {g : Nat} {kind : DfrKind} {key : Nat} {f : DfrEntry → DfrEntry}
    {first : DfrEntry} (ht : s.deferEntry g kind key f first = some t) : Keeps s₀ t := by
  unfold State.deferEntry at ht
  dsimp only at ht
  split at ht
  · exact Option.some.inj ht ▸ h.onCoreAt
  · split at ht
    · exact Option.some.inj ht ▸ h.onCoreAt
    · cases ht

theorem Keeps.deferOr (h : Keeps s₀ s) {g : Nat} {kind : DfrKind} {key : Nat} {f : DfrEntry → DfrEntry}
    {now : State → State} (hnow : ∀ t, Keeps s₀ t → Keeps s₀ (now t)) : Keeps s₀ (s.deferOr g kind key f now) := by
  unfold State.deferOr
  dsimp only
  split
  · exact hnow _ h
  · split
    next t ht => exact h.deferEntry ht
    · exact hnow _ h.commitEarly

theorem Keeps.kernelRemote (h : Keeps s₀ s) {core part word n : Nat} {id : DWord} {tag : Word} : Keeps s₀
    (s.kernelRemote core part word n id tag) := by
  unfold State.kernelRemote
  extract_lets dst obj refused
  have hrefused : Keeps s₀ refused := h.logOcc
  exact .ite (.ite h.submit hrefused) (.ite hrefused h.sendMsg)

theorem Keeps.returnOwned (h : Keeps s₀ s) {c : Commit} {i g : Nat} : Keeps s₀ (s.returnOwned c i g) := by
  unfold State.returnOwned
  split
  · exact h.syncLog
  · exact h.onSem.submit

theorem Keeps.commitAdds (h : Keeps s₀ s) {c : Commit} : Keeps s₀ (s.commitAdds c) := by
  unfold State.commitAdds
  refine .foldl h ?_
  intro _ _ ht
  split
  · exact ht.applyAdd
  · exact ht.slotAdd
  · exact ht

theorem Keeps.commitSync (h : Keeps s₀ s) {c : Commit} : Keeps s₀ (s.commitSync c) := by
  unfold State.commitSync
  extract_lets here t
  have ht : Keeps s₀ t := by
    unfold t
    refine .foldl h ?_
    intro _ _ ht
    extract_lets t₁
    have ht₁ : Keeps s₀ t₁ := .ite ht ht.submit
    exact ht₁.foldl (fun _ _ ht1 => ht1.returnOwned)
  exact ht.foldl (fun _ _ ht1 => ht1.submit)

theorem Keeps.commitRemote (h : Keeps s₀ s) {c : Commit} : Keeps s₀ (s.commitRemote c) :=
  h.foldl (fun _ _ ht => .ite ht.kernelRemote ht)

theorem Keeps.applyCommit (h : Keeps s₀ s) {c : Commit} : Keeps s₀ (s.applyCommit c) := by
  unfold State.applyCommit
  extract_lets t
  have ht : Keeps s₀ t := h.commitAdds.commitSync.commitRemote
  exact .ite ht.onLaunch ht

theorem Keeps.applyHeld (h : Keeps s₀ s) : Keeps s₀ s.applyHeld := h.onRed.foldl (fun _ _ ht => ht.applyCommit)

theorem Keeps.ackCommit (h : Keeps s₀ s) {c : Commit} : Keeps s₀ (s.ackCommit c) := by
  unfold State.ackCommit
  extract_lets t
  have ht : Keeps s₀ t := h.onCoreAt
  refine .ite ht ?_
  split
  · exact ht
  · exact .ite ht.onBlk ht.onCore

/-! ### Operations of TwRegs -/

theorem Keeps.ruleSet (h : Keeps s₀ s) {n : Nat} {f : Rule → Rule} : Keeps s₀ (s.ruleSet n f) := by
  unfold State.ruleSet
  extract_lets r r₁ r₂
  exact h.onTw.retuneAll

theorem Keeps.clearFilters (h : Keeps s₀ s) {q : Nat} : Keeps s₀ (s.clearFilters q) := h.onTw

theorem Keeps.seqCtrlSet (h : Keeps s₀ s) {q : Nat} {v : Word} : Keeps s₀ (s.seqCtrlSet q v) := by
  unfold State.seqCtrlSet
  extract_lets was t t₁
  have ht : Keeps s₀ t := h.onTw
  have ht₁ : Keeps s₀ t₁ := .ite (.ite ht ht.clearFilters) ht.onTw
  exact .ite (.ite ht₁.trigSeq_snd.onTw ht₁.trigSeq_snd) ht₁

theorem Keeps.clearTrip (h : Keeps s₀ s) : Keeps s₀ s.clearTrip := by
  unfold State.clearTrip
  refine .ite ?_ h
  extract_lets t t₁
  have ht : Keeps s₀ t := h.onTw.logOcc
  have ht₁ : Keeps s₀ t₁ := ht.nvmAccept.onPwr
  exact (ht₁.foldl (fun _ _ ht1 => ht1.pllFollow)).applyHeld

theorem Keeps.twPut (h : Keeps s₀ s) {r : TwReg} {v : DWord} : Keeps s₀ (s.twPut r v) := by
  unfold State.twPut
  extract_lets w
  split
  · exact .ite h.onTw h
  · exact h.onTw
  · exact h.onTw
  · exact h.onTw
  · exact h.onTw
  · exact .ite h.clearTrip h
  · exact h.onTw
  · exact h.onTw
  · exact .ite h.onTw h
  · exact h.onTw
  · exact h.onTw
  · exact h.onTw
  · exact h.onTw
  · exact h.onTw
  · exact h.seqCtrlSet
  · exact h.onTw
  · exact h.onTw
  · exact h.ruleSet
  · exact h.ruleSet
  · exact h.ruleSet
  · exact h.ruleSet

theorem Keeps.twSet (h : Keeps s₀ s) {r : TwReg} {v : DWord} : Keeps s₀ (s.twSet r v) := .ite h.onTw h.twPut

theorem Keeps.twWrite4 (h : Keeps s₀ s) {off : Nat} {w : Word} : Keeps s₀ (s.twWrite4 off w) := by
  unfold State.twWrite4
  dsimp only
  split
  · exact .ite (.ite h (.ite h.twSet h.twSet)) h.twSet
  · split
    · exact .ite (.ite h (.ite h.twSet h.twSet)) h
    · exact h

theorem Keeps.twWrite8 (h : Keeps s₀ s) {off : Nat} {v : DWord} : Keeps s₀ (s.twWrite8 off v) := by
  unfold State.twWrite8
  split
  · exact .ite h.twSet h.twSet.twWrite4
  · exact h.twWrite4

theorem Keeps.timeCtrl (h : Keeps s₀ s) {w : Word} : Keeps s₀ (s.timeCtrl w) := h.onTime

theorem Keeps.timeWrite4 (h : Keeps s₀ s) {off : Nat} {w : Word} : Keeps s₀ (s.timeWrite4 off w) :=
  .ite h.onTime (.ite h.onTime (.ite h.timeCtrl (.ite (.ite h.onTime h) h)))

theorem Keeps.popSample_snd (h : Keeps s₀ s) : Keeps s₀ (s.popSample).2 := by
  unfold State.popSample
  split
  · exact h
  · exact h.onTw

theorem Keeps.popTrig_snd (h : Keeps s₀ s) : Keeps s₀ (s.popTrig).2 := by
  unfold State.popTrig
  split
  · exact h
  · exact h.onTw

/-! ### Operations of Tidewatch -/

theorem Keeps.atReady (h : Keeps s₀ s) {off : Nat} {f : State → State} (hf : ∀ t, Keeps s₀ t → Keeps s₀ (f t)) : Keeps
    s₀ (s.atReady off f) := by
  unfold State.atReady
  exact .ite (hf _ h.hostWake) h.discarded

theorem Keeps.beginStep (h : Keeps s₀ s) {w : Word} : Keeps s₀ (s.beginStep w) := .ite h h.onTw

theorem Keeps.stepOn (h : Keeps s₀ s) {w : Word} : Keeps s₀ (s.stepOn w) := h.onTw

theorem Answers.adcConversionDone (h : Keeps s₀ s) {code : Nat} : Answers s₀ (execAdcConversionDone code s) := by
  unfold execAdcConversionDone
  refine .done ?_
  split
  · exact h
  · extract_lets code₁ k w s₁ settling gain last s₂ raw f s₃ valid
    have hs₁ : Keeps s₀ s₁ := h.beginStep
    have hs₂ : Keeps s₀ s₂ := hs₁.onTw
    have hs₃ : Keeps s₀ s₃ := hs₂.onTw
    exact .ite hs₂ (.ite hs₂.deliver.stepOn (.ite hs₂.deliver.stepOn hs₃.deliver.stepOn))

theorem Keeps.sensorRead (h : Keeps s₀ s) {n : Nat} {v : Option (BitVec 16)} : Keeps s₀ (s.sensorRead n v) := by
  unfold State.sensorRead
  split
  · exact h.onTw
  · extract_lets c t
    have ht : Keeps s₀ t := h.onTw
    exact .ite ht.onTw.alert.logOcc ht

theorem Keeps.adcCheck (h : Keeps s₀ s) {vref gnd : Nat} : Keeps s₀ (s.adcCheck vref gnd) := by
  unfold State.adcCheck
  split
  · extract_lets n t
    have ht : Keeps s₀ t := h.onTw
    exact .ite ht.onTw ht
  · extract_lets n t
    have ht : Keeps s₀ t := h.onTw
    exact .ite ht.onTw.alert.logOcc ht

theorem Keeps.ladderStep (h : Keeps s₀ s) {d : Nat} : Keeps s₀ (s.ladderStep d) := by
  unfold State.ladderStep
  split
  · exact h.onTw
  · exact .ite (.trip (.ite (.logOcc (.ite h.onTw.alert.raise.logOcc h.onTw)) (.ite h.onTw.alert.raise.logOcc h.onTw)))
      (.ite (.logOcc (.ite h.onTw.alert.raise.logOcc h.onTw)) (.ite h.onTw.alert.raise.logOcc h.onTw))

theorem Keeps.calCheck (h : Keeps s₀ s) {d : Nat} : Keeps s₀ (s.calCheck d) := by
  unfold State.calCheck
  refine .ite ?_ h.onTw
  extract_lets k t
  have ht : Keeps s₀ t := h.onTw
  exact .ite ht.onTw.calRequest ht

theorem Answers.safetyScan (h : Keeps s₀ s) {temps : List (Option (BitVec 16))} {vref gnd : Nat} : Answers s₀
    (execSafetyScan temps vref gnd s) := by
  unfold execSafetyScan
  refine .done ?_
  refine .ite h ?_
  extract_lets s₁ s₂ s₃ s₄ s₅
  have hs₁ : Keeps s₀ s₁ := .ite h h.mismatch
  have hs₂ : Keeps s₀ s₂ := hs₁.foldl (fun _ _ ht => ht.sensorRead)
  have hs₃ : Keeps s₀ s₃ := hs₂.adcCheck
  have hs₄ : Keeps s₀ s₄ := hs₃.onTw
  have hs₅ : Keeps s₀ s₅ := hs₄.foldl (fun _ _ ht => ht.ladderStep.calCheck)
  exact hs₅.retuneAll

theorem Answers.sequenceRunStart (h : Keeps s₀ s) : Answers s₀ (execSequenceRunStart s) := by
  unfold execSequenceRunStart
  refine .done ?_
  split
  · exact h.onTw
  · exact h

theorem Answers.seqStartWrite (h : Keeps s₀ s) {n : Nat} {v : Word} : Answers s₀ (execSeqStartWrite n v s) :=
  .done (h.atReady (fun _ ht => .ite ht.twSet ht))

theorem Answers.twTimerExpiry (h : Keeps s₀ s) {t : Nat} : Answers s₀ (execTwTimerExpiry t s) := by
  unfold execTwTimerExpiry
  refine .done ?_
  dsimp only
  split
  · exact .foldl (.trigAll_snd (.ite h h.onTw)) fun u e hu => .ite hu.onTw hu
  · exact h

theorem Keeps.trigDropped (h : Keeps s₀ s) {i : Nat} : Keeps s₀ (s.trigDropped i) := h.onTw

theorem Keeps.expoEdge (h : Keeps s₀ s) {i : Nat} {rise : Bool} {prev : Option Nat} {ns : Nat} :
    Keeps s₀ (s.expoEdge i rise prev ns) := by
  unfold State.expoEdge
  extract_lets cfg active early
  split
  · exact h
  · split
    next a b t ht =>
      have ht : Keeps s₀ t := by
        split at ht
        · injection ht with _ ht
          injection ht with _ ht
          exact ht ▸ h
        · have := h.trigAll_snd (rules := s.rulesOf 1 i rise) (seqs := if active then s.seqsOf (9 + i) else [])
          rwa [ht] at this
      extract_lets fates fate u
      have hu : Keeps s₀ u := .ite ht.trigDropped ht
      exact .ite hu hu.onTw

theorem Keeps.steer (h : Keeps s₀ s) {e : Int} {d : Nat} : Keeps s₀ (s.steer e d) := h.onTime

theorem Keeps.discipline (h : Keeps s₀ s) {e : Int} {d n : Nat} : Keeps s₀ (s.discipline e d n) := by
  unfold State.discipline
  split
  · exact .ite h.onTime h
  · exact .ite h.onTime h
  · extract_lets good t
    have ht : Keeps s₀ t := h.onTime
    exact .ite ht.setTime.onTime.steer ht.steer
  · extract_lets far
    exact h.onTime.steer

theorem Keeps.ppsEdge (h : Keeps s₀ s) {ns : Nat} : Keeps s₀ (s.ppsEdge ns) := by
  unfold State.ppsEdge
  extract_lets prev s₁ goal s₂
  have hs₁ : Keeps s₀ s₁ := h.onTime
  have hset : Keeps s₀ (if (s₁.time.setPending && s₁.time.setAtPps) = true then (goal, s₂) else (ns, s₁)).2 := by
    split
    · exact hs₁.setTime.onTime
    · exact hs₁
  split
  next n t ht =>
  have ht : Keeps s₀ t := by rwa [ht] at hset
  dsimp only
  split
  · exact ht.onTime.onTw
  · exact .ite (.ite ht.onTime.onTw.onTime ht.onTime.onTw.onTime.discipline) ht.onTime.onTw.onTime

theorem Answers.digitalInputAccept (h : Keeps s₀ s) {i : Nat} {level : Bool} {ns : Nat} :
    Answers s₀ (execDigitalInputAccept i level ns s) := by
  unfold execDigitalInputAccept
  refine .done (.ite h ?_)
  extract_lets prev t
  have ht : Keeps s₀ t := h.onTw
  have hpps : Keeps s₀ (t.trigAll (t.rulesOf 1 4 true) (t.seqsOf 13)).2.2 := ht.trigAll_snd
  refine .ite ht.expoEdge (.ite (.ite ?pps ht) (.ite (.ite ht ht.wake) (.ite ht.onTw.retuneAll
      ht.onTw.logOcc.retuneAll)))
  exact Keeps.ppsEdge (.ite hpps.trigDropped hpps)

theorem Answers.ppsLost (h : Keeps s₀ s) : Answers s₀ (execPpsLost s) := .done (.ite h.onTime.logOcc h)

theorem Answers.channelStale (h : Keeps s₀ s) {ch : Nat} : Answers s₀ (execChannelStale ch s) := by
  unfold execChannelStale
  refine .done ?_
  extract_lets r x
  exact .ite h (.ite h.chPair (.ite h.onTw.pushSample h))

theorem Keeps.evalRule (h : Keeps s₀ s) {n : Nat} : Keeps s₀ (s.evalRule n) := by
  unfold State.evalRule
  dsimp only
  exact .ite (.ite h h.onTw.mismatch.onTw) (.ite h (.ite (.ite h.onTw h.onTw.onTw.fire) (.ite (.ite h.onTw.onTw.onTw
      h.onTw) (.ite h.onTw (.ite h.onTw.onTw.fire h.onTw.onTw)))))

theorem Answers.watchBoundary (h : Keeps s₀ s) : Answers s₀ (execWatchBoundary s) := by
  unfold execWatchBoundary
  refine .done ?_
  refine .ite ?_ h
  extract_lets s₁
  have hs₁ : Keeps s₀ s₁ := h.onTw
  exact (hs₁.foldl (fun _ _ ht => ht.evalRule)).retuneAll

theorem Answers.timeOutSecond (h : Keeps s₀ s) : Answers s₀ (execTimeOutSecond s) := by
  unfold execTimeOutSecond
  refine .done ?_
  refine .ite ?_ h
  extract_lets ms
  exact h.onTw

theorem Answers.timeSet (h : Keeps s₀ s) {v : Word} : Answers s₀ (execTimeSet v s) :=
  .done (h.atReady (fun _ ht => ht.timeCtrl))

theorem Keeps.readAtReady (h : Keeps s₀ s) {off len : Nat} {f : State → List Byte × State}
    (hf : ∀ t, Keeps s₀ t → Keeps s₀ (f t).2) : Keeps s₀ (s.readAtReady off len f) := by
  unfold State.readAtReady
  exact .ite h (.ite (hf _ h.hostWake).emit h.discarded.emit)

theorem Answers.twSamplePop (h : Keeps s₀ s) : Answers s₀ (execTwSamplePop s) :=
  .done (h.readAtReady (fun _ ht => ht.popSample_snd))

theorem Answers.twTrigPop (h : Keeps s₀ s) : Answers s₀ (execTwTrigPop s) :=
  .done (h.readAtReady (fun _ ht => ht.popTrig_snd))

theorem Answers.twRuleWrite (h : Keeps s₀ s) {n reg : Nat} {v : Word} : Answers s₀ (execTwRuleWrite n reg v s) :=
  .done (h.atReady (fun _ ht => .ite ht.twWrite4 ht))

theorem Answers.twThermLimWrite (h : Keeps s₀ s) {v : Word} : Answers s₀ (execTwThermLimWrite v s) :=
  .done (h.atReady (fun _ ht => ht.twWrite4))

theorem Answers.twStepWrite (h : Keeps s₀ s) {n k : Nat} {v : Word} : Answers s₀ (execTwStepWrite n k v s) :=
  .done (h.atReady (fun _ ht => .ite ht.twWrite4 ht))

theorem Answers.twWatchWrite (h : Keeps s₀ s) {v : Word} : Answers s₀ (execTwWatchWrite v s) :=
  .done (h.atReady (fun _ ht => ht.twWrite4))

theorem Answers.tripClear (h : Keeps s₀ s) : Answers s₀ (execTripClear s) :=
  .done (h.atReady (fun _ ht => ht.clearTrip))

theorem Answers.hardCut (h : Keeps s₀ s) {die : Nat} : Answers s₀ (execHardCut die s) := .done (.ite h.pwrCut h)

/-! ### Operations of Cim -/

theorem Answers.cimLoad (h : Keeps s₀ s) {q : QueueId} : Answers s₀ (execCimLoad q s) :=
  .done (h.dispatch (fun _ _ ht => .ite ht.finish ht.onCim))

theorem Answers.cimLoadComplete (h : Keeps s₀ s) {pid : Nat} {host : HostMem} :
    Answers s₀ (execCimLoadComplete pid host s) := by
  unfold execCimLoadComplete
  refine .done ?_
  split
  · extract_lets p c va n s₁ data t t₁
    have hs₁ : Keeps s₀ s₁ := h.settleLighter.meetEccVa
    have ht₁ : Keeps s₀ t₁ := hs₁.devWrite.onCim
    clear_value t₁ data
    refine .ite h ?_
    split
    · exact h.dropWork.accessPacketFault
    · split <;> exact ht₁.finish
  · exact h

theorem Answers.cimExec (h : Keeps s₀ s) {q : QueueId} : Answers s₀ (execCimExec q s) := by
  unfold execCimExec
  refine .done ?_
  refine .dispatch h ?_
  intro _ _ ht
  extract_lets d behind
  exact .ite ht.finish ht.onCim.feed

theorem Keeps.cimRefuse (h : Keeps s₀ s) {o : CimOp} : Keeps s₀ (s.cimRefuse o) := by
  unfold State.cimRefuse
  extract_lets damaged s₁ s₂
  have hs₁ : Keeps s₀ s₁ := h.onCim
  have hs₂ : Keeps s₀ s₂ := .ite hs₁.mismatch hs₁.bwRefuse
  split
  · exact .ite hs₂.dropWork.finish hs₂.dropWork.packetFault
  · exact .ite hs₂.gangFault hs₂.gangFault

theorem Answers.cimOpStart (h : Keeps s₀ s) {d : Nat} : Answers s₀ (execCimOpStart d s) := by
  unfold execCimOpStart
  refine .done ?_
  refine .ite h ?_
  split
  · exact h
  · refine .ite h.cimRefuse.feed ?_
    extract_lets n stale t
    have ht : Keeps s₀ t := h.onCim
    exact ht.feed

theorem Keeps.countOps (h : Keeps s₀ s) {o : CimOp} : Keeps s₀ (s.countOps o) := h.onCim

theorem Keeps.endExec (h : Keeps s₀ s) {pid : Nat} : Keeps s₀ (s.endExec pid) := by
  unfold State.endExec
  split
  · exact h
  · refine .ite h ?_
    extract_lets t d
    have ht : Keeps s₀ t := h.onCim
    split <;> exact ht.finish

theorem Keeps.endVector (h : Keeps s₀ s) {o : CimOp} {pid : Nat} {host : HostMem} : Keeps s₀ (s.endVector o pid host)
    := by
  unfold State.endVector
  dsimp only
  split
  · exact h.dropWork.accessPacketFault
  · refine .endExec ?_
    refine .cimFree ?_
    refine .countOps ?_
    refine .onCim ?_
    split
    · exact h.settleLighter.meetEccVa.cimOutput_snd.writeVa.fresh_snd
    · exact h.settleLighter.meetEccVa.cimOutput_snd.writeVa

theorem Keeps.endMvm (h : Keeps s₀ s) {o : CimOp} {g b ud : Nat} : Keeps s₀ (s.endMvm o g b ud) := by
  unfold State.endMvm
  refine .ite h.countOps.cimFree ?_
  extract_lets x bad
  have hout : Keeps s₀ (s.cimOutput o (x.map Prod.fst)).2 := h.cimOutput_snd
  exact Keeps.cimFree hout.localWrite.onGang.countOps

theorem Answers.cimOpComplete (h : Keeps s₀ s) {slice : Nat} {host : HostMem} : Answers s₀ (execCimOpComplete slice
    host s) := by
  unfold execCimOpComplete
  refine .done ?_
  split
  · exact h
  · extract_lets kept s₁
    have hs₁ : Keeps s₀ s₁ := h.meetEcc
    refine .ite h ?_
    split
    · exact hs₁.endVector
    · exact hs₁.endMvm

theorem Answers.cimCalibrate (h : Keeps s₀ s) {q : QueueId} : Answers s₀ (execCimCalibrate q s) := by
  unfold execCimCalibrate
  refine .done ?_
  refine .dispatch h ?_
  intro _ _ ht
  extract_lets dies
  exact .ite ht.finish ht.calRequest.onCim

theorem Answers.cimCalibrationStart (h : Keeps s₀ s) {d : Nat} : Answers s₀ (execCimCalibrationStart d s) := by
  unfold execCimCalibrationStart
  refine .next ?_
  extract_lets wanted busy
  exact .ite h.onCim h

theorem Keeps.calMean_snd (h : Keeps s₀ s) {d : Nat} : Keeps s₀ (s.calMean d).2 := by
  unfold State.calMean
  rcases s.dieMean d with ⟨sum, n⟩
  dsimp only
  split
  · exact h.fresh_snd
  · exact h

theorem Keeps.endCalPkts (h : Keeps s₀ s) {d temp : Nat} {fail : Bool} : Keeps s₀ (s.endCalPkts d temp fail) := by
  unfold State.endCalPkts
  extract_lets l t
  have ht : Keeps s₀ t := h.onCim
  exact ht.foldl (fun _ _ ht1 => ht1.finish)

theorem Answers.cimCalibrationDone (h : Keeps s₀ s) {d : Nat} {pass : Bool} {trim : Word} : Answers s₀
    (execCimCalibrationDone d pass trim s) := by
  unfold execCimCalibrationDone
  refine .done ?_
  refine .ite h ?_
  refine .ite h.onCim ?_
  extract_lets t t₁ t₂
  have ht : Keeps s₀ t := h.onCim
  have ht₁ : Keeps s₀ t₁ := ht.onCim.onTw
  have ht₂ : Keeps s₀ t₂ := ht₁.logOcc
  exact .ite ht.calMean_snd.onTw.onCim.endCalPkts ht₂.endCalPkts

/-! ### Operations of Coherence -/

theorem Keeps.fillL2 (h : Keeps s₀ s) {d w l : Nat} : Keeps s₀ (s.fillL2 d w l) := by
  unfold State.fillL2
  refine .ite h ?_
  split
  · exact h.giveUp
  · extract_lets k t
    have ht : Keeps s₀ t := by
      unfold t
      split
      · exact .ite h h.giveUp
      · exact h
    exact ht.onMemRest

theorem Keeps.grantHead (h : Keeps s₀ s) {l : Nat} : Keeps s₀ (s.grantHead l) := by
  unfold State.grantHead
  split
  · exact h
  · extract_lets t t₁ t₂ die
    have ht : Keeps s₀ t := h.onDir
    have ht₁ : Keeps s₀ t₁ := .ite ht.fillL2 ht
    have ht₂ : Keeps s₀ t₂ := .ite ht₁.emit.emit ht₁
    split
    · exact ht₂
    · exact ht₂.onMemRest.onDir

theorem Keeps.serveHome (h : Keeps s₀ s) {l k : Nat} : Keeps s₀ (State.serveHome l k s) := by
  induction k generalizing s with
  | zero => exact h
  | succ k ih =>
    unfold State.serveHome
    extract_lets d
    split
    · exact h
    · extract_lets host keep
      refine .ite h (.ite h.emit.onDir ?_)
      split
      · exact h.onDir
      · exact ih h.grantHead

theorem Keeps.serveLine (h : Keeps s₀ s) {l : Nat} : Keeps s₀ (s.serveLine l) := h.serveHome

theorem Keeps.joinHome (h : Keeps s₀ s) {l : Nat} {r : HomeReq} : Keeps s₀ (s.joinHome l r) := h.onDir.serveLine

theorem Keeps.homeArrive (h : Keeps s₀ s) {l : Nat} {r : HomeReq} : Keeps s₀ (s.homeArrive l r) :=
  .ite h.joinHome h.onMemRest

theorem Keeps.layUpWay (h : Keeps s₀ s) {d b w : Nat} : Keeps s₀ (s.layUpWay d b w) := by
  unfold State.layUpWay
  extract_lets t t₁ t₂ t₃
  have ht : Keeps s₀ t := h.l2Empty
  have ht₁ : Keeps s₀ t₁ := ht.onMemRest
  have ht₂ : Keeps s₀ t₂ := ht₁.logOcc
  have ht₃ : Keeps s₀ t₃ := .ite ht₂.persist ht₂
  exact .ite ht₃.sliceLost ht₃

theorem Keeps.wayError (h : Keeps s₀ s) {d b w : Nat} {unc : Bool} : Keeps s₀ (s.wayError d b w unc) := by
  unfold State.wayError
  extract_lets k
  exact .ite h.onMemRest.layUpWay h.onMemRest

theorem Keeps.lineLost (h : Keeps s₀ s) {l unit : Nat} : Keeps s₀ (s.lineLost l unit) :=
  .ite (h.onMem (fun _ hm => hm.poisonAt)).logOcc h

theorem Keeps.l2Error (h : Keeps s₀ s) {d l : Nat} {unc : Bool} : Keeps s₀ (s.l2Error d l unc) := by
  unfold State.l2Error
  split
  · exact h
  · extract_lets st t
    have ht : Keeps s₀ t := .ite h.corrected (.giveUp (.ite h.lineLost h))
    exact ht.wayError

theorem Keeps.dirLost (h : Keeps s₀ s) {l : Nat} : Keeps s₀ (s.dirLost l) := by
  unfold State.dirLost
  extract_lets t t₁
  have ht : Keeps s₀ t := h.onMem fun m hm => hm.poisonAt (a := l * 256) (n := 256)
  exact ht.onDir.logOcc.serveLine

theorem Keeps.homeErr (h : Keeps s₀ s) {l agent : Nat} {kind : ReqKind} {err : HomeErr} : Keeps s₀ (s.homeErr l agent
    kind err) := by
  unfold State.homeErr
  split
  · exact h
  · exact .ite h.dirLost h
  · exact .ite h.l2Error h
  · exact .ite h.meetEcc h

theorem Answers.homeRequest (h : Keeps s₀ s) {line agent : Nat} {kind : ReqKind} {body : HomeBody} : Answers s₀
    (execHomeRequest line agent kind body s) := by
  unfold execHomeRequest
  refine .next ?_
  extract_lets there s₁ st t
  have hs₁ : Keeps s₀ s₁ := h.homeErr
  have ht : Keeps s₀ t := hs₁.giveUp
  refine .ite h ?_
  split
  · exact .ite (.ite (ht.onMem (fun _ hm => hm.store)) ht) hs₁
  · exact .ite ht hs₁
  · split
    · refine .ite hs₁ ?_
      split
      · exact hs₁.bwRefusal
      · exact hs₁.homeArrive
    · exact hs₁

theorem Answers.homeNackRetry (h : Keeps s₀ s) {line agent : Nat} : Answers s₀ (execHomeNackRetry line agent s) := by
  unfold execHomeNackRetry
  refine .next ?_
  split
  · exact h
  · refine .ite h ?_
    extract_lets t r
    have ht : Keeps s₀ t := h.onMemRest
    exact .ite ht.joinHome (.ite ht.onMemRest ht.onMemRest)

theorem Keeps.snoopNow (h : Keeps s₀ s) {l : Nat} {inval : Bool} : Keeps s₀ (s.snoopNow l inval) := h.onDir.emit

theorem Answers.tenureEnd (h : Keeps s₀ s) {line agent : Nat} : Answers s₀ (execTenureEnd line agent s) := by
  unfold execTenureEnd
  refine .next ?_
  refine .ite h ?_
  extract_lets t t₁
  have ht : Keeps s₀ t := h.onDir
  have ht₁ : Keeps s₀ t₁ := .ite ht.onMemRest.grantHead.serveLine ht
  split
  · exact .ite ht₁.snoopNow ht₁
  · exact ht₁

theorem Answers.forwardedRequest (h : Keeps s₀ s) {line : Nat} : Answers s₀ (execForwardedRequest line s) := by
  unfold execForwardedRequest
  refine .next ?_
  extract_lets d
  split
  · exact h
  · exact .ite h (.ite h.onMemRest h.grantHead.serveLine)

theorem Answers.bisnpResponse (h : Keeps s₀ s) {line : Nat} {data : List Byte} : Answers s₀ (execBisnpResponse line
    data s) := by
  unfold execBisnpResponse
  refine .next ?_
  extract_lets d t
  have ht : Keeps s₀ t := .ite (h.onMem (fun _ hm => hm.store)) h
  split
  · exact ht.onDir.serveLine
  · exact h

theorem Answers.hostSnoop (h : Keeps s₀ s) {line : Nat} {inval : Bool} : Answers s₀ (execHostSnoop line inval s) := by
  unfold execHostSnoop
  refine .next ?_
  extract_lets l
  exact .ite h (.ite h.snoopNow h.onDir)

theorem Answers.combiningDrain (h : Keeps s₀ s) {unit : DrainUnit} : Answers s₀ (execCombiningDrain unit s) := by
  unfold execCombiningDrain
  refine .next ?_
  split
  · exact h
  · exact .ite h.onMemRest.drainEntry h

theorem Answers.lighterRmw (h : Keeps s₀ s) : Answers s₀ (execLighterRmw s) := by
  unfold execLighterRmw
  refine .next ?_
  split
  · exact h
  · exact .ite h.onMemRest.ltMerge h

theorem Answers.hbmPatrolScrub (h : Keeps s₀ s) {d : Nat} {errs : List Nat} : Answers s₀ (execHbmPatrolScrub d errs s)
    := by
  unfold execHbmPatrolScrub
  refine .next ?_
  refine .ite h ?_
  extract_lets l base t
  have ht : Keeps s₀ t := h.onMemRest
  refine .foldl ht ?_
  intro _ _ ht1
  split
  · exact ht1
  · exact ht1.corrected.granuleError
  · exact ht1.unitLost.granuleError

theorem Answers.deckPatrolScrub (h : Keeps s₀ s) {d : Nat} {tier3 : Bool} {err : Nat} : Answers s₀
    (execDeckPatrolScrub d tier3 err s) := by
  unfold execDeckPatrolScrub
  refine .next ?_
  refine .ite h ?_
  extract_lets key x t
  have ht : Keeps s₀ t := h.onMemRest
  split
  · exact ht
  · exact ht.corrected
  · exact .ite ht.macroLost ht.unitLost

/-! ### Operations of FleetNet -/

theorem Keeps.onDev (h : Keeps s₀ s) {d : Nat} {f : FleetDev → FleetDev} : Keeps s₀ (s.onDev d f) := by
  unfold State.onDev
  extract_lets t
  have ht : Keeps s₀ t := h.onFleet
  exact .ite ht ht.raise

theorem Keeps.setOwn (h : Keeps s₀ s) {o : FleetOwn} : Keeps s₀ (s.setOwn o) := by
  unfold State.setOwn
  extract_lets t
  have ht : Keeps s₀ t := h.onFleet
  exact .ite ht ht.raise

theorem Keeps.installRoutes (h : Keeps s₀ s) {t : List Nat} : Keeps s₀ (s.installRoutes t) := h.onFleet.sendHeld

theorem Keeps.newRoutes (h : Keeps s₀ s) : Keeps s₀ s.newRoutes := by
  unfold State.newRoutes
  refine .ite h ?_
  extract_lets t
  have ht : Keeps s₀ t := h.installRoutes
  exact ht.foldl (fun _ _ ht1 => ht1.sendMsg)

/-! ### Operations of HawserOps -/

theorem Keeps.portSettled (h : Keeps s₀ s) : Keeps s₀ s.portSettled := h.stage13.newRoutes

theorem Keeps.portDown (h : Keeps s₀ s) {n why : Nat} : Keeps s₀ (s.portDown n why) := by
  unfold State.portDown
  extract_lets t
  have ht : Keeps s₀ t := h.onPort
  exact ht.logOcc.portSettled

theorem Keeps.failAttempt (h : Keeps s₀ s) {n : Nat} : Keeps s₀ (s.failAttempt n) := by
  unfold State.failAttempt
  extract_lets p t
  have ht : Keeps s₀ t := h.onPort
  exact .ite ht.portDown ht

theorem Keeps.newAttempt (h : Keeps s₀ s) {n : Nat} : Keeps s₀ (s.newAttempt n) := h.onPort

theorem Keeps.undelivered (h : Keeps s₀ s) {l : List FleetMsg} : Keeps s₀ (s.undelivered l) :=
  h.foldl (fun _ _ ht => .ite ht.onFleet ht.onFleet)

theorem Keeps.relink (h : Keeps s₀ s) {n : Nat} : Keeps s₀ (s.relink n) := by
  unfold State.relink
  extract_lets p lost t
  have ht : Keeps s₀ t := h.onPort
  exact ht.startSeries.undelivered.sendHeld

theorem Keeps.recover (h : Keeps s₀ s) {n : Nat} : Keeps s₀ (s.recover n) := by
  unfold State.recover
  extract_lets t
  have ht : Keeps s₀ t := h.onPort
  exact ht.logOcc

theorem Keeps.resend (h : Keeps s₀ s) {n : Nat} : Keeps s₀ (s.resend n) := by
  unfold State.resend
  extract_lets p t
  have ht : Keeps s₀ t := h.foldl (fun _ _ ht => ht.emit)
  exact .ite h ht.onPort

theorem Keeps.nakResend (h : Keeps s₀ s) {n : Nat} : Keeps s₀ (s.nakResend n) := .ite h h.resend

theorem Keeps.giveCredit (h : Keeps s₀ s) {port pool : Nat} {m : FleetMsg} : Keeps s₀ (s.giveCredit port pool m) :=
  h.onPort

theorem Keeps.relayMsg (h : Keeps s₀ s) {m : FleetMsg} : Keeps s₀ (s.relayMsg m) := by
  unfold State.relayMsg
  refine .ite h.discardMsg ?_
  extract_lets t
  have ht : Keeps s₀ t := h.onFleet.wake
  exact .ite ht.sendHeld ht

theorem Keeps.deliverFlit (h : Keeps s₀ s) {port : Nat} {f : HwsPayload} : Keeps s₀ (s.deliverFlit port f) :=
  .ite h (.ite h.giveCredit.discardMsg (.ite h.onFleet.wake h.giveCredit.relayMsg))

theorem Keeps.enterTraining (h : Keeps s₀ s) {n : Nat} {st : PortSt} {r : Option HwsRecord} : Keeps s₀
    (s.enterTraining n st r) := by
  unfold State.enterTraining
  extract_lets t
  have ht : Keeps s₀ t := h.onPort
  split
  · exact ht.emit
  · exact ht

theorem Keeps.failTraining (h : Keeps s₀ s) {n : Nat} : Keeps s₀ (s.failTraining n) := .ite h.relink h.failAttempt

theorem Keeps.coeffRec_snd (h : Keeps s₀ s) {n lane resp : Nat} : Keeps s₀ (s.coeffRec n lane resp).2 := h.fresh_snd

theorem Keeps.activate (h : Keeps s₀ s) {n : Nat} {fresh : Bool} : Keeps s₀ (s.activate n fresh) := by
  unfold State.activate
  extract_lets t t₁ t₂
  have ht : Keeps s₀ t := h.onPort
  have ht₁ : Keeps s₀ t₁ := .ite ht ht.logOcc
  have ht₂ : Keeps s₀ t₂ := .ite ht₁ ht₁.resend
  exact ht₂.drain.portSettled.sendHeld

theorem Keeps.strictPorts (h : Keeps s₀ s) {k : Nat} {on : Bool} : Keeps s₀ (s.strictPorts k on) :=
  h.foldl (fun _ _ ht => ht.onPort.drain)

theorem Keeps.portCtrl (h : Keeps s₀ s) {n : Nat} {v : Word} : Keeps s₀ (s.portCtrl n v) := by
  unfold State.portCtrl
  extract_lets on was t q lost u t₁
  have ht : Keeps s₀ t := h.onPort
  have hu : Keeps s₀ u := ht.onPort
  have ht₁ : Keeps s₀ t₁ := .ite ht.onPort ht
  exact .ite (.ite ht hu.undelivered.sendHeld.portSettled) (.ite (.ite ht₁.relink ht₁.startSeries) ht)

/-! ### Operations of FleetRegs -/

theorem Keeps.onProd (h : Keeps s₀ s) {e : Nat} {f : Pair → Pair} : Keeps s₀ (s.onProd e f) := h.onFleet

theorem Keeps.onCons (h : Keeps s₀ s) {e : Nat} {f : Pair → Pair} : Keeps s₀ (s.onCons e f) := h.onFleet

theorem Keeps.pairCfg (h : Keeps s₀ s) {v : Word} {byMgr : Bool} : Keeps s₀ (s.pairCfg v byMgr) := by
  unfold State.pairCfg
  refine .ite h ?_
  refine .ite h.onFleet ?_
  refine .ite h.onFleet ?_
  extract_lets peer c t
  have ht : Keeps s₀ t := h.onProd
  exact .ite ht ht.fresh_snd.onFleet.onProd.sendMsg

theorem Keeps.saveFleet (h : Keeps s₀ s) : Keeps s₀ s.saveFleet := by
  unfold State.saveFleet
  extract_lets l
  exact h.persist

theorem Keeps.saveFleetId (h : Keeps s₀ s) : Keeps s₀ s.saveFleetId := by
  unfold State.saveFleetId
  extract_lets d
  exact h.persist

theorem Keeps.fleetCtrl (h : Keeps s₀ s) {v : Word} : Keeps s₀ (s.fleetCtrl v) := by
  unfold State.fleetCtrl
  extract_lets t d t₁ t₂
  have ht : Keeps s₀ t := h.onFleet
  have ht₁ : Keeps s₀ t₁ := .ite ht.onDev ht
  have ht₂ : Keeps s₀ t₂ := .ite ht₁.onFleet.saveFleetId ht₁
  exact .ite ht₂.saveFleet ht₂

theorem Keeps.onRw (h : Keeps s₀ s) {c : Nat} {f : RwChan → RwChan} : Keeps s₀ (s.onRw c f) := h.onFleet

theorem Keeps.rwEnd (h : Keeps s₀ s) {c status : Nat} : Keeps s₀ (s.rwEnd c status) := by
  unfold State.rwEnd
  extract_lets ids t
  have ht : Keeps s₀ t := h.onFleet
  exact ht.onRw.raise

theorem Keeps.fleetWrite4 (h : Keeps s₀ s) {off : Nat} {v : Word} {byMgr : Bool} : Keeps s₀ (s.fleetWrite4 off v
    byMgr) := by
  unfold State.fleetWrite4
  refine .ite h.onFleet ?_
  refine .ite (.ite h.onFleet h) ?_
  refine .ite h.fleetCtrl ?_
  refine .ite h.onFleet ?_
  refine .ite (.ite h.onFleet h) ?_
  refine .ite (.ite h.onFleet h) ?_
  refine .ite h.onFleet ?_
  refine .ite h.pairCfg ?_
  refine .ite ?_ h
  extract_lets c t
  have ht : Keeps s₀ t := h.onRw
  split
  · exact .ite ht.onRw ht
  · exact h.onRw
  · exact h.onRw
  · exact h.onRw
  · exact h.onRw
  · exact h.onRw
  · exact .ite h.onRw h
  · exact h

theorem Keeps.fleetWrite8 (h : Keeps s₀ s) {off : Nat} {v : DWord} {byMgr : Bool} : Keeps s₀ (s.fleetWrite8 off v
    byMgr) := by
  unfold State.fleetWrite8
  exact h.fleetWrite4.fleetWrite4

/-! ### Operations of Hawser -/

theorem Answers.ifPort (h : Keeps s₀ s) {n : Nat} {c : Port → Bool} {f : State → State} (hf : ∀ t, Keeps s₀ t → Keeps
    s₀ (f t)) : Answers s₀ (ifPort n c f s) := by
  unfold Machine.ifPort
  split
  · exact .done (hf _ h)
  · exact .next h

theorem Answers.hwsFlitReceive (h : Keeps s₀ s) {n : Nat} {f : HwsFlit} : Answers s₀ (execHwsFlitReceive n f s) := by
  unfold execHwsFlitReceive
  refine .ifPort h ?_
  intro _ ht
  extract_lets s₁ s₂ s₃ s₄
  have hs₁ : Keeps s₀ s₁ := ht.onPort
  have hs₂ : Keeps s₀ s₂ := hs₁.onPort
  have hs₃ : Keeps s₀ s₃ := .ite hs₂.nakResend hs₂
  have hs₄ : Keeps s₀ s₄ := hs₃.drain
  refine .ite hs₁.onPort ?_
  split
  · exact hs₄
  · exact .ite hs₄.onPort.deliverFlit hs₄.onPort

theorem Answers.hwsReplayTimeout (h : Keeps s₀ s) {n : Nat} : Answers s₀ (execHwsReplayTimeout n s) :=
  .ifPort h (fun _ ht => ht.resend)

theorem Answers.hwsReplayLimit (h : Keeps s₀ s) {n : Nat} : Answers s₀ (execHwsReplayLimit n s) :=
  .ifPort h (fun _ ht => ht.recover)

theorem Answers.hwsSignalLoss (h : Keeps s₀ s) {n : Nat} : Answers s₀ (execHwsSignalLoss n s) := by
  unfold execHwsSignalLoss
  refine .ifPort h ?_
  intro _ ht
  extract_lets p
  split
  · exact ht.recover
  · exact .ite ht ht.failTraining
  · exact .ite ht ht.failTraining
  · exact ht.onPort
  · exact ht
  · exact ht
  · exact ht
  · exact ht
  · exact ht

theorem Answers.hwsFecErrorBurst (h : Keeps s₀ s) {n : Nat} : Answers s₀ (execHwsFecErrorBurst n s) :=
  .ifPort h (fun _ ht => ht.recover)

theorem Answers.hwsDetectEnergy (h : Keeps s₀ s) {n : Nat} {lanes : BitVec 8} : Answers s₀ (execHwsDetectEnergy n
    lanes s) := by
  unfold execHwsDetectEnergy
  exact .ifPort h (fun _ ht => ht.onPort.enterTraining)

theorem Answers.hwsSymbolLock (h : Keeps s₀ s) {n : Nat} {lanes : BitVec 8} :
    Answers s₀ (execHwsSymbolLock n lanes s) := by
  unfold execHwsSymbolLock
  refine .ifPort h fun t ht => ?_
  extract_lets s₁
  have hs₁ : Keeps s₀ s₁ := ht.onPort
  have hrec : Keeps s₀ (s₁.coeffRec n (((ones (s₁.port n).goodLanes).head?).getD 0) 0).2 := hs₁.coeffRec_snd
  exact .ite hs₁.failTraining hrec.enterTraining

theorem Answers.hwsCoeffRequestReceive (h : Keeps s₀ s) {n : Nat} {r : CoeffReq} {ber : List Word} {failed : BitVec 8} :
    Answers s₀ (execHwsCoeffRequestReceive n r ber failed s) := by
  unfold execHwsCoeffRequestReceive
  refine .ifPort h fun t ht => ?_
  extract_lets tapOf stuck k s₁ p
  have hs₁ : Keeps s₀ s₁ := ht.onPort
  have hrec : Keeps s₀ (s₁.coeffRec n r.lane (if r.req = 0 then 0 else if stuck then 2 else 1)).2 := hs₁.coeffRec_snd
  exact .ite hs₁.failTraining (.ite hs₁.enterTraining hrec.enterTraining)

theorem Answers.hwsLaneMaskReceive (h : Keeps s₀ s) {n : Nat} {r : LaneMask} {own : DeskewState} : Answers s₀
    (execHwsLaneMaskReceive n r own s) := by
  unfold execHwsLaneMaskReceive
  extract_lets lock
  refine .ifPort h ?_
  intro _ ht
  extract_lets s₁ p g narrowed s₂ s₃
  have hs₁ : Keeps s₀ s₁ := ht.onPort
  have hs₂ : Keeps s₀ s₂ := hs₁.onPort
  have hs₃ : Keeps s₀ s₃ := .ite hs₂.logOcc hs₂
  exact .ite hs₁.failTraining (.ite hs₃.enterTraining hs₁.onPort.enterTraining)

theorem Keeps.rejected (h : Keeps s₀ s) {n why : Nat} : Keeps s₀ (s.rejected n why) :=
  .portDown (.onPort (.ite h.relink h))

theorem Keeps.peerReset (h : Keeps s₀ s) {sn : DWord} {manager : Bool} : Keeps s₀ (s.peerReset sn manager) := by
  unfold State.peerReset
  extract_lets devs
  exact h.foldl (fun _ _ ht => ht.orphan)

theorem Answers.hwsHailReceive (h : Keeps s₀ s) {n : Nat} {r : HailRec} : Answers s₀ (execHwsHailReceive n r s) := by
  unfold execHwsHailReceive
  refine .ifPort h ?_
  intro _ ht
  split
  · exact ht.emit.rejected
  · extract_lets p s₁ g
    have hs₁ : Keeps s₀ s₁ := ht.onPort
    exact .ite (.ite hs₁.activate hs₁.relink.peerReset) hs₁.onPort.enterTraining

theorem Keeps.moorDone (h : Keeps s₀ s) {n : Nat} : Keeps s₀ (s.moorDone n) := .ite h.activate h

theorem Answers.hwsCreditGrantReceive (h : Keeps s₀ s) {n : Nat} {c : CreditGrant} : Answers s₀
    (execHwsCreditGrantReceive n c s) := by
  unfold execHwsCreditGrantReceive
  exact .ifPort h (fun _ ht => .ite ht.onPort.emit.moorDone ht.failAttempt)

theorem Answers.hwsGrantAckReceive (h : Keeps s₀ s) {n : Nat} {c : CreditGrant} : Answers s₀ (execHwsGrantAckReceive n
    c s) := by
  unfold execHwsGrantAckReceive
  exact .ifPort h (fun _ ht => ht.onPort.moorDone)

theorem Answers.hwsRejectionReceive (h : Keeps s₀ s) {n reason : Nat} : Answers s₀ (execHwsRejectionReceive n reason
    s) := by
  unfold execHwsRejectionReceive
  exact .ifPort h (fun _ ht => ht.rejected)

theorem Answers.hwsRecordRepeat (h : Keeps s₀ s) {n : Nat} : Answers s₀ (execHwsRecordRepeat n s) := by
  unfold execHwsRecordRepeat
  refine .ifPort h ?_
  intro _ ht
  split
  · exact ht.emit
  · exact ht

theorem Answers.hwsStateTimeout (h : Keeps s₀ s) {n : Nat} : Answers s₀ (execHwsStateTimeout n s) :=
  .ifPort h (fun _ ht => ht.failTraining)

theorem Answers.hwsAttemptGapExpiry (h : Keeps s₀ s) {n : Nat} : Answers s₀ (execHwsAttemptGapExpiry n s) :=
  .ifPort h (fun _ ht => ht.newAttempt)

theorem Answers.hwsSeriesTimeout (h : Keeps s₀ s) {n : Nat} : Answers s₀ (execHwsSeriesTimeout n s) :=
  .ifPort h (fun _ ht => ht.onPort.portDown)

theorem Answers.hwsPeerDetectPattern (h : Keeps s₀ s) {n : Nat} : Answers s₀ (execHwsPeerDetectPattern n s) :=
  .ifPort h (fun _ ht => .ite ht.relink ht.onPort.newAttempt)

theorem Answers.hwsDownSignalSense (h : Keeps s₀ s) {n : Nat} : Answers s₀ (execHwsDownSignalSense n s) :=
  .ifPort h (fun _ ht => ht.startSeries)

theorem Answers.hwsRetrain (h : Keeps s₀ s) {n : Nat} {v : Word} : Answers s₀ (execHwsRetrain n v s) :=
  .ifPort h (fun _ ht => ht.portCtrl)

theorem Answers.hwsLpiEntry (h : Keeps s₀ s) {n : Nat} : Answers s₀ (execHwsLpiEntry n s) :=
  .ifPort h (fun _ ht => ht.onPort)

theorem Answers.hwsLpiExit (h : Keeps s₀ s) {n : Nat} : Answers s₀ (execHwsLpiExit n s) :=
  .ifPort h (fun _ ht => ht.onPort.drain.wake)

/-! ### Operations of Host -/

theorem Answers.hostBar2Access (h : Keeps s₀ s) {off : Nat} {acc : Bar2Acc} : Answers s₀ (execHostBar2Access off acc
    s) := by
  unfold execHostBar2Access
  dsimp only
  refine .next ?_
  refine .ite h ?_
  split
  · split
    · exact h.discarded.emit
    · exact h.discarded
  · refine .ite h.hostWake.bwRefusal.emit ?_
    split
    · exact h.hostWake.meetEcc.emit
    · exact .ite h.hostWake (h.hostWake.onMem (fun _ hm => hm.store))

theorem Answers.hostCxlMemRequest (h : Keeps s₀ s) {dpa : Nat} {own : Bool} : Answers s₀ (execHostCxlMemRequest dpa
    own s) := by
  unfold execHostCxlMemRequest
  refine .next ?_
  extract_lets l s₁
  have hs₁ : Keeps s₀ s₁ := h.hostWake
  exact .ite h (.ite h.emit (.ite hs₁.bwRefusal.emit hs₁.homeArrive))

theorem Answers.bar2Resize (h : Keeps s₀ s) {log : Nat} {decoding : Bool} : Answers s₀ (execBar2Resize log decoding s)
    := by
  unfold execBar2Resize
  exact .next (.ite h (.ite h.hostWake.onHost h.hostWake))

theorem Answers.atsInvalidate (h : Keeps s₀ s) {bus len : Nat} {pasid : Option Nat} : Answers s₀ (execAtsInvalidate
    bus len pasid s) := by
  unfold execAtsInvalidate
  refine .next ?_
  refine .ite h ?_
  extract_lets s₁ cs t
  have hs₁ : Keeps s₀ s₁ := h.hostWake
  have ht : Keeps s₀ t := hs₁.foldl (fun _ _ ht => ht.foldl (fun _ _ ht1 => ht1.nearDropRange.onMemRest))
  exact ht.emit

/-! ### Operations of Objects -/

theorem Answers.memAlloc (h : Keeps s₀ s) {q : QueueId} : Answers s₀ (execMemAlloc q s) := by
  unfold execMemAlloc
  refine .done ?_
  refine .dispatch h ?_
  intro _ _ ht
  extract_lets n t₁ m slices
  split
  · extract_lets k s₁ s₂
    have hs₁ : Keeps s₀ s₁ := ht.newObj
    have hs₂ : Keeps s₀ s₂ := hs₁.onMem (fun _ hm => hm.zero)
    exact hs₂.finish
  · exact ht.finish

theorem Keeps.replyRef {r : State × RefRes} (h : Keeps s₀ r.1) {pid : Nat} : Keeps s₀ (State.replyRef pid r) := by
  unfold State.replyRef
  split
  · exact h.finish
  · exact h.finish

theorem Answers.memFree (h : Keeps s₀ s) {q : QueueId} : Answers s₀ (execMemFree q s) := by
  unfold execMemFree
  refine .done ?_
  refine .dispatch h ?_
  intro _ _ ht
  extract_lets k o
  exact .ite ht.finish ht.releaseRef_fst.replyRef

theorem Answers.memMap (h : Keeps s₀ s) {q : QueueId} : Answers s₀ (execMemMap q s) := by
  unfold execMemMap
  refine .done ?_
  refine .dispatch h ?_
  intro _ _ ht
  extract_lets c h₁ k o d m used t₁ t₂ t₃
  have ht₁ : Keeps s₀ t₁ := ht.onCtx
  have ht₂ : Keeps s₀ t₂ := .ite ht₁ ht₁.onObjAt
  have ht₃ : Keeps s₀ t₃ := .ite ht₂.onPart ht₂
  split
  · exact ht.finish
  · exact .ite ht.freezeObj.finish (.ite ht.finish (.ite ht.finish ht₃.finish))

theorem Answers.memUnmap (h : Keeps s₀ s) {q : QueueId} : Answers s₀ (execMemUnmap q s) :=
  .done (h.dispatch (fun _ _ ht => ht.waitOn))

theorem Answers.objRetain (h : Keeps s₀ s) {q : QueueId} : Answers s₀ (execObjRetain q s) := by
  unfold execObjRetain
  refine .done ?_
  refine .dispatch h ?_
  intro _ _ ht
  extract_lets k o
  exact .ite ht.freezeObj.finish (.ite ht.finish (.ite ht.finish (.ite ht.finish ht.onObjAt.finish)))

theorem Answers.objRelease (h : Keeps s₀ s) {q : QueueId} : Answers s₀ (execObjRelease q s) := by
  unfold execObjRelease
  refine .done ?_
  refine .dispatch h ?_
  intro _ _ ht
  extract_lets k
  exact .ite ht.finish (.ite ht.finish ht.releaseRef_fst.replyRef)

theorem Answers.poolSet (h : Keeps s₀ s) {q : QueueId} : Answers s₀ (execPoolSet q s) := by
  unfold execPoolSet
  refine .done ?_
  refine .dispatch h ?_
  intro _ _ ht
  extract_lets sl b n out clash
  exact .ite ht.finish (.ite ht.finish (.ite ht.finish ht.onObj.finish))

theorem Answers.contextCreate (h : Keeps s₀ s) {q : QueueId} : Answers s₀ (execContextCreate q s) := by
  unfold execContextCreate
  refine .done ?_
  refine .dispatch h ?_
  intro _ _ ht
  split
  · refine .ite ?_ ht.finish
    extract_lets k pasid t₁ t₂
    have ht₁ : Keeps s₀ t₁ := ht.newObj
    have ht₂ : Keeps s₀ t₂ := ht₁.onCtx
    exact ht₂.finish
  · exact ht.finish

theorem Answers.contextDestroy (h : Keeps s₀ s) {q : QueueId} : Answers s₀ (execContextDestroy q s) :=
  .done (h.dispatch (fun _ _ ht => .ite ht.finish ht.waitOn))

theorem Answers.runBegin (h : Keeps s₀ s) {q : QueueId} : Answers s₀ (execRunBegin q s) := by
  unfold execRunBegin
  dsimp only
  refine .done ?_
  refine .dispatch h ?_
  intro _ _ ht
  split
  · exact ht.finish
  · split
    · exact ht.finish
    · exact ht.newObj.onSync.finish

theorem Answers.runEnd (h : Keeps s₀ s) {q : QueueId} : Answers s₀ (execRunEnd q s) := by
  unfold execRunEnd
  refine .done ?_
  refine .dispatch h ?_
  intro _ _ ht
  extract_lets k o
  split
  · extract_lets v
    refine .ite ht.finish ?_
    split
    · exact ht.finish
    · exact .ite ht.freezeObj.finish ht.closeRun.finish
  · exact ht.finish

theorem Answers.queryHbmFree (h : Keeps s₀ s) {q : QueueId} : Answers s₀ (execQueryHbmFree q s) :=
  .done (h.dispatch (fun _ _ ht => ht.finish))

theorem Answers.queryDeckFree (h : Keeps s₀ s) {q : QueueId} : Answers s₀ (execQueryDeckFree q s) :=
  .done (h.dispatch (fun _ _ ht => ht.finish))

theorem Answers.querySyncFree (h : Keeps s₀ s) {q : QueueId} : Answers s₀ (execQuerySyncFree q s) := by
  unfold execQuerySyncFree
  refine .done ?_
  refine .dispatch h ?_
  intro _ _ ht
  extract_lets ids t₁ m
  exact ht.finish

/-! ### Operations of Power -/

theorem Keeps.announce (h : Keeps s₀ s) {code : Nat} : Keeps s₀ (s.announce code) := by
  unfold State.announce
  extract_lets body
  exact .ite (h.foldl (fun _ _ ht => ht.sendMsg)) (.ite h.sendMsg h)

theorem Keeps.enterSleep (h : Keeps s₀ s) : Keeps s₀ s.enterSleep := by
  unfold State.enterSleep
  extract_lets s₁ s₂ s₃ s₄ s₅ s₆ s₇ s₈
  have hs₁ : Keeps s₀ s₁ := .ite h h.mismatch
  have hs₂ : Keeps s₀ s₂ := hs₁.foldl (fun _ _ ht => ht.finish)
  have hs₃ : Keeps s₀ s₃ := hs₂.announce
  have hs₄ : Keeps s₀ s₄ := by
    unfold s₄
    refine .foldl hs₃ ?_
    intro _ _ ht
    extract_lets x t₁
    have ht₁ : Keeps s₀ t₁ := ht.onSlice
    exact .ite ht₁ ht₁.sliceDown
  have hs₅ : Keeps s₀ s₅ := hs₄.onPwr
  have hs₆ : Keeps s₀ s₆ := hs₅.onHost
  have hs₇ : Keeps s₀ s₇ := hs₆.onMgmt
  have hs₈ : Keeps s₀ s₈ := hs₇.onHws
  exact hs₈.raise

theorem Answers.idleDwellExpiry (h : Keeps s₀ s) : Answers s₀ (execIdleDwellExpiry s) := .done (.ite h.enterSleep h)

theorem Answers.sleepPendingEntry (h : Keeps s₀ s) : Answers s₀ (execSleepPendingEntry s) :=
  .done (.ite h.enterSleep h)

theorem Keeps.sendHeldCauses (h : Keeps s₀ s) : Keeps s₀ s.sendHeldCauses := by
  unfold State.sendHeldCauses
  extract_lets m v t
  have ht : Keeps s₀ t := h.onHost.sendCauses
  refine .foldl ht ?_
  intro _ _ ht1
  extract_lets f
  exact ht1.sendVfCauses

theorem Keeps.tellHeld (h : Keeps s₀ s) : Keeps s₀ s.tellHeld := h.foldl (fun _ _ ht => ht.finish)

theorem Keeps.zeroTiers (h : Keeps s₀ s) : Keeps s₀ s.zeroTiers := by
  unfold State.zeroTiers
  refine .foldl h ?_
  intro _ _ ht
  refine .foldl ht ?_
  intro _ _ ht1
  extract_lets sl t₁
  have ht₁ : Keeps s₀ t₁ := ht1.onMem (fun _ hm => hm.zero)
  exact .ite ht₁.onCim ht₁

theorem Keeps.comeAwake (h : Keeps s₀ s) : Keeps s₀ s.comeAwake := by
  unfold State.comeAwake
  extract_lets t t₁ t₂
  have ht : Keeps s₀ t := h.onPwr
  have ht₁ : Keeps s₀ t₁ := ht.onHost
  have ht₂ : Keeps s₀ t₂ := ht₁.onFleet
  exact ht₂.raise.sendHeldCauses.tellHeld.announce.sendHeld

theorem Answers.deviceAwake (h : Keeps s₀ s) {us : Nat} {failed : BitVec 8} : Answers s₀ (execDeviceAwake us failed s)
    := by
  unfold execDeviceAwake
  refine .done ?_
  refine .ite ?_ h
  extract_lets t t₁ t₂
  have ht : Keeps s₀ t := h.zeroTiers.comeAwake
  have ht₁ : Keeps s₀ t₁ := ht.onPwr
  have ht₂ : Keeps s₀ t₂ := .ite ht₁ (ht₁.foldl (fun _ _ ht1 => ht1.sliceLost))
  exact .ite ht₂.logOcc ht₂

theorem Keeps.sliceBack (h : Keeps s₀ s) {n : Nat} : Keeps s₀ (s.sliceBack n) := .ite h.onSlice.onBoot h

theorem Answers.hbmSrExitRetry (h : Keeps s₀ s) {failed : BitVec 8} : Answers s₀ (execHbmSrExitRetry failed s) := by
  unfold execHbmSrExitRetry
  refine .done ?_
  refine .ite ?_ h
  extract_lets back t
  have ht : Keeps s₀ t := h.onPwr
  exact ht.foldl (fun _ _ ht1 => ht1.sliceBack)

theorem Keeps.refuseRest (h : Keeps s₀ s) : Keeps s₀ s.refuseRest := by
  unfold State.refuseRest
  extract_lets s₁
  have hs₁ : Keeps s₀ s₁ := by
    unfold s₁
    refine .foldl h ?_
    intro _ _ ht
    extract_lets t₁
    have ht₁ : Keeps s₀ t₁ := ht.foldl (fun _ _ ht1 => ht1.refuse)
    exact ht₁.onQueue
  exact hs₁.foldl (fun _ _ ht => ht.finish)

theorem Keeps.deepLoss (h : Keeps s₀ s) : Keeps s₀ s.deepLoss := by
  unfold State.deepLoss
  refine Keeps.onHws (.onMgmt (.onHost (.onCim (.onRed (.onSync (.onMem h fun m _ => ?_))))))
  exact (rfl : Tab.wf (α := Byte) 0 [] = true)

theorem Keeps.enterDeep (h : Keeps s₀ s) : Keeps s₀ s.enterDeep := by
  unfold State.enterDeep
  extract_lets s₁ s₂ s₃ s₄
  have hs₁ : Keeps s₀ s₁ := h.foldl (fun _ _ ht => ht.finish)
  have hs₂ : Keeps s₀ s₂ := hs₁.refuseRest.announce
  have hs₃ : Keeps s₀ s₃ := hs₂.foldl (fun _ _ ht => ht.onSlice.setSlice)
  have hs₄ : Keeps s₀ s₄ := hs₃.onPwr
  exact hs₄.deepLoss.raise

theorem Keeps.repeatTraining (h : Keeps s₀ s) {r : Retrain} : Keeps s₀ (s.repeatTraining r) := by
  unfold State.repeatTraining
  extract_lets t t₁
  have ht : Keeps s₀ t := h.logOcc
  have ht₁ : Keeps s₀ t₁ := ht.bistOutcome.hbmOutcome
  exact ht₁.noSlice (fun _ ht1 => ht1)

theorem Answers.deepWakeDone (h : Keeps s₀ s) {full : Option Retrain} : Answers s₀ (execDeepWakeDone full s) := by
  unfold execDeepWakeDone
  refine .done ?_
  refine .ite ?_ h
  extract_lets t t₁ t₂ t₃ t₄
  have ht : Keeps s₀ t := h.comeAwake
  have ht₁ : Keeps s₀ t₁ := ht.onPwr
  have ht₂ : Keeps s₀ t₂ := ht₁.onHost
  have ht₃ : Keeps s₀ t₃ := by
    unfold t₃
    split
    · exact ht₂
    · exact ht₂.repeatTraining
  have ht₄ : Keeps s₀ t₄ := ht₃.calRequest
  exact ht₄.foldl (fun _ _ ht1 => ht1.startSeries)

theorem Answers.sliceDozeDwellExpiry (h : Keeps s₀ s) {n : Nat} : Answers s₀ (execSliceDozeDwellExpiry n s) :=
  .done (.ite h.setSlice h)

theorem Answers.sliceNapDwellExpiry (h : Keeps s₀ s) {n : Nat} : Answers s₀ (execSliceNapDwellExpiry n s) := by
  unfold execSliceNapDwellExpiry
  refine .done ?_
  extract_lets x
  exact .ite h.sliceDown h

theorem Answers.sliceOffDwellExpiry (h : Keeps s₀ s) {n : Nat} : Answers s₀ (execSliceOffDwellExpiry n s) := by
  unfold execSliceOffDwellExpiry
  refine .done ?_
  extract_lets x
  exact .ite h.sliceDown h

theorem Keeps.powerSettle (h : Keeps s₀ s) : Keeps s₀ s.powerSettle := by
  unfold State.powerSettle
  extract_lets ready
  refine .foldl h ?_
  intro _ _ ht
  refine .ite ht.finish ?_
  extract_lets ends
  exact ht.finish

theorem Answers.sliceWakeDone (h : Keeps s₀ s) {n : Nat} : Answers s₀ (execSliceWakeDone n s) := by
  unfold execSliceWakeDone
  refine .done ?_
  extract_lets x
  exact .ite h.setSlice.powerSettle h

theorem Answers.prewakeLapse (h : Keeps s₀ s) {n : Nat} : Answers s₀ (execPrewakeLapse n s) := by
  unfold execPrewakeLapse
  refine .done ?_
  refine .ite h ?_
  extract_lets t
  have ht : Keeps s₀ t := h.leavePrewake
  exact .ite ht ht.onPwr

theorem Keeps.relocked (h : Keeps s₀ s) {d c : Nat} : Keeps s₀ (s.relocked d c) := by
  unfold State.relocked
  extract_lets t
  have ht : Keeps s₀ t := h.onDie
  exact ht.retune.powerSettle

theorem Keeps.relockFailed (h : Keeps s₀ s) {d : Nat} : Keeps s₀ (s.relockFailed d) := by
  unfold State.relockFailed
  extract_lets t t₁
  have ht : Keeps s₀ t := h.logOcc
  have ht₁ : Keeps s₀ t₁ := ht.onDie
  exact .ite (ht₁.foldl (fun _ _ ht1 => ht1.sliceLost)).powerSettle ht.onDie

theorem Answers.pllRelockDone (h : Keeps s₀ s) {d : Nat} {ok : Bool} : Answers s₀ (execPllRelockDone d ok s) := by
  unfold execPllRelockDone
  refine .done ?_
  extract_lets x c
  exact .ite (.ite h.relocked h.relockFailed) h

theorem Keeps.pmbGiveUp (h : Keeps s₀ s) {d : Nat} : Keeps s₀ (s.pmbGiveUp d) := by
  unfold State.pmbGiveUp
  extract_lets x v t t₁
  have ht : Keeps s₀ t := h.onDie
  have ht₁ : Keeps s₀ t₁ := ht.logOcc
  exact .powerSettle (.retune (.ite ht₁ ht₁.raise))

theorem Keeps.pmbAgain (h : Keeps s₀ s) {d : Nat} : Keeps s₀ (s.pmbAgain d) := .ite h.onDie.pmbAsk h.pmbGiveUp

theorem Answers.pmbusTransactionDone (h : Keeps s₀ s) {d : Nat} {ok : Bool} {a : PmbAnswer} : Answers s₀
    (execPmbusTransactionDone d ok a s) := by
  unfold execPmbusTransactionDone
  refine .done ?_
  extract_lets x
  refine .ite ?_ h
  refine .ite h.pmbAgain ?_
  split
  · exact .ite h (.ite h.onDie.pmbAsk h.pmbGiveUp)
  · refine .ite h ?_
    extract_lets s₁
    have hs₁ : Keeps s₀ s₁ := h.onDie
    exact .ite hs₁.onDie.retune.powerSettle hs₁.pmbAgain

theorem Answers.pmbAlert (h : Keeps s₀ s) {mask : BitVec 8} : Answers s₀ (execPmbAlert mask s) := by
  unfold execPmbAlert
  refine .done ?_
  refine .ite ?_ h
  extract_lets t t₁ t₂
  have ht : Keeps s₀ t := h.foldl (fun _ _ ht => ht.pmbSend.pmbSend)
  have ht₁ : Keeps s₀ t₁ := ht.onTw
  have ht₂ : Keeps s₀ t₂ := ht₁.foldl (fun _ _ ht1 => ht1.logOcc)
  exact ht₂.retuneAll

theorem Answers.budgetStep (h : Keeps s₀ s) {power : Nat} : Answers s₀ (execBudgetStep power s) := by
  unfold execBudgetStep
  refine .done ?_
  refine .ite h ?_
  extract_lets s₁ lim code capped
  have hs₁ : Keeps s₀ s₁ := h.onPwr
  split
  · split
    · exact .ite hs₁ hs₁.onDie.retune
    · exact hs₁
  · refine .ite ?_ hs₁
    split
    · exact hs₁.onDie.retune
    · exact hs₁

theorem Answers.powerHoldExpiry (h : Keeps s₀ s) {pid : Nat} : Answers s₀ (execPowerHoldExpiry pid s) := .done h.onPwr

theorem Answers.hostL12Exit (h : Keeps s₀ s) : Answers s₀ (execHostL12Exit s) := .done h.onHost.hostWake

theorem Answers.d3hotRequest (h : Keeps s₀ s) : Answers s₀ (execD3hotRequest s) := .done (.ite h.onHost h)

theorem Keeps.withdrawSleep (h : Keeps s₀ s) {source : Nat} : Keeps s₀ (s.withdrawSleep source) :=
  (h.foldl (fun _ _ ht => ht.finish)).onPwr

theorem Answers.powerSetDevice (h : Keeps s₀ s) {q : QueueId} : Answers s₀ (execPowerSetDevice q s) := by
  unfold execPowerSetDevice
  refine .done ?_
  refine .dispatch h ?_
  intro _ _ ht
  split
  · exact .ite ht.finish ht.withdrawSleep.finish
  · extract_lets t₁
    have ht₁ : Keeps s₀ t₁ := ht.onPwr
    exact ht₁.onInflight
  · refine .ite ht.finish ?_
    split
    · exact ht.finish
    · exact ht.withdrawSleep.onPwr

theorem Answers.powerSetSlice (h : Keeps s₀ s) {q : QueueId} : Answers s₀ (execPowerSetSlice q s) := by
  unfold execPowerSetSlice
  refine .done ?_
  refine .dispatch h ?_
  intro _ _ ht
  extract_lets fl ck t₁
  have ht₁ : Keeps s₀ t₁ := ht.foldl (fun _ _ ht1 => .ite ht1 ht1.onSlice)
  exact ht₁.retuneAll.powerSettle

theorem Answers.powerHold (h : Keeps s₀ s) {q : QueueId} : Answers s₀ (execPowerHold q s) := by
  unfold execPowerHold
  refine .done ?_
  refine .dispatch h ?_
  intro _ _ ht
  extract_lets dev ends h₁ t₁
  have ht₁ : Keeps s₀ t₁ := ht.onPwr
  exact .ite ht₁.finish (ht₁.foldl (fun _ _ ht1 => ht1.wakeSlice)).powerSettle

/-! ### Operations of Queues -/

theorem Keeps.doorLog (h : Keeps s₀ s) {q : QueueId} {v : Word} : Keeps s₀ (s.doorLog q v) := h.logOcc

theorem Keeps.setDbBad (h : Keeps s₀ s) {q : QueueId} : Keeps s₀ (s.setDbBad q) := by
  unfold State.setDbBad
  extract_lets t
  have ht : Keeps s₀ t := h.onQueue
  split
  · exact .ite ht ht.raise
  · exact ht

theorem Keeps.setCqBad (h : Keeps s₀ s) {q : QueueId} : Keeps s₀ (s.setCqBad q) := by
  unfold State.setCqBad
  extract_lets t
  have ht : Keeps s₀ t := h.onQueue
  split
  · exact .ite ht ht.raise
  · exact ht

theorem Keeps.sqPutWrite (h : Keeps s₀ s) {q : QueueId} {put : Word} : Keeps s₀ (s.sqPutWrite q put) := by
  unfold State.sqPutWrite
  extract_lets x s₁
  have hs₁ : Keeps s₀ s₁ := h.hostWake
  exact .ite h (.ite h.discarded (.ite h.doorLog.hostWake (.ite (.ite hs₁ hs₁.onQueue) hs₁.setDbBad.doorLog)))

theorem Answers.doorbellSqPut (h : Keeps s₀ s) {q : QueueId} {put : Word} : Answers s₀ (execDoorbellSqPut q put s) :=
    by
  unfold execDoorbellSqPut
  exact .next h.sqPutWrite

theorem Keeps.cqGetWrite (h : Keeps s₀ s) {q : QueueId} {get : Word} : Keeps s₀ (s.cqGetWrite q get) := by
  unfold State.cqGetWrite
  extract_lets x s₁
  have hs₁ : Keeps s₀ s₁ := h.hostWake
  exact .ite h (.ite h.discarded (.ite h.doorLog.hostWake (.ite hs₁.onQueue.flushLate hs₁.setCqBad.doorLog)))

theorem Answers.cqGetWrite (h : Keeps s₀ s) {q : QueueId} {get : Word} : Answers s₀ (execCqGetWrite q get s) :=
  .next h.cqGetWrite

theorem Keeps.prewakeFor (h : Keeps s₀ s) {p : Packet} : Keeps s₀ (s.prewakeFor p) :=
  .ite h (h.foldl (fun _ _ ht => ht.prewake))

theorem Keeps.intake (h : Keeps s₀ s) {q : QueueId} {p : Packet} : Keeps s₀ (s.intake q p) := by
  unfold State.intake
  extract_lets exp t
  have ht : Keeps s₀ t := h.onQueue
  split
  · exact ht.reject
  · exact .ite ht.refuse ht.onQueue.prewakeFor

theorem Keeps.fetchStop (h : Keeps s₀ s) {q : QueueId} : Keeps s₀ (s.fetchStop q) := by
  unfold State.fetchStop
  dsimp only
  split
  · exact h.onQueue.logOcc.raise.raiseVf
  · exact h.onQueue.logOcc.raise

theorem Answers.packetFetch (h : Keeps s₀ s) {q : QueueId} {slots : List Byte} : Answers s₀ (execPacketFetch q slots
    s) := by
  unfold execPacketFetch
  refine .done ?_
  extract_lets x ready avail first n n₁ bytes get p t t₁ t₂
  have ht : Keeps s₀ t := h.onQ
  have ht₁ : Keeps s₀ t₁ := ht.onQueue
  have ht₂ : Keeps s₀ t₂ := .ite ht₁.onPwr.raise ht₁
  exact .ite h (.ite h.fetchStop (.ite h (.ite h.fetchStop ht₂.intake)))

theorem Answers.fetchError (h : Keeps s₀ s) {q : QueueId} : Answers s₀ (execFetchError q s) := by
  unfold execFetchError
  refine .next ?_
  extract_lets x
  exact .ite h.fetchStop h

theorem Keeps.loseOrder (h : Keeps s₀ s) {source : Nat} {o : Order} : Keeps s₀ (s.loseOrder source o) :=
  h.onQueue.refuse

theorem Keeps.resolve (h : Keeps s₀ s) {own : List OwnOrder} {k : Nat} {l : List Order} :
    Keeps s₀ (State.resolve own k l s) := by
  induction k generalizing s l with
  | zero => exact h
  | succ k ih =>
    unfold State.resolve
    split
    · exact h
    · extract_lets rest
      split
      · exact ih h.loseOrder
      · exact ih (.foldl h.onQueue fun t o ht => ht.loseOrder)

theorem Answers.arbitrationWindowEnd (h : Keeps s₀ s) : Answers s₀ (execArbitrationWindowEnd s) := by
  unfold execArbitrationWindowEnd
  refine .done ?_
  extract_lets l
  split
  · exact h
  · extract_lets w own
    exact .ite h h.onQ.resolve

theorem Keeps.admqEnable (h : Keeps s₀ s) {a : Nat} {cfg : Word} : Keeps s₀ (s.admqEnable a cfg) := by
  unfold State.admqEnable
  extract_lets q x t
  have ht : Keeps s₀ t := h.onQueue
  exact .ite h.setDbBad (.ite ht.clearErr.flushLate h.onQueue)

theorem Answers.admqEnable (h : Keeps s₀ s) {a : Nat} {cfg : Word} : Answers s₀ (execAdmqEnable a cfg s) :=
  .next (.ite h.discarded h.hostWake.admqEnable)

theorem Keeps.admqDisable (h : Keeps s₀ s) {a : Nat} {cfg : Word} : Keeps s₀ (s.admqDisable a cfg) := by
  unfold State.admqDisable
  extract_lets q
  exact .ite h.setDbBad (.ite h.clearErr.cancelQueue.onQueue.leaveQueue h.onQueue)

theorem Answers.admqDisable (h : Keeps s₀ s) {a : Nat} {cfg : Word} : Answers s₀ (execAdmqDisable a cfg s) :=
  .done (.ite h.discarded h.hostWake.admqDisable)

theorem Answers.nop (h : Keeps s₀ s) {q : QueueId} : Answers s₀ (execNop q s) :=
  .done (h.dispatch (fun _ _ ht => ht.finish))

theorem Answers.fence (h : Keeps s₀ s) {q : QueueId} : Answers s₀ (execFence q s) := by
  unfold execFence
  refine .done ?_
  refine .dispatch h ?_
  intro _ _ ht
  extract_lets sc
  exact ht.onInflight.waitOn

theorem Answers.queueCreate (h : Keeps s₀ s) {q : QueueId} : Answers s₀ (execQueueCreate q s) := by
  unfold execQueueCreate
  dsimp only
  refine .done ?_
  refine .dispatch h ?_
  intro _ _ ht
  split
  · exact ht.finish
  · exact .ite ht.finish ht.newObj.onQ.finish

theorem Answers.queueDestroy (h : Keeps s₀ s) {q : QueueId} : Answers s₀ (execQueueDestroy q s) := by
  unfold execQueueDestroy
  refine .done ?_
  refine .dispatch h ?_
  intro _ _ ht
  extract_lets k target t₁
  have ht₁ : Keeps s₀ t₁ := ht.endQueue
  exact .ite ht.finish (.ite ht.freezeBad.finish ht₁.finish.onQueue.leaveQueue)

theorem Answers.packetTimeout (h : Keeps s₀ s) {pid : Nat} : Answers s₀ (execPacketTimeout pid s) := by
  unfold execPacketTimeout
  refine .done ?_
  split
  · exact h
  · split
    · exact h
    · refine .ite h ?_
      split
      · extract_lets v
        exact h.dropPacketWaiter.syncFinish
      · exact h.dropPacketWaiter.syncFinish
      · exact h.onPwr.finish
      · exact h.onFleet.finish
      · exact h

theorem Answers.pilotStrictSlot (h : Keeps s₀ s) {p : Nat} : Answers s₀ (execPilotStrictSlot p s) := by
  unfold execPilotStrictSlot
  refine .next ?_
  extract_lets us again qs
  exact .ite (h.onPart.foldl (fun _ _ ht => ht.flushHeld)) h

/-! ### Operations of Partition -/

theorem Keeps.zeroShares (h : Keeps s₀ s) {m : Word} : Keeps s₀ (s.zeroShares m) := by
  unfold State.zeroShares
  extract_lets t
  have ht : Keeps s₀ t := h.foldl (fun _ _ ht => ht.zeroSync)
  exact ht.onRed

theorem Keeps.newKeys (h : Keeps s₀ s) {p : Nat} : Keeps s₀ (s.newKeys p) := h.onPart

theorem Keeps.strictCim (h : Keeps s₀ s) {d : Nat} : Keeps s₀ (s.strictCim d) := by
  unfold State.strictCim
  extract_lets big t
  have ht : Keeps s₀ t := h.onCim
  refine .foldl ht ?_
  intro _ _ ht1
  split
  · exact ht1.dropWork.finish
  · exact ht1.gangFault

theorem Answers.partCreate (h : Keeps s₀ s) {q : QueueId} {rng : Bool} : Answers s₀ (execPartCreate q rng s) := by
  unfold execPartCreate
  refine .done ?_
  refine .dispatch h ?_
  intro _ _ ht
  extract_lets n m strict ctxs bad t₁ t₂ dies t₃
  have ht₁ : Keeps s₀ t₁ := ht.onPart
  have ht₂ : Keeps s₀ t₂ := ht₁.newKeys.zeroShares
  have ht₃ : Keeps s₀ t₃ := .ite (ht₂.foldl (fun _ _ ht1 => ht1.strictCim)).strictPorts ht₂
  exact .ite ht.finish (.ite ht.finish (.ite ht.logOcc.finish (.ite ht.finish ht₃.retuneAll.finish)))

theorem Answers.partDestroy (h : Keeps s₀ s) {q : QueueId} : Answers s₀ (execPartDestroy q s) := by
  unfold execPartDestroy
  refine .done ?_
  refine .dispatch h ?_
  intro _ _ ht
  extract_lets n m t₁ t₂ t₃ t₄ t₅
  have ht₁ : Keeps s₀ t₁ := ht.endPartition
  have ht₂ : Keeps s₀ t₂ := ht₁.foldl (fun _ _ ht1 => ht1.sliceDown.onSlice)
  have ht₃ : Keeps s₀ t₃ := ht₂.onPwr
  have ht₄ : Keeps s₀ t₄ := ht₃.onPart
  have ht₅ : Keeps s₀ t₅ := ht₄.onWork
  exact .ite ht.finish (.retuneAll (.ite ht₅.strictPorts ht₅))

theorem Keeps.fillShares (h : Keeps s₀ s) {sl : Nat} : Keeps s₀ (s.fillShares sl) := by
  unfold State.fillShares
  extract_lets t t₁ t₂
  have ht : Keeps s₀ t := h.onMem (fun _ hm => hm.zero)
  have ht₁ : Keeps s₀ t₁ := ht.foldl (fun _ _ ht1 => ht1.onMem (fun _ hm => hm.zero))
  have ht₂ : Keeps s₀ t₂ := ht₁.onCim
  exact ht₂.onPart

theorem Answers.partScrubComplete (h : Keeps s₀ s) {p : Nat} : Answers s₀ (execPartScrubComplete p s) := by
  unfold execPartScrubComplete
  refine .done ?_
  split
  · exact h
  · refine .ite h ?_
    extract_lets t t₁
    have ht : Keeps s₀ t := h.foldl (fun _ _ ht => ht.fillShares)
    have ht₁ : Keeps s₀ t₁ := ht.onPart
    exact ht₁.finish

theorem Answers.partQuery (h : Keeps s₀ s) {q : QueueId} : Answers s₀ (execPartQuery q s) :=
  .done (h.dispatch (fun _ _ ht => ht.finish))

theorem Answers.coreLayup (h : Keeps s₀ s) {q : QueueId} : Answers s₀ (execCoreLayup q s) := by
  unfold execCoreLayup
  refine .done ?_
  refine .dispatch h ?_
  intro _ _ ht
  extract_lets c per
  exact .ite ht.finish (.ite ht.finish ht.layUp.finish)

theorem Answers.coreReturn (h : Keeps s₀ s) {q : QueueId} {bistPass : Bool} : Answers s₀ (execCoreReturn q bistPass s)
    := by
  unfold execCoreReturn
  refine .done ?_
  refine .dispatch h ?_
  intro _ _ ht
  extract_lets c x₁ t₁ t₂
  have ht₁ : Keeps s₀ t₁ := ht.onCoreAt
  have ht₂ : Keeps s₀ t₂ := ht₁.logOcc
  exact .ite ht.finish (.ite ht.finish (.finish (.ite ht₂.persist ht₂)))

theorem Answers.coreArrayError (h : Keeps s₀ s) {c : Nat} {unc : Bool} : Answers s₀ (execCoreArrayError c unc s) := by
  unfold execCoreArrayError
  refine .done ?_
  refine .ite h ?_
  refine .ite h.layUpHw ?_
  extract_lets x again n t
  have ht : Keeps s₀ t := h.onCoreAt.corrected
  exact .ite ht.layUpHw ht

theorem Keeps.resetPart (h : Keeps s₀ s) {n : Nat} {rng : Bool} : Keeps s₀ (s.resetPart n rng) := by
  unfold State.resetPart
  extract_lets t t₁ t₂
  have ht : Keeps s₀ t := h.endPartition.zeroShares
  have ht₁ : Keeps s₀ t₁ := ht.onPwr
  have ht₂ : Keeps s₀ t₂ := ht₁.onWork
  exact .ite ht₂.newKeys ht₂.logOcc.freezePart

theorem Answers.vfFlr (h : Keeps s₀ s) {n : Nat} {rng : Bool} : Answers s₀ (execVfFlr n rng s) := by
  unfold execVfFlr
  refine .done ?_
  refine .ite h ?_
  extract_lets s₁ t
  have hs₁ : Keeps s₀ s₁ := h.hostWake
  have ht : Keeps s₀ t := .ite hs₁.resetPart hs₁
  exact ht.onHost.onMgmt

theorem Answers.vfEnable (h : Keeps s₀ s) {on : Bool} : Answers s₀ (execVfEnable on s) :=
  .next (.ite h (.ite h.hostWake.onHost h.onHost))

/-! ### Operations of Fleet -/

theorem Keeps.takeMsg (h : Keeps s₀ s) {sel : FleetMsg → Bool} {f : Nat → FleetMsg → State → State} (hf : ∀ a b t,
    Keeps s₀ t → Keeps s₀ (f a b t)) : Keeps s₀ (takeMsg sel f s) := by
  unfold Machine.takeMsg
  refine .ite h ?_
  split
  · exact h
  · extract_lets t
    have ht : Keeps s₀ t := h.onFleet.giveCredit
    exact .ite ht.discardMsg (hf _ _ _ ht)

theorem Answers.fleetForward (h : Keeps s₀ s) {q : QueueId} : Answers s₀ (execFleetForward q s) := by
  unfold execFleetForward
  refine .done ?_
  refine .dispatch h ?_
  intro _ _ ht
  extract_lets d
  split
  · exact ht.finish
  · exact ht.nextMsgId_snd.onFleet.sendMsg

theorem Answers.fleetQuery (h : Keeps s₀ s) {q : QueueId} : Answers s₀ (execFleetQuery q s) := by
  unfold execFleetQuery
  refine .done ?_
  refine .dispatch h ?_
  intro _ _ ht
  extract_lets r
  exact ht.finish

theorem Answers.announceSend (h : Keeps s₀ s) : Answers s₀ (execAnnounceSend s) := by
  unfold execAnnounceSend
  refine .done ?_
  refine .ite h ?_
  extract_lets body m
  exact h.foldl (fun _ _ ht => ht.sendOn)

theorem Keeps.takeEarly (h : Keeps s₀ s) {sel : FleetMsg → Bool} {f : Nat → FleetMsg → State → State} (hf : ∀ a b t,
    Keeps s₀ t → Keeps s₀ (f a b t)) : Keeps s₀ (takeEarly sel f s) := by
  unfold Machine.takeEarly
  refine .ite h ?_
  split
  · exact h
  · extract_lets t
    have ht : Keeps s₀ t := h.onFleet.giveCredit
    exact .ite ht.discardMsg (hf _ _ _ ht)

theorem Answers.announceReceive (h : Keeps s₀ s) : Answers s₀ (execAnnounceReceive s) := by
  unfold execAnnounceReceive
  refine .done ?_
  refine .takeEarly h ?_
  intro _ _ _ ht
  extract_lets sn fid n₁ path peers body
  exact .ite ht.discardMsg (.ite (.ite ht.discardMsg ht.onFleet) (.ite ht ht.sendMsg))

theorem Keeps.number (h : Keeps s₀ s) {e : DWord × Word × List Nat × List DWord} {d : Nat} : Keeps s₀ (s.number e d)
    := by
  unfold State.number
  extract_lets t
  have ht : Keeps s₀ t := h.onDev
  exact ht.onFleet

theorem Keeps.sendAssign (h : Keeps s₀ s) {d : Nat} : Keeps s₀ (s.sendAssign d) := by
  unfold State.sendAssign
  extract_lets x body
  split
  · exact h
  · exact h.sendOn

theorem Answers.numberingRoundEnd (h : Keeps s₀ s) : Answers s₀ (execNumberingRoundEnd s) := by
  unfold execNumberingRoundEnd
  refine .done ?_
  refine .ite h ?_
  extract_lets l t old t₁
  have ht : Keeps s₀ t := h.onFleet
  have ht₁ : Keeps s₀ t₁ := ht.foldl (fun _ _ ht1 => ht1.number)
  refine .newRoutes ?_
  refine .foldl ?_ (fun _ _ ht1 => ht1.sendAssign)
  refine .foldl_fst ht₁ ?_
  intro _ _ ht1
  split
  · exact ht1.number
  · exact ht1.logOcc

theorem Keeps.returnAfresh (h : Keeps s₀ s) {rng : Bool} : Keeps s₀ (s.returnAfresh rng) := by
  unfold State.returnAfresh
  extract_lets t t₁
  have ht : Keeps s₀ t := h.foldl (fun _ _ ht => ht.resetPart)
  have ht₁ : Keeps s₀ t₁ := ht.onQ
  exact ht₁.onFleet

theorem Answers.assignReceive (h : Keeps s₀ s) {rng : Bool} : Answers s₀ (execAssignReceive rng s) := by
  unfold execAssignReceive
  refine .done ?_
  refine .takeEarly h ?_
  intro _ _ _ ht
  extract_lets fid last fresh t₁ t₂ t₃
  have ht₁ : Keeps s₀ t₁ := .ite ht.returnAfresh ht.onFleet
  have ht₂ : Keeps s₀ t₂ := ht₁.onFleet
  have ht₃ : Keeps s₀ t₃ := .ite ht₂.saveFleetId ht₂
  exact .ite (.ite ht.discardMsg ht.sendOn) (.ite ht.discardMsg ht₃.setOwn.installRoutes.stage14)

theorem Answers.routesReceive (h : Keeps s₀ s) : Answers s₀ (execRoutesReceive s) := by
  unfold execRoutesReceive
  refine .done ?_
  refine .takeEarly h ?_
  intro _ _ _ ht
  extract_lets t₁
  have ht₁ : Keeps s₀ t₁ := ht.installRoutes
  exact .ite ht₁ ht₁.onFleet

theorem Answers.beatSend (h : Keeps s₀ s) : Answers s₀ (execBeatSend s) := by
  unfold execBeatSend
  refine .done ?_
  refine .ite h ?_
  extract_lets body
  exact .ite (h.foldl (fun _ _ ht => ht.sendMsg)) (.ite h.sendMsg h)

theorem Answers.beatReceive (h : Keeps s₀ s) : Answers s₀ (execBeatReceive s) := by
  unfold execBeatReceive
  refine .done ?_
  refine .takeEarly h ?_
  intro _ _ _ ht
  refine .ite ?_ (.ite ht.onFleet ht)
  extract_lets now t₁
  have ht₁ : Keeps s₀ t₁ := ht.onDev
  exact .ite ht₁.onFleet.stage14.newRoutes ht.onDev

theorem Keeps.dropPeer (h : Keeps s₀ s) {d : Nat} : Keeps s₀ (s.dropPeer d) := by
  unfold State.dropPeer
  extract_lets f pids t t₁ t₂
  have ht : Keeps s₀ t := h.onFleet
  have ht₁ : Keeps s₀ t₁ := ht.foldl (fun _ _ ht1 => ht1.finish)
  have ht₂ : Keeps s₀ t₂ := ht₁.foldl (fun _ _ ht1 => ht1.orphan)
  exact ht₂.foldl (fun _ _ ht1 => ht1.rwEnd)

theorem Keeps.loseWorker (h : Keeps s₀ s) {d : Nat} : Keeps s₀ (s.loseWorker d) := by
  unfold State.loseWorker
  extract_lets t t₁
  have ht : Keeps s₀ t := h.onDev.logOcc
  have ht₁ : Keeps s₀ t₁ := ht.foldl (fun _ _ ht1 => ht1.sendMsg)
  exact ht₁.dropPeer.newRoutes

theorem Keeps.goAdrift (h : Keeps s₀ s) : Keeps s₀ s.goAdrift := by
  unfold State.goAdrift
  extract_lets t pids t₁
  have ht : Keeps s₀ t := h.setOwn.logOcc
  have ht₁ : Keeps s₀ t₁ := ht.onFleet
  exact ht₁.foldl (fun _ _ ht1 => ht1.finish)

theorem Answers.workerAdrift (h : Keeps s₀ s) : Answers s₀ (execWorkerAdrift s) := .done (.ite h.goAdrift h)

theorem Answers.lossReceive (h : Keeps s₀ s) : Answers s₀ (execLossReceive s) := by
  unfold execLossReceive
  refine .done ?_
  refine .takeMsg h ?_
  intro _ _ _ ht
  extract_lets d
  exact .ite ht.discardMsg ht.onDev.dropPeer

theorem Keeps.accept (h : Keeps s₀ s) {m : FleetMsg} : Keeps s₀ (s.accept m) := h.onFleet

theorem Answers.forwardReceive (h : Keeps s₀ s) : Answers s₀ (execForwardReceive s) := by
  unfold execForwardReceive
  refine .done ?_
  refine .takeMsg h ?_
  intro _ _ _ ht
  refine .ite ht.discardMsg ?_
  split
  · exact ht
  · exact ht.sendMsg
  · extract_lets k q p t₁ t₂ t₃ t₄ framed
    have ht₁ : Keeps s₀ t₁ := ht.accept.onQ
    have ht₂ : Keeps s₀ t₂ := ht₁.onFleet
    have ht₃ : Keeps s₀ t₃ := ht₂.onQueue
    have ht₄ : Keeps s₀ t₄ := .ite ht₃.onPwr.raise ht₃
    refine .ite ht₄.onQueue.reject ?_
    refine .ite ?_ ht₄.intake
    split <;> exact ht₄.reject

theorem Keeps.freed (h : Keeps s₀ s) {id : DWord} {src : Nat} : Keeps s₀ (s.freed id src) := h.onFleet.sendHeld

theorem Answers.statusReplyReceive (h : Keeps s₀ s) : Answers s₀ (execStatusReplyReceive s) := by
  unfold execStatusReplyReceive
  refine .done ?_
  refine .takeMsg h ?_
  intro _ _ _ ht
  extract_lets id t₁
  have ht₁ : Keeps s₀ t₁ := ht.freed
  split
  · exact ht₁
  · exact ht₁.onFleet.finish

theorem Keeps.rwAnswered (h : Keeps s₀ s) {id : DWord} : Keeps s₀ (s.rwAnswered id) := by
  unfold State.rwAnswered
  refine .foldl h ?_
  intro _ _ ht
  split
  · exact ht
  · extract_lets t₁
    have ht₁ : Keeps s₀ t₁ := ht.onRw
    exact .ite ht₁.rwEnd ht₁

theorem Answers.readDataReceive (h : Keeps s₀ s) : Answers s₀ (execReadDataReceive s) := by
  unfold execReadDataReceive
  refine .done ?_
  refine .takeMsg h ?_
  intro _ _ _ ht
  extract_lets tag off data t₁
  have ht₁ : Keeps s₀ t₁ := by
    unfold t₁
    refine .foldl ht ?_
    intro _ _ ht1
    extract_lets x₁
    split
    · exact .ite ht1.emit ht1
    · exact ht1
  split
  · extract_lets t₂
    have ht₂ : Keeps s₀ t₂ := ht.onFleet
    split
    · exact ht₂
    · exact ht₂.openMirror
  · exact ht₁.rwAnswered

theorem Answers.refusalReceive (h : Keeps s₀ s) : Answers s₀ (execRefusalReceive s) := by
  unfold execRefusalReceive
  refine .done ?_
  refine .takeMsg h ?_
  intro _ _ _ ht
  extract_lets id t₁
  have ht₁ : Keeps s₀ t₁ := ht.freed
  split
  · exact ht.onFleet.finish
  · refine .foldl ht₁ ?_
    intro _ _ ht1
    extract_lets x₁
    exact .ite ht1.rwEnd ht1

theorem Answers.remoteWriteReceive (h : Keeps s₀ s) : Answers s₀ (execRemoteWriteReceive s) := by
  unfold execRemoteWriteReceive
  refine .done ?_
  refine .ite h ?_
  refine .takeMsg h ?_
  intro _ _ _ ht
  refine .ite ht.sendAck ?_
  extract_lets t₁ a data
  have ht₁ : Keeps s₀ t₁ := ht.accept
  exact .ite (.ite (ht₁.onMem (fun _ hm => hm.store)).sendAck ht₁.sendRefusal) (.ite ht₁.fleetWrite8.sendAck
      ht₁.sendRefusal)

theorem Keeps.sendData (h : Keeps s₀ s) {dst tag : Nat} {data : List Byte} {forPart : Option Nat} : Keeps s₀
    (s.sendData dst tag data forPart) := by
  unfold State.sendData
  exact h.sendMsg

theorem Answers.remoteReadReceive (h : Keeps s₀ s) : Answers s₀ (execRemoteReadReceive s) := by
  unfold execRemoteReadReceive
  refine .done ?_
  refine .ite h ?_
  refine .takeMsg h ?_
  intro _ _ _ ht
  extract_lets a n₁ tag unit
  exact .ite ht.discardMsg (.ite (.ite (.ite ht.sendRefusal ht.sendData) ht.sendRefusal) (.ite ht.sendData
      ht.sendRefusal))

theorem Answers.eventImportReadReceive (h : Keeps s₀ s) : Answers s₀ (execEventImportReadReceive s) := by
  unfold execEventImportReadReceive
  refine .done ?_
  refine .takeMsg h ?_
  intro _ _ _ ht
  extract_lets tok tag
  split
  · exact ht.addImporter.sendData
  · exact ht.sendRefusal

theorem Keeps.syncIn (h : Keeps s₀ s) {m : FleetMsg} {f : State → State} (hf : ∀ t, Keeps s₀ t → Keeps s₀ (f t)) :
    Keeps s₀ (s.syncIn m f) := by
  unfold State.syncIn
  exact .ite h.onSync.sendAck (.ite h.onFleet.sendAck (hf _ h.accept))

theorem Keeps.countResolved (h : Keeps s₀ s) {src counter epoch : Nat} {n : DWord} : Keeps s₀ (s.countResolved src
    counter epoch n) := by
  unfold State.countResolved
  exact h.onFleet

theorem Keeps.remoteSync (h : Keeps s₀ s) {kind : SyncKind} {m : FleetMsg} {n : Nat} : Keeps s₀ (s.remoteSync kind m
    n) := by
  unfold State.remoteSync
  extract_lets obj part typed s₁
  have hs₁ : Keeps s₀ s₁ := .ite h.countResolved h
  exact .ite hs₁.submit hs₁.logOcc.sendAck

theorem Answers.tallyAddRemoteReceive (h : Keeps s₀ s) : Answers s₀ (execTallyAddRemoteReceive s) :=
  .done (h.takeMsg (fun _ _ _ ht => ht.syncIn (fun _ ht1 => ht1.remoteSync)))

theorem Answers.semRemoteReceive (h : Keeps s₀ s) : Answers s₀ (execSemRemoteReceive s) :=
  .done (h.takeMsg (fun _ _ _ ht => ht.syncIn (fun _ ht1 => ht1.remoteSync)))

theorem Answers.mirrorUpdateReceive (h : Keeps s₀ s) : Answers s₀ (execMirrorUpdateReceive s) := by
  unfold execMirrorUpdateReceive
  refine .done ?_
  refine .takeMsg h ?_
  intro _ _ _ ht
  refine .syncIn ht ?_
  intro _ ht1
  extract_lets v l t₁
  have ht₁ : Keeps s₀ t₁ := by
    unfold t₁
    refine .foldl ht1 ?_
    intro _ _ ht2
    refine .ite ht2 ?_
    extract_lets t₂
    have ht₂ : Keeps s₀ t₂ := ht2.raiseMirror
    exact .ite ht₂.orphan ht₂
  exact ht₁.sendAck

theorem Answers.pairOpenReceive (h : Keeps s₀ s) : Answers s₀ (execPairOpenReceive s) := by
  unfold execPairOpenReceive
  refine .done ?_
  refine .takeMsg h ?_
  intro _ _ _ ht
  extract_lets c
  split
  · exact ht.accept.sendAck
  · exact .ite ht.sendAck ht.accept.onCons.sendAck

theorem Answers.fleetPairCfgWrite (h : Keeps s₀ s) {v : Word} : Answers s₀ (execFleetPairCfgWrite v s) :=
  .done (.ite h.discarded h.hostWake.pairCfg)

theorem Answers.fleetSave (h : Keeps s₀ s) {v : Word} : Answers s₀ (execFleetSave v s) :=
  .done (.ite h.discarded h.hostWake.fleetCtrl)

theorem Answers.fleetForget (h : Keeps s₀ s) {v : Word} : Answers s₀ (execFleetForget v s) :=
  .done (.ite h.discarded h.hostWake.fleetCtrl)

theorem Answers.fleetClearId (h : Keeps s₀ s) {v : Word} : Answers s₀ (execFleetClearId v s) :=
  .done (.ite h.discarded h.hostWake.fleetCtrl)

theorem Keeps.rwSend (h : Keeps s₀ s) {c : Nat} {data : List Byte} : Keeps s₀ (s.rwSend c data) := by
  unfold State.rwSend
  extract_lets x d part space read parts
  refine .foldl h ?_
  intro _ _ ht
  extract_lets a bytes tag t₁
  have ht₁ : Keeps s₀ t₁ := ht.onRw
  exact .ite ht₁.sendMsg ht.nextMsgId_snd.onRw.sendMsg

theorem Answers.rwStart (h : Keeps s₀ s) {c : Nat} {v : Word} {data : List Byte} : Answers s₀ (execRwStart c v data s)
    := by
  unfold execRwStart
  refine .done ?_
  refine .ite h.discarded ?_
  extract_lets s₁ s₂ x unit
  have hs₁ : Keeps s₀ s₁ := h.hostWake
  have hs₂ : Keeps s₀ s₂ := hs₁.onRw
  refine .ite hs₁ ?_
  refine .ite hs₁.onRw ?_
  refine .ite hs₂.rwEnd ?_
  split
  · exact hs₂.rwEnd
  · exact hs₂.rwSend

/-! ### Operations of Jtag -/

/-- A command of the TAP answers, but for the fault while TEST_MODE is high (R488). -/
theorem Keeps.tapCommand {f : State → State} (h : Keeps s (f s)) :
    Answers s (tapCommand f s) ∨ (tapCommand f s = .fault .testModeHigh ∧ s.jtag.testMode = true) := by
  unfold Machine.tapCommand
  split
  next htest => exact .inr ⟨rfl, htest⟩
  · exact .inl (.next h)

theorem Keeps.tapBypass (h : Keeps s₀ s) {i : TapIr} {tdi : List Bool} : Keeps s₀ (s.tapBypass i tdi) := h.onJtag.emit

theorem Keeps.tapBoundary (h : Keeps s₀ s) {i : TapIr} {pins tdi : List Bool} : Keeps s₀ (s.tapBoundary i pins tdi) :=
    by
  unfold State.tapBoundary
  exact h.onJtag.emit

theorem Keeps.tapTest (h : Keeps s₀ s) {i : TapIr} {pins tdi : List Bool} : Keeps s₀ (s.tapTest i pins tdi) := by
  unfold State.tapTest
  refine .ite h.tapBoundary ?_
  split
  · exact h.tapBypass
  · exact h.tapBypass
  · exact h.tapBoundary

/-! ### Operations of KernelMem -/

theorem Keeps.endLt (h : Keeps s₀ s) {g r va : Nat} : Keeps s₀ (s.endLt g r va) := by
  unfold State.endLt
  extract_lets x b s₁
  have hs₁ : Keeps s₀ s₁ := h.onGang
  split
  · exact hs₁.foldl (fun _ _ ht => ht.putNarrow)
  · exact hs₁.gangFault

theorem Keeps.give (h : Keeps s₀ s) {x : MissLoad} {l : List (Byte × Bool)} : Keeps s₀ (s.give x l) := by
  unfold State.give
  split
  · refine .ite h.gangFault ?_
    extract_lets v
    exact h.onGang
  · exact h.localWrite
  · extract_lets t
    have ht : Keeps s₀ t := h.onGang
    exact .ite ht.endLt ht

theorem Keeps.addMiss (h : Keeps s₀ s) {core c : Nat} {mask : DWord} {x : MissLoad} : Keeps s₀ (s.addMiss core c mask
    x) := by
  unfold State.addMiss
  extract_lets line
  split
  · exact h.onMemRest
  · split
    · exact h.onMemRest
    · exact h

theorem Keeps.loadPart (h : Keeps s₀ s) {core c : Nat} {mask : DWord} {x : MissLoad} : Keeps s₀ (s.loadPart core c
    mask x) := by
  unfold State.loadPart
  extract_lets s₁ s₂
  have hs₁ : Keeps s₀ s₁ := h.drainFor
  have hs₂ : Keeps s₀ s₂ := hs₁.onMemRest
  refine .ite hs₂.addMiss ?_
  split
  · exact hs₂.plruTouch.give
  · exact hs₂.addMiss

theorem Keeps.waitMiss (h : Keeps s₀ s) {g : Nat} : Keeps s₀ (s.waitMiss g) := .ite h.onGang h

theorem Keeps.runLoad (h : Keeps s₀ s) {g : Nat} {mask : DWord} {xs : List MissLoad} {host : HostMem} : Keeps s₀
    (s.runLoad g mask xs host) := by
  unfold State.runLoad
  dsimp only
  refine .waitMiss ?_
  refine .foldl_fst h.flushAdds ?_
  intro _ _ ht
  split
  · exact ht.meetEccVa.give
  · exact ht.loadPart

theorem Keeps.load (h : Keeps s₀ s) {g cls : Nat} {pre : State → List Check} {xs : List MissLoad} {host : HostMem} :
    Keeps s₀ (s.load g cls pre xs host) := by
  unfold State.load
  extract_lets mask checks
  exact .ite h (h.instr (fun _ ht => ht.runLoad))

theorem Keeps.laneLoad (h : Keeps s₀ s) {g cls vd va n : Nat} {signed : Bool} {host : HostMem} : Keeps s₀ (s.laneLoad
    g cls vd va n signed host) := by
  unfold State.laneLoad
  exact h.load

theorem Answers.ld (h : Keeps s₀ s) {g vd va len : Nat} {signed : Bool} {host : HostMem} : Answers s₀ (execLd g vd va
    len signed host s) := by
  unfold execLd
  exact .done h.laneLoad

theorem Answers.ldConst (h : Keeps s₀ s) {g vd va len : Nat} {signed : Bool} {host : HostMem} : Answers s₀
    (execLdConst g vd va len signed host s) := by
  unfold execLdConst
  exact .done h.laneLoad

theorem Answers.ldTile (h : Keeps s₀ s) {g : Nat} {dst : TileDst} {va len : Nat} {host : HostMem} : Answers s₀
    (execLdTile g dst va len host s) := by
  unfold execLdTile
  refine .done ?_
  split
  · exact h.laneLoad
  · extract_lets off
    exact h.load

theorem Answers.ldLt (h : Keeps s₀ s) {g vd ua : Nat} {host : HostMem} : Answers s₀ (execLdLt g vd ua host s) := by
  unfold execLdLt
  refine .done ?_
  extract_lets va mask xs checks
  exact .ite h (h.instr (fun _ ht => ht.runLoad))

theorem Answers.missReturn (h : Keeps s₀ s) {core r : Nat} {host : HostMem} : Answers s₀ (execMissReturn core r host
    s) := by
  unfold execMissReturn
  dsimp only
  refine .done ?_
  split
  · exact h
  · refine .ite h ?_
    split
    · exact (h.onMemRest.noteRefusal.foldl (fun _ _ ht => .ite ht ht.onGang)).foldl (fun _ _ ht => ht.gangFault)
    · exact (h.onMemRest.meetEccVa.meetLighter.nearFill.foldl (fun _ _ ht => .ite ht ht.onGang)).foldl (fun _ _ ht =>
        ht.give)

theorem Answers.st (h : Keeps s₀ s) {g va vs : Nat} {acc : StoreAcc} : Answers s₀ (execSt g va vs acc s) := by
  unfold execSt
  refine .done ?_
  extract_lets len x c checks
  exact .ite h (h.instr (fun _ ht => ht.flushAdds.foldl (fun _ _ ht1 => ht1.meetEccVa.coreStore)))

theorem Answers.stLt (h : Keeps s₀ s) {g ua vs : Nat} : Answers s₀ (execStLt g ua vs s) := by
  unfold execStLt
  refine .done ?_
  extract_lets x c va prot checks vals b
  exact .ite h (h.instr (fun _ ht => ht.flushAdds.foldl (fun _ _ ht1 => ht1.coreStore)))

theorem Keeps.cluster (h : Keeps s₀ s) {g va n : Nat} {reads : Bool} {pre : State → List Check} {f : Nat → Nat → Nat →
    State → State} (hf : ∀ a b c t, Keeps s₀ t → Keeps s₀ (f a b c t)) : Keeps s₀ (s.cluster g va n reads pre f) := by
  unfold State.cluster
  extract_lets x checks
  refine .ite h ?_
  refine .instr h ?_
  intro _ ht
  refine .foldl ht ?_
  intro _ _ ht1
  extract_lets a
  exact hf _ _ _ _ ht1

theorem Answers.ldC (h : Keeps s₀ s) {g vd va len : Nat} {signed : Bool} : Answers s₀ (execLdC g vd va len signed s)
    := by
  unfold execLdC
  exact .done (h.cluster (fun _ _ _ _ ht => ht.give))

theorem Answers.stC (h : Keeps s₀ s) {g va vs len : Nat} : Answers s₀ (execStC g va vs len s) := by
  unfold execStC
  refine .done ?_
  extract_lets x
  exact h.cluster (fun _ _ _ _ ht => ht.localWrite)

theorem Answers.atomC (h : Keeps s₀ s) {g : Nat} {op : AtomOp} {vd va vs vt : Nat} : Answers s₀ (execAtomC g op vd va
    vs vt s) := by
  unfold execAtomC
  refine .done ?_
  extract_lets x
  refine .cluster h ?_
  intro _ _ _ _ ht
  extract_lets l new
  exact ht.give.localWrite

theorem Keeps.fenceOps (h : Keeps s₀ s) {g : Nat} : Keeps s₀ (s.fenceOps g) := h.release.drainComb

theorem Answers.fenceBlk (h : Keeps s₀ s) {g : Nat} : Answers s₀ (execFenceBlk g s) :=
  .done (h.instr (fun _ ht => ht.fenceOps))

theorem Answers.fenceClu (h : Keeps s₀ s) {g : Nat} : Answers s₀ (execFenceClu g s) :=
  .done (h.instr (fun _ ht => ht.fenceOps))

theorem Answers.fenceDev (h : Keeps s₀ s) {g : Nat} : Answers s₀ (execFenceDev g s) :=
  .done (h.instr (fun _ ht => ht.fenceOps.acquire))

theorem Answers.fenceSys (h : Keeps s₀ s) {g : Nat} : Answers s₀ (execFenceSys g s) :=
  .done (h.instr (fun _ ht => ht.fenceOps.acquire))

/-! ### Operations of KernelCtl -/

theorem Answers.bra (h : Keeps s₀ s) {g p label : Nat} : Answers s₀ (execBra g p label s) :=
  .done (h.instr (fun _ ht => ht.onGang))

theorem Answers.join (h : Keeps s₀ s) {g label : Nat} : Answers s₀ (execJoin g label s) :=
  .done (h.instr (fun _ ht => ht.onGang))

theorem Answers.trap (h : Keeps s₀ s) {g : Nat} : Answers s₀ (execTrap g s) :=
  .done (h.issue (fun _ ht => ht.gangFault))

theorem Keeps.resume (h : Keeps s₀ s) {ok : Bool} {g : Nat} : Keeps s₀ (s.resume ok g) := h.onGang

theorem Keeps.openBar (h : Keeps s₀ s) {gs : List Nat} {at_ : GangWait → Bool} : Keeps s₀ (s.openBar gs at_) :=
  .ite (h.foldl (fun _ _ ht => .ite ht.resume ht)) h

theorem Keeps.checkBars (h : Keeps s₀ s) {b : Nat} : Keeps s₀ (s.checkBars b) := by
  unfold State.checkBars
  extract_lets t c x
  have ht : Keeps s₀ t := h.openBar
  exact .ite ht.openBar ht

theorem Answers.barBlk (h : Keeps s₀ s) {g p ut : Nat} : Answers s₀ (execBarBlk g p ut s) := by
  unfold execBarBlk
  refine .done ?_
  refine .instr h ?_
  intro _ ht
  extract_lets t₁
  have ht₁ : Keeps s₀ t₁ := ht.fenceOps.onGang
  exact ht₁.checkBars

theorem Answers.barClu (h : Keeps s₀ s) {g p ut : Nat} : Answers s₀ (execBarClu g p ut s) := by
  unfold execBarClu
  refine .done ?_
  refine .instr h ?_
  intro _ ht
  extract_lets t₁
  have ht₁ : Keeps s₀ t₁ := ht.fenceOps.onGang
  exact ht₁.checkBars

theorem Answers.barrierTimeout (h : Keeps s₀ s) {g : Nat} : Answers s₀ (execBarrierTimeout g s) := by
  unfold execBarrierTimeout
  refine .done ?_
  split
  · exact .ite h.resume h
  · exact h

theorem Keeps.endHoldings (h : Keeps s₀ s) {g : Nat} : Keeps s₀ (s.endHoldings g) :=
  h.foldl (fun _ _ ht => .ite ht ht.abandonAt)

theorem Keeps.endBlock (h : Keeps s₀ s) {b : Nat} : Keeps s₀ (s.endBlock b) := by
  unfold State.endBlock
  extract_lets x t
  have ht : Keeps s₀ t := h.drainComb.onBlk
  exact ht.onLaunch.freeCluster

theorem Keeps.endGang (h : Keeps s₀ s) {g : Nat} : Keeps s₀ (s.endGang g) := by
  unfold State.endGang
  extract_lets b f t t₁ t₂
  have ht : Keeps s₀ t := h.flushAdds.endHoldings
  have ht₁ : Keeps s₀ t₁ := ht.onBlk
  have ht₂ : Keeps s₀ t₂ := ht₁.checkBars
  exact .ite ht₂.endBlock ht₂

theorem Answers.exitLanes (h : Keeps s₀ s) {g : Nat} : Answers s₀ (execExitLanes g s) := by
  unfold execExitLanes
  refine .done ?_
  refine .ite h ?_
  refine .issue h ?_
  intro _ ht
  extract_lets x ex
  exact .ite ht.onGang.endGang ht.onGang

theorem Answers.flagCombine (h : Keeps s₀ s) {b : Nat} : Answers s₀ (execFlagCombine b s) := by
  unfold execFlagCombine
  refine .done ?_
  extract_lets x
  exact .ite h.onLaunch h

theorem Answers.movStart (h : Keeps s₀ s) {g ud us : Nat} : Answers s₀ (execMovStart g ud us s) := by
  unfold execMovStart
  refine .done ?_
  extract_lets off d checks
  exact .ite h (h.instr (fun _ ht => ht.fresh_snd.onCoreAt.onGang))

theorem Answers.movWait (h : Keeps s₀ s) {g p us ut : Nat} : Answers s₀ (execMovWait g p us ut s) := by
  unfold execMovWait
  refine .done ?_
  extract_lets k
  exact h.instr (fun _ ht => .ite ht.onGang ht.onGang)

theorem Keeps.moverPart_snd (h : Keeps s₀ s) {core : Nat} {mask : DWord} {tag : Word} {c va n : Nat}
    {host : List (Option Byte)} : Keeps s₀ (s.moverPart core mask tag c va n host).2 := by
  unfold State.moverPart
  extract_lets fills s₁ base s₂ data e
  have hs₁ : Keeps s₀ s₁ := h.meetLighter
  have hs₂ : Keeps s₀ s₂ := h.meetLighter
  clear_value s₁ s₂ data
  split
  · exact hs₁
  · split
    · exact h.plruTouch
    · exact .ite hs₂.nearFill hs₂

theorem Keeps.moverRead_snd (h : Keeps s₀ s) {core : Nat} {mask : DWord} {tag : Word} {c k va n : Nat}
    {host : List (Option Byte)} : Keeps s₀ (State.moverRead core mask tag c k va n host s).2 := by
  induction k generalizing s va n host with
  | zero => exact h
  | succ k ih =>
    unfold State.moverRead
    split
    · exact h
    · exact ih h.moverPart_snd

theorem Keeps.moveElem_fst {x : State × List (Option Byte)} (h : Keeps s₀ x.1) {core b : Nat} {l : Launch} {d :
    MoverDesc}
    {e : Nat × Nat} : Keeps s₀ (State.moveElem core b l d x e).1 := by
  unfold State.moveElem
  extract_lets s₁ mask fromHost
  have hread : Keeps s₀ (if d.srcLocal then (s₁.localRead b e.1 d.elem, s₁)
      else s₁.moverRead core mask (s₁.tagOf l.pid) l.ctx (d.elem / 512 + 2) e.1 d.elem x.2).2 := by
    split
    · exact h
    · exact h.moverRead_snd
  split
  next data t ht =>
  rw [ht] at hread
  exact .ite hread.moverWrite (.ite hread.localWrite hread)

theorem Keeps.wakeMov (h : Keeps s₀ s) {core : Nat} : Keeps s₀ (s.wakeMov core) := by
  unfold State.wakeMov
  refine .foldl h ?_
  intro _ _ ht
  split
  · exact .ite ht.resume ht
  · exact ht

theorem Keeps.descFault (h : Keeps s₀ s) {g b n code addr : Nat} : Keeps s₀ (s.descFault g b n code addr) :=
  .ite h.gangFault h.logFault.kill

theorem Answers.moverDescriptorComplete (h : Keeps s₀ s) {core : Nat} {host : HostMem} :
    Answers s₀ (execMoverDescriptorComplete core host s) := by
  unfold execMoverDescriptorComplete
  refine .done ?_
  split
  · extract_lets l t u
    refine .ite h ?_
    have ht : Keeps s₀ t := h.onCoreAt
    split
    · exact ht.noteRefusal.descFault
    · have hu : Keeps s₀ u := .ite ht (.foldl ht fun t e ht => ht.meetEccVa)
      exact (Keeps.foldl_fst hu fun x e hx => hx.moveElem_fst).wakeMov
  · exact h

theorem Answers.chdAlloc (h : Keeps s₀ s) {g ud us : Nat} : Answers s₀ (execChdAlloc g ud us s) := by
  unfold execChdAlloc
  refine .done ?_
  refine .instr h ?_
  intro _ ht
  extract_lets sl l n z s₁ place base
  have hs₁ : Keeps s₀ s₁ := ht.loseStatus
  split
  · extract_lets t₁
    have ht₁ : Keeps s₀ t₁ := hs₁.newObj
    exact ht₁.onGang
  · exact hs₁.logOcc.onGang

theorem Answers.chdFree (h : Keeps s₀ s) {g us : Nat} : Answers s₀ (execChdFree g us s) := by
  unfold execChdFree
  extract_lets va l own
  refine .done (.instr h fun t ht => ?_)
  extract_lets u
  have hu : Keeps s₀ u := ht.loseStatus
  split
  · exact hu
  next k _ _ =>
    refine .ite hu.gangFault ?_
    have hrelease : Keeps s₀ (u.releaseRef k fun o => { o with creation := false }).1 := hu.releaseRef_fst
    split
    next v hv => rwa [hv] at hrelease
    next v hv =>
      rw [hv] at hrelease
      exact hrelease.gangFault

theorem Answers.chdHdl (h : Keeps s₀ s) {g ud us : Nat} : Answers s₀ (execChdHdl g ud us s) := by
  unfold execChdHdl
  refine .done ?_
  refine .instr h ?_
  intro _ ht
  extract_lets h₁
  exact ht.onGang

theorem Answers.cimMvm (h : Keeps s₀ s) {g ud us : Nat} : Answers s₀ (execCimMvm g ud us s) := by
  unfold execCimMvm
  refine .done ?_
  extract_lets d die m sl checks
  refine .ite h ?_
  refine .instr h ?_
  intro _ ht
  extract_lets l o t₁
  have ht₁ : Keeps s₀ t₁ := ht.onCim
  exact ht₁.onGang.wakeSlice

theorem Answers.contextStop (h : Keeps s₀ s) {c : Nat} : Answers s₀ (execContextStop c s) :=
  .done (.ite h.stopContext h)

/-! ### Operations of KernelMath -/

theorem Answers.mma (h : Keeps s₀ s) {g fa fb t va ub us : Nat} : Answers s₀ (execMma g fa fb t va ub us s) := by
  unfold execMma
  refine .done ?_
  refine .ite h ?_
  extract_lets mx w x ob os
  refine .instr h ?_
  intro _ ht
  extract_lets lb
  exact ht.onGang

theorem Answers.mmaComplete (h : Keeps s₀ s) {g : Nat} {ok : Bool} : Answers s₀ (execMmaComplete g ok s) := by
  unfold execMmaComplete
  refine .done ?_
  split
  · exact h
  · refine .ite h ?_
    refine .ite h.onGang ?_
    extract_lets t
    have ht : Keeps s₀ t := h.logOcc
    exact .ite ht.layUpHw ht.onGang

theorem Answers.accZero (h : Keeps s₀ s) {g t : Nat} : Answers s₀ (execAccZero g t s) :=
  .done (.ite h (h.instr (fun _ ht => ht.onGang)))

theorem Answers.accRd (h : Keeps s₀ s) {g vd t : Nat} : Answers s₀ (execAccRd g vd t s) :=
  .done (.ite h (h.instr (fun _ ht => ht.onGang)))

theorem Answers.accWr (h : Keeps s₀ s) {g t vs : Nat} : Answers s₀ (execAccWr g t vs s) :=
  .done (.ite h (h.instr (fun _ ht => ht.onGang)))

theorem Answers.accSt (h : Keeps s₀ s) {g us t : Nat} : Answers s₀ (execAccSt g us t s) := by
  unfold execAccSt
  refine .done ?_
  refine .ite h ?_
  extract_lets x off
  exact h.instr (fun _ ht => ht.localWrite)

theorem Keeps.noteAmax (h : Keeps s₀ s) {g a : Nat} {v : Num} : Keeps s₀ (s.noteAmax g a v) := .ite h.raiseAmax h

theorem Keeps.cvtLane (h : Keeps s₀ s) {g fs fd : Nat} {r : RMode} {vd vs a : Nat} {x : Int} {lane : Nat} : Keeps s₀
    (s.cvtLane g fs fd r vd vs a x lane) := by
  unfold State.cvtLane
  extract_lets v s₁
  have hs₁ : Keeps s₀ s₁ := h.noteAmax.drew
  exact .onGang (.ite hs₁.fresh_snd.putNarrow hs₁.putNarrow)

theorem Answers.cvt (h : Keeps s₀ s) {g fs fd : Nat} {r : RMode} {vd vs a : Nat} : Answers s₀ (execCvt g fs fd r vd vs
    a s) := by
  unfold execCvt
  exact .done (h.instr (fun _ ht => ht.foldl (fun _ _ ht1 => ht1.cvtLane)))

theorem Answers.cvtMx (h : Keeps s₀ s) {g fs fd : Nat} {r : RMode} {vd vs ud a : Nat} {us : Option Nat} : Answers s₀
    (execCvtMx g fs fd r vd vs ud a us s) := by
  unfold execCvtMx
  refine .done ?_
  refine .instr h ?_
  intro _ ht
  extract_lets x sc odd t₁
  have ht₁ : Keeps s₀ t₁ := ht.foldl (fun _ _ ht1 => ht1.cvtLane)
  exact ht₁.onGang

theorem Answers.amaxRd (h : Keeps s₀ s) {g ud a : Nat} : Answers s₀ (execAmaxRd g ud a s) :=
  .done (h.instr (fun _ ht => ht.onGang))

theorem Answers.amaxScl (h : Keeps s₀ s) {g ud a fd : Nat} : Answers s₀ (execAmaxScl g ud a fd s) :=
  .done (h.instr (fun _ ht => ht.onGang))

theorem Answers.flgRd (h : Keeps s₀ s) {g ud : Nat} : Answers s₀ (execFlgRd g ud s) :=
  .done (h.instr (fun _ ht => ht.onGang))

theorem Answers.flgClr (h : Keeps s₀ s) {g : Nat} : Answers s₀ (execFlgClr g s) :=
  .done (h.instr (fun _ ht => ht.onGang))

theorem Keeps.vecLane (h : Keeps s₀ s) {g : Nat} {op : VecOp} {f : Nat} {fm : Fmt} {r : RMode} {vd va vb vc lane :
    Nat} : Keeps s₀ (s.vecLane g op f fm r vd va vb vc lane) := by
  unfold State.vecLane
  extract_lets x n
  exact h.drew.putNarrow.onGang

theorem Answers.vectorOp (h : Keeps s₀ s) {g : Nat} {op : VecOp} {f : Nat} {r : RMode} {vd va vb vc : Nat} : Answers
    s₀ (execVectorOp g op f r vd va vb vc s) := by
  unfold execVectorOp
  refine .done ?_
  refine .instr h ?_
  intro _ ht
  split
  · exact ht.foldl (fun _ _ ht1 => ht1.vecLane)
  · exact ht

theorem Answers.sfuOp (h : Keeps s₀ s) {g : Nat} {fn : SfuFn} {vd vs : Nat} : Answers s₀ (execSfuOp g fn vd vs s) :=
    by
  unfold execSfuOp
  exact .done (h.instr (fun _ ht => ht.onGang))

/-! ### Operations of KernelSync -/

theorem Keeps.handedOver (h : Keeps s₀ s) {g ud p : Nat} {pair : Bool} : Keeps s₀ (s.handedOver g ud p pair) :=
  h.onGang

theorem Keeps.remoteNow (h : Keeps s₀ s) {g w n ud p : Nat} {pair : Bool} : Keeps s₀ (s.remoteNow g w n ud p pair) :=
    by
  unfold State.remoteNow
  exact h.release.nextMsgId_snd.kernelRemote.handedOver

theorem Keeps.addOrPost (h : Keeps s₀ s) {g : Nat} {kind : SyncKind} {dk : DfrKind} {uo ud p n : Nat} {pair : Bool} :
    Keeps s₀ (s.addOrPost g kind dk uo ud p n pair) := by
  unfold State.addOrPost
  dsimp only
  exact .ite (h.handedOver.deferOr (fun _ ht => .ite ht.remoteNow ht.release.submit)) (.ite h.remoteNow
      h.release.submit)

theorem Answers.tallyAddInstr (h : Keeps s₀ s) {g p ud uo un : Nat} : Answers s₀ (execTallyAddInstr g p ud uo un s) :=
    by
  unfold execTallyAddInstr
  refine .done ?_
  extract_lets n
  exact h.instr (fun _ ht => .ite ht.submit ht.addOrPost)

theorem Answers.tallyRd (h : Keeps s₀ s) {g ud uo : Nat} : Answers s₀ (execTallyRd g ud uo s) :=
  .done (h.instr (fun _ ht => ht.submit))

theorem Answers.tallyWaitInstr (h : Keeps s₀ s) {g p ud uo ue ut : Nat} : Answers s₀ (execTallyWaitInstr g p ud uo ue
    ut s) := by
  unfold execTallyWaitInstr
  exact .done (h.instr (fun _ ht => ht.flushAdds.submit))

theorem Answers.semWaitInstr (h : Keeps s₀ s) {g : Nat} {own : Bool} {p ud uo un ut : Nat} : Answers s₀
    (execSemWaitInstr g own p ud uo un ut s) := by
  unfold execSemWaitInstr
  exact .done (h.instr (fun _ ht => ht.flushAdds.submit))

theorem Answers.semTry (h : Keeps s₀ s) {g : Nat} {own : Bool} {p ud uo un : Nat} : Answers s₀ (execSemTry g own p ud
    uo un s) := by
  unfold execSemTry
  exact .done (h.instr (fun _ ht => ht.flushAdds.submit))

theorem Answers.semPostInstr (h : Keeps s₀ s) {g p ud uo un : Nat} : Answers s₀ (execSemPostInstr g p ud uo un s) :=
    by
  unfold execSemPostInstr
  exact .done (h.instr (fun _ ht => ht.addOrPost))

theorem Answers.semPostOwn (h : Keeps s₀ s) {g p ud uo : Nat} : Answers s₀ (execSemPostOwn g p ud uo s) := by
  unfold execSemPostOwn
  dsimp only
  exact .done (h.instr (fun _ ht => .ite (ht.handedOver.deferOr (fun _ ht1 => ht1.release.submit)) ht.release.submit))

theorem Answers.semRd (h : Keeps s₀ s) {g ud uo : Nat} : Answers s₀ (execSemRd g ud uo s) :=
  .done (h.instr (fun _ ht => ht.submit))

theorem Keeps.damagedOp (h : Keeps s₀ s) {op : SyncOp} : Keeps s₀ (s.damagedOp op) := by
  unfold State.damagedOp
  extract_lets t
  have ht : Keeps s₀ t := h.mismatch
  split
  · exact ht.finish
  · exact ht.gangFault
  · exact ht.sendAck
  · exact ht

theorem Keeps.refuseOp (h : Keeps s₀ s) {op : SyncOp} : Keeps s₀ (s.refuseOp op) := by
  unfold State.refuseOp
  extract_lets t
  have ht : Keeps s₀ t := h.bwRefuse
  split
  · exact ht.packetFault
  · exact ht.gangFault
  · exact ht.sendAck
  · exact ht

theorem Answers.syncOpApply (h : Keeps s₀ s) {d : Nat} : Answers s₀ (execSyncOpApply d s) := by
  unfold execSyncOpApply
  refine .done ?_
  split
  · exact h
  · extract_lets s₁
    have hs₁ : Keeps s₀ s₁ := h.onSync
    exact .ite hs₁.damagedOp (.ite hs₁.refuseOp hs₁.applyOp)

theorem Answers.gangWaitTimeout (h : Keeps s₀ s) {g : Nat} : Answers s₀ (execGangWaitTimeout g s) := by
  unfold execGangWaitTimeout
  refine .done ?_
  split
  · extract_lets i rest
    split
    · split
      · exact .ite h.onTally.endWaiter h
      · exact h
    · split
      · exact .ite h.onSem.endWaiter.serveSem h
      · exact h
  · exact h

theorem Keeps.lostPulses (h : Keeps s₀ s) {obj n : Nat} : Keeps s₀ (s.lostPulses obj n) :=
  h.foldl (fun _ _ ht => ht.onSync.syncLog)

theorem Keeps.recheckTally (h : Keeps s₀ s) {i : Nat} : Keeps s₀ (s.recheckTally i) := by
  unfold State.recheckTally
  extract_lets t
  exact .ite h.serveTally.lostPulses h

theorem Keeps.recheckSem (h : Keeps s₀ s) {i : Nat} : Keeps s₀ (s.recheckSem i) := by
  unfold State.recheckSem
  refine .ite ?_ h
  extract_lets t
  have ht : Keeps s₀ t := h.serveSem
  exact ht.lostPulses

theorem Answers.syncRecheck (h : Keeps s₀ s) : Answers s₀ (execSyncRecheck s) := by
  unfold execSyncRecheck
  refine .done ?_
  extract_lets t
  have ht : Keeps s₀ t := h.foldl (fun _ _ ht => ht.recheckTally)
  exact ht.foldl (fun _ _ ht1 => ht1.recheckSem)

theorem Keeps.repairObj (h : Keeps s₀ s) {v : Word} : Keeps s₀ (s.repairObj v) := by
  unfold State.repairObj
  extract_lets obj i s₁
  have hs₁ : Keeps s₀ s₁ := h.onSync
  exact .ite hs₁.onTally hs₁.onSem

theorem Answers.syncDbgRepair (h : Keeps s₀ s) {v : DWord} : Answers s₀ (execSyncDbgRepair v s) :=
  .done (h.atReady (fun _ ht => .ite ht.repairObj ht))

/-! ### Operations of Mctp -/

theorem Keeps.replyTo (h : Keeps s₀ s) {b src : Nat} {m : MgmtMsg} : Keeps s₀ (s.replyTo b src m) := h.onMgmt.emit

theorem Answers.mctpRequest (h : Keeps s₀ s) {b src ty : Nat} {f : State → State} (hf : ∀ t, Keeps s₀ t → Keeps s₀ (f
    t)) : Answers s₀ (mctpRequest b src ty f s) := by
  unfold Machine.mctpRequest
  exact .done (.ite (hf _ h) h)

theorem Keeps.eventDone (h : Keeps s₀ s) : Keeps s₀ s.eventDone := h.onMgmt.sendEvent

theorem Keeps.deliverMctp (h : Keeps s₀ s) {b src : Nat} {l : List Byte} : Keeps s₀ (s.deliverMctp b src l) := by
  unfold State.deliverMctp
  split
  · split
    · exact .ite h.eventDone h
    · exact h
  · split
    · exact .ite h.onMgmt h
    · exact h

theorem Answers.mctpPacketReceive (h : Keeps s₀ s) {p : MctpPacket} : Answers s₀ (execMctpPacketReceive p s) := by
  unfold execMctpPacketReceive
  dsimp only
  refine .done ?_
  refine .ite h ?_
  split
  · exact h
  · exact .ite h.onMgmt (.ite h.onMgmt.deliverMctp h.onMgmt.onMgmt)

theorem Answers.mctpReassemblyTimeout (h : Keeps s₀ s) {b src : Nat} : Answers s₀ (execMctpReassemblyTimeout b src s)
    := by
  unfold execMctpReassemblyTimeout
  exact .done h.onMgmt

theorem Answers.smbusClockLowTimeout (h : Keeps s₀ s) : Answers s₀ (execSmbusClockLowTimeout s) :=
  .done (.ite h.emit h)

theorem Answers.smbusAlertResponse (h : Keeps s₀ s) : Answers s₀ (execSmbusAlertResponse s) := .done (.ite h.emit h)

theorem Answers.setEndpointId (h : Keeps s₀ s) {b src eid : Nat} : Answers s₀ (execSetEndpointId b src eid s) :=
  .mctpRequest h (fun _ ht => .ite ht.onMgmt.replyTo ht.replyTo)

theorem Answers.getEndpointId (h : Keeps s₀ s) {b src : Nat} : Answers s₀ (execGetEndpointId b src s) :=
  .mctpRequest h (fun _ ht => ht.replyTo)

theorem Answers.getEndpointUuid (h : Keeps s₀ s) {b src : Nat} : Answers s₀ (execGetEndpointUuid b src s) :=
  .mctpRequest h (fun _ ht => ht.replyTo)

theorem Answers.getMctpVersionSupport (h : Keeps s₀ s) {b src ty : Nat} : Answers s₀ (execGetMctpVersionSupport b src
    ty s) := by
  unfold execGetMctpVersionSupport
  exact .mctpRequest h (fun _ ht => ht.replyTo)

theorem Answers.getMessageTypeSupport (h : Keeps s₀ s) {b src : Nat} : Answers s₀ (execGetMessageTypeSupport b src s)
    := by
  unfold execGetMessageTypeSupport
  exact .mctpRequest h (fun _ ht => ht.replyTo)

/-! ### Operations of Pldm -/

theorem Answers.getTid (h : Keeps s₀ s) {b src : Nat} : Answers s₀ (execGetTid b src s) :=
  .mctpRequest h (fun _ ht => ht.replyTo)

theorem Answers.setTid (h : Keeps s₀ s) {b src : Nat} {t : BitVec 8} : Answers s₀ (execSetTid b src t s) :=
  .mctpRequest h (fun _ ht => .ite ht.replyTo ht.onMgmt.replyTo)

theorem Answers.getPldmVersion (h : Keeps s₀ s) {b src ty : Nat} : Answers s₀ (execGetPldmVersion b src ty s) :=
  .mctpRequest h (fun _ ht => ht.replyTo)

theorem Answers.getPldmTypes (h : Keeps s₀ s) {b src : Nat} : Answers s₀ (execGetPldmTypes b src s) :=
  .mctpRequest h (fun _ ht => ht.replyTo)

theorem Answers.getPldmCommands (h : Keeps s₀ s) {b src ty : Nat} : Answers s₀ (execGetPldmCommands b src ty s) :=
  .mctpRequest h (fun _ ht => ht.replyTo)

theorem Answers.getPdrRepositoryInfo (h : Keeps s₀ s) {b src : Nat} : Answers s₀ (execGetPdrRepositoryInfo b src s) :=
    by
  unfold execGetPdrRepositoryInfo
  exact .mctpRequest h (fun _ ht => ht.replyTo)

theorem Answers.getPdr (h : Keeps s₀ s) {b src handle : Nat} : Answers s₀ (execGetPdr b src handle s) := by
  unfold execGetPdr
  refine .mctpRequest h ?_
  intro _ ht
  extract_lets id lim
  exact .ite ht.replyTo ht.replyTo

theorem Answers.getSensorReading (h : Keeps s₀ s) {b src id : Nat} : Answers s₀ (execGetSensorReading b src id s) :=
    by
  unfold execGetSensorReading
  refine .mctpRequest h ?_
  intro _ ht
  split <;> exact ht.replyTo

theorem Answers.getStateSensorReadings (h : Keeps s₀ s) {b src id : Nat} : Answers s₀ (execGetStateSensorReadings b
    src id s) := by
  unfold execGetStateSensorReadings
  exact .mctpRequest h (fun _ ht => .ite ht.replyTo (.ite ht.replyTo ht.replyTo))

theorem Answers.setEventReceiver (h : Keeps s₀ s) {b src : Nat} {receiver : Option Nat} : Answers s₀
    (execSetEventReceiver b src receiver s) := by
  unfold execSetEventReceiver
  refine .mctpRequest h ?_
  intro _ ht
  extract_lets now
  exact ht.onMgmt.replyTo

theorem Answers.getEventReceiver (h : Keeps s₀ s) {b src : Nat} : Answers s₀ (execGetEventReceiver b src s) :=
  .mctpRequest h (fun _ ht => ht.replyTo)

theorem Answers.pldmEventRetry (h : Keeps s₀ s) : Answers s₀ (execPldmEventRetry s) := by
  unfold execPldmEventRetry
  refine .done ?_
  split
  · exact .ite h (.ite h.onMgmt.sendEvent h.logOcc.eventDone)
  · exact h

/-! ### Operations of Reduce -/

theorem Answers.memAdd (h : Keeps s₀ s) {g : Nat} {ty : AddTy} {va vs : Nat} : Answers s₀ (execMemAdd g ty va vs s) :=
    by
  unfold execMemAdd
  refine .done ?_
  extract_lets x checks
  exact .ite h (h.instr (fun _ ht => ht.foldl (fun _ _ ht1 => ht1.addNow)))

theorem Keeps.dropAdd (h : Keeps s₀ s) {a : RedAdd} : Keeps s₀ (s.dropAdd a) := by
  unfold State.dropAdd
  extract_lets t
  have ht : Keeps s₀ t := h.mismatch
  exact .ite ht.onRed (ht.onMem (fun _ hm => hm.poisonAt))

theorem Keeps.refuseAdd (h : Keeps s₀ s) {a : RedAdd} : Keeps s₀ (s.refuseAdd a) := by
  unfold State.refuseAdd
  extract_lets t
  have ht : Keeps s₀ t := .ite h.bwRefuse h.bwRefusal
  exact ht.gangFault

theorem Answers.reductionApply (h : Keeps s₀ s) {slotBad : Bool} : Answers s₀ (execReductionApply slotBad s) := by
  unfold execReductionApply
  refine .done ?_
  split
  · exact h
  · refine .ite h ?_
    refine .ite h.onRed.dropAdd ?_
    refine .ite h.onRed.refuseAdd ?_
    extract_lets s₁
    have hs₁ : Keeps s₀ s₁ := .ite h.onRed h
    exact hs₁.onRed.applyAdd

theorem Answers.xsAdd (h : Keeps s₀ s) {g vi vx : Nat} : Answers s₀ (execXsAdd g vi vx s) := by
  unfold execXsAdd
  refine .done ?_
  extract_lets x
  exact h.instr (fun _ ht => ht.foldl (fun _ _ ht1 => ht1.xsNow))

theorem Answers.xsClr (h : Keeps s₀ s) {g us uw : Nat} : Answers s₀ (execXsClr g us uw s) := by
  unfold execXsClr
  refine .done ?_
  extract_lets x i w
  exact h.instr (fun _ ht => ht.flushAdds.onRed)

theorem Keeps.slotFound (h : Keeps s₀ s) {g i : Nat} {bad : Bool} : Keeps s₀ (s.slotFound g i bad) := .ite h.onRed h

theorem Answers.xsRd (h : Keeps s₀ s) {g : Nat} {r : RMode} {ud us : Nat} {slotBad : Bool} : Answers s₀ (execXsRd g r
    ud us slotBad s) := by
  unfold execXsRd
  refine .done ?_
  extract_lets i s₁
  have hs₁ : Keeps s₀ s₁ := h.slotFound
  refine .instr hs₁ ?_
  intro _ ht
  extract_lets s₂
  have hs₂ : Keeps s₀ s₂ := ht.flushAdds
  exact hs₂.onGang

theorem Answers.xsRaw (h : Keeps s₀ s) {g ud us : Nat} {slotBad : Bool} : Answers s₀ (execXsRaw g ud us slotBad s) :=
    by
  unfold execXsRaw
  refine .done ?_
  extract_lets i s₁
  have hs₁ : Keeps s₀ s₁ := h.slotFound
  refine .instr hs₁ ?_
  intro _ ht
  extract_lets s₂ l
  have hs₂ : Keeps s₀ s₂ := ht.flushAdds
  exact hs₂.onGang

theorem Answers.dfrAdd (h : Keeps s₀ s) {g : Nat} {ty : AddTy} {va vs : Nat} : Answers s₀ (execDfrAdd g ty va vs s) :=
    by
  unfold execDfrAdd
  refine .done ?_
  extract_lets x c
  refine .instr h ?_
  intro _ ht
  refine .foldl ht ?_
  intro _ _ ht1
  extract_lets key v
  exact ht1.deferOr (fun _ ht2 => ht2.addNow)

theorem Answers.dfrXs (h : Keeps s₀ s) {g vi vx : Nat} : Answers s₀ (execDfrXs g vi vx s) := by
  unfold execDfrXs
  refine .done ?_
  extract_lets x
  refine .instr h ?_
  intro _ ht
  refine .foldl ht ?_
  intro _ _ ht1
  extract_lets v
  exact ht1.deferOr (fun _ ht2 => ht2.xsNow)

theorem Answers.blockCommit (h : Keeps s₀ s) {b : Nat} : Answers s₀ (execBlockCommit b s) := by
  unfold execBlockCommit
  refine .done ?_
  extract_lets x l pending e c t
  have ht : Keeps s₀ t := h.onRed
  exact .ite h ht.onBlk

theorem Keeps.discardCommit (h : Keeps s₀ s) {c : Commit} : Keeps s₀ (s.discardCommit c) := h.logOcc.ackCommit

theorem Answers.commitArrive (h : Keeps s₀ s) {i : Nat} {ledgerBad : Bool} : Answers s₀ (execCommitArrive i ledgerBad
    s) := by
  unfold execCommitArrive
  refine .done ?_
  split
  · exact h
  · extract_lets l t checked t₁ t₂
    have ht : Keeps s₀ t := h.onRed
    have ht₁ : Keeps s₀ t₁ := .ite ht.onLaunch ht
    have ht₂ : Keeps s₀ t₂ := ht₁.ackCommit
    exact .ite h (.ite ht.discardCommit (.ite ht.logOcc.kill (.ite ht.discardCommit (.ite ht₂.onRed ht₂.applyCommit))))

/-! ### Operations of Regs -/

theorem Keeps.flushMsix (h : Keeps s₀ s) {fn : Nat} : Keeps s₀ (s.flushMsix fn) := by
  unfold State.flushMsix
  split
  · refine .ite h ?_
    extract_lets l
    refine .foldl h ?_
    intro _ _ ht
    extract_lets e
    exact ht.onHost.emit
  · extract_lets f l
    refine .ite h ?_
    refine .foldl h ?_
    intro _ _ ht
    extract_lets e
    exact ht.onHost.emit

theorem Keeps.intWrite (h : Keeps s₀ s) {o : Nat} {w : Word} : Keeps s₀ (s.intWrite o w) :=
  .ite h.onHost (.ite h.setIntMask (.ite h.onHost (.ite h.onHost.flushMsix h)))

theorem Keeps.glbWrite (h : Keeps s₀ s) {o : Nat} {w : Word} : Keeps s₀ (s.glbWrite o w) :=
  .ite h.onHost (.ite h.onHost h)

theorem Keeps.pilotWrite (h : Keeps s₀ s) {o : Nat} {w : Word} : Keeps s₀ (s.pilotWrite o w) := by
  unfold State.pilotWrite
  refine .ite ?_ (.ite h.onBoot (.ite h.onBoot h))
  extract_lets c
  exact .ite h (h.mbox (fun _ ht => ht.mboxAnswer))

theorem Keeps.pwrWrite (h : Keeps s₀ s) {o : Nat} {w : Word} : Keeps s₀ (s.pwrWrite o w) :=
  .ite (.ite h.onPwr h) (.ite h.onPwr (.ite h.onPwr (.ite h.onPwr (.ite h.onPwr (.ite h.onPwr (.ite (.ite h.onPwr h)
      (.ite h.onPwr (.ite h.onDie h))))))))

theorem Keeps.logWrite (h : Keeps s₀ s) {o : Nat} {w : Word} : Keeps s₀ (s.logWrite o w) :=
  .ite h.onLog (.ite h.logRelease (.ite h.onLog (.ite h.onLog h)))

theorem Keeps.cimWrite (h : Keeps s₀ s) {o : Nat} {w : Word} : Keeps s₀ (s.cimWrite o w) := by
  unfold State.cimWrite
  refine .ite h.onCim ?_
  refine .ite h.onCim ?_
  refine .ite ?_ h
  extract_lets d v
  exact .ite h.onCim h.logOcc

theorem Keeps.syncWrite (h : Keeps s₀ s) {o : Nat} {w : Word} : Keeps s₀ (s.syncWrite o w) :=
  .ite h.onSync (.ite h.onSync (.ite (.ite h.repairObj h) (.ite (.ite h.onSync h) h)))

theorem Keeps.admqBase (h : Keeps s₀ s) {a : Nat} {f : Queue → Queue} : Keeps s₀ (s.admqBase a f) := .ite h h.onQueue

theorem Keeps.pageWrite (h : Keeps s₀ s) {q : QueueId} {o : Nat} {w : Word} : Keeps s₀ (s.pageWrite q o w) := by
  unfold State.pageWrite
  refine .ite h.sqPutWrite ?_
  refine .ite h.cqGetWrite ?_
  refine .ite (.ite h.onQueue h) ?_
  split
  · extract_lets align
    exact .ite h.admqBase (.ite h.admqBase (.ite (.ite h.admqEnable h.admqDisable) (.ite h.onQueue h)))
  · exact h

theorem Keeps.pfWrite4 (h : Keeps s₀ s) {off : Nat} {w : Word} : Keeps s₀ (s.pfWrite4 off w) := by
  unfold State.pfWrite4
  extract_lets o
  generalize off / 65536 = b
  split
  · exact h.glbWrite
  · exact h.intWrite
  · exact h.pilotWrite
  · exact h.pwrWrite
  · exact h.twWrite4
  · exact h.timeWrite4
  · exact h.logWrite
  · exact .ite h.onFence h
  · exact h.cimWrite
  · exact h.syncWrite
  · exact .ite h.portCtrl h
  · exact h.fleetWrite4
  · exact h.pageWrite
  · exact h.pageWrite
  · exact h

theorem Keeps.onVf (h : Keeps s₀ s) {n : Nat} {f : Vfs → Vfs} : Keeps s₀ (s.onVf n f) := h.onHost

theorem Keeps.vfWrite4 (h : Keeps s₀ s) {n off : Nat} {w : Word} : Keeps s₀ (s.vfWrite4 n off w) :=
  .ite h.onVf (.ite h.setVfsMask (.ite h.onVf (.ite h.onVf (.ite h.onVf.flushMsix (.ite h.pageWrite h)))))

theorem Keeps.msixControl (h : Keeps s₀ s) {fn w : Nat} : Keeps s₀ (s.msixControl fn w) := by
  unfold State.msixControl
  extract_lets en mk
  exact .flushMsix (.ite h.onHost h.onVf)

theorem Keeps.regWrite8 (h : Keeps s₀ s) {sp : RegSpace} {off : Nat} {v : DWord} : Keeps s₀ (s.regWrite8 sp off v) :=
    by
  unfold State.regWrite8
  split
  · exact .ite h.twWrite8 h.pfWrite4.pfWrite4
  · exact h.vfWrite4.vfWrite4
  · exact h

theorem Answers.registerWrite (h : Keeps s₀ s) {sp : RegSpace} {off : Nat} {bytes : List Byte} : Answers s₀
    (execRegisterWrite sp off bytes s) := by
  unfold execRegisterWrite
  refine .done ?_
  extract_lets n s₁ v
  have hs₁ : Keeps s₀ s₁ := h.hostWake
  refine .ite h ?_
  refine .ite h.discarded ?_
  split
  · exact .ite hs₁.msixControl hs₁
  · exact .ite hs₁.regWrite8 (.ite hs₁.pfWrite4 (.ite hs₁.pfWrite4 hs₁))
  · exact .ite hs₁.regWrite8 (.ite hs₁.vfWrite4 hs₁)

theorem Keeps.regPop_snd (h : Keeps s₀ s) {sp : RegSpace} {off : Nat} : Keeps s₀ (s.regPop sp off).2 := by
  unfold State.regPop
  extract_lets plain
  split
  · exact h.popSample_snd
  · split
    · exact h.popTrig_snd
    · exact h

theorem Keeps.afterRead (h : Keeps s₀ s) {sp : RegSpace} {off n : Nat} : Keeps s₀ (s.afterRead sp off n) := by
  unfold State.afterRead
  refine .ite h ?_
  refine .foldl h ?_
  intro _ _ ht
  extract_lets a d k u
  exact .ite ht.onCim (.ite ht.onSync ht)

theorem Answers.lowHalfReadLatch (h : Keeps s₀ s) {sp : RegSpace} {off n : Nat} : Answers s₀ (execLowHalfReadLatch sp
    off n s) := by
  unfold execLowHalfReadLatch
  dsimp only
  exact .done (.ite h (.ite h.emit (.ite h.discarded.emit (.ite h.hostWake.onHost.emit (.emit (.ite
      h.hostWake.regPop_snd.afterRead.onHost h.hostWake.regPop_snd.afterRead))))))

/-! ### Operations of Slack -/

theorem Keeps.onBar (h : Keeps s₀ s) {f : Barrier → Barrier} : Keeps s₀ (s.onBar f) := h.onFleet

theorem Keeps.sendTotals (h : Keeps s₀ s) {sub k : Nat} {l : List TotalEntry} : Keeps s₀ (s.sendTotals sub k l) := by
  unfold State.sendTotals
  extract_lets cs
  exact h.foldl (fun _ _ ht => ht.sendMsg)

theorem Keeps.openAt (h : Keeps s₀ s) {k : Nat} : Keeps s₀ (s.openAt k) := h.onFleet

theorem Keeps.closeAt (h : Keeps s₀ s) {k : Nat} : Keeps s₀ (s.closeAt k) := h.onFleet

theorem Keeps.applyAdvance (h : Keeps s₀ s) {e : Nat} {delta : DWord} : Keeps s₀ (s.applyAdvance e delta) := by
  unfold State.applyAdvance
  extract_lets p x t
  have ht : Keeps s₀ t := h.applyOp
  exact .ite h (.ite ht.onCons.onFleet ht)

theorem Keeps.startBarrier (h : Keeps s₀ s) {pid : Option Nat} {period : Nat} : Keeps s₀ (s.startBarrier pid period)
    := by
  unfold State.startBarrier
  extract_lets k parts t
  have ht : Keeps s₀ t := h.onFleet
  exact (ht.foldl (fun _ _ ht1 => ht1.sendMsg)).openAt

theorem Keeps.finishBarrier (h : Keeps s₀ s) : Keeps s₀ s.finishBarrier := by
  unfold State.finishBarrier
  extract_lets b t t₁ t₂
  have ht : Keeps s₀ t := h.foldl (fun _ _ ht => ht.sendMsg)
  have ht₁ : Keeps s₀ t₁ := ht.onFleet
  have ht₂ : Keeps s₀ t₂ := by
    unfold t₂
    split
    · exact ht₁.finish
    · exact ht₁
  split
  · exact ht₂
  · exact ht₂.onFleet.startBarrier

theorem Keeps.sendAdvance (h : Keeps s₀ s) {c : Nat} {l : List (Nat × Nat × Nat × Nat × DWord × DWord)} : Keeps s₀
    (s.sendAdvance c l) := by
  unfold State.sendAdvance
  extract_lets cs
  refine .foldl h ?_
  intro _ _ ht
  extract_lets body t₁
  have ht₁ : Keeps s₀ t₁ := ht.sendMsg
  exact ht₁.onBar

theorem Keeps.advancePhase (h : Keeps s₀ s) : Keeps s₀ s.advancePhase := by
  unfold State.advancePhase
  extract_lets l up t t₁ t₂ own t₃ t₄
  have ht : Keeps s₀ t := h.foldl (fun _ _ ht => ht.logOcc)
  have ht₁ : Keeps s₀ t₁ := ht.onFleet
  have ht₂ : Keeps s₀ t₂ := ht₁.onBar
  have ht₃ : Keeps s₀ t₃ := ht₂.foldl (fun _ _ ht1 => ht1.applyAdvance)
  have ht₄ : Keeps s₀ t₄ := by
    unfold t₄
    refine .foldl ht₃ ?_
    intro _ _ ht1
    extract_lets l₁
    exact .ite ht1 ht1.sendAdvance
  exact .ite ht₄.finishBarrier ht₄

theorem Keeps.checkApplied (h : Keeps s₀ s) : Keeps s₀ s.checkApplied := by
  unfold State.checkApplied
  extract_lets b
  exact .ite h.advancePhase h

theorem Keeps.sendClose (h : Keeps s₀ s) : Keeps s₀ s.sendClose := by
  unfold State.sendClose
  extract_lets b t t₁
  have ht : Keeps s₀ t := h.onBar
  have ht₁ : Keeps s₀ t₁ := (ht.foldl (fun _ _ ht1 => ht1.sendMsg)).closeAt
  exact ht₁.onBar.checkApplied

theorem Keeps.checkDrained (h : Keeps s₀ s) : Keeps s₀ s.checkDrained := by
  unfold State.checkDrained
  extract_lets b
  exact .ite h.sendClose h

theorem Answers.fleetBarrier (h : Keeps s₀ s) {q : QueueId} : Answers s₀ (execFleetBarrier q s) := by
  unfold execFleetBarrier
  refine .done ?_
  refine .dispatch h ?_
  intro _ _ ht
  extract_lets t₁
  have ht₁ : Keeps s₀ t₁ := ht.onInflight
  exact .ite ht₁.startBarrier ht₁.onFleet

theorem Answers.barrierStart (h : Keeps s₀ s) : Answers s₀ (execBarrierStart s) := .done (.ite h.startBarrier h)

theorem Answers.openReceive (h : Keeps s₀ s) : Answers s₀ (execOpenReceive s) :=
  .done (h.takeMsg (fun _ _ _ ht => .ite ht.discardMsg ht.openAt))

theorem Answers.barrierDrained (h : Keeps s₀ s) : Answers s₀ (execBarrierDrained s) := by
  unfold execBarrierDrained
  refine .done ?_
  extract_lets k t t₁
  have ht : Keeps s₀ t := h.onFleet
  have ht₁ : Keeps s₀ t₁ := ht.onBar
  exact .ite h (.ite ht₁.onBar.checkDrained ht₁.sendTotals)

theorem Answers.drainedReceive (h : Keeps s₀ s) : Answers s₀ (execDrainedReceive s) := by
  unfold execDrainedReceive
  refine .done ?_
  refine .takeMsg h ?_
  intro _ _ _ ht
  extract_lets b l
  exact .ite ht ht.onBar.checkDrained

theorem Answers.drainTimeout (h : Keeps s₀ s) : Answers s₀ (execDrainTimeout s) := by
  unfold execDrainTimeout
  refine .done ?_
  extract_lets b
  exact .ite h.sendClose h

theorem Answers.closeReceive (h : Keeps s₀ s) : Answers s₀ (execCloseReceive s) := by
  unfold execCloseReceive
  refine .done ?_
  refine .takeMsg h ?_
  intro _ _ _ ht
  refine .ite ht.discardMsg ?_
  extract_lets t₁
  have ht₁ : Keeps s₀ t₁ := ht.closeAt
  exact ht₁.sendTotals

theorem Answers.appliedReceive (h : Keeps s₀ s) : Answers s₀ (execAppliedReceive s) := by
  unfold execAppliedReceive
  refine .done ?_
  refine .takeMsg h ?_
  intro _ _ _ ht
  extract_lets b l
  exact .ite ht ht.onBar.checkApplied

theorem Answers.advanceReceive (h : Keeps s₀ s) : Answers s₀ (execAdvanceReceive s) := by
  unfold execAdvanceReceive
  refine .done ?_
  refine .takeMsg h ?_
  intro _ _ _ ht
  extract_lets i t₁
  have ht₁ : Keeps s₀ t₁ := .ite ht (ht.onFleet.foldl (fun _ _ ht1 => ht1.applyAdvance))
  exact .ite ht.discardMsg ht₁.sendAck

theorem Answers.doneReceive (h : Keeps s₀ s) : Answers s₀ (execDoneReceive s) :=
  .done (h.takeMsg (fun _ _ _ ht => .ite ht.discardMsg ht.onFleet))

theorem Keeps.advAcked (h : Keeps s₀ s) {id : DWord} {src : Nat} : Keeps s₀ (s.advAcked id src) := by
  unfold State.advAcked
  extract_lets b i t
  have ht : Keeps s₀ t := h.onBar
  exact .ite (.ite ht.finishBarrier ht) h

theorem Answers.statusAckReceive (h : Keeps s₀ s) : Answers s₀ (execStatusAckReceive s) := by
  unfold execStatusAckReceive
  refine .done ?_
  refine .takeMsg h ?_
  intro _ _ _ ht
  extract_lets id out t₁
  have ht₁ : Keeps s₀ t₁ := ht.freed
  split
  · exact .ite ht.advAcked ht
  · extract_lets t₂ t₃ t₄
    have ht₃ : Keeps s₀ t₃ := .ite (.ite ht₁.onProd (.ite ht₁.onProd ht₁)) ht₁
    have ht₄ : Keeps s₀ t₄ := ht₃.rwAnswered
    split
    · exact .ite ht₄.logOcc ht₄
    · extract_lets u
      have hu : Keeps s₀ u := ht₄.onFleet
      exact .ite hu.finish hu.finish

theorem Keeps.leaveBarrier (h : Keeps s₀ s) {d : Nat} : Keeps s₀ (s.leaveBarrier d) := by
  unfold State.leaveBarrier
  extract_lets t
  have ht : Keeps s₀ t := h.onBar
  split
  · exact ht
  · exact ht.checkDrained
  · exact ht.checkApplied
  · exact .ite ht.finishBarrier ht

theorem Answers.powerMessageReceive (h : Keeps s₀ s) : Answers s₀ (execPowerMessageReceive s) := by
  unfold execPowerMessageReceive
  dsimp only
  exact .done (h.takeMsg (fun _ _ _ ht => .ite ht (.ite (.ite ht.discardMsg.onDev ht.discardMsg.onDev.onFleet) (.ite
      (.ite ht.onDev ht.onDev.onFleet) (.ite ht.onDev.leaveBarrier ht.onDev)))))

theorem Answers.workerLost (h : Keeps s₀ s) {d : Nat} : Answers s₀ (execWorkerLost d s) := by
  unfold execWorkerLost
  refine .done ?_
  extract_lets x silent cut
  exact .ite h.loseWorker.leaveBarrier h

/-! ### Operations of Spdm -/

theorem Answers.spdmRequest (h : Keeps s₀ s) {tp src : Nat} {secured : Bool} {f : State → State × MgmtMsg} (hf : ∀ t,
    Keeps s₀ t → Keeps s₀ (f t).1) : Answers s₀ (spdmRequest tp src secured f s) := by
  unfold Machine.spdmRequest
  exact .done (.ite (.ite (hf _ h).replyTo h) (.ite (hf _ h.hostWake).emit h))

theorem Keeps.setPhase (h : Keeps s₀ s) {tp n : Nat} : Keeps s₀ (s.setPhase tp n) := h.onMgmt

theorem Answers.getVersion (h : Keeps s₀ s) {tp src : Nat} : Answers s₀ (execGetVersion tp src s) :=
  .spdmRequest h (fun _ ht => ht.onMgmt.setPhase)

theorem Answers.getCapabilities (h : Keeps s₀ s) {tp src : Nat} : Answers s₀ (execGetCapabilities tp src s) := by
  unfold execGetCapabilities
  refine .spdmRequest h ?_
  intro _ ht
  split
  · exact ht.setPhase
  · exact ht

theorem Answers.negotiateAlgorithms (h : Keeps s₀ s) {tp src : Nat} {common : Bool} : Answers s₀
    (execNegotiateAlgorithms tp src common s) := by
  unfold execNegotiateAlgorithms
  refine .spdmRequest h ?_
  intro _ ht
  split
  · exact ht
  · split
    · exact ht.setPhase
    · exact ht

theorem Answers.getDigests (h : Keeps s₀ s) {tp src : Nat} {sess : Option Nat} : Answers s₀ (execGetDigests tp src
    sess s) := by
  unfold execGetDigests
  refine .spdmRequest h ?_
  intro _ ht
  split <;> exact ht

theorem Answers.getCertificate (h : Keeps s₀ s) {tp src : Nat} {sess : Option Nat} {slot off len : Nat} : Answers s₀
    (execGetCertificate tp src sess slot off len s) := by
  unfold execGetCertificate
  refine .spdmRequest h ?_
  intro _ ht
  split
  · exact ht
  · split
    · exact ht
    · split
      · exact ht.logOcc
      · split <;> exact ht

theorem Answers.challenge (h : Keeps s₀ s) {tp src slot : Nat} {nonce : List Nat} : Answers s₀ (execChallenge tp src
    slot nonce s) := by
  unfold execChallenge
  refine .spdmRequest h ?_
  intro _ ht
  split
  · exact ht
  · split <;> exact ht

theorem Answers.getMeasurements (h : Keeps s₀ s) {tp src : Nat} {sess : Option Nat} {what : MeasReq} {nonce : List
    Nat} : Answers s₀ (execGetMeasurements tp src sess what nonce s) := by
  unfold execGetMeasurements
  refine .spdmRequest h ?_
  intro _ ht
  split
  · exact ht
  · split
    · exact ht
    · exact ht
    · split <;> exact ht

theorem Answers.keyExchange (h : Keeps s₀ s) {tp src : Nat} {exchange : List Nat} : Answers s₀ (execKeyExchange tp src
    exchange s) := by
  unfold execKeyExchange
  refine .spdmRequest h ?_
  intro _ ht
  split
  · exact ht
  · split
    · exact ht
    · extract_lets n
      exact ht.onMgmt

theorem Answers.finish (h : Keeps s₀ s) {tp src sess : Nat} {macOk : Bool} : Answers s₀ (execFinish tp src sess macOk
    s) := by
  unfold execFinish
  refine .spdmRequest h ?_
  intro _ ht
  split
  · exact ht
  · extract_lets rest
    split <;> exact ht.onMgmt

theorem Answers.endSession (h : Keeps s₀ s) {tp src sess : Nat} : Answers s₀ (execEndSession tp src sess s) := by
  unfold execEndSession
  refine .spdmRequest h ?_
  intro _ ht
  split
  · exact ht.onMgmt
  · exact ht

theorem Keeps.ideKm (h : Keeps s₀ s) {m : IdeKm} : Keeps s₀ (s.ideKm m) := by
  unfold State.ideKm
  split
  · exact h
  · exact h
  · exact h.onHost
  · exact h.onHost

theorem Answers.ideKmRequest (h : Keeps s₀ s) {tp src : Nat} {sess : Option Nat} {km : IdeKm} : Answers s₀
    (execIdeKmRequest tp src sess km s) := by
  unfold execIdeKmRequest
  refine .spdmRequest h ?_
  intro _ ht
  split
  · split
    · exact ht.ideKm
    · exact ht
  · exact ht

theorem Answers.doeDiscovery (h : Keeps s₀ s) {tp i : Nat} : Answers s₀ (execDoeDiscovery tp i s) :=
  .done (.ite h.hostWake.emit h)

/-! ### Operations of SyncPkt -/

theorem Keeps.addPacket (h : Keeps s₀ s) {p : Packet} {kind : SyncKind} {n : Nat} : Keeps s₀ (s.addPacket p kind n) :=
    by
  unfold State.addPacket
  extract_lets dev obj
  refine .ite (.ite h.submit h.finish) ?_
  split
  · exact h.finish
  · exact h.sendSync_snd.onFleet

theorem Keeps.waitPacket (h : Keeps s₀ s) {p : Packet} {kind : SyncKind} {n : Nat} : Keeps s₀ (s.waitPacket p kind n)
    := by
  unfold State.waitPacket
  extract_lets d
  exact h.onInflight.submit

theorem Answers.tallyAdd (h : Keeps s₀ s) {q : QueueId} : Answers s₀ (execTallyAdd q s) :=
  .done (h.dispatch (fun _ _ ht => ht.addPacket))

theorem Answers.tallyWait (h : Keeps s₀ s) {q : QueueId} : Answers s₀ (execTallyWait q s) :=
  .done (h.dispatch (fun _ _ ht => ht.waitPacket))

theorem Answers.semPost (h : Keeps s₀ s) {q : QueueId} : Answers s₀ (execSemPost q s) :=
  .done (h.dispatch (fun _ _ ht => ht.addPacket))

theorem Answers.semWait (h : Keeps s₀ s) {q : QueueId} : Answers s₀ (execSemWait q s) :=
  .done (h.dispatch (fun _ _ ht => ht.waitPacket))

theorem Answers.eventExport (h : Keeps s₀ s) {q : QueueId} : Answers s₀ (execEventExport q s) := by
  unfold execEventExport
  refine .done ?_
  refine .dispatch h ?_
  intro _ _ ht
  refine .ite ht.finish ?_
  extract_lets t₁
  have ht₁ : Keeps s₀ t₁ := .ite ht ht.onObj
  exact ht₁.emit.finish

theorem Answers.eventImport (h : Keeps s₀ s) {q : QueueId} : Answers s₀ (execEventImport q s) := by
  unfold execEventImport
  refine .done (.dispatch h fun p t ht => ?_)
  extract_lets tok bad
  rcases tokenParts tok with ⟨f, d, x, y, z⟩
  rcases t.tokenId with ⟨f', d'⟩
  refine .ite ht.finish (.ite ?own ?other)
  case own =>
    split
    · exact ht.finish
    · exact ht.addImporter.openMirror
  case other =>
    split
    · exact .ite ht.finish ht.finish
    · exact ht.onFleet.sendMsg

theorem Answers.signalHostOnce (h : Keeps s₀ s) {q : QueueId} : Answers s₀ (execSignalHostOnce q s) :=
  .done (h.dispatch (fun _ _ ht => ht.lastWord.finish))

theorem Answers.signalHostBind (h : Keeps s₀ s) {q : QueueId} : Answers s₀ (execSignalHostBind q s) := by
  unfold execSignalHostBind
  refine .done ?_
  refine .dispatch h ?_
  intro _ _ ht
  refine .ite ht.finish ?_
  refine .ite ht.finish ?_
  extract_lets b
  exact ht.onObj.emit.finish

theorem Answers.signalHostUnbind (h : Keeps s₀ s) {q : QueueId} : Answers s₀ (execSignalHostUnbind q s) :=
  .done (h.dispatch (fun _ _ ht => .ite ht.onObj.lastWord.finish ht.finish))

theorem Answers.mirrorUpdateSend (h : Keeps s₀ s) : Answers s₀ (execMirrorUpdateSend s) := by
  unfold execMirrorUpdateSend
  refine .done ?_
  refine .ite h ?_
  refine .foldl h ?_
  intro _ _ ht
  extract_lets v t₁
  have ht₁ : Keeps s₀ t₁ := ht.onObj
  exact .ite ht (.ite (ht₁.foldl (fun _ _ ht1 => .ite ht1 ht1.raiseMirror)) ht₁.nextMsgId_snd.sendMsg)

theorem Keeps.wordLost (h : Keeps s₀ s) {part word : Nat} : Keeps s₀ (s.wordLost part word) := h.logOcc

theorem Answers.signalWordUpdate (h : Keeps s₀ s) {fails : List Nat} : Answers s₀ (execSignalWordUpdate fails s) := by
  unfold execSignalWordUpdate
  refine .next ?_
  refine .ite h ?_
  extract_lets t
  have ht : Keeps s₀ t := h.foldl (fun _ _ ht => ht.wordLost)
  refine .foldl ht.onObj ?_
  intro _ _ ht1
  extract_lets v
  exact .ite ht1.onObj.wordLost (.ite ht1 ht1.onObj.emit)

/-! ### Operations of TwPkt -/

theorem Keeps.ruleBy (h : Keeps s₀ s) {source : Nat} {r : TwReg} : Keeps s₀ (s.ruleBy source r) := by
  unfold State.ruleBy
  split
  · exact h.ruleSet
  · exact h.ruleSet
  · exact h.ruleSet
  · exact h.ruleSet
  · exact h

theorem Answers.twConfig (h : Keeps s₀ s) {q : QueueId} : Answers s₀ (execTwConfig q s) := by
  unfold execTwConfig
  refine .done ?_
  refine .dispatch h ?_
  intro _ _ ht
  split
  · exact ht.finish
  · extract_lets t₁
    have ht₁ : Keeps s₀ t₁ := by
      unfold t₁
      refine .foldl ht ?_
      intro _ _ ht1
      split
      · exact ht1.twSet.ruleBy
      · exact ht1
    exact ht₁.finish

theorem Keeps.popSamples_snd (h : Keeps s₀ s) {k : Nat} : Keeps s₀ (State.popSamples k s).2 := by
  induction k generalizing s with
  | zero => exact h
  | succ k ih => exact ih h.popSample_snd

theorem Keeps.popTrigs_snd (h : Keeps s₀ s) {k : Nat} : Keeps s₀ (State.popTrigs k s).2 := by
  induction k generalizing s with
  | zero => exact h
  | succ k ih => exact ih h.popTrig_snd

theorem Keeps.twWords_snd (h : Keeps s₀ s) {p : Packet} : Keeps s₀ (s.twWords p).2 := by
  unfold State.twWords
  extract_lets off n rd
  split
  · exact h.popSamples_snd
  · split
    · exact h.popTrigs_snd
    · exact h

theorem Answers.twRead (h : Keeps s₀ s) {q : QueueId} : Answers s₀ (execTwRead q s) :=
  .done (h.dispatch (fun _ _ ht => ht.twWords_snd.emit.finish))

theorem Answers.ptmDialogue (h : Keeps s₀ s) {master : DWord} : Answers s₀ (execPtmDialogue master s) :=
  .next (.ite h.onTime h)

/-! ### Operations of Update -/

theorem Answers.updRequest (h : Keeps s₀ s) {b src : Nat} {phases : List UpdPhase} {f : State → State} (hf : ∀ t,
    Keeps s₀ t → Keeps s₀ (f t)) : Answers s₀ (updRequest b src phases f s) := by
  unfold Machine.updRequest
  exact .mctpRequest h (fun _ ht => .ite ht.replyTo (.ite ht.replyTo (.ite (hf _ ht) ht.replyTo)))

theorem Answers.requestUpdate (h : Keeps s₀ s) {b src maxTransfer : Nat} : Answers s₀ (execRequestUpdate b src
    maxTransfer s) := by
  unfold execRequestUpdate
  refine .mctpRequest h ?_
  intro _ ht
  refine .ite ht.replyTo ?_
  refine .ite ht.replyTo ?_
  extract_lets a t₁
  have ht₁ : Keeps s₀ t₁ := .ite ht ht.persist
  exact ht₁.onMgmt.replyTo

theorem Answers.getFirmwareParameters (h : Keeps s₀ s) {b src : Nat} : Answers s₀ (execGetFirmwareParameters b src s)
    := by
  unfold execGetFirmwareParameters
  exact .mctpRequest h (fun _ ht => ht.replyTo)

theorem Answers.passComponentTable (h : Keeps s₀ s) {b src : Nat} : Answers s₀ (execPassComponentTable b src s) :=
  .updRequest h (fun _ ht => ht.onMgmt.replyTo)

theorem Answers.updateComponent (h : Keeps s₀ s) {b src component size : Nat} : Answers s₀ (execUpdateComponent b src
    component size s) := by
  unfold execUpdateComponent
  refine .updRequest h ?_
  intro _ ht
  refine .ite ht.replyTo ?_
  extract_lets t₁
  have ht₁ : Keeps s₀ t₁ := ht.slotQueue.onMgmt
  exact ht₁.replyTo

theorem Keeps.takeChunk (h : Keeps s₀ s) {bytes : List Byte} : Keeps s₀ (s.takeChunk bytes) := by
  unfold State.takeChunk
  extract_lets off l fin t
  have ht : Keeps s₀ t := h.slotQueue
  exact ht.onMgmt

theorem Answers.firmwareDataResponse (h : Keeps s₀ s) {b src : Nat} {bytes : List Byte} : Answers s₀
    (execFirmwareDataResponse b src bytes s) := by
  unfold execFirmwareDataResponse
  refine .done ?_
  refine .ite ?_ h
  extract_lets s₁ t
  have hs₁ : Keeps s₀ s₁ := h.onMgmt
  have ht : Keeps s₀ t := hs₁.takeChunk
  exact .ite hs₁.askChunk (.ite ht.onMgmt.emit ht.askChunk)

theorem Answers.verifyComplete (h : Keeps s₀ s) {img : ImageInfo} : Answers s₀ (execVerifyComplete img s) := by
  unfold execVerifyComplete
  refine .done ?_
  refine .ite ?_ h
  extract_lets b
  split
  · exact h.onMgmt.emit.emit
  · exact h.onMgmt.emit

theorem Answers.activateFirmware (h : Keeps s₀ s) {b src : Nat} {selfContained : Bool} : Answers s₀
    (execActivateFirmware b src selfContained s) := by
  unfold execActivateFirmware
  refine .updRequest h ?_
  intro _ ht
  refine .ite ht.replyTo ?_
  extract_lets t₁
  have ht₁ : Keeps s₀ t₁ := ht.onMgmt
  exact ht₁.nvmQueue

theorem Answers.getStatus (h : Keeps s₀ s) {b src : Nat} : Answers s₀ (execGetStatus b src s) :=
  .mctpRequest h (fun _ ht => ht.replyTo)

theorem Answers.cancelUpdateComponent (h : Keeps s₀ s) {b src : Nat} : Answers s₀ (execCancelUpdateComponent b src s)
    := by
  unfold execCancelUpdateComponent
  exact .updRequest h (fun _ ht => ht.onNvm.onMgmt.replyTo)

theorem Answers.cancelUpdate (h : Keeps s₀ s) {b src : Nat} : Answers s₀ (execCancelUpdate b src s) :=
  .updRequest h (fun _ ht => ht.endUpdate.replyTo)

theorem Answers.updateIdleTimeout (h : Keeps s₀ s) : Answers s₀ (execUpdateIdleTimeout s) :=
  .done (.ite h.endUpdate h)

/-! ### Operations of Work -/

theorem Keeps.openLaunch (h : Keeps s₀ s) {l : Launch} : Keeps s₀ (s.openLaunch l) :=
  h.foldl (fun _ _ ht => ht.openStream)

theorem Keeps.takeLedger (h : Keeps s₀ s) {n : Nat} : Keeps s₀ (s.takeLedger n) := by
  unfold State.takeLedger
  extract_lets l t
  have ht : Keeps s₀ t := h.onWork
  exact ht.onLaunch

theorem Keeps.startLaunch (h : Keeps s₀ s) {p : Packet} {d : List Byte} : Keeps s₀ (s.startLaunch p d) := by
  unfold State.startLaunch
  extract_lets n l t t₁
  have ht : Keeps s₀ t := h.onWork
  have ht₁ : Keeps s₀ t₁ := ht.openLaunch
  split
  · exact h.finish
  · exact .ite h.finish (.ite h.finish (.ite ht₁.takeLedger ht₁))

theorem Answers.launch (h : Keeps s₀ s) {q : QueueId} {host : HostMem} : Answers s₀ (execLaunch q host s) := by
  unfold execLaunch
  dsimp only
  refine .done ?_
  refine .dispatch h ?_
  intro _ _ ht
  split
  · exact ht.accessPacketFault
  · exact .ite ht.settleLighter.meetEccVa.packetFault ht.settleLighter.meetEccVa.startLaunch

theorem Answers.ledgerAllocate (h : Keeps s₀ s) {n : Nat} : Answers s₀ (execLedgerAllocate n s) := by
  unfold execLedgerAllocate
  refine .done ?_
  extract_lets l first
  exact .ite h.takeLedger h

theorem Keeps.greetCores (h : Keeps s₀ s) {n : Nat} {cores : List Nat} : Keeps s₀ (s.greetCores n cores) := by
  unfold State.greetCores
  extract_lets l new
  exact (h.foldl (fun _ _ ht => ht.nearDrop)).onLaunch

theorem Keeps.placeNext (h : Keeps s₀ s) {n : Nat} : Keeps s₀ (s.placeNext n) := by
  unfold State.placeNext
  dsimp only
  split
  · split
    · exact h
    · exact .ite h.wakeSlice h.placeCluster.onLaunch.greetCores
  · split
    · exact h
    · exact .ite h.wakeSlice h.placeBlock.onLaunch.greetCores
  · refine .ite ?_ h
    split
    · exact h
    · exact .ite h.wakeSlice h.placeCluster.onLaunch.greetCores

theorem Answers.clusterPlace (h : Keeps s₀ s) {n : Nat} : Answers s₀ (execClusterPlace n s) := by
  unfold execClusterPlace
  refine .done ?_
  extract_lets l
  exact .ite h.placeNext h

theorem Answers.launchComplete (h : Keeps s₀ s) {n : Nat} : Answers s₀ (execLaunchComplete n s) := by
  unfold execLaunchComplete
  refine .done ?_
  extract_lets l
  exact .ite h.endLaunch h

theorem Keeps.startMover (h : Keeps s₀ s) {p : Packet} {bad : Option Nat} {scale : Nat} : Keeps s₀ (s.startMover p bad
    scale) := by
  unfold State.startMover
  split
  · exact h.finish
  · exact .ite h.finish h.splitPacket

theorem Answers.copy (h : Keeps s₀ s) {q : QueueId} : Answers s₀ (execCopy q s) :=
  .done (h.dispatch (fun _ _ ht => ht.startMover))

theorem Answers.fill (h : Keeps s₀ s) {q : QueueId} : Answers s₀ (execFill q s) :=
  .done (h.dispatch (fun _ _ ht => ht.startMover))

theorem Answers.convert (h : Keeps s₀ s) {q : QueueId} : Answers s₀ (execConvert q s) := by
  unfold execConvert
  refine .done ?_
  refine .dispatch h ?_
  intro _ _ ht
  split
  · exact ht.finish
  · refine .ite ht.finish ?_
    extract_lets t₁
    have ht₁ : Keeps s₀ t₁ := ht.openStream
    exact ht₁.splitPacket

theorem Answers.pack (h : Keeps s₀ s) {q : QueueId} : Answers s₀ (execPack q s) := by
  unfold execPack
  refine .done ?_
  refine .dispatch h ?_
  intro _ _ ht
  extract_lets prot
  exact ht.startMover

theorem Answers.unpack (h : Keeps s₀ s) {q : QueueId} : Answers s₀ (execUnpack q s) :=
  .done (h.dispatch (fun _ _ ht => ht.startMover))

theorem Answers.moverPieceComplete (h : Keeps s₀ s) {core : Nat} {host : HostMem} : Answers s₀ (execMoverPieceComplete
    core host s) := by
  unfold execMoverPieceComplete
  refine .done ?_
  split
  · extract_lets kept
    exact .ite h.onCoreAt.runPiece h
  · exact h

/-! ### Operations of Tick -/

theorem Keeps.tickTime (h : Keeps s₀ s) : Keeps s₀ s.tickTime := by
  unfold State.tickTime
  extract_lets t
  have ht : Keeps s₀ t := .ite h.loadSet h.onTime
  exact ht.onTime

theorem Keeps.tickOut (h : Keeps s₀ s) : Keeps s₀ s.tickOut := by
  unfold State.tickOut
  split
  · exact .ite h.onTw h
  · exact h

theorem Keeps.tickLog (h : Keeps s₀ s) : Keeps s₀ s.tickLog := by
  unfold State.tickLog
  extract_lets sec
  exact h.foldl (fun _ _ ht => .ite ht ht.logOcc.onLog)

theorem Keeps.tickDeep (h : Keeps s₀ s) : Keeps s₀ s.tickDeep := .ite h.enterDeep h

theorem Keeps.tickFleet (h : Keeps s₀ s) : Keeps s₀ s.tickFleet := .ite h.onFleet h

theorem Keeps.tick (h : Keeps s₀ s) : Keeps s₀ s.tick := .ite h.tickTime.tickOut.tickLog.tickFleet.tickDeep.settle h

/-! ### Every command -/

/-- A command of the JTAG port. -/
def Instr.IsTap (c : Instr) : Prop :=
  (∃ tdi, c = .bypass tdi ∨ c = .idcode tdi) ∨
    ∃ pins tdi, c ∈ [.samplePreload pins tdi, .extest pins tdi, .clamp pins tdi, .highz pins tdi, .extestPulse pins tdi,
      .extestTrain pins tdi]

/-- Every command but those of the JTAG port answers. -/
theorem answers_exec : ∀ (c : Instr) (s : State), ¬Instr.IsTap c → Answers s (exec c s)
  | .vddAoPorRelease, s, _ => .vddAoPorRelease (.refl s)
  | .vddAoDrop, s, _ => .vddAoDrop (.refl s)
  | .twRomCheckDone _, s, _ => .twRomCheckDone (.refl s)
  | .roleSelSample _, s, _ => .roleSelSample (.refl s)
  | .stage5RailPass _, s, _ => .stage5RailPass (.refl s)
  | .bootStageTimeout _, s, _ => .bootStageTimeout (.refl s)
  | .perstNAssert _ _, s, _ => .perstNAssert (.refl s)
  | .perstNRelease _, s, _ => .perstNRelease (.refl s)
  | .hostLinkReset, s, _ => .hostLinkReset (.refl s)
  | .pfFlr, s, _ => .pfFlr (.refl s)
  | .vfFlr _ _, s, _ => .vfFlr (.refl s)
  | .pilotWatchdogExpiry, s, _ => .pilotWatchdogExpiry (.refl s)
  | .hubPllLock, s, _ => .hubPllLock (.refl s)
  | .hubPllLockTimeout, s, _ => .hubPllLockTimeout (.refl s)
  | .imageVerifyDone _, s, _ => .imageVerifyDone (.refl s)
  | .pilotCheckIn, s, _ => .pilotCheckIn (.refl s)
  | .pilotStartTimeout, s, _ => .pilotStartTimeout (.refl s)
  | .fenceMapLoad, s, _ => .fenceMapLoad (.refl s)
  | .bistComplete _ _ _, s, _ => .bistComplete (.refl s)
  | .hbmTrainComplete _, s, _ => .hbmTrainComplete (.refl s)
  | .hostLinkTrained _ _ _, s, _ => .hostLinkTrained (.refl s)
  | .hostLinkStageDone, s, _ => .hostLinkStageDone (.refl s)
  | .fleetHailQuiet, s, _ => .fleetHailQuiet (.refl s)
  | .mboxNop _, s, _ => .mboxNop (.refl s)
  | .mboxLoadImage _ _, s, _ => .mboxLoadImage (.refl s)
  | .mboxReboot _, s, _ => .mboxReboot (.refl s)
  | .mboxConfirm _, s, _ => .mboxConfirm (.refl s)
  | .vfEnable _, s, _ => .vfEnable (.refl s)
  | .hostBar2Access _ _, s, _ => .hostBar2Access (.refl s)
  | .hostCxlMemRequest _ _, s, _ => .hostCxlMemRequest (.refl s)
  | .hostL12Exit, s, _ => .hostL12Exit (.refl s)
  | .d3hotRequest, s, _ => .d3hotRequest (.refl s)
  | .bar2Resize _ _, s, _ => .bar2Resize (.refl s)
  | .atsInvalidate _ _ _, s, _ => .atsInvalidate (.refl s)
  | .hostSnoop _ _, s, _ => .hostSnoop (.refl s)
  | .ptmDialogue _, s, _ => .ptmDialogue (.refl s)
  | .hwsFlitReceive _ _, s, _ => .hwsFlitReceive (.refl s)
  | .hwsReplayTimeout _, s, _ => .hwsReplayTimeout (.refl s)
  | .hwsReplayLimit _, s, _ => .hwsReplayLimit (.refl s)
  | .hwsSignalLoss _, s, _ => .hwsSignalLoss (.refl s)
  | .hwsFecErrorBurst _, s, _ => .hwsFecErrorBurst (.refl s)
  | .hwsDetectEnergy _ _, s, _ => .hwsDetectEnergy (.refl s)
  | .hwsSymbolLock _ _, s, _ => .hwsSymbolLock (.refl s)
  | .hwsCoeffRequestReceive _ _ _ _, s, _ => .hwsCoeffRequestReceive (.refl s)
  | .hwsLaneMaskReceive _ _ _, s, _ => .hwsLaneMaskReceive (.refl s)
  | .hwsHailReceive _ _, s, _ => .hwsHailReceive (.refl s)
  | .hwsCreditGrantReceive _ _, s, _ => .hwsCreditGrantReceive (.refl s)
  | .hwsGrantAckReceive _ _, s, _ => .hwsGrantAckReceive (.refl s)
  | .hwsRejectionReceive _ _, s, _ => .hwsRejectionReceive (.refl s)
  | .hwsRecordRepeat _, s, _ => .hwsRecordRepeat (.refl s)
  | .hwsStateTimeout _, s, _ => .hwsStateTimeout (.refl s)
  | .hwsAttemptGapExpiry _, s, _ => .hwsAttemptGapExpiry (.refl s)
  | .hwsSeriesTimeout _, s, _ => .hwsSeriesTimeout (.refl s)
  | .hwsPeerDetectPattern _, s, _ => .hwsPeerDetectPattern (.refl s)
  | .hwsDownSignalSense _, s, _ => .hwsDownSignalSense (.refl s)
  | .hwsRetrain _ _, s, _ => .hwsRetrain (.refl s)
  | .hwsLpiEntry _, s, _ => .hwsLpiEntry (.refl s)
  | .hwsLpiExit _, s, _ => .hwsLpiExit (.refl s)
  | .adcConversionDone _, s, _ => .adcConversionDone (.refl s)
  | .safetyScan _ _ _, s, _ => .safetyScan (.refl s)
  | .sequenceRunStart, s, _ => .sequenceRunStart (.refl s)
  | .seqStartWrite _ _, s, _ => .seqStartWrite (.refl s)
  | .twTimerExpiry _, s, _ => .twTimerExpiry (.refl s)
  | .digitalInputAccept _ _ _, s, _ => .digitalInputAccept (.refl s)
  | .ppsLost, s, _ => .ppsLost (.refl s)
  | .channelStale _, s, _ => .channelStale (.refl s)
  | .watchBoundary, s, _ => .watchBoundary (.refl s)
  | .timeOutSecond, s, _ => .timeOutSecond (.refl s)
  | .timeSet _, s, _ => .timeSet (.refl s)
  | .twSamplePop, s, _ => .twSamplePop (.refl s)
  | .twTrigPop, s, _ => .twTrigPop (.refl s)
  | .twRuleWrite _ _ _, s, _ => .twRuleWrite (.refl s)
  | .twThermLimWrite _, s, _ => .twThermLimWrite (.refl s)
  | .twStepWrite _ _ _, s, _ => .twStepWrite (.refl s)
  | .twWatchWrite _, s, _ => .twWatchWrite (.refl s)
  | .tripClear, s, _ => .tripClear (.refl s)
  | .hardCut _, s, _ => .hardCut (.refl s)
  | .idleDwellExpiry, s, _ => .idleDwellExpiry (.refl s)
  | .sleepPendingEntry, s, _ => .sleepPendingEntry (.refl s)
  | .deviceAwake _ _, s, _ => .deviceAwake (.refl s)
  | .deepWakeDone _, s, _ => .deepWakeDone (.refl s)
  | .hbmSrExitRetry _, s, _ => .hbmSrExitRetry (.refl s)
  | .sliceDozeDwellExpiry _, s, _ => .sliceDozeDwellExpiry (.refl s)
  | .sliceNapDwellExpiry _, s, _ => .sliceNapDwellExpiry (.refl s)
  | .sliceOffDwellExpiry _, s, _ => .sliceOffDwellExpiry (.refl s)
  | .sliceWakeDone _, s, _ => .sliceWakeDone (.refl s)
  | .prewakeLapse _, s, _ => .prewakeLapse (.refl s)
  | .pllRelockDone _ _, s, _ => .pllRelockDone (.refl s)
  | .pmbusTransactionDone _ _ _, s, _ => .pmbusTransactionDone (.refl s)
  | .pmbAlert _, s, _ => .pmbAlert (.refl s)
  | .budgetStep _, s, _ => .budgetStep (.refl s)
  | .powerHoldExpiry _, s, _ => .powerHoldExpiry (.refl s)
  | .doorbellSqPut _ _, s, _ => .doorbellSqPut (.refl s)
  | .cqGetWrite _ _, s, _ => .cqGetWrite (.refl s)
  | .packetFetch _ _, s, _ => .packetFetch (.refl s)
  | .fetchError _, s, _ => .fetchError (.refl s)
  | .arbitrationWindowEnd, s, _ => .arbitrationWindowEnd (.refl s)
  | .admqEnable _ _, s, _ => .admqEnable (.refl s)
  | .admqDisable _ _, s, _ => .admqDisable (.refl s)
  | .nop _, s, _ => .nop (.refl s)
  | .launch _ _, s, _ => .launch (.refl s)
  | .ledgerAllocate _, s, _ => .ledgerAllocate (.refl s)
  | .clusterPlace _, s, _ => .clusterPlace (.refl s)
  | .launchComplete _, s, _ => .launchComplete (.refl s)
  | .copy _, s, _ => .copy (.refl s)
  | .fill _, s, _ => .fill (.refl s)
  | .convert _, s, _ => .convert (.refl s)
  | .pack _, s, _ => .pack (.refl s)
  | .unpack _, s, _ => .unpack (.refl s)
  | .moverPieceComplete _ _, s, _ => .moverPieceComplete (.refl s)
  | .cimLoad _, s, _ => .cimLoad (.refl s)
  | .cimExec _, s, _ => .cimExec (.refl s)
  | .cimCalibrate _, s, _ => .cimCalibrate (.refl s)
  | .tallyAdd _, s, _ => .tallyAdd (.refl s)
  | .tallyWait _, s, _ => .tallyWait (.refl s)
  | .semPost _, s, _ => .semPost (.refl s)
  | .semWait _, s, _ => .semWait (.refl s)
  | .fence _, s, _ => .fence (.refl s)
  | .eventExport _, s, _ => .eventExport (.refl s)
  | .eventImport _, s, _ => .eventImport (.refl s)
  | .signalHostOnce _, s, _ => .signalHostOnce (.refl s)
  | .signalHostBind _, s, _ => .signalHostBind (.refl s)
  | .signalHostUnbind _, s, _ => .signalHostUnbind (.refl s)
  | .memAlloc _, s, _ => .memAlloc (.refl s)
  | .memFree _, s, _ => .memFree (.refl s)
  | .memMap _, s, _ => .memMap (.refl s)
  | .memUnmap _, s, _ => .memUnmap (.refl s)
  | .objRetain _, s, _ => .objRetain (.refl s)
  | .objRelease _, s, _ => .objRelease (.refl s)
  | .poolSet _, s, _ => .poolSet (.refl s)
  | .queueCreate _, s, _ => .queueCreate (.refl s)
  | .queueDestroy _, s, _ => .queueDestroy (.refl s)
  | .contextCreate _, s, _ => .contextCreate (.refl s)
  | .contextDestroy _, s, _ => .contextDestroy (.refl s)
  | .runBegin _, s, _ => .runBegin (.refl s)
  | .runEnd _, s, _ => .runEnd (.refl s)
  | .powerSetDevice _, s, _ => .powerSetDevice (.refl s)
  | .powerSetSlice _, s, _ => .powerSetSlice (.refl s)
  | .powerHold _, s, _ => .powerHold (.refl s)
  | .twConfig _, s, _ => .twConfig (.refl s)
  | .twRead _, s, _ => .twRead (.refl s)
  | .partCreate _ _, s, _ => .partCreate (.refl s)
  | .partDestroy _, s, _ => .partDestroy (.refl s)
  | .partScrubComplete _, s, _ => .partScrubComplete (.refl s)
  | .partQuery _, s, _ => .partQuery (.refl s)
  | .coreLayup _, s, _ => .coreLayup (.refl s)
  | .coreReturn _ _, s, _ => .coreReturn (.refl s)
  | .coreArrayError _ _, s, _ => .coreArrayError (.refl s)
  | .fleetForward _, s, _ => .fleetForward (.refl s)
  | .fleetBarrier _, s, _ => .fleetBarrier (.refl s)
  | .fleetQuery _, s, _ => .fleetQuery (.refl s)
  | .nvmRead _, s, _ => .nvmRead (.refl s)
  | .nvmWrite _ _, s, _ => .nvmWrite (.refl s)
  | .querySerial _, s, _ => .querySerial (.refl s)
  | .queryCores _, s, _ => .queryCores (.refl s)
  | .querySliceCores _, s, _ => .querySliceCores (.refl s)
  | .queryTime _, s, _ => .queryTime (.refl s)
  | .queryFwVer _, s, _ => .queryFwVer (.refl s)
  | .queryHbmFree _, s, _ => .queryHbmFree (.refl s)
  | .queryDeckFree _, s, _ => .queryDeckFree (.refl s)
  | .querySyncFree _, s, _ => .querySyncFree (.refl s)
  | .logRead _, s, _ => .logRead (.refl s)
  | .packetTimeout _, s, _ => .packetTimeout (.refl s)
  | .mma _ _ _ _ _ _ _, s, _ => .mma (.refl s)
  | .mmaComplete _ _, s, _ => .mmaComplete (.refl s)
  | .accZero _ _, s, _ => .accZero (.refl s)
  | .accRd _ _ _, s, _ => .accRd (.refl s)
  | .accWr _ _ _, s, _ => .accWr (.refl s)
  | .accSt _ _ _, s, _ => .accSt (.refl s)
  | .cvt _ _ _ _ _ _ _, s, _ => .cvt (.refl s)
  | .cvtMx _ _ _ _ _ _ _ _ _, s, _ => .cvtMx (.refl s)
  | .amaxRd _ _ _, s, _ => .amaxRd (.refl s)
  | .amaxScl _ _ _ _, s, _ => .amaxScl (.refl s)
  | .flgRd _ _, s, _ => .flgRd (.refl s)
  | .flgClr _, s, _ => .flgClr (.refl s)
  | .vectorOp _ _ _ _ _ _ _ _, s, _ => .vectorOp (.refl s)
  | .sfuOp _ _ _ _, s, _ => .sfuOp (.refl s)
  | .ld _ _ _ _ _ _, s, _ => .ld (.refl s)
  | .st _ _ _ _, s, _ => .st (.refl s)
  | .ldC _ _ _ _ _, s, _ => .ldC (.refl s)
  | .stC _ _ _ _, s, _ => .stC (.refl s)
  | .atomC _ _ _ _ _ _, s, _ => .atomC (.refl s)
  | .ldTile _ _ _ _ _, s, _ => .ldTile (.refl s)
  | .ldConst _ _ _ _ _ _, s, _ => .ldConst (.refl s)
  | .ldLt _ _ _ _, s, _ => .ldLt (.refl s)
  | .stLt _ _ _, s, _ => .stLt (.refl s)
  | .fenceBlk _, s, _ => .fenceBlk (.refl s)
  | .fenceClu _, s, _ => .fenceClu (.refl s)
  | .fenceDev _, s, _ => .fenceDev (.refl s)
  | .fenceSys _, s, _ => .fenceSys (.refl s)
  | .barBlk _ _ _, s, _ => .barBlk (.refl s)
  | .barClu _ _ _, s, _ => .barClu (.refl s)
  | .barrierTimeout _, s, _ => .barrierTimeout (.refl s)
  | .bra _ _ _, s, _ => .bra (.refl s)
  | .join _ _, s, _ => .join (.refl s)
  | .exitLanes _, s, _ => .exitLanes (.refl s)
  | .flagCombine _, s, _ => .flagCombine (.refl s)
  | .trap _, s, _ => .trap (.refl s)
  | .movStart _ _ _, s, _ => .movStart (.refl s)
  | .movWait _ _ _ _, s, _ => .movWait (.refl s)
  | .chdAlloc _ _ _, s, _ => .chdAlloc (.refl s)
  | .chdFree _ _, s, _ => .chdFree (.refl s)
  | .chdHdl _ _ _, s, _ => .chdHdl (.refl s)
  | .cimMvm _ _ _, s, _ => .cimMvm (.refl s)
  | .tallyAddInstr _ _ _ _ _, s, _ => .tallyAddInstr (.refl s)
  | .tallyRd _ _ _, s, _ => .tallyRd (.refl s)
  | .tallyWaitInstr _ _ _ _ _ _, s, _ => .tallyWaitInstr (.refl s)
  | .semWaitInstr _ _ _ _ _ _ _, s, _ => .semWaitInstr (.refl s)
  | .semTry _ _ _ _ _ _, s, _ => .semTry (.refl s)
  | .semPostInstr _ _ _ _ _, s, _ => .semPostInstr (.refl s)
  | .semPostOwn _ _ _ _, s, _ => .semPostOwn (.refl s)
  | .semRd _ _ _, s, _ => .semRd (.refl s)
  | .syncOpApply _, s, _ => .syncOpApply (.refl s)
  | .gangWaitTimeout _, s, _ => .gangWaitTimeout (.refl s)
  | .syncRecheck, s, _ => .syncRecheck (.refl s)
  | .syncDbgRepair _, s, _ => .syncDbgRepair (.refl s)
  | .memAdd _ _ _ _, s, _ => .memAdd (.refl s)
  | .reductionApply _, s, _ => .reductionApply (.refl s)
  | .xsAdd _ _ _, s, _ => .xsAdd (.refl s)
  | .xsClr _ _ _, s, _ => .xsClr (.refl s)
  | .xsRd _ _ _ _ _, s, _ => .xsRd (.refl s)
  | .xsRaw _ _ _ _, s, _ => .xsRaw (.refl s)
  | .dfrAdd _ _ _ _, s, _ => .dfrAdd (.refl s)
  | .dfrXs _ _ _, s, _ => .dfrXs (.refl s)
  | .blockCommit _, s, _ => .blockCommit (.refl s)
  | .commitArrive _ _, s, _ => .commitArrive (.refl s)
  | .contextStop _, s, _ => .contextStop (.refl s)
  | .missReturn _ _ _, s, _ => .missReturn (.refl s)
  | .homeRequest _ _ _ _, s, _ => .homeRequest (.refl s)
  | .homeNackRetry _ _, s, _ => .homeNackRetry (.refl s)
  | .tenureEnd _ _, s, _ => .tenureEnd (.refl s)
  | .forwardedRequest _, s, _ => .forwardedRequest (.refl s)
  | .bisnpResponse _ _, s, _ => .bisnpResponse (.refl s)
  | .combiningDrain _, s, _ => .combiningDrain (.refl s)
  | .lighterRmw, s, _ => .lighterRmw (.refl s)
  | .hbmPatrolScrub _ _, s, _ => .hbmPatrolScrub (.refl s)
  | .deckPatrolScrub _ _ _, s, _ => .deckPatrolScrub (.refl s)
  | .cimOpStart _, s, _ => .cimOpStart (.refl s)
  | .cimOpComplete _ _, s, _ => .cimOpComplete (.refl s)
  | .cimCalibrationStart _, s, _ => .cimCalibrationStart (.refl s)
  | .cimCalibrationDone _ _ _, s, _ => .cimCalibrationDone (.refl s)
  | .mirrorUpdateSend, s, _ => .mirrorUpdateSend (.refl s)
  | .mirrorUpdateReceive, s, _ => .mirrorUpdateReceive (.refl s)
  | .signalWordUpdate _, s, _ => .signalWordUpdate (.refl s)
  | .announceSend, s, _ => .announceSend (.refl s)
  | .announceReceive, s, _ => .announceReceive (.refl s)
  | .numberingRoundEnd, s, _ => .numberingRoundEnd (.refl s)
  | .assignReceive _, s, _ => .assignReceive (.refl s)
  | .routesReceive, s, _ => .routesReceive (.refl s)
  | .beatSend, s, _ => .beatSend (.refl s)
  | .beatReceive, s, _ => .beatReceive (.refl s)
  | .workerLost _, s, _ => .workerLost (.refl s)
  | .workerAdrift, s, _ => .workerAdrift (.refl s)
  | .lossReceive, s, _ => .lossReceive (.refl s)
  | .powerMessageReceive, s, _ => .powerMessageReceive (.refl s)
  | .forwardReceive, s, _ => .forwardReceive (.refl s)
  | .statusReplyReceive, s, _ => .statusReplyReceive (.refl s)
  | .statusAckReceive, s, _ => .statusAckReceive (.refl s)
  | .readDataReceive, s, _ => .readDataReceive (.refl s)
  | .refusalReceive, s, _ => .refusalReceive (.refl s)
  | .remoteWriteReceive, s, _ => .remoteWriteReceive (.refl s)
  | .remoteReadReceive, s, _ => .remoteReadReceive (.refl s)
  | .eventImportReadReceive, s, _ => .eventImportReadReceive (.refl s)
  | .tallyAddRemoteReceive, s, _ => .tallyAddRemoteReceive (.refl s)
  | .semRemoteReceive, s, _ => .semRemoteReceive (.refl s)
  | .pairOpenReceive, s, _ => .pairOpenReceive (.refl s)
  | .fleetPairCfgWrite _, s, _ => .fleetPairCfgWrite (.refl s)
  | .barrierStart, s, _ => .barrierStart (.refl s)
  | .openReceive, s, _ => .openReceive (.refl s)
  | .barrierDrained, s, _ => .barrierDrained (.refl s)
  | .drainedReceive, s, _ => .drainedReceive (.refl s)
  | .drainTimeout, s, _ => .drainTimeout (.refl s)
  | .closeReceive, s, _ => .closeReceive (.refl s)
  | .appliedReceive, s, _ => .appliedReceive (.refl s)
  | .advanceReceive, s, _ => .advanceReceive (.refl s)
  | .doneReceive, s, _ => .doneReceive (.refl s)
  | .fleetSave _, s, _ => .fleetSave (.refl s)
  | .fleetForget _, s, _ => .fleetForget (.refl s)
  | .fleetClearId _, s, _ => .fleetClearId (.refl s)
  | .rwStart _ _ _, s, _ => .rwStart (.refl s)
  | .pilotStrictSlot _, s, _ => .pilotStrictSlot (.refl s)
  | .getVersion _ _, s, _ => .getVersion (.refl s)
  | .getCapabilities _ _, s, _ => .getCapabilities (.refl s)
  | .negotiateAlgorithms _ _ _, s, _ => .negotiateAlgorithms (.refl s)
  | .getDigests _ _ _, s, _ => .getDigests (.refl s)
  | .getCertificate _ _ _ _ _ _, s, _ => .getCertificate (.refl s)
  | .challenge _ _ _ _, s, _ => .challenge (.refl s)
  | .getMeasurements _ _ _ _ _, s, _ => .getMeasurements (.refl s)
  | .keyExchange _ _ _, s, _ => .keyExchange (.refl s)
  | .finish _ _ _ _, s, _ => .finish (.refl s)
  | .endSession _ _ _, s, _ => .endSession (.refl s)
  | .doeDiscovery _ _, s, _ => .doeDiscovery (.refl s)
  | .nvmEraseDone, s, _ => .nvmEraseDone (.refl s)
  | .nvmPageDone _, s, _ => .nvmPageDone (.refl s)
  | .logRelease _, s, _ => .logRelease (.refl s)
  | .intMaskWrite _, s, _ => .intMaskWrite (.refl s)
  | .vfsMaskWrite _ _, s, _ => .vfsMaskWrite (.refl s)
  | .registerWrite _ _ _, s, _ => .registerWrite (.refl s)
  | .lowHalfReadLatch _ _ _, s, _ => .lowHalfReadLatch (.refl s)
  | .mctpPacketReceive _, s, _ => .mctpPacketReceive (.refl s)
  | .mctpReassemblyTimeout _ _, s, _ => .mctpReassemblyTimeout (.refl s)
  | .smbusClockLowTimeout, s, _ => .smbusClockLowTimeout (.refl s)
  | .smbusAlertResponse, s, _ => .smbusAlertResponse (.refl s)
  | .setEndpointId _ _ _, s, _ => .setEndpointId (.refl s)
  | .getEndpointId _ _, s, _ => .getEndpointId (.refl s)
  | .getEndpointUuid _ _, s, _ => .getEndpointUuid (.refl s)
  | .getMctpVersionSupport _ _ _, s, _ => .getMctpVersionSupport (.refl s)
  | .getMessageTypeSupport _ _, s, _ => .getMessageTypeSupport (.refl s)
  | .getTid _ _, s, _ => .getTid (.refl s)
  | .setTid _ _ _, s, _ => .setTid (.refl s)
  | .getPldmVersion _ _ _, s, _ => .getPldmVersion (.refl s)
  | .getPldmTypes _ _, s, _ => .getPldmTypes (.refl s)
  | .getPldmCommands _ _ _, s, _ => .getPldmCommands (.refl s)
  | .getPdrRepositoryInfo _ _, s, _ => .getPdrRepositoryInfo (.refl s)
  | .getPdr _ _ _, s, _ => .getPdr (.refl s)
  | .getSensorReading _ _ _, s, _ => .getSensorReading (.refl s)
  | .getStateSensorReadings _ _ _, s, _ => .getStateSensorReadings (.refl s)
  | .setEventReceiver _ _ _, s, _ => .setEventReceiver (.refl s)
  | .getEventReceiver _ _, s, _ => .getEventReceiver (.refl s)
  | .pldmEventRetry, s, _ => .pldmEventRetry (.refl s)
  | .requestUpdate _ _ _, s, _ => .requestUpdate (.refl s)
  | .getFirmwareParameters _ _, s, _ => .getFirmwareParameters (.refl s)
  | .passComponentTable _ _, s, _ => .passComponentTable (.refl s)
  | .updateComponent _ _ _ _, s, _ => .updateComponent (.refl s)
  | .firmwareDataResponse _ _ _, s, _ => .firmwareDataResponse (.refl s)
  | .verifyComplete _, s, _ => .verifyComplete (.refl s)
  | .activateFirmware _ _ _, s, _ => .activateFirmware (.refl s)
  | .getStatus _ _, s, _ => .getStatus (.refl s)
  | .cancelUpdateComponent _ _, s, _ => .cancelUpdateComponent (.refl s)
  | .cancelUpdate _ _, s, _ => .cancelUpdate (.refl s)
  | .updateIdleTimeout, s, _ => .updateIdleTimeout (.refl s)
  | .bypass tdi, _, hc => (hc (.inl ⟨tdi, by simp⟩)).elim
  | .idcode tdi, _, hc => (hc (.inl ⟨tdi, by simp⟩)).elim
  | .samplePreload pins tdi, _, hc => (hc (.inr ⟨pins, tdi, by simp⟩)).elim
  | .extest pins tdi, _, hc => (hc (.inr ⟨pins, tdi, by simp⟩)).elim
  | .clamp pins tdi, _, hc => (hc (.inr ⟨pins, tdi, by simp⟩)).elim
  | .highz pins tdi, _, hc => (hc (.inr ⟨pins, tdi, by simp⟩)).elim
  | .extestPulse pins tdi, _, hc => (hc (.inr ⟨pins, tdi, by simp⟩)).elim
  | .extestTrain pins tdi, _, hc => (hc (.inr ⟨pins, tdi, by simp⟩)).elim
  | .moverDescriptorComplete _ _, s, _ => .moverDescriptorComplete (.refl s)
  | .cimLoadComplete _ _, s, _ => .cimLoadComplete (.refl s)
  | .sysRefclkStop, s, _ => .sysRefclkStop (.refl s)
  | .ideKmRequest _ _ _ _, s, _ => .ideKmRequest (.refl s)

/-- A command of the JTAG port answers, but for the fault while TEST_MODE is high (R488). -/
theorem answers_exec_of_isTap {c : Instr} (hc : Instr.IsTap c) (s : State) :
    Answers s (exec c s) ∨ (exec c s = .fault .testModeHigh ∧ s.jtag.testMode = true) := by
  have h : Keeps s s := .refl s
  obtain ⟨tdi, rfl | rfl⟩ | ⟨pins, tdi, hc⟩ := hc
  · exact Keeps.tapCommand h.tapBypass
  · change Answers s (execIdcode tdi s) ∨ (execIdcode tdi s = _ ∧ _)
    unfold execIdcode
    refine Keeps.tapCommand ?_
    exact h.onJtag.emit
  · simp only [List.mem_cons, List.not_mem_nil, or_false] at hc
    obtain rfl | rfl | rfl | rfl | rfl | rfl := hc
    · exact Keeps.tapCommand h.tapBoundary
    all_goals exact Keeps.tapCommand h.tapTest

/-! ### The statements -/

/-- Settles O53: each command's meaning is built of operations that keep the queue; the TAP commands alone can fault. -/
theorem commandsComplete : Obligations.CommandsComplete := by
  unfold Obligations.CommandsComplete
  intro c s
  by_cases hc : Instr.IsTap c
  · obtain ⟨t, ht, hkeeps, -⟩ | ⟨hfault, htest⟩ := answers_exec_of_isTap hc s
    · exact .inl ⟨t, ht, hkeeps⟩
    · exact .inr ⟨hfault, htest, hc⟩
  · obtain ⟨t, ht, hkeeps, -⟩ := answers_exec c s hc
    exact .inl ⟨t, ht, hkeeps⟩

/-- A command that answers keeps the form of memory. -/
theorem Memory.wf_of_exec {c : Instr} {s t : State} (hs : Memory.wf s = true) (ht : exec c s = .next t) :
    Memory.wf t = true := by
  have answered : Answers s (exec c s) := by
    by_cases hc : Instr.IsTap c
    · obtain h | ⟨h, -⟩ := answers_exec_of_isTap hc s
      · exact h
      · rw [h] at ht
        cases ht
    · exact answers_exec c s hc
  obtain ⟨u, hu, hkeeps⟩ := answered
  obtain rfl : u = t := by simpa [hu] using ht
  exact hkeeps.2 hs

/-- Settles O54: a step is a tick or a command, and both keep the form of memory. -/
theorem stepKeepsMemoryForm : Obligations.StepKeepsMemoryForm := by
  unfold Obligations.StepKeepsMemoryForm
  intro s t hs hstep
  unfold step at hstep
  split at hstep
  · obtain rfl : s.tick = t := by simpa using hstep
    exact (Keeps.refl s).tick.2 hs
  next c rest _ => exact Memory.wf_of_exec (s := { s with pending := rest }) hs hstep

end Sys2Proof.Machine
end

section
/-! PROOFS. One step, the TAP and the state at cold reset. -/

namespace Sys2Proof.Machine

open Sys2Proof

theorem step_cons {s : State} {c : Instr} {l : List Instr} (hl : s.pending = c :: l) :
    step s = exec c { s with pending := l } := by
  simp only [step, hl]

/-- Settles O52: a step is its command on the rest of the queue. -/
theorem stepTakesFront : Obligations.StepTakesFront := by
  unfold Obligations.StepTakesFront
  refine ⟨fun c s => rfl, fun c s l hl => step_cons hl, ?empty⟩
  case empty =>
    intro s hl
    simp only [step, hl]

/-! ### The TAP -/

theorem tapCommand_low {s : State} (h : s.jtag.testMode = false) (f : State → State) : tapCommand f s = .next (f s) := by
  simp [tapCommand, h]

theorem tapCommand_high {s : State} (h : s.jtag.testMode = true) (f : State → State) :
    tapCommand f s = .fault .testModeHigh := by
  simp [tapCommand, h]

theorem exec_idcode (tdi : List Bool) (s : State) :
    exec (.idcode tdi) s = tapCommand (fun s => (s.onJtag fun j => { j with ir := .idcode }).emit
      (.tdo (((List.range 32).map idcode.getLsbD ++ tdi).take tdi.length))) s := by
  rfl

/-- The bypass register is one bit that captures 0 (R488). -/
theorem State.tapBypass_eq (i : TapIr) (tdi : List Bool) (s : State) :
    s.tapBypass i tdi = (s.onJtag fun j => { j with ir := i }).emit (.tdo ((false :: tdi).take tdi.length)) := rfl

/-- The boundary register captures the pins and keeps the last bits shifted in (R488). -/
theorem State.tapBoundary_eq (i : TapIr) (pins tdi : List Bool) (s : State) :
    s.tapBoundary i pins tdi = (s.onJtag fun j => { j with ir := i, bsr := (pins ++ tdi).drop tdi.length }).emit
      (.tdo ((pins ++ tdi).take tdi.length)) := rfl

/-- With PERST_N released a test instruction is SAMPLE/PRELOAD (R489). -/
theorem State.tapTest_released {s : State} (h : s.ao.perstReleased = true) (i : TapIr) (pins tdi : List Bool) :
    s.tapTest i pins tdi = s.tapBoundary i pins tdi := by
  simp [State.tapTest, h]

/-- EXTEST and its two relatives select the boundary register whatever PERST_N is. -/
theorem State.tapTest_boundary {i : TapIr} (h : i = .extest ∨ i = .extestPulse ∨ i = .extestTrain) (pins tdi : List Bool)
    (s : State) : s.tapTest i pins tdi = s.tapBoundary i pins tdi := by
  obtain rfl | rfl | rfl := h <;> simp [State.tapTest]

/-- CLAMP and HIGHZ select the bypass register while PERST_N is asserted. -/
theorem State.tapTest_bypass {s : State} (hp : s.ao.perstReleased = false) {i : TapIr} (h : i = .clamp ∨ i = .highz)
    (pins tdi : List Bool) : s.tapTest i pins tdi = s.tapBypass i tdi := by
  obtain rfl | rfl := h <;> simp [State.tapTest, hp]

/-- Settles O50: each TAP instruction is one shift through the register it selects, or a fault. -/
theorem jtagInstructions : Obligations.JtagInstructions := by
  unfold Obligations.JtagInstructions
  refine ⟨fun s tdi h => tapCommand_low h _,
    fun s tdi h => (exec_idcode tdi s).trans (tapCommand_low h _), fun s pins tdi h => tapCommand_low h _,
    ?tests, ?bypassed, ?high⟩
  case tests =>
    intro s pins tdi c i hlow hc
    have htest : exec c s = tapCommand (fun t => t.tapTest i pins tdi) s := by
      obtain ⟨rfl, rfl⟩ | ⟨rfl, rfl⟩ | ⟨rfl, rfl⟩ | ⟨-, ⟨rfl, rfl⟩ | ⟨rfl, rfl⟩⟩ := hc <;> rfl
    have hbound : s.tapTest i pins tdi = s.tapBoundary i pins tdi := by
      obtain ⟨-, h⟩ | ⟨-, h⟩ | ⟨-, h⟩ | ⟨hp, -⟩ := hc
      · exact State.tapTest_boundary (.inl h) pins tdi s
      · exact State.tapTest_boundary (.inr (.inl h)) pins tdi s
      · exact State.tapTest_boundary (.inr (.inr h)) pins tdi s
      · exact State.tapTest_released hp i pins tdi
    rw [htest, tapCommand_low hlow, hbound, State.tapBoundary_eq]
  case bypassed =>
    intro s pins tdi c i hlow hp hc
    have htest : exec c s = tapCommand (fun t => t.tapTest i pins tdi) s := by
      obtain ⟨rfl, rfl⟩ | ⟨rfl, rfl⟩ := hc <;> rfl
    rw [htest, tapCommand_low hlow, State.tapTest_bypass hp (hc.imp And.right And.right), State.tapBypass_eq]
  case high =>
    intro s pins tdi c hhigh hc
    simp only [List.mem_cons, List.not_mem_nil, or_false] at hc
    rcases hc with rfl | rfl | hc
    · exact tapCommand_high hhigh _
    · exact (exec_idcode tdi s).trans (tapCommand_high hhigh _)
    · obtain rfl | rfl | rfl | rfl | rfl | rfl := hc <;> exact tapCommand_high hhigh _

/-! ### Cold reset -/

/-- Settles O55: the initial state, field by field; the one fault is TEST_MODE's. -/
theorem resetState : Obligations.ResetState := by
  unfold Obligations.ResetState
  refine ⟨rfl, Memory.wf_reset, ?zeros, rfl, rfl, rfl, rfl, rfl, rfl, rfl, ?parts, fun q => ⟨rfl, rfl⟩, rfl, ?rules,
    rfl, rfl, rfl, rfl, fun n => rfl, fun n => rfl, fun i => ⟨rfl, rfl⟩, rfl, rfl, ?fault⟩
  case zeros =>
    intro a n
    simp [Mem.read, State.reset, Tab.look]
  case fault =>
    rintro ⟨t, ht⟩
    rw [step_cons (c := .idcode []) rfl, exec_idcode, tapCommand_high rfl] at ht
    cases ht
  case parts =>
    intro n
    simp [State.partExists, State.pmap, State.reset, Tab.look]
  case rules =>
    intro n
    simp [State.reset, Tab.look]

end Sys2Proof.Machine
end

section
/-! PROOFS. The boot stages up to 9. -/

namespace Sys2Proof.Machine

open Sys2Proof

theorem State.atStage_of {s : State} {n : Nat} (hstage : s.boot.stage = n) (hhalt : s.boot.halt = false) :
    s.atStage n = true := by
  simp [State.atStage, hstage, hhalt]

@[simp] theorem State.halt_boot (stage code : Nat) (detail : Word) (s : State) :
    (s.halt stage code detail).boot = { s.boot with
      halt := true, ready := false, stage := stage, failCode := BitVec.ofNat 16 code, detail := detail
      bootTime := s.bootUs } := by
  simp [State.halt]

@[simp] theorem State.note_boot (code : Nat) (detail : Word) (s : State) :
    (s.note code detail).boot = { s.boot with
      warn := true, failCode := BitVec.ofNat 16 code, detail := detail, noteCode := BitVec.ofNat 16 code
      noteDetail := detail } := by
  simp [State.note]

/-- With a source left the boot goes on to it (R38). -/
theorem State.nextSource_of_cons {s : State} {src x : BitVec 2} {r : List (BitVec 2)} (h : s.boot.sources = src :: x :: r) :
    s.nextSource = s.onBoot fun b => { b with stage := 7, sources := x :: r } := by
  simp [State.nextSource, State.onBoot, h]

/-- Three equal samples end stage 4 (R26). -/
theorem exec_roleSelSample_third {s : State} {v : BitVec 2} (hstage : s.boot.stage = 4) (hhalt : s.boot.halt = false)
    (hl : s.ao.roleSamples = [v, v]) :
    exec (.roleSelSample v) s = .next
      (let t := s.onAo fun a => { a with roleSamples := [v, v, v], role := some v }
       if v = 3 then t.haltEarly 4 0x0401 3 else t.after4) := by
  change execRoleSelSample v s = _
  simp [execRoleSelSample, State.atStage_of hstage hhalt, hl]

/-- Settles O1: each branch of the always-on stages. -/
theorem alwaysOnStages : Obligations.AlwaysOnStages := by
  unfold Obligations.AlwaysOnStages
  refine ⟨?por, ?romPass, ?romFirst, ?romSecond, ?sample, ?role, ?reserved⟩
  case por =>
    intro s hpor
    change execVddAoPorRelease s = _
    simp [execVddAoPorRelease, hpor, State.onAo, State.onBoot, State.onTime]
  case romPass =>
    intro s hstage hhalt hpor
    change execTwRomCheckDone true s = _
    simp [execTwRomCheckDone, State.atStage_of hstage hhalt, hpor, State.onAo, State.onBoot, State.onTw]
  case romFirst =>
    intro s hstage hhalt hpor hfirst
    change execTwRomCheckDone false s = _
    simp [execTwRomCheckDone, State.atStage_of hstage hhalt, hpor, hfirst, State.onAo]
  case romSecond =>
    intro s hstage hhalt hpor hsecond
    refine ⟨(s.onAo fun a => { a with twRomFails := 2 }).haltEarly 3 0x0301 0, ?_, ?_⟩
    · change execTwRomCheckDone false s = _
      simp [execTwRomCheckDone, State.atStage_of hstage hhalt, hpor, hsecond]
    · simp [State.haltEarly]
  case sample =>
    intro s v hstage hhalt hlen
    change execRoleSelSample v s = _
    simp [execRoleSelSample, State.atStage_of hstage hhalt, State.onAo, Nat.succ_lt_succ hlen]
  case role =>
    intro s v hstage hhalt hl hv
    refine ⟨_, exec_roleSelSample_third hstage hhalt hl, ?_⟩
    simp only [hv, if_false]
    simp [State.after4, hhalt]
  case reserved =>
    intro s hstage hhalt hl
    refine ⟨_, exec_roleSelSample_third hstage hhalt hl, ?_⟩
    simp only [if_true]
    simp [State.haltEarly]

/-- The recovery flash shows by its image whether it can be read. -/
def State.sawImage (src : BitVec 2) (img : ImageInfo) (s : State) : State :=
  if src = 2 then s.onAo fun a => { a with recFlash := img.readable } else s

@[simp] theorem State.sawImage_boot (src : BitVec 2) (img : ImageInfo) (s : State) :
    (s.sawImage src img).boot = s.boot := by
  unfold State.sawImage
  split <;> rfl

@[simp] theorem State.sawImage_minSvn (src : BitVec 2) (img : ImageInfo) (s : State) :
    (s.sawImage src img).ao.minSvn = s.ao.minSvn := by
  unfold State.sawImage
  split <;> rfl

/-- The ROM's verdict on the image of the source it tries (R31). -/
theorem exec_imageVerifyDone {s : State} {img : ImageInfo} {src : BitVec 2} {r : List (BitVec 2)}
    (hat : s.atStage 7 = true) (hsel : s.boot.selWrite = false) (hsrc : s.boot.sources = src :: r) :
    exec (.imageVerifyDone img) s = .next (match rejectReason s.ao.minSvn img with
      | none => (s.sawImage src img).startPilot src img
      | some why => ((s.sawImage src img).note 0x0701
          (BitVec.ofNat 32 (src.toNat * 2 ^ 28 + why * 2 ^ 24))).nextSource) := by
  change execImageVerifyDone img s = _
  rw [← State.sawImage_minSvn src img s]
  simp only [execImageVerifyDone, hat, hsel, hsrc, Bool.not_false, Bool.and_self]
  rfl

theorem exec_pilotCheckIn {s : State} (hat : s.atStage 8 = true) :
    exec .pilotCheckIn s = .next (s.onBoot fun b => { b with stage := 9 }).fleetInit := by
  change execPilotCheckIn s = _
  simp only [execPilotCheckIn, hat, if_true]

theorem exec_pilotStartTimeout {s : State} (hat : s.atStage 8 = true) :
    exec .pilotStartTimeout s = .next (s.sourceLate 8) := by
  change execPilotStartTimeout s = _
  simp only [execPilotStartTimeout, hat, if_true]

@[simp] theorem State.romSelect_boot (d : List Byte) (s : State) :
    (s.romSelect d).boot = { s.boot with selWrite := !s.nvm.refusing || s.boot.selWrite } := by
  unfold State.romSelect
  split <;> simp_all

/-- A manager is device 0 (R377). -/
theorem State.fleetInit_devNum_manager {s : State} (h : s.isManager = true) : s.fleetInit.fleet.devNum = some 0 := by
  simp only [State.fleetInit]
  split <;> simp_all [State.isManager]

theorem State.fleetInit_devNum_worker {s : State} (h : s.isManager = false) : s.fleetInit.fleet.devNum = none := by
  simp only [State.fleetInit]
  split <;> simp_all [State.isManager]

/-- A manager without a fleet ID on record takes its serial number, or 1 (R377). -/
theorem State.fleetInit_id_manager {s : State} (h : s.isManager = true) : s.fleetInit.fleet.id ≠ 0 := by
  have hman : s.ao.role = some 1 := by simpa [State.isManager] using h
  simp only [State.fleetInit, State.onFleet_fleet]
  split <;> simp only [State.isManager, State.logOcc_frame, hman] <;> split_ifs <;> simp_all

/-- Stage 7 begins with three sources (R31). -/
theorem State.enter7_boot (s : State) : s.enter7.boot.hubPll = s.boot.hubPll ∧ s.enter7.boot.stage = 7 ∧
    s.enter7.boot.sources.length = 3 := by
  simp only [State.enter7]
  split <;> split_ifs <;> simp

/-- Settles O3: each branch of stages 5 to 8. -/
theorem stagesFiveToEight : Obligations.StagesFiveToEight := by
  unfold Obligations.StagesFiveToEight
  refine ⟨?rails, ?lock5, ?lock6, ?noLock, ?accept, ?reject, ?checkIn, ?late⟩
  case rails =>
    intro s means hstage hhalt hhub hok hpll
    have hfind : ((List.range 15).find? fun i => !s.s5Ok i (means.getD i 0).toNat) = none := by
      rw [List.find?_eq_none]
      intro i hi
      simp only [hok i (List.mem_range.mp hi), Bool.not_true, Bool.false_eq_true, not_false_eq_true]
    change execStage5RailPass means s = _
    simp only [execStage5RailPass, State.atStage_of hstage hhalt, hhub, Bool.and_self, if_true, hfind]
    simp [State.after5, State.onBoot, hpll]
  case lock5 =>
    intro s hhub hpll hhalt hstage
    change execHubPllLock s = _
    simp [execHubPllLock, hhub, hpll, hhalt, hstage, State.onBoot, State.onAo]
  case lock6 =>
    intro s hhub hpll hhalt hstage
    refine ⟨((s.onBoot fun b => { b with hubPll := true }).onAo fun a => { a with sysRefclk := true }).enter7, ?_, ?_⟩
    · change execHubPllLock s = _
      simp [execHubPllLock, hhub, hpll, hhalt, hstage]
    · simpa using State.enter7_boot
        ((s.onBoot fun b => { b with hubPll := true }).onAo fun a => { a with sysRefclk := true })
  case noLock =>
    intro s hhub hpll hhalt
    refine ⟨s.halt 7 0x0703 0, ?_, ?_⟩
    · change execHubPllLockTimeout s = _
      simp [execHubPllLockTimeout, hhub, hpll, hhalt]
    · simp
  case accept =>
    intro s img src r hstage hhalt hsel hsrc hok
    refine ⟨_, exec_imageVerifyDone (State.atStage_of hstage hhalt) hsel hsrc, ?_⟩
    simp [hok, State.startPilot]
  case reject =>
    intro s img src x r hstage hhalt hsel hsrc hbad
    obtain ⟨why, hwhy⟩ := Option.ne_none_iff_exists'.mp hbad
    refine ⟨_, exec_imageVerifyDone (State.atStage_of hstage hhalt) hsel hsrc, ?_⟩
    simp only [hwhy]
    rw [State.nextSource_of_cons (src := src) (x := x) (r := r) (by simp [hsrc])]
    simp [hhalt]
  case checkIn =>
    intro s hstage hhalt
    refine ⟨_, exec_pilotCheckIn (State.atStage_of hstage hhalt), ?_, ?_, ?_⟩
    · simp only [State.fleetInit]
      split <;> simp
    · exact fun hman => ⟨State.fleetInit_devNum_manager hman, State.fleetInit_id_manager hman⟩
    · exact fun hman => State.fleetInit_devNum_worker hman
  case late =>
    intro s src x r hstage hhalt hsrc
    refine ⟨_, exec_pilotStartTimeout (State.atStage_of hstage hhalt), ?_⟩
    simp only [State.sourceLate, Nat.reduceEqDiff, if_false]
    rw [State.nextSource_of_cons (src := src) (x := x) (r := r) (by simp [hsrc])]
    simp [hhalt]

end Sys2Proof.Machine
end

section
/-! PROOFS. The doorbells of a queue, and the bound of time mode. -/

namespace Sys2Proof.Machine

open Sys2Proof

theorem State.queue_congr {s t : State} (h : t.q = s.q) (q : QueueId) : t.queue q = s.queue q :=
  congrArg (fun x : Queues => x.tab.look q.code {}) h

@[simp] theorem State.hostWake_queue (s : State) (q : QueueId) : s.hostWake.queue q = s.queue q :=
  State.queue_congr (by simp) q

@[simp] theorem State.raise_queue (k : Nat) (s : State) (q : QueueId) : (s.raise k).queue q = s.queue q :=
  State.queue_congr (by simp) q

@[simp] theorem State.doorLog_queue (q : QueueId) (v : Word) (s : State) (r : QueueId) :
    (s.doorLog q v).queue r = s.queue r :=
  State.queue_congr (by simp [State.doorLog]) r

@[simp] theorem State.setDbBad_queue (q : QueueId) (s : State) :
    (s.setDbBad q).queue q = { s.queue q with dbBad := true } := by
  cases q <;> simp only [State.setDbBad] <;> try split
  all_goals simp

@[simp] theorem State.setCqBad_queue (q : QueueId) (s : State) :
    (s.setCqBad q).queue q = { s.queue q with cqBad := true } := by
  cases q <;> simp only [State.setCqBad] <;> try split
  all_goals simp

/-- Settles O14. -/
theorem queueDoorbells : Obligations.QueueDoorbells := by
  unfold Obligations.QueueDoorbells
  refine ⟨?put, ?badPut, ?get, ?badGet⟩
  case put =>
    intro s q put hlink hready hthere hget hput
    refine ⟨_, rfl, ?_⟩
    simp only [State.sqPutWrite, hlink, hready, hthere, hget, hput, and_self, if_true, if_false, Bool.not_true,
      Bool.false_eq_true]
    split <;> simp [*]
  case badPut =>
    intro s q put hlink hready hthere hget
    refine ⟨_, rfl, ?_⟩
    simp only [State.sqPutWrite, hlink, hready, hthere, Nat.not_le.mpr hget, false_and, if_false, Bool.not_true,
      Bool.false_eq_true]
    simp
  case get =>
    intro s q get hlink hready hthere hget hlate
    refine ⟨_, rfl, ?_⟩
    simp only [State.cqGetWrite, hlink, hready, hthere, hget, if_true, if_false, Bool.not_true, Bool.false_eq_true]
    simp [State.flushLate, hlate]
  case badGet =>
    intro s q get hlink hready hthere hget
    refine ⟨_, rfl, ?_⟩
    simp only [State.cqGetWrite, hlink, hready, hthere, Nat.not_le.mpr hget, if_false, Bool.not_true,
      Bool.false_eq_true]
    simp

/-! ### Time mode -/

/-- Some code of the converter lies within 22 of any sum it can meet, so the code the hardware reads does (R270). -/
theorem decodeSegment_near {sum : Int} (hlo : -7680 ≤ sum) (hhi : sum ≤ 6720) (pick : DWord) :
    -22 ≤ decodeSegment false sum pick - sum ∧ decodeSegment false sum pick - sum ≤ 22 := by
  simp only [decodeSegment, Bool.false_or]
  set codes := (List.range 961).filter fun q : Nat => decide ((15 * (q : Int) - 7680 - sum).natAbs ≤ 22) with hcodes
  have hmem : ((sum + 7680) / 15).toNat ∈ codes := by
    simp only [hcodes, List.mem_filter, List.mem_range, decide_eq_true_eq]
    omega
  have hlt : pick.toNat % max 1 codes.length < codes.length := by
    have hpos := List.length_pos_of_mem hmem
    rw [max_eq_right hpos]
    exact Nat.mod_lt _ hpos
  rw [List.getD_eq_getElem _ _ hlt]
  have hcode := of_decide_eq_true (List.mem_filter.mp (List.getElem_mem hlt)).2
  constructor <;> omega

theorem nibble_bounds (b : Byte) : -8 ≤ nibble b ∧ nibble b ≤ 7 := by
  have hlo := BitVec.le_toInt (b.setWidth 4)
  have hhi := BitVec.toInt_lt (x := b.setWidth 4)
  unfold nibble
  omega

theorem sumInt_succ (n : Nat) (f : Nat → Int) : sumInt (n + 1) f = sumInt n f + f n := by
  simp [sumInt, List.range_succ]

theorem sumInt_mem_Icc {n : Nat} {f : Nat → Int} {lo hi : Int} (h : ∀ i, lo ≤ f i ∧ f i ≤ hi) :
    n * lo ≤ sumInt n f ∧ sumInt n f ≤ n * hi := by
  induction n with
  | zero => simp [sumInt]
  | succ n ih =>
    obtain ⟨hlo, hhi⟩ := h n
    rw [sumInt_succ]
    push_cast
    constructor <;> linarith [ih.1, ih.2]

theorem State.segment_bounds (s : State) (o : CimOp) (x : Nat → Byte) (j c i t : Nat) :
    -7680 ≤ s.segment o x j c i t ∧ s.segment o x j c i t ≤ 6720 := by
  refine sumInt_mem_Icc (n := 64) (lo := -120) (hi := 105) fun r => ?_
  obtain ⟨hlo, hhi⟩ := nibble_bounds (s.weight o.die (o.macro_ + j * o.rowgrp + i) (64 * t + r) c)
  have ha : (x (256 * i + 64 * t + r)).toNat % 16 ≤ 15 := by omega
  generalize nibble _ = w at hlo hhi
  generalize (x (256 * i + 64 * t + r)).toNat % 16 = a at ha
  constructor <;> nlinarith

theorem sumInt_sub_near {n : Nat} {f g : Nat → Int} {e : Int} (h : ∀ i, -e ≤ f i - g i ∧ f i - g i ≤ e) :
    -(n * e) ≤ sumInt n f - sumInt n g ∧ sumInt n f - sumInt n g ≤ n * e := by
  induction n with
  | zero => simp [sumInt]
  | succ n ih =>
    obtain ⟨hlo, hhi⟩ := h n
    rw [sumInt_succ, sumInt_succ]
    push_cast
    constructor <;> linarith [ih.1, ih.2]

/-- Settles O29. -/
theorem timeModeBound : Obligations.TimeModeBound := by
  unfold Obligations.TimeModeBound
  have hseg := fun (s : State) (o : CimOp) (x : Nat → Byte) (j c i t : Nat) =>
    decodeSegment_near (s.segment_bounds o x j c i t).1 (s.segment_bounds o x j c i t).2
  refine ⟨?segment, ?output⟩
  case segment =>
    intro s o x j c i t pick
    have h := hseg s o x j c i t pick
    omega
  case output =>
    intro s o x j c hstale
    have hrows := sumInt_sub_near (n := o.rowgrp) (g := fun i => sumInt 4 fun t => s.segment o x j c i t) fun i =>
      sumInt_sub_near (n := 4) fun t => hseg s o x j c i t (Config.free (s.free + ((j * 256 + c) * o.rowgrp + i) * 4 + t))
    simp only [State.timed, hstale]
    push_cast at hrows
    omega

end Sys2Proof.Machine
end

section
/-! PROOFS. The boot stages 9 to 15. -/

namespace Sys2Proof.Machine

open Sys2Proof

/-- With no core laid up a slice has cores. -/
theorem State.coreMask_of_nil {s : State} (h : s.core.core = []) (n : Nat) : s.coreMask n ≠ 0 := by
  have hon : ∀ c, s.coreOn c = true := fun c => by simp [State.coreOn, h, Tab.look]
  simp only [State.coreMask, hon, List.filter_true]
  decide

theorem State.waysGone_of_nil {s : State} (h : s.mem.wayOff = []) (n : Nat) : s.waysGone n = false := by
  simp [State.waysGone, h, Tab.look, bits]

/-- BIST drops no slice of a device whose cores and ways are all there (R47). -/
theorem State.dropEmpty_of_nil {s : State} (hcore : s.core.core = []) (hway : s.mem.wayOff = []) : s.dropEmpty = s := by
  have hfull : ∀ n, decide (s.coreMask n = 0) = false := fun n => decide_eq_false (State.coreMask_of_nil hcore n)
  simp only [State.dropEmpty, hfull, State.waysGone_of_nil hway, Bool.or_false, Bool.and_false]
  simp [State.dropSlices]

theorem State.reachReady_boot (s : State) :
    s.reachReady.boot = { s.boot with stage := 15, ready := true, bootTime := s.bootUs } := by
  simp only [State.reachReady]
  simp

theorem State.reachReady_dev (s : State) : s.reachReady.pwr.dev = .ready := by
  simp [State.reachReady]

theorem State.reachReady_memActive (s : State) : s.reachReady.host.memActive = s.host.memActive ∧
    s.reachReady.host.cxlOn = s.host.cxlOn := by
  simp only [State.reachReady, State.pldmWatch_host, State.raise_host, State.onHost_host]
  split <;> simp

/-- The end of stage 12 brings up the memory window, with CXL where the link carries it (R51). -/
theorem exec_hostLinkStageDone {s : State} (hat : s.atStage 12 = true) (htrained : s.boot.linkTrained = true) :
    ∃ u : State, exec .hostLinkStageDone s = .next u.after12 ∧ u.ao = s.ao ∧ u.host.memActive = true ∧
      u.host.cxlOn = cxlOk s.host.width s.host.rate s.host.flit256 := by
  refine ⟨?u, ?run, ?host⟩
  case run =>
    change execHostLinkStageDone s = _
    simp only [execHostLinkStageDone, hat, htrained, Bool.and_self, if_true]
    rfl
  case host => split <;> simp [HostPort.cxlSet]

/-- Settles O4: each branch of stages 9 to 15. -/
theorem stagesNineToReady : Obligations.StagesNineToReady := by
  unfold Obligations.StagesNineToReady
  refine ⟨?fence, ?noFence, ?bist, ?hbm, ?trained, ?standalone, ?quiet, ?late⟩
  case fence =>
    intro s d hstage hhalt hrec
    refine ⟨_, rfl, ?_⟩
    simp only [State.atStage_of hstage hhalt, hrec, if_true, State.applyFence]
    split_ifs <;> simp
  case noFence =>
    intro s hstage hhalt hrec
    refine ⟨_, rfl, ?_⟩
    simp [State.atStage_of hstage hhalt, hrec]
  case bist =>
    intro s hstage hhalt hhot hcut hcore hway
    have hfull : (s.onBoot fun b => { b with avail := 0xFFFFFFFF }).dropEmpty = _ :=
      State.dropEmpty_of_nil (by simpa using hcore) (by simpa using hway)
    refine ⟨(s.onBoot fun b => { b with avail := 0xFFFFFFFF }).enter11, ?_, ?_⟩
    · change execBistComplete 0 [] 0 s = _
      simp only [execBistComplete, State.atStage_of hstage hhalt, hhot, hcut, State.bistOutcome, if_true, List.filter_nil,
        List.isEmpty_nil, hfull, Option.isNone_none, Bool.not_false, Bool.and_self]
      simp [State.noSlice]
    · simp [State.enter11, State.calRequest, hhalt]
  case hbm =>
    intro s hstage hhalt havail
    change execHbmTrainComplete 0 s = _
    have hnone : s.hbmOutcome 0 = s := by simp [State.hbmOutcome]
    simp only [execHbmTrainComplete, State.atStage_of hstage hhalt, if_true, State.hbmDone, hnone, State.noSlice,
      if_neg havail]
    rfl
  case trained =>
    intro s w r f hhub hdev hok hmem
    change execHostLinkTrained w r f s = _
    simp [execHostLinkTrained, hhub, hdev, hok, hmem, State.onHost, State.onBoot]
  case standalone =>
    intro s hstage hhalt htrained halone hwidth hrate
    obtain ⟨u, hexec, hao, hmem, hcxl⟩ := exec_hostLinkStageDone (State.atStage_of hstage hhalt) htrained
    have hrole : u.isStandalone = true := by simpa [State.isStandalone, hao] using halone
    rw [State.after12, if_pos hrole] at hexec
    refine ⟨_, hexec, ?_⟩
    simp [State.reachReady_boot, State.reachReady_dev, State.reachReady_memActive, hmem, hcxl]
  case quiet =>
    intro s hstage hhalt hman hexpect
    refine ⟨s.reachReady, ?_, ?_⟩
    · change execFleetHailQuiet s = _
      simp [execFleetHailQuiet, State.atStage_of hstage hhalt, hman, hexpect]
    · simp [State.reachReady_boot, State.reachReady_dev]
  case late =>
    intro s m hstage hhalt
    refine ⟨s.halt 9 0x0901 0, ?_, ?_⟩
    · change execBootStageTimeout m s = _
      simp [execBootStageTimeout, hstage, hhalt]
    · simp

end Sys2Proof.Machine
end

section
/-! PROOFS. Resets and the mailbox. -/

namespace Sys2Proof.Machine

open Sys2Proof

/-! ### The store at a reset (R46, R515) -/

@[simp] theorem State.nvmInterrupt_cur (s : State) : s.nvmInterrupt.nvm.cur = none := by
  unfold State.nvmInterrupt
  split <;> simp [*]

@[simp] theorem State.nvmReset_cur (good : Bool) (s : State) : (s.nvmReset good).nvm.cur = none := by
  simp [State.nvmReset]

@[simp] theorem State.nvmReset_queue (good : Bool) (s : State) : (s.nvmReset good).nvm.queue = [] := by
  simp [State.nvmReset]

/-- With no write under way the slots stay as they are. -/
theorem State.nvmReset_slot {s : State} (h : s.nvm.cur = none) (good : Bool) :
    (s.nvmReset good).nvm.slot = s.nvm.slot := by
  unfold State.nvmReset State.nvmInterrupt
  rw [h]
  rcases s.nvm.slotBusy with _ | (_ | _) <;> simp [h]

/-- The end of an update with no write under way or in line keeps the slots. -/
theorem State.endUpdate_nvm {s : State} (h : s.nvm.cur = none) :
    s.endUpdate.nvm.cur = none ∧ s.endUpdate.nvm.slot = s.nvm.slot := by
  unfold State.endUpdate
  split <;> simp [h]

theorem State.clearFast_nvm (s : State) :
    s.clearFast.nvm.cur = none ∧ (s.nvm.cur = none → s.clearFast.nvm.slot = s.nvm.slot) := by
  have h := State.endUpdate_nvm (s.nvmReset_cur true)
  exact ⟨h.1, fun hcur => h.2.trans (State.nvmReset_slot hcur true)⟩

/-! ### What lies beyond the always-on domain -/

@[simp] theorem State.clearFast_ao (s : State) : s.clearFast.ao = s.ao := by simp [State.clearFast]
@[simp] theorem State.clearFast_time (s : State) : s.clearFast.time = s.time := by simp [State.clearFast]
@[simp] theorem State.clearFast_tw (s : State) : s.clearFast.tw = { s.tw with seqRunning := none } := by
  simp [State.clearFast]

/-- A reset of what lies beyond the always-on domain (R41). -/
def State.FastClear (t : State) : Prop :=
  t.q = {} ∧ t.obj = {} ∧ t.core = {} ∧ t.work = {} ∧ t.sync = {} ∧ t.mem.bytes = []

theorem State.clearFast_clear (s : State) : s.clearFast.FastClear := ⟨rfl, rfl, rfl, rfl, rfl, rfl⟩

/-- A warm reset from stage 5 on restarts the boot there (R41). -/
theorem State.warmReset_of_five_eq {s : State} (h : 5 ≤ s.boot.stage) :
    s.warmReset.ao = { s.ao with hubOut := s.ao.perstReleased } ∧
    s.warmReset.boot = { stage := 5, perstTick := s.time.tick } ∧ s.warmReset.FastClear ∧ s.warmReset.fleet = {} ∧
    s.warmReset.time = s.time ∧ s.warmReset.tw = { s.tw with seqRunning := none } ∧ s.warmReset.nvm.cur = none ∧
    (s.nvm.cur = none → s.warmReset.nvm.slot = s.nvm.slot) ∧ s.warmReset.host.msix = [] := by
  have hwarm : s.warmReset = ((((s.clearFast.onHost fun _ => { intCause := bootCause s.bootSet }).onAo fun a =>
      { a with hubOut := a.perstReleased }).onBoot fun b => { b with stage := 5, perstTick := s.time.tick }).onPwr fun p =>
        { p with dev := .boot }) := by
    simp [State.warmReset, State.beforeFive, Nat.not_lt.mpr h]
  rw [hwarm]
  exact ⟨by simp, rfl, s.clearFast_clear, rfl, by simp, by simp, s.clearFast_nvm.1, s.clearFast_nvm.2, rfl⟩

theorem exec_perstNAssert_of_le {s : State} {ns : Nat} (h : 10000 ≤ ns) (b : Bool) : exec (.perstNAssert ns b) s =
    .next (s.onAo fun a => { a with perstReleased := false, hubOut := false }).warmReset := by
  have hlong : ¬(ns < 9000 ∨ (ns < 10000 ∧ b = false)) := by omega
  change execPerstNAssert ns b s = _
  simp only [execPerstNAssert, if_neg hlong]

/-- What a reboot to stage 7 leaves of `s` (R41, R48): the boot's stage, the clock, the rules, the link's width. -/
def State.Rebooted (s : State) (inner : Bool) (t : State) : Prop :=
  t.boot.stage = 7 ∧ t.boot.ready = false ∧ t.boot.hubPll = s.boot.hubPll ∧ t.FastClear ∧ t.time = s.time ∧
  t.tw = { s.tw with seqRunning := none } ∧ t.host.width = s.host.width ∧
  t.host.msixEnable = (s.host.afterFlr inner s.bootSet).msixEnable ∧
  t.host.intVec = (s.host.afterFlr inner s.bootSet).intVec

@[simp] theorem State.romSelect_frame (d : List Byte) (s : State) :
    (s.romSelect d).host = s.host ∧ (s.romSelect d).tw = s.tw ∧ (s.romSelect d).time = s.time ∧
    (s.romSelect d).q = s.q ∧ (s.romSelect d).obj = s.obj ∧ (s.romSelect d).sync = s.sync ∧
    (s.romSelect d).core = s.core ∧ (s.romSelect d).work = s.work ∧ (s.romSelect d).mem = s.mem := by
  unfold State.romSelect
  split <;> simp

@[simp] theorem HostPort.afterFlr_width (inner set : Bool) (h : HostPort) : (h.afterFlr inner set).width = h.width := by
  unfold HostPort.afterFlr
  split <;> rfl

theorem State.Rebooted.enter7 {s t : State} {inner : Bool} (h : s.Rebooted inner t) : s.Rebooted inner t.enter7 := by
  obtain ⟨-, hrest⟩ := h
  refine ⟨t.enter7_boot.2.1, ?_⟩
  simp only [State.FastClear] at hrest ⊢
  simp only [State.enter7]
  split <;> split_ifs <;> simpa using hrest

theorem State.Rebooted.msixSend {s t : State} {inner : Bool} (h : s.Rebooted inner t) (fn v : Nat) :
    s.Rebooted inner (t.msixSend fn v) := by
  simpa [State.Rebooted, State.FastClear] using h

theorem State.pfFlr_of_five {s : State} (hhub : s.ao.hubOut = true) (hdev : s.pwr.dev ≠ .deep) (hstage : 5 ≤ s.boot.stage)
    (inner : Bool) : s.Rebooted inner (s.pfFlr inner) := by
  have hbase : s.Rebooted inner ((s.clearFast.onHost fun _ => s.host.afterFlr inner s.bootSet).onBoot fun b =>
      { b with
        stage := 7, hubPll := s.boot.hubPll, linkTrained := s.boot.linkTrained, cfgAnswers := s.boot.linkTrained
        perstTick := s.boot.perstTick }) :=
    ⟨rfl, rfl, rfl, s.clearFast_clear, s.clearFast_time, s.clearFast_tw,
      HostPort.afterFlr_width .., rfl, rfl⟩
  simp only [State.pfFlr, hhub, beq_false_of_ne hdev, State.beforeFive, Nat.not_lt.mpr hstage, decide_false, Bool.or_self,
    Bool.not_true, Bool.false_eq_true, if_false]
  split_ifs
  · exact hbase.enter7.msixSend ..
  · exact hbase.msixSend ..
  · exact hbase.enter7
  · exact hbase

/-- Settles O2: each kind of reset. -/
theorem resets : Obligations.Resets := by
  unfold Obligations.Resets
  refine ⟨?cold, ?glitch, ?perst, ?link, ?release, ?pf, ?watchdog, ?vf⟩
  case cold =>
    intro s
    refine ⟨s.coldReset, rfl, ?_⟩
    have hslot : ∀ good, (s.onFree (· + 1)).nvm.cur = none → ((s.onFree (· + 1)).nvmReset good).nvm.slot = s.nvm.slot :=
      fun good h => State.nvmReset_slot h good
    simpa [State.coldReset, State.fresh] using hslot _
  case glitch =>
    intro s ns b hns
    change execPerstNAssert ns b s = _
    simp [execPerstNAssert, hns]
  case perst =>
    intro s ns b hns hstage
    refine ⟨_, exec_perstNAssert_of_le hns b, ?_⟩
    have h := State.warmReset_of_five_eq (s := s.onAo fun a => { a with perstReleased := false, hubOut := false }) hstage
    simp_all [State.FastClear]
  case link =>
    intro s hhub hdev hstage
    refine ⟨s.warmReset, ?_, ?_⟩
    · change execHostLinkReset s = _
      simp [execHostLinkReset, hhub, hdev]
    · have h := State.warmReset_of_five_eq hstage
      simp_all [State.FastClear]
  case release =>
    intro s sel hstage
    change execPerstNRelease sel s = _
    simp [execPerstNRelease, hstage, State.onAo, State.onBoot]
  case pf =>
    intro s hstage hhub hdev
    refine ⟨s.pfFlr false, rfl, ?_⟩
    have h := State.pfFlr_of_five hhub hdev hstage false
    simp_all [State.FastClear, State.Rebooted, HostPort.afterFlr]
  case watchdog =>
    intro s hstage hhub hhalt hsleep hdeep
    refine ⟨(s.logOcc { event := 0x604, sev := 6 }).pfFlr true, ?_, ?_⟩
    · change execPilotWatchdogExpiry s = _
      simp [execPilotWatchdogExpiry, hstage, hhalt, State.asleep, hsleep, hdeep]
    · have h := State.pfFlr_of_five (s := s.logOcc { event := 0x604, sev := 6 }) (by simpa using hhub)
        (by simpa using hdeep) (by simp; omega) true
      simp_all [State.FastClear, State.Rebooted]
  case vf =>
    intro s rng n hn hcfg hlink hready hvf hawake hpart
    change execVfFlr n rng s = _
    simp [execVfFlr, done, Nat.not_le.mpr hn, hcfg, hlink, State.vfThere, hready, hvf,
      State.hostWake_of_ne_sleep hawake, hpart, State.onHost, State.onMgmt]

/-! ### The mailbox -/

/-- While a write is under way no other starts. -/
theorem State.nvmStart_of_busy {s : State} (h : s.nvm.cur ≠ none) : s.nvmStart = s := by
  obtain ⟨c, hc⟩ := Option.ne_none_iff_exists'.mp h
  simp [State.nvmStart, hc]


theorem State.dev_of_awake {s : State} (h : s.asleep = false) : s.pwr.dev ≠ .sleep ∧ s.pwr.dev ≠ .deep := by
  simpa [State.asleep] using h

section
variable {s : State} (hhub : s.ao.hubOut = true) (hawake : s.asleep = false)
include hhub hawake

/-- A command whose complement matches is carried out (R35). -/
theorem State.mbox_carried (hbusy : s.boot.mboxBusy = false) {cmd : Nat} {c : Byte} (hc : c.toNat = 0xFF - cmd)
    (f : State → State) :
    s.mbox cmd c f = f (s.onBoot fun b => { b with mboxCmd := BitVec.ofNat 16 (c.toNat * 256 + cmd) }) := by
  obtain ⟨hsleep, hdeep⟩ := State.dev_of_awake hawake
  simp [State.mbox, hhub, hdeep, State.hostWake_of_ne_sleep hsleep, hbusy, hc]

theorem State.mbox_mismatch (hbusy : s.boot.mboxBusy = false) {cmd : Nat} {c : Byte} (hc : c.toNat ≠ 0xFF - cmd)
    (f : State → State) :
    s.mbox cmd c f = (s.onBoot fun b => { b with
      mboxCmd := BitVec.ofNat 16 (c.toNat * 256 + cmd), mboxResult := BitVec.ofNat 16 stIntegrity }).mismatch 0x508 none
        0x20020 := by
  obtain ⟨hsleep, hdeep⟩ := State.dev_of_awake hawake
  simp [State.mbox, hhub, hdeep, State.hostWake_of_ne_sleep hsleep, hbusy, hc, State.onBoot]

theorem State.mbox_busy (hbusy : s.boot.mboxBusy = true) (cmd : Nat) (c : Byte) (f : State → State) :
    s.mbox cmd c f = s.onBoot fun b => { b with mboxLost := true } := by
  obtain ⟨hsleep, hdeep⟩ := State.dev_of_awake hawake
  simp [State.mbox, hhub, hdeep, State.hostWake_of_ne_sleep hsleep, hbusy]

end

/-- Settles O5: each command of the mailbox, the lost one and the stop of SYS_REFCLK. -/
theorem mailboxCommands : Obligations.MailboxCommands := by
  unfold Obligations.MailboxCommands
  refine ⟨?nop, ?mismatch, ?busy, ?load, ?reboot, ?notReady, ?confirm, ?refclk⟩
  case nop =>
    intro s hhub hbusy hhalt hawake
    change Host.Outcome.next (s.mbox 1 0xFE _) = _
    rw [State.mbox_carried hhub hawake hbusy (by decide)]
    simp [hhalt, State.mboxAnswer, State.onBoot, stOk]
  case mismatch =>
    intro s c hhub hbusy hawake hc
    refine ⟨s.mbox 1 c _, rfl, ?_⟩
    rw [State.mbox_mismatch hhub hawake hbusy fun h => hc (BitVec.eq_of_toNat_eq h)]
    refine ⟨by simp [State.mismatch, stIntegrity], ?_⟩
    rw [State.mismatch, State.alert, State.onTw_tw, getLsbD_setBit]
    simp
  case busy =>
    intro s c hhub hbusy hawake
    exact congrArg _ (State.mbox_busy hhub hawake hbusy _ _ _)
  case load =>
    intro s img hhub hbusy hhalt hcode hawake hargs hok
    refine ⟨s.mbox 2 0xFD _, rfl, ?_⟩
    rw [State.mbox_carried hhub hawake hbusy (by decide)]
    have hargs' (f : Boot → Boot) (hf : ∀ b, (f b).mboxArg = b.mboxArg) : (s.onBoot f).loadArgsOk = true := by
      simpa [State.loadArgsOk, hf] using hargs
    simp [hhalt, hcode, hargs', hok, State.startPilot, State.mboxAnswer, stOk]
  case reboot =>
    intro s hhub hbusy hready hstage harg hawake
    refine ⟨s.mbox 3 0xFC _, rfl, ?_⟩
    rw [State.mbox_carried hhub hawake hbusy (by decide)]
    simp only [BitVec.ofNat_eq_ofNat] at harg
    obtain ⟨h7, hnot, -, -, -, -, -, hmsix, hvec⟩ :=
      State.pfFlr_of_five (s := s.onBoot fun b => { b with mboxCmd := 0xFC03 }) hhub (State.dev_of_awake hawake).2
        (Nat.le_trans (by decide) hstage) true
    simpa [hready, harg, State.mboxOpen, HostPort.afterFlr] using And.intro h7 ⟨hnot, hvec, hmsix⟩
  case notReady =>
    intro s hhub hbusy hawake hready htrial
    refine ⟨s.mbox 4 0xFB _, rfl, ?_⟩
    rw [State.mbox_carried hhub hawake hbusy (by decide)]
    simp [hready, htrial, State.mboxAnswer, stNotReady]
  case confirm =>
    intro s hhub hbusy hawake hready htrial hrefuse hcur
    refine ⟨s.mbox 4 0xFB _, rfl, ?_⟩
    rw [State.mbox_carried hhub hawake hbusy (by decide)]
    simp [hready, htrial, hrefuse, State.nvmQueue, State.nvmStart_of_busy, hcur]
  case refclk =>
    intro s hdev
    refine ⟨_, rfl, ?_⟩
    simp [hdev]

end Sys2Proof.Machine
end

section
/-! PROOFS. What the host's accesses do. -/

namespace Sys2Proof.Machine

open Sys2Proof

/-- A PCIe access that reaches the device: configuration is up and the link too (R30, R103). -/
theorem State.awake_of {s : State} (h : s.pwr.dev = .ready ∨ s.pwr.dev = .awake) : s.awake = true := by
  obtain h | h := h <;> simp [State.awake, h]

/-- A line nobody asks for is served no further. -/
theorem State.serveHome_of_empty {s : State} {l : Nat} (h : (s.dirAt l).queue = []) (k : Nat) : s.serveHome l k = s := by
  cases k with
  | zero => rfl
  | succ k => simp [State.serveHome, h]

@[simp] theorem State.emit_dirAt (o : Output) (s : State) (l : Nat) : (s.emit o).dirAt l = s.dirAt l := rfl

@[simp] theorem State.onDir_mem (l : Nat) (f : DirLine → DirLine) (s : State) :
    (s.onDir l f).mem.bytes = s.mem.bytes ∧ (s.onDir l f).mem.resv = s.mem.resv ∧
    (∀ a n, (s.onDir l f).mem.read a n = s.mem.read a n) ∧
    ∀ a n, (s.onDir l f).mem.poisoned a n = s.mem.poisoned a n :=
  ⟨rfl, rfl, fun _ _ => rfl, fun _ _ => rfl⟩

/-- The host's request of a line that nobody holds and nobody asks for is granted at once (R301, R305). -/
theorem State.homeArrive_host {s : State} {l : Nat} {k : ReqKind} (hdir : s.dirAt l = {})
    (hresv : s.mem.resv.look (l * 256 / 0x900000000) [] = []) :
    s.homeArrive l { agent := 9, kind := k, nacks := 0 } =
      (((s.onDir l fun d => { d with queue := d.queue ++ [{ agent := 9, kind := k, nacks := 0 }] }).onDir l fun d =>
        { d.granted 9 k with queue := [], busy := false, fwdTo := none }).emit
          (.cxlGrant l (if exclusive k then 3 else 2))).emit
            (.readData (s.mem.read (l * 256) 256) (s.mem.poisoned (l * 256) 256)) := by
  have hlen : (s.dirAt l).queue.length < 16 := by simp [hdir]
  have hcode : ((DirLine.granted 9 k { queue := [{ agent := 9, kind := k, nacks := 0 }] }).at_ 9).code =
      if exclusive k then 3 else 2 := by
    cases k <;> rfl
  rw [State.homeArrive, if_pos hlen, State.joinHome, State.serveLine, State.serveHome]
  simp only [DirLine.at_] at hcode
  simp [hdir, DirLine.at_, DirLine.owner, Tab.look, State.grantHead, hresv, hcode]
  exact State.serveHome_of_empty (by simp) 63

/-- The mappings of one context that an invalidation drops from the near caches and the TLB (R292). -/
def State.atsDrop (bus len : Nat) (s : State) (e : Nat × Ctx) : State :=
  (e.2.busMaps bus len).foldl (fun t r => (t.nearDropRange e.1 r.1 r.2).onMem fun m => { m with
    tlb := m.tlb.filter fun x => !(x.1 / 2 ^ 33 == e.1 && overlap (x.1 % 2 ^ 33 * 65536) 65536 r.1 r.2) }) s

theorem State.atsDrop_frame (bus len : Nat) (s : State) (e : Nat × Ctx) :
    (s.atsDrop bus len e).out = s.out ∧ (s.atsDrop bus len e).obj = s.obj ∧
    (s.atsDrop bus len e).mem.bytes = s.mem.bytes :=
  ⟨foldl_keeps State.out _ (by exact fun _ _ => rfl) _ _, foldl_keeps State.obj _ (by exact fun _ _ => rfl) _ _,
    foldl_keeps (fun t : State => t.mem.bytes) _ (by exact fun _ _ => rfl) _ _⟩

theorem exec_atsInvalidate {s : State} (hcfg : s.boot.cfgAnswers = true) (hlink : s.host.linkDown = false)
    (bus len : Nat) (p : Option Nat) : ∃ l : List (Nat × Ctx), exec (.atsInvalidate bus len p) s =
      .next ((l.foldl (State.atsDrop bus len) s.hostWake).emit .atsDone) := by
  refine ⟨?contexts, ?run⟩
  case run =>
    change execAtsInvalidate bus len p s = _
    simp only [execAtsInvalidate, hcfg, hlink, Bool.not_true, Bool.or_self, Bool.false_eq_true, if_false]
    rfl

/-- Settles O6: each access of the host. -/
theorem hostAccesses : Obligations.HostAccesses := by
  unfold Obligations.HostAccesses
  refine ⟨?vfReady, ?vfEarly, ?read, ?write, ?abort, ?resize, ?ptm, ?inactive, ?cxl, ?snoop, ?ats, ?l12, ?d3⟩
  case vfReady =>
    intro s on hcfg hlink hready hawake
    change execVfEnable on s = _
    simp [execVfEnable, hcfg, hlink, hready, State.hostWake_of_ne_sleep hawake, State.onHost]
  case vfEarly =>
    intro s on hcfg hlink hready
    change execVfEnable on s = _
    simp [execVfEnable, hcfg, hlink, hready, State.onHost]
  case read =>
    intro s off n hcfg hready hlink hawake hn hend hadm
    change execHostBar2Access off (.read n []) s = _
    simp [execHostBar2Access, hcfg, hready, hlink, hn.ne', Nat.not_lt.mpr hend, hadm, State.hostWake_of_ne_sleep hawake,
      State.meetEcc, State.emit]
    rfl
  case write =>
    intro s off b hcfg hready hlink hawake hb hend hadm hheld
    refine ⟨s.onMem fun m => m.store off b, ?_, ?_, ?_, rfl, rfl, rfl, rfl⟩
    · change execHostBar2Access off (.write b) s = _
      simp [execHostBar2Access, hcfg, hready, hlink, hb, Nat.not_lt.mpr hend, hadm, hheld,
        State.hostWake_of_ne_sleep hawake]
    · exact fun i h => memWrite_read s.mem.bytes off b i h
    · exact fun a h => memWrite_frame s.mem.bytes off b a h
  case abort =>
    intro s off n hcfg hready hlink hawake hn hend hadm
    refine ⟨(s.bwRefusal 0x40 1 off).emit .abort, ?_, rfl, by simp [State.bwRefusal, State.bwRefuse]⟩
    change execHostBar2Access off (.read n []) s = _
    simp [execHostBar2Access, hcfg, hready, hlink, hn.ne', Nat.not_lt.mpr hend, hadm, State.hostWake_of_ne_sleep hawake]
  case resize =>
    intro s log hcfg hlink hawake hlo hhi
    refine ⟨?_, ?_⟩
    · change execBar2Resize log false s = _
      simp [execBar2Resize, hcfg, hlink, hlo, hhi, State.hostWake_of_ne_sleep hawake, State.onHost]
    · change execBar2Resize log true s = _
      simp [execBar2Resize, hcfg, hlink, State.hostWake_of_ne_sleep hawake]
  case ptm =>
    intro s m hcfg hlink
    change execPtmDialogue m s = _
    simp [execPtmDialogue, hcfg, hlink, State.onTime]
  case inactive =>
    intro s dpa own hlink htrained hmem
    change execHostCxlMemRequest dpa own s = _
    simp [execHostCxlMemRequest, hlink, htrained, hmem, State.emit, State.onOut]
  case cxl =>
    intro s dpa own hlink htrained hmem hcxl hhdm hawake hline hadm hdir hresv
    refine ⟨s.homeArrive (dpa / 256) { agent := 9, kind := if own then .readOwn else .readShared, nacks := 0 }, ?_, ?_⟩
    · change execHostCxlMemRequest dpa own s = _
      simp [execHostCxlMemRequest, hlink, htrained, hmem, hcxl, hhdm, hline, hadm, State.hostWake_of_ne_sleep hawake]
    · rw [State.homeArrive_host hdir hresv]
      cases own <;> simp [exclusive, hdir, DirLine.granted, DirLine.at_, DirLine.shared, Tab.look]
  case snoop =>
    intro s l inv hcxl hlink hfree
    refine ⟨s.snoopNow (hostLine + l) inv, ?_, ?_⟩
    · change execHostSnoop l inv s = _
      simp [execHostSnoop, hcxl, hlink, hfree]
    · cases inv <;> simp [State.snoopNow]
  case ats =>
    intro s bus len p hcfg hlink
    obtain ⟨l, hexec⟩ := exec_atsInvalidate hcfg hlink bus len p
    have hkept {β : Type} (g : State → β) (h : ∀ t e, g (State.atsDrop bus len t e) = g t) := foldl_keeps g _ h l s.hostWake
    refine ⟨_, hexec, ?_, ?_, ?_⟩
    · simp [hkept State.out fun t e => (State.atsDrop_frame bus len t e).1]
    · simp [hkept State.obj fun t e => (State.atsDrop_frame bus len t e).2.1]
    · simp [hkept (fun t => t.mem.bytes) fun t e => (State.atsDrop_frame bus len t e).2.2]
  case l12 =>
    intro s hsleep
    refine ⟨(s.onHost fun h => { h with linkL12 := false }).hostWake, rfl, ?_⟩
    simp [State.hostWake, State.wake, hsleep]
  case d3 =>
    intro s hready hdev
    change execD3hotRequest s = _
    simp [execD3hotRequest, done, hready, State.awake_of hdev, State.onHost]

end Sys2Proof.Machine
end

section
/-! PROOFS. The ports of Hawser. -/

namespace Sys2Proof.Machine

open Sys2Proof

@[simp] theorem State.emit_port (o : Output) (s : State) (n : Nat) : (s.emit o).port n = s.port n := rfl
@[simp] theorem State.onFree_port (f : Nat → Nat) (s : State) (n : Nat) : (s.onFree f).port n = s.port n := rfl
@[simp] theorem State.logOcc_port (o : Occ) (s : State) (n : Nat) : (s.logOcc o).port n = s.port n := by
  simp [State.port]
@[simp] theorem State.wake_port (src rule : Nat) (s : State) (n : Nat) : (s.wake src rule).port n = s.port n := by
  simp [State.port]

/-- A command of a port that exists, is not off, and meets the command's condition. -/
theorem ifPort_run {s : State} {n : Nat} {c : Port → Bool} (hn : n < 8) (hdev : s.pwr.dev ≠ .deep)
    (hc : c (s.port n) = true) (f : State → State) : ifPort n c f s = .next (f s).settle := by
  simp [ifPort, hn, hdev, hc, done]

/-- A training attempt under way is in one of six states. -/
theorem Port.training_of {p : Port} (h : p.st = .detect ∨ p.st = .lock ∨ p.st = .equalize ∨ p.st = .deskew ∨
    p.st = .hail ∨ p.st = .moor) : p.training = true := by
  rcases h with h | h | h | h | h | h <;> simp [Port.training, h]

/-! ### What holds a flit -/

/-- A list of updates of one port's pools keeps whatever they keep. -/
theorem Port.settlePool_keeps {β : Type} (g : Port → β) (h : ∀ p m, g { p with moved := m } = g p) (pool n : Nat)
    (p : Port) : g (p.settlePool pool n) = g p := by
  have hfold : ∀ (l : List Nat) (a : Port × Nat) (f : Port × Nat → Nat → Port × Nat),
      (∀ a k, ∃ m, (f a k).1 = { a.1 with moved := m }) → g (l.foldl f a).1 = g a.1 := by
    intro l
    induction l with
    | nil => exact fun a f _ => rfl
    | cons k l ih =>
      intro a f hf
      obtain ⟨m, hm⟩ := hf a k
      rw [List.foldl_cons, ih _ f hf, hm, h]
  unfold Port.settlePool
  split
  · refine hfold _ (p, n) _ fun a k => ?_
    dsimp only
    split
    · exact ⟨_, rfl⟩
    · exact ⟨a.1.moved, rfl⟩
  · split
    · exact h p _
    · rfl

theorem Port.returned_keeps {β : Type} (g : Port → β) (h : ∀ p m, g { p with moved := m } = g p)
    (hret : ∀ p m, g { p with creditRet := m } = g p) (pool total : Nat) (p : Port) :
    g (p.returned pool total) = g p := by
  rw [Port.returned, Port.settlePool_keeps g h, hret]

theorem Port.acked_of_nil {p : Port} (h : p.replay = []) (tick : Nat) (a : BitVec 12) : p.acked tick a = p := by
  simp [Port.acked, h]

/-- With nothing to send a port sends nothing. -/
theorem State.drain_of_nil {s : State} {n : Nat} (h : (s.port n).sendQ = []) : s.drain n = s := by
  simp [State.drain, h, State.drainPort]

/-- Recovery begins in LOCK and keeps what the link holds (R67). -/
theorem State.recover_port (n : Nat) (s : State) : ((s.recover n).port n).st = .lock ∧
    ((s.recover n).port n).recovering = true ∧ ((s.recover n).port n).replay = (s.port n).replay := by
  simp [State.recover]

/-- The held flits go out again, in order (R58). -/
theorem State.resend_of_ne_nil {s : State} {n : Nat} (h : (s.port n).replay ≠ []) :
    ((s.resend n).port n).replay = (s.port n).replay ∧ ((s.resend n).port n).resends = (s.port n).resends + 1 ∧
    (s.resend n).out.length = s.out.length + (s.port n).replay.length := by
  have hport : ∀ (l : List (BitVec 12 × HwsPayload)) (t : State),
      (l.foldl (fun t e => t.emit ((s.port n).flitOut n e.1 e.2)) t).port n = t.port n :=
    foldl_keeps (fun t => t.port n) _ fun _ _ => rfl
  have hout : ∀ (l : List (BitVec 12 × HwsPayload)) (t : State),
      (l.foldl (fun t e => t.emit ((s.port n).flitOut n e.1 e.2)) t).out.length = t.out.length + l.length := by
    intro l
    induction l with
    | nil => exact fun _ => rfl
    | cons e l ih =>
      intro t
      rw [List.foldl_cons, ih]
      simp
      omega
  simp [State.resend, h, hport, hout]

@[simp] theorem State.enterTraining_port (n : Nat) (st : PortSt) (r : Option HwsRecord) (s : State) :
    (s.enterTraining n st r).port n = { s.port n with st := st, record := r } := by
  cases r <;> simp [State.enterTraining]

/-- Settles O7: each record, flit and timer of a port that is not failing. -/
theorem hawserPorts : Obligations.HawserPorts := by
  unfold Obligations.HawserPorts
  refine ⟨?badFlit, ?goodFlit, ?replay, ?limit, ?burst, ?loss, ?lossDown, ?detect, ?lock, ?equalize, ?deskew, ?hail, ?reject,
    ?grant, ?ack, ?again⟩
  case badFlit =>
    intro s n f hn hdev hst hrec hbad
    refine ⟨_, (ifPort_run hn hdev (by simp [hst, hrec]) _ : execHwsFlitReceive n f s = _), ?_⟩
    have hnak : (f.fecBad || !f.crcOk) = true := by simpa using hbad
    simp only [hnak, if_true]
    refine ⟨by simp, by simp, by simp, rfl, rfl, fun m hm => ?_⟩
    rw [State.port_onPort_ne _ _ _ _ hm, State.port_onPort_ne _ _ _ _ hm]
  case goodFlit =>
    intro s n f b hn hdev hst hrec hreplay hsend hfec hcrc hnak hbody hseq hlast
    refine ⟨_, (ifPort_run hn hdev (by simp [hst, hrec]) _ : execHwsFlitReceive n f s = _), ?_⟩
    simp [hfec, hcrc, hnak, hbody, State.drain_of_nil, hseq, hlast, hreplay, hsend, Port.acked_of_nil, State.deliverFlit,
      Port.returned_keeps]
  case replay =>
    intro s n hn hdev hst hrec hreplay hdue
    refine ⟨_, (ifPort_run hn hdev (by simp [hst, hrec, hreplay, hdue]) _ : execHwsReplayTimeout n s = _), ?_⟩
    exact State.resend_of_ne_nil hreplay
  case limit =>
    intro s n hn hdev hst hrec hreplay hfour
    exact ⟨_, (ifPort_run hn hdev (by simp [hst, hrec, hreplay, hfour]) _ : execHwsReplayLimit n s = _), s.recover_port n⟩
  case burst =>
    intro s n hn hdev hst hrec
    exact ⟨_, (ifPort_run hn hdev (by simp [hst, hrec]) _ : execHwsFecErrorBurst n s = _), s.recover_port n⟩
  case loss =>
    intro s n hn hdev hst
    refine ⟨_, (ifPort_run hn hdev rfl _ : execHwsSignalLoss n s = _), ?_⟩
    simpa [hst] using s.recover_port n
  case lossDown =>
    intro s n hn hdev hst
    refine ⟨_, (ifPort_run hn hdev rfl _ : execHwsSignalLoss n s = _), ?_⟩
    simp [hst]
  case detect =>
    intro s n l hn hdev hst hgap hgroups
    refine ⟨_, (ifPort_run hn hdev (by simp [hst, hgap]; simpa using hgroups) _ : execHwsDetectEnergy n l s = _), ?_⟩
    simp
  case lock =>
    intro s n l hn hdev hst hgap hgroups
    refine ⟨_, (ifPort_run hn hdev (by simp [hst, hgap]) _ : execHwsSymbolLock n l s = _), ?_⟩
    rw [BitVec.and_comm] at hgroups
    simp only [State.port_onPort_self, if_neg hgroups]
    simp [State.coeffRec, State.fresh]
  case equalize =>
    intro s n r hn hdev hst hgap hlane htap hreq hgroups hber
    refine ⟨_, (ifPort_run hn hdev (by simp [hst, hgap, hlane, htap]) _ : execHwsCoeffRequestReceive n r [] 0 s = _), ?_⟩
    have hlanes : (s.port n).goodLanes &&& 255#8 = (s.port n).goodLanes := BitVec.and_allOnes
    simp only [BitVec.ofNat_eq_ofNat] at hgroups hber
    simp [hreq, hlanes, hgroups]
    rw [if_pos hber]
    simp
  case deskew =>
    intro s n r hn hdev hst hgap hrec hgroups hlock
    refine ⟨_, by
      change execHwsLaneMaskReceive n r ⟨3, 0⟩ s = _
      unfold execHwsLaneMaskReceive
      exact ifPort_run hn hdev (by simp [hst, hgap]) _, ?_⟩
    have hall : ∀ g : BitVec 2, g &&& 3 = g := fun g => BitVec.and_allOnes
    simp only [Port.masks] at hgroups ⊢
    simp only [State.port_onPort_self, hrec, hlock, Port.mayUse, hall, Bool.false_and, Bool.false_eq_true, if_false] at hgroups ⊢
    rw [if_neg hgroups, if_pos ⟨trivial, Nat.zero_le _⟩]
    simp
  case hail =>
    intro s n r hn hdev hst hgap hrec hok
    refine ⟨_, (ifPort_run hn hdev (by simp [hst, hgap]) _ : execHwsHailReceive n r s = _), ?_⟩
    simp [hok, hrec]
    rfl
  case reject =>
    intro s n r why hn hdev hst hgap hrec hbad
    refine (ifPort_run hn hdev (by simp [hst, hgap]) _ : execHwsHailReceive n r s = _).trans ?_
    simp [hbad]
  case grant =>
    intro s n g hn hdev hst hgap hack hok
    refine ⟨_, (ifPort_run hn hdev (by simp [hst, hgap]) _ : execHwsCreditGrantReceive n g s = _), ?_⟩
    simp [hok, State.moorDone, hack, hst]
  case ack =>
    intro s n g hn hdev hst hgap hown hpeer
    refine ⟨_, (ifPort_run hn hdev (by simp [hst, hgap, hown]) _ : execHwsGrantAckReceive n g s = _), ?_⟩
    simp [State.moorDone, hpeer, hst]
  case again =>
    intro s n r hn hdev htraining hgap hrec
    refine (ifPort_run hn hdev (by simp [htraining, hgap]) _ : execHwsRecordRepeat n s = _).trans ?_
    simp [hrec, State.emit, State.onOut]

/-! ### Failures and rest -/

/-- Off stage 13, a port that settles changes nothing on a device that is not the manager (R63, R383). -/
theorem State.portSettled_of_worker {s : State} (hman : s.isManager = false) (hstage : s.boot.stage ≠ 13) :
    s.portSettled = s := by
  have h13 : s.atStage 13 = false := by simp [State.atStage, hstage]
  have hstay : s.stage13 = s := by simp [State.stage13, h13]
  simp [State.portSettled, hstay, State.newRoutes, hman]

theorem State.portDown_port {s : State} (hman : s.isManager = false) (hstage : s.boot.stage ≠ 13) (n why : Nat) :
    (s.portDown n why).port n = (s.port n).toDown why := by
  rw [State.portDown, State.portSettled_of_worker (by simpa [State.isManager, State.onPort] using hman)
    (by simpa [State.onPort] using hstage)]
  simp

/-- A fresh series begins in DETECT (R62). -/
theorem State.startSeries_port {s : State} {n : Nat} (hen : (s.port n).enable = true) (halone : s.isStandalone = false) :
    ((s.startSeries n).port n).st = .detect ∧ ((s.startSeries n).port n).counted = 0 ∧
    ((s.startSeries n).port n).enable = true ∧ ((s.startSeries n).port n).lpiEn = (s.port n).lpiEn := by
  simp [State.startSeries, hen, halone]

@[simp] theorem State.newAttempt_port (n : Nat) (s : State) :
    ((s.newAttempt n).port n).st = .detect ∧ ((s.newAttempt n).port n).gap = false ∧
    ((s.newAttempt n).port n).attempts = (s.port n).counted + 1 ∧
    ((s.newAttempt n).port n).counted = (s.port n).counted := by
  simp [State.newAttempt]

/-- Settles O8: each failure of an attempt or a series, and low-power idle. -/
theorem hawserSeries : Obligations.HawserSeries := by
  unfold Obligations.HawserSeries
  refine ⟨?limit, ?gap, ?series, ?rejection, ?pattern, ?sense, ?retrain, ?lpiIn, ?lpiOut⟩
  case limit =>
    intro s n hn hdev htraining hgap hrec hcount
    refine ⟨_, (ifPort_run hn hdev (by simp [htraining, hgap]) _ : execHwsStateTimeout n s = _), ?_⟩
    simp [State.failTraining, hrec, State.failAttempt, Nat.not_le.mpr hcount]
  case gap =>
    intro s n hn hdev htraining hgap
    refine ⟨_, (ifPort_run hn hdev (by simp [htraining, hgap]) _ : execHwsAttemptGapExpiry n s = _), ?_⟩
    simp
  case series =>
    intro s n hn hdev htraining hrec hdue hman hstage
    refine ⟨_, (ifPort_run hn hdev (by simp [htraining, hrec, hdue]) _ : execHwsSeriesTimeout n s = _), ?_⟩
    rw [State.portDown_port (by exact hman) (by exact hstage)]
    simp [Port.toDown]
  case rejection =>
    intro s n r hn hdev hst hgap hrec hlo hhi
    exact (ifPort_run hn hdev (by simp [hst, hgap, hlo, hhi]) _ : execHwsRejectionReceive n r s = _)
  case pattern =>
    intro s n hn hdev htraining hst hrec
    refine ⟨_, (ifPort_run hn hdev (by simp [htraining, hst]) _ : execHwsPeerDetectPattern n s = _), ?_⟩
    simp [hrec]
    split <;> rfl
  case sense =>
    intro s n hn hdev hst hen halone hwhy
    refine ⟨_, (ifPort_run hn hdev (by simpa [hst, hen] using hwhy) _ : execHwsDownSignalSense n s = _), ?_⟩
    obtain ⟨hdetect, hzero, -, -⟩ := State.startSeries_port hen halone
    exact ⟨hdetect, hzero⟩
  case retrain =>
    intro s n v hn hdev halone h8 h31 hst hrec
    refine ⟨_, (ifPort_run hn hdev rfl _ : execHwsRetrain n v s = _), ?_⟩
    have hctrl : s.portCtrl n v = ((s.onPort n fun p => { p with
        groupMask := BitVec.ofNat 2 (bits v 10 2), lpiEn := v.getLsbD 9, enable := true }).onPort n fun p =>
          { p with lastFail := 0 }).startSeries n := by
      simp only [State.portCtrl, h8, h31, halone, Bool.not_false, Bool.and_self, Bool.not_true, Bool.false_eq_true, if_false,
        true_or, if_true]
      simp [hst, hrec]
    obtain ⟨hdetect, -, hon, hlpi⟩ := State.startSeries_port (n := n) (s := (s.onPort n fun p => { p with
        groupMask := BitVec.ofNat 2 (bits v 10 2), lpiEn := v.getLsbD 9, enable := true }).onPort n fun p =>
          { p with lastFail := 0 }) (by simp) halone
    rw [hctrl]
    exact ⟨hdetect, hon, by simpa using hlpi⟩
  case lpiIn =>
    intro s n hn hdev hst hrec hlpi hcaps hreplay hsend
    refine ⟨_, (ifPort_run hn hdev (by simp [hst, hrec, hlpi, hcaps, hreplay, hsend]) _ : execHwsLpiEntry n s = _), ?_⟩
    simp
  case lpiOut =>
    intro s n hn hdev hlpi hsend
    refine ⟨_, (ifPort_run hn hdev (by simp [hlpi]) _ : execHwsLpiExit n s = _), ?_⟩
    simp [State.drain_of_nil, hsend]

end Sys2Proof.Machine
end

section
/-! PROOFS. Tidewatch: inputs, sequences, rules, the safety scan and the trip. -/

namespace Sys2Proof.Machine

open Sys2Proof

theorem State.atReady_of {s : State} (hready : s.boot.ready = true) (off : Nat) (f : State → State) :
    s.atReady off f = f s.hostWake := by
  simp [State.atReady, hready]

theorem State.atReady_awake {s : State} (hready : s.boot.ready = true) (hawake : s.pwr.dev ≠ .sleep) (off : Nat)
    (f : State → State) : s.atReady off f = f s := by
  rw [State.atReady_of hready, State.hostWake_of_ne_sleep hawake]

/-! ### Sequences -/

/-- Where a running sequence stands, and what its filters hold. -/
def Tw.seqState (w : Tw) : Tab Filt × Option Nat × Nat × Nat × Tab Word :=
  (w.filt, w.seqRunning, w.seqStep, w.seqConv, w.runSteps)

@[simp] theorem State.chPair_seq (ch : Nat) (s : State) : (s.chPair ch).tw.seqState = s.tw.seqState := by
  unfold State.chPair
  split
  · rfl
  · split
    · rfl
    · simp [Tw.seqState, State.mismatch]

@[simp] theorem State.railLost_tw (ch q v : Nat) (s : State) : (s.railLost ch q v).tw = s.tw := by
  unfold State.railLost
  dsimp only
  split
  · split <;> simp
  · rfl

@[simp] theorem State.pushSample_seq (r : Nat) (s : State) : (s.pushSample r).tw.seqState = s.tw.seqState := by
  unfold State.pushSample
  rw [State.onTw_tw]
  split <;> rfl

/-- A delivered output moves no sequence (R80). -/
@[simp] theorem State.deliver_seq (q sub : Nat) (w : Word) (v : BitVec 16) (valid : Bool) (settle : Nat) (last : Bool)
    (s : State) : (s.deliver q sub w v valid settle last).tw.seqState = s.tw.seqState := by
  have hvalid : ∀ ch sub, (s.validOut ch q sub v).tw.seqState = s.tw.seqState := fun ch sub =>
    (s.chPair_seq ch : _)
  simp only [State.deliver]
  split <;> split <;> simp [hvalid]

/-! ### Trips -/

@[simp] theorem State.tripBoot_tw (d : Nat) (s : State) : (s.tripBoot d).tw = s.tw := by
  unfold State.tripBoot
  split <;> simp

theorem State.trip_tw (d : Nat) (s : State) :
    (s.trip d).tw = { s.tw with
      tripped := true, alert := if s.tw.tripped then s.tw.alert else setBit s.tw.alert 3 } := by
  unfold State.trip
  split
  next h => simp [← h]
  next => simp [foldl_keeps State.tw _ fun t pid => (State.stopWork_frame pid stThermal t).2.2.1, State.stopMvm,
      State.ownOrder]

/-- A lost PPS ends the lock in holdover and leaves harbour time (R101). -/
theorem exec_ppsLost {s : State} (h : (s.time.ppsTick.any fun n => decide (n + 12000000 ≤ s.time.tick)) = true)
    (hlock : s.time.disc = .locked) :
    ∃ t : State, exec .ppsLost s = .next t.settle ∧ t.time.ppsLost = true ∧ t.time.disc = .holdover ∧
      t.time.harbour = s.time.harbour := by
  refine ⟨?t, ?run, ?fields⟩
  case run =>
    change execPpsLost s = _
    simp only [execPpsLost, done, h, if_true]
    rfl
  case fields => simp [hlock]

theorem State.trigRule_timer (n : Nat) (s : State) : (s.trigRule n).2.tw.timer = s.tw.timer := by
  simp only [State.trigRule]
  split <;> rfl

theorem State.trigSeq_timer (n : Nat) (s : State) : (s.trigSeq n).2.tw.timer = s.tw.timer := by
  simp only [State.trigSeq]
  split <;> rfl

/-- A trigger starts no timer. -/
theorem State.trigAll_timer (rules seqs : List Nat) (s : State) :
    (s.trigAll rules seqs).2.2.tw.timer = s.tw.timer := by
  have hrules : ∀ (l : List Nat) (a : List Nat × State), (l.foldl (fun (acc : List Nat × State) n =>
      let (f, t) := acc.2.trigRule n; (acc.1 ++ [f], t)) a).2.tw.timer = a.2.tw.timer := by
    intro l
    induction l with
    | nil => exact fun _ => rfl
    | cons n l ih => exact fun a => (ih _).trans (State.trigRule_timer n a.2)
  have hseqs : ∀ (l : List Nat) (a : List (Nat × Nat) × State), (l.foldl (fun (acc : List (Nat × Nat) × State) q =>
      let (f, t) := acc.2.trigSeq q; (acc.1 ++ [(q, f)], t)) a).2.tw.timer = a.2.tw.timer := by
    intro l
    induction l with
    | nil => exact fun _ => rfl
    | cons n l ih => exact fun a => (ih _).trans (State.trigSeq_timer n a.2)
  exact (hseqs seqs _).trans (hrules rules _)

theorem State.allCool_congr {s t : State} (h : t.tw = s.tw) : t.allCool = s.allCool := by
  have hdie : t.dieTemp = s.dieTemp := by
    funext d
    simp only [State.dieTemp, h]
  simp only [State.allCool, hdie, State.throttleLim, State.limits, h]
  rfl

@[simp] theorem State.nvmAccept_tw (s : State) : s.nvmAccept.tw = s.tw := by
  simp [State.nvmAccept, foldl_keeps State.tw _ fun t w => (State.nvmQueue_frame w t).2.2.2.2.1]

/-- A conversion that needs no settling and is not clipped goes through its step's filter and on (R79, R80). -/
theorem exec_adcConversionDone {s : State} {q code : Nat} (hrun : s.tw.seqRunning = some q) (hbegun : s.tw.stepBegun = true)
    (hsettle : s.tw.settleLeft = 0) (hlo : 0 < code) (hhi : code < 4095) :
    exec (.adcConversionDone code) s = .next (State.settle (
      let w := s.runStep s.tw.seqStep
      let f := (s.tw.filt.look (q * 32 + s.tw.seqStep) {}).feed (stFilter w) code
      let u := (s.onTw fun x => { x with convLast := some (stCh w, stSub w, stGain w), settleLeft := x.settleLeft - 1 }).onTw fun x =>
        { x with filt := x.filt.put (q * 32 + s.tw.seqStep) {} f }
      let valid := decide (filtInvalid (stFilter w) < f.outputs)
      (u.deliver q (stSub w) w (u.scale (stCh w) (stGain w) f.y) valid (if valid then 0 else 3)
        (decide (stCount w ≤ s.tw.seqConv + 1))).stepOn w)) := by
  have hmod : code % 4096 = code := Nat.mod_eq_of_lt (by omega)
  change execAdcConversionDone code s = _
  have hb : ∀ w, s.beginStep w = s := fun w => by simp [State.beginStep, hbegun]
  have hin : ¬((code = 0 ∧ stCh (s.runStep s.tw.seqStep) ≠ 47) ∨ code = 4095) := by omega
  simp only [execAdcConversionDone, done, hrun, hmod, hb, hsettle, lt_irrefl, decide_false, Bool.false_and,
    Bool.false_eq_true, if_false, State.onTw_tw]
  rw [if_neg hin]

/-! ### The safety scan (R84) -/

/-- A fold over a list with `a` in it ends with what the step of `a` sets and no other step takes away. -/
theorem foldl_establishes {α : Type} {P : State → Prop} {f : State → α → State} {a : α} (hset : ∀ t, P (f t a))
    (hkeep : ∀ t b, P t → P (f t b)) {l : List α} (ha : a ∈ l) (s : State) : P (l.foldl f s) := by
  have hall : ∀ (l : List α) t, P t → P (l.foldl f t) := fun l => by
    induction l with
    | nil => exact fun _ h => h
    | cons b l ih => exact fun t h => ih _ (hkeep t b h)
  induction l generalizing s with
  | nil => cases ha
  | cons b l ih =>
    rcases List.mem_cons.mp ha with rfl | hl
    · exact hall l _ (hset s)
    · exact ih hl _

section
variable {temps : List (Option (BitVec 16))} {n : Nat} {v : BitVec 16} (hv : temps.getD n none = some v) (hn : n < 32)
include hv hn

theorem State.sensorRead_self (t : State) : (t.sensorRead n (temps.getD n none)).tw.safeTemp.look n 0 = v ∧
    (t.sensorRead n (temps.getD n none)).tw.safeValid.getLsbD n = true := by
  rw [hv]
  exact ⟨Tab.look_put_self .., by simp [State.sensorRead, getLsbD_setBit, hn]⟩

theorem State.sensorRead_keeps (k : Nat) (t : State)
    (h : t.tw.safeTemp.look n 0 = v ∧ t.tw.safeValid.getLsbD n = true) :
    (t.sensorRead k (temps.getD k none)).tw.safeTemp.look n 0 = v ∧
    (t.sensorRead k (temps.getD k none)).tw.safeValid.getLsbD n = true := by
  by_cases hk : k = n
  · exact hk ▸ State.sensorRead_self hv hn t
  · obtain ⟨htemp, hvalid⟩ := h
    simp only [BitVec.ofNat_eq_ofNat] at htemp
    generalize temps.getD k none = r
    rcases r with _ | r
    · simp only [State.sensorRead]
      split <;> simp [htemp, hvalid, getLsbD_clearBit, hk, -BitVec.getLsbD_eq_getElem]
    · simp [State.sensorRead, Tab.look_put_ne _ _ _ _ _ _ (Ne.symm hk), htemp, getLsbD_setBit, hvalid,
        -BitVec.getLsbD_eq_getElem]

end

/-- What the scan leaves of its readings. -/
def Tw.scanState (w : Tw) : Tab (BitVec 16) × BitVec 32 × Option (Nat × Nat × Nat) := (w.safeTemp, w.safeValid, w.convLast)

@[simp] theorem State.ladderStep_scan (d : Nat) (s : State) : (s.ladderStep d).tw.scanState = s.tw.scanState := by
  unfold State.ladderStep
  split
  · rfl
  · dsimp only
    split_ifs <;> simp [Tw.scanState, State.trip_tw]

@[simp] theorem State.calCheck_scan (d : Nat) (s : State) : (s.calCheck d).tw.scanState = s.tw.scanState := by
  unfold State.calCheck
  dsimp only
  split_ifs <;> simp [Tw.scanState, State.calRequest]

theorem State.adcCheck_safe (vref gnd : Nat) (s : State) : (s.adcCheck vref gnd).tw.safeTemp = s.tw.safeTemp ∧
    (s.adcCheck vref gnd).tw.safeValid = s.tw.safeValid := by
  unfold State.adcCheck
  dsimp only
  split_ifs <;> simp

theorem exec_safetyScan {s : State} (hsampling : s.tw.sampling = true) (hbegun : s.tw.stepBegun = false)
    (temps : List (Option (BitVec 16))) (vref gnd : Nat) :
    exec (.safetyScan temps vref gnd) s = .next (State.settle (((List.range 8).foldl (fun s d => (s.ladderStep d).calCheck d)
      ((((List.range 32).foldl (fun s k => s.sensorRead k (temps.getD k none))
        (if pairOk s.tw.thermLim then s else s.mismatch 0x508 none 0x40018)).adcCheck vref gnd).onTw fun w =>
          { w with convLast := some (47, 0, 0) })).retuneAll)) := by
  change execSafetyScan temps vref gnd s = _
  simp only [execSafetyScan, done, hsampling, hbegun, Bool.not_true, Bool.or_self, Bool.false_eq_true, if_false]

theorem State.trip_ao (d : Nat) (s : State) : (s.trip d).ao = s.ao := by
  have hboot : ∀ t : State, (t.tripBoot d).ao = t.ao := fun t => by
    unfold State.tripBoot
    split <;> simp
  unfold State.trip
  split
  · exact hboot s
  · simp [hboot, foldl_keeps State.ao _ fun t pid => (State.stopWork_frame pid stThermal t).1, State.stopMvm, State.ownOrder]

/-- Settles O9: each branch, by the lemmas above. -/
theorem tidewatchInputsAndSequences : Obligations.TidewatchInputsAndSequences := by
  unfold Obligations.TidewatchInputsAndSequences
  refine ⟨?conversion, ?start, ?write, ?timer, ?watch, ?early, ?stale, ?scan, ?therm, ?pps, ?second, ?set, ?cut, ?clear⟩
  case conversion =>
    intro s q code hrun hbegun hsettle hlo hhi
    refine ⟨_, exec_adcConversionDone hrun hbegun hsettle hlo hhi, ?_⟩
    simp only
    generalize hu : State.deliver .. = u
    have hseq : u.tw.seqState = _ := hu ▸ State.deliver_seq ..
    simp only [Tw.seqState, State.onTw_tw, Prod.mk.injEq] at hseq
    obtain ⟨hfilt, hrunning, hstep, hconv, hsteps⟩ := hseq
    refine ⟨?_, fun hmore => ?_⟩
    · simp only [State.stepOn, State.onTw_tw]
      split_ifs <;> simp [hfilt]
    · simp [State.stepOn, hconv, hmore, hstep, hrunning, hrun]
  case start =>
    intro s q hsampling hidle hq htrig hlow
    have hfind : ((List.range 8).find? fun r => s.tw.seqTrig.look r 0 != 0) = some q := by
      rw [List.find?_range_eq_some]
      simpa [hq, htrig] using hlow
    refine ⟨_, rfl, ?_⟩
    simp only [hsampling, hidle, hfind, Option.isNone_none, Bool.and_self]
    simp
  case write =>
    intro s n v hn hready h31 h30 hkind htrig hrun
    refine ⟨s.hostWake.seqCtrlSet n v, ?_, ?_⟩
    · change execSeqStartWrite n v s = _
      have hok : (TwReg.seqCtrl n).refuses (v.setWidth 64) = false := by
        simpa [TwReg.refuses, pairVal] using hkind
      simp [execSeqStartWrite, done, State.atReady_of hready, hn, State.twSet, hok, State.twPut, pairVal]
    · simp only [State.seqCtrlSet, h30, h31, if_true, Bool.and_self]
      split <;> simp [State.clearFilters, State.trigSeq, htrig, hrun, State.seqCtrl]
  case timer =>
    intro s n hn hsampling hen hshot hperiod
    refine ⟨_, rfl, ?_⟩
    simp only [hn, hsampling, hen, hshot, hperiod, and_self, ne_eq, not_false_eq_true, if_true,
      Bool.false_eq_true, if_false]
    simp only [State.timer]
    rw [foldl_keeps (fun t : State => t.tw.timer), State.trigAll_timer]
    · simp
    · intro t e
      split <;> rfl
  case watch =>
    intro s hsampling hdue
    change execWatchBoundary s = _
    simp [execWatchBoundary, done, hsampling, hdue]
  case early =>
    intro s hearly
    change execWatchBoundary s = _
    simp [execWatchBoundary, done, Nat.not_lt.mpr hearly]
  case stale =>
    intro s ch hch hsampling hpair hlim hfresh hdue hroom
    refine ⟨(s.onTw fun w => { w with chLast := w.chLast.upd ch {} fun x => { x with stale := true } }).pushSample
      (sampleRec s.stamp (s.tw.chLast.look ch {}).value.toNat true false false false 0 false
        (s.tw.chLast.look ch {}).lastSeq ch (s.tw.chLast.look ch {}).lastSub), ?_, ?_⟩
    · change execChannelStale ch s = _
      simp only [execChannelStale, done, hch, hsampling, hpair, hlim, hfresh, hdue, decide_true, Bool.and_self, Bool.not_true,
        Bool.false_eq_true, if_false, Bool.not_false, and_self, if_true, ne_eq, not_false_eq_true]
    · simp [State.pushSample, Nat.not_le.mpr hroom]
  case scan =>
    intro s temps vref gnd n v hsampling hbegun hn hv
    refine ⟨_, exec_safetyScan hsampling hbegun temps vref gnd, ?_⟩
    generalize hu : (List.range 32).foldl (fun (s : State) k => s.sensorRead k (temps.getD k none)) _ = u
    have hread : u.tw.safeTemp.look n 0 = v ∧ u.tw.safeValid.getLsbD n = true := by
      rw [← hu]
      exact foldl_establishes (P := fun t : State => t.tw.safeTemp.look n 0 = v ∧ t.tw.safeValid.getLsbD n = true)
        (fun t => State.sensorRead_self hv hn t) (fun t k => State.sensorRead_keeps hv hn k t) (List.mem_range.mpr hn) _
    obtain ⟨htemp, hvalid⟩ := State.adcCheck_safe vref gnd u
    have hladder := foldl_keeps (fun t : State => t.tw.scanState) (fun s d => (s.ladderStep d).calCheck d)
      (fun t d => by simp) (List.range 8) ((u.adcCheck vref gnd).onTw fun w => { w with convLast := some (47, 0, 0) })
    simp only [Tw.scanState, State.onTw_tw, Prod.mk.injEq, htemp, hvalid] at hladder
    simp only [State.retuneAll_frame, hladder]
    exact ⟨hread.1, hread.2, trivial⟩
  case therm =>
    intro s ns hsampling hlevel
    refine ⟨_, rfl, ?_⟩
    simp [hsampling, hlevel, State.level]
  case pps =>
    intro s n htick hlate hlock
    have hany : (s.time.ppsTick.any fun n => decide (n + 12000000 ≤ s.time.tick)) = true := by
      rw [htick, Option.any_some]
      exact decide_eq_true hlate
    exact exec_ppsLost hany hlock
  case second =>
    intro s hen hwhole
    change execTimeOutSecond s = _
    rw [execTimeOutSecond, hen, decide_eq_true hwhole]
    rfl
  case set =>
    intro s v hready hawake
    change execTimeSet v s = _
    simp only [execTimeSet, done, State.atReady_awake hready hawake]
    rfl
  case cut =>
    intro s d hpor
    refine ⟨s.pwrCut (d % 8), ?_, ?_⟩
    · change execHardCut d s = _
      simp [execHardCut, done, hpor]
    · simp only [State.pwrCut]
      split <;> simp [State.trip_tw, State.trip_ao, State.ownOrder, *]
  case clear =>
    intro s hready htrip hcool hcut
    refine ⟨s.hostWake.clearTrip, ?_, ?_⟩
    · change execTripClear s = _
      simp only [execTripClear, done, State.atReady_of hready]
    · have hcool' : s.hostWake.allCool = true := by
        rw [State.allCool_congr (s := s) (by simp), hcool]
      simp [State.clearTrip, htrip, hcool', hcut, foldl_keeps State.tw _ fun t d => (State.pllFollow_frame d t).2.2.2.2.1]

end Sys2Proof.Machine
end

section
/-! PROOFS. Tidewatch: its registers and its packets. -/

namespace Sys2Proof.Machine

open Sys2Proof

theorem State.readAtReady_awake {s : State} (hhub : s.ao.hubOut = true) (hready : s.boot.ready = true)
    (hawake : s.pwr.dev ≠ .sleep) (off len : Nat) (f : State → List Byte × State) :
    s.readAtReady off len f = (f s).2.emit (.readData (f s).1 false) := by
  simp [State.readAtReady, hhub, hready, State.hostWake_of_ne_sleep hawake]

/-- The first two registers of a rule (Table 4-10). -/
theorem twReg_ruleSrc {n : Nat} (hn : n < 64) : twReg (0x2000 + 32 * n) = some (.ruleSrc n) := by
  have hnum : (0x2000 + 32 * n - 0x2000) / 32 = n := by omega
  have hwhich : (0x2000 + 32 * n - 0x2000) % 32 / 8 = 0 := by omega
  simp only [twReg, hnum, hwhich, Bool.and_eq_true, decide_eq_true_eq, beq_iff_eq]
  repeat rw [if_neg (by omega)]
  rw [if_pos (by omega)]

theorem twReg_ruleThr {n : Nat} (hn : n < 64) : twReg (0x2000 + 32 * n + 8) = some (.ruleThr n) := by
  have hnum : (0x2000 + 32 * n + 8 - 0x2000) / 32 = n := by omega
  have hwhich : (0x2000 + 32 * n + 8 - 0x2000) % 32 / 8 = 1 := by omega
  simp only [twReg, hnum, hwhich, Bool.and_eq_true, decide_eq_true_eq, beq_iff_eq]
  repeat rw [if_neg (by omega)]
  rw [if_pos (by omega)]

theorem twReg_step {n k : Nat} (hn : n < 8) (hk : k < 32) : twReg (0x1000 + 128 * n + 4 * k) = some (.step n k) := by
  have hnum : (0x1000 + 128 * n + 4 * k - 0x1000) / 128 = n := by omega
  have hwhich : (0x1000 + 128 * n + 4 * k - 0x1000) % 128 / 4 = k := by omega
  simp only [twReg, hnum, hwhich, Bool.and_eq_true, decide_eq_true_eq, beq_iff_eq]
  repeat rw [if_neg (by omega)]
  rw [if_pos (by omega)]

/-- The low word of a register that is a pair sets the pair (R87). -/
theorem State.twWrite4_pair {off : Nat} {r : TwReg} (hreg : twReg off = some r) (hwide : r.wide = true)
    (hold : ∀ s : State, s.twOld r = 0) (w : Word) (s : State) : s.twWrite4 off w = s.twSet r (w.setWidth 64) := by
  have hlow : BitVec.ofNat 64 w.toNat = w.setWidth 64 := BitVec.eq_of_toNat_eq (by simp)
  simp [State.twWrite4, hreg, hwide, hold, hlow]

theorem State.twWrite4_narrow {off : Nat} {r : TwReg} (hreg : twReg off = some r) (hwide : r.wide = false) (w : Word)
    (s : State) : s.twWrite4 off w = s.twSet r (w.setWidth 64) := by
  simp [State.twWrite4, hreg, hwide]

@[simp] theorem pairVal_setWidth (w : Word) : pairVal (w.setWidth 64) = w := by
  simp [pairVal]

theorem State.twSet_refused {r : TwReg} {v : DWord} (h : r.refuses v = true) (s : State) :
    s.twSet r v = s.onTw fun w => { w with refused := true } := by
  simp [State.twSet, h]

theorem State.twSet_taken {r : TwReg} {v : DWord} (h : r.refuses v = false) (s : State) : s.twSet r v = s.twPut r v := by
  simp [State.twSet, h]

/-- A packet that runs takes its effect on the state in which it has left the queue (R152). -/
theorem State.dispatch_run {s : State} {q : QueueId} {op : Nat} {p : Packet} (h : s.Runs q op p) {sel : Packet → Bool}
    (hsel : sel p = true) (f : Packet → State → State) : s.dispatch q op sel f = f p (s.take q p) := by
  obtain ⟨hhead, hcommon⟩ := h
  simp [State.dispatch, hhead, hsel, hcommon]

/-- Settles O10: each register and packet, by the decoder of register offsets. -/
theorem tidewatchConfiguration : Obligations.TidewatchConfiguration := by
  unfold Obligations.TidewatchConfiguration
  refine ⟨?sample, ?noSample, ?trig, ?rule, ?badRule, ?limits, ?badLimits, ?step, ?watch, ?badConfig, ?config, ?read⟩
  case sample =>
    intro s r l hhub hready hawake hfifo
    change execTwSamplePop s = _
    rw [execTwSamplePop, State.readAtReady_awake hhub hready hawake]
    simp [State.popSample, hfifo, done, State.emit, State.onTw, State.onOut]
  case noSample =>
    intro s hhub hready hawake hfifo
    change execTwSamplePop s = _
    rw [execTwSamplePop, State.readAtReady_awake hhub hready hawake]
    have hones : toLe 8 (0xFFFFFFFFFFFFFFFF : DWord).toNat = List.replicate 8 0xFF := by decide
    simp only [State.popSample, hfifo, hones]
    rfl
  case trig =>
    intro s e x l hhub hready hawake hfifo
    change execTwTrigPop s = _
    rw [execTwTrigPop, State.readAtReady_awake hhub hready hawake]
    simp [State.popTrig, hfifo, done, State.emit, State.onTw, State.onOut]
  case rule =>
    intro s n v hn hready
    refine ⟨s.hostWake.ruleSet n fun r => { r with thr := mkPair v }, ?_, ?_, ?_, ?_⟩
    · change execTwRuleWrite n 1 v s = _
      rw [execTwRuleWrite, State.atReady_of hready, if_pos ⟨hn, by decide⟩,
        State.twWrite4_pair (twReg_ruleThr hn) rfl (fun _ => rfl), State.twSet_taken rfl]
      simp [State.twPut, done]
    · simp [State.ruleSet]
    · simp [State.ruleSet]
    · intro m hm
      simp [State.ruleSet, Tab.look_put_ne _ _ _ _ _ _ hm]
  case badRule =>
    intro s n v hn hready hawake h31 hbad
    change execTwRuleWrite n 0 v s = _
    rw [execTwRuleWrite, State.atReady_awake hready hawake, if_pos ⟨hn, by decide⟩, Nat.mul_zero, Nat.add_zero,
      State.twWrite4_pair (twReg_ruleSrc hn) rfl (fun _ => rfl), State.twSet_refused]
    · rfl
    · simp only [TwReg.refuses, pairVal_setWidth, h31, hbad, Bool.not_false, Bool.and_self]
  case limits =>
    intro s v hready hawake hok
    change execTwThermLimWrite v s = _
    rw [execTwThermLimWrite, State.atReady_awake hready hawake,
      State.twWrite4_pair (r := .thermLim) (by rfl) rfl (fun _ => rfl), State.twSet_taken]
    · simp [State.twPut, done, State.onTw]
    · simp [TwReg.refuses, hok]
  case badLimits =>
    intro s v hready hawake hbad
    change execTwThermLimWrite v s = _
    rw [execTwThermLimWrite, State.atReady_awake hready hawake,
      State.twWrite4_pair (r := .thermLim) (by rfl) rfl (fun _ => rfl), State.twSet_refused]
    · rfl
    · simp [TwReg.refuses, hbad]
  case step =>
    intro s n k v hn hk hready hawake hch hfilter hrecord
    refine ⟨s.twPut (.step n k) (v.setWidth 64), ?_, ?_, ?_⟩
    · change execTwStepWrite n k v s = _
      rw [execTwStepWrite, State.atReady_awake hready hawake, if_pos ⟨hn, hk⟩,
        State.twWrite4_narrow (twReg_step hn hk) rfl, State.twSet_taken]
      · rfl
      · simp [TwReg.refuses, hch, hfilter, hrecord]
    · simp [State.twPut, State.step_]
    · simp [State.twPut]
  case watch =>
    intro s v hready hawake hlo hhi
    change execTwWatchWrite v s = _
    rw [execTwWatchWrite, State.atReady_awake hready hawake, State.twWrite4_narrow (r := .watch) (by rfl) rfl,
      State.twSet_taken]
    · simp [State.twPut, done, State.onTw]
    · simp only [TwReg.refuses, pairVal_setWidth, Bool.or_eq_false_iff, decide_eq_false_iff_not, Nat.not_lt]
      exact ⟨hlo, hhi⟩
  case badConfig =>
    intro s q p st i hruns hbad
    change done (s.dispatch q 0x48 anyPkt _) = _
    rw [State.dispatch_run hruns rfl]
    simp only [hbad, done]
  case config =>
    intro s q p hruns hok
    change done (s.dispatch q 0x48 anyPkt _) = _
    rw [State.dispatch_run hruns rfl]
    have hnone : (p.twValues.findSome? fun e => (twValueBad e.2.1 e.2.2).map fun st => (st, e.1)) = none := by
      rw [List.findSome?_eq_none_iff]
      intro e he
      rw [hok e he]
      rfl
    have hlen : p.twValues.length = p.f 18 1 := by simp [Packet.twValues]
    simp only [hnone, done, hlen] <;> rfl
  case read =>
    intro s q p hruns hpage hfifo htrig
    change done (s.dispatch q 0x49 anyPkt _) = _
    rw [State.dispatch_run hruns rfl]
    simp [State.twWords, hpage, hfifo, htrig, done, Function.comp_def]

end Sys2Proof.Machine
end

section
/-! PROOFS. Sleep and wake, and the states of a slice. -/

namespace Sys2Proof.Machine

open Sys2Proof

/-- What every step of a fold keeps of its accumulator, the fold keeps. -/
theorem foldl_keeps_acc {σ α β : Type} (g : σ → β) {f : σ → α → σ} (h : ∀ t a, g (f t a) = g t) (l : List α) (s : σ) :
    g (l.foldl f s) = g s := by
  induction l generalizing s with
  | nil => rfl
  | cons a l ih => exact (ih _).trans (h s a)

/-! ### Slices and dies -/

/-- The power state apart from what belongs to single slices and dies. -/
def Pwr.rest (p : Pwr) : Pwr := { p with slice := [], die := [] }

@[simp] theorem State.onSlice_rest (n : Nat) (f : Slice → Slice) (s : State) : (s.onSlice n f).pwr.rest = s.pwr.rest := rfl
@[simp] theorem State.onDie_rest (d : Nat) (f : Die → Die) (s : State) : (s.onDie d f).pwr.rest = s.pwr.rest := rfl
@[simp] theorem State.onDie_slices (d : Nat) (f : Die → Die) (s : State) : (s.onDie d f).pwr.slice = s.pwr.slice := rfl

/-- A change of voltage or clock concerns one die. -/
@[simp] theorem State.askVolt_pwr (d v : Nat) (s : State) :
    (s.askVolt d v).pwr.rest = s.pwr.rest ∧ (s.askVolt d v).pwr.slice = s.pwr.slice := by
  unfold State.askVolt
  dsimp only
  split_ifs <;> simp

@[simp] theorem State.retune_pwr (d : Nat) (s : State) :
    (s.retune d).pwr.rest = s.pwr.rest ∧ (s.retune d).pwr.slice = s.pwr.slice := by
  unfold State.retune
  dsimp only
  split_ifs <;> simp

@[simp] theorem State.pllFollow_pwr (d : Nat) (s : State) :
    (s.pllFollow d).pwr.rest = s.pwr.rest ∧ (s.pllFollow d).pwr.slice = s.pwr.slice := by
  unfold State.pllFollow
  dsimp only
  split_ifs <;> simp

@[simp] theorem State.pllFollow_slice (d : Nat) (s : State) (n : Nat) : (s.pllFollow d).slice n = s.slice n := by
  simp [State.slice]

@[simp] theorem State.setSlice_rest (n : Nat) (st : SliceSt) (s : State) : (s.setSlice n st).pwr.rest = s.pwr.rest := by
  simp [State.setSlice]

@[simp] theorem State.setSlice_self (n : Nat) (st : SliceSt) (s : State) :
    (s.setSlice n st).slice n = { s.slice n with st := st, waking := false } := by
  simp [State.setSlice]

theorem State.setSlice_ne {n m : Nat} (h : m ≠ n) (st : SliceSt) (s : State) : (s.setSlice n st).slice m = s.slice m := by
  simp [State.setSlice, State.slice_onSlice_ne _ _ _ _ h]

@[simp] theorem State.napCores_pwr (n : Nat) (s : State) : (s.napCores n).pwr = s.pwr :=
  foldl_keeps State.pwr _ (fun t k => by simp [State.dropCaches]) _ _

@[simp] theorem State.dropL2_pwr (n : Nat) (s : State) : (s.dropL2 n).pwr = s.pwr := by
  unfold State.dropL2
  dsimp only
  split <;> simp

/-- A slice goes down: its caches are emptied, and its state changes (R114). -/
theorem State.sliceDown_eq (n : Nat) (st : SliceSt) (s : State) : ∃ t : State, s.sliceDown n st = t.setSlice n st ∧
    t.pwr = s.pwr := by
  refine ⟨_, rfl, ?_⟩
  split <;> simp

@[simp] theorem State.sliceDown_rest (n : Nat) (st : SliceSt) (s : State) : (s.sliceDown n st).pwr.rest = s.pwr.rest := by
  obtain ⟨t, ht, hpwr⟩ := s.sliceDown_eq n st
  rw [ht, State.setSlice_rest, hpwr]

@[simp] theorem State.sliceDown_self (n : Nat) (st : SliceSt) (s : State) :
    (s.sliceDown n st).slice n = { s.slice n with st := st, waking := false } := by
  obtain ⟨t, ht, hpwr⟩ := s.sliceDown_eq n st
  rw [ht, State.setSlice_self]
  simp [State.slice, hpwr]

theorem State.sliceDown_ne {n m : Nat} (h : m ≠ n) (st : SliceSt) (s : State) : (s.sliceDown n st).slice m = s.slice m := by
  obtain ⟨t, ht, hpwr⟩ := s.sliceDown_eq n st
  rw [ht, State.setSlice_ne h]
  simp [State.slice, hpwr]

/-! ### Messages leave the power state as it is -/

@[simp] theorem State.announce_pwr (c : Nat) (s : State) : (s.announce c).pwr = s.pwr := by
  unfold State.announce
  dsimp only
  split
  · exact foldl_keeps State.pwr _ (fun t d => by simp) _ _
  · split <;> simp

theorem State.tellHeld_pwr (s : State) : s.tellHeld.pwr = s.pwr :=
  foldl_keeps State.pwr _ (fun t e => by simp) _ _

theorem State.sendHeldCauses_pwr (s : State) : s.sendHeldCauses.pwr = s.pwr := by
  have hcauses : ∀ (m : Word) (t : State), (t.sendCauses m).pwr = t.pwr := fun m t =>
    foldl_keeps State.pwr _ (fun t k => by simp) _ _
  have hvf : ∀ (n : Nat) (m : BitVec 3) (t : State), (t.sendVfCauses n m).pwr = t.pwr := fun n m t =>
    foldl_keeps State.pwr _ (fun t k => by simp) _ _
  exact (foldl_keeps State.pwr _ (fun t e => hvf _ _ t) _ _).trans (hcauses _ _)

theorem State.sendHeld_pwr (s : State) : s.sendHeld.pwr = s.pwr := by
  have hover : ∀ n h (t : State), (t.handOver n h).1.pwr = t.pwr := fun n h t => by
    unfold State.handOver
    split <;> simp
  refine (foldl_keeps State.pwr _ (fun t m => ?_) _ _).trans (foldl_keeps_acc (fun a : State × List HeldMsg => a.1.pwr)
    (fun a h => ?_) s.fleet.held (s, []))
  · split <;> simp
  · dsimp only
    split
    · rfl
    · split
      · exact hover _ _ _
      · rfl

theorem State.comeAwake_dev (s : State) : s.comeAwake.pwr.dev = .awake := by
  simp [State.comeAwake, State.sendHeld_pwr, State.tellHeld_pwr, State.sendHeldCauses_pwr]

theorem State.sliceBack_rest (n : Nat) (s : State) : (s.sliceBack n).pwr.rest = s.pwr.rest := by
  unfold State.sliceBack
  split <;> rfl

theorem State.startSeries_pwr (n : Nat) (s : State) : (s.startSeries n).pwr = s.pwr := by
  unfold State.startSeries
  dsimp only
  split <;> simp

theorem State.dropSlices_dev (l : List Nat) (s : State) : (s.dropSlices l).pwr.dev = s.pwr.dev :=
  foldl_keeps (fun t : State => t.pwr.dev) _ (fun t n => by simp) _ _

theorem State.bistOutcome_dev (p : BitVec 8) (c : List Nat) (u : BitVec 8) (s : State) :
    (s.bistOutcome p c u).pwr.dev = s.pwr.dev := by
  have hcore : ∀ (l : List Nat) (t : State), (l.foldl (fun t c => t.bistCore c) t).pwr = t.pwr :=
    foldl_keeps State.pwr _ fun t c => by simp [State.bistCore]
  simp only [State.bistOutcome, State.dropEmpty, State.dropSlices_dev]
  split_ifs <;> simp [State.dropSlices_dev, hcore]

/-- The stages that a full restore repeats leave the device awake (R123). -/
theorem State.repeatTraining_dev (r : Retrain) (s : State) : (s.repeatTraining r).pwr.dev = s.pwr.dev := by
  simp only [State.repeatTraining, State.noSlice, State.hbmOutcome]
  split_ifs <;> simp [State.bistOutcome_dev, State.dropSlices_dev]

/-- What SLEEP leaves in the power state (R119, R120). -/
theorem State.enterSleep_pwr (s : State) : s.enterSleep.pwr.dev = .sleep ∧ s.enterSleep.pwr.sleepPending = [] ∧
    s.enterSleep.pwr.hbmSr = true ∧ s.enterSleep.pwr.deckOff = ~~~s.retained ∧ s.enterSleep.pwr.pilotHalted = true := by
  have hrest : ∀ t : State, t.pwr.rest = s.pwr.rest → t.retained = s.retained := fun t h => by
    have hret : t.pwr.deckRet = s.pwr.deckRet := (congrArg Pwr.deckRet h :)
    simp only [State.retained, hret]
  simp only [State.enterSleep, State.raise_frame, State.onHws_pwr, State.onMgmt_pwr, State.onHost_pwr, State.onPwr_pwr, true_and]
  refine ⟨congrArg _ (hrest _ ?_), trivial⟩
  refine (foldl_keeps (fun t : State => t.pwr.rest) _ (fun t n => ?_) _ _).trans ?_
  · split_ifs <;> simp
  · rw [State.announce_pwr, foldl_keeps State.pwr _ fun t pid => (State.finish_frame pid stOk 2 0 t).2.2.2.2.1]
    split <;> simp only [State.mismatch_frame]

theorem State.enterSleep_link (s : State) : s.enterSleep.host.linkL12 = true := by
  simp [State.enterSleep]

/-- Settles O11: each state of a slice, and of the device between AWAKE and DEEP. -/
theorem sleepAndSlices : Obligations.SleepAndSlices := by
  unfold Obligations.SleepAndSlices
  refine ⟨?dwell, ?pending, ?awake, ?deep, ?retry, ?doze, ?nap, ?off, ?run, ?lapse⟩
  case dwell =>
    intro s hawake hidle hshared
    have hnone : ((List.range 32).any fun n => s.partExists n && s.strict n) = false := by
      simp only [List.any_eq_false, List.mem_range, Bool.and_eq_true, not_and, Bool.not_eq_true]
      exact hshared
    refine ⟨s.enterSleep, ?_, s.enterSleep_pwr.1, s.enterSleep_pwr.2.2.1, s.enterSleep_pwr.2.2.2.1, s.enterSleep_pwr.2.2.2.2, ?_⟩
    · change execIdleDwellExpiry s = _
      simp [execIdleDwellExpiry, done, hawake, hidle, hnone]
    · exact s.enterSleep_link
  case pending =>
    intro s hawake hidle hpending
    refine ⟨s.enterSleep, ?_, s.enterSleep_pwr.1, s.enterSleep_pwr.2.1⟩
    change execSleepPendingEntry s = _
    simp [execSleepPendingEntry, done, hawake, hidle, hpending]
  case awake =>
    intro s us failed hsleep hwake
    refine ⟨_, rfl, ?_⟩
    rw [if_pos ⟨hsleep, hwake⟩]
    have hlost (tag : Word) : ∀ (l : List Nat) (t : State),
        (l.foldl (fun t n => t.sliceLost n tag) t).pwr.dev = t.pwr.dev :=
      foldl_keeps (fun t => t.pwr.dev) _ fun t n => by simp
    split_ifs <;> simp [hlost, State.comeAwake_dev]
  case deep =>
    intro s r hdeep hwake
    refine ⟨_, rfl, ?_⟩
    rw [if_pos ⟨hdeep, hwake⟩]
    rw [foldl_keeps (fun t : State => t.pwr.dev) _ fun t p => by rw [State.startSeries_pwr]]
    cases r <;> simp [State.calRequest, State.repeatTraining_dev, State.comeAwake_dev]
  case retry =>
    intro s failed hawake hfail htries
    refine ⟨_, rfl, ?_⟩
    rw [if_pos ⟨hawake, hfail, htries⟩]
    have hrest := foldl_keeps (fun t : State => t.pwr.rest) (fun t n => t.sliceBack n) (fun t n => State.sliceBack_rest n t)
      (slicesOfDies (s.pwr.hbmFail &&& ~~~failed))
      (s.onPwr fun p => { p with hbmFail := p.hbmFail &&& failed, hbmTries := p.hbmTries + 1 })
    exact ⟨(congrArg Pwr.hbmFail hrest :), (congrArg Pwr.hbmTries hrest :)⟩
  case doze =>
    intro s n hn hawake hst hdoze hwork hkept
    refine ⟨s.setSlice n .doze, ?_, ?_, fun m hm => State.setSlice_ne hm _ _⟩
    · change execSliceDozeDwellExpiry n s = _
      simp [execSliceDozeDwellExpiry, done, hn, hawake, hst, hdoze, hwork, hkept]
    · simp
  case nap =>
    intro s n hn hawake hst hfloor hres hwork htarget hkept
    refine ⟨s.sliceDown n .nap, ?_, ?_, fun m hm => State.sliceDown_ne hm _ _⟩
    · change execSliceNapDwellExpiry n s = _
      simp [execSliceNapDwellExpiry, done, hn, hawake, hst, hfloor, hres, hwork, htarget, hkept]
    · simp
  case off =>
    intro s n hn hawake hst hfloor hkept hwaking hres hwork
    refine ⟨s.sliceDown n .off, ?_, ?_, fun m hm => State.sliceDown_ne hm _ _⟩
    · change execSliceOffDwellExpiry n s = _
      simp [execSliceOffDwellExpiry, done, hn, hawake, hst, hfloor, hkept, hwaking, hres, hwork]
    · simp
  case run =>
    intro s n hn hawake havail howner hst hwaking
    have hsettle : (s.setSlice n .run).powerSettle.pwr = (s.setSlice n .run).pwr :=
      foldl_keeps State.pwr _ (fun t i => by split <;> simp) _ _
    have hslice : ∀ m, (s.setSlice n .run).powerSettle.slice m = (s.setSlice n .run).slice m := fun m => by
      simp [State.slice, hsettle]
    refine ⟨(s.setSlice n .run).powerSettle, ?_, ?_, ?_, fun m hm => (hslice m).trans (State.setSlice_ne hm _ _)⟩
    · change execSliceWakeDone n s = _
      simp [execSliceWakeDone, done, hn, hawake, havail, hst, hwaking, Option.isSome_iff_ne_none.mpr howner]
    · simp [hslice]
    · simp [hslice]
  case lapse =>
    intro s n f hpre hwork hres hheld
    have hleave : s.leavePrewake n = (s.onSlice n fun x => { x with prewoken := none, prewakePid := none }).sliceDown n f := by
      have hkept : ∀ g : Slice → Slice, (s.onSlice n g).held n = false ∧ (s.onSlice n g).resident n = false ∧
          (s.onSlice n g).engineWork n = false := fun g => ⟨hheld, hres, hwork⟩
      simp [State.leavePrewake, hpre, hkept]
    refine ⟨(s.leavePrewake n).onPwr fun p => { p with prewakeCnt := satInc p.prewakeCnt }, ?_, ?_, ?_, ?_⟩
    · change execPrewakeLapse n s = _
      simp [execPrewakeLapse, done, hpre, hwork, hres, hheld]
    · exact (congrArg (fun t : State => (t.slice n).st) hleave).trans (by simp)
    · exact (congrArg (fun t : State => (t.slice n).prewoken) hleave).trans (by simp)
    · rw [hleave]
      exact (congrArg (fun p : Pwr => satInc p.prewakeCnt) (State.sliceDown_rest n f _) :)

end Sys2Proof.Machine
end

section
/-! PROOFS. Clocks, voltages and the power packets. -/

namespace Sys2Proof.Machine

open Sys2Proof

@[simp] theorem State.die_onDie (d : Nat) (f : Die → Die) (s : State) : (s.onDie d f).die d = f (s.die d) :=
  State.die_onDie_self d f s

@[simp] theorem State.emit_die (o : Output) (s : State) (d : Nat) : (s.emit o).die d = s.die d := rfl

/-- What waits for slices and clocks is answered; the power state stays. -/
@[simp] theorem State.powerSettle_pwr (s : State) : s.powerSettle.pwr = s.pwr :=
  foldl_keeps State.pwr _ (fun t i => by split <;> simp) _ _

@[simp] theorem State.powerSettle_die (s : State) (d : Nat) : s.powerSettle.die d = s.die d := by simp [State.die]
@[simp] theorem State.logOcc_die (o : Occ) (s : State) (d : Nat) : (s.logOcc o).die d = s.die d := by simp [State.die]
@[simp] theorem State.raise_die (k : Nat) (s : State) (d : Nat) : (s.raise k).die d = s.die d := by simp [State.die]
@[simp] theorem State.pmbSend_die (d : Nat) (c : PmbCmd) (s : State) (e : Nat) : (s.pmbSend d c).die e = s.die e := rfl
@[simp] theorem State.pmbAsk_die (d : Nat) (s : State) (e : Nat) : (s.pmbAsk d).die e = s.die e := by
  simp [State.die]

/-- The clock that R127 allows looks at the caps of the die alone. -/
theorem State.allowed_onDie {d : Nat} {f : Die → Die} {s : State} (hcap : (f (s.die d)).cap = (s.die d).cap)
    (hfault : (f (s.die d)).faultCap = (s.die d).faultCap) : (s.onDie d f).allowed d = s.allowed d := by
  have hmerged : (s.onDie d f).merged d = s.merged d := rfl
  have hlevel : (s.onDie d f).level d = s.level d := rfl
  have hdie : (s.onDie d f).pwr.die.look d {} = f (s.die d) := State.die_onDie_self d f s
  simp only [State.allowed, hmerged, State.capOf, hlevel, hdie, hcap, hfault]
  rfl

@[simp] theorem State.codeUnder_onDie (d : Nat) (f : Die → Die) (s : State) (e mv : Nat) :
    (s.onDie d f).codeUnder e mv = s.codeUnder e mv := rfl

theorem State.supported_onDie (d : Nat) (f : Die → Die) (s : State) :
    (s.onDie d f).supported d = s.codeUnder d (f (s.die d)).volt := by
  rw [← State.die_onDie d f s]
  rfl

theorem State.pmbOn_onDie {d : Nat} {f : Die → Die} {s : State} (h : (f (s.die d)).pmbCfg = (s.die d).pmbCfg) :
    (s.onDie d f).pmbOn d = s.pmbOn d := by
  have hon : ∀ t : State, t.pmbOn d = (t.die d).pmbCfg.getLsbD 31 := fun _ => rfl
  rw [hon, hon, State.die_onDie, h]

/-- A die that runs at the clock it is allowed asks for that clock's voltage (R108). -/
theorem State.retune_at {s : State} {d : Nat} (hon : (s.die d).pllOn = true) (hrelock : (s.die d).relocking = false)
    (hcode : s.allowed d = (s.die d).code) :
    s.retune d = (s.onDie d fun x => { x with change := none }).askVolt d (s.voltage d (s.die d).code) := by
  change (s.pwr.die.look d {}).pllOn = true at hon
  change (s.pwr.die.look d {}).relocking = false at hrelock
  change s.allowed d = (s.pwr.die.look d {}).code at hcode
  simp only [State.retune, hon, hrelock, hcode, Bool.not_true, Bool.false_eq_true, if_false, lt_irrefl, if_true]
  rfl

/-- A die that may run faster, with the voltage for it, relocks (R106). -/
theorem State.retune_up {s : State} {d : Nat} (hon : (s.die d).pllOn = true) (hrelock : (s.die d).relocking = false)
    (hcode : (s.die d).code < s.allowed d) (hvolt : s.allowed d ≤ s.supported d) :
    s.retune d = s.onDie d fun x => { x with change := some (s.allowed d), relocking := true } := by
  change (s.pwr.die.look d {}).pllOn = true at hon
  change (s.pwr.die.look d {}).relocking = false at hrelock
  change (s.pwr.die.look d {}).code < s.allowed d at hcode
  simp only [State.retune, hon, hrelock, Bool.not_true, Bool.false_eq_true, if_false, Nat.not_lt.mpr hcode.le, hcode.ne',
    hvolt, if_true]

/-- A voltage that is asked for is being set (R111). -/
theorem State.askVolt_die {s : State} {d : Nat} (hon : s.pmbOn d = true) (hok : (s.die d).pmbFault = false) (mv : Nat) :
    ((s.askVolt d mv).die d).target = mv ∧ ((s.askVolt d mv).die d).pmbBusy = true ∧
    ((s.askVolt d mv).die d).code = (s.die d).code ∧ ((s.askVolt d mv).die d).relocking = (s.die d).relocking ∧
    ((s.askVolt d mv).die d).change = (s.die d).change := by
  change (s.pwr.die.look d {}).pmbFault = false at hok
  simp only [State.askVolt, hon, hok, Bool.not_true, Bool.or_self, Bool.false_eq_true, if_false]
  split
  next h =>
    simp only [Bool.and_eq_true, beq_iff_eq] at h
    exact ⟨h.2, h.1, rfl, rfl, rfl⟩
  next => simp

/-- A change of clock or voltage keeps the caps of a die. -/
@[simp] theorem State.askVolt_caps (d mv : Nat) (s : State) : ((s.askVolt d mv).die d).cap = (s.die d).cap ∧
    ((s.askVolt d mv).die d).faultCap = (s.die d).faultCap ∧
    ((s.askVolt d mv).die d).pmbFault = (s.die d).pmbFault := by
  unfold State.askVolt
  dsimp only
  split_ifs <;> simp

@[simp] theorem State.retune_caps (d : Nat) (s : State) : ((s.retune d).die d).cap = (s.die d).cap ∧
    ((s.retune d).die d).faultCap = (s.die d).faultCap ∧
    ((s.retune d).die d).pmbFault = (s.die d).pmbFault := by
  unfold State.retune
  dsimp only
  split_ifs <;> simp

/-- The third failure of a transaction sets PMB_FAULT and caps the clock (R112). -/
theorem State.pmbGiveUp_die (d : Nat) (s : State) : ((s.pmbGiveUp d).die d).pmbFault = true ∧
    ((s.pmbGiveUp d).die d).faultCap =
      some (s.codeUnder d (if (s.die d).lastVout = 0 then 750 else (s.die d).lastVout)) := by
  simp only [State.pmbGiveUp, State.powerSettle_die, State.retune_caps]
  split <;> simp <;> rfl

/-- PMB_ALERT_N of a die holds it at level 4 (R112). -/
theorem State.level_of_pmbHold {s : State} {d : Nat} (h : s.tw.pmbHold.getLsbD d = true) : 4 ≤ s.level d := by
  simp only [State.level, h, Bool.or_true, if_true]
  exact le_max_right _ _

/-- Settles O12. -/
theorem clocksAndVoltages : Obligations.ClocksAndVoltages := by
  unfold Obligations.ClocksAndVoltages
  refine ⟨?relock, ?relockFail, ?pmbFail, ?vout, ?pmbFault, ?alert, ?high, ?between⟩
  case relock =>
    intro s d c hd hon hrelock hback hchange hallowed hsupported hless hpmb hfault
    have hdie : s.pwr.die.look d {} = s.die d := rfl
    have hmin : min c (min (s.allowed d) (s.supported d)) = c := by omega
    refine ⟨s.relocked d c, ?_, ?_⟩
    · change execPllRelockDone d true s = _
      simp only [execPllRelockDone, done, hdie, hd, hon, hrelock, hback, hchange, and_self, if_true, Option.getD_some,
        Bool.false_eq_true, if_false, hmin]
    · have hset : ((s.onDie d fun x => { x with
          code := c, change := none, relocking := false, back := false
          relockFails := if x.back then x.relockFails else 0 }).retune d) = _ :=
        State.retune_at (by simpa using hon) (by simp) (by rw [State.allowed_onDie rfl rfl]; simpa using hallowed.symm)
      obtain ⟨htarget, hbusy, hcode, hoff, hno⟩ := State.askVolt_die (d := d) (mv := s.voltage d c)
        (s := (s.onDie d fun x => { x with
          code := c, change := none, relocking := false, back := false
          relockFails := if x.back then x.relockFails else 0 }).onDie d fun x => { x with change := none })
        (by rwa [State.pmbOn_onDie rfl, State.pmbOn_onDie rfl]) (by simpa using hfault)
      simp only [State.relocked, hset, State.powerSettle_die, State.die_onDie]
      exact ⟨hcode.trans (by simp), hoff.trans (by simp), hno.trans (by simp), htarget, hbusy⟩
  case relockFail =>
    intro s d hd hon hrelock hfails
    have hdie : s.pwr.die.look d {} = s.die d := rfl
    refine ⟨s.relockFailed d, ?_, ?_⟩
    · change execPllRelockDone d false s = _
      simp only [execPllRelockDone, done, hdie, hd, hon, hrelock, and_self, if_true, Bool.false_eq_true, if_false]
    · rw [State.relockFailed, hdie, if_neg (by omega)]
      simp
  case pmbFail =>
    intro s d a hd hbusy htries
    have hdie : s.pwr.die.look d {} = s.die d := rfl
    refine ⟨s.pmbAgain d, ?_, ?_⟩
    · change execPmbusTransactionDone d false a s = _
      simp only [execPmbusTransactionDone, done, hdie, hd, hbusy, and_self, if_true, Bool.not_false]
    · rw [State.pmbAgain, hdie, if_pos (by omega)]
      simp [hbusy]
  case vout =>
    intro s d vout c hd hbusy hmode hlo hhi hon hrelock hc hless hunder
    have hdie : s.pwr.die.look d {} = s.die d := rfl
    have hset : (((s.onDie d fun x => { x with lastVout := vout }).onDie d fun x =>
        { x with pmbBusy := false, pmbTries := 0, volt := x.target }).retune d) = _ :=
      State.retune_up (by simpa using hon) (by simpa using hrelock) ?slower ?volts
    case slower =>
      rw [State.allowed_onDie rfl rfl, State.allowed_onDie rfl rfl]
      simpa [← hc] using hless
    case volts =>
      rw [State.allowed_onDie rfl rfl, State.allowed_onDie rfl rfl, State.supported_onDie, State.codeUnder_onDie]
      simpa [← hc] using hunder
    refine ⟨_, rfl, ?_⟩
    simp only [hdie, hd, hbusy, hmode, and_self, if_true, Bool.not_true, Bool.false_eq_true, if_false, hlo, hhi, hset]
    simp only [State.powerSettle_die, State.die_onDie, Option.some.injEq, true_and]
    rw [State.allowed_onDie rfl rfl, State.allowed_onDie rfl rfl, hc]
  case pmbFault =>
    intro s d a hd hbusy htries
    have hdie : s.pwr.die.look d {} = s.die d := rfl
    refine ⟨s.pmbGiveUp d, ?_, ?_⟩
    · change execPmbusTransactionDone d false a s = _
      simp only [execPmbusTransactionDone, done, hdie, hd, hbusy, and_self, if_true, Bool.not_false, State.pmbAgain, htries]
      rfl
    · exact State.pmbGiveUp_die d s
  case alert =>
    intro s m hstage hawake
    refine ⟨_, rfl, ?_⟩
    simp only [hstage, hawake, decide_true, Bool.not_false, Bool.and_self, if_true]
    refine and_iff_left_of_imp (fun hhold d hd => State.level_of_pmbHold (by rwa [hhold])) |>.mpr ?_
    rw [(State.retuneAll_frame _).2.2.2.2.1, foldl_keeps (fun t => t.tw.pmbHold) _ fun t d => by simp]
    rfl
  case high =>
    intro s power d hawake hpower hbest hon hcode
    refine ⟨((s.onPwr fun p => { p with power := BitVec.ofNat 32 power }).onDie d fun x =>
      { x with cap := some (max 16 (x.code - 1)) }).retune d, ?_,
      congrArg Pwr.power (State.retune_pwr d _).1, ?_⟩
    · change execBudgetStep power s = _
      simp only [execBudgetStep, done, hawake, Bool.not_true, Bool.false_eq_true, if_false, State.onPwr_pwr, hpower, if_true]
      split
      next e he =>
        obtain rfl : e = d := Option.some.inj (he.symm.trans hbest)
        exact congrArg (fun t => Host.Outcome.next (State.settle t)) (if_neg ((if_pos hon).trans_ne hcode))
      next he => exact nomatch he.symm.trans hbest
    · rw [(State.retune_caps d _).1, State.die_onDie]
      rfl
  case between =>
    intro s power hawake hhi hlo
    change execBudgetStep power s = _
    simp only [execBudgetStep, done, hawake, Bool.not_true, Bool.false_eq_true, if_false, State.onPwr_pwr, Nat.not_lt.mpr hhi,
      Nat.not_lt.mpr hlo]
    rfl

end Sys2Proof.Machine
end

section
/-! PROOFS. The power packets. -/

namespace Sys2Proof.Machine

open Sys2Proof

/-- A packet that an instruction picks by a field runs where the field agrees. -/
theorem State.dispatch_field {s : State} {q : QueueId} {op : Nat} {p : Packet} (h : s.Runs q op p) {a n v : Nat}
    (hsel : p.f a n = v) (f : Packet → State → State) :
    s.dispatch q op (fun p => p.f a n == v) f = f p (s.take q p) :=
  State.dispatch_run h (sel := fun p => p.f a n == v) (beq_iff_eq.mpr hsel) f

/-! ### What a packet's start leaves of the slices -/

/-- A table whose values all change by one function reads the changed value. -/
theorem Tab.look_map {α : Type} (f : α → α) (k : Nat) (d : α) (hd : f d = d) (t : Tab α) :
    Tab.look (t.map fun e => (e.1, f e.2)) k d = f (t.look k d) := by
  induction t with
  | nil => exact hd.symm
  | cons e t ih =>
    simp only [List.map_cons, Tab.look]
    split
    · rfl
    · exact ih

/-- The packet that leaves a queue changes no slice but for the mark of its own pre-wake (R125). -/
theorem State.take_slice (q : QueueId) (p : Packet) (s : State) (n : Nat) : (s.take q p).slice n =
    { s.slice n with prewakePid := if (s.slice n).prewakePid = some p.pid then none else (s.slice n).prewakePid } := by
  have hmap := Tab.look_map (fun x : Slice => { x with prewakePid := if x.prewakePid = some p.pid then none else x.prewakePid })
    n {} rfl s.pwr.slice
  unfold State.take
  dsimp only
  split <;> exact hmap

/-- The packet that leaves a queue changes no power state beyond the slices. -/
@[simp] theorem State.take_rest (q : QueueId) (p : Packet) (s : State) : (s.take q p).pwr.rest = s.pwr.rest := by
  unfold State.take
  dsimp only
  split <;> rfl

@[simp] theorem State.take_holds (q : QueueId) (p : Packet) (s : State) : (s.take q p).pwr.holds = s.pwr.holds :=
  (congrArg Pwr.holds (State.take_rest q p s) :)

@[simp] theorem State.take_sleepPending (q : QueueId) (p : Packet) (s : State) :
    (s.take q p).pwr.sleepPending = s.pwr.sleepPending :=
  (congrArg Pwr.sleepPending (State.take_rest q p s) :)

/-- The limit of a packet does not depend on its having left the queue. -/
@[simp] theorem State.take_timeoutOf (q : QueueId) (p r : Packet) (s : State) (us : Nat) :
    (s.take q p).timeoutOf r us = s.timeoutOf r us := by
  unfold State.take
  dsimp only
  split <;> rfl

@[simp] theorem State.take_nowNs (q : QueueId) (p : Packet) (s : State) : (s.take q p).nowNs = s.nowNs := by
  simp [State.nowNs]

/-- A withdrawn SLEEP order answers its packets; nothing else of the power state changes. -/
@[simp] theorem State.withdrawSleep_pwr (k : Nat) (s : State) :
    (s.withdrawSleep k).pwr = { s.pwr with sleepPending := [] } := by
  rw [State.withdrawSleep, State.onPwr_pwr, foldl_keeps State.pwr _ fun t pid => by simp]

@[simp] theorem State.retuneAll_slices (s : State) : s.retuneAll.pwr.slice = s.pwr.slice := by
  rw [State.retuneAll, foldl_keeps (fun t => t.pwr.slice) _ fun t d => (State.retune_pwr d t).2]

/-- One change of several slices changes each of them once. -/
theorem State.slice_foldl_onSlice (skip : Nat → Bool) (f : Slice → Slice) (n : Nat) (l : List Nat) (hl : l.Nodup) (s : State) :
    (l.foldl (fun t m => if skip m = true then t else t.onSlice m f) s).slice n =
      if n ∈ l ∧ skip n = false then f (s.slice n) else s.slice n := by
  induction l generalizing s with
  | nil => simp
  | cons m l ih =>
    obtain ⟨hm, hl⟩ := List.nodup_cons.mp hl
    rw [List.foldl_cons, ih hl]
    rcases eq_or_ne n m with rfl | hne
    · cases h : skip n <;> simp [hm]
    · cases h : skip m <;> simp [hne, State.slice_onSlice_ne _ _ _ _ hne]

theorem mem_ones {w n : Nat} (b : BitVec w) : n ∈ ones b ↔ b.getLsbD n = true := by
  simp only [ones, List.mem_filter, List.mem_range, and_iff_right_iff_imp]
  exact BitVec.lt_of_getLsbD

theorem ones_nodup {w : Nat} (b : BitVec w) : (ones b).Nodup := List.nodup_range.filter _

theorem State.take_tripped (q : QueueId) (p : Packet) (s : State) : (s.take q p).tw.tripped = s.tw.tripped := by simp

/-- The calls for slices keep everything of the power state but the slices. -/
@[simp] theorem State.wakeSlice_rest (n : Nat) (s : State) : (s.wakeSlice n).pwr.rest = s.pwr.rest := by
  unfold State.wakeSlice
  dsimp only
  split <;> rfl

/-- Settles O13: each packet acts on the state in which it has left its queue, by its fields. -/
theorem powerPackets : Obligations.PowerPackets := by
  unfold Obligations.PowerPackets
  refine ⟨?awake, ?sleep, ?deep, ?floors, ?hold, fun s pid => rfl⟩
  case awake =>
    intro s q p h hdev hto
    change execPowerSetDevice q s = _
    rw [execPowerSetDevice, State.dispatch_field h hdev]
    simp only [done, hto, State.take_tripped]
  case sleep =>
    intro s q p h hdev hto
    refine ⟨_, rfl, ?_⟩
    rw [State.dispatch_field h hdev]
    simp [hto]
  case deep =>
    intro s q p h hdev hto hctx hupd hholds
    have hfree : s.pwr.holds.find? (fun h => h.slices.isNone) = none :=
      List.find?_eq_none.mpr fun h hh => by simpa using hholds h hh
    have hctx' : (s.take q p).anyContext = false := by simpa [State.anyContext] using hctx
    refine ⟨_, rfl, ?_⟩
    rw [State.dispatch_field h hdev]
    simp [hto, hctx', hupd, hfree]
  case floors =>
    intro s q p h hslice hnap
    refine ⟨_, rfl, fun n hn => ?_⟩
    rw [State.dispatch_field h hslice]
    dsimp only
    have hread : ∀ t : State, t.retuneAll.powerSettle.slice n = t.slice n := fun t => by simp [State.slice]
    rw [hread, State.slice_foldl_onSlice _ _ _ _ (ones_nodup _)]
    simp only [mem_ones, State.take_slice, hnap]
    cases p.slices.getLsbD n <;> cases (s.slice n).unavail <;> simp
  case hold =>
    intro s q p h
    refine ⟨_, rfl, ?_⟩
    rw [State.dispatch_run h rfl]
    have hwakes (l : List Nat) (t : State) : (l.foldl (fun t n => t.wakeSlice n) t).pwr.holds = t.pwr.holds :=
      (congrArg Pwr.holds (foldl_keeps (fun t => t.pwr.rest) _ (fun t n => State.wakeSlice_rest n t) l t) :)
    dsimp only
    split
    next hdev => simp [of_decide_eq_true hdev]
    next hdev => simp [hwakes, of_decide_eq_false (Bool.of_not_eq_true hdev)]

end Sys2Proof.Machine
end

section
/-! PROOFS. Queues: fetching, arbitration, STRICT slots. -/

namespace Sys2Proof.Machine

open Sys2Proof

/-! ### What the queue block keeps -/

@[simp] theorem State.logOcc_queue (o : Occ) (s : State) (q : QueueId) : (s.logOcc o).queue q = s.queue q :=
  State.queue_congr (by simp) q

@[simp] theorem State.raiseVf_queue (n b : Nat) (s : State) (q : QueueId) : (s.raiseVf n b).queue q = s.queue q :=
  State.queue_congr (by simp) q

/-- A queue whose ring access failed has stopped (R134). -/
theorem State.fetchStop_fetchErr (q : QueueId) (s : State) : ((s.fetchStop q).queue q).fetchErr = true := by
  unfold State.fetchStop
  dsimp only
  split <;> simp

/-- The replies that a partition's slot releases concern no slot. -/
@[simp] theorem State.flushHeld_part (q : QueueId) (s : State) : (s.flushHeld q).part = s.part :=
  foldl_keeps State.part _ (fun t h => by simp) _ _

/-! ### Arbitration -/

/-- A window that is over and fetched, in a device with no decision of its own, is resolved (R152). -/
theorem State.windowEnd_run {s : State} {a w : Nat} {r : List Nat} (horders : s.orders.map (fun o => o.2.arrival / 1000) = a :: r)
    (hw : r.foldl min a = w) (hpast : w < s.nowNs / 1000) (hall : s.unfetched w = false) (hown : s.q.own = []) :
    execArbitrationWindowEnd s = .next (State.resolve [] s.orders.length
      (s.orders.filter fun o => o.2.arrival / 1000 == w) s).settle := by
  have hsame : (s.onQ fun x => { x with own := x.own.filter fun o => decide (w < o.time / 1000) }) = s := by
    rw [State.onQ, hown, List.filter_nil, ← hown]
  simp only [execArbitrationWindowEnd, done, horders, hw, hall, Bool.or_false, decide_eq_true_eq, Nat.not_le.mpr hpast, if_false,
    hsame]
  rw [hown]
  rfl

/-- An order that goes before all others of its window, and against none of the device's own, is granted (R152). -/
theorem State.resolve_first {k : Nat} {l : List Order} {w : Order} (hbest : bestOrder l = some w) (s : State) :
    s.resolve [] (k + 1) l = State.resolve [] k ((l.filter fun o => o.2.pid != w.2.pid).filter fun o => !conflicts w.2 o.2)
      (((l.filter fun o => o.2.pid != w.2.pid).filter fun o => conflicts w.2 o.2).foldl
        (fun t o => t.loseOrder w.1.source o)
        (s.onQueue w.1 fun x =>
          { x with buffer := x.buffer.map fun p => if p.pid = w.2.pid then { p with granted := true } else p })) := by
  simp only [State.resolve, hbest, List.find?_nil]

@[simp] theorem State.resolve_nil (own : List OwnOrder) (k : Nat) (s : State) : State.resolve own k [] s = s := by
  cases k <;> rfl

/-- Settles O15: the fetch and the checks by the lemmas on GET and the buffer, a window by its first order. -/
theorem queueFetching : Obligations.QueueFetching := by
  unfold Obligations.QueueFetching
  refine ⟨?fetch, ?intake, ?error, ?grant, ?conflict, ?slot⟩
  case fetch =>
    intro s a n slots hawake hmay hpos hmax havail hslots hclean
    have hcount : slotCount n = n := if_pos ⟨hpos, hmax⟩
    have hserve : s.servesRing (.admin a) := ⟨fun k => nofun, fun p k => nofun⟩
    obtain ⟨hget, -, -⟩ := Queue.submission_eq_iff.mp (State.advanceGet_submission (.admin a) n s)
    refine ⟨_, _, exec_packetFetch_of_ready hserve (State.awake_of (.inr hawake)) hmay (by rw [hslots, hcount]) havail hclean,
      hget, rfl, ?_, rfl⟩
    rw [State.wakeByFetch_q]
    rfl
  case intake =>
    intro s q p hcheck hdeep
    obtain ⟨-, hseq, hbuf⟩ := Queue.submission_eq_iff.mp (State.intake_submission_of_passed hcheck)
    exact ⟨by simpa [hdeep] using hbuf, hseq⟩
  case error =>
    intro s q hthere herr hawake
    refine ⟨s.fetchStop q, ?_, State.fetchStop_fetchErr q s⟩
    change execFetchError q s = _
    simp [execFetchError, hthere, herr, hawake]
  case grant =>
    intro s q p horders hpast hown hall
    change execArbitrationWindowEnd s = _
    rw [State.windowEnd_run (w := p.arrival / 1000) (by rw [horders]; rfl) rfl hpast hall hown, horders,
      List.filter_cons_of_pos (by exact beq_self_eq_true _), List.filter_nil, List.length_singleton, State.resolve_first rfl]
    simp
  case conflict =>
    intro s a b horders hwindow hpast hown hall hfirst hpid hconf
    have hbest : bestOrder [a, b] = some a := by simp [bestOrder, hfirst]
    change execArbitrationWindowEnd s = _
    rw [State.windowEnd_run (by rw [horders]; rfl) (by simp [hwindow]) hpast hall hown, horders,
      List.filter_cons_of_pos (by exact beq_self_eq_true _), List.filter_cons_of_pos (by simp [hwindow]), List.filter_nil,
      List.length_cons, State.resolve_first hbest]
    simp [hpid.symm, hconf, State.loseOrder]
  case slot =>
    intro s p hp hexists hstrict hus hawake hslot
    refine ⟨_, rfl, ?_⟩
    simp only [hslot, hp, hexists, hstrict, hus, hawake, decide_true, beq_self_eq_true, Bool.not_false, Bool.and_true, if_true]
    rw [foldl_keeps State.part _ fun t q => by simp]
    rfl

end Sys2Proof.Machine
end

section
/-! PROOFS. The queue packets. -/

namespace Sys2Proof.Machine

open Sys2Proof

/-- A queue that is disabled is so for whoever leaves it. -/
@[simp] theorem State.leaveQueue_queue (q r : QueueId) (s : State) : (s.leaveQueue q).queue r = s.queue r := rfl

@[simp] theorem State.onInflight_queue (pid : Nat) (f : Inflight → Inflight) (s : State) (q : QueueId) :
    (s.onInflight pid f).queue q = s.queue q := rfl

/-- A packet whose deadline has passed, and that no answer waits for, times out (R160). -/
theorem Inflight.isDue {s : State} {d : Nat} {i : Inflight} (hdue : d ≤ s.nowNs) (hans : i.answer = none) :
    ¬ (s.nowNs < d ∨ i.answer.isSome = true) := by simp [hans, hdue]

/-- Settles O16: each register write and packet by its one branch. -/
theorem queuePackets : Obligations.QueuePackets := by
  unfold Obligations.QueuePackets
  refine ⟨?enable, ?disable, ?nop, ?fence, ?create, ?destroy, ?semTimeout, ?powerTimeout⟩
  case enable =>
    intro s a cfg hready ha hoff hsq hcq
    have hoff' : (s.hostWake.queue (.admin a)).enabled = false := by rw [State.hostWake_queue, hoff]
    refine ⟨_, rfl, ?_⟩
    simp only [hready, ha, decide_true, Bool.not_true, Bool.or_self, Bool.false_eq_true, if_false, State.admqEnable, hsq, hcq,
      Bool.and_self, hoff', State.queue_onQueue_self, true_and]
    intro q hq
    rw [State.queue_onQueue_ne _ _ _ _ hq, State.hostWake_queue]
  case disable =>
    intro s a cfg hready ha hon hsq hcq
    have hon' : (s.hostWake.queue (.admin a)).enabled = true := by rw [State.hostWake_queue, hon]
    refine ⟨_, rfl, ?_⟩
    simp only [hready, ha, decide_true, Bool.not_true, Bool.or_self, Bool.false_eq_true, if_false, State.admqDisable, hsq, hcq,
      Bool.and_self, hon', if_true, State.leaveQueue_queue, State.queue_onQueue_self]
  case nop =>
    intro s q p h
    change execNop q s = _
    rw [execNop, State.dispatch_run h rfl]
    rfl
  case fence =>
    intro s q p h hscope
    change execFence q s = _
    rw [execFence, State.dispatch_run h rfl]
    simp only [hscope, if_true]
    rfl
  case create =>
    intro s q p k h hwant hk hfree hroom
    have hne : ¬ k = 0xFFFF := by omega
    have hok : ¬ ((s.take q p).queueLimit p.part ≤ (s.take q p).queueCount p.part ∨ 4080 ≤ k) := by omega
    refine ⟨?t, ?h, ?run, ?fields⟩
    case run =>
      change execQueueCreate q s = _
      rw [execQueueCreate, State.dispatch_run h rfl]
      simp only [hwant, if_neg hne, if_pos hfree, if_neg hok]
      rfl
    case fields => simp [State.queue]
  case destroy =>
    intro s q p h hended hcounts
    change execQueueDestroy q s = _
    rw [execQueueDestroy, State.dispatch_run h rfl]
    simp only [hended, Bool.false_eq_true, if_false, hcounts, ne_eq, not_true_eq_false]
    rfl
  case semTimeout =>
    intro s pid d i hin hd hdue hans hop
    change execPacketTimeout pid s = _
    simp only [execPacketTimeout, done, hin, hd, if_neg (Inflight.isDue hdue hans), hop]
  case powerTimeout =>
    intro s pid d i hin hd hdue hans hop
    change execPacketTimeout pid s = _
    simp only [execPacketTimeout, done, hin, hd, if_neg (Inflight.isDue hdue hans), hop]

end Sys2Proof.Machine
end

section
/-! PROOFS. Replies. -/

namespace Sys2Proof.Machine

open Sys2Proof

/-- The list of dispatched packets is no part of a queue. -/
@[simp] theorem State.remove_queue (pid : Nat) (s : State) (q : QueueId) :
    (s.onQ (Queues.remove pid)).queue q = s.queue q := rfl

/-- A packet removed is dispatched no more. -/
theorem Queues.remove_inflight_ne {pid : Nat} {x : Queues} {i : Inflight} (hi : i ∈ (x.remove pid).inflight) :
    i.pkt.pid ≠ pid ∧ pid ∉ i.waitFor := by
  simp only [Queues.remove, List.mem_map, List.mem_filter, bne_iff_ne] at hi
  obtain ⟨j, ⟨-, hj⟩, rfl⟩ := hi
  exact ⟨hj, by simp⟩

/-- The bytes of a reply as they are written: the last one is the PHASE of the position (R137). -/
def Queue.withPhase (x : Queue) (r : List Byte) : List Byte := r.take 31 ++ toLe 1 (phaseOf x.cqPut.toNat (2 ^ x.cqLog))

theorem replyBytes_length (seq : Word) (st time res det qnum src ph : Nat) :
    (replyBytes seq st time res det qnum src ph).length = 32 := by simp [replyBytes]

theorem Queue.withPhase_length {r : List Byte} (h : r.length = 32) (x : Queue) : (x.withPhase r).length = 32 := by
  simp [Queue.withPhase, h]

theorem Queue.withPhase_phase {r : List Byte} (h : r.length = 32) (x : Queue) :
    (x.withPhase r).getD 31 0 = BitVec.ofNat 8 ((x.cqPut.toNat / 2 ^ x.cqLog + 1) % 2) := by
  have hlen : (r.take 31).length = 31 := by simp [h]
  rw [Queue.withPhase, List.getD_append_right _ _ _ _ hlen.le, hlen]
  rfl

theorem Queue.withPhase_rest {r : List Byte} (h : r.length = 32) (x : Queue) : (x.withPhase r).take 31 = r.take 31 :=
  List.take_left' (by simp [h])

/-- The reply to a packet of an admin queue whose ring lies in host memory: one aligned write, after which PUT moves on
(R136, R137). -/
def State.adminReply (k : Nat) (r : List Byte) (s : State) : State :=
  let x := s.queue (.admin k)
  (s.emit (.hostWrite 0 (x.cqBase.toNat + x.cqPut.toNat % 2 ^ x.cqLog * 32)
    (x.withPhase r) false)).onQueue (.admin k) fun x => { x with cqPut := x.cqPut + 1 }

/-- A packet of an admin queue that is enabled and has not failed completes by its reply (R136). -/
theorem State.finish_admin {s : State} {i : Inflight} {pid k : Nat} (hin : s.inflight pid = some i) (hq : i.q = .admin k)
    (hon : (s.queue (.admin k)).enabled = true) (herr : (s.queue (.admin k)).fetchErr = false)
    (hdev : (s.queue (.admin k)).cqDev = false) (hquiet : i.pkt.notify = false) (status result detail : Nat) :
    let r := replyBytes i.pkt.seq status s.nowNs result detail k i.q.source 0
    s.finish pid status result detail =
      ((s.onQ (Queues.remove pid)).history i.pkt.part i.pkt.tag status r).adminReply k r := by
  have hstrict : ∀ t : State, t.strictQueue (.admin k) = false := fun _ => rfl
  simp only [State.finish, hin, hq, State.reply, State.remove_queue, hon, if_true, State.giveReply, State.history_queue, herr,
    hstrict, Bool.or_self, Bool.false_eq_true, if_false, State.putReply, hquiet, State.ringReply, hdev]
  rfl

/-- Settles O56: the reply of an admin queue as one write, and the free entry that a dispatch needs. -/
theorem replies : Obligations.Replies := by
  unfold Obligations.Replies
  refine ⟨?reply, fun s q r => rfl, ?room⟩
  case reply =>
    intro s i pid status result detail k hin hq hon herr hdev hquiet
    rw [hq] at hon herr hdev
    have hfin := State.finish_admin hin hq hon herr hdev hquiet status result detail
    have hgone : ∀ t : State, t.q.inflight = (s.q.remove pid).inflight →
        t.inflight pid = none ∧ ∀ j ∈ t.q.inflight, pid ∉ j.waitFor := fun t ht => by
      refine ⟨List.find?_eq_none.mpr fun j hj => ?_, fun j hj => (Queues.remove_inflight_ne (ht ▸ hj)).2⟩
      simpa using (Queues.remove_inflight_ne (ht ▸ hj)).1
    have hlen := replyBytes_length i.pkt.seq status s.nowNs result detail k i.q.source 0
    refine ⟨_, (s.queue (.admin k)).withPhase (replyBytes i.pkt.seq status s.nowNs result detail k i.q.source 0), hfin,
      (hgone _ rfl).1, (hgone _ rfl).2, Queue.withPhase_length hlen _, ?out, ?phase, Queue.withPhase_rest hlen _, ?put, ?get, rfl⟩
    case out =>
      rw [hq]
      rfl
    case phase =>
      rw [hq]
      exact Queue.withPhase_phase hlen _
    case put =>
      rw [hq, State.adminReply, State.queue_onQueue_self]
      rfl
    case get =>
      rw [hq, State.adminReply, State.queue_onQueue_self]
      rfl
  case room =>
    intro s q op hring hfull
    have hstop : ∀ p, s.mayStart q p = false := fun p => by
      cases q with
      | fwd n => exact absurd rfl (hring n)
      | admin a => simp [State.mayStart, hfull]
      | part p n => simp [State.mayStart, hfull]
    simp only [State.head, hstop]
    split <;> simp

end Sys2Proof.Machine
end

section
/-! PROOFS. Launches. -/

namespace Sys2Proof.Machine

open Sys2Proof

/-- What a launch is apart from its ledger. -/
def Launch.order (l : Launch) : Launch := { l with waitLedger := false, ledgerBytes := 0, ledger := [] }

theorem State.takeLedger_order (n : Nat) (s : State) : ((s.takeLedger n).launch n).order = (s.launch n).order := by
  rw [State.takeLedger, State.launch_onLaunch_self]
  rfl

theorem State.takeLedger_next (n : Nat) (s : State) : (s.takeLedger n).work.nextLaunch = s.work.nextLaunch := rfl

/-- The AMAX streams that a launch opens are no part of the launches (R254). -/
@[simp] theorem State.openLaunch_work (l : Launch) (s : State) : (s.openLaunch l).work = s.work :=
  foldl_keeps State.work (fun t a => t.openStream l.ctx a) (fun _ _ => rfl) _ _

/-- Settles O17: each instruction by the one branch that its conditions leave. -/
theorem launches : Obligations.Launches := by
  unfold Obligations.Launches
  refine ⟨?packet, ?start, ?bad, ?ledger, ?place, ?complete⟩
  case packet =>
    intro s x q p host c e h hc he hlow hfault hx hclean
    change execLaunch q host s = _
    rw [execLaunch, State.dispatch_run h rfl]
    simp only [hc, he, if_neg (Nat.not_lt.mpr hlow), hfault, hx, hclean, Bool.false_eq_true, if_false]
    rfl
  case start =>
    intro s p d hok hneed huse
    have hnew : (s.startLaunch p d).work.nextLaunch = s.work.nextLaunch + 1 ∧
        ((s.startLaunch p d).launch (s.work.nextLaunch + 1)).order = (mkLaunch p d (s.work.nextLaunch + 1)).order := by
      simp only [State.startLaunch, hok, if_neg (Nat.not_lt.mpr hneed), if_neg huse]
      split
      · refine ⟨by rw [State.takeLedger_next, State.openLaunch_work]; rfl, ?_⟩
        rw [State.takeLedger_order, State.launch, State.openLaunch_work, State.onWork_work, Tab.look_ins_self]
        rfl
      · refine ⟨by rw [State.openLaunch_work]; rfl, ?_⟩
        rw [State.launch, State.openLaunch_work, State.onWork_work, Tab.look_ins_self]
        rfl
    obtain ⟨hnext, horder⟩ := hnew
    exact ⟨hnext, congrArg Launch.live horder, congrArg Launch.pid horder, congrArg Launch.grid horder⟩
  case bad =>
    intro s p d off hbad
    simp only [State.startLaunch, hbad]
  case ledger =>
    intro s n hlive hwait hfirst hfits hawake
    have hall : s.work.launch.all (fun e =>
        !(e.2.part == (s.launch n).part && e.2.waitLedger && decide (e.1 < n))) = true :=
      List.all_eq_true.mpr fun e he => by
        have := hfirst e he
        simp only [Bool.not_eq_true', Bool.and_eq_false_iff, beq_eq_false_iff_ne, decide_eq_false_iff_not]
        by_contra hno
        simp only [not_or, ne_eq, not_not, Bool.not_eq_false] at hno
        exact absurd (this hno.1.1 hno.1.2) (by omega)
    change execLedgerAllocate n s = _
    simp only [execLedgerAllocate, done, hlive, hwait, hall, hfits, hawake, Bool.and_self, if_true]
  case place =>
    intro s n sl cs hlive hwait hawake htrip hctx hfrozen hrerun hreplace hmore hchoose
    change execClusterPlace n s = _
    simp only [execClusterPlace, done, hlive, hwait, hawake, htrip, hctx, hfrozen, Bool.not_false, Bool.and_self,
      beq_self_eq_true, if_true, State.placeNext, hrerun, hreplace, if_pos hmore, hchoose]
  case complete =>
    intro s n hawake hover hlive
    change execLaunchComplete n s = _
    simp only [execLaunchComplete, done, hawake, hover, hlive, Bool.and_self, beq_self_eq_true, if_true]

end Sys2Proof.Machine
end

section
/-! PROOFS. The packets on counters, semaphores and events. -/

namespace Sys2Proof.Machine

open Sys2Proof

/-- What an add or post of an own object does, by its owner and its device (R160, R412). -/
theorem State.addPacket_local {s : State} {p : Packet} (hlocal : s.isLocal (p.f 20 1) = true) (kind : SyncKind) (n : Nat) :
    s.addPacket p kind n = if s.owns p.part (objSlice (p.f 16 4 % 2 ^ 18)) = true then s.submit (p.syncOp kind n none)
      else s.finish p.pid stDenied 0 (reason 0x0A 16) := if_pos hlocal

theorem State.addPacket_unreachable {s : State} {p : Packet} {st : Nat} (hfar : s.isLocal (p.f 20 1) = false)
    (hgone : s.unreachable (p.f 20 1) = some st) (kind : SyncKind) (n : Nat) :
    s.addPacket p kind n = s.finish p.pid st 0 0 := by
  simp only [State.addPacket, hfar, Bool.false_eq_true, if_false, hgone]

/-- Settles O19: each packet acts on the state in which it has left its queue, by the test that its conditions decide. -/
theorem syncAndEventPackets : Obligations.SyncAndEventPackets := by
  unfold Obligations.SyncAndEventPackets
  refine ⟨?add, ?denied, ?tallyWait, ?post, ?gone, ?semWait, ?token, ?foreign, ?genuine, ?once, ?word, ?bind, ?unbind, ?mirror,
    ?bound⟩
  case add =>
    intro s q p h hlocal howns
    change execTallyAdd q s = _
    rw [execTallyAdd, State.dispatch_run h rfl, State.addPacket_local hlocal, if_pos howns]
    rfl
  case denied =>
    intro s q p h hlocal howns
    change execTallyAdd q s = _
    rw [execTallyAdd, State.dispatch_run h rfl]
    rw [State.addPacket_local hlocal, if_neg (ne_true_of_eq_false howns)]
    rfl
  case tallyWait =>
    intro s q p h
    change execTallyWait q s = _
    rw [execTallyWait, State.dispatch_run h rfl]
    rfl
  case post =>
    intro s q p h hlocal howns
    change execSemPost q s = _
    rw [execSemPost, State.dispatch_run h rfl, State.addPacket_local hlocal, if_pos howns]
    rfl
  case gone =>
    intro s q p st h hfar hgone
    change execSemPost q s = _
    rw [execSemPost, State.dispatch_run h rfl]
    rw [State.addPacket_unreachable hfar hgone]
    rfl
  case semWait =>
    intro s q p h
    change execSemWait q s = _
    rw [execSemWait, State.dispatch_run h rfl]
    rfl
  case token =>
    intro s q p h hknown
    change execEventExport q s = _
    rw [execEventExport, State.dispatch_run h rfl]
    simp only [hknown, Bool.not_true, Bool.false_eq_true, false_and, if_false, if_true]
    rfl
  case foreign =>
    intro s q p h hfleet
    change execEventImport q s = _
    rw [execEventImport, State.dispatch_run h rfl]
    simp only [if_pos hfleet]
    rfl
  case genuine =>
    intro s q p v h hfleet hdev hgenuine
    change execEventImport q s = _
    rw [execEventImport, State.dispatch_run h rfl]
    simp only [hfleet, hdev, ne_eq, not_true_eq_false, if_false, if_true, hgenuine]
    rfl
  case once =>
    intro s q p h hmode
    change execSignalHostOnce q s = _
    rw [execSignalHostOnce, State.dispatch_field h hmode]
    rfl
  case word =>
    intro s part fn word v
    exact ⟨rfl, rfl, rfl, rfl⟩
  case bind =>
    intro s q p h hmode hnone
    have hmine : (s.take q p).obj.bindings.filter (fun b => b.part == p.part) = [] :=
      List.filter_eq_nil_iff.mpr fun b hb => by simpa using hnone b hb
    refine ⟨{ part := p.part, event := p.event.2.2, word := p.f 32 8, fn := q.fn
              last := (s.take q p).eventValue p.event.1 p.event.2.1 }, ?_, rfl, rfl, rfl, rfl, rfl⟩
    change execSignalHostBind q s = _
    rw [execSignalHostBind, State.dispatch_field h hmode]
    simp only [hmine, List.filter_nil, List.any_nil, Bool.false_eq_true, if_false, List.length_nil]
    rfl
  case unbind =>
    intro s q p b h hmode hbindings hpart hevent hword
    change execSignalHostUnbind q s = _
    rw [execSignalHostUnbind, State.dispatch_field h hmode]
    generalize s.take q p = u at hbindings
    simp [hbindings, hpart, hevent, hword, State.onObj, done]
  case mirror =>
    intro s i v hawake himp hdev hval hrise
    change ∃ t m, execMirrorUpdateSend s = _ ∧ _
    simp only [execMirrorUpdateSend, hawake, himp, List.foldl_cons, List.foldl_nil, hval, if_neg (Nat.not_le.mpr hrise),
      if_neg hdev]
    refine ⟨_, _, rfl, ?_, rfl, rfl, rfl, rfl⟩
    change (s.obj.importers.map fun x => if x = i then { x with last := v } else x) = _
    rw [himp, List.map_singleton, if_pos rfl]
  case bound =>
    intro s b v hawake hbind hval hrise
    change execSignalWordUpdate [] s = _
    have hval' : (s.onObj fun o => { o with lastWords := [] }).eventValue (objKey b.part (b.event / 2 ^ 17))
        (b.event % 2 ^ 17) = v := hval
    simp only [execSignalWordUpdate, hawake, Bool.not_true, Bool.false_eq_true, if_false, List.contains_nil,
      List.filter_false, List.foldl_nil, hbind, List.foldl_cons, hval', if_neg (Nat.not_le.mpr hrise)]
    simp [State.onObj, hbind]

end Sys2Proof.Machine
end

section
/-! PROOFS. The memory and object packets. -/

namespace Sys2Proof.Machine

open Sys2Proof

/-- A new object has the count it is made with, as its creation reference (R187). -/
theorem State.newObj_objAt (k : Nat) (kind : ObjKind) (body : ObjBody) (n : Word) (s : State) :
    (s.newObj k kind body n).objAt k = ({ s.objAt k with
      kind := kind, live := true, ended := false, creation := true, retains := 0, body := body } : Obj).setCount n := by
  rw [State.newObj, State.objAt_onObjAt_self]

@[simp] theorem State.onMem_objAt (f : Mem → Mem) (s : State) (k : Nat) : (s.onMem f).objAt k = s.objAt k := rfl

/-- Settles O20: each packet by the one test that its conditions decide. -/
theorem memoryAndObjectPackets : Obligations.MemoryAndObjectPackets := by
  unfold Obligations.MemoryAndObjectPackets
  refine ⟨?alloc, ?noPlace, ?free, ?freed, ?retain, ?frozen, ?release, ?noRelease, ?poolBig, ?pool, ?poolUsed⟩
  case alloc =>
    intro s q p sl d i h hplace hindex
    refine ⟨?t, ?run, ?fields⟩
    case run =>
      change execMemAlloc q s = _
      rw [execMemAlloc, State.dispatch_run h rfl]
      simp only [hplace, hindex]
      rfl
    case fields =>
      rw [State.onMem_objAt, State.newObj_objAt]
      exact ⟨by simp [State.newObj], rfl, rfl, rfl⟩
  case noPlace =>
    intro s q p h hplace
    change execMemAlloc q s = _
    rw [execMemAlloc, State.dispatch_run h rfl]
    simp only [hplace]
    rfl
  case free =>
    intro s q p a b c d e h hbody hheld
    have howned : ((s.take q p).objAt (handleKey (p.f 16 8))).chandler = false := by rw [Obj.chandler, hbody]
    change execMemFree q s = _
    rw [execMemFree, State.dispatch_run h rfl]
    simp only [hheld, howned, Bool.not_true, Bool.or_self, Bool.false_eq_true, if_false]
    rfl
  case freed =>
    intro s q p h hgiven
    change execMemFree q s = _
    rw [execMemFree, State.dispatch_run h rfl]
    simp only [hgiven, Bool.not_false, Bool.true_or, if_true]
    rfl
  case retain =>
    intro s q p h hended hkilled hpair hzero hfull
    refine ⟨?kept, ?keep, ?count⟩
    case keep =>
      change execObjRetain q s = _
      rw [execObjRetain, State.dispatch_run h rfl]
      simp only [hpair, hended, hkilled, Bool.not_true, Bool.or_self, Bool.false_eq_true, if_false, if_neg hzero, if_neg hfull]
      rfl
    case count =>
      rw [State.objAt_onObjAt_self]
      exact ⟨rfl, rfl⟩
  case frozen =>
    intro s q p h hpair
    change execObjRetain q s = _
    rw [execObjRetain, State.dispatch_run h rfl]
    simp only [hpair, Bool.not_false, if_true]
    rfl
  case release =>
    intro s q p h hkilled hheld
    have hgo : (((s.take q p).objAt (handleKey (p.f 16 8))).pairOk &&
        !((s.take q p).objAt (handleKey (p.f 16 8))).releasable) = false := by
      simpa using hheld
    change execObjRelease q s = _
    rw [execObjRelease, State.dispatch_run h rfl]
    simp only [hkilled, hgo, Bool.false_eq_true, if_false]
    rfl
  case noRelease =>
    intro s q p h hkilled hpair hnone
    change execObjRelease q s = _
    rw [execObjRelease, State.dispatch_run h rfl]
    simp only [hkilled, hpair, hnone, Bool.false_eq_true, if_false, Bool.not_false, Bool.and_self, if_true]
    rfl
  case poolBig =>
    intro s q p h hbig
    change execPoolSet q s = _
    rw [execPoolSet, State.dispatch_run h rfl]
    simp only [if_pos hbig]
    rfl
  case pool =>
    intro s q p h hfits hclear hobjs
    have hclash : ((s.take q p).claimed p.part (p.f 16 1) 0).any (fun u =>
        overlap (hbmBase (p.f 16 1) + p.f 24 8) (p.f 32 8) u.1 u.2) = false :=
      List.any_eq_false.mpr fun u hu => by simp [hclear u hu]
    change execPoolSet q s = _
    rw [execPoolSet, State.dispatch_run h rfl]
    simp only [if_neg (Nat.not_lt.mpr hfits), hclash, Bool.false_eq_true, if_false, hobjs, List.filter_nil, List.isEmpty_nil,
      Bool.not_true]
    rfl
  case poolUsed =>
    intro s q p u h hfits hu hover
    have hclash : ((s.take q p).claimed p.part (p.f 16 1) 0).any (fun u =>
        overlap (hbmBase (p.f 16 1) + p.f 24 8) (p.f 32 8) u.1 u.2) = true := List.any_eq_true.mpr ⟨u, hu, hover⟩
    change execPoolSet q s = _
    rw [execPoolSet, State.dispatch_run h rfl]
    simp only [if_neg (Nat.not_lt.mpr hfits), hclash, if_true]
    rfl

end Sys2Proof.Machine
end

section
/-! PROOFS. Queries, the event log and the masks. -/

namespace Sys2Proof.Machine

open Sys2Proof

/-- An interrupt message changes pending bits of an MSI-X table and no mask or cause (R475). -/
@[simp] theorem State.msixSend_ints (fn v : Nat) (s : State) : (s.msixSend fn v).host.intMask = s.host.intMask ∧
    (s.msixSend fn v).host.intCause = s.host.intCause := by
  unfold State.msixSend
  dsimp only
  split_ifs <;> exact ⟨rfl, rfl⟩

theorem State.msixSend_vfMask (fn v : Nat) (s : State) (n : Nat) :
    ((s.msixSend fn v).host.vfs.look n {}).mask = (s.host.vfs.look n {}).mask := by
  unfold State.msixSend
  dsimp only
  split_ifs
  · rfl
  · rfl
  · rfl
  · rcases eq_or_ne n (fn - 1) with rfl | hne
    · simp only [State.onHost_host, Tab.look_put_self]
    · simp only [State.onHost_host, Tab.look_put_ne _ _ _ _ _ _ hne]

/-- What a query reads of the cores does not depend on the packet's having left its queue. -/
theorem State.take_coreOn (q : QueueId) (p : Packet) (s : State) (c : Nat) : (s.take q p).coreOn c = s.coreOn c := by
  simp [State.coreOn]

theorem State.take_coresOn (q : QueueId) (p : Packet) (s : State) : (s.take q p).coresOn = s.coresOn :=
  congrArg (fun on => ((List.range 768).filter on).length) (funext (State.take_coreOn q p s))

theorem State.take_coreMask (q : QueueId) (p : Packet) (s : State) (n : Nat) : (s.take q p).coreMask n = s.coreMask n := by
  simp only [State.coreMask, State.take_coreOn]

/-- A query answers one value. -/
theorem State.query_run {s : State} {q : QueueId} {p : Packet} (h : s.Runs q 0x70 p) {item : Nat} (hitem : p.f 16 1 = item)
    (f : State → Packet → Nat) : s.query q item f = (s.take q p).finish p.pid stOk (f (s.take q p) p) 0 :=
  State.dispatch_field h hitem _

/-- Settles O22: the items of QUERY by one lemma, the log packets and the masks by their branches. -/
theorem queriesAndLog : Obligations.QueriesAndLog := by
  unfold Obligations.QueriesAndLog
  refine ⟨?query, ?read, ?readNone, ?release, ?releaseNone, ?mask, ?vfMask⟩
  case query =>
    intro s q p h
    refine ⟨fun hi => ?_, fun hi => ?_, fun hi => ?_, fun hi => ?_, fun hi => ?_, fun hi => ?_, fun hi => ?_,
      fun ids hids hi => ?_⟩
    · exact congrArg done (State.query_run h hi _)
    · refine (congrArg done (State.query_run h hi _)).trans ?_
      rw [State.take_coresOn]
      rfl
    · refine (congrArg done (State.query_run h hi _)).trans ?_
      rw [State.take_coreMask]
      rfl
    · refine (congrArg done (State.query_run h hi _)).trans ?_
      rw [State.take_nowNs]
      rfl
    · refine (congrArg done (State.query_run h hi _)).trans ?_
      simp only [State.take_frame]
      rfl
    · exact congrArg done (State.dispatch_field h hi _)
    · exact congrArg done (State.dispatch_field h hi _)
    · subst hids
      exact congrArg done (State.dispatch_field h hi _)
  case read =>
    intro s q p l e h hfirst hpick hlast
    change execLogRead q s = _
    rw [execLogRead, State.dispatch_run h rfl]
    simp only [hpick, hlast, decide_eq_false (Nat.not_le.mpr hfirst), Bool.false_eq_true, if_false, Nat.add_zero]
    rfl
  case readNone =>
    intro s q p h hfirst hpick
    change execLogRead q s = _
    rw [execLogRead, State.dispatch_run h rfl]
    simp only [hpick, List.getLast?_nil, decide_eq_false (Nat.not_le.mpr hfirst), Bool.false_eq_true, if_false, Nat.add_zero,
      List.length_nil, Nat.zero_add, List.map_nil, List.flatten_nil, State.take_frame]
    rfl
  case release =>
    intro s v hready hawake hpre
    have hsame : s.hostWake = s := State.hostWake_of_ne_sleep (State.dev_of_awake hawake).1
    refine ⟨_, rfl, ?_⟩
    simp only [hready, Bool.not_true, Bool.false_eq_true, if_false, hsame, State.logRelease, hpre]
    exact ⟨rfl, rfl, rfl⟩
  case releaseNone =>
    intro s v hready hpre
    change execLogRelease v s = _
    simp only [execLogRelease, done, hready, Bool.not_true, Bool.false_eq_true, if_false, State.logRelease, hpre, if_true]
  case mask =>
    intro s v hhub hawake
    refine ⟨_, rfl, ?_⟩
    simp only [hhub, Bool.not_true, Bool.false_eq_true, if_false, State.setIntMask, hawake, State.sendCauses]
    exact ⟨foldl_keeps (fun t => t.host.intMask) _ (fun t k => (State.msixSend_ints _ _ t).1) _ _,
      foldl_keeps (fun t => t.host.intCause) _ (fun t k => (State.msixSend_ints _ _ t).2) _ _⟩
  case vfMask =>
    intro s n v hn hready hen hawake
    refine ⟨_, rfl, ?_⟩
    simp only [hready, hen, decide_eq_false (Nat.not_le.mpr hn), Bool.not_true, Bool.or_self, Bool.false_eq_true, if_false,
      State.setVfsMask, hawake, State.sendVfCauses]
    refine (foldl_keeps (fun t => (t.host.vfs.look n {}).mask) _ (fun t k => State.msixSend_vfMask _ _ t n) _ _).trans ?_
    simp only [State.onHost_host, Tab.look_put_self]

end Sys2Proof.Machine
end

section
/-! PROOFS. The store of records. -/

namespace Sys2Proof.Machine

open Sys2Proof

/-! ### The next write -/

/-- While a write runs, and the image slots ask for nothing, the turn goes to nobody else (R455). -/
theorem State.nvmTurn_of_busy {s : State} (hjobs : s.nvm.slotJobs = []) (hcur : s.nvm.cur ≠ none) : s.nvmTurn = s := by
  rw [State.nvmTurn, hjobs, List.isEmpty_nil, if_pos rfl, State.nvmStart_of_busy hcur]

theorem State.nvmTurn_of_free {s : State} (hjobs : s.nvm.slotJobs = []) : s.nvmTurn = s.nvmStart := by
  rw [State.nvmTurn, hjobs, List.isEmpty_nil, if_pos rfl]

theorem State.nvmPhase_turn {s : State} (hjobs : s.nvm.slotJobs = []) (w : NvmWrite) (j : Nat) (p : NvmPhase) (r : Bool) :
    (s.nvmPhase w j p r).nvmTurn = s.nvmPhase w j p r :=
  State.nvmTurn_of_busy hjobs (Option.some_ne_none _)

@[simp] theorem State.nvmPhase_cur (w : NvmWrite) (j : Nat) (p : NvmPhase) (r : Bool) (s : State) :
    (s.nvmPhase w j p r).nvm.cur = some (w, j, p, r) := rfl

@[simp] theorem State.nvmPhase_nvmSlot (w : NvmWrite) (j : Nat) (p : NvmPhase) (r : Bool) (s : State) (n k : Nat) :
    (s.nvmPhase w j p r).nvmSlot n k = s.nvmSlot n k := rfl

/-- The packet of a write that has ended is answered (R459). -/
theorem State.nvmTell_packet {w : NvmWrite} {pid : Nat} (h : w.why = .packet pid) (ok : Bool) (seq : Word) (s : State) :
    s.nvmTell w ok seq = if ok = true then s.finish pid stOk seq.toNat 0 else s.finish pid stNoResource 0 1 := by
  rw [State.nvmTell, h]

@[simp] theorem State.fenceFollow_nvm (r : Nat) (s : State) : (s.fenceFollow r).nvm = s.nvm := rfl

/-- A page that is programmed, outside a stop, takes the write to its next phase (R455). -/
theorem execNvmPageDone_run {s : State} {w : NvmWrite} {j : Nat} {p : NvmPhase} {r : Bool} (hbusy : s.nvm.slotBusy = none)
    (hstop : s.nvm.stop = false) (hcur : s.nvm.cur = some (w, j, p, r)) (hp : p ≠ .erase) (b : Bool) :
    execNvmPageDone b s = done (s.nvmPaged w j p r b) := by
  simp only [execNvmPageDone, hbusy, hcur, if_neg hp, hstop, Bool.false_eq_true, if_false]

/-- Settles O23: the packets by their branches, the phases of a write by one lemma on a page that is programmed. -/
theorem recordStore : Obligations.RecordStore := by
  unfold Obligations.RecordStore
  refine ⟨?read, ?lost, ?write, ?poison, ?thermal, ?erased, ?page, ?header, ?commit, ?again, ?fail⟩
  case read =>
    intro s q p j h hnew
    change execNvmRead q s = _
    rw [execNvmRead, State.dispatch_run h rfl]
    simp only [hnew]
    rfl
  case lost =>
    intro s q p h hnew
    change execNvmRead q s = _
    rw [execNvmRead, State.dispatch_run h rfl]
    simp only [hnew]
    rfl
  case write =>
    intro s q p d l h hroom href hdata
    have hall : ((List.range (p.f 32 4)).map fun i => d.getD i none).findIdx? Option.isNone = none := by
      rw [hdata, List.findIdx?_eq_none_iff]
      simp
    have hbytes : ((List.range (p.f 32 4)).map fun i => d.getD i none).filterMap id = l := by
      rw [hdata]
      simp
    change execNvmWrite q d s = _
    rw [execNvmWrite, if_neg (Nat.not_le.mpr hroom), State.dispatch_run h rfl]
    simp only [State.take_frame, href, Bool.false_eq_true, if_false, hall, hbytes]
    rfl
  case poison =>
    intro s q p d k h hroom href hk hpoison hbefore
    have hfirst : ((List.range (p.f 32 4)).map fun i => d.getD i none).findIdx? Option.isNone = some k := by
      rw [List.findIdx?_eq_some_iff_getElem]
      refine ⟨by simpa using hk, by simp only [List.getElem_map, List.getElem_range, hpoison, Option.isNone_none], fun i hi => ?_⟩
      have := hbefore i hi
      simp only [List.getElem_map, List.getElem_range, Option.isNone_eq_false_iff, Bool.not_eq_true, this]
    change execNvmWrite q d s = _
    rw [execNvmWrite, if_neg (Nat.not_le.mpr hroom), State.dispatch_run h rfl]
    simp only [State.take_frame, href, Bool.false_eq_true, if_false, hfirst]
    rfl
  case thermal =>
    intro s q p d h hroom href
    change execNvmWrite q d s = _
    rw [execNvmWrite, if_neg (Nat.not_le.mpr hroom), State.dispatch_run h rfl]
    simp only [State.take_frame, href, if_true]
    rfl
  case erased =>
    intro s w j r hbusy hjobs hcur
    refine ⟨s.nvmPhase w j (if 1 ≤ lastDataPage w.data.length then .page 1 else .hdr) r, ?_, rfl, rfl, rfl⟩
    change execNvmEraseDone s = _
    simp only [execNvmEraseDone, hbusy, hcur, State.nvmPhase_turn hjobs]
    rfl
  case page =>
    intro s b w j n r hbusy hjobs hstop hcur
    refine ⟨s.nvmPhase w j (if n < lastDataPage w.data.length then .page (n + 1) else .hdr) r, ?_, rfl, rfl⟩
    change execNvmPageDone b s = _
    rw [execNvmPageDone_run hbusy hstop hcur nofun, State.nvmPaged, State.nvmPhase_turn hjobs]
    rfl
  case header =>
    intro s b w j r hbusy hjobs hstop hcur
    refine ⟨(s.nvmPage w j .hdr b).nvmPhase w j .marker r, ?_, rfl, ?_⟩
    · change execNvmPageDone b s = _
      rw [execNvmPageDone_run hbusy hstop hcur nofun, State.nvmPaged, State.nvmPhase_turn (by exact hjobs)]
      rfl
    · rw [State.nvmPhase_nvmSlot]
      simp only [State.nvmPage, State.nvmSlot, State.onNvm_nvm, Tab.look_put_self, and_self]
  case commit =>
    intro s w j pid r hbusy hjobs hstop hcur hwhy
    refine ⟨?done, ?run, ?fields⟩
    case run =>
      change execNvmPageDone true s = _
      rw [execNvmPageDone_run hbusy hstop hcur nofun, State.nvmPaged, if_pos rfl, State.nvmCommit]
      rw [State.nvmTell_packet hwhy, if_pos rfl, State.nvmTurn_of_free (by simpa using hjobs)]
      rfl
    case fields => exact ⟨rfl, Tab.look_put_self .., rfl⟩
  case again =>
    intro s w j hbusy hjobs hstop hcur
    refine ⟨(s.onNvm fun n => { n with slot := n.slot.put (2 * w.rec_ + j) {} { erases := (s.nvmSlot w.rec_ j).erases + 1 } }).nvmPhase
      w j .erase true, ?_, rfl, ?_⟩
    · change execNvmPageDone false s = _
      rw [execNvmPageDone_run hbusy hstop hcur nofun, State.nvmPaged, if_neg Bool.false_ne_true, State.nvmFail,
        if_neg Bool.false_ne_true, State.nvmPhase_turn (by exact hjobs)]
      rfl
    · rw [State.nvmPhase_nvmSlot]
      simp only [State.nvmSlot, State.onNvm_nvm, Tab.look_put_self]
  case fail =>
    intro s w j pid hbusy hjobs hstop hcur hwhy
    refine ⟨?failed, ?stop, ?left⟩
    case stop =>
      change execNvmPageDone false s = _
      rw [execNvmPageDone_run hbusy hstop hcur nofun, State.nvmPaged, if_neg Bool.false_ne_true, State.nvmFail]
      dsimp only
      rw [if_pos rfl, State.nvmTell_packet hwhy, if_neg Bool.false_ne_true, State.nvmTurn_of_free (by simpa using hjobs)]
      rfl
    case left =>
      simp only [State.nvmSlot, State.logOcc_frame, State.onNvm_nvm, Tab.look_put_self, and_self]

end Sys2Proof.Machine
end

section
/-! PROOFS. The partition packets. -/

namespace Sys2Proof.Machine

open Sys2Proof

/-! ### What keeps the partitions' registers -/

theorem State.drainPort_part (n k : Nat) (s : State) : (State.drainPort n k s).part = s.part := by
  induction k generalizing s with
  | zero => rfl
  | succ k ih =>
    rw [State.drainPort]
    split
    · rfl
    · split
      · rw [ih]
        simp
      · rfl

/-- The reservation of a port concerns no partition's registers. -/
@[simp] theorem State.strictPorts_part (k : Nat) (on : Bool) (s : State) : (s.strictPorts k on).part = s.part :=
  foldl_keeps State.part _ (fun t n => by rw [State.drain, State.drainPort_part]; simp) _ _

@[simp] theorem State.zeroShares_part (m : Word) (s : State) : (s.zeroShares m).part = s.part :=
  foldl_keeps State.part (fun t n => t.zeroSync n) (fun _ _ => rfl) (ones m) s

@[simp] theorem State.retuneAll_part (s : State) : s.retuneAll.part = s.part := by simp

/-- A packet that leaves its queue may use up a dispatch of the slot of time; the partitions' registers stay. -/
theorem State.take_part (q : QueueId) (p : Packet) (s : State) :
    { (s.take q p).part with slot := none } = { s.part with slot := none } := by
  unfold State.take
  dsimp only
  split <;> rfl

@[simp] theorem State.take_scrub (q : QueueId) (p : Packet) (s : State) : (s.take q p).part.scrub = s.part.scrub :=
  (congrArg Parts.scrub (State.take_part q p s) :)

@[simp] theorem State.take_keyNext (q : QueueId) (p : Packet) (s : State) : (s.take q p).part.keyNext = s.part.keyNext :=
  (congrArg Parts.keyNext (State.take_part q p s) :)

/-- A control party of a partition is one of three. -/
theorem State.party_lt (s : State) (q : QueueId) : s.party q < 4 := by
  unfold State.party
  split
  · decide
  · split <;> decide

/-- The fill of a slice's shares leaves no page of them protected, and nothing else of the partitions' registers. -/
theorem State.fillShares_rest (k : Nat) (s : State) :
    { (s.fillShares k).part with prot := [] } = { s.part with prot := [] } := rfl

/-- A map entry of a partition that is not STRICT: it exists and is not STRICT (Table 17-1). -/
theorem mapEntry_shared {controller contexts : Nat} (hc : controller < 4) (hn : contexts ≤ 256) (clock : Nat) :
    (mapEntry false controller clock contexts).getLsbD 31 = true ∧
    (mapEntry false controller clock contexts).getLsbD 30 = false := by
  have h : 2 ^ 31 + b2n false * 2 ^ 30 + controller * 2 ^ 28 + (if false = true then clock else 0) * 2 ^ 20 + contexts * 2 ^ 11 =
      2 ^ 31 + (controller * 2 ^ 28 + contexts * 2 ^ 11) := by simp [b2n]; omega
  constructor
  · simp only [mapEntry, h, BitVec.getLsbD_ofNat, Nat.testBit_eq_decide_div_mod_eq]
    simp; omega
  · simp only [mapEntry, h, BitVec.getLsbD_ofNat, Nat.testBit_eq_decide_div_mod_eq]
    simp; omega

/-- Settles O24: each packet by its branch, the registers by what the effects keep of them. -/
theorem partitionPackets : Obligations.PartitionPackets := by
  unfold Obligations.PartitionPackets
  refine ⟨?taken, ?create, ?none, ?destroy, ?filled, ?query⟩
  case taken =>
    intro s q p h hexists
    change execPartCreate q true s = _
    rw [execPartCreate, State.dispatch_run h rfl]
    simp only [hexists, if_true]
    rfl
  case create =>
    intro s q p h hnone hfree hshared
    have hbad : (ones (BitVec.ofNat 32 (p.f 16 4))).filter (fun k => ((s.take q p).owner k).isSome ||
        !(s.take q p).boot.avail.getLsbD k || ((s.take q p).slice k).unavail || (s.take q p).part.scrub.getLsbD k) = [] :=
      List.filter_eq_nil_iff.mpr fun k hk => by
        obtain ⟨howner, havail, hthere, hscrub⟩ := hfree k (BitVec.lt_of_getLsbD ((mem_ones _).mp hk)) ((mem_ones _).mp hk)
        simp [howner, havail, hthere, hscrub, -BitVec.getLsbD_eq_getElem]
    have hplain : (p.f 20 1 == 1) = false := by rw [hshared]; rfl
    refine ⟨?made, ?run, ?fields⟩
    case run =>
      change execPartCreate q true s = _
      rw [execPartCreate, State.dispatch_run h rfl]
      dsimp only
      rw [if_neg (ne_true_of_eq_false hnone), hbad, if_neg (by decide)]
      simp only [hplain, Bool.not_true, Bool.false_and, Bool.false_eq_true, if_false]
      rfl
    case fields =>
      simp only [State.slicesOf, State.partExists, State.strict, State.pmap, State.retuneAll_part, State.zeroShares_part,
        State.newKeys, State.onPart_part, Tab.look_put_self, pairVal_mkPair, State.take_keyNext, and_true, true_and]
      have hbyte : p.f 22 1 < 256 := field_lt _ _ _
      exact mapEntry_shared (State.party_lt _ _) (by split <;> omega) _
  case none =>
    intro s q p h hnone
    change execPartDestroy q s = _
    rw [execPartDestroy, State.dispatch_run h rfl]
    simp only [hnone, Bool.not_false, if_true]
    rfl
  case destroy =>
    intro s q p h hexists
    refine ⟨_, rfl, ?_⟩
    rw [State.dispatch_run h rfl]
    simp only [hexists, Bool.not_true, Bool.false_eq_true, if_false]
    simp only [State.partExists, State.pmap, State.retuneAll_part, apply_ite State.part, State.strictPorts_part, ite_self,
      State.onWork_part, State.onPart_part, Tab.look_drop_self, pairVal_mkPair]
    exact ⟨by decide, by simp⟩
  case filled =>
    intro s n pid m hawake hone
    refine ⟨?clean, ?runFill, ?cleanFields⟩
    case runFill =>
      change execPartScrubComplete n s = _
      simp only [execPartScrubComplete, done, hone, List.find?_cons, beq_self_eq_true, hawake, Bool.not_true,
        Bool.false_eq_true, if_false]
      rfl
    case cleanFields =>
      have hkeep : { ((ones m).foldl (fun t k => t.fillShares k) s).part with prot := [] } = { s.part with prot := [] } :=
        foldl_keeps (fun t => ({ t.part with prot := [] } : Parts)) (fun t k => t.fillShares k)
          (fun t k => State.fillShares_rest k t) _ _
      have hscrub := (congrArg Parts.scrub hkeep :)
      have hlist := (congrArg Parts.scrubbing hkeep :)
      simp only [State.onPart_part]
      exact ⟨by rw [hlist, hone]; simp, by rw [hscrub]⟩
  case query =>
    intro s q p h
    exact congrArg done (State.dispatch_run h rfl _)

end Sys2Proof.Machine
end

section
/-! PROOFS. The core packets and the fleet packets. -/

namespace Sys2Proof.Machine

open Sys2Proof

@[simp] theorem State.take_coreAt (q : QueueId) (p : Packet) (s : State) (c : Nat) : (s.take q p).coreAt c = s.coreAt c := by
  simp [State.coreAt]

@[simp] theorem State.logOcc_coreAt (o : Occ) (s : State) (c : Nat) : (s.logOcc o).coreAt c = s.coreAt c := by
  simp [State.coreAt]

@[simp] theorem State.corrected_coreAt (unit : Nat) (s : State) (c : Nat) : (s.corrected unit).coreAt c = s.coreAt c := by
  simp [State.coreAt]

@[simp] theorem State.take_fleet (q : QueueId) (p : Packet) (s : State) : (s.take q p).fleet = s.fleet := by simp

/-- Settles O25: each packet by its branch, the cores by what the log keeps of them. -/
theorem coreAndFleetPackets : Obligations.CoreAndFleetPackets := by
  unfold Obligations.CoreAndFleetPackets
  refine ⟨?layup, ?already, ?back, ?noBack, ?bad, ?corrected, ?forward, ?unreachable, ?later, ?barrier, ?query⟩
  case layup =>
    intro s q p h hper hon
    change execCoreLayup q s = _
    rw [execCoreLayup, State.dispatch_run h rfl]
    simp [hper, show (s.coreAt (p.f 16 2)).laid = .no by simpa using hon, done]
  case already =>
    intro s q p h hper hoff
    change execCoreLayup q s = _
    rw [execCoreLayup, State.dispatch_run h rfl]
    simp only [hper, if_pos hoff]
    rfl
  case back =>
    intro s q p h hlaid hpersist
    refine ⟨((s.take q p).onCoreAt (p.f 16 2) fun x => { x with laid := .no, cause := 0, persist := false }).logOcc
      { event := 0x402, sev := 0, part := (s.take q p).owner (sliceOf (p.f 16 2)), tag := p.tag, unit := p.f 16 2, code := 0 },
      ?_, ?_⟩
    · change execCoreReturn q true s = _
      rw [execCoreReturn, State.dispatch_run h rfl]
      simp only [State.take_coreAt, if_neg (not_not.mpr hlaid), hpersist, Bool.not_true, Bool.false_eq_true, if_false]
      rfl
    · simp only [State.logOcc_coreAt, State.coreAt_onCoreAt_self, true_and]
      intro c hc
      rw [State.coreAt_onCoreAt_ne _ _ _ _ hc, State.take_coreAt]
  case noBack =>
    intro s q p b h hlaid
    change execCoreReturn q b s = _
    rw [execCoreReturn, State.dispatch_run h rfl]
    simp only [State.take_coreAt, if_pos hlaid]
    rfl
  case bad =>
    intro s c hc hon hstage
    change execCoreArrayError c true s = _
    rw [execCoreArrayError, if_neg (by simp [hon]; omega)]
    rfl
  case corrected =>
    intro s c hc hon hstage hsome hroom hday
    refine ⟨_, rfl, ?_⟩
    have hgo : ¬ (768 ≤ c ∨ (!s.coreOn c) = true ∨ s.boot.stage < 10) := by simp [hon]; omega
    have hsame : (decide ((s.coreAt c).corrected = 0) || decide (dayNs ≤ s.nowNs - (s.coreAt c).corrFrom)) = false := by
      rw [decide_eq_false hsome, decide_eq_false (Nat.not_le.mpr hday), Bool.or_false]
    have hmore : ¬ 256 ≤ (s.coreAt c).corrected + 1 := by omega
    simp only [if_neg hgo, hsame, Bool.false_eq_true, if_false, if_neg hmore, State.corrected_coreAt,
      State.coreAt_onCoreAt_self, and_self]
  case forward =>
    intro s q p h hreach
    refine ⟨?sent, ?msg, ?run, ?fields⟩
    case run =>
      change execFleetForward q s = _
      rw [execFleetForward, State.dispatch_run h rfl]
      simp only [hreach]
      rfl
    case fields =>
      refine ⟨?_, rfl, rfl, rfl⟩
      change (s.take q p).fleet.fwdOut ++ _ = _
      rw [State.take_fleet]
      rfl
  case unreachable =>
    intro s q p st h hgone
    change execFleetForward q s = _
    rw [execFleetForward, State.dispatch_run h rfl]
    simp only [hgone]
    rfl
  case later =>
    intro s q p h hbusy
    refine ⟨_, rfl, ?_⟩
    rw [State.dispatch_run h rfl]
    simp [hbusy]
  case barrier =>
    intro s q p h hidle
    change execFleetBarrier q s = _
    rw [execFleetBarrier, State.dispatch_run h rfl]
    simp only [State.onInflight_frame, State.take_fleet, if_pos hidle, State.take_nowNs, State.take_timeoutOf]
    rfl
  case query =>
    intro s q p h
    have hmanager : (s.take q p).isManager = s.isManager := by simp [State.isManager]
    have hcount (st : FleetDevSt) : (s.take q p).devCount st = s.devCount st := by simp [State.devCount, State.devsIn]
    change execFleetQuery q s = _
    rw [execFleetQuery, State.dispatch_run h rfl]
    simp only [State.take_fleet, hmanager, hcount]
    rfl

end Sys2Proof.Machine
end

section
/-! PROOFS. The CIM packets. -/

namespace Sys2Proof.Machine

open Sys2Proof

theorem getLsbD_setBit_self {n k : Nat} (h : k < n) (w : BitVec n) : (setBit w k).getLsbD k = true := by
  simp [getLsbD_setBit, h]

/-- Settles O26: each packet, and the end of a load, by the one branch that its conditions leave. -/
theorem cimPackets : Obligations.CimPackets := by
  unfold Obligations.CimPackets
  refine ⟨?loadLost, ?load, ?loadDone, ?loadFault, ?execLost, ?exec, ?calibrate, ?noDie⟩
  case loadLost =>
    intro s q p h hlost
    change execCimLoad q s = _
    rw [execCimLoad, State.dispatch_run h rfl]
    simp only [hlost, if_true]
    rfl
  case load =>
    intro s q p h hthere
    change execCimLoad q s = _
    rw [execCimLoad, State.dispatch_run h rfl]
    simp only [hthere, Bool.false_eq_true, if_false]
    rfl
  case loadDone =>
    intro s x pid c va n host l i d hl hi hawake htrip hwait hc hva hn hkept hfault hx hd hclean
    change execCimLoadComplete pid host s = _
    simp only [execCimLoadComplete, done, hl, hi, hc, hva, hn, hawake, htrip, hwait, hkept, Bool.not_true, Bool.or_self,
      Bool.false_eq_true, if_false, hfault, hx, hd, hclean]
  case loadFault =>
    intro s pid code a host l i hl hi hawake htrip hwait hkept hfault
    change execCimLoadComplete pid host s = _
    simp only [execCimLoadComplete, done, hl, hi, hawake, htrip, hwait, hkept, Bool.not_true, Bool.or_self,
      Bool.false_eq_true, if_false, hfault]
  case execLost =>
    intro s q p h hlost
    change execCimExec q s = _
    rw [execCimExec, State.dispatch_run h rfl]
    simp only [hlost, if_true]
    rfl
  case exec =>
    intro s q p h hthere
    change execCimExec q s = _
    rw [execCimExec, State.dispatch_run h rfl]
    simp only [hthere, Bool.false_eq_true, if_false]
    rfl
  case calibrate =>
    intro s q p h hone hd
    have hbit := getLsbD_setBit_self hd (0 : BitVec 8)
    have hsome : setBit (0 : BitVec 8) (p.f 16 1) ≠ 0 := fun hzero => by
      rw [hzero] at hbit
      simp at hbit
    refine ⟨_, rfl, ?_⟩
    rw [State.dispatch_run h rfl]
    simp only [if_neg (show ¬ p.f 17 1 = 1 by omega)]
    rw [if_neg hsome]
    simp only [State.calRequest, State.onCim_cim, State.take_frame, BitVec.getLsbD_or, hbit, Bool.or_true, and_self]
  case noDie =>
    intro s q p h hall hnone
    have hdies : ((List.range 8).filter fun d => (List.range 4).any fun k => (s.take q p).owns p.part (4 * d + k)) = [] :=
      List.filter_eq_nil_iff.mpr fun d _ => by simp [State.owns, hnone]
    change execCimCalibrate q s = _
    rw [execCimCalibrate, State.dispatch_run h rfl]
    simp only [hall, if_true, hdies]
    rfl

end Sys2Proof.Machine
end

section
/-! PROOFS. CIM operations. -/

namespace Sys2Proof.Machine

open Sys2Proof

@[simp] theorem State.issued_blockOf (s : State) (g : Nat) : (s.issued g).blockOf g = s.blockOf g := by
  simp [State.blockOf]

@[simp] theorem State.issued_localBytes (s : State) (g off n : Nat) :
    (s.issued g).localBytes g off n = s.localBytes g off n := by
  simp [State.localBytes]

/-- The state but for device memory, the stores and adds on their way to it, and what has been sent outside. -/
def State.besidesMemory (s : State) : State := { s with red := {}, mem := {}, out := [] }

theorem State.ltStore_besidesMemory (d k a : Nat) (l : List (Byte × Bool)) (s : State) :
    (State.ltStore d k a l s).besidesMemory = s.besidesMemory := by
  induction k generalizing a l s with
  | zero => rfl
  | succ k ih =>
    rw [State.ltStore]
    split
    · rfl
    · refine (ih ..).trans ?_
      have hmerge := State.ltMerge_outsideMemory (d + a / 64 * 48) (a % 64) (l.take (64 - a % 64)) (s.flushBlock (d + a / 64 * 48))
      exact congrArg (fun t => { t with out := [] }) (hmerge.trans (State.flushBlock_outsideMemory _ s))

/-- A write of memory that a context sees changes nothing beside memory and what has been sent outside. -/
theorem State.writeVa_besidesMemory (c va : Nat) (l : List (Byte × Bool)) (s : State) :
    (s.writeVa c va l).besidesMemory = s.besidesMemory := by
  refine foldl_keeps State.besidesMemory _ (fun t x => ?_) _ _
  unfold State.writePiece
  dsimp only
  split
  · rfl
  · split
    · exact State.ltStore_besidesMemory ..
    · rfl

@[simp] theorem State.writeVa_cim (c va : Nat) (l : List (Byte × Bool)) (s : State) : (s.writeVa c va l).cim = s.cim :=
  (congrArg State.cim (State.writeVa_besidesMemory c va l s) :)

/-- The output of an operation takes free values and nothing else. -/
@[simp] theorem State.cimOutput_frame (o : CimOp) (x : List Byte) (s : State) : (s.cimOutput o x).2.cim = s.cim ∧
    (s.cimOutput o x).2.core = s.core ∧ (s.cimOutput o x).2.mem = s.mem := by
  unfold State.cimOutput
  dsimp only
  split <;> exact ⟨rfl, rfl, rfl⟩

theorem State.gang_congr {s t : State} (h : t.core.gang = s.core.gang) (g : Nat) : t.gang g = s.gang g := by
  simp [State.gang, h]

@[simp] theorem State.localWrite_gang (b off : Nat) (l : List (Byte × Bool)) (s : State) (g : Nat) :
    (s.localWrite b off l).gang g = s.gang g := rfl

@[simp] theorem State.localWrite_frame (b off : Nat) (l : List (Byte × Bool)) (s : State) :
    (s.localWrite b off l).cim = s.cim ∧ (s.localWrite b off l).mem = s.mem := ⟨rfl, rfl⟩

@[simp] theorem State.wakeSlice_gang (n : Nat) (s : State) (g : Nat) : (s.wakeSlice n).gang g = s.gang g :=
  State.gang_congr (by simp) g

@[simp] theorem Gang.uReg_setU_self (r : Nat) (v : Word) (x : Gang) : (x.setU r v).uReg r = v := by
  simp only [Gang.uReg, Gang.setU, Tab.look_put_self]

@[simp] theorem State.cimOutput_gang (o : CimOp) (x : List Byte) (s : State) (g : Nat) :
    (s.cimOutput o x).2.gang g = s.gang g := State.gang_congr (by simp) g

/-- The operation that a `cim.mvm` puts in its slice's sequencer (R275). -/
def State.mvmOp (s : State) (g ud us : Nat) : CimOp :=
  let d := s.localBytes g ((s.gang g).uReg us).toNat 16
  let l := s.launchOf g
  { owner := .gang g (s.blockOf g) ud, die := dieOf (sliceOf (gCore g)), slice := 4 * dieOf (sliceOf (gCore g)) + field d 0 2 / 2048
    ctx := l.ctx, part := l.part, inVa := field d 8 4, outVa := field d 12 4, macro_ := field d 0 2, count := field d 2 2
    rowgrp := field d 4 1, time := field d 5 1 == 1, behind := s.loadsOn (dieOf (sliceOf (gCore g))) (field d 0 2) (field d 2 2)
    stale := false }

/-- What an operation that ends leaves: its places free, and the count of operations (R273). -/
@[simp] theorem State.cimFree_cim (o : CimOp) (s : State) : ((s.countOps o).cimFree o).cim.running = s.cim.running.drop o.slice ∧
    ((s.countOps o).cimFree o).cim.active = s.cim.active.upd o.die 0 (· - o.count) ∧
    ((s.countOps o).cimFree o).mem = s.mem := by
  unfold State.countOps State.cimFree
  refine ⟨?_, ?_, ?_⟩ <;> simp <;> split <;> rfl

@[simp] theorem State.cimFree_gang (o : CimOp) (s : State) (g : Nat) : ((s.countOps o).cimFree o).gang g = s.gang g := rfl

/-- Settles O27: each command by the branch that its conditions leave, the end of an operation by what it frees. -/
theorem cimOperations : Obligations.CimOperations := by
  unfold Obligations.CimOperations
  refine ⟨?start, ?refuse, ?mvm, ?mvmEnd, ?mvmGone, ?vector⟩
  case start =>
    intro s d o hd hawake htrip hgrant hpair howns hfrozen
    change execCimOpStart d s = _
    rw [execCimOpStart, if_neg (by simp [hawake, htrip]; omega)]
    simp only [hgrant]
    rw [if_neg (by simp [hpair, howns, hfrozen])]
    rfl
  case refuse =>
    intro s d o hd hawake htrip hgrant hbad
    change execCimOpStart d s = _
    rw [execCimOpStart, if_neg (by simp [hawake, htrip]; omega)]
    simp only [hgrant]
    rw [if_pos (by simpa using hbad)]
    rfl
  case mvm =>
    intro s g ud us hissue hchecks hroom
    have hgo : ((firstFault (s.mvmChecks g ud us)).isNone && decide (32 ≤ (s.cim.queue.look (4 * dieOf (sliceOf (gCore g)) +
        field (s.localBytes g ((s.gang g).uReg us).toNat 16) 0 2 / 2048) []).length)) = false := by
      rw [decide_eq_false (Nat.not_le.mpr hroom), Bool.and_false]
    refine ⟨((((s.issued g).onCim fun c => { c with queue := c.queue.upd (s.mvmOp g ud us).slice [] fun q =>
      q ++ [s.mvmOp g ud us] }).onGang g fun x => { x with wait := .cim }).wakeSlice (s.mvmOp g ud us).slice),
      s.mvmOp g ud us, ?_, ?_, rfl, rfl, rfl, rfl, ?_⟩
    · change execCimMvm g ud us s = _
      simp only [execCimMvm, hgo, Bool.false_eq_true, if_false]
      rw [State.instr_run _ _ _ _ hissue hchecks]
      simp only [State.issued_blockOf, State.issued_launchOf]
      rfl
    · simp only [State.wakeSlice_gang, State.gang_onGang_self]
    · simp only [State.wakeSlice_frame, State.onGang_frame, State.onCim_cim, State.issued_cim, Tab.look_upd_self]
  case mvmEnd =>
    intro s x sl g b ud host o hrun hawake htrip howner htime hx hwait
    refine ⟨?ended, ?run, ?fields⟩
    case run =>
      change execCimOpComplete sl host s = _
      simp only [execCimOpComplete, done, hrun, howner, hawake, htrip, Bool.not_true, Bool.or_self, Bool.false_eq_true, if_false,
        hx, State.endMvm, hwait]
      rfl
    case fields =>
      simp only [State.cimFree_gang, State.gang_onGang_self, State.cimFree_cim, State.localWrite_gang, State.cimOutput_gang,
        State.onGang_frame, State.localWrite_frame, State.cimOutput_frame, Tab.look_upd_self, and_true, true_and]
      exact Gang.uReg_setU_self ud _ (x.gang g)
  case mvmGone =>
    intro s x sl g b ud host o hrun hawake htrip howner hx hwait
    change execCimOpComplete sl host s = _
    simp only [execCimOpComplete, done, hrun, howner, hawake, htrip, Bool.not_true, Bool.or_self, Bool.false_eq_true, if_false,
      hx, State.endMvm, hwait, Bool.not_false, if_true]
  case vector =>
    intro s w x sl pid host o hrun hawake htrip howner hin hout hw hread hwrite hx hclean hgood
    refine ⟨?counted, ?runVector, ?execs⟩
    case runVector =>
      change execCimOpComplete sl host s = _
      simp only [execCimOpComplete, done, hrun, howner, hin, hout, hawake, htrip, Bool.not_true, Bool.or_self,
        Bool.false_eq_true, if_false, hw, State.endVector, hread, hwrite, hx, hclean, hgood, Option.isSome_none,
        Bool.false_and]
      rfl
    case execs =>
      simp only [State.onCim_cim, State.writeVa_cim]
      rw [(State.cimOutput_frame ..).1]
      refine List.map_congr_left fun e _ => ?_
      cases hlost : e.lost <;> simp [← hlost]

end Sys2Proof.Machine
end

section
/-! PROOFS. Calibration and patrol scrubs. -/

namespace Sys2Proof.Machine

open Sys2Proof

/-- The mean temperature that a calibration records takes at most a free value. -/
@[simp] theorem State.calMean_frame (d : Nat) (s : State) : (s.calMean d).2.cim = s.cim ∧ (s.calMean d).2.tw = s.tw := by
  unfold State.calMean
  dsimp only
  split <;> exact ⟨rfl, rfl⟩

/-- The calibration state apart from the packets that wait for it. -/
def Cim.unasked (c : Cim) : Cim := { c with calPkts := [] }

@[simp] theorem State.endCalPkts_frame (d temp : Nat) (fail : Bool) (s : State) :
    (s.endCalPkts d temp fail).cim.unasked = s.cim.unasked ∧ (s.endCalPkts d temp fail).tw = s.tw := by
  unfold State.endCalPkts
  refine ⟨?_, ?_⟩
  · exact foldl_keeps (fun t => t.cim.unasked) _ (fun t e => by simp) _ _
  · exact foldl_keeps State.tw _ (fun t e => by simp) _ _

theorem State.endCalPkts_cal (d temp : Nat) (fail : Bool) (s : State) :
    (s.endCalPkts d temp fail).cim.calBusy = s.cim.calBusy ∧ (s.endCalPkts d temp fail).cim.calFail = s.cim.calFail ∧
    (s.endCalPkts d temp fail).cim.calValid = s.cim.calValid ∧ (s.endCalPkts d temp fail).cim.calTime = s.cim.calTime ∧
    (s.endCalPkts d temp fail).cim.calTrim = s.cim.calTrim := by
  have h := (State.endCalPkts_frame d temp fail s).1
  exact ⟨(congrArg Cim.calBusy h :), (congrArg Cim.calFail h :), (congrArg Cim.calValid h :), (congrArg Cim.calTime h :),
    (congrArg Cim.calTrim h :)⟩

/-- A bit that was cleared is clear. -/
theorem getLsbD_clearBit_self {n : Nat} (w : BitVec n) (k : Nat) : (clearBit w k).getLsbD k = false := by
  simp [getLsbD_clearBit]

/-- Settles O28: each command by the branch that its conditions leave, what ends by what its reports keep. -/
theorem calibrationAndScrub : Obligations.CalibrationAndScrub := by
  unfold Obligations.CalibrationAndScrub
  refine ⟨?start, ?pass, ?again, ?fail, ?hbm, ?weights, ?deck⟩
  case start =>
    intro s d hd hdev htrip hreq hbusy hauto hrest
    change execCimCalibrationStart d s = _
    simp only [execCimCalibrationStart, hd, hdev, htrip, hreq, hbusy, hauto, hrest, Bool.not_false, Bool.true_or, and_self, if_true]
  case pass =>
    intro s d trim hd hbusy hawake htrip
    refine ⟨_, rfl, ?_⟩
    rw [if_neg (by simp [hbusy, hawake, htrip, -BitVec.getLsbD_eq_getElem]; omega)]
    simp only [Bool.not_true, Bool.false_and, Bool.false_eq_true, if_false, if_true]
    simp only [State.endCalPkts_cal, State.endCalPkts_frame, State.onCim_cim, State.onCim_tw, State.onTw_cim, State.onTw_tw,
      State.calMean_frame, getLsbD_clearBit_self, getLsbD_setBit_self hd, Tab.look_put_self, and_self]
  case again =>
    intro s d trim hd hbusy hawake htrip hfirst
    change execCimCalibrationDone d false trim s = _
    rw [execCimCalibrationDone, if_neg (by simp [hbusy, hawake, htrip, -BitVec.getLsbD_eq_getElem]; omega)]
    simp only [hfirst, Bool.not_false, beq_self_eq_true, Bool.and_self, if_true]
    rfl
  case fail =>
    intro s d trim hd hbusy hawake htrip hsecond
    refine ⟨_, rfl, ?_⟩
    rw [if_neg (by simp [hbusy, hawake, htrip, -BitVec.getLsbD_eq_getElem]; omega)]
    rw [hsecond]
    simp only [State.endCalPkts_cal, State.endCalPkts_frame, State.logOcc_frame, State.onTw_cim, State.onTw_tw, State.onCim_cim,
      State.onCim_tw, Bool.not_false, Bool.true_and, beq_iff_eq, one_ne_zero, Bool.false_eq_true, if_false,
      getLsbD_clearBit_self, getLsbD_setBit_self hd, and_self]
  case hbm =>
    intro s d hd hawake hsr
    refine ⟨_, rfl, ?_⟩
    rw [if_neg (by simp [hawake, hsr]; omega)]
    simp [List.range_succ]
  case weights =>
    intro s d hd hawake
    refine ⟨_, rfl, ?_⟩
    rw [if_neg (by simp [hawake]; omega)]
    simp [b2n, State.macroLost]
  case deck =>
    intro s d hd hawake
    refine ⟨_, rfl, ?_⟩
    rw [if_neg (by simp [hawake]; omega)]
    simp [b2n]

end Sys2Proof.Machine
end

section
/-! PROOFS. What the parts of a core read after they were written. -/

namespace Sys2Proof.Machine

open Sys2Proof

/-! ### Reads after a run of writes -/

/-- A run of writes leaves every other place as it was. -/
theorem foldl_read_of_ne {σ ι κ β : Type} (read : σ → κ → β) {f : σ → ι → σ} {key : ι → κ}
    (hkeep : ∀ y i k, k ≠ key i → read (f y i) k = read y k) {l : List ι} {k : κ} (hk : ∀ i ∈ l, k ≠ key i) (y : σ) :
    read (l.foldl f y) k = read y k := by
  induction l generalizing y with
  | nil => rfl
  | cons a l ih => exact (ih (fun i hi => hk i (.tail _ hi)) _).trans (hkeep _ _ _ (hk a (.head _)))

/-- A run of writes to different places leaves in each of them what was written there. -/
theorem foldl_read_mem {σ ι κ β : Type} (read : σ → κ → β) {f : σ → ι → σ} {key : ι → κ} {val : ι → β}
    (hset : ∀ y i, read (f y i) (key i) = val i) (hkeep : ∀ y i k, k ≠ key i → read (f y i) k = read y k)
    {l : List ι} (hl : l.Nodup) (hinj : ∀ i ∈ l, ∀ j ∈ l, key i = key j → i = j) {i : ι} (hi : i ∈ l) (y : σ) :
    read (l.foldl f y) (key i) = val i := by
  induction l generalizing y with
  | nil => exact absurd hi List.not_mem_nil
  | cons a l ih =>
    obtain ⟨ha, hl⟩ := List.nodup_cons.mp hl
    rw [List.foldl_cons]
    by_cases him : i ∈ l
    · exact ih hl (fun i hi j hj => hinj i (.tail _ hi) j (.tail _ hj)) him _
    · obtain rfl := (List.mem_cons.mp hi).resolve_right him
      rw [foldl_read_of_ne read hkeep (fun j hj e => ha (hinj i (.head _) j (.tail _ hj) e ▸ hj)), hset]

/-- A run of runs is one run over the pairs. -/
theorem foldl_foldl_product {σ ι κ : Type} (f : σ → ι → κ → σ) (l : List ι) (m : List κ) (y : σ) :
    l.foldl (fun y i => m.foldl (fun y j => f y i j) y) y = (l ×ˢ m).foldl (fun y e => f y e.1 e.2) y := by
  induction l generalizing y with
  | nil => rfl
  | cons a l ih => rw [List.foldl_cons, List.product_cons, List.foldl_append, List.foldl_map, ih]

/-- A table from which the entries of some keys were taken. -/
theorem Tab.look_filter {α : Type} (keep : Nat → Bool) (t : Tab α) (k : Nat) (d : α) :
    Tab.look (t.filter fun e => keep e.1) k d = if keep k then t.look k d else d := by
  induction t with
  | nil => simp [Tab.look]
  | cons e t ih =>
    cases h : keep e.1
    · rw [List.filter_cons_of_neg (by simp [h]), ih, Tab.look]
      split_ifs with hk hek
      · simp_all
      · rfl
      · rfl
    · rw [List.filter_cons_of_pos (by simp [h]), Tab.look, Tab.look, ih]
      split_ifs with hek hk hk
      · rfl
      · simp_all
      · rfl
      · rfl

/-- Pieces of one length, one after another. -/
theorem getD_flatten_range {α : Type} {n : Nat} (f : Nat → List α) (hf : ∀ i, (f i).length = n) {m i b : Nat} (hi : i < m)
    (hb : b < n) (d : α) : (((List.range m).map f).flatten).getD (n * i + b) d = (f i).getD b d := by
  have hlen (k : Nat) : (((List.range k).map f).flatten).length = n * k := by
    induction k with
    | zero => simp
    | succ k ih => simp [List.range_succ, hf, ih, Nat.mul_succ]
  induction m with
  | zero => omega
  | succ m ih =>
    rw [List.range_succ, List.map_append, List.flatten_append, List.map_singleton, List.flatten_singleton]
    rcases Nat.lt_succ_iff_lt_or_eq.mp hi with h | rfl
    · rw [List.getD_append _ _ _ _ (by rw [hlen]; nlinarith), ih h]
    · rw [List.getD_append_right _ _ _ _ (by rw [hlen]; omega), hlen, Nat.add_sub_cancel_left]

/-! ### Registers -/

theorem Gang.vReg_setV_self (r l : Nat) (v : Word) (x : Gang) : (x.setV r l v).vReg r l = v := by
  simp only [Gang.vReg, Gang.setV, Tab.look_put_self]

theorem Gang.mem_lanes {x : Gang} {l : Nat} : l ∈ x.lanes ↔ l < 32 ∧ x.active.getLsbD l = true := by
  simp [Gang.lanes, -BitVec.getLsbD_eq_getElem]

theorem Gang.nodup_lanes (x : Gang) : x.lanes.Nodup := List.nodup_range.filter _

/-! ### Local memory -/

@[simp] theorem Tab.find_ins_self {α : Type} (t : Tab α) (k : Nat) (v : α) : (t.ins k v).find k = some v := by
  induction t with
  | nil => simp [Tab.ins, Tab.find]
  | cons e t ih =>
    obtain ⟨i, a⟩ := e
    unfold Tab.ins
    split_ifs with hlt heq
    · simp [Tab.find]
    · simp [Tab.find]
    · simp [Tab.find, Ne.symm heq, ih]

theorem Tab.find_ins_ne {α : Type} {k j : Nat} (h : j ≠ k) (t : Tab α) (v : α) : (t.ins k v).find j = t.find j := by
  induction t with
  | nil => simp [Tab.ins, Tab.find, h.symm]
  | cons e t ih =>
    obtain ⟨i, a⟩ := e
    unfold Tab.ins
    split_ifs with hlt heq
    · simp [Tab.find, h.symm]
    · subst heq
      simp [Tab.find, h.symm]
    · simp [Tab.find, ih]

/-- A byte of a core's local memory, with its poison. -/
def Core.localByte (b : Nat) (c : Core) (k : Nat) : Byte × Bool :=
  (match Tab.find (α := Byte) c.loc (b * 2 ^ 18 + k) with | some x => x | none => Config.localByte b k,
    c.locPoison.look (b * 2 ^ 18 + k) false)

theorem State.localAt_eq (s : State) (b k : Nat) : s.localAt b k = (s.coreAt (s.blk b).core).localByte b k := rfl

theorem Core.localByte_put_self (b k : Nat) (v : Byte × Bool) (c : Core) :
    (c.putLocal (b * 2 ^ 18 + k) v).localByte b k = v := by
  simp only [Core.localByte, Core.putLocal, Tab.find_ins_self, Tab.look_put_self]

theorem Core.localByte_put_ne {k j : Nat} (h : j ≠ k) (b : Nat) (v : Byte × Bool) (c : Core) :
    (c.putLocal (b * 2 ^ 18 + k) v).localByte b j = c.localByte b j := by
  have hne : b * 2 ^ 18 + j ≠ b * 2 ^ 18 + k := by omega
  simp only [Core.localByte, Core.putLocal, Tab.find_ins_ne hne, Tab.look_put_ne _ _ _ _ _ _ hne]

theorem zipIdx_snd_injOn {α : Type} {l : List α} {e e' : α × Nat} (he : e ∈ l.zipIdx) (he' : e' ∈ l.zipIdx) (h : e.2 = e'.2) :
    e = e' := by
  have h1 := List.mk_mem_zipIdx_iff_getElem?.mp he
  have h2 := List.mk_mem_zipIdx_iff_getElem?.mp he'
  rw [h, h2] at h1
  exact Prod.ext (Option.some.inj h1).symm h

theorem nodup_zipIdx {α : Type} (l : List α) : l.zipIdx.Nodup :=
  List.Nodup.of_map Prod.snd (by rw [List.zipIdx_map_snd]; exact List.nodup_range')

/-- The core that a write of a block's local memory reaches. -/
theorem State.localWrite_coreAt (b off : Nat) (l : List (Byte × Bool)) (s : State) :
    (s.localWrite b off l).localAt b = Core.localByte b
      (l.zipIdx.foldl (fun c e => c.putLocal (b * 2 ^ 18 + off + e.2) e.1) (s.coreAt (s.blk b).core)) :=
  funext fun k => by
    rw [State.localAt_eq, State.localWrite]
    have hblk : ∀ (t : State) (f : Core → Core) (c : Nat), (t.onCoreAt c f).blk b = t.blk b := fun _ _ _ => rfl
    rw [hblk, State.coreAt_onCoreAt_self]

/-- What was written to a block's local memory is what is read there. -/
theorem State.localWrite_localAt {b off i : Nat} {l : List (Byte × Bool)} (hi : i < l.length) (s : State) :
    (s.localWrite b off l).localAt b (off + i) = l[i] := by
  rw [State.localWrite_coreAt]
  simp only [Nat.add_assoc]
  exact foldl_read_mem (Core.localByte b) (key := fun e => off + e.2) (val := Prod.fst) (i := (l[i], i))
    (fun c e => Core.localByte_put_self ..) (fun c e k hk => Core.localByte_put_ne hk ..)
    (nodup_zipIdx _) (fun e he e' he' h => zipIdx_snd_injOn he he' (Nat.add_left_cancel h))
    (List.mk_mem_zipIdx_iff_getElem?.mpr (List.getElem?_eq_getElem hi)) _

/-- A write of a block's local memory leaves the rest of it. -/
theorem State.localWrite_localAt_of_ne {b off k : Nat} {l : List (Byte × Bool)} (hk : k < off ∨ off + l.length ≤ k) (s : State) :
    (s.localWrite b off l).localAt b k = s.localAt b k := by
  rw [State.localWrite_coreAt]
  simp only [Nat.add_assoc]
  refine foldl_read_of_ne (Core.localByte b) (key := fun (e : (Byte × Bool) × Nat) => off + e.2)
    (fun c e k hk => Core.localByte_put_ne hk ..) (fun e he => ?_) _
  have := List.snd_lt_of_mem_zipIdx he
  omega

end Sys2Proof.Machine
end

section
/-! PROOFS. The matrix instructions. -/

namespace Sys2Proof.Machine

open Sys2Proof

/-! ### The checks do not see that the instruction has been issued -/

@[simp] theorem State.issued_tileOk (s : State) (g k t : Nat) : (s.issued g).tileOk k t = s.tileOk k t := by
  simp [State.tileOk]

@[simp] theorem State.issued_vOk (s : State) (g k r n : Nat) : (s.issued g).vOk k r n = s.vOk k r n := by
  simp [State.vOk]

@[simp] theorem State.issued_localOk (s : State) (g k off n : Nat) : (s.issued g).localOk k off n = s.localOk k off n := by
  simp [State.localOk]

@[simp] theorem State.issued_localClean (s : State) (g off n : Nat) :
    (s.issued g).localClean g off n = s.localClean g off n := by
  simp [State.localClean]

/-- The registers and tiles of a gang do not see that it has issued. -/
@[simp] theorem State.issued_regs (s : State) (g : Nat) : ((s.issued g).gang g).v = (s.gang g).v ∧
    ((s.issued g).gang g).tile = (s.gang g).tile ∧ ((s.issued g).gang g).active = (s.gang g).active ∧
    ((s.issued g).gang g).u = (s.gang g).u := by
  simp

/-! ### Tiles -/

/-- One element of a matrix operation: its exact sum with the old element, rounded once (R238). -/
def PendMma.put (m : PendMma) (x y : Gang) (i : Nat) : Gang :=
  let r := m.elem (i / 16) (i % 16) (x.tile.look (m.tile * 256 + i) 0)
  let c := fB32.pack .even r.1
  { y.flag (r.2 ||| c.2) with tile := y.tile.put (m.tile * 256 + i) 0 (BitVec.ofNat 32 c.1) }

theorem PendMma.result_eq (m : PendMma) (x : Gang) : m.result x = (List.range 256).foldl (m.put x) x := rfl

theorem PendMma.put_tile (m : PendMma) (x y : Gang) (i : Nat) : (m.put x y i).tile = y.tile.put (m.tile * 256 + i) 0
    (BitVec.ofNat 32 (fB32.pack .even (m.elem (i / 16) (i % 16) (x.tile.look (m.tile * 256 + i) 0)).1).1) := rfl

/-- What a gang's tile holds after a matrix operation (R238). -/
theorem PendMma.result_tile (m : PendMma) (x : Gang) {i : Nat} (hi : i < 256) :
    (m.result x).tile.look (m.tile * 256 + i) 0 = BitVec.ofNat 32
      (fB32.pack .even (m.elem (i / 16) (i % 16) (x.tile.look (m.tile * 256 + i) 0)).1).1 := by
  rw [PendMma.result_eq]
  exact foldl_read_mem (fun y k => y.tile.look k 0) (f := m.put x) (key := (m.tile * 256 + ·)) (val := fun i => BitVec.ofNat 32
      (fB32.pack .even (m.elem (i / 16) (i % 16) (x.tile.look (m.tile * 256 + i) 0)).1).1)
    (fun y i => by rw [PendMma.put_tile, Tab.look_put_self])
    (fun y i k hk => by rw [PendMma.put_tile, Tab.look_put_ne _ _ _ _ _ _ hk])
    List.nodup_range (fun i _ j _ h => Nat.add_left_cancel h) (List.mem_range.mpr hi) x

theorem PendMma.result_tile_of_ne (m : PendMma) (x : Gang) {k : Nat} (hk : k / 256 ≠ m.tile) :
    (m.result x).tile.look k 0 = x.tile.look k 0 := by
  rw [PendMma.result_eq]
  refine foldl_read_of_ne (fun y k => y.tile.look k 0) (f := m.put x) (key := (m.tile * 256 + ·))
    (fun y i k hk => by rw [PendMma.put_tile, Tab.look_put_ne _ _ _ _ _ _ hk]) (fun i hi e => hk ?_) x
  have := List.mem_range.mp hi
  omega

theorem PendMma.result_v (m : PendMma) (x : Gang) : (m.result x).v = x.v := by
  rw [PendMma.result_eq]
  exact foldl_keeps_acc Gang.v (f := m.put x) (fun _ _ => rfl) _ _

theorem tileIndex_inj {t : Nat} {e e' : Nat × Nat} (he : e.1 < 32 ∧ e.2 < 8) (he' : e'.1 < 32 ∧ e'.2 < 8)
    (h : tileIndex t e.1 e.2 = tileIndex t e'.1 e'.2) : e = e' := by
  unfold tileIndex at h
  exact Prod.ext (by omega) (by omega)

/-- The operands that a matrix operation takes where its format has no scales (R239). -/
def State.mmaOf (s : State) (g fa fb t va ub w : Nat) : PendMma :=
  let x := s.gang g
  let l := (s.localRead x.block (x.uReg ub).toNat (w * 64)).map Prod.fst
  { fa := fa, fb := fb, tile := t, retried := false, scales := []
    a := (List.range 512).map fun i => x.elemA va w (i / 32) (i % 32)
    b := (List.range 512).map fun i => elemB l w (i / 16) (i % 16) }

theorem getD_map_range {α : Type} (f : Nat → α) {n i : Nat} (hi : i < n) (d : α) : ((List.range n).map f).getD i d = f i := by
  rw [List.getD_eq_getElem _ _ (by simpa using hi), List.getElem_map, List.getElem_range]

/-- The gang after `acc.rd`: the active lanes hold the tile (R243). -/
def Gang.readTile (x : Gang) (vd t : Nat) : Gang :=
  x.lanes.foldl (fun y lane => (List.range 8).foldl (fun y j => y.setV (vd + j) lane (x.tile.look (tileIndex t lane j) 0)) y) x

theorem Gang.readTile_mem {x : Gang} {l j : Nat} (hl : l ∈ x.lanes) (hj : j < 8) (vd t : Nat) :
    (x.readTile vd t).vReg (vd + j) l = x.tile.look (tileIndex t l j) 0 := by
  rw [Gang.readTile, foldl_foldl_product]
  refine foldl_read_mem (fun y k => y.v.look k 0)
    (f := fun y (e : Nat × Nat) => y.setV (vd + e.2) e.1 (x.tile.look (tileIndex t e.1 e.2) 0)) (key := fun e => (vd + e.2) * 32 + e.1)
    (val := fun e => x.tile.look (tileIndex t e.1 e.2) 0) (fun y e => Tab.look_put_self ..)
    (fun y e k hk => Tab.look_put_ne _ _ _ _ _ _ hk) (x.nodup_lanes.product List.nodup_range) ?_ (i := (l, j)) ?_ x
  · intro e he e' he' h
    have := (Gang.mem_lanes.mp (List.mem_product.mp he).1).1
    have := (Gang.mem_lanes.mp (List.mem_product.mp he').1).1
    exact Prod.ext (by omega) (by omega)
  · exact List.mem_product.mpr ⟨hl, List.mem_range.mpr hj⟩

theorem Gang.readTile_of_ne {x : Gang} {r l vd : Nat} (hl : l < 32) (h : l ∉ x.lanes ∨ r < vd ∨ vd + 8 ≤ r) (t : Nat) :
    (x.readTile vd t).vReg r l = x.vReg r l := by
  rw [Gang.readTile, foldl_foldl_product]
  refine foldl_read_of_ne (fun y k => y.v.look k 0)
    (f := fun y (e : Nat × Nat) => y.setV (vd + e.2) e.1 (x.tile.look (tileIndex t e.1 e.2) 0)) (key := fun e => (vd + e.2) * 32 + e.1)
    (fun y e k hk => Tab.look_put_ne _ _ _ _ _ _ hk) (fun e he hk => ?_) x
  obtain ⟨he1, he2⟩ := List.mem_product.mp he
  have hlane := (Gang.mem_lanes.mp he1).1
  have hj := List.mem_range.mp he2
  have hsame : e.1 = l := by omega
  rcases h with h | h
  · exact h (hsame ▸ he1)
  · omega

/-- The gang after `acc.wr`: the tile holds the registers of the active lanes (R243). -/
def Gang.writeTile (x : Gang) (t vs : Nat) : Gang :=
  x.lanes.foldl (fun y lane => (List.range 8).foldl (fun y j =>
    { y with tile := y.tile.put (tileIndex t lane j) 0 (x.vReg (vs + j) lane) }) y) x

theorem Gang.writeTile_mem {x : Gang} {l j : Nat} (hl : l ∈ x.lanes) (hj : j < 8) (t vs : Nat) :
    (x.writeTile t vs).tile.look (tileIndex t l j) 0 = x.vReg (vs + j) l := by
  rw [Gang.writeTile, foldl_foldl_product]
  refine foldl_read_mem (fun y k => y.tile.look k 0)
    (f := fun y (e : Nat × Nat) => { y with tile := y.tile.put (tileIndex t e.1 e.2) 0 (x.vReg (vs + e.2) e.1) }) (key := fun e => tileIndex t e.1 e.2)
    (val := fun e => x.vReg (vs + e.2) e.1) (fun y e => Tab.look_put_self ..)
    (fun y e k hk => Tab.look_put_ne _ _ _ _ _ _ hk) (x.nodup_lanes.product List.nodup_range) ?_ (i := (l, j)) ?_ x
  · intro e he e' he' h
    exact tileIndex_inj ⟨(Gang.mem_lanes.mp (List.mem_product.mp he).1).1, List.mem_range.mp (List.mem_product.mp he).2⟩
      ⟨(Gang.mem_lanes.mp (List.mem_product.mp he').1).1, List.mem_range.mp (List.mem_product.mp he').2⟩ h
  · exact List.mem_product.mpr ⟨hl, List.mem_range.mpr hj⟩

theorem Gang.writeTile_of_not_mem {x : Gang} {l j : Nat} (hlane : l < 32) (hj : j < 8) (hl : l ∉ x.lanes) (t vs : Nat) :
    (x.writeTile t vs).tile.look (tileIndex t l j) 0 = x.tile.look (tileIndex t l j) 0 := by
  rw [Gang.writeTile, foldl_foldl_product]
  refine foldl_read_of_ne (fun y k => y.tile.look k 0)
    (f := fun y (e : Nat × Nat) => { y with tile := y.tile.put (tileIndex t e.1 e.2) 0 (x.vReg (vs + e.2) e.1) }) (key := fun e => tileIndex t e.1 e.2)
    (fun y e k hk => Tab.look_put_ne _ _ _ _ _ _ hk) (fun e he hk => hl ?_) x
  obtain ⟨he1, he2⟩ := List.mem_product.mp he
  have hsame := tileIndex_inj (t := t) (e := (l, j)) ⟨hlane, hj⟩ ⟨(Gang.mem_lanes.mp he1).1, List.mem_range.mp he2⟩ hk
  rw [show l = e.1 from congrArg Prod.fst hsame]
  exact he1

theorem Gang.writeTile_v (x : Gang) (t vs : Nat) : (x.writeTile t vs).v = x.v := by
  rw [Gang.writeTile, foldl_foldl_product]
  exact foldl_keeps_acc Gang.v
    (f := fun y (e : Nat × Nat) => { y with tile := y.tile.put (tileIndex t e.1 e.2) 0 (x.vReg (vs + e.2) e.1) })
    (fun _ _ => rfl) _ _

theorem length_flatten_range {α : Type} {n : Nat} (f : Nat → List α) (hf : ∀ i, (f i).length = n) (m : Nat) :
    (((List.range m).map f).flatten).length = n * m := by
  induction m with
  | zero => rfl
  | succ m ih => simp [List.range_succ, hf, ih, Nat.mul_succ]

/-- The bytes of a tile, row by row (R242). -/
def Gang.tileBytes (x : Gang) (t : Nat) : List (Byte × Bool) :=
  ((List.range 256).map fun i => (toLe 4 (x.tile.look (t * 256 + i) 0).toNat).map fun b => (b, false)).flatten

theorem Gang.tileBytes_length (x : Gang) (t : Nat) : (x.tileBytes t).length = 1024 := by
  rw [Gang.tileBytes, length_flatten_range (n := 4) _ fun i => by simp]

theorem Gang.tileBytes_getElem {x : Gang} {t i b : Nat} (hi : i < 256) (hb : b < 4) (h : 4 * i + b < (x.tileBytes t).length) :
    (x.tileBytes t)[4 * i + b] = ((toLe 4 (x.tile.look (t * 256 + i) 0).toNat).getD b 0, false) := by
  rw [← List.getD_eq_getElem _ (0, false) h, Gang.tileBytes, getD_flatten_range _ (fun i => by simp) hi hb,
    List.getD_map (f := fun b => (b, false))]

/-- Settles O30: each instruction by the reads after its run of writes. -/
theorem tileInstructions : Obligations.TileInstructions := by
  unfold Obligations.TileInstructions
  refine ⟨?mma, ?done, ?again, ?zero, ?read, ?write, ?store, ?fault⟩
  case mma =>
    intro s g fa fb t va ub us w hissue hfree hwidth hmx hub ht hva halign hfits hclean
    have hpass : firstFault ([((mmaWidth fa fb).isSome, 1, 0), uOk ub 1, (!isMx fa || (uOk us 1).1, 1, 0), s.tileOk g t,
        s.vOk g va (w / 2), alignOk ((s.gang g).uReg ub).toNat 64, s.localOk g ((s.gang g).uReg ub).toNat (w * 64),
        s.localClean g ((s.gang g).uReg ub).toNat (w * 64)]) = none := by
      have hnone : (s.localRead (s.gang g).block ((s.gang g).uReg ub).toNat (w * 64)).any Prod.snd = false :=
        List.any_eq_false.mpr fun b hb => by simp [hclean b hb]
      simp [uOk, alignOk, State.tileOk, State.vOk, State.localOk, State.localClean, hwidth, hmx, ht, hva, halign, hfits, hnone]
      omega
    refine ⟨(s.issued g).onGang g fun y => { y with mma := some (s.mmaOf g fa fb t va ub w) }, s.mmaOf g fa fb t va ub w, ?_, ?_⟩
    · change execMma g fa fb t va ub us s = _
      rw [execMma, if_neg (ne_true_of_eq_false hfree)]
      simp only [hwidth, Option.getD_some, hmx, Bool.false_eq_true, if_false, List.append_nil]
      rw [State.instr_run _ _ _ _ hissue (by simpa [hwidth, hmx] using hpass)]
      simp only [State.issued_localRead]
      rfl
    · rw [State.gang_onGang_self]
      refine ⟨rfl, rfl, rfl, rfl, rfl, rfl, fun r k hr hk => ?_, (State.issued_regs s g).2.1, rfl⟩
      simp only [State.mmaOf]
      rw [getD_map_range _ (by omega), show (r * 32 + k) / 32 = r by omega, show (r * 32 + k) % 32 = k by omega]
  case done =>
    intro s g m hm hruns
    refine ⟨s.onGang g fun x => { m.result x with mma := none }, ?_, ?_⟩
    · change execMmaComplete g true s = _
      simp only [execMmaComplete, done, hm, hruns, Bool.not_true, Bool.false_eq_true, if_false, if_true]
    · simp only [State.gang_onGang_self, true_and]
      refine ⟨fun r c hr hc => ?_, fun k hk => m.result_tile_of_ne _ hk, m.result_v _⟩
      have hindex := m.result_tile (s.gang g) (i := r * 16 + c) (by omega)
      rwa [show (r * 16 + c) / 16 = r by omega, show (r * 16 + c) % 16 = c by omega, ← Nat.add_assoc] at hindex
  case again =>
    intro s g m hm hruns hfirst
    refine ⟨_, rfl, ?_⟩
    simp only [hm, hruns, Bool.not_true, Bool.false_eq_true, if_false, hfirst, State.gang_onGang_self, true_and]
    exact congrArg Gang.tile (State.gang_congr (by simp) g)
  case zero =>
    intro s g t hissue hfree ht
    refine ⟨_, rfl, ?_⟩
    rw [if_neg (ne_true_of_eq_false hfree), State.instr_run _ _ _ _ hissue (by simp [State.tileOk, ht])]
    simp only [State.gang_onGang_self, Tab.look_filter (fun k => k / 256 != t), State.issued_regs]
    refine ⟨fun k hk => if_neg ?_, fun k hk => if_pos (bne_iff_ne.mpr hk), rfl⟩
    simp [show (t * 256 + k) / 256 = t by omega]
  case read =>
    intro s g vd t hissue hfree ht hvd
    refine ⟨(s.issued g).onGang g fun x => x.readTile vd t, ?_, ?_⟩
    · change execAccRd g vd t s = _
      rw [execAccRd, if_neg (ne_true_of_eq_false hfree),
        State.instr_run _ _ _ _ hissue (by simp [State.tileOk, State.vOk, ht, hvd])]
      rfl
    · rw [State.gang_onGang_self]
      refine ⟨fun l j hl hj => ?_, fun r l hl hr => ?_, rfl⟩
      · split
        next hon =>
          refine (Gang.readTile_mem (Gang.mem_lanes.mpr ⟨hl, ?_⟩) hj vd t).trans ?_
          · rw [(State.issued_regs s g).2.2.1, hon]
          · rw [(State.issued_regs s g).2.1]
            rfl
        next hoff =>
          refine (Gang.readTile_of_ne hl (.inl fun h => hoff ?_) t).trans ?_
          · rw [← (State.issued_regs s g).2.2.1, (Gang.mem_lanes.mp h).2]
          · rw [Gang.vReg, (State.issued_regs s g).1]
            rfl
      · refine (Gang.readTile_of_ne hl (.inr hr) t).trans ?_
        rw [Gang.vReg, (State.issued_regs s g).1]
        rfl
  case write =>
    intro s g t vs hissue hfree ht hvs
    refine ⟨(s.issued g).onGang g fun x => x.writeTile t vs, ?_, ?_⟩
    · change execAccWr g t vs s = _
      rw [execAccWr, if_neg (ne_true_of_eq_false hfree),
        State.instr_run _ _ _ _ hissue (by simp [State.tileOk, State.vOk, ht, hvs])]
      rfl
    · rw [State.gang_onGang_self]
      refine ⟨fun l j hl hj => ?_, (Gang.writeTile_v _ _ _).trans (State.issued_regs s g).1, rfl⟩
      split
      next hon =>
        refine (Gang.writeTile_mem (Gang.mem_lanes.mpr ⟨hl, ?_⟩) hj t vs).trans ?_
        · rw [(State.issued_regs s g).2.2.1, hon]
        · rw [Gang.vReg, (State.issued_regs s g).1]
          rfl
      next hoff =>
        refine (Gang.writeTile_of_not_mem hl hj (fun h => hoff ?_) t vs).trans ?_
        · rw [← (State.issued_regs s g).2.2.1, (Gang.mem_lanes.mp h).2]
        · rw [(State.issued_regs s g).2.1]
          rfl
  case store =>
    intro s g us t hissue hfree hus ht halign hfits
    refine ⟨(s.issued g).localWrite (s.gang g).block ((s.gang g).uReg us).toNat ((s.gang g).tileBytes t), ?_, fun i b hi hb => ?_,
      (State.localWrite_frame ..).2.trans (State.issued_mem s g)⟩
    · change execAccSt g us t s = _
      rw [execAccSt, if_neg (ne_true_of_eq_false hfree)]
      dsimp only
      rw [State.instr_run _ _ _ _ hissue (by simp [uOk, State.tileOk, alignOk, State.localOk, ht, halign, hfits]; omega)]
      rfl
    · rw [Nat.add_assoc, State.localWrite_localAt (by rw [Gang.tileBytes_length]; omega), Gang.tileBytes_getElem hi hb]
  case fault =>
    intro s g vd t hissue hfree ht
    change execAccRd g vd t s = _
    rw [execAccRd, if_neg (ne_true_of_eq_false hfree), State.instr_fault _ _ _ _ 0x12 0 hissue
      (by simp [State.tileOk, Nat.not_lt.mpr ht])]
    rfl

end Sys2Proof.Machine
end

section
/-! PROOFS. The instructions on numbers. -/

namespace Sys2Proof.Machine

open Sys2Proof

/-! ### Lane by lane -/

/-- What no lane of a run changes stays. -/
theorem foldl_lane_of_not_mem {σ α : Type} (read : σ → α) {f : σ → Nat → σ} {L : List Nat}
    (hother : ∀ t, ∀ a ∈ L, read (f t a) = read t) (y : σ) : read (L.foldl f y) = read y := by
  induction L generalizing y with
  | nil => rfl
  | cons a L ih => exact (ih (fun t b hb => hother t b (.tail _ hb)) _).trans (hother y a (.head _))

/-- What one lane reads and writes, and no other changes, ends as that lane leaves it. -/
theorem foldl_lane {σ α : Type} (read : σ → α) {f : σ → Nat → σ} {l : Nat} {L : List Nat} (hl : l ∈ L) (hL : L.Nodup)
    (hother : ∀ t, ∀ a ∈ L, a ≠ l → read (f t a) = read t) (y : σ) :
    ∃ t, read t = read y ∧ read (L.foldl f y) = read (f t l) := by
  induction L generalizing y with
  | nil => exact absurd hl List.not_mem_nil
  | cons a L ih =>
    obtain ⟨ha, hL⟩ := List.nodup_cons.mp hL
    rcases List.mem_cons.mp hl with rfl | hin
    · exact ⟨y, rfl, foldl_lane_of_not_mem read (fun t b hb => hother t b (.tail _ hb) fun e => ha (e ▸ hb)) _⟩
    · obtain ⟨t, ht, hfold⟩ := ih hin hL (fun t b hb => hother t b (.tail _ hb)) (f y a)
      exact ⟨t, ht.trans (hother y a (.head _) fun e => ha (e ▸ hin)), hfold⟩

theorem Gang.vReg_setV_ne {r k l m : Nat} (hl : l < 32) (hm : m < 32) (h : k ≠ r ∨ m ≠ l) (v : Word) (x : Gang) :
    (x.setV r l v).vReg k m = x.vReg k m := by
  simp only [Gang.vReg, Gang.setV]
  exact Tab.look_put_ne _ _ _ _ _ _ (by omega)

/-- A number that is written to the low bits of a lane reads as written; the bits above it are free (R246). -/
theorem State.putNarrow_low {w : Nat} (hw : w ≤ 32) (g r lane code : Nat) (s : State) :
    ((s.putNarrow g r lane w code).gang g).low r lane w = code % 2 ^ w := by
  unfold State.putNarrow
  split
  next h =>
    obtain rfl : w = 32 := by omega
    rw [State.gang_onGang_self, Gang.low, Gang.vReg_setV_self, BitVec.toNat_ofNat, Nat.mod_mod]
  next h =>
    dsimp only
    rw [State.gang_onGang_self, Gang.low, Gang.vReg_setV_self, BitVec.toNat_ofNat,
      Nat.mod_mod_of_dvd _ (Nat.pow_dvd_pow 2 hw), Nat.add_mul_mod_self_right, Nat.mod_mod]

theorem State.putNarrow_ne {r k lane m : Nat} (hl : lane < 32) (hm : m < 32) (h : k ≠ r ∨ m ≠ lane) (g w code : Nat) (s : State) :
    ((s.putNarrow g r lane w code).gang g).vReg k m = (s.gang g).vReg k m := by
  unfold State.putNarrow
  split
  · rw [State.gang_onGang_self, Gang.vReg_setV_ne hl hm h]
  · dsimp only
    rw [State.gang_onGang_self, Gang.vReg_setV_ne hl hm h]
    rfl

@[simp] theorem State.putNarrow_mem (g r lane w code : Nat) (s : State) : (s.putNarrow g r lane w code).mem = s.mem := by
  unfold State.putNarrow
  split <;> rfl

/-- Modes other than the stochastic one draw nothing. -/
theorem State.drew_of_ne {r : RMode} (h : r ≠ .stoch) (g lane : Nat) (fin : Bool) (s : State) : s.drew g lane r fin = s :=
  if_neg fun e => h e.1

theorem State.rnd_of_ne {r : RMode} (h : r ≠ .stoch) (s : State) (g lane : Nat) :
    s.rnd g lane r = if r = .even then .even else .zero := by
  cases r with
  | even => rfl
  | zero => rfl
  | stoch => exact absurd rfl h

@[simp] theorem Gang.vReg_flag (f : Nat) (x : Gang) (k l : Nat) : (x.flag f).vReg k l = x.vReg k l := rfl
@[simp] theorem Gang.low_flag (f : Nat) (x : Gang) (k l w : Nat) : (x.flag f).low k l w = x.low k l w := rfl

/-- One lane of a vector operation in a mode that draws nothing: the registers of the gang (R258). -/
theorem State.vecLane_gang {r : RMode} (hr : r ≠ .stoch) (g : Nat) (op : VecOp) (f : Nat) (fm : Fmt) (vd va vb vc lane : Nat)
    (s : State) : ∃ fl, (s.vecLane g op f fm r vd va vb vc lane).gang g =
      ((s.putNarrow g vd lane (fmtBits f) (fm.pack (if r = .even then .even else .zero)
        (vecValue op (fm.decode ((s.gang g).low va lane (fmtBits f))) (fm.decode ((s.gang g).low vb lane (fmtBits f)))
          (fm.decode ((s.gang g).low vc lane (fmtBits f)))).1).1).gang g).flag fl := by
  unfold State.vecLane
  dsimp only
  rw [State.drew_of_ne hr, State.rnd_of_ne hr, State.gang_onGang_self]
  exact ⟨_, rfl⟩

theorem State.vecLane_ne {r : RMode} (hr : r ≠ .stoch) {vd k lane m : Nat} (hl : lane < 32) (hm : m < 32) (h : k ≠ vd ∨ m ≠ lane)
    (g : Nat) (op : VecOp) (f : Nat) (fm : Fmt) (va vb vc : Nat) (s : State) :
    ((s.vecLane g op f fm r vd va vb vc lane).gang g).vReg k m = (s.gang g).vReg k m := by
  obtain ⟨fl, hgang⟩ := State.vecLane_gang hr g op f fm vd va vb vc lane s
  rw [hgang, Gang.vReg_flag, State.putNarrow_ne hl hm h]

theorem State.vecLane_low {r : RMode} (hr : r ≠ .stoch) {f : Nat} (hf : fmtBits f ≤ 32)
    (g : Nat) (op : VecOp) (fm : Fmt) (vd va vb vc lane : Nat) (s : State) :
    ((s.vecLane g op f fm r vd va vb vc lane).gang g).low vd lane (fmtBits f) =
      (fm.pack (if r = .even then .even else .zero) (vecValue op (fm.decode ((s.gang g).low va lane (fmtBits f)))
        (fm.decode ((s.gang g).low vb lane (fmtBits f))) (fm.decode ((s.gang g).low vc lane (fmtBits f)))).1).1 %
          2 ^ fmtBits f := by
  obtain ⟨fl, hgang⟩ := State.vecLane_gang hr g op f fm vd va vb vc lane s
  rw [hgang, Gang.low_flag, State.putNarrow_low hf]

theorem State.vecLane_mem {r : RMode} (hr : r ≠ .stoch) (g : Nat) (op : VecOp) (f : Nat) (fm : Fmt) (vd va vb vc lane : Nat)
    (s : State) : (s.vecLane g op f fm r vd va vb vc lane).mem = s.mem := by
  unfold State.vecLane
  dsimp only
  simp only [State.drew_of_ne hr, State.onGang_frame, State.putNarrow_mem]

/-- A conversion changes no memory (R247). -/
@[simp] theorem State.cvtLane_mem (g fs fd : Nat) (r : RMode) (vd vs a : Nat) (x : Int) (lane : Nat) (s : State) :
    (s.cvtLane g fs fd r vd vs a x lane).mem = s.mem := by
  have hnote : ∀ v, (s.noteAmax g a v).mem = s.mem := fun v => by
    unfold State.noteAmax State.raiseAmax
    split
    · split <;> rfl
    · rfl
  have hdrew : ∀ (t : State) fin, (t.drew g lane r fin).mem = t.mem := fun t fin => by
    unfold State.drew
    split <;> simp
  unfold State.cvtLane
  dsimp only
  split <;> simp [hnote, hdrew, State.fresh]

/-- A register that one vector operation leaves to an active lane, by what the lane held before (R258). -/
theorem State.vecLanes_low {s : State} {g l : Nat} {r : RMode} {f : Nat} {L : List Nat} (hr : r ≠ .stoch) (hf : fmtBits f ≤ 32)
    (hl : l ∈ L) (hL : L.Nodup) (hlt : ∀ a ∈ L, a < 32) (op : VecOp) (fm : Fmt) (vd va vb vc : Nat) :
    ((L.foldl (fun t a => t.vecLane g op f fm r vd va vb vc a) s).gang g).low vd l (fmtBits f) =
      (fm.pack (if r = .even then .even else .zero) (vecValue op (fm.decode ((s.gang g).low va l (fmtBits f)))
        (fm.decode ((s.gang g).low vb l (fmtBits f))) (fm.decode ((s.gang g).low vc l (fmtBits f)))).1).1 % 2 ^ fmtBits f := by
  obtain ⟨t, ht, hfold⟩ := foldl_lane (fun (t : State) k => (t.gang g).vReg k l)
    (f := fun t a => t.vecLane g op f fm r vd va vb vc a) hl hL
    (fun t a ha hne => funext fun k => State.vecLane_ne hr (hlt a ha) (hlt l hl) (.inr hne.symm) ..) s
  have hlow (k : Nat) : (t.gang g).low k l (fmtBits f) = (s.gang g).low k l (fmtBits f) := by
    simp only [Gang.low, congrFun ht k]
  have hend : ((L.foldl (fun t a => t.vecLane g op f fm r vd va vb vc a) s).gang g).low vd l (fmtBits f) =
      ((t.vecLane g op f fm r vd va vb vc l).gang g).low vd l (fmtBits f) := by
    simp only [Gang.low]
    rw [show _ = _ from congrFun hfold vd]
  rw [hend, State.vecLane_low hr hf, hlow, hlow, hlow]

theorem State.vecLanes_ne {s : State} {g l k vd : Nat} {r : RMode} {L : List Nat} (hr : r ≠ .stoch) (hlt : ∀ a ∈ L, a < 32)
    (hl : l < 32) (h : k ≠ vd ∨ l ∉ L) (op : VecOp) (f : Nat) (fm : Fmt) (va vb vc : Nat) :
    ((L.foldl (fun t a => t.vecLane g op f fm r vd va vb vc a) s).gang g).vReg k l = (s.gang g).vReg k l :=
  foldl_lane_of_not_mem (fun t : State => (t.gang g).vReg k l) (fun _ a ha => State.vecLane_ne hr (hlt a ha) hl
    (h.imp_right fun hl e => hl (e ▸ ha)) ..) s

/-- The lanes of a special function (R259). -/
def Gang.sfu (fn : SfuFn) (vd vs : Nat) (x : Gang) : Gang :=
  x.lanes.foldl (fun y lane =>
    let (code, fl) := sfuValue fn (x.vReg vs lane)
    (y.setV vd lane (BitVec.ofNat 32 code)).flag fl) x

theorem Gang.sfu_eq (fn : SfuFn) (vd vs : Nat) (x : Gang) : x.sfu fn vd vs = x.lanes.foldl (fun y lane =>
    (y.setV vd lane (BitVec.ofNat 32 (sfuValue fn (x.vReg vs lane)).1)).flag (sfuValue fn (x.vReg vs lane)).2) x := rfl

theorem Gang.sfu_mem {x : Gang} {l : Nat} (hl : l ∈ x.lanes) (fn : SfuFn) (vd vs : Nat) :
    (x.sfu fn vd vs).vReg vd l = BitVec.ofNat 32 (sfuValue fn (x.vReg vs l)).1 := by
  rw [Gang.sfu_eq]
  exact foldl_read_mem (fun y k => y.v.look k 0) (key := fun lane => vd * 32 + lane)
    (f := fun y lane => (y.setV vd lane (BitVec.ofNat 32 (sfuValue fn (x.vReg vs lane)).1)).flag (sfuValue fn (x.vReg vs lane)).2)
    (val := fun lane => BitVec.ofNat 32 (sfuValue fn (x.vReg vs lane)).1) (fun y a => Tab.look_put_self ..)
    (fun y a k hk => Tab.look_put_ne _ _ _ _ _ _ hk) x.nodup_lanes (fun a _ b _ h => Nat.add_left_cancel h) hl x

theorem Gang.sfu_ne {x : Gang} {k l vd : Nat} (hl : l < 32) (h : k ≠ vd ∨ l ∉ x.lanes) (fn : SfuFn) (vs : Nat) :
    (x.sfu fn vd vs).vReg k l = x.vReg k l := by
  rw [Gang.sfu_eq]
  refine foldl_lane_of_not_mem (fun y : Gang => y.vReg k l) (fun y a ha => ?_) x
  rw [Gang.vReg_flag, Gang.vReg_setV_ne (Gang.mem_lanes.mp ha).1 hl (h.imp_right fun hl e => hl (e ▸ ha))]

theorem Gang.uReg_setU_ne {k r : Nat} (h : k ≠ r) (v : Word) (x : Gang) : (x.setU r v).uReg k = x.uReg k := by
  simp only [Gang.uReg, Gang.setU, Tab.look_put_ne _ _ _ _ _ _ h]

theorem State.issued_amax (s : State) (g c a : Nat) : (s.issued g).amax c a = s.amax c a := by
  simp only [State.amax, State.ctx, State.issued_obj]

/-- Settles O31: the vector operations lane by lane, the others by the register they write. -/
theorem numberInstructions : Obligations.NumberInstructions := by
  unfold Obligations.NumberInstructions
  refine ⟨?vector, ?sfu, ?cvt, ?cvtMx, ?amaxRd, ?amaxScl, ?flgRd, ?flgClr⟩
  case vector =>
    intro s g f fm op r vd va vb vc l hissue hf hfm hr hvd hva hvb hvc hl
    have hlt : ∀ a ∈ ((s.issued g).gang g).lanes, a < 32 := fun a ha => (Gang.mem_lanes.mp ha).1
    have hbits : fmtBits f ≤ 32 := by interval_cases f <;> decide
    have hsame (k w : Nat) : ((s.issued g).gang g).low k l w = (s.gang g).low k l w := by simp [Gang.low, Gang.vReg]
    have hactive : ((s.issued g).gang g).active = (s.gang g).active := (State.issued_regs s g).2.2.1
    refine ⟨((s.issued g).gang g).lanes.foldl (fun t a => t.vecLane g op f fm r vd va vb vc a) (s.issued g), ?_, fun hon => ?_,
      fun hoff => ?_, fun k hk => ?_, ?_⟩
    · change execVectorOp g op f r vd va vb vc s = _
      rw [execVectorOp, State.instr_run _ _ _ _ hissue (by simpa [State.vOk, hf, hr, hvd, hva, hvb] using hvc)]
      simp only [hfm]
      rfl
    · rw [State.vecLanes_low hr hbits (Gang.mem_lanes.mpr ⟨hl, by rw [hactive, hon]⟩) (Gang.nodup_lanes _) hlt, hsame, hsame, hsame]
    · rw [State.vecLanes_ne hr hlt hl (.inr fun h => Bool.false_ne_true (hoff.symm.trans (hactive ▸ (Gang.mem_lanes.mp h).2)))]
      simp [Gang.vReg]
    · rw [State.vecLanes_ne hr hlt hl (.inl hk)]
      simp [Gang.vReg]
    · exact (foldl_keeps State.mem _ (fun t a => State.vecLane_mem hr ..) _ _).trans (State.issued_mem s g)
  case sfu =>
    intro s g fn vd vs l hissue hvd hvs hl
    have hsame (k : Nat) : ((s.issued g).gang g).vReg k l = (s.gang g).vReg k l := by simp [Gang.vReg]
    have hactive : ((s.issued g).gang g).active = (s.gang g).active := (State.issued_regs s g).2.2.1
    refine ⟨(s.issued g).onGang g (Gang.sfu fn vd vs), ?_, ?_, fun k hk => ?_, rfl⟩
    · change execSfuOp g fn vd vs s = _
      rw [execSfuOp, State.instr_run _ _ _ _ hissue (by simp [State.vOk, hvd, hvs])]
      rfl
    · rw [State.gang_onGang_self]
      split
      next hon =>
        rw [Gang.sfu_mem (Gang.mem_lanes.mpr ⟨hl, by rw [hactive, hon]⟩), hsame]
      next hoff =>
        rw [Gang.sfu_ne hl (.inr fun h => hoff (hactive ▸ (Gang.mem_lanes.mp h).2)), hsame]
    · rw [State.gang_onGang_self, Gang.sfu_ne hl (.inl hk), hsame]
  case cvt =>
    intro s g fs fd r vd vs a hissue hfs hfd ha hamax hvd hvs
    change execCvt g fs fd r vd vs a s = _
    rw [execCvt, State.instr_run _ _ _ _ hissue (by simp [State.vOk, State.amaxOk, hfs, hfd, ha, hamax, hvd, hvs])]
    rfl
  case cvtMx =>
    intro s g fs fd r vd vs ud a us hissue hfs hmx hud hus hscale' ha hamax hvd hvs hfd
    have hscale : (s.issued g).mxScale g fd a (some us) = ((s.gang g).uReg us).toNat % 256 := by
      simp [State.mxScale, Gang.uReg]
    refine ⟨_, rfl, ?_⟩
    rw [State.instr_run _ _ _ _ hissue (by
      simp [uOk, State.vOk, State.amaxOk, hscale, hfs, hmx, hscale', ha, hamax, hvd, hvs, hud, hus])]
    have hodd : (fd == 7) = false := beq_false_of_ne hfd
    simp only [hscale, State.gang_onGang_self, Gang.uReg_setU_self, hodd, Bool.false_and, Bool.false_eq_true, if_false, true_and]
    simp only [State.onGang_frame]
    rw [foldl_keeps State.mem _ fun _ a => State.cvtLane_mem .., State.issued_mem]
  case amaxRd =>
    intro s g ud a hissue hud ha
    refine ⟨_, rfl, ?_⟩
    rw [State.instr_run _ _ _ _ hissue (by simp [uOk, ha]; omega)]
    rw [State.gang_onGang_self, Gang.uReg_setU_self, State.issued_launchOf, State.issued_amax]
    refine ⟨rfl, fun k hk => ?_⟩
    rw [Gang.uReg_setU_ne hk]
    simp [Gang.uReg]
  case amaxScl =>
    intro s g ud a fd hissue hud ha hmx
    refine ⟨_, rfl, ?_⟩
    rw [State.instr_run _ _ _ _ hissue (by simp [uOk, ha, hmx]; omega), State.gang_onGang_self, Gang.uReg_setU_self]
    simp only [State.mxScale, State.issued_launchOf]
    rfl
  case flgRd =>
    intro s g ud hissue hud
    refine ⟨_, rfl, ?_⟩
    rw [State.instr_run _ _ _ _ hissue (by simp [uOk]; omega), State.gang_onGang_self, Gang.uReg_setU_self]
    rw [State.issued_gang]
    refine ⟨congrArg (BitVec.ofNat 32) ?_, rfl, rfl, rfl⟩
    have hbit : ∀ b : Bool, b2n b ≤ 1 := by decide
    have hovf := hbit (s.gang g).ovf
    have hnan := hbit (s.gang g).nan
    have hinv := hbit (s.gang g).inv
    simp only [Gang.flags]
    omega
  case flgClr =>
    intro s g hissue
    refine ⟨_, rfl, ?_⟩
    rw [State.instr_run _ _ _ _ hissue rfl, State.gang_onGang_self]
    simp

end Sys2Proof.Machine
end

section
/-! PROOFS. Loads, stores and fences. -/

namespace Sys2Proof.Machine

open Sys2Proof

/-! ### Checks -/

theorem firstFault_eq_none {l : List Check} : firstFault l = none ↔ ∀ c ∈ l, c.1 = true := by
  induction l with
  | nil => simp
  | cons c l ih =>
    obtain ⟨b, e⟩ := c
    cases b <;> simp [ih]

@[simp] theorem State.issued_coreFault (s : State) (g core c va n : Nat) (need : Need) (r : Bool) :
    (s.issued g).coreFault core c va n need r = s.coreFault core c va n need r := rfl

@[simp] theorem State.issued_accessOk (s : State) (g k va n : Nat) (need : Need) (r : Bool) :
    (s.issued g).accessOk k va n need r = s.accessOk k va n need r := by
  simp only [State.accessOk, State.issued_launchOf, State.issued_coreFault]

/-- An access that is aligned and that its context permits passes. -/
theorem State.accessOk_pass {s : State} {g va n : Nat} {need : Need} {r : Bool} (hn : n ≠ 0) (halign : va % n = 0)
    (hok : s.coreFault (gCore g) (s.launchOf g).ctx va n need r = none) : ∀ c ∈ s.accessOk g va n need r, c.1 = true := by
  rw [State.accessOk, hok]
  have : max 1 n = n := by omega
  simp [alignOk, this, halign]

theorem lenOk_pass {n : Nat} (h : n = 1 ∨ n = 2 ∨ n = 4 ∨ n = 8) : (lenOk n).1 = true := by
  rcases h with rfl | rfl | rfl | rfl <;> rfl

/-- A load that is not held and whose checks pass goes through the near cache (R294). -/
theorem State.load_run {s : State} {g cls : Nat} {pre : State → List Check} {xs : List MissLoad} {host : HostMem}
    (hissue : s.canIssue g = true) (hpre : ∀ c ∈ pre (s.issued g), c.1 = true)
    (hxs : ∀ x ∈ xs, ∀ c ∈ s.accessOk g x.va x.len .read host.refused, c.1 = true)
    (hheld : s.loadHeld g ((s.launchOf g).ncMask.getD cls 0) xs = false) :
    s.load g cls pre xs host = (s.issued g).runLoad g ((s.launchOf g).ncMask.getD cls 0) xs host := by
  have hpass : firstFault (pre (s.issued g) ++
      (xs.map fun x => (s.issued g).accessOk g x.va x.len .read host.refused).flatten) = none := by
    refine firstFault_eq_none.mpr fun c hc => ?_
    rcases List.mem_append.mp hc with hc | hc
    · exact hpre c hc
    · obtain ⟨l, hl, hc⟩ := List.mem_flatten.mp hc
      obtain ⟨x, hx, rfl⟩ := List.mem_map.mp hl
      rw [State.issued_accessOk] at hc
      exact hxs x hx c hc
  unfold State.load
  dsimp only
  rw [hheld, Bool.and_false, if_neg Bool.false_ne_true, State.instr_run _ _ _ _ hissue hpass]

theorem State.laneLoads_len {s : State} {g va n : Nat} {dst : Nat → LoadDst} {x : MissLoad} (h : x ∈ s.laneLoads g va n dst) :
    x.len = n := by
  obtain ⟨l, -, rfl⟩ := List.mem_map.mp h
  rfl

/-- The lanes of a load that their context permits pass. -/
theorem State.laneLoads_pass {s : State} {g va n : Nat} {dst : Nat → LoadDst} {refused : Bool}
    (hn : n = 1 ∨ n = 2 ∨ n = 4 ∨ n = 8)
    (h : ∀ x ∈ s.laneLoads g va n dst, x.va % n = 0 ∧
      s.coreFault (gCore g) (s.launchOf g).ctx x.va n .read refused = none) :
    ∀ x ∈ s.laneLoads g va n dst, ∀ c ∈ s.accessOk g x.va x.len .read refused, c.1 = true := fun x hx => by
  obtain ⟨halign, hok⟩ := h x hx
  rw [State.laneLoads_len hx]
  exact State.accessOk_pass (by omega) halign hok

theorem State.laneLoad_run {s : State} {g cls vd va n : Nat} {sg : Bool} {host : HostMem} (hissue : s.canIssue g = true)
    (hn : n = 1 ∨ n = 2 ∨ n = 4 ∨ n = 8) (hva : va + 2 ≤ 8 * (s.launchOf g).regs)
    (hvd : vd + regsFor n ≤ 8 * (s.launchOf g).regs)
    (h : ∀ x ∈ s.laneLoads g va n (fun _ => .reg vd sg), x.va % n = 0 ∧
      s.coreFault (gCore g) (s.launchOf g).ctx x.va n .read host.refused = none)
    (hheld : s.loadHeld g ((s.launchOf g).ncMask.getD cls 0) (s.laneLoads g va n fun _ => .reg vd sg) = false) :
    s.laneLoad g cls vd va n sg host =
      (s.issued g).runLoad g ((s.launchOf g).ncMask.getD cls 0) (s.laneLoads g va n fun _ => .reg vd sg) host :=
  State.load_run hissue (by simp [lenOk_pass hn, State.vOk, hva, hvd]) (State.laneLoads_pass hn h) hheld

/-- The check of an access without its alignment. -/
theorem State.accessOk_drop_pass {s : State} {g va n : Nat} {need : Need} {r : Bool}
    (hok : s.coreFault (gCore g) (s.launchOf g).ctx va n need r = none) :
    ∀ c ∈ (s.accessOk g va n need r).drop 1, c.1 = true := by
  rw [State.accessOk, hok]
  simp

@[simp] theorem State.issued_lanes (s : State) (g : Nat) : ((s.issued g).gang g).lanes = (s.gang g).lanes := by
  simp [Gang.lanes]

@[simp] theorem State.issued_vReg (s : State) (g r l : Nat) : ((s.issued g).gang g).vReg r l = (s.gang g).vReg r l := by
  simp [Gang.vReg]

/-! ### Miss registers -/

/-- The miss registers are reached by loads and returns alone. -/
theorem State.mem_miss_of_mem {s t : State} (h : t.mem = s.mem) : t.mem.miss = s.mem.miss := congrArg Mem.miss h

@[simp] theorem State.unitLost_miss (u unit : Nat) (s : State) : (s.unitLost u unit).mem.miss = s.mem.miss := by
  simp [State.unitLost, Mem.poisonAt]

@[simp] theorem State.granuleError_miss (g : Nat) (unc : Bool) (s : State) : (s.granuleError g unc).mem.miss = s.mem.miss := by
  unfold State.granuleError
  dsimp only
  split_ifs <;> simp

@[simp] theorem State.unitError_miss (u : Nat) (unc : Bool) (s : State) : (s.unitError u unc).mem.miss = s.mem.miss := by
  unfold State.unitError
  dsimp only
  split
  · rfl
  · split_ifs
    · simp
    · simp
    · simp
    · split <;> simp [State.macroLost]

@[simp] theorem State.meetEcc_miss (ecc : EccErrs) (l : List (Nat × Nat)) (s : State) :
    (s.meetEcc ecc l).mem.miss = s.mem.miss :=
  foldl_keeps (fun t => t.mem.miss) _ (fun t e => by simp) _ _

@[simp] theorem State.meetEccVa_miss (c va n : Nat) (ecc : EccErrs) (s : State) :
    (s.meetEccVa c va n ecc).mem.miss = s.mem.miss := by
  unfold State.meetEccVa
  split <;> simp

@[simp] theorem State.ltMerge_miss (d off : Nat) (l : List (Byte × Bool)) (s : State) :
    (s.ltMerge d off l).mem.miss = s.mem.miss := by
  unfold State.ltMerge
  dsimp only
  generalize ite (off = 0 ∧ 64 ≤ l.length) _ _ = old
  cases old with
  | none => rfl
  | some o =>
    simp only [State.onMem_mem]
    split <;> rfl

@[simp] theorem State.flushBlock_miss (d : Nat) (s : State) : (s.flushBlock d).mem.miss = s.mem.miss :=
  foldl_keeps (fun t => t.mem.miss) _ (fun t w => by simp) _ _

@[simp] theorem State.settleLighter_miss (c va n : Nat) (s : State) : (s.settleLighter c va n).mem.miss = s.mem.miss :=
  foldl_keeps (fun t => t.mem.miss) _ (fun t x => by
    split
    · exact foldl_keeps (fun t => t.mem.miss) _ (fun t i => by simp) _ _
    · rfl) _ _

@[simp] theorem State.logMalformed_mem (c va n : Nat) (tag : Word) (s : State) : (s.logMalformed c va n tag).mem = s.mem :=
  foldl_keeps State.mem _ (fun t x => by
    split
    · exact foldl_keeps State.mem _ (fun t i => by split <;> simp) _ _
    · rfl) _ _

@[simp] theorem State.meetLighter_miss (c va n : Nat) (tag : Word) (s : State) :
    (s.meetLighter c va n tag).mem.miss = s.mem.miss := by
  simp [State.meetLighter]

@[simp] theorem State.nearFill_miss (core : Nat) (mask : DWord) (e : NearLine) (s : State) :
    (s.nearFill core mask e).mem.miss = s.mem.miss := by
  unfold State.nearFill
  split <;> rfl

@[simp] theorem State.give_mem (x : MissLoad) (l : List (Byte × Bool)) (s : State) : (s.give x l).mem = s.mem := by
  unfold State.give
  split
  · split <;> simp
  · simp
  · dsimp only
    split
    · unfold State.endLt
      dsimp only
      split
      · rw [foldl_keeps State.mem _ fun t a => State.putNarrow_mem ..]
        simp
      · simp
    · simp

/-! ### Fences -/

theorem State.drainEntry_besidesMemory (e : Comb) (bad : Byte) (s : State) :
    (s.drainEntry e bad).besidesMemory = s.besidesMemory := by
  unfold State.drainEntry
  refine (foldl_keeps State.besidesMemory _ (fun t r => State.writeVa_besidesMemory ..) _ _).trans ?_
  exact foldl_keeps State.besidesMemory _ (fun t x => by split <;> rfl) _ _

theorem State.drainComb_besidesMemory (core : Nat) (p : Comb → Bool) (s : State) :
    (s.drainComb core p).besidesMemory = s.besidesMemory := by
  unfold State.drainComb
  exact foldl_keeps State.besidesMemory _ (fun t e => State.drainEntry_besidesMemory ..) _ _

/-- A fence changes nothing beside memory (R308). -/
theorem State.fenceOps_besidesMemory (g : Nat) (s : State) : (s.fenceOps g).besidesMemory = s.besidesMemory :=
  (State.drainComb_besidesMemory ..).trans
    (congrArg (fun t => { t with out := [] }) (State.release_outsideMemory g s))

@[simp] theorem State.fenceOps_launchOf (g k : Nat) (s : State) : (s.fenceOps g).launchOf k = s.launchOf k :=
  (congrArg (fun t => t.launchOf k) (State.fenceOps_besidesMemory g s) :)

/-- After an acquire the core holds no line of the gang's context (R298). -/
theorem State.acquire_near {g : Nat} {s : State} {e : Nat × NearLine} (he : e ∈ (s.acquire g).mem.near)
    (hcore : e.1 / 64 = gCore g) : e.2.ctx ≠ (s.launchOf g).ctx := by
  have hkeep := (List.mem_filter.mp he).2
  simpa [hcore] using hkeep

/-- Settles O32: an access by its checks, all of which pass or of which the first fails, and then by what it runs. -/
theorem memoryInstructions : Obligations.MemoryInstructions := by
  unfold Obligations.MemoryInstructions
  refine ⟨?load, ?tile, ?lighter, ?give, ?data, ?store, ?storeLighter, ?align, ?fence, ?acquire⟩
  case load =>
    intro s g vd va n sg host xs hissue hxs hn hva hvd hok
    subst hxs
    refine ⟨fun hheld => ?_, fun hheld hsg => ?_, fun hheld => ?_⟩
    · exact congrArg done (State.laneLoad_run hissue hn hva hvd hok hheld)
    · subst hsg
      exact congrArg done (State.laneLoad_run hissue hn hva hvd hok hheld)
    · exact congrArg done (State.laneLoad_run hissue hn hva hvd hok hheld)
  case tile =>
    intro s g r va n host xs hissue hxs hn hva hr hloc hok hheld
    subst hxs
    refine congrArg done (State.load_run hissue (fun c hc => ?_) (State.laneLoads_pass hn hok) hheld)
    simp only [State.issued_vOk, State.issued_localOk, State.issued_lanes, State.issued_vReg] at hc
    rcases List.mem_append.mp hc with hc | hc
    · simp only [List.mem_cons, List.not_mem_nil, or_false] at hc
      rcases hc with rfl | rfl | rfl
      · exact lenOk_pass hn
      · exact decide_eq_true hva
      · exact decide_eq_true hr
    · obtain ⟨p, hp, hc⟩ := List.mem_flatten.mp hc
      obtain ⟨l, hl, rfl⟩ := List.mem_map.mp hp
      obtain ⟨halign, hfits⟩ := hloc l hl
      have hmax : max 1 n = n := by omega
      simp only [List.mem_cons, List.not_mem_nil, or_false] at hc
      rcases hc with rfl | rfl
      · simp [alignOk, hmax, halign]
      · exact decide_eq_true hfits
  case lighter =>
    intro s g vd ua a host hissue hua hvd ha halign hok hheld
    have hpass : firstFault ([uOk ua 2, s.vOk g vd 1, alignOk a 16] ++ (s.accessOk g a 48 .read host.refused).drop 1) = none :=
      firstFault_eq_none.mpr fun c hc => by
        rcases List.mem_append.mp hc with hc | hc
        · simp only [List.mem_cons, List.not_mem_nil, or_false] at hc
          rcases hc with rfl | rfl | rfl
          · exact decide_eq_true hua
          · exact decide_eq_true hvd
          · simp [alignOk, halign]
        · exact State.accessOk_drop_pass hok c hc
    change execLdLt g vd ua host s = _
    unfold execLdLt
    simp only [ha, hheld, Bool.and_false, Bool.false_eq_true, if_false]
    rw [State.instr_run _ _ _ _ hissue (by simpa only [State.issued_vOk, State.issued_accessOk] using hpass)]
    rfl
  case give =>
    intro s x r sg l hdst hlen hclean
    have hnone : l.any Prod.snd = false := List.any_eq_false.mpr fun b hb => by simp [hclean b hb]
    have hshort : x.len ≠ 8 := by omega
    simp only [State.give, hdst, hnone, Bool.false_eq_true, if_false, State.gang_onGang_self, if_neg hshort, Gang.vReg_setV_self]
  case data =>
    intro s c r m host hr hm hawake htrip hkept hok
    have hgo : ¬ (32 ≤ r ∨ (!s.awake) = true ∨ s.tw.tripped = true ∨ s.vaKept m.ctx (m.line * 512) 512 false = true) := by
      simp [hawake, htrip, hkept]
      omega
    refine ⟨_, rfl, ?_⟩
    simp only [hm, if_neg hgo, hok]
    rw [foldl_keeps (fun t => t.mem.miss) _ fun t x => by simp, foldl_keeps (fun t => t.mem.miss) _ fun t k => by split <;> simp]
    simp
  case store =>
    intro s g va vs n ecc hissue hn hva hvs hlanes
    have hpass : firstFault ([lenOk n, s.vOk g va 2, s.vOk g vs (regsFor n)] ++
        ((s.gang g).lanes.map fun l => s.accessOk g ((s.gang g).va va l) n .write false).flatten) = none :=
      firstFault_eq_none.mpr fun c hc => by
        rcases List.mem_append.mp hc with hc | hc
        · simp only [List.mem_cons, List.not_mem_nil, or_false] at hc
          rcases hc with rfl | rfl | rfl
          · exact lenOk_pass hn
          · exact decide_eq_true hva
          · exact decide_eq_true hvs
        · obtain ⟨p, hp, hc⟩ := List.mem_flatten.mp hc
          obtain ⟨l, hl, rfl⟩ := List.mem_map.mp hp
          obtain ⟨halign, hok, -⟩ := hlanes l hl
          exact State.accessOk_pass (by omega) halign hok c hc
    have hkept : (s.gang g).lanes.any (fun l => s.vaKept (s.launchOf g).ctx ((s.gang g).va va l) n true) = false :=
      List.any_eq_false.mpr fun l hl => by simp [(hlanes l hl).2.2]
    change execSt g va vs ⟨n, ecc⟩ s = _
    unfold execSt
    simp only [hkept, Bool.and_false, Bool.false_eq_true, if_false]
    rw [State.instr_run _ _ _ _ hissue (by simpa only [State.issued_vOk, State.issued_accessOk] using hpass)]
    rfl
  case storeLighter =>
    intro s g ua vs a b hissue hua hvs ha halign hok hprot hkept hb
    have hpass : firstFault ([uOk ua 2, s.vOk g vs 1, alignOk a 16] ++ (s.accessOk g a 48 .write false).drop 1 ++
        [(!false, 9, a)]) = none :=
      firstFault_eq_none.mpr fun c hc => by
        rcases List.mem_append.mp hc with hc | hc
        · rcases List.mem_append.mp hc with hc | hc
          · simp only [List.mem_cons, List.not_mem_nil, or_false] at hc
            rcases hc with rfl | rfl | rfl
            · exact decide_eq_true hua
            · exact decide_eq_true hvs
            · simp [alignOk, halign]
          · exact State.accessOk_drop_pass hok c hc
        · simp only [List.mem_singleton] at hc
          rw [hc]
          rfl
    change execStLt g ua vs s = _
    unfold execStLt
    simp only [ha, hprot, hkept, Bool.and_false, Bool.false_eq_true, if_false]
    rw [State.instr_run _ _ _ _ hissue (by simpa only [State.issued_vOk, State.issued_accessOk] using hpass)]
    simp only [hb]
    rfl
  case align =>
    intro s g va vs n l r ecc hissue hn hva hvs hlanes hbad
    have hmax : max 1 n = n := by omega
    have hpre : firstFault ([lenOk n, s.vOk g va 2, s.vOk g vs (regsFor n)] ++
        ((s.gang g).lanes.map fun l => s.accessOk g ((s.gang g).va va l) n .write false).flatten) =
        some (3, (s.gang g).va va l) := by
      obtain ⟨h1, h2⟩ : (lenOk n).1 = true ∧ lenOk n = ((lenOk n).1, 1, 0) := ⟨lenOk_pass hn, rfl⟩
      rw [hlanes, List.map_cons, List.flatten_cons, h2, h1]
      simp [State.vOk, hva, hvs, State.accessOk, alignOk, hmax, hbad]
    change execSt g va vs ⟨n, ecc⟩ s = _
    unfold execSt
    simp only [hpre, Option.isNone_some, Bool.false_and, Bool.false_eq_true, if_false]
    rw [State.instr_fault _ _ _ _ 3 ((s.gang g).va va l) hissue (by simpa only [State.issued_vOk, State.issued_accessOk] using hpre)]
    rfl
  case fence =>
    intro s g hissue
    exact ⟨congrArg done (State.instr_run _ _ _ _ hissue rfl), congrArg done (State.instr_run _ _ _ _ hissue rfl)⟩
  case acquire =>
    intro s g c hissue hc
    have hacquire : ∀ e ∈ (((s.issued g).fenceOps g).acquire g).mem.near, e.1 / 64 = gCore g → e.2.ctx ≠ (s.launchOf g).ctx :=
      fun e he hcore => by simpa using State.acquire_near he hcore
    refine ⟨((s.issued g).fenceOps g).acquire g, ?_, hacquire⟩
    rcases hc with rfl | rfl
    · exact congrArg done (State.instr_run _ _ _ _ hissue rfl)
    · exact congrArg done (State.instr_run _ _ _ _ hissue rfl)

end Sys2Proof.Machine
end

section
/-! PROOFS. Control flow: branches, joins, exits, traps, and the end of a context's and a block's work. -/

namespace Sys2Proof.Machine

open Sys2Proof

/-- The lanes that a branch takes, where some do and some do not. -/
theorem Gang.bra_divergent {x : Gang} {p : Nat} {w : Word} (lb : Nat) (hw : x.pReg p &&& x.active = w) (h0 : w ≠ 0)
    (ha : w ≠ x.active) :
    x.bra p lb = { x with active := w, stack := { label := lb, all := x.active, rest := x.active &&& ~~~w } :: x.stack } := by
  simp only [Gang.bra, hw]
  exact if_neg (not_or.mpr ⟨h0, ha⟩)

theorem Gang.bra_uniform {x : Gang} {p : Nat} (lb : Nat)
    (h : x.pReg p &&& x.active = 0 ∨ x.pReg p &&& x.active = x.active) : x.bra p lb = x := if_pos h

theorem Gang.diverges_of_uniform {x : Gang} {p : Nat}
    (h : x.pReg p &&& x.active = 0 ∨ x.pReg p &&& x.active = x.active) : x.diverges p = false := by
  rcases h with h | h <;> simp [Gang.diverges, h]

theorem Gang.diverges_of_divergent {x : Gang} {p : Nat} {w : Word} (hw : x.pReg p &&& x.active = w) (h0 : w ≠ 0)
    (ha : w ≠ x.active) : x.diverges p = true := by
  simp only [Gang.diverges, hw, Bool.and_eq_true, bne_iff_ne]
  exact ⟨h0, ha⟩

/-- A gang has other lanes left to run, or all that the divergence began with and that have not exited. -/
theorem Gang.join_rest {x : Gang} {r : Reconv} {l : List Reconv} (hs : x.stack = r :: l) (hr : r.rest ≠ 0) :
    x.join r.label = { x with active := r.rest, stack := { r with rest := 0 } :: l } := by
  simp only [Gang.join, hs]
  rw [if_neg (not_not_intro rfl), if_pos hr]

theorem Gang.join_all {x : Gang} {r : Reconv} {l : List Reconv} (hs : x.stack = r :: l) (hr : r.rest = 0) :
    x.join r.label = { x with active := r.all &&& ~~~x.exited, stack := l } := by
  simp only [Gang.join, hs]
  rw [if_neg (not_not_intro rfl), if_neg (not_not_intro hr)]

theorem Gang.join_v (lb : Nat) (x : Gang) : (x.join lb).v = x.v := by
  unfold Gang.join; repeat' split
  all_goals rfl

theorem Tab.drop_drop {α : Type} (t : Tab α) (k : Nat) : (t.drop k).drop k = t.drop k := by
  induction t with
  | nil => rfl
  | cons e r ih =>
    by_cases h : e.1 = k
    · simp [Tab.drop, h, ih]
    · simp [Tab.drop, h, ih]

theorem Tab.ins_ins {α : Type} (t : Tab α) (k : Nat) (v w : α) : (t.ins k v).ins k w = t.ins k w := by
  induction t with
  | nil => simp [Tab.ins]
  | cons e r ih =>
    obtain ⟨i, a⟩ := e
    by_cases h : k < i
    · simp [Tab.ins, h]
    · by_cases e : k = i
      · simp [Tab.ins, e]
      · simp [Tab.ins, h, e, ih]

/-- To write what an entry holds changes nothing. -/
theorem Tab.put_put {α : Type} [DecidableEq α] (t : Tab α) (k : Nat) (d v : α) : (t.put k d v).put k d v = t.put k d v := by
  by_cases h : v = d
  · simp [Tab.put, h, Tab.drop_drop]
  · simp [Tab.put, h, Tab.ins_ins]

/-- A change that leaves the gang that issued as it is changes nothing. -/
theorem State.onGang_issued_same {s : State} {g : Nat} {f : Gang → Gang}
    (h : f { s.gang g with issued := true } = { s.gang g with issued := true }) : (s.issued g).onGang g f = s.issued g := by
  have e : (s.issued g).core.gang.upd g {} f = (s.issued g).core.gang :=
    calc (s.issued g).core.gang.upd g {} f = (s.issued g).core.gang.put g {} (f ((s.issued g).gang g)) := rfl
      _ = (s.issued g).core.gang.put g {} { s.gang g with issued := true } := by rw [State.issued_gang, h]
      _ = (s.issued g).core.gang := Tab.put_put ..
  exact congrArg (fun x => { s.issued g with core := { (s.issued g).core with gang := x } }) e

/-- A live context that is killed. -/
theorem State.kill_live {s : State} {c : Nat} (code g : Nat) (l : Option Nat) (h : (s.ctx c).st = .live) :
    ((s.kill c code g l).ctx c).st = .killed ∧ ((s.kill c code g l).ctx c).fault = some (code, gCore g) := by
  simp only [State.kill, h, if_true, State.ctx_onCtx_self, and_self]

/-- Settles O35: each instruction's change of its gang, read at the gang. -/
theorem controlInstructions : Obligations.ControlInstructions := by
  unfold Obligations.ControlInstructions
  refine ⟨?uniform, ?divergent, ?deep, ?join, ?exit, ?trap, ?stop, ?flags⟩
  case uniform =>
    intro s g p lb hissue hp hu
    have hd : Gang.diverges p { s.gang g with issued := true } = false := Gang.diverges_of_uniform (x := { s.gang g with issued := true }) hu
    change done _ = _
    rw [State.instr_run _ _ _ _ hissue (by simp [pOk, hp, hd]),
      State.onGang_issued_same (Gang.bra_uniform (x := { s.gang g with issued := true }) lb hu)]
    rfl
  case divergent =>
    intro s g p lb w hissue hp hw h0 ha hdepth
    refine ⟨(s.issued g).onGang g (Gang.bra p lb), ?ran, ?active, ?stack, ?v, ?u, rfl⟩
    case ran =>
      change done _ = _
      rw [State.instr_run _ _ _ _ hissue (by simp [pOk, hp, Nat.not_le.mpr hdepth])]
      rfl
    all_goals
      rw [State.gang_onGang_self, State.issued_gang, Gang.bra_divergent (x := { s.gang g with issued := true }) lb hw h0 ha]
  case deep =>
    intro s g p lb w hissue hp hw h0 ha hdepth
    change done _ = _
    rw [State.instr_fault _ _ _ _ 8 0 hissue
      (by simp [pOk, hp, hdepth, Gang.diverges_of_divergent (x := { s.gang g with issued := true }) hw h0 ha])]
    rfl
  case join =>
    intro s g lb r l hissue hs hlb
    subst hlb
    refine ⟨(s.issued g).onGang g (Gang.join r.label), ?joined, ?rest, ?all, ?vj, rfl⟩
    case joined =>
      change done _ = _
      rw [State.instr_run _ _ _ _ hissue rfl]
      rfl
    case rest =>
      intro hr
      rw [State.gang_onGang_self, State.issued_gang, Gang.join_rest (by exact hs) hr]
      exact ⟨rfl, rfl⟩
    case all =>
      intro hr
      rw [State.gang_onGang_self, State.issued_gang, Gang.join_all (by exact hs) hr]
      exact ⟨rfl, rfl⟩
    case vj => rw [State.gang_onGang_self, State.issued_gang, Gang.join_v]
  case exit =>
    intro s g a l hissue hmma hpop ha
    refine ⟨(s.issued g).onGang g fun x => { x with exited := (s.gang g).exited ||| (s.gang g).active, active := a, stack := l },
      ?left, by simp, by simp, by simp⟩
    case left =>
      change done _ = _
      rw [if_neg (by simp [hmma]), State.issue_run _ _ _ hissue]
      simp only [State.issued_gang, hpop, State.gang_onGang_self, Gang.ended]
      rw [if_neg (by simp only [Bool.and_eq_true, beq_iff_eq]; exact fun h => ha h.1)]
      rfl
  case trap =>
    intro s g hissue hlive
    refine ⟨(s.issued g).gangFault g 0xD 0, ?trapped, ?killed⟩
    case trapped =>
      change done _ = _
      rw [State.issue_run _ _ _ hissue]
      rfl
    case killed =>
      have hn : (s.issued g).launch ((s.issued g).blk ((s.issued g).gang g).block).launch = s.launchOf g :=
        State.issued_launchOf s g g
      have hc : ∀ n a x, (((s.issued g).logFault g n 0xD a x).ctx (s.launchOf g).ctx).st = .live := fun n a x => by
        rw [← hlive]; simp [State.ctx]
      simp only [State.gangFault, hn]
      exact State.kill_live _ _ _ (hc ..)
  case stop =>
    intro s c hk hs
    change done _ = _
    rw [if_pos (by simp [hk, hs])]
    rfl
  case flags =>
    intro s b hb hx hr hl
    refine ⟨s.onLaunch (s.blk b).launch fun l => { l with flags := l.flags ||| (s.blk b).flags }, ?combined, ?flagsOf, rfl⟩
    case combined =>
      change done _ = _
      simp only [hb, hx, hr, hl, Bool.and_self, Bool.not_false, if_true]
      rfl
    case flagsOf => simp

end Sys2Proof.Machine
end

section
/-! PROOFS. The chandler. -/

namespace Sys2Proof.Machine

open Sys2Proof

@[simp] theorem Gang.uPair_setPair_self (x : Gang) (r : Nat) (v : DWord) : (x.setPair r v).uPair r = v := by
  have hlo : (x.setPair r v).uReg r = v.setWidth 32 := by
    rw [Gang.setPair, Gang.uReg_setU_ne (by omega), Gang.uReg_setU_self]
  have hhi : (x.setPair r v).uReg (r + 1) = BitVec.ofNat 32 (v.toNat / 2 ^ 32) := Gang.uReg_setU_self ..
  have hv := v.isLt
  rw [Gang.uPair, hlo, hhi]
  refine BitVec.eq_of_toNat_eq ?_
  simp only [BitVec.toNat_ofNat, BitVec.toNat_setWidth]
  omega

theorem State.loseStatus_objAt (g k : Nat) (s : State) : ((s.issued g).loseStatus g).objAt k = s.objAt k := rfl
theorem State.loseStatus_chdAt (g p va : Nat) (s : State) : ((s.issued g).loseStatus g).chdAt p va = s.chdAt p va := by
  unfold State.chdAt
  rfl
theorem State.issued_chdAt (g p va : Nat) (s : State) : (s.issued g).chdAt p va = s.chdAt p va := rfl
theorem Gang.issued_uPair (x : Gang) (r : Nat) : Gang.uPair { x with issued := true } r = x.uPair r := rfl

theorem State.objAt_onGang (g k : Nat) (f : Gang → Gang) (s : State) : (s.onGang g f).objAt k = s.objAt k := rfl

@[simp] theorem State.newObj_kind (k : Nat) (kind : ObjKind) (body : ObjBody) (n : Word) (s : State) :
    ((s.newObj k kind body n).objAt k).kind = kind := by simp [State.newObj, Obj.setCount]

/-- A reference that is given back to a whole, counted object takes one off its count. -/
theorem State.releaseRef_counts {s : State} {k : Nat} {f : Obj → Obj} {tag : Word} (hf : (s.objAt k).frozen = false)
    (hp : (s.objAt k).pairOk = true) (hc : (s.objAt k).count ≠ 0) :
    s.releaseRef k f tag = (s.onObjAt k fun o => (f o).setCount ((s.objAt k).count - 1), .count ((s.objAt k).count - 1)) := by
  simp only [State.releaseRef, hf, hp, Bool.not_true, if_neg hc]
  rfl

/-- The VA of an allocation that `chd.free` may not release. -/
theorem chdFree_fault {s : State} {g us k f : Nat} (hissue : s.canIssue g = true) (hus : us + 2 ≤ 64)
    (hva : (s.gang g).uPair us ≠ 0) (hat : s.chdAt (s.launchOf g).part ((s.gang g).uPair us).toNat = some (k, f))
    (hc : (s.objAt k).creation = false) :
    exec (.chdFree g us) s = .next ((s.issued g).gangFault g 0xA ((s.gang g).uPair us)).settle := by
  have h0 : (((s.gang g).uPair us).toNat == 0) = false := by
    rw [beq_eq_false_iff_ne]; exact fun h => hva (BitVec.eq_of_toNat_eq h)
  change done _ = _
  rw [State.instr_fault _ _ _ _ 0xA ((s.gang g).uPair us).toNat hissue
    (by simp only [hat, hc, h0, uOk, firstFault_cons, Bool.and_false, Bool.false_and, Bool.or_false, decide_eq_true hus]; rfl)]
  rw [BitVec.ofNat_toNat, BitVec.setWidth_eq]
  rfl

/-- Settles O37: each instruction's run, read at the object and the gang it changes. -/
theorem chandlerInstructions : Obligations.ChandlerInstructions := by
  unfold Obligations.ChandlerInstructions
  refine ⟨?alloc, ?null, ?freeNull, ?free, fun s g us k f hi hus hva hat hc => chdFree_fault hi hus hva hat hc, ?handle, ?noHandle⟩
  case alloc =>
    intro s g ud us d i n hissue hud hus hn hlo hhi hplace hfree
    refine ⟨(((s.issued g).loseStatus g).newObj (objKey (s.launchOf g).part i) .memory
      (.memory 0 d ((n + 255) / 256 * 256) (sliceOf (gCore g)) true (s.launchOf g).ctx) 1).onGang g
      (Gang.setPair ud (BitVec.ofNat 64 (chdWindow (sliceOf (gCore g)) +
        (d - (hbmBase (sliceOf (gCore g)) + ((s.obj.pool.find (sliceOf (gCore g))).map Prod.fst).getD 0))))), ?allocated, ?kind⟩
    case allocated =>
      change done _ = _
      rw [State.instr_run _ _ _ _ hissue (by simp [uOk, hud]; omega)]
      simp only [State.issued_gang, State.issued_launchOf]
      rw [show Gang.uReg { s.gang g with issued := true } us = (s.gang g).uReg us from rfl,
        hn, if_pos ⟨hlo, hhi⟩, hplace, hfree]
      rfl
    case kind =>
      refine ⟨?_, ?_⟩
      · rw [State.objAt_onGang, State.newObj_kind]
      · rw [State.gang_onGang_self, Gang.uPair_setPair_self]
  case null =>
    intro s g ud us hissue hud hus hn
    refine ⟨(((s.issued g).loseStatus g).logOcc { event := 0xA05, sev := 0, part := some (s.launchOf g).part, tag := ((s.issued g).loseStatus g).gangTag g, unit := gCore g }).onGang g (Gang.setPair ud 0), ?none, by simp, by simp⟩
    case none =>
      change done _ = _
      rw [State.instr_run _ _ _ _ hissue (by simp [uOk, hud]; omega)]
      simp only [State.issued_gang, State.issued_launchOf]
      rw [if_neg (fun h => absurd h.1 (Nat.not_le.mpr hn))]
      rfl
  case freeNull =>
    intro s g us hissue hus hva
    have hnone : s.chdAt (s.launchOf g).part ((s.gang g).uPair us).toNat = none := by simp [hva, State.chdAt_null]
    change done _ = _
    rw [State.instr_run _ _ _ _ hissue (by simp [uOk, hus, hva])]
    simp only [State.loseStatus_chdAt, hnone]
    rfl
  case free =>
    intro s g us k t d n sl b hissue hus hat hbody hcr hfz hpair hcount
    refine ⟨((s.issued g).loseStatus g).onObjAt k fun o => ({ o with creation := false } : Obj).setCount ((s.objAt k).count - 1),
      ?freed, ?count, ?creation, ?others, by simp⟩
    case freed =>
      change done _ = _
      rw [State.instr_run _ _ _ _ hissue (by simp [uOk, hus, hat, hcr, hbody])]
      simp only [State.loseStatus_chdAt, hat]
      rw [State.loseStatus_objAt, if_neg (ne_true_of_eq_false hfz), State.releaseRef_counts (by rw [State.loseStatus_objAt, hfz])
        (by rw [State.loseStatus_objAt, hpair]) (by rw [State.loseStatus_objAt]; exact hcount), State.loseStatus_objAt]
      rfl
    case count => simp only [State.objAt_onObjAt_self, Obj.setCount]
    case creation => simp only [State.objAt_onObjAt_self, Obj.setCount]
    case others => exact fun j hj => (State.objAt_onObjAt_ne _ _ _ _ hj).trans (State.loseStatus_objAt ..)
  case handle =>
    intro s g ud us k f hissue hud hus hat
    refine ⟨(s.issued g).onGang g (Gang.setPair ud (BitVec.ofNat 64 (s.handleOf k))), ?handed, by simp, rfl⟩
    case handed =>
      change done _ = _
      rw [State.instr_run _ _ _ _ hissue (by simp [uOk, hud, hus])]
      simp only [State.issued_gang, State.issued_launchOf, Gang.issued_uPair, State.issued_chdAt, hat]
      rfl
  case noHandle =>
    intro s g ud us hissue hud hus hat
    refine ⟨(s.issued g).onGang g (Gang.setPair ud 0), ?zeroed, by simp⟩
    case zeroed =>
      change done _ = _
      rw [State.instr_run _ _ _ _ hissue (by simp [uOk, hud, hus])]
      simp only [State.issued_gang, State.issued_launchOf, Gang.issued_uPair, State.issued_chdAt, hat]
      rfl

end Sys2Proof.Machine
end

section
/-! PROOFS. Barriers and the mover. -/

namespace Sys2Proof.Machine

open Sys2Proof

/-- A barrier is not open while one of its gangs still runs. -/
theorem State.openBar_waits {s : State} {gs : List Nat} {w : GangWait → Bool} {g : Nat} (hg : g ∈ gs)
    (hr : (s.gang g).ended = false) (hw : w (s.gang g).wait = false) : s.openBar gs w = s := by
  refine if_neg fun h => ?_
  have := List.all_eq_true.mp h g hg
  rw [hr, hw] at this
  exact Bool.noConfusion this

theorem State.resume_gang_self (ok : Bool) (g : Nat) (s : State) :
    (s.resume ok g).gang g = { ((s.gang g).setResult (s.gang g).wait.pred ok) with wait := .ready } := by
  simp [State.resume]

theorem State.resume_gang_ne {g h : Nat} (ok : Bool) (s : State) (hh : h ≠ g) : (s.resume ok g).gang h = s.gang h :=
  State.gang_onGang_ne _ _ _ _ hh

/-- A barrier of two gangs that have both arrived lets both go on. -/
theorem State.openBar_pair {s : State} {g h : Nat} {w : GangWait → Bool} (hne : g ≠ h) (hg : w (s.gang g).wait = true)
    (hh : w (s.gang h).wait = true) :
    ((s.openBar [g, h] w).gang g).wait = .ready ∧ ((s.openBar [g, h] w).gang h).wait = .ready := by
  have hall : s.allAt [g, h] w = true := by simp [State.allAt, hg, hh]
  have hh' : w ((s.resume true g).gang h).wait = true := by rw [State.resume_gang_ne _ _ hne.symm, hh]
  have e : s.openBar [g, h] w = (s.resume true g).resume true h := by
    simp only [State.openBar, hall, if_true, List.foldl_cons, List.foldl_nil, hg, hh']
  rw [e, State.resume_gang_ne _ _ hne, State.resume_gang_self, State.resume_gang_self]
  exact ⟨rfl, rfl⟩

/-- What `mov.start` leaves of a valid descriptor: the transfer at the queue's end, and its ticket in the register. -/
def State.movQueued (g ud : Nat) (d : MoverDesc) (s : State) : State :=
  let t := s.fresh.2
  let k := t.newTicket (gCore g) (s.fresh.1.setWidth 32)
  (t.onCoreAt (gCore g) fun c => { c with mover := c.mover ++ [.desc g (t.blockOf g) (t.blk (t.blockOf g)).launch k d] }).onGang g
    (Gang.setU ud k)

theorem State.movQueued_mover (g ud : Nat) (d : MoverDesc) (s : State) :
    ((s.movQueued g ud d).coreAt (gCore g)).mover = (s.coreAt (gCore g)).mover ++
      [.desc g (s.blockOf g) (s.blk (s.blockOf g)).launch (((s.movQueued g ud d).gang g).uReg ud) d] := by
  have hk : ((s.movQueued g ud d).gang g).uReg ud = s.fresh.2.newTicket (gCore g) (s.fresh.1.setWidth 32) := by
    rw [State.movQueued, State.gang_onGang_self, Gang.uReg_setU_self]
  have hc : ∀ (t : State) (f : Gang → Gang), (t.onGang g f).coreAt (gCore g) = t.coreAt (gCore g) := fun _ _ => rfl
  rw [hk, State.movQueued, hc, State.coreAt_onCoreAt_self]
  rfl

/-- Settles O36: each instruction's run, and the barrier's opening gang by gang. -/
theorem barrierAndMoverInstructions : Obligations.BarrierAndMoverInstructions := by
  unfold Obligations.BarrierAndMoverInstructions
  refine ⟨?block, ?cluster, ?notYet, ?opens, ?timeout, ?start, ?wait, ?moves, ?fault⟩
  case block =>
    intro s t g p ut hissue hp hut ht
    subst ht
    change done _ = _
    rw [State.instr_run _ _ _ _ hissue (by simp [pOk, uOk, hp]; omega)]
    rfl
  case cluster =>
    intro s t g p ut hissue hp hut ht
    subst ht
    change done _ = _
    rw [State.instr_run _ _ _ _ hissue (by simp [pOk, uOk, hp]; omega)]
    rfl
  case notYet =>
    intro s g h d p hgs hne hg hh hr
    rw [hgs, State.openBar_waits (g := h) (by simp) hr (by rw [hh]; rfl), hg]
  case opens =>
    intro s g h d e p r hgs hne hg hh
    rw [hgs]
    exact State.openBar_pair hne (by rw [hg]; rfl) (by rw [hh]; rfl)
  case timeout =>
    intro s g d p hw hd hl hp
    refine ⟨s.resume false g, ?resumed, ?ready, ?false⟩
    case resumed =>
      change done _ = _
      simp only [hw, GangWait.deadline, hd, hl, decide_true, Bool.and_self, if_true]
      rfl
    all_goals rw [State.resume_gang_self, hw]
    case false => simp [GangWait.pred, Gang.setResult, Gang.setFlag, Gang.pReg, Gang.setP, hp]
  case start =>
    intro s g ud us d hissue hud hus hloc hclean hd hroom
    have hcl : ((s.localRead (s.gang g).block ((s.gang g).uReg us).toNat 32).any Prod.snd) = false :=
      List.any_eq_false.mpr fun b hb => ne_true_of_eq_false (hclean b hb)
    have hfull : decide (16 ≤ ((s.coreAt (gCore g)).mover.filter MovWork.isDesc).length) = false :=
      decide_eq_false (Nat.not_le.mpr hroom)
    by_cases hok : d.ok = true ∧ d.dims.length ≤ 3
    · refine ⟨(s.issued g).movQueued g ud d, ?queued, ?mover, ?notFaulty⟩
      case queued =>
        change execMovStart g ud us s = _
        simp only [execMovStart, hfull, Bool.and_false]
        rw [if_neg Bool.false_ne_true, State.instr_run _ _ _ _ hissue
          (by simp [uOk, hud, hus, State.localOk, State.localClean, hloc, hcl, hd, hok.1, hok.2]), hd]
        rfl
      case mover =>
        intro _ _
        have hl : ((s.issued g).blk (s.blockOf g)).launch = (s.blk (s.blockOf g)).launch := by rw [State.issued_blk]; split <;> rfl
        rw [State.movQueued_mover, State.issued_core, State.issued_blockOf, hl]
        rfl
      case notFaulty =>
        rintro (h | h)
        · exact absurd (hok.1.symm.trans h) Bool.noConfusion
        · exact absurd hok.2 (Nat.not_le.mpr h)
    · refine ⟨(s.issued g).gangFault g 0x10 0, ?faulted, fun h1 h2 => absurd ⟨h1, h2⟩ hok, fun _ => rfl⟩
      case faulted =>
        have hbad : (d.ok && decide (d.dims.length ≤ 3)) = false := by
          rw [← Bool.not_eq_true, Bool.and_eq_true, decide_eq_true_iff]; exact hok
        change execMovStart g ud us s = _
        simp only [execMovStart, hfull, Bool.and_false]
        rw [if_neg Bool.false_ne_true, State.instr_fault _ _ _ _ 0x10 0 hissue
          (by simp [uOk, hud, hus, State.localOk, State.localClean, hloc, hcl, hd, hbad])]
        rfl
  case wait =>
    intro s g p us ut hissue hp hus hut
    refine ⟨fun hdone => ⟨(s.issued g).onGang g fun x => x.setFlag p true, ?complete, ?predTrue, ?keepsWait⟩,
      fun hdone => ⟨(s.issued g).onGang g fun x => { x with wait := .mov ((s.gang g).uReg us) ((s.issued g).barDeadline g ut) p },
        ?waits, ?isWaiting⟩⟩
    case complete =>
      change done _ = _
      rw [State.instr_run _ _ _ _ hissue (by simp [pOk, uOk, hp, hus, hut]),
        if_pos (show (s.issued g).ticketDone _ _ = true from hdone)]
      rfl
    case waits =>
      change done _ = _
      rw [State.instr_run _ _ _ _ hissue (by simp [pOk, uOk, hp, hus, hut]),
        if_neg (show ¬ (s.issued g).ticketDone _ _ = true from ne_true_of_eq_false hdone)]
      rfl
    case predTrue =>
      rw [State.gang_onGang_self]
      simp [Gang.setFlag, Gang.pReg, Gang.setP]
    case keepsWait =>
      rw [State.gang_onGang_self, State.issued_gang]
      rfl
    case isWaiting =>
      have hpart : ((s.issued g).launchOf g).part = (s.launchOf g).part := by rw [State.issued_launchOf]
      have hreg : ((s.issued g).gang g).uReg ut = (s.gang g).uReg ut := by rw [State.issued_gang]; rfl
      rw [State.gang_onGang_self, State.barDeadline, hpart, hreg]
      rfl
  case moves =>
    intro s t y c g b n k d r l host hm hl hruns hctx hkept ht hf hy
    subst hl ht hy
    change done _ = _
    simp only [hm, hruns, hctx, hkept, hf, Bool.not_true, Bool.or_self]
    rfl
  case fault =>
    intro s t c g b n code a k d r l host hm hl hruns hctx hkept ht hf
    subst hl ht
    change done _ = _
    simp only [hm, hruns, hctx, hkept, hf, Bool.not_true, Bool.or_self]
    rfl

end Sys2Proof.Machine
end

section
/-! PROOFS. The sync store: what an operation, an answer and the serving of waiters do to the counters and semaphores, and
what the gang that waits for them reads. -/

namespace Sys2Proof.Machine

open Sys2Proof

/-! ### What answers and acquisitions leave alone -/

theorem State.flushAdds_outsideMemory (g : Nat) (s : State) : (s.flushAdds g).outsideMemory = s.outsideMemory :=
  State.applyUntil_outsideMemory ..

@[simp] theorem State.flushAdds_sync (g : Nat) (s : State) : (s.flushAdds g).sync = s.sync :=
  (congrArg State.sync (State.flushAdds_outsideMemory g s) :)

@[simp] theorem State.flushAdds_gang (g k : Nat) (s : State) : (s.flushAdds g).gang k = s.gang k :=
  (congrArg (State.gang · k) (State.flushAdds_outsideMemory g s) :)

@[simp] theorem State.release_gang (g k : Nat) (s : State) : (s.release g).gang k = s.gang k :=
  (congrArg (State.gang · k) (State.release_outsideMemory g s) :)

@[simp] theorem State.gotIt_sync (g : Nat) (tally owned : Bool) (r : SyncRes) (s : State) :
    (s.gotIt g tally owned r).sync = s.sync := by
  unfold State.gotIt
  split_ifs <;> simp

@[simp] theorem State.gotIt_core (g : Nat) (tally owned : Bool) (r : SyncRes) (s : State) :
    (s.gotIt g tally owned r).core = s.core := by
  unfold State.gotIt
  split_ifs <;> simp

@[simp] theorem State.acquired_sync (op : SyncOp) (r : SyncRes) (s : State) : (s.acquired op r).sync = s.sync := by
  unfold State.acquired
  split <;> simp

@[simp] theorem State.acquired_gang (op : SyncOp) (r : SyncRes) (g : Nat) (s : State) :
    (s.acquired op r).gang g = s.gang g := by
  unfold State.acquired
  split <;> simp [State.gang]

@[simp] theorem State.endWaiter_sync (tally : Bool) (w : WaitRec) (r : SyncRes) (v : DWord) (s : State) :
    (s.endWaiter tally w r v).sync = s.sync := by
  unfold State.endWaiter
  split <;> simp

theorem State.tally_congr {s t : State} (h : s.sync = t.sync) (i : Nat) : s.tally i = t.tally i := by
  rw [State.tally, h, State.tally]

theorem State.sem_congr {s t : State} (h : s.sync = t.sync) (i : Nat) : s.sem i = t.sem i := by
  rw [State.sem, h, State.sem]

theorem State.recFree_congr {s t : State} (h : s.sync = t.sync) (op : SyncOp) : s.recFree op = t.recFree op := by
  unfold State.recFree State.recUse
  rw [h]

/-! ### What the gang reads of an answer -/

/-- A gang with the answer of a counter in its registers. -/
def Gang.pairAnswer (u p : Nat) (v : DWord) (good : Bool) (x : Gang) : Gang :=
  (({ x with wait := .ready } : Gang).setPair u v).setResult p good

/-- A gang with the answer of a semaphore in its registers. -/
def Gang.wordAnswer (u p : Nat) (v : Word) (good : Bool) (x : Gang) : Gang :=
  (({ x with wait := .ready } : Gang).setU u v).setResult p good

@[simp] theorem Gang.setResult_u (p : Nat) (b : Bool) (x : Gang) : (x.setResult p b).u = x.u := by
  unfold Gang.setResult
  split <;> rfl

@[simp] theorem Gang.setResult_wait (p : Nat) (b : Bool) (x : Gang) : (x.setResult p b).wait = x.wait := by
  unfold Gang.setResult
  split <;> rfl

theorem Gang.setResult_pReg {p : Nat} (hp : p < 8) (b : Bool) (x : Gang) :
    (x.setResult p b).pReg p = if b then 0xFFFFFFFF else 0 := by
  simp [Gang.setResult, hp, Gang.setFlag, Gang.setP, Gang.pReg]

theorem Gang.pairAnswer_uPair (u p : Nat) (v : DWord) (b : Bool) (x : Gang) : (x.pairAnswer u p v b).uPair u = v := by
  have h : ∀ y : Gang, (y.setResult p b).uPair u = y.uPair u := fun y => by simp only [Gang.uPair, Gang.uReg, Gang.setResult_u]
  exact (h _).trans (Gang.uPair_setPair_self ..)

theorem Gang.pairAnswer_pReg {p : Nat} (hp : p < 8) (u : Nat) (v : DWord) (b : Bool) (x : Gang) :
    (x.pairAnswer u p v b).pReg p = if b then 0xFFFFFFFF else 0 := Gang.setResult_pReg hp ..

theorem Gang.pairAnswer_wait (u p : Nat) (v : DWord) (b : Bool) (x : Gang) : (x.pairAnswer u p v b).wait = .ready :=
  Gang.setResult_wait ..

theorem Gang.wordAnswer_uReg (u p : Nat) (v : Word) (b : Bool) (x : Gang) : (x.wordAnswer u p v b).uReg u = v := by
  simp [Gang.wordAnswer, Gang.uReg, Gang.setU]

theorem Gang.wordAnswer_pReg {p : Nat} (hp : p < 8) (u : Nat) (v : Word) (b : Bool) (x : Gang) :
    (x.wordAnswer u p v b).pReg p = if b then 0xFFFFFFFF else 0 := Gang.setResult_pReg hp ..

theorem State.syncGang_gang_pair {r : SyncRes} (hr : r ≠ .bad) (g u p : Nat) (v : DWord) (s : State) :
    (s.syncGang g true u p r v).gang g = (s.gang g).pairAnswer u p v r.good := by
  simp [State.syncGang, hr, Gang.pairAnswer]

theorem State.syncGang_gang_word {r : SyncRes} (hr : r ≠ .bad) (g u p : Nat) (v : DWord) (s : State) :
    (s.syncGang g false u p r v).gang g = (s.gang g).wordAnswer u p (BitVec.ofNat 32 r.code) r.good := by
  simp [State.syncGang, hr, Gang.wordAnswer]

/-- An answer to a gang that is no fault leaves memory alone. -/
theorem State.answer_mem {op : SyncOp} {g : Nat} {r : SyncRes} (hsrc : op.src = .gang g) (hr : r ≠ .bad) (v : DWord) (s : State) :
    (s.answer op r v).mem = s.mem := by
  simp only [State.answer, hsrc, State.syncGang, if_neg hr]
  split <;> simp

theorem State.answer_gang_pair {op : SyncOp} {g : Nat} {r : SyncRes} (hsrc : op.src = .gang g) (hobj : op.obj < 2 ^ 17)
    (hr : r ≠ .bad) (v : DWord) (s : State) :
    (s.answer op r v).gang g = (s.gang g).pairAnswer op.uReg op.pReg v r.good := by
  simp only [State.answer, hsrc, decide_eq_true hobj, State.syncGang_gang_pair hr]

theorem State.answer_gang_word {op : SyncOp} {g : Nat} {r : SyncRes} (hsrc : op.src = .gang g) (hobj : ¬ op.obj < 2 ^ 17)
    (hr : r ≠ .bad) (v : DWord) (s : State) :
    (s.answer op r v).gang g = (s.gang g).wordAnswer op.uReg op.pReg (BitVec.ofNat 32 r.code) r.good := by
  simp only [State.answer, hsrc, decide_eq_false hobj, State.syncGang_gang_word hr]

/-! ### The operations of the store -/

@[simp] theorem State.countOp_tally (op : SyncOp) (i : Nat) (s : State) : (s.countOp op).tally i = s.tally i := rfl
@[simp] theorem State.countOp_sem (op : SyncOp) (i : Nat) (s : State) : (s.countOp op).sem i = s.sem i := rfl
@[simp] theorem State.countOp_gang (op : SyncOp) (g : Nat) (s : State) : (s.countOp op).gang g = s.gang g := rfl
theorem State.countOp_tallies (op : SyncOp) (s : State) : (s.countOp op).sync.tally = s.sync.tally := rfl
theorem State.countOp_sems (op : SyncOp) (s : State) : (s.countOp op).sync.sem = s.sync.sem := rfl
theorem State.countOp_recFree (op : SyncOp) (s : State) : (s.countOp op).recFree op = s.recFree op := rfl

/-- An operation on a sound counter at whose store nothing waits. -/
theorem State.submit_tally {s : State} {op : SyncOp} (hobj : op.obj < 2 ^ 17) (hidle : ∀ e ∈ s.sync.inbox, e.1 ≠ objDie op.obj)
    (hok : (s.tally op.obj).ok = true) : s.submit op = (s.countOp op).applyTally op := by
  have hok' : ((s.countOp op).tally (op.obj % 2 ^ 17)).ok = true := by rwa [Nat.mod_eq_of_lt hobj]
  exact (State.submit_of_idle hidle).trans ((if_pos hobj).trans (if_pos hok'))

/-- A counter without waiters has none to serve, and none that are late. -/
theorem State.serveTally_idle {s : State} {i : Nat} (hw : (s.tally i).waiters = []) :
    (s.serveTally i).tally i = s.tally i ∧ (s.serveTally i).core = s.core := by
  simp only [State.serveTally, hw, List.filter_nil, List.foldl_nil, State.tally_onTally_self]
  exact ⟨by rw [← hw], rfl⟩

theorem State.expireTally_idle {s : State} {i : Nat} (hw : (s.tally i).waiters = []) :
    (s.expireTally i).tally i = s.tally i ∧ (s.expireTally i).core = s.core := by
  simp only [State.expireTally, hw, List.filter_nil, List.foldl_nil, State.tally_onTally_self]
  exact ⟨by rw [← hw], rfl⟩

/-- An add that a counter holds, with no waiter on it. -/
theorem State.applyTally_add {s : State} {op : SyncOp} {g : Nat} {x : Tally} {v : DWord} (hk : op.kind = .add)
    (hsrc : op.src = .gang g) (hobj : op.obj < 2 ^ 17) (hx : s.tally op.obj = x) (hm : x.mirror = false) (hw : x.waiters = [])
    (hfit : x.value.toNat + op.amount.toNat < 2 ^ 64) (hv : x.value + op.amount = v) :
    (s.applyTally op).tally op.obj = x.set v ∧ (s.applyTally op).gang g = (s.gang g).pairAnswer op.uReg op.pReg v true := by
  subst hx
  obtain ⟨hexpT, hexpC⟩ := State.expireTally_idle hw
  have hstored : ((((s.expireTally op.obj).onTally op.obj (Tally.set v)).answer op .ok v).tally op.obj) = (s.tally op.obj).set v := by
    rw [State.tally_congr (State.answer_sync ..), State.tally_onTally_self, hexpT]
  obtain ⟨hT, hC⟩ := State.serveTally_idle (i := op.obj)
    (s := ((s.expireTally op.obj).onTally op.obj (Tally.set v)).answer op .ok v) (by rw [hstored]; exact hw)
  have hrun : s.applyTally op = (((s.expireTally op.obj).onTally op.obj (Tally.set v)).answer op .ok v).serveTally op.obj := by
    simp only [State.applyTally, hk, hm, hv]
    exact if_neg (Nat.not_le.mpr hfit)
  have hgang : ((s.expireTally op.obj).onTally op.obj (Tally.set v)).gang g = s.gang g := by
    change Tab.look (s.expireTally op.obj).core.gang g {} = _
    rw [hexpC]
    rfl
  rw [hrun]
  refine ⟨hT.trans hstored, ?_⟩
  rw [State.gang, hC]
  exact (State.answer_gang_pair hsrc hobj (by decide) ..).trans (by rw [hgang]; rfl)

/-- A sound object with a new value is sound. -/
theorem Tally.set_ok {t : Tally} (v : DWord) (h : t.ok = true) : (t.set v).ok = true := by
  simp only [Tally.ok, Tally.set, Bool.and_eq_true, Bool.not_eq_true'] at h ⊢
  exact ⟨h.1, by simp⟩

/-- A wait whose value is reached is answered at once; any other takes a record where one is free. -/
theorem State.applyTally_reached {s : State} {op : SyncOp} {g : Nat} (hk : op.kind = .waitGe) (hsrc : op.src = .gang g)
    (hobj : op.obj < 2 ^ 17) (h : op.amount.toNat ≤ (s.tally op.obj).value.toNat) :
    (s.applyTally op).gang g = (s.gang g).pairAnswer op.uReg op.pReg (s.tally op.obj).value true := by
  have hrun : s.applyTally op = (s.acquired op .ok).answer op .ok (s.tally op.obj).value := by
    simp only [State.applyTally, hk]
    exact if_pos h
  rw [hrun, State.answer_gang_pair hsrc hobj (by decide), State.acquired_gang]
  rfl

theorem State.applyTally_parks {s : State} {op : SyncOp} (hk : op.kind = .waitGe)
    (h : (s.tally op.obj).value.toNat < op.amount.toNat) (hrec : s.recFree op = true) : s.applyTally op = s.park op := by
  simp only [State.applyTally, hk, if_neg (Nat.not_le.mpr h), hrec, if_true]

/-- A read is answered with the value. -/
theorem State.applyTally_read {s : State} {op : SyncOp} (hk : op.kind = .read) :
    s.applyTally op = s.answer op .ok (s.tally op.obj).value := by
  simp only [State.applyTally, hk]

theorem State.onGang_tally (g i : Nat) (f : Gang → Gang) (s : State) : (s.onGang g f).tally i = s.tally i := rfl
theorem State.onGang_sem (g i : Nat) (f : Gang → Gang) (s : State) : (s.onGang g f).sem i = s.sem i := rfl
theorem State.notePeak_tally (n i : Nat) (s : State) : (s.notePeak n).tally i = s.tally i := rfl
theorem State.notePeak_sem (n i : Nat) (s : State) : (s.notePeak n).sem i = s.sem i := rfl
theorem State.notePeak_gang (n g : Nat) (s : State) : (s.notePeak n).gang g = s.gang g := rfl

/-- The record under which a gang waits. -/
def SyncOp.gangRecord (op : SyncOp) (g : Nat) : WaitRec :=
  { who := .gang g, amount := op.amount, deadline := op.deadline, owned := op.owned, uReg := op.uReg, pReg := op.pReg,
    part := op.part }

theorem State.park_tally {s : State} {op : SyncOp} {g : Nat} (hsrc : op.src = .gang g) (hobj : op.obj < 2 ^ 17) :
    ((s.park op).tally op.obj).waiters = (s.tally op.obj).waiters ++ [op.gangRecord g] ∧
      ((s.park op).gang g).wait = .sync op.obj := by
  have hmod : op.obj % 2 ^ 17 = op.obj := Nat.mod_eq_of_lt hobj
  simp only [State.park, SyncOp.record, hsrc, if_pos hobj, hmod]
  refine ⟨?_, by rw [State.gang_onGang_self]⟩
  rw [State.onGang_tally, State.notePeak_tally, State.tally_onTally_self]
  rfl

/-! ### Damaged objects -/

theorem State.markBad_tally {s : State} {i : Nat} (hi : i < 2 ^ 17) (tag : Word) :
    (s.markBad i tag).tally i = { s.tally i with bad := true, waiters := [] } := by
  have hmod : i % 2 ^ 17 = i := Nat.mod_eq_of_lt hi
  simp only [State.markBad, if_pos hi, hmod]
  refine (State.tally_congr (foldl_keeps State.sync (fun t w => t.endWaiter true w .bad 0) (fun _ _ => by simp) _ _) i).trans ?_
  rw [State.tally_onTally_self, State.tally_congr (t := s) (by simp)]

/-- An operation finds a counter whose complement does not match (R337): the counter is BAD and keeps its value. -/
theorem State.applyOp_damaged {s : State} {op : SyncOp} (hobj : op.obj < 2 ^ 17)
    (h : (s.tally op.obj).nvalue ≠ ~~~(s.tally op.obj).value) :
    ((s.applyOp op).tally op.obj).bad = true ∧ ((s.applyOp op).tally op.obj).value = (s.tally op.obj).value := by
  have hbad : (s.tally op.obj).ok = false := by simp [Tally.ok, h]
  have hmod : op.obj % 2 ^ 17 = op.obj := Nat.mod_eq_of_lt hobj
  have hbad' : ¬ ((s.countOp op).tally (op.obj % 2 ^ 17)).ok = true := by rw [hmod]; exact ne_true_of_eq_false hbad
  have hrun : s.applyOp op = (if ((s.countOp op).tally (op.obj % 2 ^ 17)).bad then s.countOp op
      else (s.countOp op).markBad op.obj ((s.countOp op).opTag op)).answer op .bad 0 := (if_pos hobj).trans (if_neg hbad')
  rw [hmod] at hrun
  rw [hrun, State.tally_congr (State.answer_sync ..)]
  split
  · next hb => exact ⟨hb, rfl⟩
  · rw [State.markBad_tally hobj]
    exact ⟨rfl, rfl⟩

/-! ### The recheck -/

theorem State.serveTally_one {s : State} {i : Nat} {x : Tally} {w : WaitRec} (hx : s.tally i = x) (hw : x.waiters = [w])
    (h : w.amount.toNat ≤ x.value.toNat) :
    (s.serveTally i).tally i = { x with waiters := [] } ∧ (s.serveTally i).sync.repulse = s.sync.repulse := by
  have hrun : s.serveTally i = (s.onTally i fun t => { t with waiters := t.waiters.filter fun y =>
      (!decide (y.amount.toNat ≤ x.value.toNat)) }).endWaiter true w .ok x.value := by
    simp only [State.serveTally, hx, hw, List.filter_cons, List.filter_nil, decide_eq_true h, if_true, List.foldl_cons, List.foldl_nil]
  rw [hrun, State.tally_congr (State.endWaiter_sync ..), State.endWaiter_sync, State.tally_onTally_self, hx, hw]
  simp only [List.filter_cons, List.filter_nil, decide_eq_true h, Bool.not_true]
  exact ⟨rfl, rfl⟩

/-- One wake pulse that was lost is counted and logged. -/
theorem State.lostPulses_one (obj : Nat) (s : State) :
    (s.lostPulses obj 1).sync = { s.sync with repulse := satInc s.sync.repulse } := by
  simp only [State.lostPulses, List.range_one, List.foldl_cons, List.foldl_nil, State.syncLog_sync]
  rfl

/-! ### The counter instructions -/

theorem firstFault_pass {c : Check} {l : List Check} (h : c.1 = true) : firstFault (c :: l) = firstFault l := if_pos h

theorem firstFault_stop {c : Check} {l : List Check} (h : c.1 = false) : firstFault (c :: l) = some c.2 :=
  if_neg (ne_true_of_eq_false h)

theorem uOk_one {r : Nat} (h : r < 64) : (uOk r 1).1 = true := decide_eq_true (Nat.succ_le_of_lt h)

/-- The operation of a counter instruction of a gang that has issued it, at a store at which nothing waits. -/
theorem State.submit_gangOp {s t : State} {g uo ud p : Nat} {kind : SyncKind} {n : DWord} {d : Option Nat}
    (ht : t.sync = s.sync) (hobj : wordObj (s.objWord g uo) < 2 ^ 17)
    (hidle : ∀ e ∈ s.sync.inbox, e.1 ≠ objDie (wordObj (s.objWord g uo)))
    (hok : (s.tally (wordObj (s.objWord g uo))).ok = true) :
    t.submit (s.gangOp g kind uo n false d ud p) =
      (t.countOp (s.gangOp g kind uo n false d ud p)).applyTally (s.gangOp g kind uo n false d ud p) :=
  State.submit_tally hobj (by rw [ht]; exact hidle) (by rw [State.tally_congr ht]; exact hok)

/-- Settles O38: the operation reaches the store, which applies it; the gang reads the answer. -/
theorem counterInstructions : Obligations.CounterInstructions := by
  unfold Obligations.CounterInstructions
  refine ⟨?add, ?read, ?denied, ?wait, ?store, ?recheck, fun s op hobj h => State.applyOp_damaged hobj h, ?repair, ?noRepair⟩
  case add =>
    rintro s g p ud uo un _ v hissue hp hud huo hun rfl hword hlocal hnow hn hidle hok hm hw hfit hv
    have hobj := State.wordObj_lt_of_wordOk hword
    have hsync : ((s.issued g).release g).sync = s.sync := State.release_sync g _
    refine ⟨_, exec_tallyAddInstr_of_now hissue hp hud huo hun hn.ne' hword hlocal hnow, ?added⟩
    case added =>
      have hT : (((s.issued g).release g).countOp (s.tallyAddOp g p ud uo un)).tally (wordObj (s.objWord g uo)) =
        s.tally (wordObj (s.objWord g uo)) := State.tally_congr hsync _
      have hval : BitVec.ofNat 64 ((s.gang g).uReg un).toNat = ((s.gang g).uReg un).setWidth 64 := BitVec.ofNat_toNat ..
      have hG : (((s.issued g).release g).countOp (s.tallyAddOp g p ud uo un)).gang g = { s.gang g with issued := true } := by
        simp
      obtain ⟨hcount, hgang⟩ := State.applyTally_add (op := s.tallyAddOp g p ud uo un) (g := g) (v := v) rfl rfl hobj hT hm hw
        (by rw [show (s.tallyAddOp g p ud uo un).amount = _ from hval, BitVec.toNat_setWidth_of_le (by omega)]; exact hfit)
        (by rw [show (s.tallyAddOp g p ud uo un).amount = _ from hval]; exact hv)
      rw [show ((s.issued g).release g).submit (s.tallyAddOp g p ud uo un) = _ from State.submit_gangOp hsync hobj hidle hok]
      refine ⟨congrArg Tally.value hcount, (congrArg Tally.ok hcount).trans (Tally.set_ok v hok), ?_, ?_⟩
      · rw [← State.tallyAddOp, hgang]
        exact Gang.pairAnswer_uPair ..
      · rw [← State.tallyAddOp, hgang]
        exact Gang.pairAnswer_pReg hp ..
  case read =>
    rintro s g ud uo _ hissue hud huo rfl hword hidle hok
    have hobj := State.wordObj_lt_of_wordOk hword
    have hrun : exec (.tallyRd g ud uo) s = done (((s.issued g).countOp (s.gangOp g .read uo 0 false none ud 8)).answer
        (s.gangOp g .read uo 0 false none ud 8) .ok (s.tally (wordObj (s.objWord g uo))).value) := by
      change done _ = _
      rw [State.instr_run _ _ _ _ hissue (by simp [firstFault, pairUOk, uOk, hud, hword, Nat.succ_le_of_lt huo]),
        State.issued_gangOp, State.submit_gangOp (State.issued_sync s g) hobj hidle hok, State.applyTally_read rfl]
      rfl
    refine ⟨_, hrun, ?pair, ?tallies, ?mem⟩
    case pair =>
      rw [State.answer_gang_pair rfl hobj (by decide)]
      exact Gang.pairAnswer_uPair ..
    case tallies => rw [State.answer_sync]; rfl
    case mem =>
      rw [State.answer_mem rfl (by decide)]
      rfl
  case denied =>
    rintro s g ud uo _ hissue hud huo rfl hword
    change done _ = _
    rw [State.instr_fault _ _ _ _ 0xE (s.objWord g uo) hissue ?bad]
    case bad =>
      rw [firstFault_pass (by exact hud), firstFault_pass (uOk_one huo), State.issued_objWord, State.issued_wordOk,
        firstFault_stop hword]
      rfl
    rfl
  case wait =>
    rintro s g p ud uo ue ut _ hissue hp hud hue huo hut rfl hword hidle hok
    have hobj := State.wordObj_lt_of_wordOk hword
    have hsync : ((s.issued g).flushAdds g).sync = s.sync := State.flushAdds_sync g _
    have hrun : exec (.tallyWaitInstr g p ud uo ue ut) s = done ((((s.issued g).flushAdds g).countOp
        (s.gangOp g .waitGe uo ((s.gang g).uPair ue) false ((s.issued g).waitBy g ut) ud p)).applyTally
        (s.gangOp g .waitGe uo ((s.gang g).uPair ue) false ((s.issued g).waitBy g ut) ud p)) := by
      change done _ = _
      rw [State.instr_run _ _ _ _ hissue
          (by simp [firstFault, pOk, pairUOk, uOk, hp, hud, hue, hword, Nat.succ_le_of_lt huo, Nat.succ_le_of_lt hut]),
        State.issued_gangOp, State.submit_gangOp hsync hobj hidle hok, State.issued_gang]
      rfl
    generalize hop : s.gangOp g .waitGe uo ((s.gang g).uPair ue) false ((s.issued g).waitBy g ut) ud p = op at hrun
    have hT : (((s.issued g).flushAdds g).countOp op).tally (wordObj (s.objWord g uo)) =
      s.tally (wordObj (s.objWord g uo)) := State.tally_congr hsync _
    have hobj' : op.obj = wordObj (s.objWord g uo) := hop ▸ rfl
    have hkind : op.kind = .waitGe := hop ▸ rfl
    have hsrc : op.src = .gang g := hop ▸ rfl
    have hamount : op.amount = (s.gang g).uPair ue := hop ▸ rfl
    have huReg : op.uReg = ud := hop ▸ rfl
    have hpReg : op.pReg = p := hop ▸ rfl
    rw [← hobj'] at hobj hT ⊢
    rw [← hamount, ← hT]
    refine ⟨fun hle => ⟨_, hrun, ?reached⟩, fun hlt hrec => ⟨_, hrun, ?parked⟩⟩
    case reached =>
      rw [State.applyTally_reached hkind hsrc hobj hle, huReg, hpReg]
      exact ⟨Gang.pairAnswer_pReg hp .., Gang.pairAnswer_uPair .., Gang.pairAnswer_wait ..⟩
    case parked =>
      have hfree : (((s.issued g).flushAdds g).countOp op).recFree op = true := by
        rw [State.countOp_recFree, State.recFree_congr hsync, State.recFree, hsrc]
        exact decide_eq_true hrec
      obtain ⟨hwaiters, hwait⟩ := State.park_tally (s := ((s.issued g).flushAdds g).countOp op) hsrc hobj
      rw [State.applyTally_parks hkind hlt hfree]
      refine ⟨hwait, ?_⟩
      rw [hwaiters, List.map_append]
      rfl
  case store =>
    intro s t d op r htake ht
    subst ht
    refine ⟨fun hn ha => ?_, fun hn ha => ?_, fun hn => ?_⟩
    · change done _ = _
      simp only [htake]
      rw [if_neg (not_not_intro hn), if_neg (by simp [ha])]
      rfl
    · change done _ = _
      simp only [htake]
      rw [if_neg (not_not_intro hn), if_pos (by simp [ha])]
      rfl
    · change done _ = _
      simp only [htake]
      rw [if_pos hn]
      rfl
  case recheck =>
    intro s i t w ht hs hok hw hle
    have hT : s.tally i = t := by simp [State.tally, ht, Tab.look]
    obtain ⟨hserved, hcount⟩ := State.serveTally_one hT hw hle
    have hrun : exec .syncRecheck s = done ((s.serveTally i).lostPulses i 1) := by
      change done _ = _
      simp only [ht, hs, List.map_cons, List.map_nil, List.foldl_cons, List.foldl_nil, State.recheckTally, hT, hok, if_true, hw,
        List.filter_cons, decide_eq_true hle, List.filter_nil, List.length_singleton]
    have hT' : ((s.serveTally i).lostPulses i 1).tally i = { t with waiters := [] } := by
      rw [State.tally, State.lostPulses_one]
      exact hserved
    refine ⟨_, hrun, congrArg Tally.waiters hT', by rw [hT'], ?_⟩
    rw [State.lostPulses_one, ← hcount]
  case repair =>
    intro s v i hready hwake hsel hi hb
    have hT : s.hostWake.tally i = s.tally i := State.tally_congr hwake i
    have hsel' : bits s.hostWake.sync.dbgSel 0 18 = i := by rw [hwake, hsel]
    have hrun : exec (.syncDbgRepair v) s = done (s.hostWake.repairObj (v.setWidth 32)) := by
      change done _ = _
      rw [State.atReady, if_pos hready, if_pos]
      simp only [State.selBad, hsel', if_pos hi, hT, hb]
    have hrep : (s.hostWake.repairObj (v.setWidth 32)).tally i =
        { (s.tally i).set (BitVec.ofNat 64 (s.sync.repairHi.toNat * 2 ^ 32 + (v.setWidth 32).toNat)) with bad := false } := by
      simp only [State.repairObj, hsel', if_pos hi, Nat.mod_eq_of_lt hi, State.tally_onTally_self]
      rw [← hT, ← hwake]
      rfl
    refine ⟨_, hrun, congrArg Tally.bad hrep, (congrArg Tally.ok hrep).trans ?_, congrArg Tally.value hrep⟩
    simp [Tally.ok, Tally.set]
  case noRepair =>
    intro s v hready hsel
    change done _ = _
    rw [State.atReady, if_pos hready, if_neg (ne_true_of_eq_false hsel)]
    rfl

end Sys2Proof.Machine
end

section
/-! PROOFS. Semaphores. -/

namespace Sys2Proof.Machine

open Sys2Proof

/-- An object word that passes the checks of an instruction on a semaphore names a semaphore (R338). -/
theorem State.wordObj_ge_of_wordOk {s : State} {g w : Nat} {remote : Bool} (h : (s.wordOk g true remote w).1 = true) :
    ¬ wordObj w < 2 ^ 17 := by
  have hbit : w.testBit 17 = true := by
    simp only [State.wordOk, Bool.and_eq_true, beq_iff_eq] at h
    obtain ⟨⟨-, htype⟩, -⟩ := h
    exact htype
  unfold wordObj
  have hmod := Nat.testBit_eq_decide_div_mod_eq (x := w) (i := 17)
  simp [hbit] at hmod
  omega

/-- An operation on a sound semaphore at whose store nothing waits. -/
theorem State.submit_sem {s : State} {op : SyncOp} (hobj : ¬ op.obj < 2 ^ 17) (hidle : ∀ e ∈ s.sync.inbox, e.1 ≠ objDie op.obj)
    (hok : (s.sem (op.obj % 2 ^ 17)).ok = true) : s.submit op = (s.countOp op).applySem op :=
  (State.submit_of_idle hidle).trans ((if_neg hobj).trans (if_pos hok))

/-- An operation on a sound semaphore, in a state whose stores are those of `s`. -/
theorem State.submit_sem_of_sync {s t : State} {op : SyncOp} {o i : Nat} (ht : t.sync = s.sync) (ho : op.obj = o)
    (hobj : ¬ o < 2 ^ 17) (hi : o % 2 ^ 17 = i) (hidle : ∀ e ∈ s.sync.inbox, e.1 ≠ objDie o) (hok : (s.sem i).ok = true) :
    t.submit op = (t.countOp op).applySem op := by
  subst ho hi
  exact State.submit_sem hobj (by rw [ht]; exact hidle) (by rw [State.sem_congr ht]; exact hok)

/-! ### Serving the queue -/

/-- A semaphore without waiters has none to serve. -/
theorem State.serveSem_idle {s : State} {i : Nat} (h : (s.sem i).waiters = []) : s.serveSem i = s := by
  rw [State.serveSem, h]
  rfl

/-- The queue's head waits for units that are not there, or nobody waits. -/
def Sem.Served (x : Sem) : Prop :=
  x.waiters = [] ∨ ∃ (w : WaitRec) (r : List WaitRec), x.waiters = w :: r ∧ x.count.toNat < w.amount.toNat

theorem State.serveSemN_served (i k : Nat) (s : State) (h : (s.sem i).waiters.length ≤ k) : ((s.serveSemN i k).sem i).Served := by
  induction k generalizing s with
  | zero => exact .inl (List.length_eq_zero_iff.mp (Nat.le_zero.mp h))
  | succ k ih =>
    unfold State.serveSemN
    dsimp only
    split
    · next hnone => exact .inl hnone
    · next w r hw =>
      split
      · refine ih _ ?_
        rw [State.sem_congr (State.endWaiter_sync ..), State.sem_onSem_self]
        rw [hw] at h
        exact Nat.le_of_succ_le_succ h
      · next hlt => exact .inr ⟨w, r, hw, Nat.not_le.mp hlt⟩

/-! ### The operations on a semaphore -/

theorem Sem.take_count (n : Nat) (own : Option Nat) (x : Sem) : (x.take n own).count = x.count - BitVec.ofNat 32 n := by
  cases own with
  | none => rfl
  | some g => simp only [Sem.take, Sem.hold]; split <;> rfl

/-- A take that fits, with the record it needs. -/
theorem State.applySem_takes {s : State} {op : SyncOp} {g i : Nat} {x : Sem} (hk : op.kind = .take ∨ op.kind = .tryTake)
    (hsrc : op.src = .gang g) (hobj : ¬ op.obj < 2 ^ 17) (hi : op.obj % 2 ^ 17 = i) (hx : s.sem i = x) (hw : x.waiters = [])
    (hfit : op.amount.toNat ≤ x.count.toNat) (hrec : op.owned = true → s.recFree op = true) (hab : x.abandoned = false) :
    ((s.applySem op).sem i).count = x.count - BitVec.ofNat 32 op.amount.toNat ∧
      (s.applySem op).gang g = (s.gang g).wordAnswer op.uReg op.pReg 0 true := by
  subst hi hx
  have hfits : ((s.sem (op.obj % 2 ^ 17)).waiters.isEmpty && decide (op.amount.toNat ≤ (s.sem (op.obj % 2 ^ 17)).count.toNat)) = true := by
    rw [hw, decide_eq_true hfit]
    rfl
  have hgotit : (s.sem (op.obj % 2 ^ 17)).acquired = .ok := if_neg (ne_true_of_eq_false hab)
  have hroom : ((match (if op.owned then op.gang else none) with
      | some g => !((s.sem (op.obj % 2 ^ 17)).holders.any fun h => h.gang == g)
      | none => false) && !s.recFree op) = false := by
    cases ho : op.owned
    · rfl
    · rw [hrec ho, Bool.not_true, Bool.and_false]
  have hrun : s.applySem op = (((s.onSem (op.obj % 2 ^ 17) (Sem.take op.amount.toNat (if op.owned then op.gang else none))).notePeak
      (objSlice (op.obj % 2 ^ 17))).acquired op .ok).answer op .ok
      ((((s.onSem (op.obj % 2 ^ 17) (Sem.take op.amount.toNat (if op.owned then op.gang else none))).notePeak
      (objSlice (op.obj % 2 ^ 17))).sem (op.obj % 2 ^ 17)).count.setWidth 64) := by
    rcases hk with hk | hk
    · simp only [State.applySem, hk, hgotit]
      rw [if_pos hfits]
      exact if_neg (ne_true_of_eq_false hroom)
    · simp only [State.applySem, hk, hgotit, hfits, Bool.not_true]
      rw [if_neg Bool.false_ne_true]
      exact if_neg (ne_true_of_eq_false hroom)
  rw [hrun]
  refine ⟨?_, ?_⟩
  · rw [State.sem_congr (State.answer_sync ..), State.sem_congr (State.acquired_sync ..), State.notePeak_sem, State.sem_onSem_self,
      Sem.take_count]
  · rw [State.answer_gang_word hsrc hobj (by decide), State.acquired_gang]
    rfl

/-- One that does not fit takes a record where one is free, or, for a try, fails. -/
theorem State.applySem_parks {s : State} {op : SyncOp} (hk : op.kind = .take)
    (h : (s.sem (op.obj % 2 ^ 17)).count.toNat < op.amount.toNat) (hrec : s.recFree op = true) : s.applySem op = s.park op := by
  have hfit : ((s.sem (op.obj % 2 ^ 17)).waiters.isEmpty && decide (op.amount.toNat ≤ (s.sem (op.obj % 2 ^ 17)).count.toNat)) = false := by
    rw [decide_eq_false (Nat.not_le.mpr h), Bool.and_false]
  simp only [State.applySem, hk, hfit, hrec, if_true]
  rfl

theorem State.applySem_fails {s : State} {op : SyncOp} (hk : op.kind = .tryTake)
    (h : (s.sem (op.obj % 2 ^ 17)).count.toNat < op.amount.toNat) : s.applySem op = s.answer op .failed 0 := by
  have hfit : ((s.sem (op.obj % 2 ^ 17)).waiters.isEmpty && decide (op.amount.toNat ≤ (s.sem (op.obj % 2 ^ 17)).count.toNat)) = false := by
    rw [decide_eq_false (Nat.not_le.mpr h), Bool.and_false]
  simp only [State.applySem, hk, hfit]
  rfl

theorem State.park_sem {s : State} {op : SyncOp} {g : Nat} (hsrc : op.src = .gang g) (hobj : ¬ op.obj < 2 ^ 17) :
    ((s.park op).sem (op.obj % 2 ^ 17)).count = (s.sem (op.obj % 2 ^ 17)).count ∧ ((s.park op).gang g).wait = .sync op.obj := by
  simp only [State.park, SyncOp.record, hsrc, if_neg hobj]
  refine ⟨?_, by rw [State.gang_onGang_self]⟩
  rw [State.onGang_sem, State.notePeak_sem, State.sem_onSem_self]

/-- A post that the count holds, with nobody waiting. -/
theorem State.applyPost_fits {s : State} {op : SyncOp} {n : Nat} (hw : (s.sem (op.obj % 2 ^ 17)).waiters = [])
    (hfit : (s.sem (op.obj % 2 ^ 17)).count.toNat + n < 2 ^ 32) :
    s.applyPost op n = (s.onSem (op.obj % 2 ^ 17) (Sem.set ((s.sem (op.obj % 2 ^ 17)).count + BitVec.ofNat 32 n))).answer op .ok
      (((s.sem (op.obj % 2 ^ 17)).count + BitVec.ofNat 32 n).setWidth 64) := by
  unfold State.applyPost
  dsimp only
  rw [if_neg (Nat.not_le.mpr hfit)]
  refine State.serveSem_idle ?_
  rw [State.sem_congr (State.answer_sync ..), State.sem_onSem_self]
  exact hw

/-- A gang returns the units it holds, with nobody waiting. -/
theorem State.applySem_returns {s : State} {op : SyncOp} {g i : Nat} {x : Sem} {h : HoldRec} (hk : op.kind = .postOwn)
    (hsrc : op.src = .gang g) (hobj : ¬ op.obj < 2 ^ 17) (hi : op.obj % 2 ^ 17 = i) (hx : s.sem i = x) (hh : x.holders = [h])
    (hg : h.gang = g) (hw : x.waiters = []) (hfit : x.count.toNat + h.units < 2 ^ 32) :
    (s.applySem op).sem i = { x.set (x.count + BitVec.ofNat 32 h.units) with holders := [] } ∧
      (s.applySem op).gang g = (s.gang g).wordAnswer op.uReg op.pReg 0 true := by
  subst hi hx
  have hgang : op.gang = some g := by rw [SyncOp.gang, hsrc]
  have hfind : (s.sem (op.obj % 2 ^ 17)).holders.find? (fun y => y.gang == g) = some h := by
    rw [hh, List.find?_cons_of_pos (by simp [hg])]
  have hrun : s.applySem op = (s.onSem (op.obj % 2 ^ 17) fun t =>
      { t with holders := t.holders.filter fun y => y.gang != g }).applyPost op h.units := by
    simp only [State.applySem, hk, hgang, hfind, if_neg (Nat.not_le.mpr hfit)]
  have hleft : (s.onSem (op.obj % 2 ^ 17) fun t => { t with holders := t.holders.filter fun y => y.gang != g }).sem
      (op.obj % 2 ^ 17) = { s.sem (op.obj % 2 ^ 17) with holders := [] } := by
    rw [State.sem_onSem_self, hh, List.filter_cons_of_neg (by simp [hg])]
    rfl
  rw [hrun, State.applyPost_fits (by rw [hleft]; exact hw) (by rw [hleft]; exact hfit)]
  refine ⟨?_, State.answer_gang_word hsrc hobj (by decide) ..⟩
  rw [State.sem_congr (State.answer_sync ..), State.sem_onSem_self, hleft]
  rfl

/-- A gang that holds nothing has nothing to return. -/
theorem State.applySem_notHolder {s : State} {op : SyncOp} {g : Nat} (hk : op.kind = .postOwn) (hsrc : op.src = .gang g)
    (hh : ∀ h ∈ (s.sem (op.obj % 2 ^ 17)).holders, h.gang ≠ g) : s.applySem op = s.answer op .notHolder 0 := by
  have hgang : op.gang = some g := by rw [SyncOp.gang, hsrc]
  have hfind : (s.sem (op.obj % 2 ^ 17)).holders.find? (fun y => y.gang == g) = none :=
    List.find?_eq_none.mpr fun h hm => by simp [hh h hm]
  simp only [State.applySem, hk, hgang, hfind]

/-! ### The instructions -/

theorem State.semChecks_pass {s : State} {g p ud uo un : Nat} {remote : Bool} (hp : p < 8) (hud : ud < 64) (huo : uo < 64)
    (hun : un < 64) (hn : (s.gang g).uReg un ≠ 0) (hword : (s.wordOk g true remote (s.objWord g uo)).1 = true) :
    firstFault ((s.issued g).semChecks g p ud uo un remote) = none := by
  have hn' : ((s.issued g).gang g).uReg un ≠ 0 := by rw [State.issued_gang]; exact hn
  rw [State.semChecks, firstFault_pass (by exact decide_eq_true hp), firstFault_pass (uOk_one hud), firstFault_pass (uOk_one huo),
    firstFault_pass (uOk_one hun), firstFault_pass (bne_iff_ne.mpr hn'), State.issued_objWord, State.issued_wordOk,
    firstFault_pass hword]
  rfl

/-- A `sem.post` of a gang's own units, outside a replayable launch, is a release and an operation of the store. -/
theorem exec_semPostOwn_of_now {s : State} {g p ud uo i : Nat} (hissue : s.canIssue g = true) (hp : p < 8) (hud : ud < 64)
    (huo : uo < 64) (hi : wordObj (s.objWord g uo) % 2 ^ 17 = i) (hword : (s.wordOk g true false (s.objWord g uo)).1 = true)
    (hnow : s.defers g = false) (hidle : ∀ e ∈ s.sync.inbox, e.1 ≠ objDie (wordObj (s.objWord g uo)))
    (hok : (s.sem i).ok = true) :
    exec (.semPostOwn g p ud uo) s = done ((((s.issued g).release g).countOp (s.gangOp g .postOwn uo 0 true none ud p)).applySem
      (s.gangOp g .postOwn uo 0 true none ud p)) := by
  have hnow' : ¬ (s.issued g).defers g = true := by rw [State.issued_defers]; exact ne_true_of_eq_false hnow
  change done _ = _
  rw [State.instr_run _ _ _ _ hissue
    (by simp [firstFault, pOk, uOk, hp, hword, Nat.succ_le_of_lt huo, Nat.succ_le_of_lt hud]), if_neg hnow']
  dsimp only
  rw [State.issued_gangOp]
  exact congrArg done
    (State.submit_sem_of_sync (State.release_sync g _) rfl (State.wordObj_ge_of_wordOk hword) hi hidle hok)

/-- Settles O39: the operation reaches the store, which applies it; the gang reads the answer. -/
theorem semaphoreInstructions : Obligations.SemaphoreInstructions := by
  unfold Obligations.SemaphoreInstructions
  refine ⟨?takes, ?post, ?notHolder, ?gives, ?read, fun s i => State.serveSemN_served i _ s le_rfl, ?timeout⟩
  case takes =>
    rintro s g p ud uo un ut _ i own hissue hp hud huo hun hut rfl hi hword hn hidle hok
    have hobj := State.wordObj_ge_of_wordOk hword
    have hsync : ((s.issued g).flushAdds g).sync = s.sync := State.flushAdds_sync g _
    have hchecks := State.semChecks_pass hp hud huo hun hn hword
    have hwait : ∀ op, s.gangOp g .take uo (((s.gang g).uReg un).setWidth 64) own ((s.issued g).waitBy g ut) ud p = op →
        exec (.semWaitInstr g own p ud uo un ut) s = done ((((s.issued g).flushAdds g).countOp op).applySem op) := by
      rintro op rfl
      change done _ = _
      rw [State.instr_run _ _ _ _ hissue ((firstFault_pass (uOk_one hut)).trans hchecks), State.issued_gangOp,
        State.issued_gang, State.submit_sem_of_sync hsync rfl hobj hi hidle hok]
      rfl
    have htry : ∀ op, s.gangOp g .tryTake uo (((s.gang g).uReg un).setWidth 64) own none ud p = op →
        exec (.semTry g own p ud uo un) s = done ((((s.issued g).flushAdds g).countOp op).applySem op) := by
      rintro op rfl
      change done _ = _
      rw [State.instr_run _ _ _ _ hissue hchecks, State.issued_gangOp, State.issued_gang,
        State.submit_sem_of_sync hsync rfl hobj hi hidle hok]
      rfl
    have hsem : ∀ op, (((s.issued g).flushAdds g).countOp op).sem i = s.sem i := fun op => State.sem_congr hsync i
    have hunits : (((s.gang g).uReg un).setWidth 64).toNat = ((s.gang g).uReg un).toNat :=
      BitVec.toNat_setWidth_of_le (by omega)
    have hrecord : ∀ op, op.src = .gang g → s.recUse (objSlice op.obj) < 1024 →
        (((s.issued g).flushAdds g).countOp op).recFree op = true := by
      intro op hsrc hrec
      rw [State.countOp_recFree, State.recFree_congr hsync, State.recFree, hsrc]
      exact decide_eq_true hrec
    refine ⟨fun hw hfit hrec hab => ?fits, fun hless => ?doesNot⟩
    case fits =>
      have htaken : ∀ op : SyncOp, (op.kind = .take ∨ op.kind = .tryTake) → op.src = .gang g → op.obj = wordObj (s.objWord g uo) →
          op.amount = ((s.gang g).uReg un).setWidth 64 → op.owned = own → op.uReg = ud → op.pReg = p →
          (((((s.issued g).flushAdds g).countOp op).applySem op).sem i).count = (s.sem i).count - (s.gang g).uReg un ∧
            (((((s.issued g).flushAdds g).countOp op).applySem op).gang g).uReg ud = 0 ∧
            (((((s.issued g).flushAdds g).countOp op).applySem op).gang g).pReg p = 0xFFFFFFFF := by
        intro op hk hsrc ho ha how hu hpr
        obtain ⟨hcount, hgang⟩ := State.applySem_takes hk hsrc (ho ▸ hobj) (by rw [ho]; exact hi) (hsem op) hw
          (by rw [ha, hunits]; exact hfit) (fun h => hrecord op hsrc (by rw [ho]; exact hrec (how ▸ h))) hab
        rw [hcount, hgang, ha, hunits, hu, hpr, BitVec.ofNat_toNat, BitVec.setWidth_eq]
        exact ⟨rfl, Gang.wordAnswer_uReg .., Gang.wordAnswer_pReg hp ..⟩
      exact ⟨⟨_, hwait _ rfl, htaken _ (.inl rfl) rfl rfl rfl rfl rfl rfl⟩,
        ⟨_, htry _ rfl, htaken _ (.inr rfl) rfl rfl rfl rfl rfl rfl⟩⟩
    case doesNot =>
      refine ⟨fun hrec => ?parks, ?fails⟩
      case parks =>
        generalize hop : s.gangOp g .take uo (((s.gang g).uReg un).setWidth 64) own ((s.issued g).waitBy g ut) ud p = op at hwait
        have hsrc : op.src = .gang g := hop ▸ rfl
        have hindex : op.obj % 2 ^ 17 = i := hop ▸ hi
        have hkind : op.kind = .take := hop ▸ rfl
        obtain ⟨hcount, hw⟩ := State.park_sem (s := ((s.issued g).flushAdds g).countOp op) hsrc (hop ▸ hobj)
        have hlt : ((((s.issued g).flushAdds g).countOp op).sem (op.obj % 2 ^ 17)).count.toNat < op.amount.toNat := by
          rw [hindex, hsem, show op.amount = ((s.gang g).uReg un).setWidth 64 from hop ▸ rfl, hunits]
          exact hless
        refine ⟨_, hwait op rfl, ?_⟩
        rw [State.applySem_parks hkind hlt (hrecord op hsrc (hop ▸ hrec))]
        rw [hindex, hsem] at hcount
        exact ⟨hw.trans (hop ▸ rfl), hcount⟩
      case fails =>
        generalize hop : s.gangOp g .tryTake uo (((s.gang g).uReg un).setWidth 64) own none ud p = op at htry
        have hkind : op.kind = .tryTake := hop ▸ rfl
        have hindex : op.obj % 2 ^ 17 = i := hop ▸ hi
        have hlt : ((((s.issued g).flushAdds g).countOp op).sem (op.obj % 2 ^ 17)).count.toNat < op.amount.toNat := by
          rw [hindex, hsem, show op.amount = ((s.gang g).uReg un).setWidth 64 from hop ▸ rfl, hunits]
          exact hless
        refine ⟨_, htry op rfl, ?_⟩
        rw [State.applySem_fails hkind hlt, State.answer_gang_word (g := g) (hop ▸ rfl) (hop ▸ hobj) (by decide),
          show op.uReg = ud from hop ▸ rfl, show op.pReg = p from hop ▸ rfl, State.answer_sync]
        exact ⟨Gang.wordAnswer_uReg .., Gang.wordAnswer_pReg hp .., (State.countOp_sems ..).trans (congrArg Sync.sem hsync)⟩
  case post =>
    rintro s g p ud uo un _ i hissue hp hud huo hun rfl hi hword hlocal hnow hn hidle hok hw hfit
    have hobj := State.wordObj_ge_of_wordOk hword
    have hsync : ((s.issued g).release g).sync = s.sync := State.release_sync g _
    have hsem : ∀ op, (((s.issued g).release g).countOp op).sem i = s.sem i := fun op => State.sem_congr hsync i
    have hrun : ∀ op, s.gangOp g .post uo (BitVec.ofNat 64 ((s.gang g).uReg un).toNat) false none ud p = op →
        exec (.semPostInstr g p ud uo un) s = done ((((s.issued g).release g).countOp op).applySem op) := by
      rintro op rfl
      have hnow' : ¬ (s.issued g).defers g = true := by rw [State.issued_defers]; exact ne_true_of_eq_false hnow
      have hlocal' : ¬ wordRemote ((s.issued g).objWord g uo) = true := by
        rw [State.issued_objWord]; exact ne_true_of_eq_false hlocal
      change done _ = _
      rw [State.instr_run _ _ _ _ hissue (State.semChecks_pass hp hud huo hun hn hword), State.addOrPost, if_neg hnow']
      dsimp only
      rw [if_neg hlocal', State.issued_gangOp, State.issued_gang]
      exact congrArg done (State.submit_sem_of_sync hsync rfl hobj hi hidle hok)
    have hunits : (BitVec.ofNat 64 ((s.gang g).uReg un).toNat).toNat = ((s.gang g).uReg un).toNat := by
      rw [BitVec.ofNat_toNat, BitVec.toNat_setWidth_of_le (by omega)]
    generalize hop : s.gangOp g .post uo (BitVec.ofNat 64 ((s.gang g).uReg un).toNat) false none ud p = op at hrun
    have hindex : op.obj % 2 ^ 17 = i := hop ▸ hi
    have hamount : op.amount.toNat = ((s.gang g).uReg un).toNat := hop ▸ hunits
    have happly : ((((s.issued g).release g).countOp op).applySem op) =
        (((s.issued g).release g).countOp op).applyPost op ((s.gang g).uReg un).toNat := by
      rw [← hamount, State.applySem, show op.kind = .post from hop ▸ rfl]
    have hrun' := hrun op rfl
    rw [happly, State.applyPost_fits (by rw [hindex, hsem]; exact hw) (by rw [hindex, hsem]; exact hfit)] at hrun'
    refine ⟨_, hrun', ?count, ?answer⟩
    case count =>
      rw [State.sem_congr (State.answer_sync ..), hindex, State.sem_onSem_self, hsem, BitVec.ofNat_toNat, BitVec.setWidth_eq]
      rfl
    case answer =>
      rw [State.answer_gang_word (g := g) (hop ▸ rfl) (hop ▸ hobj) (by decide), show op.uReg = ud from hop ▸ rfl,
        show op.pReg = p from hop ▸ rfl]
      exact ⟨Gang.wordAnswer_uReg .., Gang.wordAnswer_pReg hp ..⟩
  case notHolder =>
    rintro s g p ud uo _ i hissue hp hud huo rfl hi hword hnow hidle hok hh
    have hobj := State.wordObj_ge_of_wordOk hword
    have hrun := exec_semPostOwn_of_now hissue hp hud huo hi hword hnow hidle hok
    have hsync : ((s.issued g).release g).sync = s.sync := State.release_sync g _
    rw [State.applySem_notHolder (g := g) rfl rfl (by
      rw [State.countOp_sem, State.sem_congr hsync]
      intro h hm
      exact hh h (hi ▸ hm))] at hrun
    refine ⟨_, hrun, ?_⟩
    rw [State.answer_gang_word (g := g) rfl hobj (by decide), State.answer_sync]
    exact ⟨Gang.wordAnswer_uReg .., Gang.wordAnswer_pReg hp .., (State.countOp_sems ..).trans (congrArg Sync.sem hsync)⟩
  case gives =>
    rintro s g p ud uo _ i h hissue hp hud huo rfl hi hword hnow hidle hok hh hg hw hfit
    have hobj := State.wordObj_ge_of_wordOk hword
    have hsync : ((s.issued g).release g).sync = s.sync := State.release_sync g _
    obtain ⟨hsem, hgang⟩ := State.applySem_returns (op := s.gangOp g .postOwn uo 0 true none ud p) rfl rfl hobj hi
      (s := ((s.issued g).release g).countOp (s.gangOp g .postOwn uo 0 true none ud p)) (State.sem_congr hsync i) hh hg hw hfit
    refine ⟨_, exec_semPostOwn_of_now hissue hp hud huo hi hword hnow hidle hok, ?_⟩
    rw [hsem, hgang]
    exact ⟨rfl, rfl, Gang.wordAnswer_uReg .., Gang.wordAnswer_pReg hp ..⟩
  case read =>
    rintro s g ud uo _ i hissue hud huo rfl hi hword hidle hok
    have hobj := State.wordObj_ge_of_wordOk hword
    have hrun : exec (.semRd g ud uo) s = done (((s.issued g).countOp (s.gangOp g .semRead uo 0 false none ud 8)).answerSemRead
        (s.gangOp g .semRead uo 0 false none ud 8) (s.sem i)) := by
      change done _ = _
      rw [State.instr_run _ _ _ _ hissue (by simp [firstFault, pairUOk, uOk, hud, hword, Nat.succ_le_of_lt huo]),
        State.issued_gangOp, State.submit_sem_of_sync (State.issued_sync s g) rfl hobj hi hidle hok, ← hi]
      rfl
    refine ⟨_, hrun, ?count, ?abandoned, rfl⟩
    case count =>
      rw [State.answerSemRead, show (s.gangOp g .semRead uo 0 false none ud 8).src = .gang g from rfl]
      dsimp only
      rw [State.gang_onGang_self]
      exact (Gang.uReg_setU_ne (Nat.ne_of_lt (Nat.lt_succ_self ud)) ..).trans (Gang.uReg_setU_self ..)
    case abandoned =>
      rw [State.answerSemRead, show (s.gangOp g .semRead uo 0 false none ud 8).src = .gang g from rfl]
      dsimp only
      rw [State.gang_onGang_self]
      exact Gang.uReg_setU_self ..
  case timeout =>
    intro s g i d w hi hwait hrec hd hdue hwho hp
    have hrun : exec (.gangWaitTimeout g) s = done ((s.onTally i fun t =>
        { t with waiters := t.waiters.filter fun w => decide (w.who ≠ .gang g) }).endWaiter true w .timeout (s.tally i).value) := by
      change done _ = _
      simp only [hwait, Nat.mod_eq_of_lt hi, if_pos hi, hrec, State.pastDue, hd, decide_eq_true hdue, if_true]
    have hanswer : ∀ t : State, t.endWaiter true w .timeout (s.tally i).value = t.syncGang g true w.uReg w.pReg .timeout (s.tally i).value := by
      intro t
      rw [State.endWaiter, hwho]
      rfl
    rw [hanswer] at hrun
    refine ⟨_, hrun, ?_⟩
    rw [State.syncGang_gang_pair (by decide), State.tally_congr (State.syncGang_sync ..), State.tally_onTally_self]
    refine ⟨Gang.pairAnswer_wait .., Gang.pairAnswer_pReg hp .., rfl, fun r hr => ?_⟩
    exact of_decide_eq_true (List.mem_filter.mp hr).2

end Sys2Proof.Machine
end

section
/-! PROOFS. Memory-side adds and exact slots. -/

namespace Sys2Proof.Machine

open Sys2Proof

/-! ### An add depends on memory and the reduction units alone -/

theorem State.applyAdd_congr {s t : State} (hr : s.red = t.red) (hm : s.mem = t.mem) (f : RedFmt) (k : Nat) (v : DWord) :
    (s.applyAdd f k v).red = (t.applyAdd f k v).red ∧ (s.applyAdd f k v).mem = (t.applyAdd f k v).mem := by
  by_cases hx : f = .xs
  · have hs : s.slotAt k = t.slotAt k := by rw [State.slotAt, hr, State.slotAt]
    simp only [State.applyAdd, if_pos hx, State.slotAdd, hs]
    split_ifs
    · exact ⟨hr, hm⟩
    · exact ⟨by simp [hr], by simp [hm]⟩
  · simp only [State.applyAdd, if_neg hx, hm]
    split_ifs
    · exact ⟨hr, hm⟩
    · exact ⟨by simp [hr], by simp [hm]⟩

theorem State.applyUntil_congr (p : RedAdd → Bool) (k : Nat) {s t : State} (hr : s.red = t.red) (hm : s.mem = t.mem) :
    (s.applyUntil p k).red = (t.applyUntil p k).red ∧ (s.applyUntil p k).mem = (t.applyUntil p k).mem := by
  induction k generalizing s t with
  | zero => exact ⟨hr, hm⟩
  | succ k ih =>
    unfold State.applyUntil
    rw [hr]
    split
    · split
      · exact ⟨hr, hm⟩
      · next a r _ =>
        obtain ⟨hr', hm'⟩ := State.applyAdd_congr (s := s.onRed fun x => { x with inflight := r })
          (t := t.onRed fun x => { x with inflight := r }) (by simp [hr]) (by simp [hm]) a.fmt a.dpa a.value
        exact ih hr' hm'
    · exact ⟨hr, hm⟩

/-- The adds of a gang before one of its instructions do not see that it has issued. -/
theorem State.issued_flushAdds_slotAt (s : State) (g i : Nat) : ((s.issued g).flushAdds g).slotAt i = (s.flushAdds g).slotAt i :=
  congrArg (fun r : Red => r.slot.look i {}) (State.applyUntil_congr (fun a => a.gang == g) _ (s := s.issued g) (t := s) rfl rfl).1

/-! ### The instructions -/

@[simp] theorem State.issued_slotOk (s : State) (g k i : Nat) : (s.issued g).slotOk k i = s.slotOk k i := by
  unfold State.slotOk
  rw [State.issued_launchOf]
  rfl

theorem State.issued_slotAt (s : State) (g i : Nat) : (s.issued g).slotAt i = s.slotAt i := rfl

theorem State.onGang_slotAt (g i : Nat) (f : Gang → Gang) (s : State) : (s.onGang g f).slotAt i = s.slotAt i := rfl

theorem Gang.flag_uReg (fl r : Nat) (x : Gang) : (x.flag fl).uReg r = x.uReg r := rfl

theorem Slot.raw_length (t : Slot) : t.raw.length = 6 := by simp [Slot.raw]

/-- Words put into registers one after another are read there. -/
theorem Gang.uReg_setU_zipIdx {l : List Word} {ud k : Nat} (hk : k < l.length) (x : Gang) :
    (l.zipIdx.foldl (fun y e => y.setU (ud + e.2) e.1) x).uReg (ud + k) = l[k] :=
  foldl_read_mem Gang.uReg (f := fun y e => y.setU (ud + e.2) e.1) (key := fun e => ud + e.2) (val := Prod.fst) (i := (l[k], k))
    (fun y e => Gang.uReg_setU_self ..) (fun y e r hr => Gang.uReg_setU_ne hr ..) (nodup_zipIdx _)
    (fun e he e' he' h => zipIdx_snd_injOn he he' (Nat.add_left_cancel h))
    (List.mk_mem_zipIdx_iff_getElem?.mpr (List.getElem?_eq_getElem hk)) _

/-- Integer adds commute, wrapping. -/
theorem redValue_i32_comm (old a b : Nat) : redValue .i32 (redValue .i32 old a) b = redValue .i32 (redValue .i32 old b) a := by
  simp only [redValue]
  omega

theorem redValue_i64_comm (old a b : Nat) : redValue .i64 (redValue .i64 old a) b = redValue .i64 (redValue .i64 old b) a := by
  simp only [redValue]
  omega

/-- Settles O40: each instruction's run; a slot that is read is the slot that the gang's adds leave. -/
theorem reductionInstructions : Obligations.ReductionInstructions := by
  unfold Obligations.ReductionInstructions
  refine ⟨?adds, ?applies, ?slotAdds, ?clear, ?denied, ?read, ?raw, fun old a b => ⟨redValue_i32_comm .., redValue_i64_comm ..⟩⟩
  case adds =>
    intro s g ty va vs hissue hchecks hkept
    change execMemAdd g ty va vs s = _
    simp only [execMemAdd, hkept, Bool.and_false]
    rw [if_neg Bool.false_ne_true, State.instr_run _ _ _ _ hissue hchecks]
    rfl
  case applies =>
    intro s a r hin hawake htrip htag hadm hxs hhost hdeck hpoison
    have hgo : (!s.awake || s.tw.tripped || (a.fmt != .xs && (s.hostKeeps a.dpa a.fmt.bytes true || s.deckHeld a.dpa a.fmt.bytes))) =
        false := by simp [hawake, htrip, hhost, hdeck]
    have hrun : exec (.reductionApply false) s = done ((s.onRed fun x => { x with inflight := r }).onMem fun m =>
        { m with bytes := memWrite m.bytes a.dpa (toLe a.fmt.bytes (redValue a.fmt (ofLe (s.mem.read a.dpa a.fmt.bytes)) a.value.toNat)) }) := by
      change done _ = _
      simp only [hin, hgo]
      rw [if_neg Bool.false_ne_true, if_neg (not_not_intro htag), if_neg (by simp [hadm]), if_neg (fun h => hxs h.1), State.applyAdd,
        if_neg hxs]
      exact congrArg done (if_neg (ne_true_of_eq_false hpoison))
    exact ⟨_, hrun, rfl, rfl⟩
  case slotAdds =>
    intro s a r b hin hawake htrip hxs
    have hgo : (!s.awake || s.tw.tripped || (a.fmt != .xs && (s.hostKeeps a.dpa a.fmt.bytes true || s.deckHeld a.dpa a.fmt.bytes))) =
        false := by simp [hawake, htrip, hxs]
    refine ⟨fun htag hadm => ?refused, fun htag => ?dropped⟩
    case refused =>
      change done _ = _
      simp only [hin, hgo]
      rw [if_neg Bool.false_ne_true, if_neg (not_not_intro htag), if_pos (by rw [hadm]; rfl)]
      rfl
    case dropped =>
      change done _ = _
      simp only [hin, hgo]
      rw [if_neg Bool.false_ne_true, if_pos htag]
      rfl
  case clear =>
    intro s g us uw i w hissue hus huw hi hok hw hlo hhi
    subst hi hw
    refine ⟨((s.issued g).flushAdds g).onRed fun r =>
      { r with slot := r.slot.put ((s.gang g).uReg us).toNat {} { w := ((s.gang g).uReg uw).toInt } }, ?cleared, Tab.look_put_self ..⟩
    case cleared =>
      change done _ = _
      rw [State.instr_run _ _ _ _ hissue]
      · rfl
      · rw [firstFault_pass (uOk_one hus), firstFault_pass (uOk_one huw), State.issued_slotOk, firstFault_pass hok,
          firstFault_pass (by simp [hlo, hhi])]
        rfl
  case denied =>
    intro s g us uw i hissue hus huw hi hbad
    subst hi
    change done _ = _
    rw [State.instr_fault _ _ _ _ 0xB ((s.gang g).uReg us).toNat hissue, State.issued_gangTag]
    · rfl
    · rw [firstFault_pass (uOk_one hus), firstFault_pass (uOk_one huw), State.issued_slotOk, firstFault_stop hbad]
      rfl
  case read =>
    intro s g ud us i r hissue hr hud hus hi hok hclean
    subst hi
    have hbad : s.slotFound g ((s.gang g).uReg us).toNat false = s := if_neg fun h => Bool.false_ne_true h.1
    have hrun : exec (.xsRd g r ud us false) s = done (((s.issued g).flushAdds g).onGang g fun x =>
        (x.setU ud (BitVec.ofNat 32 ((((s.issued g).flushAdds g).slotAt ((s.gang g).uReg us).toNat).read
          (if r = .zero then .zero else .even)).1)).flag ((((s.issued g).flushAdds g).slotAt ((s.gang g).uReg us).toNat).read
          (if r = .zero then .zero else .even)).2) := by
      change done _ = _
      dsimp only
      rw [hbad, State.instr_run _ _ _ _ hissue]
      rw [firstFault_pass (uOk_one hud), firstFault_pass (uOk_one hus), firstFault_pass (by simp [hr]), State.issued_slotOk,
        firstFault_pass hok, firstFault_pass (by rw [State.issued_slotAt, hclean]; rfl)]
      rfl
    refine ⟨_, hrun, ?_, ?_⟩
    · rw [State.onGang_slotAt, State.issued_flushAdds_slotAt]
    · rw [State.gang_onGang_self, Gang.flag_uReg, Gang.uReg_setU_self, State.issued_flushAdds_slotAt]
  case raw =>
    intro s g ud us i k hissue hud heven hus hi hok hclean hk
    subst hi
    have hbad : s.slotFound g ((s.gang g).uReg us).toNat false = s := if_neg fun h => Bool.false_ne_true h.1
    have hrun : exec (.xsRaw g ud us false) s = done (((s.issued g).flushAdds g).onGang g fun x =>
        (((s.issued g).flushAdds g).slotAt ((s.gang g).uReg us).toNat).raw.zipIdx.foldl (fun y e => y.setU (ud + e.2) e.1) x) := by
      change done _ = _
      dsimp only
      rw [hbad, State.instr_run _ _ _ _ hissue]
      rw [firstFault_pass (by simp [hud, heven]), firstFault_pass (uOk_one hus), State.issued_slotOk,
        firstFault_pass hok, firstFault_pass (by rw [State.issued_slotAt, hclean]; rfl)]
      rfl
    refine ⟨_, hrun, ?_, ?_⟩
    · rw [State.gang_onGang_self, Gang.uReg_setU_zipIdx (by rw [Slot.raw_length]; exact hk), State.issued_flushAdds_slotAt,
        List.getD_eq_getElem]
    · rw [State.onGang_slotAt, State.issued_flushAdds_slotAt]

end Sys2Proof.Machine
end

section
/-! PROOFS. Deferred operations and commits. -/

namespace Sys2Proof.Machine

open Sys2Proof

/-- An entry of a key that the block has none of goes to the buffer's end where there is room. -/
theorem State.deferOr_new {s : State} {g key : Nat} {k : DfrKind} (f : DfrEntry → DfrEntry) (now : State → State)
    (he : (s.blk (s.blockOf g)).early = false) (hk : s.newKey g k key = true) (hroom : (s.coreAt (gCore g)).dfr.length < 256) :
    s.deferOr g k key f now = s.onCoreAt (gCore g) fun c => { c with dfr := (s.coreAt (gCore g)).dfr ++
      [f { block := s.blockOf g, kind := k, key := key, value := 0, slot := {}, gangs := [] }] } := by
  have hnone : ((s.coreAt (gCore g)).dfr.any fun e => e.block == s.blockOf g && decide (e.kind = k) && e.key == key) = false := by
    rwa [State.newKey, Bool.not_eq_true'] at hk
  simp only [State.deferOr, State.deferEntry, he, hnone, if_pos hroom]
  rfl

/-- One whose buffer is full commits the block early. -/
theorem State.deferOr_full {s : State} {g key : Nat} {k : DfrKind} (f : DfrEntry → DfrEntry) (now : State → State)
    (he : (s.blk (s.blockOf g)).early = false) (hk : s.newKey g k key = true) (hfull : 256 ≤ (s.coreAt (gCore g)).dfr.length) :
    s.deferOr g k key f now = now (s.commitEarly g) := by
  have hnone : ((s.coreAt (gCore g)).dfr.any fun e => e.block == s.blockOf g && decide (e.kind = k) && e.key == key) = false := by
    rwa [State.newKey, Bool.not_eq_true'] at hk
  simp only [State.deferOr, State.deferEntry, he, hnone, if_neg (Nat.not_lt.mpr hfull)]
  rfl

@[simp] theorem State.ackCommit_red (c : Commit) (s : State) : (s.ackCommit c).red = s.red := by
  unfold State.ackCommit
  dsimp only
  repeat' split
  all_goals rfl

@[simp] theorem State.ackCommit_mem (c : Commit) (s : State) : (s.ackCommit c).mem = s.mem := by
  unfold State.ackCommit
  dsimp only
  repeat' split
  all_goals rfl

@[simp] theorem State.ackCommit_sync (c : Commit) (s : State) : (s.ackCommit c).sync = s.sync := by
  unfold State.ackCommit
  dsimp only
  repeat' split
  all_goals rfl

@[simp] theorem State.ackCommit_tw (c : Commit) (s : State) : (s.ackCommit c).tw = s.tw := by
  unfold State.ackCommit
  dsimp only
  repeat' split
  all_goals rfl

/-- A commit that no engine of the deck holds back. -/
theorem Commit.notHeld {s : State} {c : Commit} (h : ∀ e ∈ c.entries, ∀ ty, e.kind = .memAdd ty → s.deckHeld e.key (addFmt ty).bytes = false) :
    (c.entries.any fun e => match e.kind with | .memAdd ty => s.deckHeld e.key (addFmt ty).bytes | _ => false) = false := by
  refine List.any_eq_false.mpr fun e he => ?_
  split
  · next ty hk => exact ne_true_of_eq_false (h e he ty hk)
  · exact Bool.false_ne_true

/-- The commit that a block sends at its end. -/
def State.endCommit (s : State) (b : Nat) : Commit :=
  { launch := (s.blk b).launch, part := (s.launch (s.blk b).launch).part, ctx := (s.launch (s.blk b).launch).ctx
    core := (s.blk b).core, block := b, index := (s.blk b).index
    entries := if (s.blk b).early then [] else (s.coreAt (s.blk b).core).dfr.filter fun e => e.block == b
    early := false, flags := (s.blk b).flags }

/-- Settles O42: each command's run; the buffer and the ledger are read where they were written. -/
theorem deferredAndCommits : Obligations.DeferredAndCommits := by
  unfold Obligations.DeferredAndCommits
  refine ⟨?dfrAdd, ?dfrXs, ?new, fun s g key k f now he hk hfull => State.deferOr_full f now he hk hfull, ?blockEnd, ?first, ?second⟩
  case dfrAdd =>
    intro s g ty va vs hissue hchecks
    change done _ = _
    rw [State.instr_run _ _ _ _ hissue hchecks]
    rfl
  case dfrXs =>
    intro s g vi vx hissue hchecks
    change done _ = _
    rw [State.instr_run _ _ _ _ hissue hchecks]
    rfl
  case new =>
    intro s g key k f now he hk hroom
    rw [State.deferOr_new f now he hk hroom, State.coreAt_onCoreAt_self]
    exact ⟨rfl, rfl, rfl⟩
  case blockEnd =>
    intro s b hb hx hsent hrmw hcomb hmov hawake htrip hlive
    have hpending : (s.mem.rmw.any fun w => w.block == b) = false :=
      List.any_eq_false.mpr fun w hw => by simpa using hrmw w hw
    refine ⟨(s.onRed fun r => { r with commits := r.commits ++ [s.endCommit b] }).onBlk b fun y => { y with commitSent := true },
      s.endCommit b, ?sent, by rw [State.blk_onBlk_self], rfl, rfl, rfl, rfl, fun he => if_neg (ne_true_of_eq_false he)⟩
    case sent =>
      change done _ = done _
      simp only [hb, hx, hsent, hpending, hcomb, hmov, hawake, htrip, hlive]
      exact congrArg done (if_neg (by simp))
  case first =>
    intro s i c l hc hl hawake hdeck hlive hctx hrep hst he hled htrip
    subst hl
    change done _ = done _
    simp only [hc, hawake, hlive, hctx, hrep, hst, he, hled, Bool.not_true, Bool.not_false, Bool.and_self, Bool.false_or]
    refine congrArg done ((if_neg (ne_true_of_eq_false (Commit.notHeld hdeck))).trans ?_)
    rw [if_neg (by simp), if_neg (by simp), if_neg (by simp)]
    exact if_neg (by simp [htrip])
  case second =>
    intro s i c l hc hl hawake hdeck hlive hctx hrep hst he hled
    subst hl
    refine ⟨(s.onRed fun r => { r with commits := r.commits.eraseIdx i }).discardCommit c, ?discarded, ?_, ?_, ?_, ?_⟩
    case discarded =>
      change done _ = done _
      simp only [hc, hawake, hlive, hctx, hrep, hst, he, hled, Bool.not_true, Bool.not_false, Bool.and_self, Bool.false_or]
      refine congrArg done ((if_neg (ne_true_of_eq_false (Commit.notHeld hdeck))).trans ?_)
      rw [if_neg (by simp), if_neg (by simp)]
      exact if_pos trivial
    all_goals simp [State.discardCommit]

end Sys2Proof.Machine
end

section
/-! PROOFS. The homes of lines, and stores on their way to them. -/

namespace Sys2Proof.Machine

open Sys2Proof

/-! ### Coherence -/

/-- What the state of an agent becomes when another agent comes to share the line (R303). -/
def Moesi.lowered (agent : Nat) : Moesi → Moesi
  | .m => if agent = 9 then .s else .o
  | .e => .s
  | st => st

theorem Tab.look_map_key {α : Type} (f : Nat → α → α) (k : Nat) (d : α) (hd : ∀ i, f i d = d) (t : Tab α) :
    Tab.look (t.map fun e => (e.1, f e.1 e.2)) k d = f k (t.look k d) := by
  induction t with
  | nil => exact (hd k).symm
  | cons e t ih =>
    simp only [List.map_cons, Tab.look, ih]
    split
    · next h => rw [h]
    · rfl

theorem Moesi.lowered_excl (a : Nat) (st : Moesi) : st.lowered a ≠ .m ∧ st.lowered a ≠ .e := by
  cases st <;> simp only [Moesi.lowered] <;> (try split) <;> decide

/-- A lowered state owns the line only as its owner. -/
theorem Moesi.lowered_owns {a : Nat} {st : Moesi} (h : (st.lowered a).owns = true) : st = .m ∨ st = .o := by
  cases st <;> simp_all [Moesi.lowered, Moesi.owns]

/-- An agent that is not alone in the list is alone in the line where no other holds it. -/
theorem DirLine.at_of_not_shared {d : DirLine} {x a : Nat} (h : d.shared x = false) (ha : a ≠ x) : d.at_ a = .i := by
  unfold DirLine.shared at h
  unfold DirLine.at_
  generalize d.agents = t at h
  induction t with
  | nil => rfl
  | cons e t ih =>
    simp only [List.any_cons, Bool.or_eq_false_iff] at h
    rw [Tab.look]
    split
    · next he =>
      have := h.1
      simpa [he, ha] using this
    · exact ih h.2

/-- The states after a grant of a copy to share, to an agent that holds none. -/
theorem DirLine.granted_at {d : DirLine} {x : Nat} {k : ReqKind} (hk : exclusive k = false) (hx : d.at_ x = .i) (a : Nat) :
    (d.granted x k).at_ a = if a = x then (if d.shared x then .s else .e) else (d.at_ a).lowered a := by
  have hrun : (d.granted x k).agents = Tab.put (d.agents.map fun e => (e.1, e.2.lowered e.1)) x .i (if d.shared x then .s else .e) := by
    rw [DirLine.granted, if_neg (ne_true_of_eq_false hk), if_neg (not_not_intro hx)]
    cases d.shared x <;> rfl
  rw [DirLine.at_, hrun]
  by_cases h : a = x
  · rw [if_pos h, h, Tab.look_put_self]
  · rw [if_neg h, Tab.look_put_ne _ _ _ _ _ _ h, Tab.look_map_key Moesi.lowered a Moesi.i (fun _ => rfl)]
    rfl

theorem DirLine.granted_at_exclusive {d : DirLine} {x : Nat} {k : ReqKind} (hk : exclusive k = true) (a : Nat) :
    (d.granted x k).at_ a = if a = x then .m else .i := by
  rw [DirLine.granted, if_pos hk]
  simp only [DirLine.at_, Tab.look, eq_comm]

/-- A line that at most one agent holds is coherent. -/
theorem DirLine.coherent_of_sole {d : DirLine} {x : Nat} {st : Moesi} (h : ∀ a, d.at_ a = if a = x then st else .i) :
    d.coherent := by
  intro a b hab
  rw [h a, h b]
  by_cases ha : a = x
  · rw [if_neg (show ¬ b = x from fun hb => hab (ha.trans hb.symm))]
    exact ⟨fun _ => rfl, fun _ => rfl⟩
  · rw [if_neg ha]
    exact ⟨fun h => by simp at h, fun h => Moesi.noConfusion h⟩

theorem DirLine.granted_coherent {d : DirLine} (h : d.coherent) (x : Nat) (k : ReqKind) : (d.granted x k).coherent := by
  cases hk : exclusive k
  case true => exact DirLine.coherent_of_sole (DirLine.granted_at_exclusive hk)
  case false =>
    by_cases hx : d.at_ x = .i
    · cases hs : d.shared x
      case false =>
        refine DirLine.coherent_of_sole (x := x) (st := .e) fun a => ?_
        rw [DirLine.granted_at hk hx, hs]
        split
        · rfl
        · next ha => rw [DirLine.at_of_not_shared hs ha]; rfl
      case true =>
        intro a b hab
        rw [DirLine.granted_at hk hx, DirLine.granted_at hk hx, hs]
        obtain ⟨hnm, hne⟩ := Moesi.lowered_excl a (d.at_ a)
        by_cases ha : a = x
        · rw [if_pos ha]
          exact ⟨fun h => by simp at h, Moesi.noConfusion⟩
        · rw [if_neg ha]
          refine ⟨fun h => absurd h (not_or.mpr ⟨hnm, hne⟩), fun hao => ?_⟩
          by_cases hb : b = x
          · rw [if_pos hb]; rfl
          · rw [if_neg hb, Bool.eq_false_iff]
            intro hown
            obtain ⟨hexcl, howned⟩ := h a b hab
            obtain ⟨hexcl', howned'⟩ := h b a hab.symm
            have hstA := Moesi.lowered_owns (a := a) (st := d.at_ a) (by rw [hao]; rfl)
            have hstB := Moesi.lowered_owns hown
            rcases hstA with hA | hA
            · rw [hexcl (.inl hA)] at hstB
              simp at hstB
            · have := howned hA
              rcases hstB with hB | hB <;> rw [hB] at this <;> simp [Moesi.owns] at this
    · rw [DirLine.granted, if_neg (ne_true_of_eq_false hk), if_pos hx]
      exact h

/-! ### Requests of the dies -/

theorem hbmLine_lt {l : Nat} (h : hbmLine l = true) : ¬ hostLine ≤ l := by
  have := of_decide_eq_true h
  unfold hostLine
  omega

/-- A die's request that the home takes up, where the owner check says so. -/
theorem exec_homeRequest {s : State} {l x w p : Nat} {k : ReqKind} (b : List Byte) (hl : hbmLine l = true) (ha : s.awake = true)
    (hx : x < 8) (hp : s.owner (4 * x + w / 4) = some p) (hwb : k ≠ .writeBack) (hev : k ≠ .evict) :
    exec (.homeRequest l x k ⟨w, b, .ok⟩) s = .next (match s.homeRefuses l x p with
      | some dst => s.bwRefusal p dst (l * 256)
      | none => s.homeArrive l { agent := x, kind := k, nacks := 0, way := w }) := by
  have hhost : decide (hostLine ≤ l) = false := decide_eq_false (hbmLine_lt hl)
  change execHomeRequest l x k ⟨w, b, .ok⟩ s = _
  cases k
  case writeBack => exact absurd rfl hwb
  case evict => exact absurd rfl hev
  all_goals
    simp only [execHomeRequest, ha, hl, hx, hp, hhost, State.homeErr, decide_true, Bool.true_or, Bool.and_self, Bool.not_true,
      Bool.false_and]
    rfl

/-- A fill that finds a way touches no line but the one it puts out. -/
theorem State.fillL2_keeps {s : State} {d w l : Nat} (hw : (s.fillWay d w l).isSome = true) :
    (s.fillL2 d w l).dirAt l = s.dirAt l ∧ (s.fillL2 d w l).mem.bytes = s.mem.bytes ∧ (s.fillL2 d w l).mem.resv = s.mem.resv := by
  obtain ⟨v, hv⟩ := Option.isSome_iff_exists.mp hw
  have hother : ∀ (t : State) (e : L2Line), e.line ≠ l → (t.giveUp e.line d).dirAt l = t.dirAt l :=
    fun t e he => State.dirAt_onDir_ne _ _ _ _ he.symm
  unfold State.fillL2
  rw [hv]
  split
  · exact ⟨rfl, rfl, rfl⟩
  · dsimp only
    split
    · next e _ =>
      by_cases he : e.line = l
      · rw [if_pos he]
        exact ⟨rfl, rfl, rfl⟩
      · rw [if_neg he]
        exact ⟨hother s e he, rfl, rfl⟩
    · exact ⟨rfl, rfl, rfl⟩

/-- A grant to a die of the only request of a line, where no other waits for its place. -/
theorem State.grantHead_die {s : State} {l : Nat} {r : HomeReq} (hq : (s.dirAt l).queue = [r]) (hx : r.agent < 8)
    (hway : (s.fillWay r.agent r.way l).isSome = true) (hresv : ∀ e ∈ s.mem.resv.look (l * 256 / 0x900000000) [], e.1 ≠ l) :
    (s.grantHead l).dirAt l = { (s.dirAt l).granted r.agent r.kind with queue := [], busy := false, fwdTo := none } ∧
      (s.grantHead l).mem.bytes = s.mem.bytes := by
  have h9 : ¬ r.agent = 9 := by omega
  generalize ht : (s.onDir l fun d => { d.granted r.agent r.kind with queue := [], busy := false, fwdTo := none }) = t
  have hdir : t.dirAt l = { (s.dirAt l).granted r.agent r.kind with queue := [], busy := false, fwdTo := none } := by
    rw [← ht, State.dirAt_onDir_self]
  obtain ⟨hd, hb, hr⟩ := State.fillL2_keeps (s := t) (d := r.agent) (w := r.way) (l := l) (by rw [← ht]; exact hway)
  have hnone : ((t.fillL2 r.agent r.way l).mem.resv.look (l * 256 / 0x900000000) []).find? (fun e => e.1 == l) = none := by
    refine List.find?_eq_none.mpr fun e he => ?_
    rw [hr, ← ht] at he
    simpa using hresv e he
  have hrun : s.grantHead l = t.fillL2 r.agent r.way l := by
    unfold State.grantHead
    rw [hq]
    dsimp only
    rw [ht, if_pos hx, if_neg h9, hnone]
  rw [hrun]
  exact ⟨hd.trans hdir, hb.trans (by rw [← ht]; rfl)⟩

/-- A request of a die for a line without holders and other requests is granted as soon as it joins. -/
theorem State.joinHome_free {s : State} {l : Nat} {r : HomeReq} (hd : s.dirAt l = {}) (hx : r.agent < 8)
    (hway : (s.fillWay r.agent r.way l).isSome = true) (hresv : ∀ e ∈ s.mem.resv.look (l * 256 / 0x900000000) [], e.1 ≠ l) :
    ((s.joinHome l r).dirAt l).at_ r.agent = (if exclusive r.kind then .m else .e) ∧ ((s.joinHome l r).dirAt l).queue = [] ∧
      (s.joinHome l r).mem.bytes = s.mem.bytes := by
  generalize ht : (s.onDir l fun d => { d with queue := d.queue ++ [r] }) = t
  have hdir : t.dirAt l = { queue := [r] } := by
    rw [← ht, State.dirAt_onDir_self, hd]
    rfl
  obtain ⟨hg, hb⟩ := State.grantHead_die (s := t) (r := r) (by rw [hdir]) hx (by rw [← ht]; exact hway) (by rw [← ht]; exact hresv)
  have hrun : s.joinHome l r = t.grantHead l := by
    rw [State.joinHome, ht, State.serveLine, State.serveHome]
    simp only [hdir]
    rw [if_neg Bool.false_ne_true, if_neg (by cases r.kind <;> simp [DirLine.at_, Tab.look, exclusive, Moesi.owns])]
    exact State.serveHome_of_empty (by rw [hg]) 63
  rw [hrun, hg, hb, hdir]
  refine ⟨?_, rfl, by rw [← ht]; rfl⟩
  cases hk : exclusive r.kind
  case true => exact (DirLine.granted_at_exclusive hk _).trans (if_pos rfl)
  case false => exact (DirLine.granted_at hk rfl _).trans (if_pos rfl)

/-- Settles O43: each command's run; the line is read at its directory entry. -/
theorem homesAndStores : Obligations.HomesAndStores := by
  unfold Obligations.HomesAndStores
  refine ⟨?grant, ?full, ?refused, ?writeback, fun d x k h => DirLine.granted_coherent h x k, ?retry, ?waits, ?granted, ?tenure,
    ?bisnp, ?drain, ?merge⟩
  case grant =>
    intro s l x w p k b hl ha hx hp hr hway hd hresv hwb hev
    have hroom : (s.dirAt l).queue.length < 16 := by rw [hd]; exact Nat.zero_lt_succ _
    obtain ⟨hat, hqueue, hbytes⟩ := State.joinHome_free (r := { agent := x, kind := k, nacks := 0, way := w }) hd hx hway hresv
    refine ⟨_, ?joins, hat.trans ?state, hqueue, hbytes⟩
    case joins =>
      rw [exec_homeRequest b hl ha hx hp hwb hev, hr]
      exact congrArg _ (if_pos hroom)
    case state =>
      cases k
      case writeBack => exact absurd rfl hwb
      case evict => exact absurd rfl hev
      all_goals rfl
  case full =>
    intro s l x w p k b hl ha hx hp hr hq hwb hev
    refine ⟨s.onMem fun m => { m with nacked := m.nacked ++ [(l, s.nackWait { agent := x, kind := k, nacks := 0, way := w })] },
      ?nacked, rfl, rfl⟩
    case nacked =>
      rw [exec_homeRequest b hl ha hx hp hwb hev, hr]
      exact congrArg _ (if_neg (Nat.not_lt.mpr hq))
  case refused =>
    intro s l x w p d k b hl ha hx hp hr hwb hev
    rw [exec_homeRequest b hl ha hx hp hwb hev, hr]
  case writeback =>
    intro s l x w b hl ha hx hst
    have hx9 : x ≠ 9 := by omega
    refine ⟨s.giveUp l x, ?given, ?gone, ?kept, rfl⟩
    case given =>
      change execHomeRequest l x .writeBack ⟨w, b, .ok⟩ s = _
      exact congrArg _ ((if_neg (by simp [ha, hl])).trans ((if_pos (hst.imp id Or.inl)).trans (if_neg hx9)))
    case gone =>
      rw [State.giveUp, State.dirAt_onDir_self]
      exact Tab.look_drop_self ..
    case kept =>
      intro y hy
      rw [State.giveUp, State.dirAt_onDir_self]
      exact Tab.look_drop_ne _ _ _ _ hy
  case retry =>
    intro s l x r hfind hdue hq
    change Host.Outcome.next _ = _
    simp only [hfind, if_neg (Nat.not_lt.mpr hdue), if_pos hq]
  case waits =>
    intro s l y hy hw ht
    change Host.Outcome.next _ = _
    simp only [hy, List.contains_eq_mem, decide_eq_false hw, decide_eq_true ht]
    rfl
  case granted =>
    intro s l y hy hw ht
    change Host.Outcome.next _ = _
    simp only [hy, List.contains_eq_mem, decide_eq_false hw, decide_eq_false ht]
    rfl
  case tenure =>
    intro s l x ht hw hs
    refine ⟨s.onDir l fun d => { d with tenure := d.tenure.filter fun a => a != x }, ?ends, ?ended, ?agents⟩
    case ends =>
      have hs' : ((s.onDir l fun d => { d with tenure := d.tenure.filter fun a => a != x }).dirAt l).snoop = none := by
        rw [State.dirAt_onDir_self]; exact hs
      have hw' : (s.onDir l fun d => { d with tenure := d.tenure.filter fun a => a != x }).mem.fwdWait.contains (l, x) = false := by
        rw [List.contains_eq_mem]; exact decide_eq_false hw
      change Host.Outcome.next _ = _
      simp only [List.contains_eq_mem, decide_eq_true ht, Bool.not_true]
      rw [if_neg Bool.false_ne_true, if_neg (by rw [List.contains_eq_mem] at hw'; exact ne_true_of_eq_false hw'), hs']
    case ended =>
      rw [State.dirAt_onDir_self]
      simp
    case agents => rw [State.dirAt_onDir_self]
  case bisnp =>
    intro s l r q hb hf hq h9
    change Host.Outcome.next _ = _
    simp only [hb, hf, hq, Option.isNone_none, Bool.and_self, h9, List.isEmpty_nil, Bool.not_true]
    rw [if_neg (by simp)]
  case drain =>
    intro s c bad e r hc ha ht
    change Host.Outcome.next _ = _
    simp only [hc, ha, ht, Bool.not_false, Bool.and_self, if_true]
  case merge =>
    intro s w r hr ha ht hd
    change Host.Outcome.next _ = _
    simp only [hr, ha, ht, hd, Bool.not_false, Bool.and_self, if_true]

end Sys2Proof.Machine
end

section
/-! PROOFS. Membership of the fleet. -/

namespace Sys2Proof.Machine

open Sys2Proof

/-! ### The table of devices -/

theorem State.onDev_fleet (d : Nat) (f : FleetDev → FleetDev) (s : State) :
    (s.onDev d f).fleet = { s.fleet with dev := s.fleet.dev.upd d {} f } := by
  unfold State.onDev
  dsimp only
  split
  · rfl
  · simp

theorem State.fdev_onDev_self (d : Nat) (f : FleetDev → FleetDev) (s : State) : (s.onDev d f).fdev d = f (s.fdev d) := by
  rw [State.fdev, State.onDev_fleet]
  exact Tab.look_upd_self ..

theorem State.fdev_onDev_ne {d e : Nat} (h : e ≠ d) (f : FleetDev → FleetDev) (s : State) : (s.onDev d f).fdev e = s.fdev e := by
  rw [State.fdev, State.onDev_fleet]
  exact Tab.look_upd_ne _ _ _ _ _ _ h

/-- A change of a device is known by what it makes of the device. -/
theorem State.onDev_congr {d : Nat} {f g : FleetDev → FleetDev} {s : State} (h : f (s.fdev d) = g (s.fdev d)) :
    s.onDev d f = s.onDev d g := by
  have e : (s.onFleet fun x => { x with dev := x.dev.upd d {} f }) = s.onFleet fun x => { x with dev := x.dev.upd d {} g } :=
    congrArg (fun y => s.onFleet fun x => { x with dev := s.fleet.dev.put d {} y }) h
  simp only [State.onDev, e]

@[simp] theorem State.onDev_role (d : Nat) (f : FleetDev → FleetDev) (s : State) : (s.onDev d f).isManager = s.isManager := by
  unfold State.onDev
  dsimp only
  split
  · rfl
  · simp [State.isManager]

/-! ### A write of FLEET_CTRL -/

theorem bits_setBit {v : Word} {k : Nat} (hk : 6 ≤ k) : bits (setBit v k) 0 6 = bits v 0 6 := by
  simp only [bits, setBit, BitVec.toNat_or, BitVec.toNat_twoPow, Nat.shiftRight_zero, Nat.or_mod_two_pow]
  have h : 2 ^ k % 2 ^ 32 % 2 ^ 6 = 0 := by
    rw [Nat.mod_mod_of_dvd _ (by decide)]
    exact Nat.mod_eq_zero_of_dvd (Nat.pow_dvd_pow 2 hk)
  rw [h, Nat.or_zero]

theorem State.fleetCtrl_save {s : State} {v : Word} (h29 : v.getLsbD 29 = false) (h30 : v.getLsbD 30 = false)
    (hs : s.isStandalone = false) :
    s.fleetCtrl (setBit v 31) = (s.onFleet fun f => { f with barrierEn := v.getLsbD 28 }).saveFleet := by
  have h28 : (setBit v 31).getLsbD 28 = v.getLsbD 28 := by rw [getLsbD_setBit]; exact Bool.or_false _
  have h29' : (setBit v 31).getLsbD 29 = false := by rw [getLsbD_setBit, h29]; rfl
  have h30' : (setBit v 31).getLsbD 30 = false := by rw [getLsbD_setBit, h30]; rfl
  have h31 : (setBit v 31).getLsbD 31 = true := by rw [getLsbD_setBit]; exact Bool.or_true _
  simp only [State.fleetCtrl, h28, h29', h30', h31, Bool.false_and, Bool.true_and]
  exact if_pos (by rw [Bool.not_eq_true']; exact hs)

theorem State.fleetCtrl_forget {s : State} {v : Word} (h29 : v.getLsbD 29 = false) (h31 : v.getLsbD 31 = false)
    (hm : s.isManager = true) (hl : (s.fdev (bits v 0 6)).st = .lost) :
    s.fleetCtrl (setBit v 30) = (s.onFleet fun f => { f with barrierEn := v.getLsbD 28 }).onDev (bits v 0 6) fun _ => {} := by
  have h28 : (setBit v 30).getLsbD 28 = v.getLsbD 28 := by rw [getLsbD_setBit]; exact Bool.or_false _
  have h29' : (setBit v 30).getLsbD 29 = false := by rw [getLsbD_setBit, h29]; rfl
  have h30 : (setBit v 30).getLsbD 30 = true := by rw [getLsbD_setBit]; exact Bool.or_true _
  have h31' : (setBit v 30).getLsbD 31 = false := by rw [getLsbD_setBit, h31]; rfl
  simp only [State.fleetCtrl, h28, h29', h30, h31', Bool.false_and, Bool.true_and, bits_setBit (show 6 ≤ 30 by decide)]
  refine (if_neg Bool.false_ne_true).trans ((if_neg Bool.false_ne_true).trans (if_pos ?_))
  exact Bool.and_eq_true_iff.mpr ⟨hm, decide_eq_true hl⟩

theorem State.fleetCtrl_clear {s : State} {v : Word} (h30 : v.getLsbD 30 = false) (h31 : v.getLsbD 31 = false)
    (hw : s.isWorker = true) (hn : s.fleet.devNum = none) :
    s.fleetCtrl (setBit v 29) =
      ((s.onFleet fun f => { f with barrierEn := v.getLsbD 28 }).onFleet fun f => { f with id := 0 }).saveFleetId := by
  have h28 : (setBit v 29).getLsbD 28 = v.getLsbD 28 := by rw [getLsbD_setBit]; exact Bool.or_false _
  have h29 : (setBit v 29).getLsbD 29 = true := by rw [getLsbD_setBit]; exact Bool.or_true _
  have h30' : (setBit v 29).getLsbD 30 = false := by rw [getLsbD_setBit, h30]; rfl
  have h31' : (setBit v 29).getLsbD 31 = false := by rw [getLsbD_setBit, h31]; rfl
  simp only [State.fleetCtrl, h28, h29, h30', h31', Bool.false_and, Bool.true_and]
  refine (if_neg Bool.false_ne_true).trans ((if_pos ?_).trans rfl)
  exact Bool.and_eq_true_iff.mpr ⟨hw, Option.isNone_iff_eq_none.mpr hn⟩

/-- Settles O44: each command's run; a message that is taken has its effect in the state that took it. -/
theorem fleetMembership : Obligations.FleetMembership := by
  unfold Obligations.FleetMembership
  refine ⟨?announce, ?hear, ?round, ?early, ?assign, ?routes, ?beat, ?beaten, ?lost, ?cut, ?alive, ?adrift, ?loss, ?sleep, ?deep,
    ?save, ?forget, ?clear⟩
  case announce =>
    intro s ha hw hn
    change done _ = _
    simp only [ha, hw, hn, Bool.not_true, Bool.false_and, Option.isNone_none, Bool.true_or, Bool.or_self]
    rfl
  case hear =>
    intro s x port m hup ht hm hn hid
    refine ⟨x.onFleet fun f => { f with
        roundOpen := true, roundTick := if f.roundOpen then f.roundTick else x.time.tick
        round := hear (BitVec.ofNat 64 (mf m 0 8), 0, port :: (List.range (mf m 12 1)).map (fun i => mf m (13 + i) 1),
          (List.range 8).map fun i => BitVec.ofNat 64 (mf m (16 + 8 * i) 8)) f.round }, ?heard, rfl, rfl⟩
    case heard =>
      change done _ = _
      rw [takeEarly_run s x _ _ port m hup ht]
      simp only [hid, hm, List.length_cons, List.length_map, List.length_range]
      rw [if_neg (by omega)]
      rfl
  case round =>
    intro s t sn n path peers hup hm hopen hdue hr ht hold hnew
    subst ht
    change done _ = _
    simp only [hup, hm, hopen, decide_eq_false (Nat.not_lt.mpr hdue), hr, Bool.not_true, Bool.or_self,
      List.foldl_cons, List.foldl_nil, insHeard, List.filterMap_cons, List.filterMap_nil, hold, Option.map_none, List.any_nil,
      Bool.not_false, List.filter_cons, List.filter_nil, if_true, List.map_nil, hnew, List.nil_append]
    rfl
  case early =>
    intro s h
    change done _ = _
    rw [if_pos (by simp [h])]
    rfl
  case assign =>
    intro s x port m b hup ht hdst hw hsn hid hid0 hown
    change done _ = _
    rw [takeEarly_run s x _ _ port m hup ht]
    dsimp only
    rw [if_neg (not_not_intro hdst), if_neg (by simp [hw, hsn, ← hid]), if_neg hown, if_neg hid0]
    rfl
  case routes =>
    intro s x t port m hup ht hroutes hm
    subst hroutes
    change done _ = _
    rw [takeEarly_run s x _ _ port m hup ht]
    dsimp only
    rw [if_neg (ne_true_of_eq_false hm)]
    rfl
  case beat =>
    intro s hup hm
    change done _ = _
    simp only [hup, hm, Bool.not_true, if_true]
    rfl
  case beaten =>
    intro s x port m hup ht hm hret hj
    refine ⟨x.onDev m.src fun y => if y.st = .free then y else { y with lastBeat := x.time.tick }, ?noted, ?_⟩
    case noted =>
      change done _ = _
      rw [takeEarly_run s x _ _ port m hup ht]
      dsimp only
      rw [if_pos hm, if_neg (ne_true_of_eq_false hret)]
      rfl
    rw [State.fdev_onDev_self, if_neg (by rw [hj]; decide)]
    exact ⟨rfl, hj, fun d hd => State.fdev_onDev_ne hd ..⟩
  case lost =>
    intro s d ha hm hd hj hl
    change done _ = _
    rw [if_pos (by simp [ha, hm, hd, hj, hl])]
    rfl
  case cut =>
    intro s d c ha hm hd hst heg hc hl
    change done _ = _
    rw [if_pos (by simp [ha, hm, hd, hst, heg, hc, hl])]
    rfl
  case alive =>
    intro s d hj hl
    change done _ = _
    rw [if_neg (by simp [hj]; omega)]
    rfl
  case adrift =>
    intro s ha hw hown h0 hl
    change done _ = _
    rw [if_pos (by simp [ha, hw, hown, h0, hl])]
    rfl
  case loss =>
    intro s x port m ha ht hm h0
    change done _ = _
    rw [takeMsg_run s x _ _ port m ha ht]
    dsimp only
    rw [if_neg (by simp [hm, h0])]
    rfl
  case sleep =>
    intro s x port m ha ht hm hpair hc hj
    refine ⟨x.onDev m.src fun y => { y with st := .asleep, cutFrom := none }, ?asleep, by rw [State.fdev_onDev_self]⟩
    case asleep =>
      change done _ = _
      rw [takeMsg_run s x _ _ port m ha ht]
      simp only [hpair, hc, hm, Bool.true_or, Bool.not_true, Bool.true_and, State.onDev_role]
      rw [if_neg Bool.false_ne_true, if_neg (by decide), if_neg (by decide), if_neg (by decide)]
      exact congrArg done (State.onDev_congr (if_neg (by simp [hj])))
  case deep =>
    intro s x port m ha ht hm hpair hc hj
    change done _ = _
    rw [takeMsg_run s x _ _ port m ha ht]
    simp only [hpair, hc, hm, Bool.true_or, Bool.not_true, Bool.true_and, State.onDev_role]
    rw [if_neg Bool.false_ne_true, if_neg (by decide), if_neg (by decide), if_pos (by decide), if_neg (by decide)]
    exact congrArg (fun t : State => done (t.leaveBarrier m.src)) (State.onDev_congr (if_neg (by simp [hj])))
  case save =>
    intro s v hready h29 h30 hst
    change done _ = _
    rw [if_neg (by simp [hready]), State.fleetCtrl_save h29 h30 hst]
    rfl
  case forget =>
    intro s v hready h29 h31 hm hlost
    refine ⟨(s.hostWake.onFleet fun f => { f with barrierEn := v.getLsbD 28 }).onDev (bits v 0 6) fun _ => {}, ?forgot,
      State.fdev_onDev_self .., fun d hd => State.fdev_onDev_ne hd ..⟩
    case forgot =>
      change done _ = _
      rw [if_neg (by simp [hready]), State.fleetCtrl_forget h29 h31 hm hlost]
      rfl
  case clear =>
    intro s v hready h30 h31 hw hn
    refine ⟨(s.hostWake.onFleet fun f => { f with barrierEn := v.getLsbD 28 }).onFleet fun f => { f with id := 0 }, ?cleared, rfl⟩
    case cleared =>
      change done _ = _
      rw [if_neg (by simp [hready]), State.fleetCtrl_clear h30 h31 hw hn]
      rfl

end Sys2Proof.Machine
end

section
/-! PROOFS. Messages between devices. -/

namespace Sys2Proof.Machine

open Sys2Proof

/-- A synchronisation message that came before is acknowledged and counted, and has no other effect (R391). -/
theorem State.syncIn_seen {s : State} {m : FleetMsg} (h : (s.seen m).isSome = true) (f : State → State) :
    s.syncIn m f = (s.onSync fun x => { x with dupCnt := satInc x.dupCnt }).sendAck m.src m.msgId 2 0 := if_pos h

/-- One that is new has its effect while no epoch is closed. -/
theorem State.syncIn_new {s : State} {m : FleetMsg} (h : s.seen m = none) (hc : s.fleet.closed = none) (f : State → State) :
    s.syncIn m f = f (s.accept m) := by
  unfold State.syncIn
  rw [if_neg (by rw [h]; exact Bool.false_ne_true), hc]
  exact if_neg Bool.false_ne_true

/-- Settles O45: a message that is taken has its effect in the state that took it. -/
theorem fleetMessages : Obligations.FleetMessages := by
  unfold Obligations.FleetMessages
  refine ⟨?again, ?forward, ?status, ?ack, ?data, ?refusal, ?write, ?writeRefused, ?read, ?badToken, ?token, ?dup, ?add, ?post,
    ?noMirror, ?mirror, ?pair, ?drop⟩
  case again =>
    intro s x port m ha ht hm h0 hs
    change done _ = _
    rw [takeMsg_run s x _ _ port m ha ht]
    dsimp only
    rw [if_neg (by simp [hm, h0]), hs]
    rfl
  case forward =>
    intro s x t u port k m p ha htk hm h0 hs hk hk32 hp hlen ht hu
    subst hp ht hu
    change done _ = _
    rw [takeMsg_run s x _ _ port m ha htk]
    have hmod : k % 32 = k := Nat.mod_eq_of_lt hk32
    dsimp only
    rw [if_neg (by simp [hm, h0]), hs]
    simp only [hk, hmod, hlen, bne_self_eq_false, Bool.and_false]
    rw [if_neg Bool.false_ne_true, if_neg (Nat.not_le.mpr hk32)]
    rfl
  case status =>
    intro s x port pid d m id i ha ht hid hf
    subst hid
    change done _ = _
    rw [takeMsg_run s x _ _ port m ha ht]
    dsimp only
    rw [hf]
    rfl
  case ack =>
    intro s x t port pid d m h id i ha htk hid hheld hpair ht hf
    subst hid ht
    change done _ = _
    rw [takeMsg_run s x _ _ port m ha htk]
    dsimp only
    rw [hheld]
    dsimp only
    rw [if_neg (ne_true_of_eq_false hpair), hf]
    dsimp only
    split <;> rfl
  case data =>
    intro s x port pid d m t i ha ht hf hi
    change done _ = _
    rw [takeMsg_run s x _ _ port m ha ht]
    dsimp only
    rw [hf]
    dsimp only
    rw [show (x.onFleet _).inflight pid = some i from hi]
    rfl
  case refusal =>
    intro s x port pid d m t ha ht hf
    change done _ = _
    rw [takeMsg_run s x _ _ port m ha ht]
    dsimp only
    rw [hf]
    rfl
  case write =>
    intro s x port m ha hw ht hs h0 hok
    change done _ = _
    rw [if_neg (ne_true_of_eq_false hw), takeMsg_run s x _ _ port m ha ht]
    dsimp only
    rw [if_neg (by simp [hs]), if_pos h0, if_pos hok]
    rfl
  case writeRefused =>
    intro s x port m ha hw ht hs h0 hok
    change done _ = _
    rw [if_neg (ne_true_of_eq_false hw), takeMsg_run s x _ _ port m ha ht]
    dsimp only
    rw [if_neg (by simp [hs]), if_pos h0, if_neg (ne_true_of_eq_false hok)]
    rfl
  case read =>
    intro s x port n m ha hw ht hn h1 h4096 h64 ha64 h0
    have hform : ¬ (n = 0 ∨ 4096 < n ∨ n % (if m.sub = 0 then 64 else 8) ≠ 0 ∨ mf m 0 8 % (if m.sub = 0 then 64 else 8) ≠ 0) := by
      rw [if_pos h0]; omega
    refine ⟨fun hok hclean => ?sent, fun hok => ?readRefused⟩
    case sent =>
      have hmarked : (unitsOf (mf m 0 8) n).any x.unitMarked = false :=
        List.any_eq_false.mpr fun v hv => ne_true_of_eq_false (hclean v hv)
      change done _ = _
      rw [if_neg (ne_true_of_eq_false hw), takeMsg_run s x _ _ port m ha ht]
      dsimp only
      rw [hn, if_neg hform, if_pos h0, if_pos hok, if_neg (ne_true_of_eq_false hmarked)]
      rfl
    case readRefused =>
      change done _ = _
      rw [if_neg (ne_true_of_eq_false hw), takeMsg_run s x _ _ port m ha ht]
      dsimp only
      rw [hn, if_neg hform, if_pos h0, if_neg (ne_true_of_eq_false hok)]
      rfl
  case badToken =>
    intro s x port m ha ht hv
    change done _ = _
    rw [takeMsg_run s x _ _ port m ha ht]
    dsimp only
    rw [hv]
    rfl
  case token =>
    intro s x port m v ha ht hv
    change done _ = _
    rw [takeMsg_run s x _ _ port m ha ht]
    dsimp only
    rw [hv]
    rfl
  case dup =>
    rintro s x port m c ha (⟨rfl, ht⟩ | ⟨rfl, ht⟩ | ⟨rfl, ht⟩) hs
    all_goals
      change done _ = _
      rw [takeMsg_run s x _ _ port m ha ht, State.syncIn_seen hs]
      rfl
  case add =>
    intro s x port m ha ht hs hc
    change done _ = _
    rw [takeMsg_run s x _ _ port m ha ht, State.syncIn_new hs hc]
    rfl
  case post =>
    intro s x port m ha ht hs hc
    change done _ = _
    rw [takeMsg_run s x _ _ port m ha ht, State.syncIn_new hs hc]
    rfl
  case noMirror =>
    intro s x port m ha ht hs hc hnone
    change done _ = _
    rw [takeMsg_run s x _ _ port m ha ht, State.syncIn_new hs hc]
    dsimp only
    rw [hnone]
    rfl
  case mirror =>
    intro s x port k c m ha ht hs hc hone horph hend
    change done _ = _
    rw [takeMsg_run s x _ _ port m ha ht, State.syncIn_new hs hc]
    dsimp only
    rw [hone, List.foldl_cons, List.foldl_nil, if_neg (ne_true_of_eq_false horph), if_neg (by rw [hend]; decide)]
    rfl
  case pair =>
    intro s x port e m ha ht hs hcons
    change done _ = _
    rw [takeMsg_run s x _ _ port m ha ht]
    dsimp only
    rw [hcons]
    dsimp only
    rw [if_neg (by simp [hs])]
    rfl
  case drop =>
    intro s v e hready hat hmgr h31
    refine ⟨s.hostWake.onFleet fun f => { f with prod := f.prod.drop e }, ?dropped, Tab.look_drop_self .., fun k hk =>
      Tab.look_drop_ne _ _ _ _ hk⟩
    case dropped =>
      change done _ = _
      rw [if_neg (by simp [hready]), State.pairCfg, hat]
      dsimp only
      rw [if_neg Bool.false_ne_true, if_neg (by rw [hmgr]; exact Bool.false_ne_true), if_pos (by rw [h31]; rfl)]
      rfl

end Sys2Proof.Machine
end

section
/-! PROOFS. The slack-water barrier. -/

namespace Sys2Proof.Machine

open Sys2Proof

/-- The closed epoch leaves no partial of itself or of an epoch before it in a pair (R402). -/
theorem Pair.fold_byEpoch (k : Nat) (p : Pair) : ∀ b ∈ (p.fold k).byEpoch, epochLe b.1 k = false := fun b hb => by
  simpa using (List.mem_filter.mp hb).2

/-- Settles O46: a message that is taken has its effect in the state that took it. -/
theorem slackWaterBarrier : Obligations.SlackWaterBarrier := by
  unfold Obligations.SlackWaterBarrier
  refine ⟨?start, ?opened, ?notDrained, ?drained, ?totals, ?late, ?close, ?closed, ?applied, ?advAgain, ?adv, ?doneAt⟩
  case start =>
    intro s ha hm hen hidle hdue
    change done _ = _
    rw [if_pos (by simp [ha, hm, hen, hidle, hdue])]
    rfl
  case opened =>
    intro s x port m ha ht hm h0
    refine ⟨x.openAt (mf m 0 4), ?opens, rfl, rfl, rfl, rfl⟩
    case opens =>
      change done _ = _
      rw [takeMsg_run s x _ _ port m ha ht, if_neg (by simp [hm, h0])]
      rfl
  case notDrained =>
    intro s ha ho hd
    change done _ = _
    rw [if_pos (by simp [hd])]
    rfl
  case drained =>
    intro s t ha ho hd hm ht
    subst ht
    change done _ = _
    rw [if_neg (by simp [ha, ho, hd]), if_neg (by exact ne_true_of_eq_false hm)]
    rfl
  case totals =>
    intro s x port m ha ht hm hk hp hph
    change done _ = _
    rw [takeMsg_run s x _ _ port m ha ht, if_neg (by simp [hm, hk, hp, hph])]
    rfl
  case late =>
    intro s ha hm hph hdue
    change done _ = _
    rw [if_pos (by simp [ha, hm, hph, hdue])]
    rfl
  case close =>
    intro s x port m ha ht hm h0
    change done _ = _
    rw [takeMsg_run s x _ _ port m ha ht, if_neg (by simp [hm, h0])]
    rfl
  case closed =>
    refine fun s k => ⟨rfl, fun e he => ?_⟩
    obtain ⟨e', -, rfl⟩ := List.mem_map.mp he
    exact Pair.fold_byEpoch k e'.2
  case applied =>
    intro s x port m ha ht hm hk hp hph
    change done _ = _
    rw [takeMsg_run s x _ _ port m ha ht, if_neg (by simp [hm, hk, hp, hph])]
    rfl
  case advAgain =>
    intro s x port m ha ht hm h0 hseen
    change done _ = _
    rw [takeMsg_run s x _ _ port m ha ht]
    dsimp only
    rw [if_neg (by simp [hm, h0]), if_pos (by simp [hseen])]
    rfl
  case adv =>
    intro s x port m ha ht hm h0 hseen hone
    change done _ = _
    rw [takeMsg_run s x _ _ port m ha ht]
    dsimp only
    rw [if_neg (by simp [hm, h0]), if_neg (by simp [hseen]), hone, List.range_one, List.foldl_cons, List.foldl_nil]
    rfl
  case doneAt =>
    intro s x port m ha ht hm h0
    refine ⟨x.onFleet fun f => { f with barriers := mf m 0 4 }, ?done, rfl, rfl⟩
    case done =>
      change done _ = _
      rw [takeMsg_run s x _ _ port m ha ht, if_neg (by simp [hm, h0])]
      rfl

end Sys2Proof.Machine
end

section
/-! PROOFS. The SPDM responder over DOE. -/

namespace Sys2Proof.Machine

open Sys2Proof

/-- A request to a function whose mailbox answers is answered from the state it finds (R487). -/
theorem spdmRequest_doe {s : State} {tp : Nat} (htp : 2 ≤ tp) (hdoe : s.doe tp = true) (hdev : s.pwr.dev ≠ .sleep) (src : Nat)
    (secured : Bool) (f : State → State × MgmtMsg) :
    spdmRequest tp src secured f s = .next (State.settle ((f s).1.emit (.mgmt tp (f s).2))) := by
  rw [spdmRequest, if_neg (Nat.not_lt.mpr htp), if_pos hdoe, State.hostWake_of_ne_sleep hdev]
  rfl

theorem State.negotiated_of_phase {s : State} {tp : Nat} (h : 3 ≤ s.phase tp) : s.negotiated tp none = true := by
  rw [State.negotiated, decide_eq_true h]
  rfl

/-- A measurement that a transport sees exists, and lies in the device's blocks or in its partition's (R433). -/
theorem State.visible_mem {s : State} {tp i : Nat} {d : BitVec 384} (h : (i, d) ∈ s.visible tp) :
    s.measurement i = some d ∧ (tp < 3 ∨ (1 ≤ i ∧ i ≤ 6) ∨ i = 16 + (tp - 3)) := by
  obtain ⟨k, -, hk⟩ := List.mem_filterMap.mp h
  split at hk
  · next hmay =>
    obtain ⟨e, he, hpair⟩ := Option.map_eq_some_iff.mp hk
    obtain ⟨rfl, rfl⟩ := Prod.mk.inj hpair
    refine ⟨he, ?_⟩
    simpa [mayMeasure, or_assoc] using hmay
  · cases hk

/-- Settles O47: the answer of each request, from the state that finds it. -/
theorem spdmRequests : Obligations.SpdmRequests := by
  unfold Obligations.SpdmRequests
  intro s tp src htp hdoe hdev
  have hrun := spdmRequest_doe htp hdoe hdev src
  refine ⟨?version, fun h => ?caps, fun h => ?capsBad, fun h => ?algs, fun h => ?digests, fun c off n h hc hfit hn => ?cert,
    fun nonce h => ?challenge, fun nonce h => ?meas, fun i d h => State.visible_mem h, fun x n h hfull hfree => ?key,
    fun x h hfull => ?keyFull, fun n h => ?fin, fun n h => ?ends, fun n km h hs => ?ide, fun n km h => ?ideBad, fun i => ?disc⟩
  case version =>
    change execGetVersion tp src s = _
    rw [execGetVersion, hrun]
  case caps =>
    change execGetCapabilities tp src s = _
    rw [execGetCapabilities, hrun, if_pos h]
  case capsBad =>
    change execGetCapabilities tp src s = _
    rw [execGetCapabilities, hrun, if_neg h]
  case algs =>
    change execNegotiateAlgorithms tp src true s = _
    rw [execNegotiateAlgorithms, hrun, if_neg (not_not_intro h), if_pos rfl]
  case digests =>
    change execGetDigests tp src none s = _
    rw [execGetDigests, hrun, if_pos (State.negotiated_of_phase h)]
  case cert =>
    change execGetCertificate tp src none 0 off n s = _
    rw [execGetCertificate, hrun, State.negotiated_of_phase h, Bool.not_true, if_neg Bool.false_ne_true, if_neg (not_not_intro rfl), hc]
    dsimp only
    rw [if_neg (by omega), Nat.min_eq_left (by omega)]
  case challenge =>
    change execChallenge tp src 0 nonce s = _
    rw [execChallenge, hrun, State.negotiated_of_phase h, Bool.not_true, if_neg Bool.false_ne_true, if_neg (not_not_intro rfl)]
  case meas =>
    change execGetMeasurements tp src none .all nonce s = _
    rw [execGetMeasurements, hrun, State.negotiated_of_phase h, Bool.not_true, if_neg Bool.false_ne_true]
  case key =>
    change execKeyExchange tp src x s = _
    rw [execKeyExchange, hrun, State.negotiated_of_phase h, Bool.not_true, if_neg Bool.false_ne_true, hfull, if_neg Bool.false_ne_true,
      hfree]
  case keyFull =>
    change execKeyExchange tp src x s = _
    rw [execKeyExchange, hrun, State.negotiated_of_phase h, Bool.not_true, if_neg Bool.false_ne_true, if_pos hfull]
  case fin =>
    change execFinish tp src n true s = _
    rw [execFinish, hrun, h, Bool.not_true, if_neg Bool.false_ne_true, if_pos rfl]
  case ends =>
    change execEndSession tp src n s = _
    rw [execEndSession, hrun, if_pos h]
  case ide =>
    change execIdeKmRequest tp src (some n) km s = _
    rw [execIdeKmRequest, hrun]
    dsimp only
    rw [if_pos ⟨h, hs⟩]
  case ideBad =>
    change execIdeKmRequest tp src (some n) km s = _
    rw [execIdeKmRequest, hrun]
    dsimp only
    rw [if_neg fun hc => h hc.1]
  case disc =>
    change execDoeDiscovery tp i s = _
    rw [execDoeDiscovery, if_pos hdoe, State.hostWake_of_ne_sleep hdev]
    rfl

end Sys2Proof.Machine
end

section
/-! PROOFS. MCTP and PLDM. -/

namespace Sys2Proof.Machine

open Sys2Proof

/-- A message that waits is answered from the state that holds it. -/
theorem mctpRequest_waits {s : State} {b src ty : Nat} (h : s.waits b src ty = true) (f : State → State) :
    mctpRequest b src ty f s = .next (f s).settle := by
  rw [mctpRequest, if_pos h]
  rfl

/-- A packet that the pilot takes. -/
theorem MctpPacket.taken {s : State} {p : MctpPacket} (hrun : s.pilotRuns = true) (hb : p.binding < 2) (hs : p.source < 256)
    (hpec : p.pecOk = true) (hlen : p.payload.length ≤ 64) :
    ¬ (!s.pilotRuns || decide (2 ≤ p.binding) || decide (256 ≤ p.source) || (p.binding == 0 && !p.pecOk)
      || decide (64 < p.payload.length)) = true := by
  simp [hrun, hpec]
  omega

theorem State.sendEvent_mgmt (s : State) : s.sendEvent.mgmt = s.mgmt := by
  unfold State.sendEvent
  split
  · split <;> rfl
  · rfl

theorem mem_sensorIds {i : Nat} (hlo : 9 ≤ i) (hhi : i ≤ 30) : sensorIds.contains i = true := by
  have : i ∈ sensorIds := List.mem_append_left _ (List.mem_map.mpr ⟨i - 1, List.mem_range.mpr (by omega), by omega⟩)
  simpa using this

/-- Settles O48: the answer of each message, from the state that holds it. -/
theorem managementRequests : Obligations.ManagementRequests := by
  unfold Obligations.ManagementRequests
  refine ⟨?first, ?outOfOrder, fun s b src => ⟨_, rfl, rfl⟩, ?release, ?alert, ?control, ?pldm, ?retry⟩
  case first =>
    intro s p hrun hb hs hpec hlen hsom heom hseq
    refine ⟨(s.onMgmt fun m => { m with reasm := m.reasm.drop (mctpKey p.binding p.source) }).onMgmt fun m =>
      { m with reasm := m.reasm.ins (mctpKey p.binding p.source) ((p.seq + 1) % 4, p.payload) }, ?kept, Tab.find_ins_self .., rfl⟩
    case kept =>
      change done _ = _
      rw [if_neg (MctpPacket.taken hrun hb hs hpec hlen), ]
      simp only [hsom, if_true]
      rw [List.nil_append, if_neg (by omega), if_neg (ne_true_of_eq_false heom)]
      rfl
  case outOfOrder =>
    intro s p n l hrun hb hs hpec hlen hsom hfind hn
    refine ⟨s.onMgmt fun m => { m with reasm := m.reasm.drop (mctpKey p.binding p.source) }, ?dropped, rfl, rfl⟩
    case dropped =>
      change done _ = _
      rw [if_neg (MctpPacket.taken hrun hb hs hpec hlen)]
      simp only [hsom, Bool.false_eq_true, if_false, hfind]
      rw [if_pos (.inl hn)]
      rfl
  case release =>
    intro s hrun
    change done _ = _
    rw [if_pos hrun]
    rfl
  case alert =>
    intro s hrun halert
    change done _ = _
    rw [if_pos (by rw [hrun, halert]; rfl)]
    rfl
  case control =>
    intro s b src hw
    have hrun := mctpRequest_waits hw
    refine ⟨fun e hlo hhi => ?setEid, ?getEid, ?uuid, ?version, fun t h0 h1 h5 h6 h255 => ?unsupported, ?types⟩
    case setEid =>
      change execSetEndpointId b src e s = _
      rw [execSetEndpointId, hrun, if_pos ⟨hlo, hhi⟩]
    case getEid =>
      change execGetEndpointId b src s = _
      rw [execGetEndpointId, hrun]
    case uuid =>
      change execGetEndpointUuid b src s = _
      rw [execGetEndpointUuid, hrun]
    case version =>
      change execGetMctpVersionSupport b src 0 s = _
      rw [execGetMctpVersionSupport, hrun, if_pos (.inr rfl)]
    case unsupported =>
      change execGetMctpVersionSupport b src t s = _
      rw [execGetMctpVersionSupport, hrun, if_neg (by omega), if_neg (by simp [mctpTypes, h0, h1, h5, h6])]
    case types =>
      change execGetMessageTypeSupport b src s = _
      rw [execGetMessageTypeSupport, hrun]
      rfl
  case pldm =>
    intro s b src hw
    have hrun := mctpRequest_waits hw
    refine ⟨?tid, fun t h0 h255 => ?setTid, fun t ht => ?pldmVersion, ?pldmTypes, fun t ht => ?commands, ?info,
      fun i hlo hhi => ?pdr, fun i v hv => ?reading, ?device, ?thermal, fun r => ?setReceiver, ?receiver⟩
    case tid =>
      change execGetTid b src s = _
      rw [execGetTid, hrun]
    case pldmTypes =>
      change execGetPldmTypes b src s = _
      rw [execGetPldmTypes, hrun]
      rfl
    case info =>
      change execGetPdrRepositoryInfo b src s = _
      rw [execGetPdrRepositoryInfo, hrun]
      rfl
    case setReceiver =>
      change ∃ u : State, execSetEventReceiver b src r s = _ ∧ _
      rw [execSetEventReceiver, hrun]
      exact ⟨_, rfl, rfl, rfl⟩
    case receiver =>
      change execGetEventReceiver b src s = _
      rw [execGetEventReceiver, hrun]
    case setTid =>
      change execSetTid b src t s = _
      rw [execSetTid, hrun, if_neg (not_or.mpr ⟨h0, h255⟩)]
    case pldmVersion =>
      change execGetPldmVersion b src t s = _
      rw [execGetPldmVersion, hrun, if_pos]
      rcases ht with rfl | rfl | rfl <;> rfl
    case commands =>
      change execGetPldmCommands b src t s = _
      rw [execGetPldmCommands, hrun, if_pos]
      rcases ht with rfl | rfl | rfl <;> rfl
    case pdr =>
      change execGetPdr b src i s = _
      rw [execGetPdr, hrun]
      simp only [if_neg (show ¬ i = 0 by omega), if_neg (show ¬ i ≤ 8 by omega), mem_sensorIds hlo hhi, if_true]
    case reading =>
      change execGetSensorReading b src i s = _
      rw [execGetSensorReading, hrun, hv]
    case device =>
      change execGetStateSensorReadings b src 64 s = _
      rw [execGetStateSensorReadings, hrun, if_pos rfl]
    case thermal =>
      change execGetStateSensorReadings b src 65 s = _
      rw [execGetStateSensorReadings, hrun, if_neg (by decide), if_pos rfl]
  case retry =>
    intro s i v n r hrun hev
    refine ⟨fun hn => ?again, fun hn => ⟨((s.logOcc { event := 0x706, sev := 2, code := i }).eventDone), ?given, ?events⟩⟩
    case again =>
      change done _ = _
      rw [hev]
      dsimp only
      rw [if_neg (by simp [hrun]), if_pos hn]
      rfl
    case given =>
      change done _ = _
      rw [hev]
      dsimp only
      rw [if_neg (by simp [hrun]), if_neg (Nat.not_lt.mpr hn)]
      rfl
    case events =>
      have hmgmt : (s.logOcc { event := 0x706, sev := 2, code := i }).mgmt = s.mgmt := by simp
      rw [State.eventDone, State.sendEvent_mgmt, State.onMgmt_mgmt, hmgmt, hev]
      rfl

end Sys2Proof.Machine
end

section
/-! PROOFS. Firmware update. -/

namespace Sys2Proof.Machine

open Sys2Proof

/-! ### The jobs of the image slots -/

/-- The jobs that the controller has yet to end, the one it works on first. -/
def Nvm.jobs (n : Nvm) : List SlotJob := n.slotBusy.toList ++ n.slotJobs

theorem State.slotStart_keeps (s : State) :
    s.slotStart.nvm.jobs = s.nvm.jobs ∧ s.slotStart.nvm.img = s.nvm.img ∧ s.slotStart.mgmt = s.mgmt := by
  unfold State.slotStart
  split
  · next j r hbusy hjobs =>
    refine ⟨?_, rfl, rfl⟩
    rw [Nvm.jobs, Nvm.jobs, hbusy, hjobs]
    rfl
  · exact ⟨rfl, rfl, rfl⟩

theorem State.slotQueue_jobs (l : List SlotJob) (s : State) :
    (s.slotQueue l).nvm.jobs = s.nvm.jobs ++ l ∧ (s.slotQueue l).nvm.img = s.nvm.img ∧ (s.slotQueue l).mgmt = s.mgmt := by
  have hq : (s.onNvm fun n => { n with slotJobs := n.slotJobs ++ l }).nvm.jobs = s.nvm.jobs ++ l :=
    (List.append_assoc ..).symm
  unfold State.slotQueue
  dsimp only
  split
  · exact ⟨hq, rfl, rfl⟩
  · obtain ⟨hj, hi, hm⟩ := State.slotStart_keeps (s.onNvm fun n => { n with slotJobs := n.slotJobs ++ l })
    exact ⟨hj.trans hq, hi, hm⟩

/-! ### Requests -/

/-- A request of the update agent in one of the phases it belongs to. -/
theorem updRequest_run {s : State} {b src : Nat} {l : List UpdPhase} (hw : s.waits b src 1 = true) (hb : s.mgmt.updBind = b)
    (hs : s.mgmt.updSource = src) (hi : s.mgmt.upd ≠ .idle) (hp : l.contains s.mgmt.upd = true) (f : State → State) :
    updRequest b src l f s = .next (f s).settle := by
  rw [updRequest, mctpRequest_waits hw, if_neg hi, if_neg (by simp [hb, hs]), if_pos hp]

/-- A chunk of the size asked for. -/
theorem exec_firmwareDataResponse {s : State} {b src : Nat} {l : List Byte} (hw : s.waits b src 1 = true) (hb : s.mgmt.updBind = b)
    (hs : s.mgmt.updSource = src) (hd : s.mgmt.upd = .download) (he : s.slotErasing = false) (hl : l.length = s.chunk) :
    ∃ t : State, (s.onMgmt fun m => { m with inbox := m.inbox.drop (mctpKey b src) }).takeChunk l = t ∧
      exec (.firmwareDataResponse b src l) s = .next (State.settle (if t.mgmt.updSize ≤ t.mgmt.updOff then
        (t.onMgmt fun m => { m with upd := .verify }).emit (.mgmt b (.transferComplete true)) else t.askChunk)) := by
  refine ⟨_, rfl, ?_⟩
  change execFirmwareDataResponse b src l s = _
  rw [execFirmwareDataResponse, if_pos (by simp [hw, hd, he, hb, hs])]
  dsimp only
  rw [if_neg (not_not_intro (by exact hl))]
  rfl

/-- What a chunk adds to the jobs and to the place in the image. -/
theorem State.takeChunk_keeps {l : List Byte} {s : State} {fin : Bool}
    (hf : decide (s.mgmt.updSize ≤ s.mgmt.updOff + l.length) = fin) :
    (s.takeChunk l).nvm.jobs = s.nvm.jobs ++ pagesOf s.mgmt.updTarget fin ((s.mgmt.updPage ++ l).length + 1)
        (s.mgmt.updOff - s.mgmt.updPage.length) (s.mgmt.updPage ++ l) ∧
      (s.takeChunk l).nvm.img = s.nvm.img ∧ (s.takeChunk l).mgmt.updOff = s.mgmt.updOff + l.length ∧
      (s.takeChunk l).mgmt.updSize = s.mgmt.updSize ∧ (s.takeChunk l).mgmt.upd = s.mgmt.upd ∧
      (fin = true → (s.takeChunk l).mgmt.updPage = []) := by
  subst hf
  obtain ⟨hj, hi, hm⟩ := State.slotQueue_jobs (pagesOf s.mgmt.updTarget (decide (s.mgmt.updSize ≤ s.mgmt.updOff + l.length))
    ((s.mgmt.updPage ++ l).length + 1) (s.mgmt.updOff - s.mgmt.updPage.length) (s.mgmt.updPage ++ l)) s
  exact ⟨hj, hi, rfl, (congrArg Mgmt.updSize hm :), (congrArg Mgmt.upd hm :), fun h => if_pos h⟩

/-- Settles O49: the answer of each request and the controller's turns, from the state that holds them. -/
theorem firmwareUpdate : Obligations.FirmwareUpdate := by
  unfold Obligations.FirmwareUpdate
  refine ⟨?refused, ?begins, ?idle, ?phases, ?erased, ?programmed, ?verify, ?silence⟩
  case refused =>
    intro s b src n hw hidle hno
    change execRequestUpdate b src n s = _
    rw [execRequestUpdate, mctpRequest_waits hw, if_neg (not_not_intro hidle), if_pos]
    rcases hno with h | h | h <;> simp [h]
  case begins =>
    intro s b src n hw hidle htrial hdis htrip hsrc hsel
    change ∃ u : State, execRequestUpdate b src n s = _ ∧ _
    rw [execRequestUpdate, mctpRequest_waits hw, if_neg (not_not_intro hidle), if_neg (by simp [htrial, hdis, htrip])]
    simp only [if_pos hsrc, if_pos hsel]
    exact ⟨_, rfl, rfl, rfl, rfl, rfl, rfl, rfl⟩
  case idle =>
    intro s b src hw hidle
    refine ⟨?parameters, ?table, ?status⟩
    case parameters =>
      change execGetFirmwareParameters b src s = _
      rw [execGetFirmwareParameters, mctpRequest_waits hw, if_pos (.inl hidle)]
    case table =>
      change execPassComponentTable b src s = _
      rw [execPassComponentTable, updRequest, mctpRequest_waits hw, if_pos hidle]
    case status =>
      change execGetStatus b src s = _
      rw [execGetStatus, mctpRequest_waits hw, hidle]
  case phases =>
    intro s b src hw hb hs
    refine ⟨fun hu => ?passTable, fun n hu hlo hhi => ?component, fun n hu hn => ?badComponent, fun l hu he hl hlt => ?chunk,
      fun l hu he hl hle => ?lastChunk, fun hu he l => ?erasing, fun hu => ?activate, fun hu => ?selfContained, fun hu => ?cancelPart,
      fun hu => ?cancel⟩
    case passTable =>
      change execPassComponentTable b src s = _
      rw [execPassComponentTable, updRequest_run hw hb hs (by simp [hu]) (by simp [hu])]
    case component =>
      obtain ⟨hj, hi, hm⟩ := State.slotQueue_jobs ((List.range (blocksOf n)).map fun k => .erase s.mgmt.updTarget k) s
      change ∃ u : State, execUpdateComponent b src 1 n s = _ ∧ _
      rw [execUpdateComponent, updRequest_run hw hb hs (by simp [hu]) (by simp [hu]), if_neg (by omega)]
      exact ⟨_, rfl, rfl, rfl, rfl, hi, hj⟩
    case badComponent =>
      change execUpdateComponent b src 1 n s = _
      rw [execUpdateComponent, updRequest_run hw hb hs (by simp [hu]) (by simp [hu]), if_pos (.inr hn)]
    case chunk =>
      obtain ⟨t, ht, hrun⟩ := exec_firmwareDataResponse hw hb hs hu he hl
      obtain ⟨hj, hi, hoff, hsize, hupd, -⟩ := State.takeChunk_keeps (l := l)
        (s := s.onMgmt fun m => { m with inbox := m.inbox.drop (mctpKey b src) }) (decide_eq_false (Nat.not_le.mpr hlt))
      rw [ht] at hj hi hoff hsize hupd
      have hmore : ¬ t.mgmt.updSize ≤ t.mgmt.updOff := by
        rw [hsize, hoff]
        exact Nat.not_le.mpr hlt
      rw [if_neg hmore] at hrun
      refine ⟨t, hrun, hupd.trans hu, hoff, hi, hj⟩
    case lastChunk =>
      obtain ⟨t, ht, hrun⟩ := exec_firmwareDataResponse hw hb hs hu he hl
      obtain ⟨-, -, hoff, hsize, -, hpage⟩ := State.takeChunk_keeps (l := l)
        (s := s.onMgmt fun m => { m with inbox := m.inbox.drop (mctpKey b src) }) (decide_eq_true hle)
      rw [ht] at hoff hsize hpage
      have hall : t.mgmt.updSize ≤ t.mgmt.updOff := by
        rw [hsize, hoff]
        exact hle
      rw [if_pos hall] at hrun
      exact ⟨t.onMgmt fun m => { m with upd := .verify }, hrun, rfl, hpage rfl⟩
    case erasing =>
      change execFirmwareDataResponse b src l s = _
      rw [execFirmwareDataResponse, if_neg (by simp [he])]
      rfl
    case activate =>
      refine ⟨s.onMgmt fun m => { m with upd := .activate, inbox := m.inbox.drop (mctpKey b src) }, ?activates, rfl, rfl⟩
      case activates =>
        change execActivateFirmware b src false s = _
        rw [execActivateFirmware, updRequest_run hw hb hs (by simp [hu]) (by simp [hu]), if_neg Bool.false_ne_true]
        rfl
    case selfContained =>
      change execActivateFirmware b src true s = _
      rw [execActivateFirmware, updRequest_run hw hb hs (by simp [hu]) (by simp [hu]), if_pos rfl]
    case cancelPart =>
      change execCancelUpdateComponent b src s = _
      rw [execCancelUpdateComponent, updRequest_run hw hb hs (by simp [hu]) (by simp [hu])]
    case cancel =>
      change execCancelUpdate b src s = _
      rw [execCancelUpdate, updRequest_run hw hb hs hu (by cases h : s.mgmt.upd <;> simp_all)]
  case erased =>
    intro s a b hbusy
    change execNvmEraseDone s = _
    rw [execNvmEraseDone, hbusy]
    rfl
  case programmed =>
    intro s a o l r hbusy
    change execNvmPageDone r s = _
    rw [execNvmPageDone, hbusy]
    rfl
  case verify =>
    intro s img hu hrun hjobs hbusy
    refine ⟨fun hr => ?accepted, fun r hr => ?rejected⟩
    case accepted =>
      change ∃ u : State, execVerifyComplete img s = _ ∧ _
      rw [execVerifyComplete, if_pos ⟨hu, hrun, hjobs, hbusy⟩]
      dsimp only
      rw [hr]
      exact ⟨_, rfl, rfl, rfl, rfl⟩
    case rejected =>
      change execVerifyComplete img s = _
      rw [execVerifyComplete, if_pos ⟨hu, hrun, hjobs, hbusy⟩]
      dsimp only
      rw [hr]
      rfl
  case silence =>
    intro s hrun
    change execUpdateIdleTimeout s = _
    rw [execUpdateIdleTimeout, if_pos hrun]
    rfl

end Sys2Proof.Machine
end

section
/-! PROOFS. Cluster atomics where the table of blocks is not in ascending order. -/

namespace Sys2Proof.Machine

open Sys2Proof

/-- No lane register of a gang has a new value: each gang's are as they were, or the gang is gone. -/
def KeepsLanes (s t : State) : Prop := ∀ g, (t.gang g).v = (s.gang g).v ∨ (t.gang g).v = []

/-! ### The lane registers through an operation on the state -/

namespace KeepsLanes

variable {s₀ s : State}

theorem refl (s : State) : KeepsLanes s s := fun _ => .inl rfl

theorem of_gang (h : KeepsLanes s₀ s) {t : State} (hg : t.core.gang = s.core.gang) : KeepsLanes s₀ t := by
  intro g
  rw [State.gang, hg]
  exact h g

theorem of_core (h : KeepsLanes s₀ s) {t : State} (hc : t.core = s.core) : KeepsLanes s₀ t := h.of_gang (by rw [hc])

theorem onGang (h : KeepsLanes s₀ s) {g : Nat} {f : Gang → Gang} (hf : ∀ x : Gang, (f x).v = x.v) :
    KeepsLanes s₀ (s.onGang g f) := by
  intro k
  by_cases hk : k = g
  · subst hk
    have hv : ((s.onGang k f).gang k).v = (s.gang k).v := by
      change ((s.core.gang.upd k {} f).look k {}).v = _
      rw [Tab.look_upd_self, hf]
      rfl
    rw [hv]
    exact h k
  · have hv : (s.onGang g f).gang k = s.gang k := Tab.look_upd_ne _ _ _ _ _ _ hk
    rw [hv]
    exact h k

/-- A gang that is dropped has no lane registers. -/
theorem dropGang (h : KeepsLanes s₀ s) {g : Nat} : KeepsLanes s₀ (s.onCore fun c => { c with gang := c.gang.drop g }) := by
  intro k
  by_cases hk : k = g
  · subst hk
    refine .inr ?_
    change ((s.core.gang.drop k).look k {}).v = []
    rw [Tab.look_drop_self]
  · have hv : (s.onCore fun c => { c with gang := c.gang.drop g }).gang k = s.gang k := Tab.look_drop_ne _ _ _ _ hk
    rw [hv]
    exact h k

theorem foldl (h : KeepsLanes s₀ s) {α : Type} {f : State → α → State} {l : List α}
    (hf : ∀ t a, KeepsLanes s₀ t → KeepsLanes s₀ (f t a)) : KeepsLanes s₀ (l.foldl f s) := by
  induction l generalizing s with
  | nil => exact h
  | cons a l ih => exact ih (hf _ a h)

theorem ite {t : State} {c : Prop} [Decidable c] (h : KeepsLanes s₀ s) (ht : KeepsLanes s₀ t) :
    KeepsLanes s₀ (if c then s else t) := by
  split
  · exact h
  · exact ht

/-! ### Operations that leave the cores alone -/

theorem onPwr (h : KeepsLanes s₀ s) {f : Pwr → Pwr} : KeepsLanes s₀ (s.onPwr f) := h
theorem onQ (h : KeepsLanes s₀ s) {f : Queues → Queues} : KeepsLanes s₀ (s.onQ f) := h
theorem onPart (h : KeepsLanes s₀ s) {f : Parts → Parts} : KeepsLanes s₀ (s.onPart f) := h
theorem onObj (h : KeepsLanes s₀ s) {f : Objs → Objs} : KeepsLanes s₀ (s.onObj f) := h
theorem onSync (h : KeepsLanes s₀ s) {f : Sync → Sync} : KeepsLanes s₀ (s.onSync f) := h
theorem onMem (h : KeepsLanes s₀ s) {f : Mem → Mem} : KeepsLanes s₀ (s.onMem f) := h
theorem onWork (h : KeepsLanes s₀ s) {f : Work → Work} : KeepsLanes s₀ (s.onWork f) := h
theorem onCim (h : KeepsLanes s₀ s) {f : Cim → Cim} : KeepsLanes s₀ (s.onCim f) := h
theorem onMgmt (h : KeepsLanes s₀ s) {f : Mgmt → Mgmt} : KeepsLanes s₀ (s.onMgmt f) := h
theorem emit (h : KeepsLanes s₀ s) {o : Output} : KeepsLanes s₀ (s.emit o) := h
theorem onSlice (h : KeepsLanes s₀ s) {n : Nat} {f : Slice → Slice} : KeepsLanes s₀ (s.onSlice n f) := h
theorem onTally (h : KeepsLanes s₀ s) {i : Nat} {f : Tally → Tally} : KeepsLanes s₀ (s.onTally i f) := h
theorem onSem (h : KeepsLanes s₀ s) {i : Nat} {f : Sem → Sem} : KeepsLanes s₀ (s.onSem i f) := h
theorem onObjAt (h : KeepsLanes s₀ s) {k : Nat} {f : Obj → Obj} : KeepsLanes s₀ (s.onObjAt k f) := h
theorem onCtx (h : KeepsLanes s₀ s) {k : Nat} {f : Ctx → Ctx} : KeepsLanes s₀ (s.onCtx k f) := h
theorem onQueue (h : KeepsLanes s₀ s) {q : QueueId} {f : Queue → Queue} : KeepsLanes s₀ (s.onQueue q f) := h
theorem onInflight (h : KeepsLanes s₀ s) {pid : Nat} {f : Inflight → Inflight} : KeepsLanes s₀ (s.onInflight pid f) := h
theorem nearDropRange (h : KeepsLanes s₀ s) {c va n : Nat} : KeepsLanes s₀ (s.nearDropRange c va n) := h
theorem dropLines (h : KeepsLanes s₀ s) {d n : Nat} : KeepsLanes s₀ (s.dropLines d n) := h
theorem dropCaches (h : KeepsLanes s₀ s) {c : Nat} : KeepsLanes s₀ (s.dropCaches c) := h
theorem giveUp (h : KeepsLanes s₀ s) {l x : Nat} : KeepsLanes s₀ (s.giveUp l x) := h
theorem acquire (h : KeepsLanes s₀ s) {g : Nat} : KeepsLanes s₀ (s.acquire g) := h
theorem loseStatus (h : KeepsLanes s₀ s) {g : Nat} : KeepsLanes s₀ (s.loseStatus g) := h
theorem closeStream (h : KeepsLanes s₀ s) {c a : Nat} : KeepsLanes s₀ (s.closeStream c a) := h
theorem nextMsgId (h : KeepsLanes s₀ s) : KeepsLanes s₀ s.nextMsgId.2 := h

/-- A change of the cores beyond their gangs. -/
theorem onCore (h : KeepsLanes s₀ s) {f : Cores → Cores} (hf : ∀ c : Cores, (f c).gang = c.gang) : KeepsLanes s₀ (s.onCore f) :=
  h.of_gang (hf s.core)

theorem onCoreAt (h : KeepsLanes s₀ s) {c : Nat} {f : Core → Core} : KeepsLanes s₀ (s.onCoreAt c f) := h.onCore fun _ => rfl

theorem logOcc (h : KeepsLanes s₀ s) {o : Occ} : KeepsLanes s₀ (s.logOcc o) := h.of_core (by simp)
theorem raiseVf (h : KeepsLanes s₀ s) {n b : Nat} : KeepsLanes s₀ (s.raiseVf n b) := h.of_core (by simp)
theorem mismatch (h : KeepsLanes s₀ s) {e : Nat} {p : Option Nat} {a : DWord} {tag : Word} :
    KeepsLanes s₀ (s.mismatch e p a tag) := h.logOcc.of_core rfl
theorem finish (h : KeepsLanes s₀ s) {pid st r d : Nat} : KeepsLanes s₀ (s.finish pid st r d) := h.of_core (by simp)
theorem refuse (h : KeepsLanes s₀ s) {q : QueueId} {p : Packet} {st r d : Nat} : KeepsLanes s₀ (s.refuse q p st r d) :=
  h.of_core (by simp)
theorem sendMsg (h : KeepsLanes s₀ s) {m : FleetMsg} : KeepsLanes s₀ (s.sendMsg m) := h.of_core (by simp)
theorem pldmEvent (h : KeepsLanes s₀ s) {i v : Nat} : KeepsLanes s₀ (s.pldmEvent i v) := h.of_core (by simp)
theorem wake (h : KeepsLanes s₀ s) {a b : Nat} : KeepsLanes s₀ (s.wake a b) := h.of_core (by simp)
theorem pllFollow (h : KeepsLanes s₀ s) {d : Nat} : KeepsLanes s₀ (s.pllFollow d) := h.of_core (by simp)
theorem syncLog (h : KeepsLanes s₀ s) {e sev : Nat} {p : Option Nat} {i : Nat} : KeepsLanes s₀ (s.syncLog e sev p i) := h.logOcc
theorem logFault (h : KeepsLanes s₀ s) {g n code : Nat} {a : DWord} {l : Word} : KeepsLanes s₀ (s.logFault g n code a l) :=
  h.of_core (by simp)
theorem kill (h : KeepsLanes s₀ s) {c code g : Nat} {l : Option Nat} : KeepsLanes s₀ (s.kill c code g l) :=
  h.of_core (by simp)

/-! ### Sync stores and their waiters -/

/-- The predicate of a sync instruction's outcome is no lane register. -/
theorem setResult_v (p : Nat) (b : Bool) (x : Gang) : (x.setResult p b).v = x.v := by
  unfold Gang.setResult
  split
  · rfl
  · rfl

theorem gangFault (h : KeepsLanes s₀ s) {g code : Nat} {a : DWord} : KeepsLanes s₀ (s.gangFault g code a) := by
  unfold State.gangFault
  exact h.logFault.kill.onGang fun _ => rfl

theorem syncGang (h : KeepsLanes s₀ s) {g : Nat} {tally : Bool} {u p : Nat} {r : SyncRes} {v : DWord} :
    KeepsLanes s₀ (s.syncGang g tally u p r v) := by
  unfold State.syncGang
  have ht : KeepsLanes s₀ (s.onGang g fun x => { x with wait := .ready }) := h.onGang fun _ => rfl
  exact .ite ht.gangFault (.ite (ht.onGang fun x => setResult_v _ _ (x.setPair u v))
    (ht.onGang fun x => setResult_v _ _ (x.setU u _)))

theorem gotIt (h : KeepsLanes s₀ s) {g : Nat} {tally owned : Bool} {r : SyncRes} : KeepsLanes s₀ (s.gotIt g tally owned r) := by
  unfold State.gotIt
  exact .ite (acquire (.ite h h.loseStatus)) h

theorem syncFinish (h : KeepsLanes s₀ s) {pid : Nat} {r : SyncRes} {v : Nat} : KeepsLanes s₀ (s.syncFinish pid r v) := by
  unfold State.syncFinish
  exact .ite (.ite h.onInflight.wake h.onInflight) h.finish

theorem endWaiter (h : KeepsLanes s₀ s) {tally : Bool} {w : WaitRec} {r : SyncRes} {v : DWord} :
    KeepsLanes s₀ (s.endWaiter tally w r v) := by
  unfold State.endWaiter
  split
  · exact h.gotIt.syncGang
  · exact h.syncFinish

theorem serveTally (h : KeepsLanes s₀ s) {i : Nat} : KeepsLanes s₀ (s.serveTally i) := by
  unfold State.serveTally
  exact h.onTally.foldl fun _ _ ht => ht.endWaiter

theorem serveSemN (h : KeepsLanes s₀ s) {i k : Nat} : KeepsLanes s₀ (s.serveSemN i k) := by
  induction k generalizing s with
  | zero => exact h
  | succ k ih =>
    unfold State.serveSemN
    dsimp only
    split
    · exact h
    · exact .ite (ih h.onSem.endWaiter) h

theorem serveSem (h : KeepsLanes s₀ s) {i : Nat} : KeepsLanes s₀ (s.serveSem i) := h.serveSemN

/-! ### Objects that end -/

theorem lastWord (h : KeepsLanes s₀ s) {p f w : Nat} {v : DWord} : KeepsLanes s₀ (s.lastWord p f w v) := h.onObj.emit

theorem endBindings (h : KeepsLanes s₀ s) {k : Nat} : KeepsLanes s₀ (s.endBindings k) := by
  unfold State.endBindings
  exact h.onObj.foldl fun _ _ ht => ht.lastWord

theorem finalUpdate (h : KeepsLanes s₀ s) {k : Nat} : KeepsLanes s₀ (s.finalUpdate k) := by
  unfold State.finalUpdate
  refine h.onObj.foldl fun t i ht => ?_
  refine .ite (ht.foldl fun u e hu => ?_) ht.nextMsgId.sendMsg
  split
  · exact .ite hu.onTally.serveTally.logOcc hu
  · exact hu

theorem destroyObj (h : KeepsLanes s₀ s) {k : Nat} : KeepsLanes s₀ (s.destroyObj k) := by
  unfold State.destroyObj
  refine onObjAt ?_
  split
  · exact .ite h.dropLines h.dropLines.onPart.onMem
  · exact .ite h.finalUpdate.endBindings.onTally h.finalUpdate.endBindings
  · exact h

theorem freezeObj (h : KeepsLanes s₀ s) {k : Nat} {tag : Word} : KeepsLanes s₀ (s.freezeObj k tag) := h.onObjAt.mismatch

theorem freezeBad (h : KeepsLanes s₀ s) {ks : List Nat} {tag : Word} : KeepsLanes s₀ (s.freezeBad ks tag) :=
  h.foldl fun _ _ ht => ht.freezeObj

theorem releaseRef (h : KeepsLanes s₀ s) {k : Nat} {f : Obj → Obj} {tag : Word} : KeepsLanes s₀ (s.releaseRef k f tag).1 := by
  unfold State.releaseRef
  dsimp only
  split
  · exact h
  · split
    · exact h.freezeObj
    · split
      · exact h
      · exact h.onObjAt

theorem releaseMapping (h : KeepsLanes s₀ s) {m : Mapping} {p : Nat} : KeepsLanes s₀ (s.releaseMapping m p) := by
  unfold State.releaseMapping
  split
  · exact h.releaseRef
  · exact h

theorem unmapRange (h : KeepsLanes s₀ s) {c va n : Nat} : KeepsLanes s₀ (s.unmapRange c va n) := by
  unfold State.unmapRange
  refine h.onCtx.nearDropRange.onMem.foldl fun t m ht => releaseMapping ?_
  split
  · exact .ite ht.dropLines ht.dropLines
  · exact ht

theorem runUnmap (h : KeepsLanes s₀ s) {p : Packet} : KeepsLanes s₀ (s.runUnmap p) := by
  unfold State.runUnmap
  exact .ite h.finish (.ite h.freezeBad.finish (.ite h.unmapRange.finish h.finish))

theorem closeRun (h : KeepsLanes s₀ s) {k : Nat} : KeepsLanes s₀ (s.closeRun k) := by
  unfold State.closeRun
  dsimp only
  split
  · exact h.onObjAt
  · exact h

theorem releaseCreation (h : KeepsLanes s₀ s) {k : Nat} : KeepsLanes s₀ (s.releaseCreation k) := .ite h.releaseRef h

/-! ### Gangs, blocks and launches that end -/

theorem dropWaiters (h : KeepsLanes s₀ s) {g : Nat} : KeepsLanes s₀ (s.dropWaiters g) := by
  unfold State.dropWaiters
  exact h.onSync.foldl fun _ _ ht => ht.serveSem

theorem abandonAt (h : KeepsLanes s₀ s) {i g : Nat} : KeepsLanes s₀ (s.abandonAt i g) := by
  unfold State.abandonAt
  dsimp only
  split
  · exact h
  · exact .ite h.onSem (serveSem (onSem (.ite h.syncLog h)))

theorem abandon (h : KeepsLanes s₀ s) {g : Nat} : KeepsLanes s₀ (s.abandon g) := h.foldl fun _ _ ht => ht.abandonAt

theorem removeGang (h : KeepsLanes s₀ s) {g : Nat} : KeepsLanes s₀ (s.removeGang g) := by
  unfold State.removeGang
  exact h.dropWaiters.abandon.onCim.onCoreAt.onMem.dropGang

theorem removeBlock (h : KeepsLanes s₀ s) {k : Nat} : KeepsLanes s₀ (s.removeBlock k) := by
  unfold State.removeBlock
  have hg : KeepsLanes s₀ ((s.blk k).gangs.foldl
      (fun t g => if (t.gang g).live ∧ (t.gang g).block = k then t.removeGang g else t) s) :=
    h.foldl fun _ _ ht => .ite ht.removeGang ht
  exact hg.onCoreAt.onCore fun _ => rfl

theorem closeAmax (h : KeepsLanes s₀ s) {l : Launch} : KeepsLanes s₀ (s.closeAmax l) := h.foldl fun _ _ ht => ht.closeStream

theorem endLaunch (h : KeepsLanes s₀ s) {n st r d : Nat} : KeepsLanes s₀ (s.endLaunch n st r d) := by
  unfold State.endLaunch
  exact h.closeAmax.onWork.finish

/-! ### Contexts that end -/

theorem dropWork (h : KeepsLanes s₀ s) {pid : Nat} : KeepsLanes s₀ (s.dropWork pid) := by
  unfold State.dropWork
  extract_lets t
  have ht : KeepsLanes s₀ t := by
    unfold t
    split
    · exact .ite h.closeStream h
    · exact h
  exact ht.of_gang rfl

theorem dropPacketWaiter (h : KeepsLanes s₀ s) {pid : Nat} : KeepsLanes s₀ (s.dropPacketWaiter pid) := by
  unfold State.dropPacketWaiter
  exact h.onSync.foldl fun _ _ ht => ht.serveSem

theorem stopContext (h : KeepsLanes s₀ s) {c : Nat} : KeepsLanes s₀ (s.stopContext c) := by
  unfold State.stopContext
  refine onCtx (onMem (foldl (foldl (onCore (foldl h ?_) ?_) ?_) ?_))
  · exact fun t n ht => ht.foldl fun _ _ hu => hu.removeBlock
  · exact fun _ => rfl
  · exact fun t n ht => ht.endLaunch
  · exact fun t pid ht => ht.dropWork.dropPacketWaiter.finish

theorem cancelWhere (h : KeepsLanes s₀ s) {qs : List QueueId} {sel : Packet → Bool} : KeepsLanes s₀ (s.cancelWhere qs sel) := by
  unfold State.cancelWhere
  exact h.foldl fun _ _ ht => onQueue (ht.foldl fun _ _ hu => hu.refuse)

theorem endContext (h : KeepsLanes s₀ s) {c : Nat} : KeepsLanes s₀ (s.endContext c) := by
  unfold State.endContext
  refine releaseCreation (onObjAt (onCtx (onMem (foldl (unmapRange (foldl h.cancelWhere.stopContext ?_)) ?_))))
  · exact fun t k ht => ht.closeRun
  · exact fun t k ht => ht.releaseCreation

/-! ### What settles with every command -/

theorem startPacket (h : KeepsLanes s₀ s) {i : Inflight} : KeepsLanes s₀ (s.startPacket i) := by
  unfold State.startPacket
  dsimp only
  have ht : KeepsLanes s₀ (s.onInflight i.pkt.pid fun x => { x with started := true }) := h.onInflight
  split
  · exact ht.finish
  · exact ht.runUnmap
  · exact .ite ht.finish (.ite ht.freezeBad.finish ht.endContext.finish)
  · exact ht

theorem startAll (h : KeepsLanes s₀ s) {k : Nat} : KeepsLanes s₀ (State.startAll k s) := by
  induction k generalizing s with
  | zero => exact h
  | succ k ih =>
    unfold State.startAll
    split
    · exact h
    · exact ih h.startPacket

theorem sliceDown (h : KeepsLanes s₀ s) {n : Nat} {st : SliceSt} : KeepsLanes s₀ (s.sliceDown n st) := by
  have hn : KeepsLanes s₀ (s.napCores n) := h.foldl fun _ _ ht => ht.dropCaches
  have hl : KeepsLanes s₀ ((s.napCores n).l2Empty (dieOf n) fun w _ => w / 4 == n % 4) :=
    onMem (hn.foldl fun _ _ ht => ht.giveUp)
  have ho : KeepsLanes s₀ ((s.napCores n).dropL2 n) := .ite hl.onMem hl
  exact pllFollow (onSlice (.ite ho hn))

theorem endPrewake (h : KeepsLanes s₀ s) {pid : Nat} : KeepsLanes s₀ (s.endPrewake pid) := by
  refine h.foldl fun t n ht => .ite ?_ ht
  unfold State.leavePrewake
  split
  · exact ht
  · exact .ite ht.onSlice ht.onSlice.sliceDown

theorem dropPrewakes (h : KeepsLanes s₀ s) : KeepsLanes s₀ s.dropPrewakes := h.foldl fun _ _ ht => .ite ht ht.endPrewake

theorem freezeMaps (h : KeepsLanes s₀ s) : KeepsLanes s₀ s.freezeMaps :=
  h.foldl fun _ _ ht => .ite ht ht.onPart.logOcc.raiseVf

theorem pldmWatch (h : KeepsLanes s₀ s) : KeepsLanes s₀ s.pldmWatch := by
  unfold State.pldmWatch
  split
  · exact h
  · refine h.foldl fun t id ht => ?_
    split
    · exact ht
    · exact .ite ht ht.onMgmt.pldmEvent

theorem settle (h : KeepsLanes s₀ s) : KeepsLanes s₀ s.settle := by
  have ht : KeepsLanes s₀ (s.startAll s.q.inflight.length) := h.startAll
  exact (ht.foldl fun _ _ hu => hu.destroyObj).dropPrewakes.freezeMaps.pldmWatch

end KeepsLanes

/-! ### Two blocks of one rank -/

/-- Two live blocks of one launch, cluster and rank, the later one first in the table; the word at offset 0 of the local
memory of block 1 is 7, that of block 2 is 9. Gang 0 of block 1 may issue with lane 0. -/
def sameRank : State :=
  { State.reset with
    pwr := { dev := .awake, slice := [(0, { st := .run })] }
    obj := { ctx := [(objKey 0 1, { st := .live })] }
    work := { launch := [(1, { live := true, ctx := objKey 0 1, regs := 8, locSize := 65536 })] }
    core :=
      { core := [(0, { loc := [(1 * 2 ^ 18, 7), (1 * 2 ^ 18 + 1, 0), (1 * 2 ^ 18 + 2, 0), (1 * 2 ^ 18 + 3, 0),
                               (2 * 2 ^ 18, 9), (2 * 2 ^ 18 + 1, 0), (2 * 2 ^ 18 + 2, 0), (2 * 2 ^ 18 + 3, 0)] })]
        block := [(2, { live := true, launch := 1 }), (1, { live := true, launch := 1, gangs := [0] })]
        gang := [(0, { live := true, block := 1, active := 1 })] } }

/-- The state after an atomic add by gang 0 on cluster address 0, its result to register 5. -/
def sameRankAfter : State :=
  match exec (.atomC 0 .add 5 1 2 2) sameRank with
  | .next t => t
  | _ => {}

/-- The atomic reads block 1: the mark that its gang has issued put the block before block 2. -/
theorem sameRankAfter_lanes : (sameRankAfter.gang 0).v = [(160, 7)] := by decide

/-- Before it issues, rank 0 of its cluster is block 2. -/
theorem sameRank_peer : sameRank.peer 0 (((sameRank.gang 0).vReg 1 0).toNat / 2 ^ 18) = some 2 := by decide

theorem sameRank_word :
    BitVec.ofNat 32 (ofLe ((sameRank.localRead 2 (((sameRank.gang 0).vReg 1 0).toNat % 2 ^ 18) 4).map Prod.fst)) = 9 := by
  decide

/-- Refutes O33: the block table of a state need not be in ascending order, nor its ranks differ. In `sameRank` the block of
rank 0 is block 2 until the gang's block is marked as started, and block 1 when the atomic reads. -/
theorem not_clusterInstructions : ¬ Obligations.ClusterInstructions := by
  unfold Obligations.ClusterInstructions
  rintro ⟨_, _, hatomic, _⟩
  obtain ⟨u, hexec, hold, _, _⟩ := hatomic sameRank 0 .add 5 1 2 2 0 2 [] (by decide) (by decide) (by decide) (by decide)
    (by decide) (by decide) (by decide) (by decide) (by decide) sameRank_peer
  have hafter : sameRankAfter = u.settle := by rw [sameRankAfter, hexec]
  have hlanes : (u.settle.gang 0).v = [(160, 7)] := hafter ▸ sameRankAfter_lanes
  rw [sameRank_word] at hold
  obtain hsame | hgone := (KeepsLanes.refl u).settle 0
  · have hread : (u.gang 0).vReg 5 0 = 7 := by
      rw [Gang.vReg, ← hsame, hlanes]
      rfl
    exact absurd (hread.symm.trans hold) (by decide)
  · exact absurd (hlanes.symm.trans hgone) (List.cons_ne_nil _ _)

end Sys2Proof.Machine
end
